-- ==== Sys2Proof/Word.lean ====
section
/-!
DEFINITION. The plain word types of the Lutrum Drasin: 64-bit scalar registers, 32-bit lanes, lane masks
(spec/02 R52), the 54-bit code and data addresses (spec/07 R215, spec/15 R407) and the 8-bit bytes of memory.
-/

namespace Sys2Proof

/-- A scalar register or an instruction word (spec/02 R52, spec/03 R69). -/
abbrev Word := BitVec 64

/-- One lane of a vector register (spec/02 R52). -/
abbrev Lane := BitVec 32

/-- A mask of 32 lanes, bit n for plane n (spec/02 R52). -/
abbrev Mask := BitVec 32

/-- A byte of memory. -/
abbrev Byte := BitVec 8

/-- A 54-bit address: a code address (spec/15 R407) or a device virtual address (spec/07 R215). -/
abbrev Addr := BitVec 54

end Sys2Proof
end

