-- ==== Sys2Proof/Config.lean ====
section
/-!
DEFINITION. What the spec leaves to the implementation or leaves open, as constants with no body: nothing can be
proved about their values, so a claim that mentions one holds whatever it is.
-/

namespace Sys2Proof.Config

/-- Which of the turns that may come next is taken (spec/95: steps interleave; spec/00 R10): applied to the
counter `fresh` of the state (log entry 3). -/
opaque choice : Nat → Nat

/-- A byte that an agent outside the device supplies (host memory, a peer device, spec/20 R484), applied to the
counter `fresh` (log entry 10). -/
opaque freeByte : Nat → Byte

/-- A word the spec gives no value to, applied to the counter `fresh` (log entry 10). -/
opaque freeWord : Nat → Word

/-- The result the special-function pipe proposes, from the function's number, the number of exponent and mantissa bits
and the operand; the machine delivers it when it keeps within the bound of spec/05 R155 (log entry 11). -/
opaque special : Nat → Nat → Nat → Nat → Nat

end Sys2Proof.Config
end

