-- ==== Sys2Proof/Syntax.lean ====
section
/-!
DEFINITION. The instruction set of the Lutrum Drasin as data: one constructor of `Instr` for each row of
spec/opcode_table.json. The rows that are instruction words carry their frame, operands and modifiers
(spec/03 R69 to R85); the rows that are events of engines, firmware, ports or the host carry nothing, and
their operands stand in the state's event latch (log entry 1).
-/

namespace Sys2Proof

/-- The frame fields of a word beside FORM and BODY (spec/03 R69). -/
structure Hdr where
  stall : BitVec 3
  neg : Bool
  pred : BitVec 4
  deriving DecidableEq, Repr, Inhabited

/-- An operand field (spec/03 R73 to R75). `none` is an unused field (code 0x00, R72). -/
inductive Opnd where
  | none
  | v (n : BitVec 7)
  | g (n : BitVec 6)
  | a (n : BitVec 4)
  | p (n : BitVec 4)
  | slice
  | ext
  | short
  | plane
  | const (n : BitVec 4)
  deriving DecidableEq, Repr, Inhabited

/-- The operands every full or wide word has: the frame, DST, SRCA, SRCB, and the extension word of a wide
word (spec/03 R72, R79). -/
structure Ops where
  h : Hdr
  d : Opnd
  a : Opnd
  b : Opnd
  x : Option Word
  deriving DecidableEq, Repr, Inhabited

/-- Rounding modes (spec/03 R77, spec/04 R116). -/
inductive RM where
  | rne | rtz | rdn | rup | rna | sr
  deriving DecidableEq, Repr, Inhabited

/-- Operand types (spec/03 R77). -/
inductive Ty where
  | i32 | n32 | i64 | n64 | f32 | f16x2 | bf16x2
  deriving DecidableEq, Repr, Inhabited

/-- The common MOD layout (spec/03 R77). -/
structure AluMod where
  rm : RM
  ty : Ty
  imm : BitVec 14
  deriving DecidableEq, Repr, Inhabited

/-- The tile-slice MOD layout (spec/03 R78). -/
structure SliceMod where
  col : Bool
  idx : BitVec 6
  off : BitVec 7
  tile : BitVec 4
  deriving DecidableEq, Repr, Inhabited

/-- The conversion MOD layout; DF and SF are conversion type codes (spec/04 R124). -/
structure CnvMod where
  rm : RM
  df : BitVec 5
  sf : BitVec 5
  sat : Bool
  pos : BitVec 6
  deriving DecidableEq, Repr, Inhabited

/-- The cross-lane MOD layout (spec/05 R159). -/
structure XlMod where
  ty : Ty
  fs : Bool
  mode : BitVec 3
  arg : BitVec 10
  deriving DecidableEq, Repr, Inhabited

/-- The exact-sum MOD layout (spec/05 R168). -/
structure XsMod where
  rm : RM
  ty : Ty
  xd : BitVec 2
  xs : BitVec 2
  sp : Bool
  deriving DecidableEq, Repr, Inhabited

/-- The matrix MOD layout (spec/06 R183). -/
structure MxMod where
  aw : Bool
  bw : Bool
  sel : BitVec 2
  mbk : BitVec 4
  rm : RM
  sat : Bool
  deriving DecidableEq, Repr, Inhabited

/-- The memory MOD layout (spec/09 R271). -/
structure MemMod where
  w : BitVec 3
  sx : Bool
  mark : BitVec 2
  obs : BitVec 7
  sc : BitVec 3
  deriving DecidableEq, Repr, Inhabited

/-- The atomic MOD layout (spec/09 R279). -/
structure AtMod where
  op : BitVec 4
  mark : BitVec 2
  obs : BitVec 7
  ty : Ty
  sc : BitVec 3
  deriving DecidableEq, Repr, Inhabited

/-- The fence MOD layout (spec/09 R286). -/
structure FnMod where
  obs : BitVec 7
  lve : Bool
  lv : BitVec 3
  deriving DecidableEq, Repr, Inhabited

/-- The MOD layout of the copies, collectives and tag waits (spec/09 R288). -/
structure CpyMod where
  dw : Bool
  sw : Bool
  tag : BitVec 6
  deriving DecidableEq, Repr, Inhabited

/-- The MOD layout of `CPYM` (spec/09 R288). -/
structure CpmMod where
  aw : Bool
  bw : Bool
  sp : Bool
  sel : BitVec 2
  mbk : BitVec 4
  sat : Bool
  role : Bool
  tile : BitVec 4
  tp : BitVec 5
  deriving DecidableEq, Repr, Inhabited

/-- The queue MOD layout (spec/11 R364). -/
structure QMod where
  q : BitVec 4
  imm : BitVec 14
  deriving DecidableEq, Repr, Inhabited

/-- The barrier MOD layout (spec/11 R369). -/
structure BarMod where
  gl : BitVec 3
  deriving DecidableEq, Repr, Inhabited

/-- The transaction MOD layout (spec/11 R341). -/
structure TxMod where
  imm : BitVec 14
  deriving DecidableEq, Repr, Inhabited

/-- The check MOD layout (spec/15 R424). -/
structure ChkMod where
  z : BitVec 4
  imm : BitVec 14
  deriving DecidableEq, Repr, Inhabited

/-- The system MOD layouts, all within the low eight bits (spec/18 R458). -/
structure SysMod where
  n : BitVec 8
  deriving DecidableEq, Repr, Inhabited

/-- The scalar integer operations, in offset order (spec/05 R143). -/
inductive SOp where
  | add | sub | mul | mulh | shl | shr | sar | rol | ror | and | or | xor | andn | not | min | max
  | abs | neg | div | rem | clz | ctz | popc | brev | cmp | bfx | bfi | mov
  deriving DecidableEq, Repr, Inhabited

/-- The vector integer operations, in offset order (spec/05 R147). -/
inductive VIOp where
  | add | sub | mul | cmp | mulh | mad | shl | shr | sar | and | or | xor | andn | not | min | max
  | abs | neg | adds | subs | div | rem | clz | popc | brev | sel | bfx | bfi | mov | sad
  deriving DecidableEq, Repr, Inhabited

/-- The vector float operations, in offset order (spec/05 R151). -/
inductive VFOp where
  | add | sub | mul | fma | cmp | fms | fnma | fnms | min | max | minn | maxn | minm | maxm
  | abs | neg | cpsgn | div | sel | mov | dot2 | clamp | abd | lerp
  deriving DecidableEq, Repr, Inhabited

/-- The special functions, in offset order (spec/05 R155). -/
inductive SFOp where
  | rcp | rsq | sqrt | exp2 | log2 | sin | cos | tanh | sigm
  deriving DecidableEq, Repr, Inhabited

/-- What a half of a paired word does: the pair opcode with its M4 field (spec/03 R82 to R85, R93, spec/04
R132, spec/05 R166). -/
inductive HalfOp where
  | nop
  | si (o : SOp) (t : Ty)
  | vi (o : VIOp) (t : Ty)
  | vf (o : VFOp) (t : Ty) (r : RM)
  | sf (o : SFOp) (t : Ty) (r : RM)
  | cvt (m : BitVec 4)
  | scaleb (t : Ty) (r : RM)
  | shfl (down : Bool) (lg : BitVec 3)
  | vote (mode : BitVec 2)
  deriving DecidableEq, Repr, Inhabited

/-- One half of a paired word (spec/03 R82). -/
structure Half where
  op : HalfOp
  d : Opnd
  s : Opnd
  deriving DecidableEq, Repr, Inhabited

/-- One constructor for each row of spec/opcode_table.json. The words come first, in the order of their
opcodes (spec/03 R92), then the events in the table's order. -/
inductive Instr where
  | nop (w : Ops) (m : AluMod)
  | bra (w : Ops) (m : AluMod)
  | brc (w : Ops) (m : AluMod)
  | brv (w : Ops) (m : AluMod)
  | join (w : Ops) (m : AluMod)
  | call (w : Ops) (m : AluMod)
  | ret (w : Ops) (m : AluMod)
  | jmpt (w : Ops) (m : AluMod)
  | recast (w : Ops) (m : AluMod)
  | yield (w : Ops) (m : AluMod)
  | launch (w : Ops) (m : AluMod)
  | exit (w : Ops) (m : AluMod)
  | add (w : Ops) (m : AluMod)
  | sub (w : Ops) (m : AluMod)
  | mul (w : Ops) (m : AluMod)
  | mulh (w : Ops) (m : AluMod)
  | shl (w : Ops) (m : AluMod)
  | shr (w : Ops) (m : AluMod)
  | sar (w : Ops) (m : AluMod)
  | rol (w : Ops) (m : AluMod)
  | ror (w : Ops) (m : AluMod)
  | and (w : Ops) (m : AluMod)
  | or (w : Ops) (m : AluMod)
  | xor (w : Ops) (m : AluMod)
  | andn (w : Ops) (m : AluMod)
  | not (w : Ops) (m : AluMod)
  | min (w : Ops) (m : AluMod)
  | max (w : Ops) (m : AluMod)
  | abs (w : Ops) (m : AluMod)
  | neg (w : Ops) (m : AluMod)
  | div (w : Ops) (m : AluMod)
  | rem (w : Ops) (m : AluMod)
  | clz (w : Ops) (m : AluMod)
  | ctz (w : Ops) (m : AluMod)
  | popc (w : Ops) (m : AluMod)
  | brev (w : Ops) (m : AluMod)
  | cmp (w : Ops) (m : AluMod)
  | bfx (w : Ops) (m : AluMod)
  | bfi (w : Ops) (m : AluMod)
  | mov (w : Ops) (m : AluMod)
  | vaddInt (w : Ops) (m : AluMod)
  | vsubInt (w : Ops) (m : AluMod)
  | vmulInt (w : Ops) (m : AluMod)
  | vcmpInt (w : Ops) (m : AluMod)
  | vmulh (w : Ops) (m : AluMod)
  | vmad (w : Ops) (m : AluMod)
  | vshl (w : Ops) (m : AluMod)
  | vshr (w : Ops) (m : AluMod)
  | vsar (w : Ops) (m : AluMod)
  | vand (w : Ops) (m : AluMod)
  | vor (w : Ops) (m : AluMod)
  | vxor (w : Ops) (m : AluMod)
  | vandn (w : Ops) (m : AluMod)
  | vnot (w : Ops) (m : AluMod)
  | vminInt (w : Ops) (m : AluMod)
  | vmaxInt (w : Ops) (m : AluMod)
  | vabsInt (w : Ops) (m : AluMod)
  | vnegInt (w : Ops) (m : AluMod)
  | vadds (w : Ops) (m : AluMod)
  | vsubs (w : Ops) (m : AluMod)
  | vdivInt (w : Ops) (m : AluMod)
  | vrem (w : Ops) (m : AluMod)
  | vclz (w : Ops) (m : AluMod)
  | vpopc (w : Ops) (m : AluMod)
  | vbrev (w : Ops) (m : AluMod)
  | vselInt (w : Ops) (m : AluMod)
  | vbfx (w : Ops) (m : AluMod)
  | vbfi (w : Ops) (m : AluMod)
  | vmovInt (w : Ops) (m : AluMod)
  | vsad (w : Ops) (m : AluMod)
  | vaddFloat (w : Ops) (m : AluMod)
  | vsubFloat (w : Ops) (m : AluMod)
  | vmulFloat (w : Ops) (m : AluMod)
  | vfma (w : Ops) (m : AluMod)
  | vcmpFloat (w : Ops) (m : AluMod)
  | vfms (w : Ops) (m : AluMod)
  | vfnma (w : Ops) (m : AluMod)
  | vfnms (w : Ops) (m : AluMod)
  | vminFloat (w : Ops) (m : AluMod)
  | vmaxFloat (w : Ops) (m : AluMod)
  | vminn (w : Ops) (m : AluMod)
  | vmaxn (w : Ops) (m : AluMod)
  | vminm (w : Ops) (m : AluMod)
  | vmaxm (w : Ops) (m : AluMod)
  | vabsFloat (w : Ops) (m : AluMod)
  | vnegFloat (w : Ops) (m : AluMod)
  | vcpsgn (w : Ops) (m : AluMod)
  | vdivFloat (w : Ops) (m : AluMod)
  | vselFloat (w : Ops) (m : AluMod)
  | vmovFloat (w : Ops) (m : AluMod)
  | vdot2 (w : Ops) (m : AluMod)
  | vclamp (w : Ops) (m : AluMod)
  | vabd (w : Ops) (m : AluMod)
  | vlerp (w : Ops) (m : AluMod)
  | vrcp (w : Ops) (m : AluMod)
  | vrsq (w : Ops) (m : AluMod)
  | vsqrt (w : Ops) (m : AluMod)
  | vexp2 (w : Ops) (m : AluMod)
  | vlog2 (w : Ops) (m : AluMod)
  | vsin (w : Ops) (m : AluMod)
  | vcos (w : Ops) (m : AluMod)
  | vtanh (w : Ops) (m : AluMod)
  | vsigm (w : Ops) (m : AluMod)
  | cvt (w : Ops) (m : CnvMod)
  | pack (w : Ops) (m : CnvMod)
  | unpack (w : Ops) (m : CnvMod)
  | scaleb (w : Ops) (m : CnvMod)
  | rint (w : Ops) (m : CnvMod)
  | fcls (w : Ops) (m : CnvMod)
  | getexp (w : Ops) (m : CnvMod)
  | mxscl (w : Ops) (m : CnvMod)
  | shfl (w : Ops) (m : XlMod)
  | bcast (w : Ops) (m : XlMod)
  | vote (w : Ops) (m : XlMod)
  | pscan (w : Ops) (m : XlMod)
  | matchLanes (w : Ops) (m : XlMod)
  | redl (w : Ops) (m : XlMod)
  | elect (w : Ops) (m : XlMod)
  | lrd (w : Ops) (m : XlMod)
  | lwr (w : Ops) (m : XlMod)
  | pcnt (w : Ops) (m : XlMod)
  | xclr (w : Ops) (m : XsMod)
  | xadd (w : Ops) (m : XsMod)
  | xsub (w : Ops) (m : XsMod)
  | xdot (w : Ops) (m : XsMod)
  | xrnd (w : Ops) (m : XsMod)
  | xld (w : Ops) (m : XsMod)
  | xst (w : Ops) (m : XsMod)
  | xmrg (w : Ops) (m : XsMod)
  | tcfg (w : Ops) (m : MxMod)
  | tzero (w : Ops) (m : MxMod)
  | tld (w : Ops) (m : MxMod)
  | tst (w : Ops) (m : MxMod)
  | tlds (w : Ops) (m : MxMod)
  | tsts (w : Ops) (m : MxMod)
  | mma (w : Ops) (m : MxMod)
  | mmap (w : Ops) (m : MxMod)
  | mmas (w : Ops) (m : MxMod)
  | mmasp (w : Ops) (m : MxMod)
  | trd (w : Ops) (m : SliceMod)
  | twr (w : Ops) (m : SliceMod)
  | tmov (w : Ops) (m : MxMod)
  | tadd (w : Ops) (m : MxMod)
  | tscal (w : Ops) (m : MxMod)
  | tamax (w : Ops) (m : MxMod)
  | tstq (w : Ops) (m : MxMod)
  | tinfo (w : Ops) (m : MxMod)
  | ld (w : Ops) (m : MemMod)
  | st (w : Ops) (m : MemMod)
  | vld (w : Ops) (m : MemMod)
  | vst (w : Ops) (m : MemMod)
  | vldx (w : Ops) (m : MemMod)
  | vstx (w : Ops) (m : MemMod)
  | vldp (w : Ops) (m : MemMod)
  | vstp (w : Ops) (m : MemMod)
  | pf (w : Ops) (m : MemMod)
  | vlds (w : Ops) (m : MemMod)
  | vsts (w : Ops) (m : MemMod)
  | vldxp (w : Ops) (m : MemMod)
  | vstxp (w : Ops) (m : MemMod)
  | ldp (w : Ops) (m : MemMod)
  | stp (w : Ops) (m : MemMod)
  | vldu (w : Ops) (m : MemMod)
  | vldc (w : Ops) (m : MemMod)
  | vstc (w : Ops) (m : MemMod)
  | pfx (w : Ops) (m : MemMod)
  | lwb (w : Ops) (m : MemMod)
  | linv (w : Ops) (m : MemMod)
  | vldf (w : Ops) (m : MemMod)
  | vldfp (w : Ops) (m : MemMod)
  | vstf (w : Ops) (m : MemMod)
  | amo (w : Ops) (m : AtMod)
  | vamo (w : Ops) (m : AtMod)
  | red (w : Ops) (m : AtMod)
  | vred (w : Ops) (m : AtMod)
  | cas (w : Ops) (m : AtMod)
  | vcas (w : Ops) (m : AtMod)
  | cas2 (w : Ops) (m : AtMod)
  | amop (w : Ops) (m : AtMod)
  | vamop (w : Ops) (m : AtMod)
  | vredp (w : Ops) (m : AtMod)
  | fence (w : Ops) (m : FnMod)
  | fencex (w : Ops) (m : FnMod)
  | flushu (w : Ops) (m : FnMod)
  | cpy (w : Ops) (m : CpyMod)
  | cpy2d (w : Ops) (m : CpyMod)
  | cpym (w : Ops) (m : CpmMod)
  | cpys (w : Ops) (m : CpyMod)
  | cwany (w : Ops) (m : CpyMod)
  | cwall (w : Ops) (m : CpyMod)
  | cffr (w : Ops) (m : CpyMod)
  | coll (w : Ops) (m : CpyMod)
  | cfill (w : Ops) (m : CpyMod)
  | cgrp (w : Ops) (m : CpyMod)
  | qinit (w : Ops) (m : QMod)
  | qpush (w : Ops) (m : QMod)
  | qpop (w : Ops) (m : QMod)
  | qallow (w : Ops) (m : QMod)
  | qlen (w : Ops) (m : QMod)
  | bar (w : Ops) (m : BarMod)
  | bara (w : Ops) (m : BarMod)
  | barw (w : Ops) (m : BarMod)
  | txb (w : Ops) (m : TxMod)
  | txe (w : Ops) (m : TxMod)
  | txelse (w : Ops) (m : TxMod)
  | retry (w : Ops) (m : TxMod)
  | txabt (w : Ops) (m : TxMod)
  | txwatch (w : Ops) (m : TxMod)
  | chkb (w : Ops) (m : ChkMod)
  | chkn (w : Ops) (m : ChkMod)
  | chka (w : Ops) (m : ChkMod)
  | chki (w : Ops) (m : ChkMod)
  | chkl (w : Ops) (m : ChkMod)
  | chkt (w : Ops) (m : ChkMod)
  | chkr (w : Ops) (m : ChkMod)
  | chkp (w : Ops) (m : ChkMod)
  | qfeat (w : Ops) (m : SysMod)
  | trap (w : Ops) (m : SysMod)
  | hret (w : Ops) (m : SysMod)
  | fltrd (w : Ops) (m : SysMod)
  | mapf (w : Ops) (m : SysMod)
  | sealreq (w : Ops) (m : SysMod)
  | movs (w : Ops) (m : SysMod)
  | hskip (w : Ops) (m : SysMod)
  | hfail (w : Ops) (m : SysMod)
  | mapq (w : Ops) (m : SysMod)
  | unmapf (w : Ops) (m : SysMod)
  | gnote (w : Ops) (m : SysMod)
  | pairedWord (h : Hdr) (hi lo : Half)
  | illegalWord (w : Word)
  | matrixQueueExecute
  | pitchPartStart
  | deferredEngineTrap
  | copyComplete
  | cpymFollowOnEnqueue
  | groupFormed
  | collectiveComplete
  | collectiveTimeout
  | memberReattest
  | slugWake
  | regroupComplete
  | recastHoldExpiry
  | yieldExpiry
  | l1Eviction
  | hotnessSample
  | hostMemoryWrite
  | hostMemoryRead
  | peerRequest
  | queueEnable
  | queueDisable
  | queueBaseWrite
  | queuePolicyWrite
  | kick
  | packetStart
  | barrierPass
  | barrierTimeout
  | timedExpiry
  | launchChecksFinish
  | launchComplete
  | launchEndByFailure
  | ttEntryWrite
  | ttOccurrence
  | linkPlace
  | linkReserve
  | linkGo
  | linkPreempt
  | linkRestore
  | linkBound
  | linkDone
  | linkSaved
  | formeDispatch
  | granuleCleared
  | sliceEnd
  | preemptRequest
  | drainBudgetExpiry
  | mailboxDoorbell
  | pfForward
  | pfRefuse
  | mailboxTimeout
  | partitionGrow
  | clusterShrink
  | frameWithdraw
  | functionLevelReset
  | partitionDestroy
  | bandwidthRecordWrite
  | tokenRateRecompute
  | keySet
  | keyClear
  | lockInterfaceRequest
  | startInterfaceRequest
  | stopInterfaceRequest
  | hobjWrite
  | handlerLoadDone
  | hentryWrite
  | hsbaseWrite
  | hssizeWrite
  | hsrdWrite
  | hskWrite
  | ftbaseWrite
  | ftlenWrite
  | fttmplWrite
  | drainBudgetWrite
  | sliceBaseWrite
  | featureMaskWrite
  | poolCountWrite
  | barRegisterWrite
  | poisonDetect
  | portTagFailure
  | fabricRekey
  | coreRetire
  | lineRetire
  | frameMove
  | channelRetire
  | powerUpBoot
  | ptpDiscipline
  | telemetryRefresh
  | thermalAlarm
  | thermalShutdown
  | d3hotEntry
  | d0Return
  | portSessionRekey
  | spdmSessionSetup
  | partitionCreate
  deriving DecidableEq, Repr

end Sys2Proof
end

