-- ==== Sys2Proof/Machine/Float.lean ====
section
/-!
DEFINITION. Float values as exact dyadic numbers, the element formats, and rounding (spec/04 R107, R108, R116 to R120).
Every float result is computed exactly and rounded once; quotients and roots keep a sticky bit below the last bit that
any format holds.
-/

namespace Sys2Proof

/-- What the all-ones exponent means in a format: infinity and NaNs, one NaN code only, or ordinary values (R107). -/
inductive Specials where
  | ieee | nanOnly | none
  deriving DecidableEq, Repr, Inhabited

/-- A float element format (R107): exponent and mantissa widths, bias, special codes, and the unused low bits of its
container. -/
structure FFmt where
  ebits : Nat
  mbits : Nat
  bias : Nat
  sp : Specials
  pad : Nat
  deriving DecidableEq, Repr, Inhabited

namespace FFmt

def f32 : FFmt := ⟨8, 23, 127, .ieee, 0⟩
def e8m10 : FFmt := ⟨8, 10, 127, .ieee, 13⟩
def bf16 : FFmt := ⟨8, 7, 127, .ieee, 0⟩
def f16 : FFmt := ⟨5, 10, 15, .ieee, 0⟩
def e5m2 : FFmt := ⟨5, 2, 15, .ieee, 0⟩
def e4m3 : FFmt := ⟨4, 3, 7, .nanOnly, 0⟩
def e3m4 : FFmt := ⟨3, 4, 3, .none, 0⟩
def e3m2 : FFmt := ⟨3, 2, 3, .none, 0⟩
def e2m3 : FFmt := ⟨2, 3, 1, .none, 0⟩
def e2m1 : FFmt := ⟨2, 1, 1, .none, 0⟩

/-- The exponent of the last place of subnormals and of the least normal binade. -/
def qmin (f : FFmt) : Int := 1 - (f.bias : Int) - f.mbits

/-- The largest finite magnitude as a code without sign. -/
def maxCode (f : FFmt) : Nat :=
  match f.sp with
  | .ieee => (2 ^ f.ebits - 1) * 2 ^ f.mbits - 1
  | .nanOnly => 2 ^ (f.ebits + f.mbits) - 2
  | .none => 2 ^ (f.ebits + f.mbits) - 1

/-- The code of infinity without sign. -/
def infCode (f : FFmt) : Nat := (2 ^ f.ebits - 1) * 2 ^ f.mbits

/-- The sign bit's place value. -/
def signBit (f : FFmt) : Nat := 2 ^ (f.ebits + f.mbits)

/-- The canonical NaN (R118), before padding; a format without NaN delivers +0 (R117). -/
def nanCode (f : FFmt) : Nat :=
  match f.sp with
  | .ieee => f.infCode + 2 ^ (f.mbits - 1)
  | .nanOnly => 2 ^ (f.ebits + f.mbits) - 1
  | .none => 0

end FFmt

/-- A float value, exactly: `fin neg m e` is (−1)^neg × m × 2^e, with a signed zero for m = 0. -/
inductive FVal where
  | nan
  | inf (neg : Bool)
  | fin (neg : Bool) (m : Nat) (e : Int)
  deriving DecidableEq, Repr, Inhabited

namespace FVal

/-- +0. -/
def zero : FVal := .fin false 0 0

/-- The value of an integer. -/
def ofInt (x : Int) : FVal := .fin (decide (x < 0)) x.natAbs 0

/-- The value of an encoded element (R107). -/
def decode (f : FFmt) (bits : Nat) : FVal :=
  let b := bits / 2 ^ f.pad
  let neg := b / f.signBit % 2 == 1
  let mag := b % f.signBit
  let ex := mag / 2 ^ f.mbits
  let m := mag % 2 ^ f.mbits
  let allOnes := ex == 2 ^ f.ebits - 1
  if f.sp == .ieee && allOnes then (if m = 0 then .inf neg else .nan)
  else if f.sp == .nanOnly && mag == f.signBit - 1 then .nan
  else if ex = 0 then .fin neg m f.qmin
  else .fin neg (m + 2 ^ f.mbits) (f.qmin + ex - 1)

/-- The value with the opposite sign. -/
def neg : FVal → FVal
  | .nan => .nan
  | .inf s => .inf (!s)
  | .fin s m e => .fin (!s) m e

/-- The magnitude. -/
def abs : FVal → FVal
  | .nan => .nan
  | .inf _ => .inf false
  | .fin _ m e => .fin false m e

/-- The sign. -/
def sign : FVal → Bool
  | .nan => false
  | .inf s => s
  | .fin s _ _ => s

/-- A zero of either sign. -/
def isZero : FVal → Bool
  | .fin _ m _ => m == 0
  | _ => false

def isNan : FVal → Bool
  | .nan => true
  | _ => false

/-- A finite value as an integer multiple of 2^`e0`, for `e0` at most its exponent. -/
def scaled (s : Bool) (m : Nat) (e e0 : Int) : Int :=
  let k : Int := m * 2 ^ (e - e0).toNat
  if s then -k else k

/-- The exact sum; `rdn` gives an exact zero of unlike signs the minus sign (R116, IEEE 754-2019). -/
def add (rdn : Bool) (x y : FVal) : FVal :=
  match x, y with
  | .nan, _ => .nan
  | _, .nan => .nan
  | .inf s, .inf t => if s == t then .inf s else .nan
  | .inf s, .fin _ _ _ => .inf s
  | .fin _ _ _, .inf t => .inf t
  | .fin s m e, .fin t n f =>
    if m = 0 ∧ n = 0 then .fin (if s == t then s else rdn) 0 0
    else if m = 0 then .fin t n f
    else if n = 0 then .fin s m e
    else
      let e0 := min e f
      let k := scaled s m e e0 + scaled t n f e0
      if k = 0 then .fin rdn 0 0 else .fin (decide (k < 0)) k.natAbs e0

/-- The exact product. -/
def mul (x y : FVal) : FVal :=
  match x, y with
  | .nan, _ => .nan
  | _, .nan => .nan
  | .inf s, .inf t => .inf (s != t)
  | .inf s, .fin t n _ => if n = 0 then .nan else .inf (s != t)
  | .fin s m _, .inf t => if m = 0 then .nan else .inf (s != t)
  | .fin s m e, .fin t n f => .fin (s != t) (m * n) (e + f)

/-- The extra bits a quotient or root is carried to, beyond every format's mantissa. -/
def extra : Nat := 80

/-- The quotient, cut after `extra` bits with a sticky last bit. -/
def div (x y : FVal) : FVal :=
  match x, y with
  | .nan, _ => .nan
  | _, .nan => .nan
  | .inf _, .inf _ => .nan
  | .inf s, .fin t _ _ => .inf (s != t)
  | .fin s _ _, .inf t => .fin (s != t) 0 0
  | .fin s m e, .fin t n f =>
    if n = 0 then (if m = 0 then .nan else .inf (s != t))
    else if m = 0 then .fin (s != t) 0 0
    else
      let k := n.log2 + extra
      let q := m * 2 ^ k / n
      let r := m * 2 ^ k % n
      .fin (s != t) (2 * q + (if r = 0 then 0 else 1)) (e - f - k - 1)

/-- The integer square root, from bit `i` − 1 down. -/
def isqrt (n : Nat) : Nat → Nat → Nat
  | 0, r => r
  | i + 1, r => if (r + 2 ^ i) * (r + 2 ^ i) ≤ n then isqrt n i (r + 2 ^ i) else isqrt n i r

/-- The square root, cut with a sticky last bit. -/
def sqrt (x : FVal) : FVal :=
  match x with
  | .nan => .nan
  | .inf s => if s then .nan else .inf false
  | .fin s m e =>
    if m = 0 then .fin s 0 0
    else if s then .nan
    else
      let k := 2 * extra + (if (e % 2) = 0 then 0 else 1)
      let n := m * 2 ^ k
      let r := isqrt n (n.log2 / 2 + 1) 0
      .fin false (2 * r + (if r * r = n then 0 else 1)) ((e - k) / 2 - 1)

/-- The order of two numbers; `none` when one is a NaN. Zeros of either sign are equal. -/
def cmp (x y : FVal) : Option Ordering :=
  match x, y with
  | .nan, _ => none
  | _, .nan => none
  | .inf s, .inf t => some (if s == t then .eq else if s then .lt else .gt)
  | .inf s, .fin _ _ _ => some (if s then .lt else .gt)
  | .fin _ _ _, .inf t => some (if t then .gt else .lt)
  | .fin s m e, .fin t n f =>
    let e0 := min e f
    some (compare (scaled s m e e0) (scaled t n f e0))

/-! ## Rounding (R116, R117) -/

/-- Whether a magnitude between neighbours rounds away from zero: `rem` of `2^d` below an even or odd `k`. -/
def roundUp (mode : RM) (neg : Bool) (k rem d : Nat) : Bool :=
  match mode with
  | .rne => decide (2 * rem > 2 ^ d) || (2 * rem == 2 ^ d && k % 2 == 1)
  | .rna => decide (2 * rem ≥ 2 ^ d)
  | .rtz | .sr => false
  | .rdn => neg && decide (rem ≠ 0)
  | .rup => !neg && decide (rem ≠ 0)

/-- The code without sign of the magnitude k × 2^q, before the overflow test: codes run in order of magnitude. -/
def magCode (f : FFmt) (k : Nat) (q : Int) : Nat := (q - f.qmin).toNat * 2 ^ f.mbits + k

/-- The last place of the magnitude m × 2^e in the format. -/
def lastPlace (f : FFmt) (m : Nat) (e : Int) : Int := max (m.log2 + e - f.mbits) f.qmin

/-- What a magnitude beyond the largest finite one delivers, as a code without sign (R117). -/
def overflow (f : FFmt) (mode : RM) (neg sat : Bool) : Nat :=
  if sat || f.sp != .ieee then f.maxCode
  else match mode with
    | .rne | .rna | .sr => f.infCode
    | .rtz => f.maxCode
    | .rdn => if neg then f.infCode else f.maxCode
    | .rup => if neg then f.maxCode else f.infCode

/-- A value rounded into a format once, as the format's bits in its container (R116 to R118). -/
def round (f : FFmt) (mode : RM) (sat : Bool) (x : FVal) : Nat :=
  2 ^ f.pad * (match x with
    | .nan => f.nanCode
    | .inf s => (if s then f.signBit else 0) + (if f.sp == .ieee && !sat then f.infCode else f.maxCode)
    | .fin s m e =>
      (if s then f.signBit else 0) +
        (if m = 0 then 0
         else
          let q := lastPlace f m e
          let c :=
            if q ≤ e then magCode f (m * 2 ^ (e - q).toNat) q
            else
              let d := (q - e).toNat
              let k := m / 2 ^ d
              magCode f (if roundUp mode s k (m % 2 ^ d) d then k + 1 else k) q
          if c ≤ f.maxCode then c else overflow f mode s sat))

/-! ## Stochastic rounding (R119, R120) -/

/-- One step of the generator (R119). -/
def srStep (x : Word) : Word :=
  let x := x ^^^ (x <<< 13)
  let x := x ^^^ (x >>> 7)
  x ^^^ (x <<< 17)

/-- An SR rounding: the code in its container and the generator afterwards (R120). -/
def roundSR (f : FFmt) (sat : Bool) (g : Word) (x : FVal) : Nat × Word :=
  match x with
  | .nan | .inf _ => (x.round f .sr sat, g)
  | .fin s m e =>
    let sgn := if s then f.signBit else 0
    if m = 0 then (2 ^ f.pad * sgn, g)
    else
      let q := lastPlace f m e
      let lo := if q ≤ e then m * 2 ^ (e - q).toNat else m / 2 ^ (q - e).toNat
      let c := magCode f lo q
      let exact := decide (q ≤ e) || m % 2 ^ (q - e).toNat == 0
      if exact && decide (c ≤ f.maxCode) then (2 ^ f.pad * (sgn + c), g)
      else
        -- |lo| is max and |hi| max + u beyond the largest finite value
        let big := decide (f.maxCode < c) || (c == f.maxCode && !exact)
        let maxK := f.maxCode % 2 ^ f.mbits + 2 ^ f.mbits
        let maxQ : Int := f.qmin + (f.maxCode / 2 ^ f.mbits : Nat) - 1
        let kLo := if big then maxK else lo
        let qLo := if big then maxQ else q
        let beyond := big && (let e0 := min e qLo
          decide (scaled false m e e0 ≥ scaled false (kLo + 1) qLo e0))
        let top := 2 ^ f.pad * (sgn + (if sat || f.sp != .ieee then f.maxCode else f.infCode))
        if beyond then (top, g)
        else
          let g' := srStep g
          let u := (g'.extractLsb' 40 24).toNat
          let e0 := min e qLo
          let num := (scaled false m e e0 - scaled false kLo qLo e0).toNat
          let den := 2 ^ (qLo - e0).toNat
          let fr := num * 2 ^ 24 / den
          if u < fr then ((if big then top else 2 ^ f.pad * (sgn + magCode f (kLo + 1) qLo)), g')
          else (2 ^ f.pad * (sgn + magCode f kLo qLo), g')

/-! ## Minimum and maximum (spec/05 R152) -/

/-- The lesser of two values, a NaN counting as absent; −0 below +0. -/
def minNum (x y : FVal) : FVal :=
  match cmp x y with
  | none => if x.isNan then y else x
  | some .lt => x
  | some .gt => y
  | some .eq => if x.sign then x else y

/-- The greater of two values, a NaN counting as absent; +0 above −0. -/
def maxNum (x y : FVal) : FVal :=
  match cmp x y with
  | none => if x.isNan then y else x
  | some .lt => y
  | some .gt => x
  | some .eq => if x.sign then y else x

end FVal

/-- The format of a lane type's elements. -/
def Ty.ffmt : Ty → FFmt
  | .f16x2 => .f16
  | .bf16x2 => .bf16
  | _ => .f32

end Sys2Proof
end

