-- ==== Sys2Proof/Machine/Atom.lean ====
section
/-!
DEFINITION. The combining operations of atomics, reductions and signals (spec/09 R281, R283).
-/

namespace Sys2Proof

/-- The size in bytes of one location of a type (R281). -/
def Ty.bytes : Ty → Nat
  | .i64 | .n64 => 8
  | _ => 4

/-- A function of two 32-bit values element by element: one F32, or two 16-bit floats (spec/04 R115). -/
def eachElem (t : Ty) (f : FFmt → Nat → Nat → Nat) (x y : Nat) : Nat :=
  match t with
  | .f16x2 | .bf16x2 =>
    f t.ffmt (x % 2 ^ 16) (y % 2 ^ 16) + 2 ^ 16 * f t.ffmt (x / 2 ^ 16 % 2 ^ 16) (y / 2 ^ 16 % 2 ^ 16)
  | _ => f .f32 x y

/-- minimumNumber on encoded floats: the chosen operand's bits; two NaNs give the canonical NaN (spec/05 R152). -/
def minNBits (f : FFmt) (x y : Nat) : Nat :=
  let a := FVal.decode f x
  let b := FVal.decode f y
  if a.isNan then (if b.isNan then f.nanCode else y)
  else if b.isNan then x
  else match FVal.cmp a b with
    | some .gt => y
    | some .eq => if a.sign then x else y
    | _ => x

/-- maximumNumber on encoded floats. -/
def maxNBits (f : FFmt) (x y : Nat) : Nat :=
  let a := FVal.decode f x
  let b := FVal.decode f y
  if a.isNan then (if b.isNan then f.nanCode else y)
  else if b.isNan then x
  else match FVal.cmp a b with
    | some .lt => y
    | some .eq => if a.sign then y else x
    | _ => x

/-- The float sum of R281, rounded RNE. -/
def addBits (f : FFmt) (x y : Nat) : Nat :=
  FVal.round f .rne false (FVal.add false (FVal.decode f x) (FVal.decode f y))

/-- An integer of a type. -/
def Ty.int (t : Ty) (x : Nat) : Int :=
  match t with
  | .i64 => (BitVec.ofNat 64 x).toInt
  | .i32 => (BitVec.ofNat 32 x).toInt
  | .n64 => (x % 2 ^ 64 : Nat)
  | _ => (x % 2 ^ 32 : Nat)

/-- Floats element-wise, else integers. -/
def Ty.flt : Ty → Bool
  | .f32 | .f16x2 | .bf16x2 => true
  | _ => false

/-- The new value of a location: OP codes of spec/09 R279 (0 add, 1 and, 2 or, 3 xor, 4 min, 5 max, 6 exch). -/
def amo (op : Nat) (t : Ty) (old b : Nat) : Nat :=
  let w := 2 ^ (8 * t.bytes)
  if op = 0 then (if t.flt then eachElem t addBits old b else (old + b) % w)
  else if op = 1 then Nat.land old b
  else if op = 2 then Nat.lor old b
  else if op = 3 then Nat.xor old b
  else if op = 4 then
    (if t.flt then eachElem t minNBits old b else if t.int old ≤ t.int b then old else b)
  else if op = 5 then
    (if t.flt then eachElem t maxNBits old b else if t.int b ≤ t.int old then old else b)
  else b

/-- The identity a partial starts at (R283). -/
def redIdentity (op : Nat) (t : Ty) : Nat :=
  let ones := 2 ^ (8 * t.bytes) - 1
  let both (c : Nat) : Nat := match t with
    | .f16x2 | .bf16x2 => c + 2 ^ 16 * c
    | _ => c
  let f := t.ffmt
  let top := match t with
    | .i32 => 2 ^ 31 - 1 | .i64 => 2 ^ 63 - 1 | _ => ones
  let low := match t with
    | .i32 => 2 ^ 31 | .i64 => 2 ^ 63 | _ => 0
  if op = 0 then (if t.flt then both f.signBit else 0)
  else if op = 1 then ones
  else if op = 4 then (if t.flt then both f.infCode else top)
  else if op = 5 then (if t.flt then both (f.signBit + f.infCode) else low)
  else 0

end Sys2Proof
end

