-- ==== Sys2Proof/Machine/Sparse.lean ====
section
/-!
DEFINITION. Tables keyed by a number, as sorted lists with no entry equal to the default: registers, memories and every
numbered unit of the machine are held so. Two tables that read alike everywhere are the same list.
-/

namespace Sys2Proof

/-- A table from numbers to `α`; an index that is not listed reads as the default value. -/
abbrev Sparse (α : Type) := List (Nat × α)

/-- The value at an index. -/
def Sparse.look {α : Type} [Inhabited α] (m : Sparse α) (i : Nat) : α :=
  match m with
  | [] => default
  | (k, v) :: r => if k = i then v else Sparse.look r i

/-- The table without an index. -/
def Sparse.drop {α : Type} (m : Sparse α) (i : Nat) : Sparse α := m.filter (fun e => e.1 != i)

/-- An entry put in its place among rising indexes. -/
def Sparse.insert {α : Type} (m : Sparse α) (i : Nat) (v : α) : Sparse α :=
  match m with
  | [] => [(i, v)]
  | (k, w) :: r => if i < k then (i, v) :: (k, w) :: r else (k, w) :: Sparse.insert r i v

/-- The table with another value at one index; the default value takes the entry away. -/
def Sparse.put {α : Type} [Inhabited α] [DecidableEq α] (m : Sparse α) (i : Nat) (v : α) : Sparse α :=
  if v = default then Sparse.drop m i else Sparse.insert (Sparse.drop m i) i v

/-- Every index of the table lies above `b`, rising, and no entry is the default. -/
def Sparse.above {α : Type} [Inhabited α] [DecidableEq α] (b : Nat) (m : Sparse α) : Bool :=
  match m with
  | [] => true
  | (k, v) :: r => decide (b < k) && decide (v ≠ default) && Sparse.above k r

/-- The canonical form: indexes strictly rising, no entry equal to what an unlisted index reads as. -/
def Sparse.wf {α : Type} [Inhabited α] [DecidableEq α] (m : Sparse α) : Bool :=
  match m with
  | [] => true
  | (k, v) :: r => decide (v ≠ default) && Sparse.above k r

/-- The table with the value at one index changed by a function. -/
def Sparse.upd {α : Type} [Inhabited α] [DecidableEq α] (m : Sparse α) (i : Nat) (f : α → α) : Sparse α :=
  Sparse.put m i (f (Sparse.look m i))

/-- A table with a function applied to every listed value; the default value takes an entry away. -/
def Sparse.mapVals {α : Type} [Inhabited α] [DecidableEq α] (f : Nat → α → α) (m : Sparse α) : Sparse α :=
  match m with
  | [] => []
  | (k, v) :: r => if f k v = default then Sparse.drop (Sparse.mapVals f r) k else (k, f k v) :: Sparse.mapVals f r

/-- Bytes put at rising indexes from `i`. -/
def Sparse.putBytes (m : Sparse Byte) (i : Nat) (bs : List Byte) : Sparse Byte :=
  match bs with
  | [] => m
  | b :: r => Sparse.putBytes (Sparse.put m i b) (i + 1) r

/-- The `n` bytes from index `i`. -/
def Sparse.bytes (m : Sparse Byte) (i : Nat) : Nat → List Byte
  | 0 => []
  | n + 1 => Sparse.look m i :: Sparse.bytes m (i + 1) n

end Sys2Proof
end

