-- ==== Sys2Proof/Machine/State.lean ====
section
/-!
DEFINITION. The state of the Lutrum Drasin: every piece of state the spec gives the machine, as plain data, with the
reset value as each field's default (INVENTORY.md lists them with their rules). What a thing holds when it is created
(a slug, a forme, a launch) is the default of its structure. A 'design choice' value is named in the assumption log.
-/

namespace Sys2Proof.Machine

/-- Why the machine stops. -/
inductive Fault where
  /-- Raised by a port turn of `step` when the page-table root is no 8 KiB table in device memory (spec/07 R215, R223):
  the walk would read an address that does not exist. Safe: the hardware's root is placed by its own firmware. -/
  | rootHole
  deriving DecidableEq, Repr

/-- Why an instruction has no meaning. -/
inductive Refusal where
  /-- Raised by an arm of `exec` whose instruction has no meaning yet. Safe: nothing is claimed about it. -/
  | notModelled (mnemonic : String)
  deriving DecidableEq, Repr

/-! ## Slugs -/

/-- One vector register: 32 lanes of 32 bits (spec/02 R52). -/
abbrev VReg := Vector Lane 32

/-- An exact accumulator (spec/05 R167). -/
structure XAcc where
  nan : Bool := false
  pinf : Bool := false
  ninf : Bool := false
  s : BitVec 760 := 0
  deriving DecidableEq, Repr, Inhabited

/-- A path: a PC slot's or a divergence-stack entry's contents (spec/01 R33, R38, spec/02 R63). -/
structure Path where
  pk : Bool := false
  pc : Addr := 0
  mask : Mask := 0
  deriving DecidableEq, Repr, Inhabited

/-- A fixed-latency result a path has pending, with the compiled distance so far (spec/03 R87). Registers are named by
their operand code. -/
structure Pend where
  reg : BitVec 8 := 0
  lat : Nat := 0
  dist : Nat := 0
  pc : Addr := 0
  deriving DecidableEq, Repr, Inhabited

/-- A PC slot with what the issue logic keeps for its path: the cycle from which its next word may issue (R86), its last
issue (spec/01 R32), pending distances (R87), the partial-completion or replay mask (spec/18 R453), and the cycle at which a
`YIELD` ends (spec/05 R139). -/
structure Slot where
  path : Option Path := none
  readyAt : Nat := 0
  lastIssue : Nat := 0
  pend : List Pend := []
  part : Option Mask := none
  yielding : Option Nat := none
  deriving DecidableEq, Repr, Inhabited

/-- What a transaction level restores (spec/11 R343). -/
structure Checkpoint where
  g : Sparse Word := []
  v : Sparse VReg := []
  p : Sparse Mask := []
  xa : Sparse XAcc := []
  srg : Word := 0
  pc : Addr := 0
  mask : Mask := 0
  deriving DecidableEq, Repr, Inhabited

/-- What a home needs to count and record an access for hotness sampling (spec/07 R240, R241): the page's HS bit, its
partition and tier, the address, the issuing world and core. -/
structure HotInfo where
  hs : Bool := false
  part : Nat := 0
  tier : Nat := 0
  va : Nat := 0
  world : Nat := 0
  core : Option Nat := none
  deriving DecidableEq, Repr, Inhabited

/-- One byte a transaction has buffered (spec/11 R344): `sp` a scratchpad byte of the forme `fk`, else a physical byte;
`hot` is what its home counts of the access. -/
structure TxByte where
  sp : Bool := false
  fk : Nat := 0
  addr : Nat := 0
  val : Byte := 0
  hot : HotInfo := {}
  deriving DecidableEq, Repr, Inhabited

/-- A tracked line (spec/11 R344): a physical line number, or a scratchpad line of a forme's part. -/
structure LineRef where
  sp : Bool := false
  fk : Nat := 0
  line : Nat := 0
  deriving DecidableEq, Repr, Inhabited

/-- A transaction level (spec/11 R343, R344, R348). `alt` is its alternative, `vw` the vector registers written in it
(R350). -/
structure TxLevel where
  alt : Option Addr := none
  ck : Checkpoint := {}
  reads : List LineRef := []
  retained : List LineRef := []
  writes : List LineRef := []
  buf : List TxByte := []
  vw : List Nat := []
  deriving DecidableEq, Repr, Inhabited

/-- A slug's open transaction: levels innermost first, stamp, abort target, pseudo-lines read and whether one of them has
changed since, and the lines in the order they were first read (spec/11 R343, R344, R357, R360). -/
structure Tx where
  levels : List TxLevel := []
  stampCyc : Nat := 0
  stampCore : Nat := 0
  stampSlot : Nat := 0
  target : Addr := 0
  cpt : Bool := false
  gwait : Sparse (Option (BitVec 32)) := []
  fired : Bool := false
  seen : List LineRef := []
  deriving DecidableEq, Repr, Inhabited

/-- A wake entry (spec/11 R357, R358): exact lines, signature, `%cptag` flag, guy-line generations awaited, FIRED; the lines that the
signature stands for (the model's own, for a scratchpad line's key changes when its part moves: log entry 94); and how the slug
resumes: a `RETRY` reopens its transaction (`tx`), a blocking form issues its word again. -/
structure Wake where
  lines : List LineRef := []
  sig : BitVec 1024 := 0
  cpt : Bool := false
  gwait : Sparse (Option (BitVec 32)) := []
  fired : Bool := false
  beyond : List LineRef := []
  tx : Option Tx := none
  deriving DecidableEq, Repr, Inhabited

/-- What `HRET` does with the faulting path (spec/18 R448, R462). -/
inductive Resume where
  | fail | replay | reissue | continue | deferred
  deriving DecidableEq, Repr, Inhabited

/-- A running handler entry (spec/18 R454): the slot it runs in, what that slot held, the stash, the pending record, the
return kind, whether `HSKIP` may skip, the unfinished lanes, and whether the default handler of firmware serves. -/
structure Handling where
  slotB : Bool := false
  saved : Slot := {}
  stashG : Sparse Word := []
  stashP : Sparse Mask := []
  record : List Word := []
  resume : Resume := .fail
  skip : Bool := false
  scalar : Bool := false
  unfinished : Mask := 0
  size : Nat := 8
  inTx : Option Tx := none
  firmware : Bool := true
  mq : Nat := 0
  deriving DecidableEq, Repr, Inhabited

/-- A slug (spec/01 R27, R33, spec/02 R52 to R65). `vb` is the first of its register granules (spec/10 R324). The control word's
fields STRICT, OWNER and ALLOC stand here; HND is
`hnd.isSome`, DDEPTH the stack's length, DEPTH of `%txst` the number of open levels. -/
structure Slug where
  live : Bool := false
  h : Nat := 0
  vb : Nat := 0
  g : Sparse Word := []
  v : Sparse VReg := []
  p : Sparse Mask := []
  xa : Sparse XAcc := []
  a : Slot := {}
  b : Slot := {}
  stack : List Path := []
  strict : Bool := false
  owner : Bool := false
  alloc : Nat := 2
  srg : Word := 0
  abtcode : BitVec 8 := 0
  cause : BitVec 8 := 0
  tx : Option Tx := none
  stamp : Option (Nat × Nat × Nat) := none
  wake : Option Wake := none
  hnd : Option Handling := none
  gathering : Option Addr := none
  pendingG : List (BitVec 8) := []
  busy : List (BitVec 8 × Nat) := []
  arrived : Sparse (Option (BitVec 32)) := []
  ended : Bool := false
  failed : Bool := false
  deriving DecidableEq, Repr, Inhabited

/-! ## Formes -/

/-- Where a forme stands (spec/10 R324, R334). -/
inductive Place where
  | none | waiting | bound | running | draining | saving | saved | ended
  deriving DecidableEq, Repr, Inhabited

/-- A lane's remap entry as a departure from its start: where it was moved, and whether it has exited (spec/02 R67). -/
structure Remap where
  moved : Option (BitVec 5 × BitVec 5) := none
  dead : Bool := false
  deriving DecidableEq, Repr, Inhabited

/-- An engine instruction in a matrix queue, with the operands it read at issue (spec/06 R180, R183, R184). `issuer` is its
forme's key and `id` its number among that forme's instructions; `done` counts finished row blocks; `stop` is the fault it
stands at (code, REASON, address, operand of spec/18 R450), `delivered` whether its record has been written; `part` is
the forme of the pitch whose part of a pitch form it is; `tag` is the drain tag of a `CPYM` follow-on, `told` says that it has been set. -/
structure MqEntry where
  opc : Nat := 0
  id : Nat := 0
  arrival : Nat := 0
  issuer : Nat := 0
  slug : Nat := 0
  slotB : Bool := false
  pc : Addr := 0
  plane : Nat := 0
  tile : Nat := 0
  tile2 : Nat := 0
  a : Word := 0
  b : Word := 0
  x : Word := 0
  mod : BitVec 20 := 0
  lanes : Sparse VReg := []
  done : Nat := 0
  stop : Option (BitVec 8 × BitVec 8 × Nat × Nat) := none
  delivered : Bool := false
  part : Option Nat := none
  tag : Option (BitVec 6) := none
  told : Bool := false
  deriving DecidableEq, Repr, Inhabited

/-- A copy command (spec/09 R291 to R294): its form, operands, MOD bits, issuer and tag, with the follow-on of a `CPYM`
(spec/06 R212). -/
structure Copy where
  opc : Nat := 0
  fk : Nat := 0
  slug : Nat := 0
  slotB : Bool := false
  pc : Addr := 0
  mask : Mask := 0
  dst : Word := 0
  src : Word := 0
  len : Word := 0
  rows : Word := 0
  sstr : Word := 0
  dstr : Word := 0
  dw : Bool := false
  sw : Bool := false
  tag : BitVec 6 := 0
  follow : Option MqEntry := none
  deriving DecidableEq, Repr, Inhabited

/-- A gathering of slugs at a `RECAST` (spec/01 R41, R44). `close` is the cycle at which its hold expires; after it has
closed, `until` is the cycle at which the regroup is complete. -/
structure Gather where
  pc : Addr := 0
  slugs : List Nat := []
  close : Nat := 0
  closed : Bool := false
  done : Nat := 0
  deriving DecidableEq, Repr, Inhabited

/-- A forme (spec/01 R47 to R50, spec/02 R55, R58, R66, R67, spec/06 R175, R201). -/
structure Forme where
  place : Place := .none
  launch : Nat := 0
  fidx : Nat := 0
  pidx : Nat := 0
  x0 : Nat := 0
  y0 : Nat := 0
  pw : Nat := 1
  ph : Nat := 1
  core : Nat := 0
  bind : Nat := 0
  slugs : Sparse Slug := []
  remap : Sparse Remap := []
  scratch : Sparse Byte := []
  acc : Sparse Byte := []
  tiles : Sparse Word := []
  cptag : Word := 0xFFFFFFFFFFFFFFFF
  tagStat : Sparse Word := []
  inFlight : Sparse Nat := []
  rowprog : BitVec 16 := 0
  mq : List MqEntry := []
  follow : List MqEntry := []
  transit : List MqEntry := []
  issued : Nat := 0
  gathers : List Gather := []
  drain : Option Nat := none
  goes : Bool := true
  restored : Bool := false
  deriving DecidableEq, Repr, Inhabited

/-! ## Launches -/

/-- A guy line of one unit (spec/11 R370). -/
structure GuyLine where
  gen : BitVec 32 := 0
  arrived : List (Nat × Nat) := []
  deriving DecidableEq, Repr, Inhabited

/-- A queue-table entry (spec/11 R362): the forme whose scratchpad holds the ring, its offset, CAP. -/
structure QEntry where
  set : Bool := false
  fk : Nat := 0
  off : Nat := 0
  cap : Nat := 0
  deriving DecidableEq, Repr, Inhabited

/-- How far a launch has come (spec/10 R320, R322, spec/18 R468). -/
inductive LaunchSt where
  | none | checking | active | failing
  deriving DecidableEq, Repr, Inhabited

/-- Where a launch came from (spec/10 R320): a packet of queue `q`, a slug's `LAUNCH`, an entry of the time-triggered
table. -/
inductive Origin where
  | host | packet (q : Nat) (id : Nat) | device (fk : Nat) (slug : Nat) (g : BitVec 8) (b : Bool) (pc : Addr) (mask : Mask) | timed (i : Nat)
  deriving DecidableEq, Repr, Inhabited

/-- A launch under check or active (spec/10 R318 to R322, spec/18 R451). `words` holds the 64 words of its record, `far` says
that it was not read from NORMAL pages. -/
structure Launch where
  st : LaunchSt := .none
  part : Nat := 0
  origin : Origin := .host
  depth : Nat := 0
  recAddr : Nat := 0
  parent : Nat := 0
  parentWorld : Nat := 0
  words : Sparse Word := []
  order : Nat := 0
  oh : Nat := 0
  entry : Addr := 0
  pinG : BitVec 64 := 0
  seq : Nat := 0
  drops : Nat := 0
  next : Nat := 0
  ended : Nat := 0
  returned : List Nat := []
  far : Bool := false
  guys : Sparse GuyLine := []
  queues : Sparse QEntry := []
  boundTo : Sparse (Option Nat) := []
  sealedOh : List Nat := []
  failCode : Option (BitVec 8) := none
  deriving DecidableEq, Repr, Inhabited

/-! ## Code (spec/15 R404 to R409) -/

/-- A sealed chunk of the chunk store: its words and the S and GT marks (R407). -/
structure Chunk where
  words : List Word := []
  s : BitVec 512 := 0
  gt : BitVec 512 := 0
  isSealed : Bool := false
  deriving DecidableEq, Repr, Inhabited

/-- An object of the object table (R404, R406, R436): `zones` and `locks` are its header's, `srcEntry` the Jihal-1 entry it was
translated for and `texts` the words of its translation, `handler` says that it was admitted as a handler object (spec/18
R455), `made` that a `SEALREQ` made it and no header has named it since (R437). -/
structure CodeObj where
  used : Bool := false
  made : Bool := false
  zones : Word := 0
  locks : List Byte := []
  srcEntry : Nat := 0
  handler : Bool := false
  root : Nat := 0
  set : Nat := 3
  budget : Nat := 0
  entry : Nat := 0
  chunks : List Nat := []
  texts : List (List Word) := []
  blobs : List (List Byte) := []
  gate : List Byte := []
  deriving DecidableEq, Repr, Inhabited

/-- A cached verdict on a chunk (R408), under the handler's rules or a launch's; one that accepts has its marks, pins, import
records and the launch facts used. -/
structure Verdict where
  chunk : Nat := 0
  digest : Nat := 0
  handler : Bool := false
  accepts : Bool := true
  s : BitVec 512 := 0
  gt : BitVec 512 := 0
  pinG : BitVec 64 := 0
  imports : List (Nat × List Byte) := []
  facts : List (Nat × Nat × Nat) := []
  deriving DecidableEq, Repr, Inhabited

/-! ## Cores and clusters -/

/-- An issue port (spec/01 R30): the slots in age order, head first, and the cycle from which it is free. -/
structure Port where
  age : List Nat := []
  freeAt : Nat := 0
  deriving DecidableEq, Repr, Inhabited

/-- The kind of an L1 line (spec/07 R228). -/
inductive LineKind where
  | so | rc | uo
  deriving DecidableEq, Repr, Inhabited

/-- An L1 line (spec/07 R228, R229): its bytes, the per-byte dirty mask, and whether the other
bytes have been filled from the home. Bit i of `glue` says that bytes i and i + 1 were written by one access that is
single-copy atomic (R227), so that they go home together; `owners` are the launches whose bytes are dirty (spec/18 R470). -/
structure L1Line where
  kind : LineKind := .so
  data : List Byte := []
  dirty : BitVec 128 := 0
  glue : BitVec 128 := 0
  valid : Bool := false
  hot : HotInfo := {}
  owners : List Nat := []
  deriving DecidableEq, Repr, Inhabited

/-- An update-only partial (spec/07 R230): the operation, the type, the elements so far, the launches that made them. -/
structure Partial where
  op : Nat := 0
  ty : Ty := .i32
  cells : Sparse (Option Word) := []
  hot : HotInfo := {}
  owners : List Nat := []
  deriving DecidableEq, Repr, Inhabited

/-- A cached translation (spec/07 R224): the page's virtual base, the leaf, the partition of its root entry. -/
structure TlbEntry where
  base : Nat := 0
  lo : Word := 0
  hi : Word := 0
  part : Nat := 0
  deriving DecidableEq, Repr, Inhabited

/-- A granule of registers, scratchpad or accumulator memory (spec/02 R56, R57): held by a forme, or waiting to be free
from a cycle on; its tag, the world of the forme that holds it or held it last. -/
structure Granule where
  holder : Option Nat := none
  freeAt : Nat := 0
  world : Nat := 0
  deriving DecidableEq, Repr, Inhabited

/-- A core (spec/01 R14, R26 to R30). `p` is its scratchpad part in granules of 256 KiB. -/
structure Core where
  retired : Bool := false
  p : Nat := 1
  port0 : Port := {}
  port1 : Port := {}
  sfuFree : Nat := 0
  xsumFree : Nat := 0
  fma0Free : Nat := 0
  fma1Free : Nat := 0
  slots : Sparse (Option (Nat × Nat)) := []
  regs : Sparse Granule := []
  spad : Sparse Granule := []
  accs : Sparse Granule := []
  clearR : Nat := 0
  clearS : Nat := 0
  clearA : Nat := 0
  l1 : Sparse L1Line := []
  partials : Sparse Partial := []
  tlb : List TlbEntry := []
  copies : List Copy := []
  arrivals : Nat := 0
  deriving DecidableEq, Repr, Inhabited

/-- A bind record (spec/10 R324). -/
structure Bind where
  v : Bool := false
  st : BitVec 3 := 0
  launch : Nat := 0
  core : Nat := 0
  pf : Nat := 0
  vbase : Nat := 0
  sbase : Nat := 0
  abase : Nat := 0
  slots : BitVec 64 := 0
  fidx : Nat := 0
  reserved : Bool := false
  deriving DecidableEq, Repr, Inhabited

/-- A message on a command link (spec/10 R323), with the formes it names; a RESERVE, and the RESTORE of a unit of several formes, names
the core of each and the south-west core of its pitch (R328). -/
structure LinkMsg where
  type : BitVec 8 := 0
  launch : Nat := 0
  formes : List (Nat × Nat) := []
  cores : List (Nat × Nat) := []
  ok : Bool := true
  deriving DecidableEq, Repr, Inhabited

/-- Who holds a cluster (spec/10 R330, spec/14 R388): a cluster that no partition holds is in the shared pool. -/
inductive Holder where
  | free | part (n : Nat) | outOfService
  deriving DecidableEq, Repr, Inhabited

/-- A cluster (spec/01 R15, spec/10 R323, R324): `doomed` says that it goes out of service when it leaves its partition (spec/18
R477); messages on the two directions of its command link, those that wait for a
send permit, and the permits. -/
structure Cluster where
  holder : Holder := .free
  doomed : Bool := false
  binds : Sparse Bind := []
  toLeaf : List LinkMsg := []
  toSched : List LinkMsg := []
  waitDown : List LinkMsg := []
  waitUp : List LinkMsg := []
  permitsDown : Nat := 16
  permitsUp : Nat := 16
  tlb : List TlbEntry := []
  deriving DecidableEq, Repr, Inhabited

/-! ## Partitions -/

/-- A packet that is held or has started (spec/10 R311 to R317): its words, its number among the partition's packets, the
cycle of its start, and whether its queue has been disabled since; of a BARRIER packet's pass (R378) how many of the five signals it
has read, whether one read below zero or above, and whether it is the first. -/
structure Packet where
  words : List Word := []
  id : Nat := 0
  since : Nat := 0
  detached : Bool := false
  read : Nat := 0
  low : Bool := false
  high : Bool := false
  first : Bool := false
  deriving DecidableEq, Repr, Inhabited

/-- A host command queue (spec/10 R309, R314). STATE is `st`. -/
structure HostQueue where
  qbase : BitVec 48 := 0
  en : Bool := false
  prio : BitVec 3 := 0
  weight : BitVec 8 := 0
  log2n : BitVec 5 := 0
  qwr : BitVec 32 := 0
  qrd : BitVec 32 := 0
  st : BitVec 3 := 0
  lref : BitVec 8 := 0
  err : BitVec 8 := 0
  head : Option Packet := none
  running : List Packet := []
  aborts : Nat := 0
  deficit : Nat := 0
  deriving DecidableEq, Repr, Inhabited

/-- A COPY packet at work on a partition copy unit (spec/10 R313). -/
structure PacketCopy where
  q : Nat := 0
  id : Nat := 0
  src : Nat := 0
  dst : Nat := 0
  len : Nat := 0
  deriving DecidableEq, Repr, Inhabited

/-- A time-triggered entry (spec/10 R332, R333). -/
structure TtEntry where
  next : Word := 0
  en : Bool := false
  period : BitVec 48 := 0
  record : Addr := 0
  skips : BitVec 32 := 0
  runs : BitVec 32 := 0
  busy : Bool := false
  deriving DecidableEq, Repr, Inhabited

/-- A first-touch range (spec/18 R464). -/
structure FtRange where
  base : Word := 0
  len : Word := 0
  tmpl : Word := 0
  deriving DecidableEq, Repr, Inhabited

/-- A collective group (spec/09 R299, spec/18 R472). -/
structure Group where
  used : Bool := false
  formed : Bool := false
  size : Nat := 0
  self : Nat := 0
  table : Nat := 0
  members : List Byte := []
  timeout : Nat := 0
  fk : Nat := 0
  slug : Nat := 0
  pc : Addr := 0
  mask : Mask := 0
  tag : BitVec 6 := 0
  since : Nat := 0
  lost : Option Nat := none
  deriving DecidableEq, Repr, Inhabited

/-- A collective in flight (spec/09 R300, spec/18 R474). -/
structure Coll where
  fk : Nat := 0
  slug : Nat := 0
  pc : Addr := 0
  mask : Mask := 0
  tag : BitVec 6 := 0
  gid : Nat := 0
  desc : List Word := []
  engine : Nat := 0
  started : Bool := false
  since : Nat := 0
  deriving DecidableEq, Repr, Inhabited

/-- The states of a TDISP interface (spec/14 R402). -/
inductive Tdisp where
  | unlocked | locked | run | error
  deriving DecidableEq, Repr, Inhabited

/-- A pre-emption in progress (spec/10 R334, R335): the launch, cluster or frames it is for, the cycle at which the budget
ends, and whether the formes stay held afterwards. -/
structure Draining where
  launch : Option Nat := none
  cluster : Option Nat := none
  frames : List Nat := []
  deadline : Nat := 0
  hold : Bool := false
  deriving DecidableEq, Repr, Inhabited

/-- The unit that the scheduler is having bound (spec/10 R323, R328): its launch and first forme, whether it is a restore, its formes,
the clusters that have yet to answer, whether one has refused, and the instances its outer units are bound to once it stands (R329). -/
structure Order where
  launch : Nat := 0
  first : Nat := 0
  restore : Bool := false
  formes : List Nat := []
  waits : List Nat := []
  refused : Bool := false
  bound : Sparse (Option Nat) := []
  deriving DecidableEq, Repr, Inhabited

/-- What an event of the table carries with it: the operands an agent outside the core supplies (log entry 1). -/
structure EvArgs where
  part : Nat := 0
  core : Nat := 0
  forme : Nat := 0
  slug : Nat := 0
  index : Nat := 0
  size : Nat := 0
  addr : Word := 0
  value : Word := 0
  bytes : List Byte := []
  flag : Bool := true
  tenant : Bool := false
  deriving DecidableEq, Repr, Inhabited

/-- A partition and its virtual function's registers. Holdings are those of spec/14 R385; `resizes` are the resize
requests that wait for the one in progress (R387), `resizeStatus` answers the latest (R389); `mboxTenant` says that the outstanding
mailbox request came from the tenant. -/
structure Partition where
  exist : Bool := false
  ways : Nat := 0
  engines : Nat := 0
  binds : Nat := 0
  worlds : Nat := 0
  memFloor : Nat := 0
  fabFloor : Nat := 0
  keyIds : Nat := 0
  launches : Nat := 0
  queuesHeld : Nat := 0
  poolWeight : Nat := 0
  queues : Sparse HostQueue := []
  turns : Sparse Nat := []
  serial : Nat := 0
  tt : Sparse TtEntry := []
  mboxReq : Sparse Word := []
  mboxRsp : Sparse Word := []
  mboxTaken : Sparse Word := []
  mboxBusy : Option Nat := none
  mboxTenant : Bool := false
  hsbase : Word := 0
  hssize : Word := 0
  hswr : Word := 0
  hsrd : Word := 0
  hsdrop : Word := 0
  hsk : Word := 0
  hsCount : Sparse Nat := []
  hsPending : List (List Byte) := []
  hobj : Word := 0
  hentry : BitVec 32 := 0
  hst : BitVec 8 := 0
  hlerr : BitVec 8 := 0
  hoh : Option Nat := none
  hentryUsed : Nat := 0
  ft : Sparse FtRange := []
  pool1 : List Nat := []
  pool2 : List Nat := []
  table1 : Option Nat := none
  table2 : Option Nat := none
  slots1 : List Nat := []
  slots2 : List Nat := []
  drainUs : Word := 200
  tdisp : Tdisp := .unlocked
  peers : List (Nat × Nat) := []
  objs : Sparse CodeObj := []
  chunks : Sparse Chunk := []
  verdicts : List Verdict := []
  saveUsed : Nat := 0
  saveFrames : List Nat := []
  storeFrames : List Nat := []
  savedUnits : List (Nat × Nat) := []
  order : Option Order := none
  groups : Sparse Group := []
  colls : List Coll := []
  copies : List PacketCopy := []
  draining : List Draining := []
  resizes : List (Instr × EvArgs) := []
  resizeStatus : BitVec 8 := 0
  masks : Sparse Word := []
  msixTable : Sparse Word := []
  msixPending : BitVec 256 := 0
  cookies : Sparse Word := []
  keysOpen : Bool := false
  gone : List (Nat × Nat) := []
  deriving DecidableEq, Repr, Inhabited

/-! ## Device -/

/-- Where the device stands in bring-up and power (spec/20 R491, R493). -/
inductive Power where
  | off | recovery (step : Nat) | on | d3hot | shut
  deriving DecidableEq, Repr, Inhabited

/-- A frame-table entry (spec/07 R222, R239, spec/18 R465, R479); `firmware` marks a frame that firmware keeps for itself (spec/14
R394, R396). -/
structure Frame where
  firmware : Bool := false
  owner : Option Nat := none
  key : BitVec 8 := 0
  gen : BitVec 6 := 0
  scrub : BitVec 6 := 0
  retired : Bool := false
  firstTouch : Bool := false
  deriving DecidableEq, Repr, Inhabited

/-- A side-table entry (spec/14 R396). -/
structure SideEntry where
  tag : BitVec 128 := 0
  iv : BitVec 96 := 0
  key : BitVec 8 := 0
  v : Bool := false
  deriving DecidableEq, Repr, Inhabited

/-- A key slot (spec/14 R397). -/
structure KeySlot where
  holder : Option Nat := none
  key : BitVec 256 := 0
  installed : Bool := false
  deriving DecidableEq, Repr, Inhabited

/-- A world (spec/14 R380, R391, R393): its partition and its bandwidth record; the token rates follow from the record and
the number of points that hold its work. -/
structure World where
  part : Option Nat := none
  mlim : BitVec 32 := 0
  mflr : BitVec 11 := 0
  flim : BitVec 32 := 0
  fflr : BitVec 11 := 0
  memRate : Nat := 0
  fabRate : Nat := 0
  deriving DecidableEq, Repr, Inhabited

/-- A fabric port (spec/14 R395, spec/18 R471, spec/20 R490); `groups` counts the flit groups encrypted with its key. -/
structure FabPort where
  enabled : Bool := false
  up : Bool := false
  dropping : Bool := false
  keyNo : Nat := 0
  groups : Nat := 0
  deriving DecidableEq, Repr, Inhabited

/-- The PTP block (spec/20 R492): whether an offset has been measured, the measured offset in ns, what of it discipline has still to
remove (in 1/40,000 ns, positive while `%ptp` is ahead), the forward steps, whether it has ever locked, and the fraction of a nanosecond
that `%ptp` stands beyond its value (in 1/40,000 ns). -/
structure Ptp where
  measured : Bool := false
  offset : BitVec 64 := 0
  left : Int := 0
  steps : BitVec 64 := 0
  ever : Bool := false
  frac : Nat := 0
  deriving DecidableEq, Repr, Inhabited

/-- The telemetry block (spec/20 R493); `due` is the cycle of the next refresh. -/
structure Telemetry where
  power : Word := 0
  junction : Sparse Word := []
  portsDown : Word := 0
  alarm : Bool := false
  due : Nat := 0
  deriving DecidableEq, Repr, Inhabited

/-- The configuration record's contents that reach the device (spec/20 R490, R491). -/
structure BootRec where
  version : Nat := 0
  mode : Nat := 0
  deviceId : BitVec 9 := 0
  setSize : Nat := 0
  accepted : Nat := 0
  log : List (List Byte) := []
  deriving DecidableEq, Repr, Inhabited

/-- Whose access a home holds back: a path's (forme, slug, PC slot), the host's in its order of arrival (spec/08 R260), a
peer's, another unit's of the device. -/
inductive HeldBy where
  | path (fk sl : Nat) (b : Bool) | host | peer | device
  deriving DecidableEq, Repr, Inhabited

/-- What a held access does: a write, a reduction, an atomic of a peer, a compare-and-swap of a peer with the first half of its
bytes, a read of `n` bytes. -/
inductive HeldOp where
  | put | red (op : Nat) (t : Ty) | amo (op : Nat) (t : Ty) | cas | look (n : Nat)
  deriving DecidableEq, Repr, Inhabited

/-- An access that a home or bank holds back for the oldest transaction (spec/11 R346), with what its home counts of it
(spec/07 R241). -/
structure Held where
  line : LineRef := {}
  addr : Nat := 0
  bytes : List Byte := []
  op : HeldOp := .put
  src : HeldBy := .device
  hot : HotInfo := {}
  type : Nat := 1
  deriving DecidableEq, Repr, Inhabited

/-- The shared pool's slice (spec/10 R330). -/
structure Pool where
  part : Option Nat := none
  sliceEnd : Nat := 0
  deriving DecidableEq, Repr, Inhabited

/-! ## The model's own fields -/

/-- One turn of the device (spec/95: one row of the table, whole): an event, the issue of one word by a port, or the
passing of one cycle. -/
inductive Turn where
  | event (i : Instr) (a : EvArgs)
  | port (core port : Nat)
  | tick
  deriving DecidableEq, Repr

/-- The path whose word is being executed: forme, slug, PC slot, port cycles of the word, its STALL, and the pending
distances once it has issued. -/
structure Issuer where
  fk : Nat := 0
  sl : Nat := 0
  b : Bool := false
  occ : Nat := 1
  stall : Nat := 0
  pend : List Pend := []
  deriving DecidableEq, Repr, Inhabited

/-- The state of the device. `root` is the physical address of the root table, `roots` firmware's record of the partition that
each root entry is granted to (spec/07 R215, spec/14 R383), `fwTables` the tables
it has placed in its own frames; `irqs` the interrupt messages sent: function, vector, cookie; `coresLost` how many cores were
retired one by one (spec/18 R477); `poison` and `metaPoison` the lines with an uncorrectable error of their data and of their
metadata (spec/07 R237); `l2` the line in each way of each set of the L2 slices (R226, spec/14 R386; log entry 81). -/
structure State where
  power : Power := .off
  cyc : Nat := 0
  ptpNow : Nat := 0
  ptp : Ptp := {}
  root : Nat := 0
  roots : Sparse (Option Nat) := []
  fwTables : List Nat := []
  dram : Sparse Byte := []
  lineGen : Sparse (BitVec 6) := []
  poison : List Nat := []
  metaPoison : List Nat := []
  l2 : Sparse (Sparse (Option Nat)) := []
  lineErrs : Sparse (List Nat) := []
  lostLines : List Nat := []
  lostChannels : List Nat := []
  coresLost : Nat := 0
  frames : Sparse Frame := []
  side : Sparse SideEntry := []
  keys : Sparse KeySlot := []
  totalCut : Sparse Nat := []
  repl : List (Nat × Nat) := []
  worlds : Sparse World := []
  sliceBase : Word := 2000
  pool : Pool := {}
  launches : Sparse Launch := []
  accepted : Nat := 0
  clusters : Sparse Cluster := []
  cores : Sparse Core := []
  parts : Sparse Partition := []
  formes : Sparse Forme := []
  ports : Sparse FabPort := []
  telemetry : Telemetry := {}
  irqs : List (Nat × Nat × Word) := []
  boot : BootRec := {}
  held : List Held := []
  pfRing : List Nat := []
  agenda : List Turn := []
  deadlines : List (Turn × Nat) := []
  cur : Option Issuer := none
  ev : EvArgs := {}
  fresh : Nat := 0
  deriving DecidableEq, Repr, Inhabited

/-- The machine right after reset, before boot: every field at the value the spec gives for reset, or at the value the
assumption log names (log entries 1, 2, 4, 10, 13, 14, 18, 19, 20, 21). -/
def State.reset : State := {}

end Sys2Proof.Machine
end

