-- ==== Sys2Proof/Machine/Nav.lean ====
section
/-!
DEFINITION. Finding and changing a part of the state by its number: formes, slugs, PC slots, registers, cores,
clusters, partitions, launches; and the numbering of cores (spec/01 R13).
-/

namespace Sys2Proof.Machine

/-! ## Numbered parts -/

/-- The forme under a key. -/
def State.forme (s : State) (fk : Nat) : Forme := s.formes.look fk

/-- The slug `sl` of a forme. -/
def State.slug (s : State) (fk sl : Nat) : Slug := (s.forme fk).slugs.look sl

/-- Change a forme. -/
def State.modForme (s : State) (fk : Nat) (f : Forme → Forme) : State := { s with formes := s.formes.upd fk f }

/-- Change a slug of a forme. -/
def Forme.modSlug (m : Forme) (sl : Nat) (f : Slug → Slug) : Forme := { m with slugs := m.slugs.upd sl f }

/-- Change a slug. -/
def State.modSlug (s : State) (fk sl : Nat) (f : Slug → Slug) : State := s.modForme fk (·.modSlug sl f)

/-- A core by its id. -/
def State.core (s : State) (c : Nat) : Core := s.cores.look c

/-- Change a core. -/
def State.modCore (s : State) (c : Nat) (f : Core → Core) : State := { s with cores := s.cores.upd c f }

/-- A cluster by its number. -/
def State.cluster (s : State) (c : Nat) : Cluster := s.clusters.look c

/-- Change a cluster. -/
def State.modCluster (s : State) (c : Nat) (f : Cluster → Cluster) : State :=
  { s with clusters := s.clusters.upd c f }

/-- A partition by its index. -/
def State.part (s : State) (n : Nat) : Partition := s.parts.look n

/-- Change a partition. -/
def State.modPart (s : State) (n : Nat) (f : Partition → Partition) : State := { s with parts := s.parts.upd n f }

/-- A launch by its index. -/
def State.launch (s : State) (n : Nat) : Launch := s.launches.look n

/-- Change a launch. -/
def State.modLaunch (s : State) (n : Nat) (f : Launch → Launch) : State :=
  { s with launches := s.launches.upd n f }

/-- Change a queue block of a partition. -/
def State.modQueue (s : State) (n q : Nat) (f : HostQueue → HostQueue) : State :=
  s.modPart n (fun p => { p with queues := p.queues.upd q f })

/-- The device works: it is up, or draining towards D3hot (spec/20 R491, R493). -/
def State.awake (s : State) : Bool := s.power == .on || s.power == .d3hot

/-- Take one free value: the counter advances. -/
def State.tookFree (s : State) : State := { s with fresh := s.fresh + 1 }

/-! ## Core coordinates (spec/01 R13) -/

/-- The die of the core at X, Y. -/
def dieOf (x y : Nat) : Nat := (y / 8) * 2 + x / 8

/-- The cluster of a core id. -/
def clusterOf (core : Nat) : Nat :=
  let x := core % 16
  let y := core / 16
  dieOf x y * 4 + (y % 8 / 4) * 2 + x % 8 / 4

/-- The number of a core within its cluster. -/
def coreInCluster (core : Nat) : Nat := (core / 16 % 4) * 4 + core % 16 % 4

/-- The core id of core `k` of cluster `cl`. -/
def coreOf (cl k : Nat) : Nat :=
  let die := cl / 4
  let x := (die % 2) * 8 + (cl % 2) * 4 + k % 4
  let y := (die / 2) * 8 + (cl % 4 / 2) * 4 + k / 4
  y * 16 + x

/-- The die of a core id. -/
def dieOfCore (core : Nat) : Nat := dieOf (core % 16) (core / 16)

/-- The 16 core ids of a cluster, ascending in their number within it. -/
def clusterCores (cl : Nat) : List Nat := (List.range 16).map (coreOf cl)

/-! ## PC slots -/

/-- The slot A (`false`) or B (`true`). -/
def Slug.slot (m : Slug) (b : Bool) : Slot := if b then m.b else m.a

/-- Put a slot. -/
def Slug.putSlot (m : Slug) (b : Bool) (x : Slot) : Slug := if b then { m with b := x } else { m with a := x }

/-- Change a slot. -/
def Slug.modSlot (m : Slug) (b : Bool) (f : Slot → Slot) : Slug := m.putSlot b (f (m.slot b))

/-- How many live paths the slug has, in slots and on the stack (spec/01 R33). -/
def Slug.paths (m : Slug) : Nat :=
  (if m.a.path.isSome then 1 else 0) + (if m.b.path.isSome then 1 else 0) + m.stack.length

/-- HND of the control word (spec/02 R64). -/
def Slug.hndSet (m : Slug) : Bool := m.hnd.isSome

/-- DEPTH of `%txst` (spec/02 R65). -/
def Slug.depth (m : Slug) : Nat :=
  match m.tx with
  | some t => t.levels.length
  | none => 0

/-! ## Stopped engines (spec/06 R202) -/

/-- A part that stands stopped and undelivered, of an instruction of a slug: its forme, and the entry. -/
def State.stoppedOf (s : State) (fk sl : Nat) : Option (Nat × MqEntry) :=
  s.formes.findSome? (fun x => match x.2.mq.head? with
    | some e => if e.issuer == fk && e.slug == sl && e.stop.isSome && !e.delivered then some (x.1, e) else none
    | none => none)

/-! ## Registers (spec/02 R52, R54) -/

/-- A scalar register; `g0` reads zero. -/
def Slug.readG (m : Slug) (n : Nat) : Word := if n = 0 then 0 else m.g.look n

/-- Write a scalar register; a write to `g0` is discarded. -/
def Slug.writeG (m : Slug) (n : Nat) (x : Word) : Slug := if n = 0 then m else { m with g := m.g.put n x }

/-- A predicate register; `p0` reads all ones. -/
def Slug.readP (m : Slug) (n : Nat) : Mask := if n = 0 then 0xFFFFFFFF else m.p.look n

/-- Write the lanes `act` of a predicate register; `p0` is read-only. -/
def Slug.writeP (m : Slug) (n : Nat) (act x : Mask) : Slug :=
  if n = 0 then m else { m with p := m.p.put n ((m.p.look n &&& ~~~act) ||| (x &&& act)) }

/-- A vector register. -/
def Slug.readV (m : Slug) (n : Nat) : VReg := m.v.look n

/-- Write the lanes `act` of a vector register. -/
def Slug.writeV (m : Slug) (n : Nat) (act : Mask) (f : Fin 32 → Lane) : Slug :=
  { m with v := m.v.put n (Vector.ofFn (fun i => if act.getLsbD i.val then f i else (m.v.look n)[i])) }

/-- An exact accumulator. -/
def Slug.readX (m : Slug) (n : Nat) : XAcc := m.xa.look n

/-- Write an exact accumulator. -/
def Slug.writeX (m : Slug) (n : Nat) (x : XAcc) : Slug := { m with xa := m.xa.put n x }

/-- The number of active lanes. -/
def popcount (m : Mask) : Nat := (List.range 32).foldl (fun n i => if m.getLsbD i then n + 1 else n) 0

/-- The planes of a mask, ascending. -/
def planes (m : Mask) : List Nat := (List.range 32).filter (fun i => m.getLsbD i)

/-- The mask of a list of planes. -/
def maskOf (l : List Nat) : Mask := l.foldl (fun m i => m ||| (1#32 <<< i)) 0

/-- A value put into a list in ascending order of a key. -/
def insertBy {α : Type} (key : α → Nat) (x : α) : List α → List α
  | [] => [x]
  | y :: r => if key x < key y then x :: y :: r else y :: insertBy key x r

/-- A list in ascending order of a key; equal keys keep their order. -/
def sortBy {α : Type} (key : α → Nat) (l : List α) : List α := l.foldl (fun r x => insertBy key x r) []

/-! ## Lanes (spec/02 R67) -/

/-- The current slug and plane of a virtual lane id, and whether the lane is live. -/
def Forme.lane (m : Forme) (vlid : Nat) : Nat × Nat × Bool :=
  let r := m.remap.look vlid
  match r.moved with
  | some (a, b) => (a.toNat, b.toNat, !r.dead)
  | none => (vlid / 32, vlid % 32, !r.dead)

/-- The virtual lane id at a slug and plane: the lane the remap table places there, else the lane that started there. -/
def Forme.vlidAt (m : Forme) (sl pl : Nat) : Nat :=
  match m.remap.find? (fun e => e.2.moved == some (BitVec.ofNat 5 sl, BitVec.ofNat 5 pl) && !e.2.dead) with
  | some e => e.1
  | none => sl * 32 + pl

/-! ## Launch records (spec/10 R318) -/

/-- A field of a launch record: `n` bits from bit `lo` of the word at offset `off`. -/
def Launch.field (l : Launch) (off lo n : Nat) : Nat := (l.words.look (off / 8)).toNat / 2 ^ lo % 2 ^ n

def Launch.obj (l : Launch) : Nat := l.field 0x000 0 54
def Launch.strict (l : Launch) : Bool := l.field 0x008 63 1 == 1
def Launch.owner (l : Launch) : Nat := l.field 0x008 58 5
def Launch.alloc (l : Launch) : Nat := l.field 0x008 49 5
def Launch.spad (l : Launch) : Nat := l.field 0x008 46 3
def Launch.accNeed (l : Launch) : Nat := l.field 0x008 42 4
def Launch.entryOff (l : Launch) : Nat := l.field 0x008 0 32
def Launch.args (l : Launch) : Nat := l.field 0x010 0 54
def Launch.srseed (l : Launch) : Word := l.words.look 3
def Launch.glog (l : Launch) : Nat := l.field 0x020 54 6
def Launch.galley (l : Launch) : Nat := l.field 0x020 0 54
def Launch.signal (l : Launch) : Nat := l.field 0x028 0 54
def Launch.psz (l : Launch) : Nat := l.field 0x030 54 6
def Launch.priv (l : Launch) : Nat := l.field 0x030 0 54
def Launch.world (l : Launch) : Nat := l.field 0x038 0 12

/-- A level descriptor (spec/01 R19). -/
def Launch.lvl (l : Launch) (n : Nat) : Word := l.words.look (8 + n)
def Launch.extent (l : Launch) (n : Nat) : Nat := (l.lvl n).toNat / 2 ^ 32
def Launch.decl (l : Launch) (n : Nat) : Bool := (l.lvl n).getLsbD 23
def Launch.scope (l : Launch) (n : Nat) : BitVec 7 := (l.lvl n).extractLsb' 16 7
def Launch.gang (l : Launch) (n : Nat) : Bool := (l.lvl n).getLsbD 8
def Launch.pw (l : Launch) : Nat := ((l.lvl 2).extractLsb' 4 4).toNat
def Launch.ph (l : Launch) : Nat := ((l.lvl 2).extractLsb' 0 4).toNat

/-- The extent of a level, 1 when it is not declared (spec/01 R20). -/
def Launch.ext (l : Launch) (n : Nat) : Nat := if l.decl n then l.extent n else 1

/-- A segment descriptor (spec/07 R233). -/
def Launch.seg (l : Launch) (n : Nat) : Word := l.words.look (16 + n)

/-- The words of a zone descriptor (spec/10 R319). -/
def Launch.zone0 (l : Launch) (n : Nat) : Word := l.words.look (32 + 2 * n)
def Launch.zone1 (l : Launch) (n : Nat) : Word := l.words.look (33 + 2 * n)
def Launch.zoneV (l : Launch) (n : Nat) : Bool := (l.zone1 n).getLsbD 51
def Launch.zbase (l : Launch) (n : Nat) : Nat := if l.zoneV n then (l.zone0 n).toNat % 2 ^ 54 else 0
def Launch.zlen (l : Launch) (n : Nat) : Nat := if l.zoneV n then (l.zone1 n).toNat % 2 ^ 48 else 0

/-- The number of formes of the grid: its lane count over a forme's lane count (spec/10 R324). -/
def Launch.formeCount (l : Launch) : Nat :=
  l.ext 2 * l.ext 3 * l.ext 4 * l.ext 5 * l.ext 6 * l.ext 7

/-- The formes of one unit of placement: a pitch's, else one (spec/01 R20, R49). -/
def Launch.pitchSize (l : Launch) : Nat := if l.decl 3 then l.extent 2 else 1

/-- The formes in one unit of level `n` of 2 or more. -/
def Launch.formesPer (l : Launch) (n : Nat) : Nat :=
  ((List.range n).filter (fun k => decide (2 ≤ k))).foldl (fun a k => a * l.ext k) 1

/-- The outermost declared level of 3 to 7 that is ganged: a unit of it is placed as a whole (spec/01 R21, spec/10
R326); 2 when there is none. -/
def Launch.gangLevel (l : Launch) : Nat :=
  ((List.range 8).filter (fun k => decide (3 ≤ k) && l.decl k && l.gang k)).foldl max 2

/-- The formes of one unit of placement (spec/10 R326). -/
def Launch.unitSize (l : Launch) : Nat :=
  let g := l.gangLevel
  if g < 3 then 1 else l.formesPer g

/-- The key of forme `fidx` of launch `n`. -/
def formeKey (n fidx : Nat) : Nat := n * 2 ^ 48 + fidx

/-- A forme's coordinate of a level from 2 to 7 (spec/01 R24). -/
def Launch.coord (l : Launch) (fidx n : Nat) : Nat :=
  if l.decl n then fidx / l.formesPer n % l.extent n else 0

end Sys2Proof.Machine
end

