-- ==== Sys2Proof/Machine/Tx.lean ====
section
/-!
DEFINITION. Transactions as state: tracked lines, stamps, conflicts, aborts and roll-backs (spec/11 R343 to R350), and
wake entries with their signature (R357 to R360).
-/

namespace Sys2Proof.Machine

/-! ## Lines and stamps -/

/-- The key of a line (R359); `core` is the core of the forme that holds a scratchpad line. -/
def LineRef.key (l : LineRef) (core : Nat) : BitVec 45 :=
  if l.sp then 1#1 ++ BitVec.ofNat 8 core ++ 0#22 ++ BitVec.ofNat 14 l.line
  else 0#1 ++ 0#8 ++ BitVec.ofNat 36 l.line

/-- The two signature bits of a key (R359). -/
def sigBits (k : BitVec 45) : Nat × Nat :=
  let h1 : BitVec 10 := k.extractLsb' 0 10 ^^^ k.extractLsb' 10 10 ^^^ k.extractLsb' 20 10 ^^^ k.extractLsb' 30 10
    ^^^ (k.extractLsb' 40 5).zeroExtend 10
  let h2 : BitVec 10 := k.extractLsb' 5 10 ^^^ k.extractLsb' 15 10 ^^^ k.extractLsb' 25 10 ^^^ k.extractLsb' 35 10
  (h1.toNat, h2.toNat)

/-- A list with a value added at its end unless it is there. -/
def addNew {α : Type} [BEq α] (l : List α) (x : α) : List α := if l.contains x then l else l ++ [x]

/-- The lines of one kind over all open levels. -/
def Tx.lines (t : Tx) (f : TxLevel → List LineRef) : List LineRef := t.levels.flatMap f

/-- The transaction tracks the line as read (its read and retained sets). -/
def Tx.readsLine (t : Tx) (l : LineRef) : Bool := (t.lines (·.reads)).contains l || (t.lines (·.retained)).contains l

/-- The transaction holds the line in its write set. -/
def Tx.writesLine (t : Tx) (l : LineRef) : Bool := (t.lines (·.writes)).contains l

/-- Stamp order: a lower cycle, then a lower core id, then a lower slot is older (R343). -/
def olderStamp (a b : Nat × Nat × Nat) : Bool :=
  decide (a.1 < b.1) || (a.1 == b.1 && (decide (a.2.1 < b.2.1) || (a.2.1 == b.2.1 && decide (a.2.2 < b.2.2))))

/-- A transaction's stamp. -/
def Tx.stamp (t : Tx) : Nat × Nat × Nat := (t.stampCyc, t.stampCore, t.stampSlot)

/-- Every open transaction of the device. -/
def State.txs (s : State) : List (Nat × Nat × Tx) :=
  s.formes.flatMap (fun e => e.2.slugs.filterMap (fun m => m.2.tx.map (fun t => (e.1, m.1, t))))

/-- The oldest open transaction of the device (R346). -/
def State.oldestTx (s : State) : Option (Nat × Nat × Tx) :=
  s.txs.foldl (fun b e => match b with
    | none => some e
    | some o => if olderStamp e.2.2.stamp o.2.2.stamp then some e else b) none

/-! ## Roll-back -/

/-- The cycles an abort or roll-back takes for `v` vector registers written (R350). -/
def abortCycles (v : Nat) : Nat := 12 + (v + 7) / 8

/-- The vector registers written in levels (R350). -/
def vWritten (ls : List TxLevel) : Nat := (ls.flatMap (·.vw)).dedup.length

/-- The slug with its sole path moved to `pc`: the path carries no pending distance and no replay mask (spec/03 R89). -/
def Slug.soleAt (m : Slug) (pc : Addr) (mask : Mask) (ready : Nat) : Slug :=
  let inB := m.a.path.isNone && m.b.path.isSome
  let x : Slot := { (m.slot inB) with path := some { pk := false, pc := pc, mask := mask }, readyAt := ready,
                                      pend := [], part := none }
  { (m.putSlot inB x) with stack := [] }

/-- The registers of a checkpoint (R343). -/
def Slug.restore (m : Slug) (ck : Checkpoint) : Slug :=
  { m with g := ck.g, v := ck.v, p := ck.p, xa := ck.xa, srg := ck.srg }

/-- What opening a level records (R343): the registers and the address to continue at. -/
def Slug.checkpoint (m : Slug) (pc : Addr) (mask : Mask) : Checkpoint :=
  { g := m.g, v := m.v, p := m.p, xa := m.xa, srg := m.srg, pc := pc, mask := mask }

/-- The outermost level. -/
def Tx.outer (t : Tx) : TxLevel := t.levels.getLast?.getD {}

/-- The transaction as it stands when it starts again: one empty level, the stamp kept (R349). -/
def Tx.again (t : Tx) : Tx := { t with levels := [{ ck := t.outer.ck }], cpt := false, gwait := [], fired := false, seen := [] }

/-- An abort that restarts the transaction at the word after the outermost `TXB`: conflict (0x01) and pre-emption
(0x03) (R349). -/
def Slug.txRestart (m : Slug) (t : Tx) (cause : BitVec 8) (now : Nat) : Slug :=
  let ck := t.outer.ck
  { ((m.restore ck).soleAt ck.pc ck.mask (now + abortCycles (vWritten t.levels))) with
    tx := some t.again, cause := cause }

/-- An abort that ends the transaction at its abort target: `TXABT` (0x02) and `TX_CAPACITY` (0x30) (R349). -/
def Slug.txEnd (m : Slug) (t : Tx) (cause : BitVec 8) (now : Nat) : Slug :=
  let ck := t.outer.ck
  { ((m.restore ck).soleAt t.target ck.mask (now + abortCycles (vWritten t.levels))) with
    tx := none, cause := cause, stamp := none }

/-- Abort the transaction of a slug by conflict (R345, R346). -/
def State.conflictAbort (s : State) (fk sl : Nat) : State :=
  s.modSlug fk sl (fun m => match m.tx with
    | some t => m.txRestart t 0x01 s.cyc
    | none => m)

/-! ## Conflicts -/

/-- The open transactions that a write to the line from outside conflicts with (R346). -/
def State.trackers (s : State) (l : LineRef) : List (Nat × Nat × Tx) :=
  s.txs.filter (fun e => e.2.2.readsLine l || e.2.2.writesLine l)

/-- The oldest transaction of the device tracks the line, so a home holds a write to it (R346). -/
def State.heldLine (s : State) (l : LineRef) : Bool :=
  match s.oldestTx with
  | some e => e.2.2.readsLine l || e.2.2.writesLine l
  | none => false

/-- Abort every transaction that tracks the line (R346). -/
def State.abortTrackers (s : State) (l : LineRef) : State :=
  (s.trackers l).foldl (fun s e => s.conflictAbort e.1 e.2.1) s

/-- The other transactions that conflict with an access of slug `sl` of forme `fk` to a line (R345): those that hold it in
their write set, or, for a write, in their read or retained set. -/
def State.rivals (s : State) (fk sl : Nat) (l : LineRef) (write : Bool) : List (Nat × Nat × Tx) :=
  s.txs.filter (fun e => !(e.1 == fk && e.2.1 == sl) && (e.2.2.writesLine l || (write && e.2.2.readsLine l)))

/-! ## Wake entries -/

/-- The signature with the bits of a key. -/
def addSig (g : BitVec 1024) (k : BitVec 45) : BitVec 1024 :=
  g ||| (1#1024 <<< (sigBits k).1) ||| (1#1024 <<< (sigBits k).2)

/-- The core whose id stands in the key of a line (R359): the one that holds the part of a scratchpad line. -/
def State.keyCore (s : State) (l : LineRef) : Nat := if l.sp then (s.forme l.fk).core else 0

/-- The wake entry of a set of lines, the first 64 exactly, the others in the signature (R357). -/
def Wake.ofLines (ls : List LineRef) (core : LineRef → Nat) : Wake :=
  { lines := ls.take 64, sig := (ls.drop 64).foldl (fun g l => addSig g (l.key (core l))) 0, beyond := ls.drop 64 }

/-- A write to the line matches the entry (R357, R360). -/
def Wake.hits (w : Wake) (l : LineRef) (core : Nat) : Bool :=
  w.lines.contains l ||
    (let b := sigBits (l.key core)
     w.sig.getLsbD b.1 && w.sig.getLsbD b.2)

/-- The entry holds no line and no pseudo-line (R361). -/
def Wake.empty (w : Wake) : Bool :=
  w.lines.isEmpty && w.sig == 0 && !w.cpt && w.gwait.isEmpty

/-- The signatures follow the parts of a forme that has been given another core (R359, R361). -/
def State.rehash (s : State) : State :=
  let new (w : Wake) : Wake := { w with sig := w.beyond.foldl (fun g l => addSig g (l.key (s.keyCore l))) 0 }
  { s with formes := s.formes.mapVals (fun _ f => { f with slugs := f.slugs.mapVals (fun _ m => { m with wake := m.wake.map new }) }) }

/-- A bit vector of whole bytes, its byte 0 the lowest. -/
def vecBytes {w : Nat} (x : BitVec w) : List Byte := (List.range (w / 8)).map (fun i => x.extractLsb' (8 * i) 8)

/-- The 680 bytes of a sleeping slug's wake entry as it is saved (R358, R359): the flags, the generations awaited, the keys of the exact
lines, the signature. -/
def Wake.image (w : Wake) (core : LineRef → Nat) : List Byte :=
  let g (i : Nat) : Option (BitVec 32) := w.gwait.look i
  let glm : BitVec 8 := (List.range 8).foldl (fun m i => if (g i).isSome then m ||| (1#8 <<< i) else m) 0
  let head : Word := 1#1 ++ BitVec.ofBool (w.sig != 0) ++ BitVec.ofBool w.cpt ++ BitVec.ofBool w.fired ++ glm
    ++ BitVec.ofNat 7 w.lines.length ++ 0#45
  vecBytes head ++ (List.range 8).flatMap (fun i => vecBytes ((g i).getD 0))
    ++ (List.range 64).flatMap (fun i => match w.lines[i]? with
      | some l => vecBytes ((l.key (core l)).zeroExtend 64)
      | none => List.replicate 8 0)
    ++ vecBytes w.sig

/-- What a saved wake entry of 680 bytes says (R358): whether it is in use, the watched pseudo-lines, FIRED, the keys of the exact lines,
the signature. -/
structure WakeImage where
  v : Bool
  cpt : Bool
  fired : Bool
  gwait : Sparse (Option (BitVec 32))
  keys : List (BitVec 45)
  sig : BitVec 1024
  deriving DecidableEq, Repr

/-- The fields of a saved wake entry. -/
def wakeOf (bs : List Byte) : WakeImage :=
  let at' (i n : Nat) : Nat := ((bs.drop i).take n).foldr (fun b n => b.toNat + 256 * n) 0
  let head : Word := BitVec.ofNat 64 (at' 0 8)
  { v := head.getLsbD 63
    cpt := head.getLsbD 61
    fired := head.getLsbD 60
    gwait := (List.range 8).foldl (fun m i => if head.getLsbD (52 + i) then m.put i (some (BitVec.ofNat 32 (at' (8 + 4 * i) 4))) else m) []
    keys := (List.range (head.extractLsb' 45 7).toNat).map (fun i => BitVec.ofNat 45 (at' (40 + 8 * i) 8))
    sig := BitVec.ofNat 1024 (at' 552 128) }

/-- The pseudo-lines an open transaction watches, as a wake entry (R344). -/
def Tx.watch (t : Tx) : Wake := { cpt := t.cpt, gwait := t.gwait }

/-- Set FIRED in the wake entries that a condition picks, and note it in the open transactions whose pseudo-lines it picks
(R360). -/
def State.fireWhere (s : State) (c : Nat → Forme → Nat → Wake → Bool) : State :=
  { s with formes := s.formes.mapVals (fun fk f => { f with slugs := f.slugs.mapVals (fun sl m =>
      { m with
        wake := m.wake.map (fun w => if c fk f sl w then { w with fired := true } else w)
        tx := m.tx.map (fun t => if c fk f sl t.watch then { t with fired := true } else t) }) }) }

/-- A write to a line is performed: matching sleepers get FIRED (R360). -/
def State.fireLine (s : State) (l : LineRef) : State :=
  s.fireWhere (fun _ _ _ w => w.hits l (s.keyCore l))

/-- The forme's `%cptag` has changed (spec/02 R66, R360). -/
def State.fireCptag (s : State) (fk : Nat) : State := s.fireWhere (fun k _ _ w => k == fk && w.cpt)

end Sys2Proof.Machine
end

