-- ==== Sys2Proof/Machine/Memory.lean ====
section
/-!
DEFINITION. Device memory: physical lines with generation tags (spec/07 R223, R226, R237), the page-table walk and the
translation buffers (R215 to R225), the homes with recalls, holds and conflicts (R227, R231, spec/11 R346), and L1
(R228 to R230).
-/

namespace Sys2Proof.Machine

/-- A fault's code, fields of its record's detail, and address (spec/18 R449, R450); `win` is the address of a fault at a
pitch-window address, which is no device virtual address. -/
structure Flt where
  code : BitVec 8
  reason : BitVec 8 := 0
  va : Nat := 0
  d0 : Nat := 0
  d1 : Word := 0
  sub : BitVec 8 := 0
  win : Nat := 0
  deriving DecidableEq, Repr, Inhabited

/-! ## Physical memory -/

/-- A physical range lies whole in the first or in the second tier (R223). -/
def inTier (tier pa n : Nat) : Bool :=
  if tier = 0 then decide (pa + n ≤ 0x3000000000)
  else tier == 1 && decide (0x40000000000 ≤ pa ∧ pa + n ≤ 0x58000000000)

/-- The frame that holds a physical address. -/
def frameOf (pa : Nat) : Nat := pa / 2 ^ 18

/-- The line that holds a physical address (R226). -/
def lineOf (pa : Nat) : Nat := pa / 128

/-- The home slice of a line (R226). -/
def homeSlice (line : Nat) : Nat :=
  let n := BitVec.ofNat 36 line
  (n.extractLsb' 0 6 ^^^ n.extractLsb' 6 6 ^^^ n.extractLsb' 12 6 ^^^ n.extractLsb' 18 6 ^^^ n.extractLsb' 24 6
    ^^^ n.extractLsb' 30 6).toNat

/-- The line's tag is its frame's current generation (R237). -/
def State.lineFresh (s : State) (line : Nat) : Bool := s.lineGen.look line == (s.frames.look (frameOf (line * 128))).gen

/-- A byte of physical memory; a line of an older generation reads zero (R237). -/
def State.physByte (s : State) (pa : Nat) : Byte := if s.lineFresh (lineOf pa) then s.dram.look pa else 0

/-- Bytes of physical memory. -/
def State.physBytes (s : State) (pa : Nat) : Nat → List Byte
  | 0 => []
  | n + 1 => s.physByte pa :: s.physBytes (pa + 1) n

/-- Write one byte: the line takes the current generation, and a stale line's other bytes become zero, a data error of its old bytes
with them (R237). -/
def State.physPut (s : State) (pa : Nat) (b : Byte) : State :=
  let line := lineOf pa
  if s.lineFresh line then { s with dram := s.dram.put pa b }
  else { s with
    dram := (s.dram.putBytes (line * 128) (List.replicate 128 0)).put pa b
    poison := s.poison.filter (· != line)
    lineGen := s.lineGen.put line (s.frames.look (frameOf pa)).gen }

/-- Write bytes at rising addresses. -/
def State.physWrite (s : State) (pa : Nat) : List Byte → State
  | [] => s
  | b :: r => (s.physPut pa b).physWrite (pa + 1) r

/-- A little-endian 64-bit word of bytes. -/
def wordOf (bs : List Byte) : Word := BitVec.ofNat 64 (bs.foldr (fun b n => b.toNat + 256 * n) 0)

/-- The low `n` bytes of a number, lowest first. -/
def bytesOf (n k : Nat) : List Byte := (List.range n).map (fun i => BitVec.ofNat 8 (k / 256 ^ i))

/-- The number of a little-endian byte list. -/
def natOf (bs : List Byte) : Nat := bs.foldr (fun b n => b.toNat + 256 * n) 0

/-- The canonical form of device memory: addresses rising, no byte equal to the zero that an unlisted address reads as; the same of
the lines' tags. -/
def Memory.wf (s : State) : Bool := Sparse.wf s.dram && Sparse.wf s.lineGen

/-- A 64-bit word of physical memory. -/
def State.physWord (s : State) (pa : Nat) : Word := wordOf (s.physBytes pa 8)

/-! ## Leaves and the walk (R215 to R222) -/

/-- A leaf entry found by a walk: its two words, level, the owner of its root entry, the base of its page. -/
structure Leaf where
  lo : Word
  hi : Word
  level : Nat
  part : Nat
  base : Nat
  deriving DecidableEq, Repr, Inhabited

/-- The bytes of a page of a level (R216). -/
def pageSize (level : Nat) : Nat := 2 ^ (18 + 9 * level)

def Leaf.peer (l : Leaf) : Nat := (l.hi.extractLsb' 49 9).toNat
def Leaf.key (l : Leaf) : BitVec 8 := l.hi.extractLsb' 41 8
def Leaf.fmt (l : Leaf) : Nat := (l.hi.extractLsb' 36 5).toNat
def Leaf.geo (l : Leaf) : BitVec 3 := l.hi.extractLsb' 33 3
def Leaf.ord (l : Leaf) : Nat := (l.hi.extractLsb' 31 2).toNat
def Leaf.mt (l : Leaf) : Nat := (l.hi.extractLsb' 28 3).toNat
def Leaf.tier (l : Leaf) : Nat := (l.hi.extractLsb' 26 2).toNat
def Leaf.ps (l : Leaf) : Nat := (l.hi.extractLsb' 24 2).toNat
def Leaf.hs (l : Leaf) : Bool := l.hi.getLsbD 23
def Leaf.x (l : Leaf) : Bool := l.hi.getLsbD 22
def Leaf.w (l : Leaf) : Bool := l.hi.getLsbD 21
def Leaf.r (l : Leaf) : Bool := l.hi.getLsbD 20
def Leaf.frame (l : Leaf) : Nat := l.lo.toNat / 2 ^ 18 * 2 ^ 18
def Leaf.size (l : Leaf) : Nat := pageSize l.level

/-- The L1 kind of a leaf (R219). -/
def Leaf.kind (l : Leaf) : LineKind := if l.ord = 0 then .so else if l.ord = 1 then .rc else .uo

/-- An attribute is a format (spec/04 R111). -/
def isFormat (fmt : Nat) (geo : BitVec 3) : Bool := decide (fmt ≤ 23) && (decide (17 ≤ fmt) || geo == 0)

/-- Why the walker treats a leaf as not present, as a REASON of spec/18 R450; `none` for a good leaf (R218 to R220;
log entry 5). -/
def Leaf.broken (l : Leaf) : Option (BitVec 8) :=
  let tiered := l.mt == 0 || l.mt == 1
  if l.hi.extractLsb' 58 6 != 0 || l.hi.extractLsb' 0 20 != 0 || l.lo.extractLsb' 2 16 != 0 then some 0x01
  else if l.ord == 3 || decide (4 < l.mt) || l.tier == 3 || l.ps == 3 then some 0x01
  else if l.ps != l.level || l.frame % l.size != 0 then some 0x01
  else if tiered == (l.tier == 2) then some 0x0C
  else if tiered && !inTier l.tier l.frame l.size then some 0x01
  else if (if l.mt == 1 then decide (l.key.toNat < 1 ∨ 239 < l.key.toNat) else l.key != 0) then some 0x0A
  else if l.mt != 3 && l.peer != 0 then some 0x01
  else if l.mt == 2 && l.ord != 0 then some 0x0C
  else if l.x && l.mt != 0 then some 0x0B
  else if !isFormat l.fmt l.geo then some 0x03
  else none

/-- The table entry `idx` of a table. -/
def State.entry (s : State) (table idx : Nat) : Word × Word :=
  (s.physWord (table + 16 * idx), s.physWord (table + 16 * idx + 8))

/-- A present non-leaf entry's next table (R217): Rsvd zero, PART zero below the root, the table in device memory. -/
def nextTable (lo hi : Word) (root : Bool) : Option Nat :=
  let n := lo.toNat / 2 ^ 13 * 2 ^ 13
  if lo.getLsbD 0 && !lo.getLsbD 1 && hi.extractLsb' 6 58 == 0 && (root || hi.extractLsb' 0 6 == 0)
      && lo.extractLsb' 2 11 == 0 && (inTier 0 n 8192 || inTier 1 n 8192) then some n else none

/-- The leaf that maps an address, found from a table of level `lv` down (R216); `none` when an entry is not present. -/
def State.walkAt (s : State) (va part : Nat) : Nat → Nat → Option Leaf
  | 0, table =>
    let e := s.entry table (va / 2 ^ 18 % 512)
    if e.1.getLsbD 0 && e.1.getLsbD 1 then
      some { lo := e.1, hi := e.2, level := 0, part := part, base := va / pageSize 0 * pageSize 0 }
    else none
  | lv + 1, table =>
    let e := s.entry table (va / 2 ^ (18 + 9 * (lv + 1)) % 512)
    if e.1.getLsbD 0 && e.1.getLsbD 1 then
      some { lo := e.1, hi := e.2, level := lv + 1, part := part, base := va / pageSize (lv + 1) * pageSize (lv + 1) }
    else match nextTable e.1 e.2 false with
      | some n => s.walkAt va part lv n
      | none => none

/-- The partition that owns the root range of an address (R215): as granted, or as a present root entry names it. -/
def State.rootPart (s : State) (va : Nat) : Option Nat :=
  match s.roots.look (va / 2 ^ 45 % 512) with
  | some p => some p
  | none =>
    let e := s.entry s.root (va / 2 ^ 45 % 512)
    (nextTable e.1 e.2 true).map (fun _ => (e.2.extractLsb' 0 6).toNat)

/-- The leaf of a canonical address, present or broken. -/
def State.walk (s : State) (va : Nat) : Option Leaf :=
  let e := s.entry s.root (va / 2 ^ 45 % 512)
  match nextTable e.1 e.2 true with
  | some n => s.walkAt va (e.2.extractLsb' 0 6).toNat 2 n
  | none => none

/-- What a TLB fill finds wrong with the frames a leaf covers (R222). -/
def State.fillCheck (s : State) (l : Leaf) (va : Nat) : Option Flt :=
  if l.mt == 0 || l.mt == 1 then
    let fs := (List.range (l.size / 2 ^ 18)).map (fun i => s.frames.look (l.frame / 2 ^ 18 + i))
    if fs.any (fun f => f.key != (if l.mt == 1 then l.key else 0) && f.owner.isSome) then some { code := 0x12, va := va, d1 := l.hi }
    else if fs.any (·.retired) then
      some { code := 0x42, va := va, d1 := BitVec.ofNat 64 (lineOf (l.frame + (va - l.base))) }
    else if fs.any (fun f => f.owner != some l.part) then some { code := 0x11, reason := 0x06, va := va, d1 := l.hi }
    else none
  else none

/-! ## Translation buffers (R224) -/

/-- A cached translation covers the address. -/
def TlbEntry.covers (e : TlbEntry) (va : Nat) : Bool :=
  decide (e.base ≤ va ∧ va < e.base + 2 ^ (18 + 9 * (e.hi.extractLsb' 24 2).toNat))

/-- The translation a buffer holds for an address. -/
def tlbLook (t : List TlbEntry) (va : Nat) : Option Leaf :=
  (t.find? (·.covers va)).map (fun e =>
    { lo := e.lo, hi := e.hi, level := (e.hi.extractLsb' 24 2).toNat, part := e.part, base := e.base })

/-- A buffer of a size with one more translation, the newest first. -/
def tlbAdd (t : List TlbEntry) (n : Nat) (l : Leaf) : List TlbEntry :=
  ({ base := l.base, lo := l.lo, hi := l.hi, part := l.part } :: t).take n

/-- Every buffer drops the translations of a page range (R225). -/
def State.tlbDrop (s : State) (base size : Nat) : State :=
  let keep (t : List TlbEntry) := t.filter (fun e =>
    !(decide (e.base < base + size ∧ base < e.base + 2 ^ (18 + 9 * (e.hi.extractLsb' 24 2).toNat))))
  { s with cores := s.cores.mapVals (fun _ c => { c with tlb := keep c.tlb }),
           clusters := s.clusters.mapVals (fun _ c => { c with tlb := keep c.tlb }) }

/-- Why an address has no leaf: withdrawn from the partition (spec/14 R389), else not present. -/
def State.absentReason (s : State) (va : Nat) : BitVec 8 :=
  match s.rootPart va with
  | some p => if (s.part p).gone.any (fun e => decide (e.1 ≤ va ∧ va < e.1 + e.2)) then 0x04 else 0x01
  | none => 0x01

/-- The leaf for an address through a core's buffers, or by a walk when no core is given (an engine of the device); a
fault of the walk (R215, R220, R222). -/
def State.leafFor (s : State) (core : Option Nat) (va : Nat) : State × Except Flt Leaf :=
  if 2 ^ 54 ≤ va then (s, .error { code := 0x10, reason := 0x02, va := va % 2 ^ 54 })
  else
    let cached : Option Leaf := match core with
      | none => none
      | some c => match tlbLook (s.core c).tlb va with
        | some l => some l
        | none => tlbLook (s.cluster (clusterOf c)).tlb va
    let keep (l : Leaf) : State := match core with
      | none => s
      | some c =>
        if (tlbLook (s.core c).tlb va).isSome then s
        else (s.modCluster (clusterOf c) (fun k => if (tlbLook k.tlb va).isSome then k else { k with tlb := tlbAdd k.tlb 8192 l })).modCore c
          (fun k => { k with tlb := tlbAdd k.tlb 128 l })
    match cached with
    | some l => (keep l, .ok l)
    | none => match s.walk va with
      | none => (s, .error { code := 0x10, reason := s.absentReason va, va := va })
      | some l => match l.broken with
        | some r => (s, .error { code := 0x10, reason := r, va := va, d0 := if r = 0x03 then l.fmt else 0, d1 := l.hi })
        | none => match s.fillCheck l va with
          | some f => (s, .error f)
          | none => (keep l, .ok l)

/-- Access types (R221). -/
inductive Need where
  | read | write | both | fetch
  deriving DecidableEq, Repr, Inhabited

/-- The leaf's bits allow the access. -/
def Leaf.allows (l : Leaf) (n : Need) : Bool :=
  match n with
  | .read => l.r
  | .write => l.w
  | .both => l.r && l.w
  | .fetch => l.x

/-- The lines that are poisoned now (R237, spec/18 R470): those with a metadata error, and those with a data error while their tag
is their frame's generation, for the data of a line of an older generation is not checked. -/
def State.badLines (s : State) : List Nat := s.metaPoison ++ s.poison.filter s.lineFresh

/-- The first poisoned line of a physical range (spec/18 R470). -/
def State.poisoned (s : State) (pa n : Nat) : Option Nat :=
  (s.badLines.filter (fun l => decide (lineOf pa ≤ l ∧ l * 128 < pa + n))).foldl (fun b l => match b with
    | some x => some (Nat.min x l)
    | none => some l) none

/-- An address translated for an access of `n` bytes on one page by a partition: the physical address and the leaf, or the
first fault in the order of spec/09 R275: absence, key, poison, rights (R221, R222, spec/14 R394). -/
def State.translate (s : State) (core : Option Nat) (part va n : Nat) (need : Need) : State × Except Flt (Nat × Leaf) :=
  match s.leafFor core va with
  | (s, .error f) => (s, .error f)
  | (s, .ok l) =>
    let pa := l.frame + (va - l.base)
    let tiered := l.mt == 0 || l.mt == 1
    if tiered && (s.poisoned pa n).isSome then
      (s, .error { code := 0x42, va := va, d1 := BitVec.ofNat 64 ((s.poisoned pa n).getD 0) })
    else if tiered && (s.frames.look (frameOf pa)).owner != some part then
      (s, .error { code := 0x11, reason := 0x06, va := va, d1 := l.hi })
    else if !l.allows need then (s, .error { code := 0x11, reason := 0x0B, va := va, d1 := l.hi })
    else (s, .ok (pa, l))

/-! ## Hotness sampling (R240) -/

/-- A home counts an access; of the access that brings a counter to zero it keeps the record of R241 until the event
HOTNESS_SAMPLE writes it. `type` is its TYPE code. -/
def State.hot (s : State) (h : HotInfo) (pa type : Nat) : State :=
  let p := s.part h.part
  let k := p.hsk.toNat
  if !h.hs || k == 0 then s
  else
    let slice := homeSlice (lineOf pa)
    let c := if p.hsCount.look slice = 0 then 2 ^ k else p.hsCount.look slice
    if c = 1 then
      let w3 := BitVec.ofNat 64 s.ptpNow
      let w2 : Word := BitVec.ofNat 54 h.va ++ 0#9 ++ BitVec.ofBool h.core.isSome
      let w1 : Word := BitVec.ofNat 12 h.world ++ BitVec.ofNat 8 (h.core.getD 0xFF) ++ BitVec.ofNat 4 type
        ++ BitVec.ofNat 2 h.tier ++ BitVec.ofNat 6 slice ++ 0#32
      let rec32 := bytesOf 8 0 ++ bytesOf 8 w1.toNat ++ bytesOf 8 w2.toNat ++ bytesOf 8 w3.toNat
      s.modPart h.part (fun p => { p with hsCount := p.hsCount.put slice 0, hsPending := p.hsPending ++ [rec32] })
    else s.modPart h.part (fun p => { p with hsCount := p.hsCount.put slice (c - 1) })

/-- What is recorded of an access that starts at `h.va`, at the part of it that lies `n` bytes further on. -/
def HotInfo.plus (h : HotInfo) (n : Nat) : HotInfo := { h with va := h.va + n }

/-! ## L2 (R226, spec/14 R386) -/

/-- The L2 ways that a list of partitions holds. -/
def waysHeld (l : List (Nat × Partition)) : Nat := l.foldl (fun n e => n + e.2.ways) 0

/-- The L2 ways a partition's lines may take: its own, which follow those of the partitions with lower numbers, or, when it holds
none, those that no partition holds (spec/14 R386; log entry 81). -/
def State.waysOf (s : State) (p : Nat) : List Nat :=
  if (s.part p).ways = 0 then (List.range 16).drop (waysHeld s.parts)
  else ((List.range 16).drop (waysHeld (s.parts.filter (fun e => decide (e.1 < p))))).take (s.part p).ways

/-- The set of a line among the 4,096 sets of its home slice (log entry 81). -/
def l2Set (line : Nat) : Nat := homeSlice line * 4096 + line / 64 % 4096

/-- A line that its home reads or writes stands in L2 afterwards: in a way its partition may take, an empty one first, else in place
of a line that stands in one of them, which one is open (spec/14 R386). -/
def State.l2Fill (s : State) (line : Nat) : State :=
  let set := s.l2.look (l2Set line)
  let ways := match (s.frames.look (frameOf (line * 128))).owner with
    | some p => s.waysOf p
    | none => (List.range 16).drop (waysHeld s.parts)
  if ways.isEmpty || set.any (fun e => e.2 == some line) then s
  else match ways.find? (fun w => (set.look w).isNone) with
    | some w => { s with l2 := s.l2.put (l2Set line) (set.put w (some line)) }
    | none =>
      let w := ways.getD (Config.choice s.fresh % ways.length) 0
      { s.tookFree with l2 := s.l2.put (l2Set line) (set.put w (some line)) }

/-! ## Homes (R227, R231, spec/11 R346) -/

/-- The channel that stores a second-tier line, and the I/O die it is on (R226). -/
def channelOf (line : Nat) : Nat := line % 192
def channelDie (channel : Nat) : Nat := channel / 96

/-- The compute die of a home slice, in whose bonded DRAM its first-tier lines are stored (R226). -/
def sliceDie (slice : Nat) : Nat := slice / 16

/-- Every core drops its SO copy of a line (R228). -/
def State.dropSharers (s : State) (line : Nat) : State :=
  { s with cores := s.cores.mapVals (fun _ c =>
      if (c.l1.look line).kind = .so then { c with l1 := c.l1.put line {} } else c) }

/-- Bytes of one line are written at its home: transactions that track the line abort, SO copies go, sleepers fire. -/
def State.homeSet (s : State) (pa : Nat) (bs : List Byte) : State :=
  let l : LineRef := { line := lineOf pa }
  (((s.l2Fill l.line).abortTrackers l).physWrite pa bs |>.dropSharers l.line).fireLine l

/-- A home holds an access back until the oldest transaction is over (spec/11 R346). -/
def State.park (s : State) (x : Held) : State := { s with held := s.held ++ [x] }

/-- A reduction of one line applied to its location at the home (R231), or held back. -/
def State.homeRed (s : State) (pa op : Nat) (t : Ty) (v : Nat) (w : HeldBy := .device) (h : HotInfo := {}) (type : Nat := 3) : State :=
  let l : LineRef := { line := lineOf pa }
  if s.heldLine l then
    s.park { line := l, addr := pa, bytes := bytesOf t.bytes v, op := .red op t, src := w, hot := h, type := type }
  else (s.homeSet pa (bytesOf t.bytes (amo op t (natOf (s.physBytes pa t.bytes)) v))).hot h pa type

/-- A core sends its U partial of a line home and drops it (R230); it counts as one access of the home. While the home holds the
line back for the oldest transaction, the partial stays in the core, unsent. -/
def State.sendPartial (s : State) (core line : Nat) : State :=
  if s.heldLine { line := line } then s
  else
    let p := (s.core core).partials.look line
    let s := s.modCore core (fun c => { c with partials := c.partials.put line {} })
    let s := p.cells.foldl (fun s e => match e.2 with
      | some v => s.homeRed e.1 p.op p.ty v.toNat
      | none => s) s
    match p.cells with
    | [] => s
    | e :: _ => s.hot (p.hot.plus (e.1 - line * 128)) e.1 3

/-- The home recalls every U copy of a line (R231): the partials arrive in ascending order of their cores (log entry 82). -/
def State.recall (s : State) (line : Nat) : State :=
  s.cores.foldl (fun s e => if (e.2.partials.look line).cells.isEmpty then s else s.sendPartial e.1 line) s

/-- Some core holds a U copy of the line. -/
def State.anyPartial (s : State) (line : Nat) : Bool := s.cores.any (fun e => !(e.2.partials.look line).cells.isEmpty)

/-- A write of one line performed at its home after the recall of its U copies (R231), or held back. -/
def State.homePut (s : State) (pa : Nat) (bs : List Byte) (w : HeldBy := .device) (h : HotInfo := {}) (type : Nat := 1) : State :=
  let l : LineRef := { line := lineOf pa }
  if s.heldLine l then s.park { line := l, addr := pa, bytes := bs, src := w, hot := h, type := type }
  else ((s.recall l.line).homeSet pa bs).hot h pa type

/-- The lines of a byte range, ascending. -/
def linesOf (pa n : Nat) : List Nat :=
  if n = 0 then [] else (List.range ((pa + n - 1) / 128 - pa / 128 + 1)).map (· + pa / 128)

/-- A read of one line at its home, after the recall of its U copies (R231); where the home holds their partials back for the oldest
transaction, it holds the read as well. -/
def State.homeLook (s : State) (line pa n : Nat) (w : HeldBy) (h : HotInfo) (type : Nat) : State :=
  let l : LineRef := { line := line }
  if s.heldLine l && s.anyPartial line then s.park { line := l, addr := pa, op := .look n, src := w, hot := h, type := type }
  else ((s.recall line).l2Fill line).hot h pa type

/-- Read bytes at their homes. -/
def State.homeRead (s : State) (pa n : Nat) (h : HotInfo := {}) (type : Nat := 0) (w : HeldBy := .device) : State × List Byte :=
  let s := (linesOf pa n).foldl (fun s l =>
    let lo := max pa (l * 128)
    s.homeLook l lo (min (pa + n) ((l + 1) * 128) - lo) w (h.plus (lo - pa)) type) s
  (s, s.physBytes pa n)

/-- Write bytes at their homes, line by line. -/
def State.homeWrite (s : State) (pa : Nat) (bs : List Byte) (w : HeldBy := .device) (h : HotInfo := {}) (type : Nat := 1) : State :=
  (linesOf pa bs.length).foldl (fun s l =>
    let lo := max pa (l * 128)
    let hi := min (pa + bs.length) ((l + 1) * 128)
    s.homePut lo ((bs.drop (lo - pa)).take (hi - lo)) w (h.plus (lo - pa)) type) s

/-- A read of the range must wait: a core holds a U copy of one of its lines that the home holds back (R231, spec/11 R346). -/
def State.readWaits (s : State) (pa n : Nat) : Bool := (linesOf pa n).any (fun l => s.heldLine { line := l } && s.anyPartial l)

/-- A core holds bytes or a partial that their home holds back for the oldest transaction. -/
def State.stuckAt (s : State) (core : Nat) : Bool :=
  (s.core core).l1.any (fun e => e.2.dirty != 0 && s.heldLine { line := e.1 })
    || (s.core core).partials.any (fun e => s.heldLine { line := e.1 })

/-! ## L1 (R228 to R230) -/

/-- The L1 line of a core. -/
def State.l1Line (s : State) (core line : Nat) : L1Line := (s.core core).l1.look line

/-- Put an L1 line; the default takes it out. -/
def State.putL1 (s : State) (core line : Nat) (x : L1Line) : State :=
  s.modCore core (fun c => { c with l1 := c.l1.put line x })

/-- Dirty bytes of a line, those of a mask, are written at its home; the copy stays (R229). While the home holds writes of the line
back for the oldest transaction, the bytes stay dirty. -/
def State.writeBackOf (s : State) (core line : Nat) (mask : BitVec 128) : State :=
  let x := s.l1Line core line
  let out := x.dirty &&& mask
  if out = 0 || s.heldLine { line := line } then s
  else
    let left := x.dirty &&& ~~~mask
    let s := s.putL1 core line
      { x with dirty := left, glue := x.glue &&& ~~~mask, valid := x.valid || x.dirty == BitVec.allOnes 128
               owners := if left = 0 then [] else x.owners }
    let s := (s.recall line).hot x.hot (line * 128) 1
    (List.range 128).foldl (fun s i => if out.getLsbD i then s.homeSet (line * 128 + i) [x.data.getD i 0] else s) s

/-- All dirty bytes of a line. -/
def State.writeBack (s : State) (core line : Nat) : State := s.writeBackOf core line (BitVec.allOnes 128)

/-- Write back and drop a line; of a line whose dirty bytes are held back those stay, and nothing else of it. -/
def State.evict (s : State) (core line : Nat) : State :=
  let s := s.writeBack core line
  let x := s.l1Line core line
  s.putL1 core line (if x.dirty = 0 then {} else { x with valid := false })

/-- Write back, and drop if asked, the lines of a core that satisfy a test. -/
def State.sweep (s : State) (core : Nat) (p : Nat → L1Line → Bool) (drop : Bool) : State :=
  (s.core core).l1.foldl (fun s e => if p e.1 e.2 then (if drop then s.evict core e.1 else s.writeBack core e.1) else s) s

/-- Send the U partials of a core home, those of lines that satisfy a test. -/
def State.flushOf (s : State) (core : Nat) (p : Nat → Bool) : State :=
  (s.core core).partials.foldl (fun s e => if p e.1 then s.sendPartial core e.1 else s) s

/-- Send every U partial of a core home. -/
def State.flushU (s : State) (core : Nat) : State := s.flushOf core (fun _ => true)

/-- A mask holds a letter other than F (R228). -/
def beyondF (mask : BitVec 7) : Bool := mask &&& 0x7E#7 != 0

/-- The L1 action of an acquire (R228): dirty RC bytes go home, then RC lines are dropped. -/
def State.acquire (s : State) (core : Nat) (mask : BitVec 7) : State :=
  if beyondF mask then s.sweep core (fun _ x => x.kind == .rc) true else s

/-- The L1 action of a release on the lines that satisfy a test (R228, R230): dirty RC bytes and U partials go home. -/
def State.releaseOf (s : State) (core : Nat) (p : Nat → Bool) : State :=
  (s.sweep core (fun l x => p l && x.kind != .uo) false).flushOf core p

/-- The L1 action of a release (R228, R230). -/
def State.release (s : State) (core : Nat) (mask : BitVec 7) : State :=
  if beyondF mask then s.releaseOf core (fun _ => true) else s

/-- The L1 action on UO lines of a fence (R228): dirty bytes go home, then the lines are dropped. -/
def State.dropUo (s : State) (core : Nat) : State := s.sweep core (fun _ x => x.kind == .uo) true

/-- The L1 action of a fence (R228): as release, then as acquire; UO lines are written back and dropped. -/
def State.fence (s : State) (core : Nat) (mask : BitVec 7) : State :=
  if beyondF mask then ((s.dropUo core).release core mask).acquire core mask else s

/-- A core still has RC bytes or U partials to send home, of lines that satisfy a test: its homes have not acknowledged them, and a
release waits (R228). -/
def Core.unsent (c : Core) (p : Nat → Bool) : Bool :=
  c.l1.any (fun e => p e.1 && e.2.dirty != 0 && e.2.kind != .uo) || c.partials.any (fun e => p e.1)

/-- A release with a mask has to wait for its homes. -/
def State.relWaits (s : State) (core : Nat) (mask : BitVec 7) : Bool := beyondF mask && (s.core core).unsent (fun _ => true)

/-- A fence with a mask has to wait for its homes, for UO bytes too (R228). -/
def State.fenceWaits (s : State) (core : Nat) (mask : BitVec 7) : Bool :=
  s.relWaits core mask || (beyondF mask && (s.core core).l1.any (fun e => e.2.dirty != 0))

/-- The lines an L1 holds beside the scratchpad part (spec/01 R26). -/
def Core.l1Lines (c : Core) : Nat := (8 - c.p) * 2048

/-- A transaction of a slug of the core tracks the line: it stays in L1 (spec/11 R344). -/
def State.trackedAt (s : State) (core line : Nat) : Bool :=
  s.txs.any (fun e => (s.forme e.1).core == core && (e.2.2.readsLine { line := line } || e.2.2.writesLine { line := line }))

/-- The lines a core may evict now. -/
def State.victims (s : State) (core : Nat) : List Nat :=
  ((s.core core).l1.filter (fun e => !s.trackedAt core e.1 && !(e.2.dirty != 0 && s.heldLine { line := e.1 }))).map (·.1)
    ++ ((s.core core).partials.filter (fun e => !s.heldLine { line := e.1 })).map (·.1)

/-- Room for one more line in a core's L1, lines in U among them (R228): a full L1 first evicts one, which one is open (R229);
`false` when it may evict none. -/
def State.makeRoom (s : State) (core : Nat) : State × Bool :=
  let c := s.core core
  if c.l1.length + c.partials.length < c.l1Lines then (s, true)
  else
    let vs := s.victims core
    if vs.isEmpty then (s, false)
    else
      let v := vs.getD (Config.choice s.fresh % vs.length) 0
      ((s.tookFree.sendPartial core v).evict core v, true)

/-- A line put into a core's L1 if there is room for it. -/
def State.install (s : State) (core line : Nat) (x : L1Line) : State :=
  if !(s.l1Line core line).data.isEmpty then s.putL1 core line x
  else match s.makeRoom core with
    | (s, true) => s.putL1 core line x
    | (s, false) => s

/-- Fill a line from its home, keeping the core's own dirty bytes (R228, R229); the answer is the line's bytes. -/
def State.fill (s : State) (core line : Nat) (k : LineKind) (h : HotInfo) : State × List Byte :=
  let r := s.homeRead (line * 128) 128 { h with va := h.va / 128 * 128 } 0
  let x := r.1.l1Line core line
  let d := (List.range 128).map (fun i => if x.dirty.getLsbD i then x.data.getD i 0 else r.2.getD i 0)
  (r.1.install core line { x with kind := k, valid := true, hot := h, data := d }, d)

/-- A core's copy of a line as an access of a kind finds it: its own partial has gone home, and so has a copy of another kind (R230,
R219). -/
def State.l1Ready (s : State) (core line : Nat) (k : LineKind) : State :=
  let s := if ((s.core core).partials.look line).cells.isEmpty then s else s.sendPartial core line
  let x := s.l1Line core line
  if !x.data.isEmpty && x.kind != k then s.evict core line else s

/-- A core reads bytes within one line (R228, R246): its own dirty bytes or a filled copy, else after a fill. -/
def State.l1Read (s : State) (core pa n : Nat) (k : LineKind) (h : HotInfo) : State × List Byte :=
  let line := lineOf pa
  let s := s.l1Ready core line k
  let x := s.l1Line core line
  let own := (List.range n).all (fun i => x.dirty.getLsbD (pa % 128 + i))
  if !x.data.isEmpty && (x.valid || own) then (s, (x.data.drop (pa % 128)).take n)
  else
    let r := s.fill core line k h
    (r.1, (r.2.drop (pa % 128)).take n)

/-- The launch a forme's key names. -/
def keyLaunch (fk : Nat) : Nat := fk / 2 ^ 48

/-- The launches of a line's pending writes, with that of one more access. -/
def HeldBy.owner (w : HeldBy) (l : List Nat) : List Nat := match w with
  | .path fk _ _ => if l.contains (keyLaunch fk) then l else l ++ [keyLaunch fk]
  | _ => l

/-- The bytes of an access that is single-copy atomic, joined (R227): up to 8 bytes aligned to their size. -/
def glueMask (o n : Nat) : BitVec 128 :=
  if n ≤ 8 && o % n == 0 then BitVec.ofNat 128 (2 ^ (n - 1) - 1) <<< o else 0

/-- A core writes bytes within one line (R228): SO through to the home, RC and UO into L1; through to the home as well when L1 can
take no line. -/
def State.l1Write (s : State) (core pa : Nat) (bs : List Byte) (k : LineKind) (h : HotInfo) (w : HeldBy := .device) : State :=
  let line := lineOf pa
  let s := s.l1Ready core line k
  if k == .so then (s.evict core line).homePut pa bs w h 1
  else
    let x := s.l1Line core line
    let o := pa % 128
    let d := if x.data.isEmpty then List.replicate 128 0 else x.data
    let y := { x with
      kind := k
      hot := h
      data := d.take o ++ bs ++ d.drop (o + bs.length)
      dirty := x.dirty ||| (BitVec.ofNat 128 (2 ^ bs.length - 1) <<< o)
      owners := w.owner x.owners
      glue := x.glue ||| glueMask o bs.length }
    if !x.data.isEmpty then s.putL1 core line y
    else match s.makeRoom core with
      | (s, true) => s.putL1 core line y
      | (s, false) => s.homePut pa bs w h 1

/-- A core's line as a reduction finds it: its bytes have gone home, and so has a partial of another operation or type (R230). -/
def State.uReady (s : State) (core line op : Nat) (t : Ty) : State :=
  let s := s.evict core line
  let p := (s.core core).partials.look line
  if p.cells.isEmpty || (p.op == op && p.ty == t) then s else s.sendPartial core line

/-- A reduction on an RC page enters the core's U partial of the line (R230); it goes home at once when L1 can take no line. -/
def State.enterU (s : State) (core pa op : Nat) (t : Ty) (v : Nat) (h : HotInfo) (w : HeldBy := .device) : State :=
  let line := lineOf pa
  let s := s.uReady core line op t
  let p := (s.core core).partials.look line
  let old := (p.cells.look pa).getD (BitVec.ofNat 64 (redIdentity op t))
  let cells := p.cells.put pa (some (BitVec.ofNat 64 (amo op t old.toNat v)))
  let q : Partial := { op := op, ty := t, hot := { h with va := h.va / 128 * 128 }, cells := cells, owners := w.owner p.owners }
  if !p.cells.isEmpty then s.modCore core (fun c => { c with partials := c.partials.put line q })
  else match s.makeRoom core with
    | (s, true) => s.modCore core (fun c => { c with partials := c.partials.put line q })
    | (s, false) => s.homeRed pa op t v w h 3

/-! ## Scratchpad (R235) -/

/-- The bytes of a forme's scratchpad allocation. -/
def State.spadSize (s : State) (fk : Nat) : Nat := (s.launch (s.forme fk).launch).spad * 2 ^ 18

/-- A pitch-window address of an access of `n` bytes: the forme that holds the part and the offset, or `CHK_BOUNDS`
(R235). -/
def State.window (s : State) (fk ga n : Nat) : Except Flt (Nat × Nat) :=
  let f := s.forme fk
  let i := ga / 2 ^ 21 % 32
  let o := ga % 2 ^ 21
  let k := fk - f.pidx + i
  if ga < 2 ^ 26 ∧ i < f.pw * f.ph ∧ o + n ≤ s.spadSize k then .ok (k, o)
  else .error { code := 0x03, d1 := BitVec.ofNat 64 ga, win := ga % 2 ^ 54 }

/-- Scratchpad bytes. -/
def State.spadRead (s : State) (fk o n : Nat) : List Byte := (s.forme fk).scratch.bytes o n

/-- The scratchpad lines of a range. -/
def spadLines (fk o n : Nat) : List LineRef := (linesOf o n).map (fun l => { sp := true, fk := fk, line := l })

/-- Scratchpad bytes of one line written: transactions that track the line abort, sleepers fire. -/
def State.spadSet (s : State) (l : LineRef) (o : Nat) (bs : List Byte) : State :=
  ((s.abortTrackers l).modForme l.fk (fun f => { f with scratch := f.scratch.putBytes o bs })).fireLine l

/-- Scratchpad bytes of one line written at their banks from outside any transaction, or held back for the oldest one (spec/11
R346). -/
def State.spadPut (s : State) (l : LineRef) (o : Nat) (bs : List Byte) (w : HeldBy := .device) : State :=
  if s.heldLine l then s.park { line := l, addr := o, bytes := bs, src := w } else s.spadSet l o bs

/-- Scratchpad bytes written, line by line. -/
def State.spadWrite (s : State) (fk o : Nat) (bs : List Byte) (w : HeldBy := .device) : State :=
  (spadLines fk o bs.length).foldl (fun s l =>
    let lo := max o (l.line * 128)
    let hi := min (o + bs.length) ((l.line + 1) * 128)
    s.spadPut l lo ((bs.drop (lo - o)).take (hi - lo)) w) s

/-- A reduction of a scratchpad location within one line at its bank, or held back. -/
def State.spadRed (s : State) (fk o op : Nat) (t : Ty) (v : Nat) (w : HeldBy := .device) : State :=
  let l : LineRef := { sp := true, fk := fk, line := o / 128 }
  if s.heldLine l then s.park { line := l, addr := o, bytes := bytesOf t.bytes v, op := .red op t, src := w }
  else s.spadSet l o (bytesOf t.bytes (amo op t (natOf (s.spadRead fk o t.bytes)) v))

/-! ## Accesses held back (spec/11 R346) -/

/-- An atomic of a peer or of firmware at its home: the old value decides. -/
def State.homeAmo (s : State) (pa n : Nat) (f : Nat → Nat) (h : HotInfo) (type : Nat) : State :=
  let s := (s.recall (lineOf pa)).hot h pa type
  s.homeSet pa (bytesOf n (f (natOf (s.physBytes pa n))))

/-- The new value of a compare-and-swap. -/
def swapIf (compare swap : Nat) : Nat → Nat := fun old => if old = compare then swap else old

/-- An access performed at its home or bank, or held back: by the oldest transaction's line, or, the host's accesses, by an earlier one
of the host that is held back (spec/08 R260). -/
def State.perform (s : State) (x : Held) : State :=
  let behind := x.src == .host && s.held.any (fun y => y.src == .host)
  if s.heldLine x.line || behind then s.park x
  else match x.op with
    | .put => if x.line.sp then s.spadSet x.line x.addr x.bytes else s.homePut x.addr x.bytes x.src x.hot x.type
    | .red op t =>
      if x.line.sp then s.spadRed x.line.fk x.addr op t (natOf x.bytes) x.src
      else s.homeRed x.addr op t (natOf x.bytes) x.src x.hot x.type
    | .amo op t => s.homeAmo x.addr t.bytes (fun old => amo op t old (natOf x.bytes)) x.hot x.type
    | .cas =>
      let n := x.bytes.length / 2
      s.homeAmo x.addr n (swapIf (natOf (x.bytes.take n)) (natOf (x.bytes.drop n))) x.hot x.type
    | .look n => s.homeLook x.line.line x.addr n x.src x.hot x.type

/-- Every access held back is tried again, in the order of arrival (spec/11 R346). -/
def State.drainAll (s : State) : State := s.held.foldl (fun s x => s.perform x) { s with held := [] }

/-- A path has a store that its home holds back: its word is not over (spec/08 R258). -/
def State.owes (s : State) (fk sl : Nat) (b : Bool) : Bool := s.held.any (fun x => x.src == .path fk sl b)

/-- A unit of the device acts only when its homes perform all of its accesses: otherwise its turn changes nothing and comes again. -/
def State.orAgain (s t : State) : State := if s.held.length < t.held.length then s else t

end Sys2Proof.Machine
end

