-- ==== Sys2Proof/Machine/Caps.lean ====
section
/-!
DEFINITION. What a partition holds and what is left: the capability table (spec/14 R384, R385), the feature words of
`QFEAT` (spec/18 R460), and the capability list (spec/20 R487), all computed from the state.
-/

namespace Sys2Proof.Machine

/-! ## Live units -/

/-- Every cluster. -/
def allClusters : List Nat := List.range 16

/-- The cores of a cluster that are not retired. -/
def State.liveCores (s : State) (cl : Nat) : List Nat := (clusterCores cl).filter (fun c => !(s.core c).retired)

/-- The clusters dedicated to a partition. -/
def State.clustersOf (s : State) (p : Nat) : List Nat := allClusters.filter (fun c => (s.cluster c).holder == .part p)

/-- The clusters a partition may place on: its dedicated ones, and the shared pool while it has the slice (spec/10 R330). -/
def State.clustersNow (s : State) (p : Nat) : List Nat :=
  allClusters.filter (fun c => match (s.cluster c).holder with
    | .part n => n == p
    | .free => s.pool.part == some p
    | _ => false)

/-- The frames of a tier that a partition holds. -/
def State.framesHeld (s : State) (p tier : Nat) : List Nat :=
  (s.frames.filter (fun e => e.2.owner == some p && inTier tier (e.1 * 2 ^ 18) (2 ^ 18))).map (·.1)

/-! ## The capability table (R384, R385) -/

/-- TOTAL at shipment and GRANULE of a kind. -/
def kindRow (k : Nat) : Nat × Nat :=
  match k with
  | 1 => (16, 1)
  | 2 => (256, 16)
  | 3 => (192 * 2 ^ 30, 2 ^ 18)
  | 4 => (1536 * 2 ^ 30, 2 ^ 18)
  | 5 => (16, 1)
  | 6 => (256, 16)
  | 7 => (16, 1)
  | 8 => (8192, 32)
  | 9 => (4095, 1)
  | 10 => (1024, 1)
  | 11 => (1024, 1)
  | 12 => (239, 1)
  | 13 => (16384, 1)
  | _ => (16384, 1)

/-- TOTAL of a kind now. -/
def State.total (s : State) (k : Nat) : Nat := (kindRow k).1 - s.totalCut.look k

/-- What a partition holds of a kind. -/
def State.heldOf (s : State) (p k : Nat) : Nat :=
  let q := s.part p
  match k with
  | 1 => (s.clustersOf p).length
  | 2 => ((s.clustersOf p).flatMap s.liveCores).length
  | 3 => (s.framesHeld p 0).length * 2 ^ 18
  | 4 => (s.framesHeld p 1).length * 2 ^ 18
  | 5 => q.ways
  | 6 => 16 * (s.clustersOf p).length
  | 7 => q.engines
  | 8 => q.binds
  | 9 => q.worlds
  | 10 => q.memFloor
  | 11 => q.fabFloor
  | 12 => q.keyIds
  | 13 => q.launches
  | _ => q.queuesHeld

/-- The partitions that exist. -/
def State.existing (s : State) : List Nat := (s.parts.filter (fun e => e.2.exist)).map (·.1)

/-- What no partition holds of a kind. -/
def State.unheld (s : State) (k : Nat) : Nat := s.total k - (s.existing.map (fun p => s.heldOf p k)).sum

/-- The four words of an entry: holder 0xFF is the device. `hide` shows HELD as zero. -/
def State.capEntry (s : State) (holder k : Nat) (hide : Bool) : List Word :=
  let h := if hide then 0 else if holder = 255 then s.unheld k else s.heldOf holder k
  [BitVec.ofNat 64 h, BitVec.ofNat 64 (kindRow k).2, BitVec.ofNat 64 (s.total k),
   BitVec.ofNat 16 k ++ BitVec.ofNat 8 holder ++ BitVec.ofBool (s.repl.contains (k, holder)) ++ 0#39]

/-- The fourteen kinds. -/
def kinds : List Nat := (List.range 14).map (· + 1)

/-- The words of a virtual function's copy of the table. -/
def State.capCopy (s : State) (p : Nat) : List Word :=
  kinds.flatMap (fun k => s.capEntry p k false) ++ kinds.flatMap (fun k => s.capEntry 255 k true)

/-- The words of the physical function's table. -/
def State.capTable (s : State) : List Word :=
  s.existing.flatMap (fun p => kinds.flatMap (fun k => s.capEntry p k false))
    ++ kinds.flatMap (fun k => s.capEntry 255 k false)

/-! ## Feature words (spec/18 R460) -/

/-- A leaf's word, unmasked, as a partition sees it. -/
def State.featureWord (s : State) (p leaf : Nat) : Word :=
  let cs := s.clustersOf p
  if leaf = 0 then 0x1C20_03_05_0000_0000
  else if leaf = 1 then
    BitVec.ofNat 16 (allClusters.flatMap s.liveCores).length
      ++ BitVec.ofNat 16 (allClusters.filter (fun c => (s.cluster c).holder != .outOfService)).length
      ++ BitVec.ofNat 16 (cs.flatMap s.liveCores).length ++ BitVec.ofNat 16 cs.length
  else if leaf = 2 then 0x3FF
  else if leaf = 3 then
    BitVec.ofNat 32 (s.heldOf p 3 / 2 ^ 30) ++ BitVec.ofNat 32 (s.heldOf p 4 / 2 ^ 30)
  else if leaf = 4 then BitVec.ofNat 32 1600 ++ 0#31 ++ BitVec.ofBool s.ptp.ever
  else if leaf = 5 then
    let inSet := s.ports.any (fun e => e.2.enabled) && decide (0 < s.boot.setSize)
    s.boot.deviceId ++ BitVec.ofNat 10 (if inSet then s.boot.setSize else 1) ++ 0#45
  else 0

/-- The mask of a partition's leaf: all ones at reset, held as its complement. -/
def State.featureMask (s : State) (p leaf : Nat) : Word := ~~~((s.part p).masks.look leaf)

/-- What `QFEAT` returns in a launch of a partition. -/
def State.feature (s : State) (p leaf : Nat) : Word :=
  if leaf < 6 then s.featureWord p leaf &&& s.featureMask p leaf else 0

/-! ## The capability list (spec/20 R487) -/

/-- The leaf-2 bit of a feature of the list, where it has one. -/
def capFeature (id : Nat) : Option Nat :=
  match id with
  | 3 => some 7 | 8 => some 0 | 9 => some 4 | 10 => some 5 | 11 => some 6 | 12 => some 8
  | _ => none

/-- The offset of a feature's block. -/
def capBlock (id : Nat) : Nat :=
  match id with
  | 1 => 0x6000 | 3 => 0x2000 | 4 => 0x4000 | 5 => 0x4100 | 6 => 0x4200 | 7 => 0x4300
  | _ => 0

/-- A partition's list shows a feature. -/
def State.shows (s : State) (p id : Nat) : Bool :=
  match capFeature id with
  | some b => (s.feature p 2).getLsbD b
  | none => true

/-- The words of the capability list: the shown features in order, one entry after the other. -/
def capList (base : Nat) (block : Nat → Nat) (shown : List Nat) : List Word :=
  (List.range shown.length).flatMap (fun k =>
    let id := shown.getD k 0
    [BitVec.ofNat 64 (block id),
     BitVec.ofNat 16 id ++ 1#16 ++ BitVec.ofNat 32 (if k + 1 < shown.length then base + 16 * (k + 1) else 0)])

/-- The list of a virtual function. -/
def State.vfList (s : State) (p : Nat) : List Word :=
  capList 0x5000 capBlock (((List.range 12).map (· + 1)).filter (s.shows p))

end Sys2Proof.Machine
end

