-- ==== Sys2Proof/Machine/Ops.lean ====
section
/-!
DEFINITION. The operations every word shares: the context it issues in, its completion, its waiting, and taking and leaving
an exception (spec/18 R448 to R462), written once.
-/

namespace Sys2Proof.Machine

/-- The answer of a meaning. -/
abbrev Out := Host.Outcome State Fault Refusal

/-! ## The context of a word -/

/-- What a word issues in: the issuer, its forme, slug, slot, path, and the active lanes (spec/03 R71). -/
structure Ctx where
  iss : Issuer
  f : Forme
  m : Slug
  slot : Slot
  path : Path
  act : Mask
  deriving DecidableEq, Repr, Inhabited

/-- The lanes of a path for which a predicate field holds (R71); a replayed word takes its kept mask (spec/18 R453). -/
def activeLanes (m : Slug) (x : Slot) (p : Path) (h : Hdr) : Mask :=
  match x.part with
  | some k => k
  | none => p.mask &&& (if h.neg then ~~~(m.readP h.pred.toNat) else m.readP h.pred.toNat)

/-- The context of the word being executed; `none` when no path is issuing. -/
def State.ctx (s : State) (h : Hdr) : Option Ctx :=
  match s.cur with
  | none => none
  | some i =>
    let f := s.forme i.fk
    let m := f.slugs.look i.sl
    let x := m.slot i.b
    match x.path with
    | none => none
    | some p => some { iss := i, f := f, m := m, slot := x, path := p, act := activeLanes m x p h }

/-- The launch of a context. -/
def State.launchOf (s : State) (c : Ctx) : Launch := s.launch c.f.launch

/-- The core the issuing forme runs on. -/
def Ctx.core (c : Ctx) : Nat := c.f.core

/-! ## Completion and waiting -/

/-- Change the issuing slug. -/
def State.modCur (s : State) (f : Slug → Slug) : State :=
  match s.cur with
  | none => s
  | some i => s.modSlug i.fk i.sl f

/-- The issuing path stands at `pc` after its word: STALL, port cycles and pending distances apply (spec/03 R86, R87), the
replay mask is spent. -/
def State.retireTo (s : State) (pc : Addr) : State :=
  match s.cur with
  | none => s
  | some i => s.modSlug i.fk i.sl (fun m => m.modSlot i.b (fun x =>
      { x with
        path := x.path.map (fun p => { p with pc := pc })
        readyAt := s.cyc + i.occ + i.stall
        lastIssue := s.cyc
        pend := i.pend
        part := none }))

/-- The address after the word. -/
def Ctx.nextPc (c : Ctx) : Addr := c.path.pc + BitVec.ofNat 54 (8 * c.iss.occ)

/-- The word has completed and its path goes on at the next word. -/
def State.retire (s : State) (c : Ctx) : State := s.retireTo c.nextPc

/-- The word cannot issue yet: its path tries again in the next cycle, and nothing else changes (spec/01 R29). -/
def State.hold (s : State) : State :=
  { (s.modCur (fun m => match s.cur with
      | some i => m.modSlot i.b (fun x => { x with readyAt := s.cyc + 1 })
      | none => m)) with cur := none }

/-- Turn to be taken next. -/
def State.push (s : State) (i : Instr) (a : EvArgs) : State := { s with agenda := s.agenda ++ [.event i a] }

/-! ## Fault records and galleys (spec/18 R449 to R451) -/

/-- The fields of a fault record that differ from one failure to the next (R449). -/
structure RecInfo where
  launch : Nat := 0
  fidx : Nat := 0
  slug : Nat := 0
  path : Nat := 2
  pc : Addr := 0
  mask : Mask := 0
  eng : Nat := 0
  core : Option Nat := none
  async : Bool := false
  inh : Bool := false
  txa : Bool := false
  deff : Bool := false
  deriving DecidableEq, Repr, Inhabited

/-- The eight words of a fault record (R449). -/
def State.record (s : State) (r : RecInfo) (f : Flt) : List Word :=
  let l := s.launch r.launch
  let b (x : Bool) : BitVec 1 := BitVec.ofBool x
  [f.code ++ 0#8 ++ BitVec.ofNat 4 r.eng ++ BitVec.ofNat 12 l.world ++ BitVec.ofNat 16 (l.seq + 1)
     ++ BitVec.ofNat 16 (min l.drops 0xFFFF),
   BitVec.ofNat 14 (if l.st == .checking then 0 else r.launch) ++ 0#2 ++ BitVec.ofNat 48 r.fidx,
   BitVec.ofNat 5 r.slug ++ BitVec.ofNat 2 r.path ++ 0#3 ++ r.pc,
   r.mask ++ BitVec.ofNat 8 (r.core.getD 0xFF) ++ b r.async ++ b r.inh ++ b r.txa ++ b r.deff ++ b r.core.isSome ++ 0#19,
   BitVec.ofNat 64 (f.va % 2 ^ 54),
   f.sub ++ f.reason ++ BitVec.ofNat 48 f.d0,
   f.d1,
   BitVec.ofNat 64 s.ptpNow]

/-- Post a record to a launch's galley: the slot is free when its byte 7 reads zero; words 1 to 7 are written, then word
0; otherwise the record is dropped and counted (R451). -/
def State.post (s : State) (n : Nat) (ws : List Word) : State :=
  let l := s.launch n
  let va := l.galley + 64 * (l.seq % 2 ^ l.glog)
  match s.translate none l.part va 64 .write with
  | (s, .ok (pa, leaf)) =>
    if leaf.mt == 0 && s.physByte (pa + 7) == 0 then
      let s := s.homeWrite (pa + 8) ((ws.drop 1).flatMap (fun w => bytesOf 8 w.toNat))
      let s := s.homeWrite pa (bytesOf 8 (ws.getD 0 0).toNat)
      s.modLaunch n (fun l => { l with seq := l.seq + 1, drops := 0 })
    else s.modLaunch n (fun l => { l with drops := l.drops + 1 })
  | (s, .error _) => s.modLaunch n (fun l => { l with drops := l.drops + 1 })

/-- Build a record and post it. -/
def State.report (s : State) (r : RecInfo) (f : Flt) : State := s.post r.launch (s.record r f)

/-! ## Ending a launch by failure (spec/18 R468) -/

/-- A launch is to end by failure: none of its slugs issues a further word, and firmware's steps follow as the event
LAUNCH_END_BY_FAILURE. -/
def State.failLaunch (s : State) (n : Nat) (code : BitVec 8) : State :=
  if (s.launch n).st = .active then
    (s.modLaunch n (fun l => { l with st := .failing, failCode := some code })).push .launchEndByFailure { index := n }
  else s

/-! ## Taking an exception (spec/18 R448, R454 to R457) -/

/-- What `HRET` does after a fault of a code (R448). -/
def resumeOf (code : BitVec 8) : Resume :=
  if code = 0x02 then .reissue else if code = 0x0C then .continue else if code = 0x10 then .replay else .fail

/-- `HSKIP` may skip a memory or atomic form after a fault of a code (R448). -/
def skippable (code : BitVec 8) : Bool :=
  code == 0x03 || code == 0x04 || code == 0x05 || code == 0x0A || code == 0x0B || code == 0x08 || code == 0x09
    || code == 0x11 || code == 0x13 || code == 0x10

/-- The entry of the handler that serves a partition, and whether it is firmware's default (R455, R456, spec/20 R486). -/
def Partition.handlerEntry (p : Partition) : Addr × Bool :=
  match p.hoh with
  | some oh => (BitVec.ofNat 54 (oh * 2 ^ 32 + p.hentryUsed), false)
  | none => (0, true)

/-- How a fault is taken: the fault, the address of the word, the record's MASK, whether the form is a memory or atomic one,
whether it is scalar, the word's size, the lanes left unfinished. -/
structure TrapInfo where
  flt : Flt
  mask : Mask
  mem : Bool := false
  scalar : Bool := true
  size : Nat := 8
  part : Option Mask := none
  deriving DecidableEq, Repr, Inhabited

/-- The record fields of a precise fault of a path. -/
def State.recInfo (s : State) (fk sl : Nat) (b : Bool) (pc : Addr) (mask : Mask) : RecInfo :=
  let f := s.forme fk
  { launch := f.launch, fidx := f.fidx, slug := sl, path := if b then 1 else 0, pc := pc, mask := mask,
    core := some f.core }

/-- A slug with the handler entered: registers stashed, the handler path in the faulting path's slot, every other path
held (R454 steps 3 to 5). -/
def Slug.enter (m : Slug) (b : Bool) (entry : Addr) (fw : Bool) (ready : Nat) (mask : Mask) (h : Handling) : Slug :=
  let x : Slot := { path := some { pk := false, pc := entry, mask := mask }, readyAt := ready }
  { (m.putSlot b x) with
    hnd := some { h with slotB := b, stashG := m.g, stashP := m.p, firmware := fw } }

/-- A precise fault of the path in slot `b` of a slug (R454): an open transaction aborts first (spec/11 R355); the record is
posted and kept; the handler starts. A fault while a handler runs is a double fault (R457). -/
def State.takeTrap (s : State) (fk sl : Nat) (b : Bool) (t : TrapInfo) : State :=
  let m := s.slug fk sl
  let f := s.forme fk
  let x := m.slot b
  let pc := (x.path.map (·.pc)).getD 0
  let r := s.recInfo fk sl b pc t.mask
  if m.hnd.isSome then
    let s := s.report { r with inh := true } { t.flt with reason := 0x0D }
    (s.modSlug fk sl (fun m => { m with failed := true })).failLaunch f.launch t.flt.code
  else
    let tx := m.tx
    let now := s.cyc
    let m' := match tx with
      | some k => let u := m.txRestart k 0x03 now; { u with tx := none }
      | none => m
    let words := s.record { r with txa := tx.isSome } t.flt
    let e := (s.part (s.launch f.launch).part).handlerEntry
    let saved : Slot := match tx with
      | some _ => { (m'.slot b) with part := none }
      | none => { x with part := t.part, pend := [] }
    let ready := match tx with
      | some k => now + abortCycles (vWritten k.levels)
      | none => now + 1
    let h : Handling :=
      { saved := saved, record := words, resume := resumeOf t.flt.code, skip := t.mem && skippable t.flt.code,
        scalar := t.scalar, unfinished := t.part.getD t.mask, size := t.size, inTx := tx.map (·.again) }
    let s := (s.modSlug fk sl (fun _ => m'.enter b e.1 e.2 ready t.mask h)).post f.launch words
    s.drainAll

/-- The issuing word traps. -/
def State.trap (s : State) (c : Ctx) (t : TrapInfo) : State :=
  s.takeTrap c.iss.fk c.iss.sl c.iss.b { t with size := 8 * c.iss.occ }

/-- The issuing word traps with a code and nothing more, MASK its active lanes. -/
def State.trapCode (s : State) (c : Ctx) (code : BitVec 8) : State :=
  s.trap c { flt := { code := code }, mask := c.act }

/-! ## Leaving the handler (R462) -/

/-- The cycle by which every fixed-latency result of the slug has landed (spec/03 R89). -/
def Slug.landed (m : Slug) (now : Nat) : Nat := m.busy.foldl (fun n e => max n e.2) now

/-- The slug with the handler left: registers back from the stash, HND clear, the faulting path back in its slot with a
given address and replay mask; no path of the slug carries a pending distance, and each waits until every result in flight
has landed (spec/03 R89). -/
def Slug.leave (m : Slug) (h : Handling) (pc : Option Addr) (part : Option Mask) (now : Nat) : Slug :=
  let x : Slot := { h.saved with
    path := h.saved.path.map (fun p => { p with pc := pc.getD p.pc }), part := part, pend := [],
    readyAt := max h.saved.readyAt (m.landed now) }
  let held (y : Slot) : Slot := { y with pend := [], readyAt := max y.readyAt (m.landed now) }
  { ((m.putSlot h.slotB x).modSlot (!h.slotB) held) with g := h.stashG, p := h.stashP, hnd := none, tx := h.inTx }

/-- The stopped parts of an engine instruction of a forme run again from their progress (spec/06 R202). -/
def State.restartParts (s : State) (issuer id : Nat) : State :=
  { s with formes := s.formes.mapVals (fun _ f => { f with mq := f.mq.map (fun e =>
      if e.issuer = issuer && e.id = id && e.stop.isSome then { e with stop := none, delivered := false } else e) }) }

/-- `HFAIL`: the slug issues no further word and its launch ends (R462, R468). -/
def State.hfail (s : State) (fk sl : Nat) : State :=
  let m := s.slug fk sl
  let code := match m.hnd with
    | some h => ((h.record.getD 0 0).extractLsb' 56 8)
    | none => 0
  (s.modSlug fk sl (fun m => { m with failed := true })).failLaunch (s.forme fk).launch code

/-- `HRET` (R462). -/
def State.hretTo (s : State) (fk sl : Nat) : State :=
  let m := s.slug fk sl
  match m.hnd with
  | none => s
  | some h =>
    let now := s.cyc + 1
    match h.resume with
    | .fail => s.hfail fk sl
    | .replay => s.modSlug fk sl (fun m => m.leave h none (if h.inTx.isSome then none else h.saved.part) now)
    | .reissue => s.modSlug fk sl (fun m => m.leave h none none now)
    | .continue =>
      let pc := if h.inTx.isSome then none else h.saved.path.map (fun p => p.pc + BitVec.ofNat 54 h.size)
      s.modSlug fk sl (fun m => m.leave h pc none now)
    | .deferred => (s.modSlug fk sl (fun m => m.leave h none h.saved.part now)).restartParts fk h.mq

/-- `HRET`; a transaction that starts again with an old stamp may be the oldest now, so held accesses are tried again. -/
def State.hret (s : State) (fk sl : Nat) : State := (s.hretTo fk sl).drainAll

/-- `HSKIP` with the lanes to skip (R462): a memory or atomic form goes on without them, or issues again for the others. -/
def State.hskip (s : State) (fk sl : Nat) (skip : Mask) : State :=
  let m := s.slug fk sl
  match m.hnd with
  | none => s
  | some h =>
    if !h.skip then s.hfail fk sl
    else
      let u : Mask := if h.scalar then (if skip &&& h.unfinished = 0 then h.unfinished else 0) else h.unfinished &&& ~~~skip
      let now := s.cyc + 1
      if h.inTx.isSome then (s.modSlug fk sl (fun m => m.leave h none none now)).drainAll
      else if u = 0 then
        s.modSlug fk sl (fun m => m.leave h (h.saved.path.map (fun p => p.pc + BitVec.ofNat 54 h.size)) none now)
      else s.modSlug fk sl (fun m => m.leave h none (some u) now)

/-! ## Scalar and predicate results -/

/-- The value a pinned register must keep: the slug has another path, the register is pinned and the written value differs
(spec/15 R417). -/
def State.pinBlocks (s : State) (c : Ctx) (n : Nat) (x : Word) : Bool :=
  n != 0 && !c.m.hnd.isSome && (s.launchOf c).pinG.getLsbD n && decide (1 < c.m.paths) && x != c.m.readG n

/-- A `CHK_TYPE` of a pinned register: its operand code and the failing value (spec/15 R417; log entry 6). `mem` says that
the word is of a memory or atomic form, which `HSKIP` may skip (spec/18 R448). -/
def pinTrap (c : Ctx) (n : Nat) (x : Word) (mem : Bool) : TrapInfo :=
  { flt := { code := 0x0A, d0 := 0x80 + n, d1 := x }, mask := c.act, mem := mem }

/-- A scalar word's result: written and retired, or the pinned-register fault. -/
def State.finishG (s : State) (c : Ctx) (n : Nat) (x : Word) : State :=
  if s.pinBlocks c n x then s.trap c (pinTrap c n x false) else (s.modCur (·.writeG n x)).retire c

/-- A word of a scalar form without an active lane changes nothing and is retired (spec/02 R54). -/
def scalarWord (h : Hdr) (s : State) (f : Ctx → State) : Out :=
  match s.ctx h with
  | none => .next s
  | some c => if c.act = 0 then .next (s.retire c) else .next (f c)

/-- A word of a vector form: it issues whatever lanes are active. -/
def vectorWord (h : Hdr) (s : State) (f : Ctx → State) : Out :=
  match s.ctx h with
  | none => .next s
  | some c => .next (f c)

end Sys2Proof.Machine
end

