-- ==== Sys2Proof/Machine/Bar.lean ====
section
/-!
DEFINITION. The registers of a virtual function's BAR (spec/20 R484 to R489): what a read gives, and which event a write
is. A write through a partition's own image, or by the host, becomes the event's turn, which comes next.
-/

namespace Sys2Proof.Machine

/-! ## Reading -/

/-- A queue block's register at offset `o` (spec/10 R309). -/
def HostQueue.reg (q : HostQueue) (o : Nat) : Word :=
  if o = 0 then 0#10 ++ q.qbase ++ 0#6
  else if o = 8 then 0#32 ++ BitVec.ofBool q.en ++ q.prio ++ q.weight ++ 0#15 ++ q.log2n
  else if o = 16 then q.qwr.zeroExtend 64
  else q.qrd ++ q.st ++ 0#5 ++ q.lref ++ q.err ++ 0#8

/-- A time-triggered entry's register (spec/10 R332). -/
def TtEntry.reg (t : TtEntry) (o : Nat) : Word :=
  if o = 0 then t.next
  else if o = 8 then BitVec.ofBool t.en ++ 0#15 ++ t.period
  else if o = 16 then t.record.zeroExtend 64
  else t.skips ++ t.runs

/-- A register of the BAR of partition `p` at an offset that is a multiple of 8. -/
def State.barReg (s : State) (p o : Nat) : Word :=
  let q := s.part p
  if o < 0x2000 then (if o / 32 < q.queuesHeld then (q.queues.look (o / 32)).reg (o % 32) else 0)
  else if o < 0x4000 then (if s.shows p 3 then (q.tt.look ((o - 0x2000) / 32)).reg (o % 32) else 0)
  else if o < 0x4040 then q.mboxReq.look ((o - 0x4000) / 8)
  else if o < 0x4080 then q.mboxRsp.look ((o - 0x4040) / 8)
  else if o < 0x4100 then 0
  else if o < 0x4130 then
    (if o = 0x4100 then q.hsbase else if o = 0x4108 then q.hssize else if o = 0x4110 then q.hswr
     else if o = 0x4118 then q.hsrd else if o = 0x4120 then q.hsdrop else q.hsk)
  else if o = 0x4200 then q.hobj
  else if o = 0x4208 then q.hentry.zeroExtend 64
  else if o = 0x4210 then 0#48 ++ q.hlerr ++ q.hst
  else if 0x4300 ≤ o ∧ o < 0x4480 then
    (let r := q.ft.look ((o - 0x4300) / 24)
     if (o - 0x4300) % 24 = 0 then r.base else if (o - 0x4300) % 24 = 8 then r.len else r.tmpl)
  else if o = 0x4480 then BitVec.ofNat 64 q.pool1.length
  else if o = 0x4488 then BitVec.ofNat 64 q.pool2.length
  else if 0x5000 ≤ o ∧ o < 0x6000 then (s.vfList p).getD ((o - 0x5000) / 8) 0
  else if 0x6000 ≤ o ∧ o < 0x8000 then (s.capCopy p).getD ((o - 0x6000) / 8) 0
  else if 0x8000 ≤ o ∧ o < 0x9000 then q.msixTable.look ((o - 0x8000) / 8)
  else if 0x9000 ≤ o ∧ o < 0x9020 then q.msixPending.extractLsb' (8 * (o - 0x9000)) 64
  else 0

/-- A read of 4 or 8 bytes, aligned (R484). -/
def State.barRead (s : State) (p o n : Nat) : List Byte :=
  if 0x10000 ≤ o then bytesOf n 0
  else bytesOf n ((s.barReg p (o / 8 * 8)).toNat / 2 ^ (8 * (o % 8)))

/-! ## Writing -/

/-- The blocks that a locked interface protects (spec/14 R402): queue blocks but their kicks, the time-triggered table, the
mailbox, the hotness ring, the handler's registers (spec/18 R455), the MSI-X table and pending bits. -/
def lockedOffset (o : Nat) : Bool :=
  (decide (o < 0x2000) && o % 32 != 16) || decide (0x2000 ≤ o ∧ o < 0x4088) || decide (0x4100 ≤ o ∧ o < 0x4130)
    || decide (0x4200 ≤ o ∧ o < 0x4210) || decide (0x8000 ≤ o ∧ o < 0x9020)

/-- The interface refuses a write to an offset: in ERROR the tenant's own, while locked everyone else's to a protected block
(spec/14 R402, R403). -/
def Partition.refuses (q : Partition) (tenant : Bool) (o : Nat) : Bool :=
  match q.tdisp with
  | .unlocked => false
  | .error => tenant
  | _ => !tenant && lockedOffset o

/-- A turn to be taken before every other. -/
def State.pushNow (s : State) (i : Instr) (a : EvArgs) : State := { s with agenda := .event i a :: s.agenda }

/-- A request's word 0: OP, SEQ. -/
def reqOp (w : Word) : Nat := (w.extractLsb' 56 8).toNat
def reqSeq (w : Word) : BitVec 16 := w.extractLsb' 32 16

/-- Word 0 of a response. -/
def rspWord (w : Word) (status : BitVec 8) : Word := w.extractLsb' 56 8 ++ status ++ reqSeq w ++ 0#32

/-- A write to offset `o` that the interface refuses: the change is not made, and a locked interface enters ERROR, whose formes are to be
pre-empted (spec/14 R402, R403). A mailbox request is answered with status 0x05. -/
def State.lockRefused (s : State) (p : Nat) (tenant : Bool) (o : Nat) : State :=
  if tenant then s
  else
    let s := s.modPart p (fun q => { q with
      tdisp := .error
      mboxRsp := if o = 0x4080 ∧ q.mboxBusy.isNone then Sparse.put [] 0 (rspWord (q.mboxReq.look 0) 0x05) else q.mboxRsp })
    s.pushNow .preemptRequest { part := p }

/-- A block that the partition does not have: queue blocks beyond its holding (spec/10 R309), a time-triggered table that its features
omit (spec/20 R487). -/
def State.noBlock (s : State) (p o : Nat) : Bool :=
  (decide (o < 0x2000) && decide ((s.part p).queuesHeld ≤ o / 32)) || (decide (0x2000 ≤ o ∧ o < 0x4000) && !s.shows p 3)

/-- A write to the register at offset `o` of partition `part`'s BAR, unless its interface refuses it; there is no such register
before the partition exists, and a block that it does not have discards it. -/
def regWrite (s : State) (o : Nat) (go : State → Out) : Out :=
  if !(s.part s.ev.part).exist || s.noBlock s.ev.part o then .next s
  else if (s.part s.ev.part).refuses s.ev.tenant o then .next (s.lockRefused s.ev.part s.ev.tenant o) else go s

/-- The event a write of a queue block's control word is (spec/10 R309, R315). -/
def controlEvent (q : HostQueue) (v : Word) : Instr :=
  if q.en then (if v.getLsbD 31 then .queuePolicyWrite else .queueDisable)
  else if v.getLsbD 31 then .queueEnable else .queuePolicyWrite

/-- The event that a write to the register at offset `o` (a multiple of 8) is, with its index; `none` when the write is
discarded. `lo` says that the write covers a byte of the low half, `hi` of the high half; `v` is the register's whole new
value (R484). -/
def State.barEvent (s : State) (p o : Nat) (lo : Bool) (v : Word) : Option (Instr × Nat) :=
  let q := s.part p
  if o < 0x2000 then
    (let n := o / 32
     if q.queuesHeld ≤ n then none
     else if o % 32 = 0 then some (.queueBaseWrite, n)
     else if o % 32 = 8 then some (controlEvent (q.queues.look n) v, n)
     else if o % 32 = 16 then (if lo then some (.kick, n) else none)
     else none)
  else if o < 0x4000 then
    (if s.shows p 3 && o % 32 != 24 then some (.ttEntryWrite, (o - 0x2000) / 8) else none)
  else if o < 0x4080 then some (.barRegisterWrite, o)
  else if o = 0x4080 then some (.mailboxDoorbell, 0)
  else if o = 0x4100 then some (.hsbaseWrite, 0)
  else if o = 0x4108 then some (.hssizeWrite, 0)
  else if o = 0x4118 then some (.hsrdWrite, 0)
  else if o = 0x4128 then some (.hskWrite, 0)
  else if o = 0x4200 then some (.hobjWrite, 0)
  else if o = 0x4208 then some (.hentryWrite, 0)
  else if 0x4300 ≤ o ∧ o < 0x4480 then
    (let r := (o - 0x4300) / 24
     if (o - 0x4300) % 24 = 0 then some (.ftbaseWrite, r)
     else if (o - 0x4300) % 24 = 8 then some (.ftlenWrite, r) else some (.fttmplWrite, r))
  else if 0x8000 ≤ o ∧ o < 0x9000 then some (.barRegisterWrite, o)
  else none

/-- A write of 4 or 8 bytes, aligned, to the BAR of partition `p` (R484, R489); other sizes and alignments are discarded. A
refused write puts a locked interface into ERROR (spec/14 R402). -/
def State.barWrite (s : State) (p o : Nat) (bs : List Byte) (tenant : Bool) : State :=
  let n := bs.length
  if !((n == 4 || n == 8) && o % n == 0 && decide (o + n ≤ 0x10000)) then s
  else
    let r := o / 8 * 8
    if (s.part p).refuses tenant r then s.lockRefused p tenant r
    else
      let old := bytesOf 8 (s.barReg p r).toNat
      let v := wordOf (old.take (o % 8) ++ bs ++ old.drop (o % 8 + n))
      match s.barEvent p r (o % 8 == 0) v with
      | some (i, k) => s.pushNow i { part := p, index := k, value := v, size := n, addr := BitVec.ofNat 64 o, tenant := tenant }
      | none => s

end Sys2Proof.Machine
end

