-- ==== Sys2Proof/Machine/Forms.lean ====
section
/-!
DEFINITION. The encoding tables of spec/ as data and functions: rule names of a rejection (spec/03 R90), operand
codes (R73), MOD layouts, the table of forms (operand classes, FORM, predicate, latency), and the two maps
between an instruction and its opcode, operands and MOD bits. `build` pulls every field out once; `Instr.view`
puts it back.
-/

namespace Sys2Proof

/-- Why a word is not an instruction (spec/03 R90; TYP-03 and TYP-04 of spec/15 R428 for the two operand rules
of spec/02 R53 and R58). -/
inductive Enc where
  | enc01 | enc02 | enc03 | enc04 | enc05 | enc06 | enc07 | typ03 | typ04
  deriving DecidableEq, Repr, Inhabited

/-- Operand classes of a position (spec/03 R73). `none`: the field may be unused. -/
inductive Cls where
  | none | v | g | p | a | slice | ext | short | plane | const
  deriving DecidableEq, Repr, Inhabited

/-- Where a form is an instruction (spec/18 R455, R458). -/
inductive Where where
  | kernel | both | handler
  deriving DecidableEq, Repr, Inhabited

/-- One row of the encoding tables. `d`, `a`, `b` list the classes of DST, SRCA, SRCB, empty for an unused field;
`dRead` and `dWrite` say whether the form reads and writes DST; `lat` is the fixed latency of spec/01 R17, 0 when
it is variable; `mem` marks the memory and atomic forms (spec/18 R462). -/
structure Form where
  full : Bool
  wide : Bool
  d : List Cls
  a : List Cls
  b : List Cls
  dRead : Bool
  dWrite : Bool
  pred : Bool
  place : Where
  lat : Nat
  mem : Bool
  deriving DecidableEq, Repr, Inhabited

/-! ## Operand codes (spec/03 R73 to R75) -/

/-- The class of an operand. -/
def Opnd.cls : Opnd → Cls
  | .none => .none
  | .v _ => .v
  | .g _ => .g
  | .a _ => .a
  | .p _ => .p
  | .slice => .slice
  | .ext => .ext
  | .short => .short
  | .plane => .plane
  | .const _ => .const

/-- The operand code of an operand (R73). -/
def Opnd.code : Opnd → BitVec 8
  | .none => 0#8
  | .v n => 0#1 ++ n
  | .g n => 0b10#2 ++ n
  | .a n => 0xC#4 ++ n
  | .p n => 0xD#4 ++ n
  | .slice => 0xE0#8
  | .ext => 0xE1#8
  | .short => 0xE2#8
  | .plane => 0xE3#8
  | .const n => 0xF#4 ++ n

/-- The operand an operand code names; codes 0xE4 to 0xEF are reserved (R73). -/
def Opnd.ofCode (c : BitVec 8) : Option Opnd :=
  if c.toNat < 0x80 then some (.v (c.extractLsb' 0 7))
  else if c.toNat < 0xC0 then some (.g (c.extractLsb' 0 6))
  else if c.toNat < 0xD0 then some (.a (c.extractLsb' 0 4))
  else if c.toNat < 0xE0 then some (.p (c.extractLsb' 0 4))
  else if c.toNat = 0xE0 then some .slice
  else if c.toNat = 0xE1 then some .ext
  else if c.toNat = 0xE2 then some .short
  else if c.toNat = 0xE3 then some .plane
  else if c.toNat < 0xF0 then Option.none
  else some (.const (c.extractLsb' 0 4))

/-- The operand of a field whose accepted classes are `cs`: an unused field and a field that may be unused read
code 0x00 as no operand (R72). -/
def Opnd.parse (cs : List Cls) (c : BitVec 8) : Except Enc Opnd :=
  if cs.isEmpty then (if c = 0#8 then .ok .none else .error .enc02)
  else if c = 0#8 && cs.contains .none then .ok .none
  else match Opnd.ofCode c with
    | some o => if cs.contains o.cls then .ok o else .error .enc03
    | Option.none => .error .enc03

/-! ## MOD layouts -/

/-- RM codes (R77). -/
def RM.code : RM → BitVec 3
  | .rne => 0 | .rtz => 1 | .rdn => 2 | .rup => 3 | .rna => 4 | .sr => 5

/-- RM codes 110 and 111 are reserved (R77). -/
def RM.parse (c : BitVec 3) : Except Enc RM :=
  if c = 0 then .ok .rne else if c = 1 then .ok .rtz else if c = 2 then .ok .rdn
  else if c = 3 then .ok .rup else if c = 4 then .ok .rna else if c = 5 then .ok .sr
  else .error .enc07

/-- TY codes (R77). -/
def Ty.code : Ty → BitVec 3
  | .i32 => 0 | .n32 => 1 | .i64 => 2 | .n64 => 3 | .f32 => 4 | .f16x2 => 5 | .bf16x2 => 6

/-- TY code 111 is reserved (R77). -/
def Ty.parse (c : BitVec 3) : Except Enc Ty :=
  if c = 0 then .ok .i32 else if c = 1 then .ok .n32 else if c = 2 then .ok .i64
  else if c = 3 then .ok .n64 else if c = 4 then .ok .f32 else if c = 5 then .ok .f16x2
  else if c = 6 then .ok .bf16x2 else .error .enc07

/-- A one-bit field. -/
def bit1 (b : Bool) : BitVec 1 := BitVec.ofBool b

def AluMod.bits (m : AluMod) : BitVec 20 := m.rm.code ++ m.ty.code ++ m.imm

def AluMod.parse (b : BitVec 20) : Except Enc AluMod := do
  let rm ← RM.parse (b.extractLsb' 17 3)
  let ty ← Ty.parse (b.extractLsb' 14 3)
  .ok { rm := rm, ty := ty, imm := b.extractLsb' 0 14 }

def SliceMod.bits (m : SliceMod) : BitVec 20 := 0#2 ++ bit1 m.col ++ m.idx ++ m.off ++ m.tile

def SliceMod.parse (b : BitVec 20) : Except Enc SliceMod :=
  if b.extractLsb' 18 2 = 0 then
    .ok { col := b.getLsbD 17, idx := b.extractLsb' 11 6, off := b.extractLsb' 4 7, tile := b.extractLsb' 0 4 }
  else .error .enc02

def CnvMod.bits (m : CnvMod) : BitVec 20 := m.rm.code ++ m.df ++ m.sf ++ bit1 m.sat ++ m.pos

def CnvMod.parse (b : BitVec 20) : Except Enc CnvMod := do
  let rm ← RM.parse (b.extractLsb' 17 3)
  .ok { rm := rm, df := b.extractLsb' 12 5, sf := b.extractLsb' 7 5, sat := b.getLsbD 6, pos := b.extractLsb' 0 6 }

def XlMod.bits (m : XlMod) : BitVec 20 := 0#3 ++ m.ty.code ++ bit1 m.fs ++ m.mode ++ m.arg

def XlMod.parse (b : BitVec 20) : Except Enc XlMod :=
  if b.extractLsb' 17 3 = 0 then do
    let ty ← Ty.parse (b.extractLsb' 14 3)
    .ok { ty := ty, fs := b.getLsbD 13, mode := b.extractLsb' 10 3, arg := b.extractLsb' 0 10 }
  else .error .enc02

def XsMod.bits (m : XsMod) : BitVec 20 := m.rm.code ++ m.ty.code ++ m.xd ++ m.xs ++ bit1 m.sp ++ 0#9

def XsMod.parse (b : BitVec 20) : Except Enc XsMod :=
  if b.extractLsb' 0 9 = 0 then do
    let rm ← RM.parse (b.extractLsb' 17 3)
    let ty ← Ty.parse (b.extractLsb' 14 3)
    .ok { rm := rm, ty := ty, xd := b.extractLsb' 12 2, xs := b.extractLsb' 10 2, sp := b.getLsbD 9 }
  else .error .enc02

def MxMod.bits (m : MxMod) : BitVec 20 :=
  bit1 m.aw ++ bit1 m.bw ++ m.sel ++ m.mbk ++ m.rm.code ++ bit1 m.sat ++ 0#8

def MxMod.parse (b : BitVec 20) : Except Enc MxMod :=
  if b.extractLsb' 0 8 = 0 then do
    let rm ← RM.parse (b.extractLsb' 9 3)
    .ok { aw := b.getLsbD 19, bw := b.getLsbD 18, sel := b.extractLsb' 16 2, mbk := b.extractLsb' 12 4,
          rm := rm, sat := b.getLsbD 8 }
  else .error .enc02

def MemMod.bits (m : MemMod) : BitVec 20 := m.w ++ bit1 m.sx ++ m.mark ++ m.obs ++ m.sc ++ 0#4

def MemMod.parse (b : BitVec 20) : Except Enc MemMod :=
  if b.extractLsb' 0 4 = 0 then
    .ok { w := b.extractLsb' 17 3, sx := b.getLsbD 16, mark := b.extractLsb' 14 2, obs := b.extractLsb' 7 7,
          sc := b.extractLsb' 4 3 }
  else .error .enc02

def AtMod.bits (m : AtMod) : BitVec 20 := m.op ++ m.mark ++ m.obs ++ m.ty.code ++ 0#1 ++ m.sc

def AtMod.parse (b : BitVec 20) : Except Enc AtMod :=
  if b.getLsbD 3 then .error .enc02
  else do
    let ty ← Ty.parse (b.extractLsb' 4 3)
    .ok { op := b.extractLsb' 16 4, mark := b.extractLsb' 14 2, obs := b.extractLsb' 7 7, ty := ty,
          sc := b.extractLsb' 0 3 }

def FnMod.bits (m : FnMod) : BitVec 20 := 0#6 ++ m.obs ++ bit1 m.lve ++ m.lv ++ 0#3

def FnMod.parse (b : BitVec 20) : Except Enc FnMod :=
  if b.extractLsb' 14 6 = 0 && b.extractLsb' 0 3 = 0 then
    .ok { obs := b.extractLsb' 7 7, lve := b.getLsbD 6, lv := b.extractLsb' 3 3 }
  else .error .enc02

def CpyMod.bits (m : CpyMod) : BitVec 20 := bit1 m.dw ++ bit1 m.sw ++ 0#12 ++ m.tag

def CpyMod.parse (b : BitVec 20) : Except Enc CpyMod :=
  if b.extractLsb' 6 12 = 0 then .ok { dw := b.getLsbD 19, sw := b.getLsbD 18, tag := b.extractLsb' 0 6 }
  else .error .enc02

def CpmMod.bits (m : CpmMod) : BitVec 20 :=
  bit1 m.aw ++ bit1 m.bw ++ bit1 m.sp ++ m.sel ++ m.mbk ++ bit1 m.sat ++ bit1 m.role ++ m.tile ++ m.tp

def CpmMod.parse (b : BitVec 20) : Except Enc CpmMod :=
  .ok { aw := b.getLsbD 19, bw := b.getLsbD 18, sp := b.getLsbD 17, sel := b.extractLsb' 15 2,
        mbk := b.extractLsb' 11 4, sat := b.getLsbD 10, role := b.getLsbD 9, tile := b.extractLsb' 5 4,
        tp := b.extractLsb' 0 5 }

def QMod.bits (m : QMod) : BitVec 20 := m.q ++ 0#2 ++ m.imm

def QMod.parse (b : BitVec 20) : Except Enc QMod :=
  if b.extractLsb' 14 2 = 0 then .ok { q := b.extractLsb' 16 4, imm := b.extractLsb' 0 14 } else .error .enc02

def BarMod.bits (m : BarMod) : BitVec 20 := 0#17 ++ m.gl

def BarMod.parse (b : BitVec 20) : Except Enc BarMod :=
  if b.extractLsb' 3 17 = 0 then .ok { gl := b.extractLsb' 0 3 } else .error .enc02

def TxMod.bits (m : TxMod) : BitVec 20 := 0#6 ++ m.imm

def TxMod.parse (b : BitVec 20) : Except Enc TxMod :=
  if b.extractLsb' 14 6 = 0 then .ok { imm := b.extractLsb' 0 14 } else .error .enc02

def ChkMod.bits (m : ChkMod) : BitVec 20 := m.z ++ 0#2 ++ m.imm

def ChkMod.parse (b : BitVec 20) : Except Enc ChkMod :=
  if b.extractLsb' 14 2 = 0 then .ok { z := b.extractLsb' 16 4, imm := b.extractLsb' 0 14 } else .error .enc02

def SysMod.bits (m : SysMod) : BitVec 20 := 0#12 ++ m.n

def SysMod.parse (b : BitVec 20) : Except Enc SysMod :=
  if b.extractLsb' 8 12 = 0 then .ok { n := b.extractLsb' 0 8 } else .error .enc02

/-! ## The forms -/

/-- A full or wide instruction word taken apart: opcode, operands, MOD bits. -/
structure WordView where
  opc : Nat
  ops : Ops
  mod : BitVec 20
  deriving DecidableEq, Repr, Inhabited

/-- The encoding table of every opcode (spec/05 R136, R143, R147, R151, R155, R160, R168; spec/04 R123; spec/06
R185; spec/09 R274, R280, R286, R289; spec/11 R341, R364, R369; spec/15 R424; spec/18 R458; latencies spec/01
R17). Opcodes not listed are not instructions (spec/03 R92). Fields in order: full, wide, DST, SRCA, SRCB
classes, DST read, DST written, predicate allowed, where, latency, memory or atomic form. -/
def formOf (opc : Nat) : Option Form :=
  match opc with
  | 0x020 => some ⟨true, false, [], [], [], false, false, true, .both, 0, false⟩
  | 0x021 => some ⟨true, true, [], [], [.ext, .none], false, false, true, .both, 0, false⟩
  | 0x022 => some ⟨true, true, [], [.g, .const], [.ext, .none], false, false, true, .both, 0, false⟩
  | 0x023 => some ⟨true, true, [], [.p], [.ext, .none], false, false, true, .kernel, 0, false⟩
  | 0x024 => some ⟨true, false, [], [], [], false, false, true, .kernel, 0, false⟩
  | 0x025 => some ⟨true, true, [.g], [.g, .const, .none], [.ext, .none], false, true, true, .kernel, 2, false⟩
  | 0x026 | 0x027 => some ⟨true, false, [], [.g, .const], [], false, false, true, .kernel, 0, false⟩
  | 0x028 => some ⟨true, false, [], [], [], false, false, false, .kernel, 0, false⟩
  | 0x029 => some ⟨true, false, [], [], [], false, false, true, .kernel, 0, false⟩
  | 0x02A => some ⟨true, false, [.g], [.g, .const], [], false, true, true, .kernel, 0, false⟩
  | 0x02B => some ⟨true, false, [], [], [], false, false, true, .kernel, 0, false⟩
  | 0x040 | 0x041 => some ⟨true, true, [.g], [.g, .const], [.g, .const, .short, .ext], false, true, true, .both, 2, false⟩
  | 0x042 | 0x043 => some ⟨true, true, [.g], [.g, .const], [.g, .const, .short, .ext], false, true, true, .both, 4, false⟩
  | 0x044 | 0x045 | 0x046 | 0x047 | 0x048 => some ⟨true, true, [.g], [.g, .const], [.g, .const, .short, .ext], false, true, true, .both, 2, false⟩
  | 0x049 | 0x04A | 0x04B | 0x04C => some ⟨true, true, [.g, .p], [.g, .const, .p], [.g, .const, .short, .ext, .p], false, true, true, .both, 2, false⟩
  | 0x04D => some ⟨true, false, [.g, .p], [.g, .const, .p], [], false, true, true, .both, 2, false⟩
  | 0x04E | 0x04F => some ⟨true, true, [.g], [.g, .const], [.g, .const, .short, .ext], false, true, true, .both, 2, false⟩
  | 0x050 | 0x051 => some ⟨true, false, [.g], [.g, .const], [], false, true, true, .both, 2, false⟩
  | 0x052 | 0x053 => some ⟨true, true, [.g], [.g, .const], [.g, .const, .short, .ext], false, true, true, .both, 0, false⟩
  | 0x054 | 0x055 | 0x056 | 0x057 => some ⟨true, false, [.g], [.g, .const], [], false, true, true, .both, 2, false⟩
  | 0x058 => some ⟨true, true, [.g], [.g, .const], [.g, .const, .ext], false, true, true, .both, 2, false⟩
  | 0x059 => some ⟨true, false, [.g], [.g, .const], [], false, true, true, .both, 2, false⟩
  | 0x05A => some ⟨true, false, [.g], [.g, .const], [], true, true, true, .both, 2, false⟩
  | 0x05B => some ⟨true, true, [.g, .p], [.g, .const, .short, .ext, .p], [], false, true, true, .both, 2, false⟩
  | 0x060 | 0x061 | 0x062 => some ⟨true, true, [.v], [.v, .g, .const, .plane], [.v, .g, .const, .plane, .short, .ext], false, true, true, .kernel, 4, false⟩
  | 0x063 => some ⟨true, true, [.p], [.v, .g, .const, .plane], [.v, .g, .const, .plane, .ext], false, true, true, .kernel, 4, false⟩
  | 0x064 => some ⟨true, true, [.v], [.v, .g, .const, .plane], [.v, .g, .const, .plane, .short, .ext], false, true, true, .kernel, 4, false⟩
  | 0x065 => some ⟨true, false, [.v], [.v, .g, .const, .plane], [.v, .g, .const, .plane], true, true, true, .kernel, 4, false⟩
  | 0x066 | 0x067 | 0x068 | 0x069 | 0x06A | 0x06B => some ⟨true, true, [.v], [.v, .g, .const, .plane], [.v, .g, .const, .plane, .short, .ext], false, true, true, .kernel, 4, false⟩
  | 0x06C => some ⟨true, true, [.v], [.v, .g, .const, .plane], [.v, .g, .const, .plane, .short, .ext], false, true, true, .kernel, 4, false⟩
  | 0x06D => some ⟨true, false, [.v], [.v, .g, .const, .plane], [], false, true, true, .kernel, 4, false⟩
  | 0x06E | 0x06F => some ⟨true, true, [.v], [.v, .g, .const, .plane], [.v, .g, .const, .plane, .short, .ext], false, true, true, .kernel, 4, false⟩
  | 0x070 | 0x071 => some ⟨true, false, [.v], [.v, .g, .const, .plane], [], false, true, true, .kernel, 4, false⟩
  | 0x072 | 0x073 => some ⟨true, true, [.v], [.v, .g, .const, .plane], [.v, .g, .const, .plane, .short, .ext], false, true, true, .kernel, 4, false⟩
  | 0x074 | 0x075 => some ⟨true, true, [.v], [.v, .g, .const, .plane], [.v, .g, .const, .plane, .short, .ext], false, true, true, .kernel, 0, false⟩
  | 0x076 | 0x077 | 0x078 => some ⟨true, false, [.v], [.v, .g, .const, .plane], [], false, true, true, .kernel, 4, false⟩
  | 0x079 => some ⟨true, false, [.v], [.v, .g, .const, .plane], [.v, .g, .const, .plane], false, true, true, .kernel, 4, false⟩
  | 0x07A => some ⟨true, false, [.v], [.v, .g, .const, .plane], [], false, true, true, .kernel, 4, false⟩
  | 0x07B => some ⟨true, false, [.v], [.v, .g, .const, .plane], [], true, true, true, .kernel, 4, false⟩
  | 0x07C => some ⟨true, true, [.v], [.v, .g, .const, .plane, .short, .ext], [], false, true, true, .kernel, 4, false⟩
  | 0x07D => some ⟨true, false, [.v], [.v, .g, .const, .plane], [.v, .g, .const, .plane], true, true, true, .kernel, 4, false⟩
  | 0x080 | 0x081 | 0x082 => some ⟨true, true, [.v], [.v, .g, .const, .plane], [.v, .g, .const, .plane, .ext], false, true, true, .kernel, 6, false⟩
  | 0x083 => some ⟨true, true, [.v], [.v, .g, .const, .plane], [.v, .g, .const, .plane, .ext], true, true, true, .kernel, 6, false⟩
  | 0x084 => some ⟨true, true, [.p], [.v, .g, .const, .plane], [.v, .g, .const, .plane, .ext], false, true, true, .kernel, 6, false⟩
  | 0x085 | 0x086 | 0x087 => some ⟨true, true, [.v], [.v, .g, .const, .plane], [.v, .g, .const, .plane, .ext], true, true, true, .kernel, 6, false⟩
  | 0x088 | 0x089 | 0x08A | 0x08B | 0x08C | 0x08D => some ⟨true, true, [.v], [.v, .g, .const, .plane], [.v, .g, .const, .plane, .ext], false, true, true, .kernel, 6, false⟩
  | 0x08E | 0x08F => some ⟨true, false, [.v], [.v, .g, .const, .plane], [], false, true, true, .kernel, 6, false⟩
  | 0x090 | 0x091 | 0x092 => some ⟨true, true, [.v], [.v, .g, .const, .plane], [.v, .g, .const, .plane, .ext], false, true, true, .kernel, 6, false⟩
  | 0x093 => some ⟨true, true, [.v], [.v, .g, .const, .plane, .ext], [], false, true, true, .kernel, 6, false⟩
  | 0x094 => some ⟨true, false, [.v], [.v, .g, .const, .plane], [.v, .g, .const, .plane], true, true, true, .kernel, 6, false⟩
  | 0x095 => some ⟨true, true, [.v], [.v, .g, .const, .plane], [.v, .g, .const, .plane, .ext], true, true, true, .kernel, 6, false⟩
  | 0x096 => some ⟨true, true, [.v], [.v, .g, .const, .plane], [.v, .g, .const, .plane, .ext], false, true, true, .kernel, 6, false⟩
  | 0x097 => some ⟨true, true, [.v], [.v, .g, .const, .plane], [.v, .g, .const, .plane, .ext], true, true, true, .kernel, 6, false⟩
  | 0x0A0 | 0x0A1 | 0x0A2 | 0x0A3 | 0x0A4 | 0x0A5 => some ⟨true, false, [.v], [.v, .g, .const, .plane], [], false, true, true, .kernel, 8, false⟩
  | 0x0A6 | 0x0A7 | 0x0A8 => some ⟨true, false, [.v], [.v, .g, .const, .plane], [], false, true, true, .kernel, 8, false⟩
  | 0x0C0 => some ⟨true, false, [.v], [.v, .g, .const], [], true, true, true, .kernel, 6, false⟩
  | 0x0C1 => some ⟨true, false, [.v], [.v, .g, .const], [.v, .g, .const], true, true, true, .kernel, 6, false⟩
  | 0x0C2 => some ⟨true, false, [.v], [.v, .g], [], false, true, true, .kernel, 6, false⟩
  | 0x0C3 => some ⟨true, false, [.v], [.v, .g, .const], [.v, .g, .const], false, true, true, .kernel, 6, false⟩
  | 0x0C4 | 0x0C5 | 0x0C6 | 0x0C7 => some ⟨true, false, [.v], [.v, .g], [], false, true, true, .kernel, 6, false⟩
  | 0x0E0 => some ⟨true, false, [.v], [.v, .const], [.v, .g, .const], false, true, true, .kernel, 8, false⟩
  | 0x0E1 => some ⟨true, false, [.v], [.v, .const], [.g], false, true, true, .kernel, 8, false⟩
  | 0x0E2 => some ⟨true, false, [.p, .g], [.p], [], false, true, true, .kernel, 8, false⟩
  | 0x0E3 | 0x0E4 => some ⟨true, false, [.v], [.v, .const], [], false, true, true, .kernel, 8, false⟩
  | 0x0E5 => some ⟨true, false, [.g], [.v], [], false, true, true, .kernel, 8, false⟩
  | 0x0E6 => some ⟨true, false, [.g, .p], [], [], false, true, true, .kernel, 8, false⟩
  | 0x0E7 => some ⟨true, false, [.g], [.v], [.g, .const], false, true, true, .kernel, 8, false⟩
  | 0x0E8 => some ⟨true, false, [.v], [.g], [.g], false, true, true, .kernel, 8, false⟩
  | 0x0E9 => some ⟨true, false, [.g], [.p], [], false, true, true, .kernel, 8, false⟩
  | 0x100 => some ⟨true, false, [], [], [], false, false, true, .kernel, 0, false⟩
  | 0x101 | 0x102 => some ⟨true, false, [], [.v, .const], [], false, false, true, .kernel, 0, false⟩
  | 0x103 => some ⟨true, false, [], [.v, .const], [.v, .const], false, false, true, .kernel, 0, false⟩
  | 0x104 => some ⟨true, false, [.g, .v], [], [], false, true, true, .kernel, 0, false⟩
  | 0x105 | 0x106 => some ⟨true, false, [], [.g, .const], [], false, false, true, .kernel, 0, false⟩
  | 0x107 => some ⟨true, false, [], [], [], false, false, true, .kernel, 0, false⟩
  | 0x120 => some ⟨false, true, [.a], [.ext], [], false, true, true, .kernel, 0, false⟩
  | 0x121 => some ⟨true, false, [.a], [], [], false, true, true, .kernel, 0, false⟩
  | 0x122 => some ⟨false, true, [.a], [.g], [], false, true, true, .kernel, 0, false⟩
  | 0x123 => some ⟨false, true, [], [.a], [.g], false, false, true, .kernel, 0, false⟩
  | 0x124 => some ⟨false, true, [.a], [.g], [], false, true, true, .kernel, 0, false⟩
  | 0x125 => some ⟨false, true, [], [.a], [.g], false, false, true, .kernel, 0, false⟩
  | 0x126 | 0x127 | 0x128 | 0x129 => some ⟨false, true, [.a], [.g], [.g], false, true, true, .kernel, 0, false⟩
  | 0x12A => some ⟨true, false, [.v], [.slice], [], false, true, true, .kernel, 0, false⟩
  | 0x12B => some ⟨true, false, [.slice], [.v], [], false, true, true, .kernel, 0, false⟩
  | 0x12C | 0x12D => some ⟨true, false, [.a], [.a], [], false, true, true, .kernel, 0, false⟩
  | 0x12E => some ⟨true, false, [.a], [.g], [], false, true, true, .kernel, 0, false⟩
  | 0x12F => some ⟨true, false, [.g], [.a], [], false, true, true, .kernel, 0, false⟩
  | 0x130 => some ⟨false, true, [], [.a], [.g], false, false, true, .kernel, 0, false⟩
  | 0x131 => some ⟨true, false, [.g], [.a], [], false, true, true, .kernel, 0, false⟩
  | 0x140 => some ⟨true, true, [.g], [.g], [.g, .const, .ext, .none], false, true, true, .kernel, 0, true⟩
  | 0x141 => some ⟨true, true, [.g, .const], [.g], [.g, .const, .ext, .none], true, false, true, .kernel, 0, true⟩
  | 0x142 => some ⟨true, true, [.v], [.g], [.g, .const, .ext, .none], false, true, true, .kernel, 0, true⟩
  | 0x143 => some ⟨true, true, [.v, .g, .const], [.g], [.g, .const, .ext, .none], true, false, true, .kernel, 0, true⟩
  | 0x144 => some ⟨true, false, [.v], [.g], [.v], false, true, true, .kernel, 0, true⟩
  | 0x145 => some ⟨true, false, [.v, .g, .const], [.g], [.v], true, false, true, .kernel, 0, true⟩
  | 0x146 => some ⟨true, true, [.v], [.g], [.g, .const, .ext, .none], false, true, true, .kernel, 0, true⟩
  | 0x147 => some ⟨true, true, [.v, .g, .const], [.g], [.g, .const, .ext, .none], true, false, true, .kernel, 0, true⟩
  | 0x148 => some ⟨true, true, [], [.g], [.g, .const, .ext, .none], false, false, true, .kernel, 0, true⟩
  | 0x149 => some ⟨true, false, [.v], [.g], [.g], false, true, true, .kernel, 0, true⟩
  | 0x14A => some ⟨true, false, [.v, .g, .const], [.g], [.g], true, false, true, .kernel, 0, true⟩
  | 0x14B => some ⟨true, false, [.v], [.g], [.v], false, true, true, .kernel, 0, true⟩
  | 0x14C => some ⟨true, false, [.v, .g, .const], [.g], [.v], true, false, true, .kernel, 0, true⟩
  | 0x14D => some ⟨true, true, [.g], [.g], [.g, .const, .ext, .none], false, true, true, .kernel, 0, true⟩
  | 0x14E => some ⟨true, true, [.g, .const], [.g], [.g, .const, .ext, .none], true, false, true, .kernel, 0, true⟩
  | 0x14F => some ⟨true, true, [.v], [.g], [.g, .const, .ext, .none], false, true, true, .kernel, 0, true⟩
  | 0x150 => some ⟨true, false, [.v], [.g], [], false, true, true, .kernel, 0, true⟩
  | 0x151 => some ⟨true, false, [.v], [.g], [], true, false, true, .kernel, 0, true⟩
  | 0x152 => some ⟨true, false, [], [.g], [.v], false, false, true, .kernel, 0, true⟩
  | 0x153 | 0x154 => some ⟨true, false, [], [.g], [], false, false, true, .kernel, 0, true⟩
  | 0x155 | 0x156 => some ⟨true, false, [.v], [.g], [.v], false, true, true, .kernel, 0, true⟩
  | 0x157 => some ⟨true, false, [.v], [.g], [.v], true, false, true, .kernel, 0, true⟩
  | 0x160 => some ⟨true, false, [.g], [.g], [.g, .const], false, true, true, .kernel, 0, true⟩
  | 0x161 => some ⟨true, false, [.v], [.g], [.v], true, true, true, .kernel, 0, true⟩
  | 0x162 => some ⟨true, false, [], [.g], [.g, .const], false, false, true, .kernel, 0, true⟩
  | 0x163 => some ⟨true, false, [.v, .g, .const], [.g], [.v], true, false, true, .kernel, 0, true⟩
  | 0x164 => some ⟨true, false, [.g], [.g], [.g], true, true, true, .kernel, 0, true⟩
  | 0x165 => some ⟨true, false, [.v], [.g], [.v], true, true, true, .kernel, 0, true⟩
  | 0x166 => some ⟨true, false, [.g], [.g], [.g], true, true, true, .kernel, 0, true⟩
  | 0x167 => some ⟨true, false, [.g], [.g], [.g, .const], false, true, true, .kernel, 0, true⟩
  | 0x168 => some ⟨true, false, [.v], [.g], [.v], true, true, true, .kernel, 0, true⟩
  | 0x169 => some ⟨true, false, [.v, .g, .const], [.g], [.v], true, false, true, .kernel, 0, true⟩
  | 0x180 | 0x181 | 0x182 => some ⟨true, false, [], [], [], false, false, true, .kernel, 0, false⟩
  | 0x1A0 => some ⟨true, true, [.g], [.g], [.g, .const, .ext], true, false, true, .kernel, 0, false⟩
  | 0x1A1 | 0x1A2 => some ⟨false, true, [.g], [.g], [.g], true, false, true, .kernel, 0, false⟩
  | 0x1A3 => some ⟨true, false, [.g], [.g], [.g], true, false, true, .kernel, 0, false⟩
  | 0x1A4 => some ⟨true, false, [.g], [.g], [], false, true, true, .kernel, 0, false⟩
  | 0x1A5 => some ⟨true, false, [], [.g], [], false, false, true, .kernel, 0, false⟩
  | 0x1A6 | 0x1A7 => some ⟨true, false, [.g], [.g], [], false, true, true, .kernel, 0, false⟩
  | 0x1A8 => some ⟨true, true, [.g], [.g], [.g, .const, .ext], true, false, true, .kernel, 0, false⟩
  | 0x1A9 => some ⟨true, false, [.g], [.g], [], false, true, true, .kernel, 0, false⟩
  | 0x1C0 => some ⟨true, false, [], [.g], [.g, .const, .short], false, false, true, .kernel, 0, false⟩
  | 0x1C1 => some ⟨true, false, [], [.g, .const], [], false, false, true, .kernel, 0, false⟩
  | 0x1C2 => some ⟨true, false, [.g], [], [], false, true, true, .kernel, 0, false⟩
  | 0x1C3 => some ⟨true, false, [], [.g, .const], [.g, .const, .short], false, false, true, .kernel, 0, false⟩
  | 0x1C4 => some ⟨true, false, [.g], [], [], false, true, true, .kernel, 0, false⟩
  | 0x1E0 => some ⟨true, false, [], [], [], false, false, false, .kernel, 0, false⟩
  | 0x1E1 => some ⟨true, false, [.g], [], [], false, true, false, .kernel, 0, false⟩
  | 0x1E2 => some ⟨true, false, [], [.g], [], false, false, false, .kernel, 0, false⟩
  | 0x200 => some ⟨true, true, [], [], [.ext, .none], false, false, false, .kernel, 0, false⟩
  | 0x201 => some ⟨true, false, [], [], [], false, false, false, .kernel, 0, false⟩
  | 0x202 => some ⟨true, true, [], [], [.ext, .none], false, false, false, .kernel, 0, false⟩
  | 0x203 | 0x204 => some ⟨true, false, [], [], [], false, false, false, .kernel, 0, false⟩
  | 0x205 => some ⟨true, true, [], [.g], [.g, .const, .ext, .none], false, false, false, .kernel, 0, false⟩
  | 0x220 => some ⟨true, true, [], [.g], [.g, .const, .short, .ext], false, false, false, .kernel, 0, false⟩
  | 0x221 | 0x222 => some ⟨true, false, [], [.g], [], false, false, false, .kernel, 0, false⟩
  | 0x223 => some ⟨true, true, [], [.g, .v], [.g, .const, .short, .ext], false, false, false, .kernel, 0, false⟩
  | 0x224 => some ⟨true, false, [], [], [], false, false, false, .kernel, 0, false⟩
  | 0x225 => some ⟨true, false, [], [.g], [], false, false, false, .kernel, 0, false⟩
  | 0x226 => some ⟨true, false, [], [.g], [.g], false, false, false, .kernel, 0, false⟩
  | 0x227 => some ⟨true, true, [], [.g], [.g, .const, .short, .ext], false, false, false, .kernel, 0, false⟩
  | 0x240 => some ⟨true, false, [.g], [.g, .none], [], false, true, true, .both, 0, false⟩
  | 0x241 => some ⟨true, false, [], [], [], false, false, true, .kernel, 0, false⟩
  | 0x242 => some ⟨true, false, [], [], [], false, false, false, .handler, 0, false⟩
  | 0x243 => some ⟨true, false, [.g], [], [], false, true, false, .handler, 0, false⟩
  | 0x244 => some ⟨true, false, [.g], [.g], [], false, true, false, .handler, 0, false⟩
  | 0x245 => some ⟨true, false, [.g], [.g], [.g], false, true, true, .kernel, 0, false⟩
  | 0x246 => some ⟨true, false, [.g, .v], [], [], false, true, true, .both, 0, false⟩
  | 0x247 => some ⟨true, false, [], [.g], [], false, false, false, .handler, 0, false⟩
  | 0x248 => some ⟨true, false, [], [], [], false, false, false, .handler, 0, false⟩
  | 0x249 | 0x24A => some ⟨true, false, [.g], [.g], [], false, true, false, .handler, 0, false⟩
  | 0x24B => some ⟨true, false, [], [.g], [.g], false, false, true, .both, 0, false⟩
  | _ => Option.none

/-- A conversion type code whose field is a whole lane or a pair of lanes (spec/04 R124, R125): a write of it reads
nothing of its destination. -/
def wholeLaneType (df : BitVec 5) : Bool :=
  df == 0 || df == 1 || df == 17 || df == 18 || df == 19 || df == 20

/-- A conversion type code of 16 bits (spec/04 R124): `PACK` then fills its lane (R127). -/
def halfLaneType (df : BitVec 5) : Bool :=
  df == 2 || df == 3 || df == 11 || df == 21

/-- What a row says once the MOD bits are known: `SHFL` uses SRCB in the mode `.idx` only (spec/05 R160); a cross-lane form
with FS = 1 has variable latency (R135); a conversion that fills its destination does not read it (spec/04 R125). -/
def Form.at_ (f : Form) (opc : Nat) (mod : BitVec 20) : Form :=
  { f with
    b := if opc = 0x0E0 ∧ mod.extractLsb' 10 3 ≠ 0 then [] else f.b
    lat := if (opc = 0x0E0 ∨ opc = 0x0E1 ∨ opc = 0x0E7) ∧ mod.getLsbD 13 then 0 else f.lat
    dRead := if opc = 0x0C0 then !wholeLaneType (mod.extractLsb' 12 5)
      else if opc = 0x0C1 then !halfLaneType (mod.extractLsb' 12 5) else f.dRead }

/-- The row that governs a word. -/
def formAt (opc : Nat) (mod : BitVec 20) : Option Form := (formOf opc).map (fun f => f.at_ opc mod)

/-- The opcode, operands and MOD bits of an instruction word; `none` for paired words, illegal words and events. -/
def Instr.view (i : Instr) : Option WordView :=
  match i with
  | .nop w m => some ⟨0x020, w, m.bits⟩
  | .bra w m => some ⟨0x021, w, m.bits⟩
  | .brc w m => some ⟨0x022, w, m.bits⟩
  | .brv w m => some ⟨0x023, w, m.bits⟩
  | .join w m => some ⟨0x024, w, m.bits⟩
  | .call w m => some ⟨0x025, w, m.bits⟩
  | .ret w m => some ⟨0x026, w, m.bits⟩
  | .jmpt w m => some ⟨0x027, w, m.bits⟩
  | .recast w m => some ⟨0x028, w, m.bits⟩
  | .yield w m => some ⟨0x029, w, m.bits⟩
  | .launch w m => some ⟨0x02A, w, m.bits⟩
  | .exit w m => some ⟨0x02B, w, m.bits⟩
  | .add w m => some ⟨0x040, w, m.bits⟩
  | .sub w m => some ⟨0x041, w, m.bits⟩
  | .mul w m => some ⟨0x042, w, m.bits⟩
  | .mulh w m => some ⟨0x043, w, m.bits⟩
  | .shl w m => some ⟨0x044, w, m.bits⟩
  | .shr w m => some ⟨0x045, w, m.bits⟩
  | .sar w m => some ⟨0x046, w, m.bits⟩
  | .rol w m => some ⟨0x047, w, m.bits⟩
  | .ror w m => some ⟨0x048, w, m.bits⟩
  | .and w m => some ⟨0x049, w, m.bits⟩
  | .or w m => some ⟨0x04A, w, m.bits⟩
  | .xor w m => some ⟨0x04B, w, m.bits⟩
  | .andn w m => some ⟨0x04C, w, m.bits⟩
  | .not w m => some ⟨0x04D, w, m.bits⟩
  | .min w m => some ⟨0x04E, w, m.bits⟩
  | .max w m => some ⟨0x04F, w, m.bits⟩
  | .abs w m => some ⟨0x050, w, m.bits⟩
  | .neg w m => some ⟨0x051, w, m.bits⟩
  | .div w m => some ⟨0x052, w, m.bits⟩
  | .rem w m => some ⟨0x053, w, m.bits⟩
  | .clz w m => some ⟨0x054, w, m.bits⟩
  | .ctz w m => some ⟨0x055, w, m.bits⟩
  | .popc w m => some ⟨0x056, w, m.bits⟩
  | .brev w m => some ⟨0x057, w, m.bits⟩
  | .cmp w m => some ⟨0x058, w, m.bits⟩
  | .bfx w m => some ⟨0x059, w, m.bits⟩
  | .bfi w m => some ⟨0x05A, w, m.bits⟩
  | .mov w m => some ⟨0x05B, w, m.bits⟩
  | .vaddInt w m => some ⟨0x060, w, m.bits⟩
  | .vsubInt w m => some ⟨0x061, w, m.bits⟩
  | .vmulInt w m => some ⟨0x062, w, m.bits⟩
  | .vcmpInt w m => some ⟨0x063, w, m.bits⟩
  | .vmulh w m => some ⟨0x064, w, m.bits⟩
  | .vmad w m => some ⟨0x065, w, m.bits⟩
  | .vshl w m => some ⟨0x066, w, m.bits⟩
  | .vshr w m => some ⟨0x067, w, m.bits⟩
  | .vsar w m => some ⟨0x068, w, m.bits⟩
  | .vand w m => some ⟨0x069, w, m.bits⟩
  | .vor w m => some ⟨0x06A, w, m.bits⟩
  | .vxor w m => some ⟨0x06B, w, m.bits⟩
  | .vandn w m => some ⟨0x06C, w, m.bits⟩
  | .vnot w m => some ⟨0x06D, w, m.bits⟩
  | .vminInt w m => some ⟨0x06E, w, m.bits⟩
  | .vmaxInt w m => some ⟨0x06F, w, m.bits⟩
  | .vabsInt w m => some ⟨0x070, w, m.bits⟩
  | .vnegInt w m => some ⟨0x071, w, m.bits⟩
  | .vadds w m => some ⟨0x072, w, m.bits⟩
  | .vsubs w m => some ⟨0x073, w, m.bits⟩
  | .vdivInt w m => some ⟨0x074, w, m.bits⟩
  | .vrem w m => some ⟨0x075, w, m.bits⟩
  | .vclz w m => some ⟨0x076, w, m.bits⟩
  | .vpopc w m => some ⟨0x077, w, m.bits⟩
  | .vbrev w m => some ⟨0x078, w, m.bits⟩
  | .vselInt w m => some ⟨0x079, w, m.bits⟩
  | .vbfx w m => some ⟨0x07A, w, m.bits⟩
  | .vbfi w m => some ⟨0x07B, w, m.bits⟩
  | .vmovInt w m => some ⟨0x07C, w, m.bits⟩
  | .vsad w m => some ⟨0x07D, w, m.bits⟩
  | .vaddFloat w m => some ⟨0x080, w, m.bits⟩
  | .vsubFloat w m => some ⟨0x081, w, m.bits⟩
  | .vmulFloat w m => some ⟨0x082, w, m.bits⟩
  | .vfma w m => some ⟨0x083, w, m.bits⟩
  | .vcmpFloat w m => some ⟨0x084, w, m.bits⟩
  | .vfms w m => some ⟨0x085, w, m.bits⟩
  | .vfnma w m => some ⟨0x086, w, m.bits⟩
  | .vfnms w m => some ⟨0x087, w, m.bits⟩
  | .vminFloat w m => some ⟨0x088, w, m.bits⟩
  | .vmaxFloat w m => some ⟨0x089, w, m.bits⟩
  | .vminn w m => some ⟨0x08A, w, m.bits⟩
  | .vmaxn w m => some ⟨0x08B, w, m.bits⟩
  | .vminm w m => some ⟨0x08C, w, m.bits⟩
  | .vmaxm w m => some ⟨0x08D, w, m.bits⟩
  | .vabsFloat w m => some ⟨0x08E, w, m.bits⟩
  | .vnegFloat w m => some ⟨0x08F, w, m.bits⟩
  | .vcpsgn w m => some ⟨0x090, w, m.bits⟩
  | .vdivFloat w m => some ⟨0x091, w, m.bits⟩
  | .vselFloat w m => some ⟨0x092, w, m.bits⟩
  | .vmovFloat w m => some ⟨0x093, w, m.bits⟩
  | .vdot2 w m => some ⟨0x094, w, m.bits⟩
  | .vclamp w m => some ⟨0x095, w, m.bits⟩
  | .vabd w m => some ⟨0x096, w, m.bits⟩
  | .vlerp w m => some ⟨0x097, w, m.bits⟩
  | .vrcp w m => some ⟨0x0A0, w, m.bits⟩
  | .vrsq w m => some ⟨0x0A1, w, m.bits⟩
  | .vsqrt w m => some ⟨0x0A2, w, m.bits⟩
  | .vexp2 w m => some ⟨0x0A3, w, m.bits⟩
  | .vlog2 w m => some ⟨0x0A4, w, m.bits⟩
  | .vsin w m => some ⟨0x0A5, w, m.bits⟩
  | .vcos w m => some ⟨0x0A6, w, m.bits⟩
  | .vtanh w m => some ⟨0x0A7, w, m.bits⟩
  | .vsigm w m => some ⟨0x0A8, w, m.bits⟩
  | .cvt w m => some ⟨0x0C0, w, m.bits⟩
  | .pack w m => some ⟨0x0C1, w, m.bits⟩
  | .unpack w m => some ⟨0x0C2, w, m.bits⟩
  | .scaleb w m => some ⟨0x0C3, w, m.bits⟩
  | .rint w m => some ⟨0x0C4, w, m.bits⟩
  | .fcls w m => some ⟨0x0C5, w, m.bits⟩
  | .getexp w m => some ⟨0x0C6, w, m.bits⟩
  | .mxscl w m => some ⟨0x0C7, w, m.bits⟩
  | .shfl w m => some ⟨0x0E0, w, m.bits⟩
  | .bcast w m => some ⟨0x0E1, w, m.bits⟩
  | .vote w m => some ⟨0x0E2, w, m.bits⟩
  | .pscan w m => some ⟨0x0E3, w, m.bits⟩
  | .matchLanes w m => some ⟨0x0E4, w, m.bits⟩
  | .redl w m => some ⟨0x0E5, w, m.bits⟩
  | .elect w m => some ⟨0x0E6, w, m.bits⟩
  | .lrd w m => some ⟨0x0E7, w, m.bits⟩
  | .lwr w m => some ⟨0x0E8, w, m.bits⟩
  | .pcnt w m => some ⟨0x0E9, w, m.bits⟩
  | .xclr w m => some ⟨0x100, w, m.bits⟩
  | .xadd w m => some ⟨0x101, w, m.bits⟩
  | .xsub w m => some ⟨0x102, w, m.bits⟩
  | .xdot w m => some ⟨0x103, w, m.bits⟩
  | .xrnd w m => some ⟨0x104, w, m.bits⟩
  | .xld w m => some ⟨0x105, w, m.bits⟩
  | .xst w m => some ⟨0x106, w, m.bits⟩
  | .xmrg w m => some ⟨0x107, w, m.bits⟩
  | .tcfg w m => some ⟨0x120, w, m.bits⟩
  | .tzero w m => some ⟨0x121, w, m.bits⟩
  | .tld w m => some ⟨0x122, w, m.bits⟩
  | .tst w m => some ⟨0x123, w, m.bits⟩
  | .tlds w m => some ⟨0x124, w, m.bits⟩
  | .tsts w m => some ⟨0x125, w, m.bits⟩
  | .mma w m => some ⟨0x126, w, m.bits⟩
  | .mmap w m => some ⟨0x127, w, m.bits⟩
  | .mmas w m => some ⟨0x128, w, m.bits⟩
  | .mmasp w m => some ⟨0x129, w, m.bits⟩
  | .trd w m => some ⟨0x12A, w, m.bits⟩
  | .twr w m => some ⟨0x12B, w, m.bits⟩
  | .tmov w m => some ⟨0x12C, w, m.bits⟩
  | .tadd w m => some ⟨0x12D, w, m.bits⟩
  | .tscal w m => some ⟨0x12E, w, m.bits⟩
  | .tamax w m => some ⟨0x12F, w, m.bits⟩
  | .tstq w m => some ⟨0x130, w, m.bits⟩
  | .tinfo w m => some ⟨0x131, w, m.bits⟩
  | .ld w m => some ⟨0x140, w, m.bits⟩
  | .st w m => some ⟨0x141, w, m.bits⟩
  | .vld w m => some ⟨0x142, w, m.bits⟩
  | .vst w m => some ⟨0x143, w, m.bits⟩
  | .vldx w m => some ⟨0x144, w, m.bits⟩
  | .vstx w m => some ⟨0x145, w, m.bits⟩
  | .vldp w m => some ⟨0x146, w, m.bits⟩
  | .vstp w m => some ⟨0x147, w, m.bits⟩
  | .pf w m => some ⟨0x148, w, m.bits⟩
  | .vlds w m => some ⟨0x149, w, m.bits⟩
  | .vsts w m => some ⟨0x14A, w, m.bits⟩
  | .vldxp w m => some ⟨0x14B, w, m.bits⟩
  | .vstxp w m => some ⟨0x14C, w, m.bits⟩
  | .ldp w m => some ⟨0x14D, w, m.bits⟩
  | .stp w m => some ⟨0x14E, w, m.bits⟩
  | .vldu w m => some ⟨0x14F, w, m.bits⟩
  | .vldc w m => some ⟨0x150, w, m.bits⟩
  | .vstc w m => some ⟨0x151, w, m.bits⟩
  | .pfx w m => some ⟨0x152, w, m.bits⟩
  | .lwb w m => some ⟨0x153, w, m.bits⟩
  | .linv w m => some ⟨0x154, w, m.bits⟩
  | .vldf w m => some ⟨0x155, w, m.bits⟩
  | .vldfp w m => some ⟨0x156, w, m.bits⟩
  | .vstf w m => some ⟨0x157, w, m.bits⟩
  | .amo w m => some ⟨0x160, w, m.bits⟩
  | .vamo w m => some ⟨0x161, w, m.bits⟩
  | .red w m => some ⟨0x162, w, m.bits⟩
  | .vred w m => some ⟨0x163, w, m.bits⟩
  | .cas w m => some ⟨0x164, w, m.bits⟩
  | .vcas w m => some ⟨0x165, w, m.bits⟩
  | .cas2 w m => some ⟨0x166, w, m.bits⟩
  | .amop w m => some ⟨0x167, w, m.bits⟩
  | .vamop w m => some ⟨0x168, w, m.bits⟩
  | .vredp w m => some ⟨0x169, w, m.bits⟩
  | .fence w m => some ⟨0x180, w, m.bits⟩
  | .fencex w m => some ⟨0x181, w, m.bits⟩
  | .flushu w m => some ⟨0x182, w, m.bits⟩
  | .cpy w m => some ⟨0x1A0, w, m.bits⟩
  | .cpy2d w m => some ⟨0x1A1, w, m.bits⟩
  | .cpym w m => some ⟨0x1A2, w, m.bits⟩
  | .cpys w m => some ⟨0x1A3, w, m.bits⟩
  | .cwany w m => some ⟨0x1A4, w, m.bits⟩
  | .cwall w m => some ⟨0x1A5, w, m.bits⟩
  | .cffr w m => some ⟨0x1A6, w, m.bits⟩
  | .coll w m => some ⟨0x1A7, w, m.bits⟩
  | .cfill w m => some ⟨0x1A8, w, m.bits⟩
  | .cgrp w m => some ⟨0x1A9, w, m.bits⟩
  | .qinit w m => some ⟨0x1C0, w, m.bits⟩
  | .qpush w m => some ⟨0x1C1, w, m.bits⟩
  | .qpop w m => some ⟨0x1C2, w, m.bits⟩
  | .qallow w m => some ⟨0x1C3, w, m.bits⟩
  | .qlen w m => some ⟨0x1C4, w, m.bits⟩
  | .bar w m => some ⟨0x1E0, w, m.bits⟩
  | .bara w m => some ⟨0x1E1, w, m.bits⟩
  | .barw w m => some ⟨0x1E2, w, m.bits⟩
  | .txb w m => some ⟨0x200, w, m.bits⟩
  | .txe w m => some ⟨0x201, w, m.bits⟩
  | .txelse w m => some ⟨0x202, w, m.bits⟩
  | .retry w m => some ⟨0x203, w, m.bits⟩
  | .txabt w m => some ⟨0x204, w, m.bits⟩
  | .txwatch w m => some ⟨0x205, w, m.bits⟩
  | .chkb w m => some ⟨0x220, w, m.bits⟩
  | .chkn w m => some ⟨0x221, w, m.bits⟩
  | .chka w m => some ⟨0x222, w, m.bits⟩
  | .chki w m => some ⟨0x223, w, m.bits⟩
  | .chkl w m => some ⟨0x224, w, m.bits⟩
  | .chkt w m => some ⟨0x225, w, m.bits⟩
  | .chkr w m => some ⟨0x226, w, m.bits⟩
  | .chkp w m => some ⟨0x227, w, m.bits⟩
  | .qfeat w m => some ⟨0x240, w, m.bits⟩
  | .trap w m => some ⟨0x241, w, m.bits⟩
  | .hret w m => some ⟨0x242, w, m.bits⟩
  | .fltrd w m => some ⟨0x243, w, m.bits⟩
  | .mapf w m => some ⟨0x244, w, m.bits⟩
  | .sealreq w m => some ⟨0x245, w, m.bits⟩
  | .movs w m => some ⟨0x246, w, m.bits⟩
  | .hskip w m => some ⟨0x247, w, m.bits⟩
  | .hfail w m => some ⟨0x248, w, m.bits⟩
  | .mapq w m => some ⟨0x249, w, m.bits⟩
  | .unmapf w m => some ⟨0x24A, w, m.bits⟩
  | .gnote w m => some ⟨0x24B, w, m.bits⟩
  | _ => Option.none

/-- The instruction of an opcode with its operands and MOD bits. -/
def build (opc : Nat) (w : Ops) (b : BitVec 20) : Except Enc Instr :=
  match opc with
  | 0x020 => (AluMod.parse b).map (Instr.nop w)
  | 0x021 => (AluMod.parse b).map (Instr.bra w)
  | 0x022 => (AluMod.parse b).map (Instr.brc w)
  | 0x023 => (AluMod.parse b).map (Instr.brv w)
  | 0x024 => (AluMod.parse b).map (Instr.join w)
  | 0x025 => (AluMod.parse b).map (Instr.call w)
  | 0x026 => (AluMod.parse b).map (Instr.ret w)
  | 0x027 => (AluMod.parse b).map (Instr.jmpt w)
  | 0x028 => (AluMod.parse b).map (Instr.recast w)
  | 0x029 => (AluMod.parse b).map (Instr.yield w)
  | 0x02A => (AluMod.parse b).map (Instr.launch w)
  | 0x02B => (AluMod.parse b).map (Instr.exit w)
  | 0x040 => (AluMod.parse b).map (Instr.add w)
  | 0x041 => (AluMod.parse b).map (Instr.sub w)
  | 0x042 => (AluMod.parse b).map (Instr.mul w)
  | 0x043 => (AluMod.parse b).map (Instr.mulh w)
  | 0x044 => (AluMod.parse b).map (Instr.shl w)
  | 0x045 => (AluMod.parse b).map (Instr.shr w)
  | 0x046 => (AluMod.parse b).map (Instr.sar w)
  | 0x047 => (AluMod.parse b).map (Instr.rol w)
  | 0x048 => (AluMod.parse b).map (Instr.ror w)
  | 0x049 => (AluMod.parse b).map (Instr.and w)
  | 0x04A => (AluMod.parse b).map (Instr.or w)
  | 0x04B => (AluMod.parse b).map (Instr.xor w)
  | 0x04C => (AluMod.parse b).map (Instr.andn w)
  | 0x04D => (AluMod.parse b).map (Instr.not w)
  | 0x04E => (AluMod.parse b).map (Instr.min w)
  | 0x04F => (AluMod.parse b).map (Instr.max w)
  | 0x050 => (AluMod.parse b).map (Instr.abs w)
  | 0x051 => (AluMod.parse b).map (Instr.neg w)
  | 0x052 => (AluMod.parse b).map (Instr.div w)
  | 0x053 => (AluMod.parse b).map (Instr.rem w)
  | 0x054 => (AluMod.parse b).map (Instr.clz w)
  | 0x055 => (AluMod.parse b).map (Instr.ctz w)
  | 0x056 => (AluMod.parse b).map (Instr.popc w)
  | 0x057 => (AluMod.parse b).map (Instr.brev w)
  | 0x058 => (AluMod.parse b).map (Instr.cmp w)
  | 0x059 => (AluMod.parse b).map (Instr.bfx w)
  | 0x05A => (AluMod.parse b).map (Instr.bfi w)
  | 0x05B => (AluMod.parse b).map (Instr.mov w)
  | 0x060 => (AluMod.parse b).map (Instr.vaddInt w)
  | 0x061 => (AluMod.parse b).map (Instr.vsubInt w)
  | 0x062 => (AluMod.parse b).map (Instr.vmulInt w)
  | 0x063 => (AluMod.parse b).map (Instr.vcmpInt w)
  | 0x064 => (AluMod.parse b).map (Instr.vmulh w)
  | 0x065 => (AluMod.parse b).map (Instr.vmad w)
  | 0x066 => (AluMod.parse b).map (Instr.vshl w)
  | 0x067 => (AluMod.parse b).map (Instr.vshr w)
  | 0x068 => (AluMod.parse b).map (Instr.vsar w)
  | 0x069 => (AluMod.parse b).map (Instr.vand w)
  | 0x06A => (AluMod.parse b).map (Instr.vor w)
  | 0x06B => (AluMod.parse b).map (Instr.vxor w)
  | 0x06C => (AluMod.parse b).map (Instr.vandn w)
  | 0x06D => (AluMod.parse b).map (Instr.vnot w)
  | 0x06E => (AluMod.parse b).map (Instr.vminInt w)
  | 0x06F => (AluMod.parse b).map (Instr.vmaxInt w)
  | 0x070 => (AluMod.parse b).map (Instr.vabsInt w)
  | 0x071 => (AluMod.parse b).map (Instr.vnegInt w)
  | 0x072 => (AluMod.parse b).map (Instr.vadds w)
  | 0x073 => (AluMod.parse b).map (Instr.vsubs w)
  | 0x074 => (AluMod.parse b).map (Instr.vdivInt w)
  | 0x075 => (AluMod.parse b).map (Instr.vrem w)
  | 0x076 => (AluMod.parse b).map (Instr.vclz w)
  | 0x077 => (AluMod.parse b).map (Instr.vpopc w)
  | 0x078 => (AluMod.parse b).map (Instr.vbrev w)
  | 0x079 => (AluMod.parse b).map (Instr.vselInt w)
  | 0x07A => (AluMod.parse b).map (Instr.vbfx w)
  | 0x07B => (AluMod.parse b).map (Instr.vbfi w)
  | 0x07C => (AluMod.parse b).map (Instr.vmovInt w)
  | 0x07D => (AluMod.parse b).map (Instr.vsad w)
  | 0x080 => (AluMod.parse b).map (Instr.vaddFloat w)
  | 0x081 => (AluMod.parse b).map (Instr.vsubFloat w)
  | 0x082 => (AluMod.parse b).map (Instr.vmulFloat w)
  | 0x083 => (AluMod.parse b).map (Instr.vfma w)
  | 0x084 => (AluMod.parse b).map (Instr.vcmpFloat w)
  | 0x085 => (AluMod.parse b).map (Instr.vfms w)
  | 0x086 => (AluMod.parse b).map (Instr.vfnma w)
  | 0x087 => (AluMod.parse b).map (Instr.vfnms w)
  | 0x088 => (AluMod.parse b).map (Instr.vminFloat w)
  | 0x089 => (AluMod.parse b).map (Instr.vmaxFloat w)
  | 0x08A => (AluMod.parse b).map (Instr.vminn w)
  | 0x08B => (AluMod.parse b).map (Instr.vmaxn w)
  | 0x08C => (AluMod.parse b).map (Instr.vminm w)
  | 0x08D => (AluMod.parse b).map (Instr.vmaxm w)
  | 0x08E => (AluMod.parse b).map (Instr.vabsFloat w)
  | 0x08F => (AluMod.parse b).map (Instr.vnegFloat w)
  | 0x090 => (AluMod.parse b).map (Instr.vcpsgn w)
  | 0x091 => (AluMod.parse b).map (Instr.vdivFloat w)
  | 0x092 => (AluMod.parse b).map (Instr.vselFloat w)
  | 0x093 => (AluMod.parse b).map (Instr.vmovFloat w)
  | 0x094 => (AluMod.parse b).map (Instr.vdot2 w)
  | 0x095 => (AluMod.parse b).map (Instr.vclamp w)
  | 0x096 => (AluMod.parse b).map (Instr.vabd w)
  | 0x097 => (AluMod.parse b).map (Instr.vlerp w)
  | 0x0A0 => (AluMod.parse b).map (Instr.vrcp w)
  | 0x0A1 => (AluMod.parse b).map (Instr.vrsq w)
  | 0x0A2 => (AluMod.parse b).map (Instr.vsqrt w)
  | 0x0A3 => (AluMod.parse b).map (Instr.vexp2 w)
  | 0x0A4 => (AluMod.parse b).map (Instr.vlog2 w)
  | 0x0A5 => (AluMod.parse b).map (Instr.vsin w)
  | 0x0A6 => (AluMod.parse b).map (Instr.vcos w)
  | 0x0A7 => (AluMod.parse b).map (Instr.vtanh w)
  | 0x0A8 => (AluMod.parse b).map (Instr.vsigm w)
  | 0x0C0 => (CnvMod.parse b).map (Instr.cvt w)
  | 0x0C1 => (CnvMod.parse b).map (Instr.pack w)
  | 0x0C2 => (CnvMod.parse b).map (Instr.unpack w)
  | 0x0C3 => (CnvMod.parse b).map (Instr.scaleb w)
  | 0x0C4 => (CnvMod.parse b).map (Instr.rint w)
  | 0x0C5 => (CnvMod.parse b).map (Instr.fcls w)
  | 0x0C6 => (CnvMod.parse b).map (Instr.getexp w)
  | 0x0C7 => (CnvMod.parse b).map (Instr.mxscl w)
  | 0x0E0 => (XlMod.parse b).map (Instr.shfl w)
  | 0x0E1 => (XlMod.parse b).map (Instr.bcast w)
  | 0x0E2 => (XlMod.parse b).map (Instr.vote w)
  | 0x0E3 => (XlMod.parse b).map (Instr.pscan w)
  | 0x0E4 => (XlMod.parse b).map (Instr.matchLanes w)
  | 0x0E5 => (XlMod.parse b).map (Instr.redl w)
  | 0x0E6 => (XlMod.parse b).map (Instr.elect w)
  | 0x0E7 => (XlMod.parse b).map (Instr.lrd w)
  | 0x0E8 => (XlMod.parse b).map (Instr.lwr w)
  | 0x0E9 => (XlMod.parse b).map (Instr.pcnt w)
  | 0x100 => (XsMod.parse b).map (Instr.xclr w)
  | 0x101 => (XsMod.parse b).map (Instr.xadd w)
  | 0x102 => (XsMod.parse b).map (Instr.xsub w)
  | 0x103 => (XsMod.parse b).map (Instr.xdot w)
  | 0x104 => (XsMod.parse b).map (Instr.xrnd w)
  | 0x105 => (XsMod.parse b).map (Instr.xld w)
  | 0x106 => (XsMod.parse b).map (Instr.xst w)
  | 0x107 => (XsMod.parse b).map (Instr.xmrg w)
  | 0x120 => (MxMod.parse b).map (Instr.tcfg w)
  | 0x121 => (MxMod.parse b).map (Instr.tzero w)
  | 0x122 => (MxMod.parse b).map (Instr.tld w)
  | 0x123 => (MxMod.parse b).map (Instr.tst w)
  | 0x124 => (MxMod.parse b).map (Instr.tlds w)
  | 0x125 => (MxMod.parse b).map (Instr.tsts w)
  | 0x126 => (MxMod.parse b).map (Instr.mma w)
  | 0x127 => (MxMod.parse b).map (Instr.mmap w)
  | 0x128 => (MxMod.parse b).map (Instr.mmas w)
  | 0x129 => (MxMod.parse b).map (Instr.mmasp w)
  | 0x12A => (SliceMod.parse b).map (Instr.trd w)
  | 0x12B => (SliceMod.parse b).map (Instr.twr w)
  | 0x12C => (MxMod.parse b).map (Instr.tmov w)
  | 0x12D => (MxMod.parse b).map (Instr.tadd w)
  | 0x12E => (MxMod.parse b).map (Instr.tscal w)
  | 0x12F => (MxMod.parse b).map (Instr.tamax w)
  | 0x130 => (MxMod.parse b).map (Instr.tstq w)
  | 0x131 => (MxMod.parse b).map (Instr.tinfo w)
  | 0x140 => (MemMod.parse b).map (Instr.ld w)
  | 0x141 => (MemMod.parse b).map (Instr.st w)
  | 0x142 => (MemMod.parse b).map (Instr.vld w)
  | 0x143 => (MemMod.parse b).map (Instr.vst w)
  | 0x144 => (MemMod.parse b).map (Instr.vldx w)
  | 0x145 => (MemMod.parse b).map (Instr.vstx w)
  | 0x146 => (MemMod.parse b).map (Instr.vldp w)
  | 0x147 => (MemMod.parse b).map (Instr.vstp w)
  | 0x148 => (MemMod.parse b).map (Instr.pf w)
  | 0x149 => (MemMod.parse b).map (Instr.vlds w)
  | 0x14A => (MemMod.parse b).map (Instr.vsts w)
  | 0x14B => (MemMod.parse b).map (Instr.vldxp w)
  | 0x14C => (MemMod.parse b).map (Instr.vstxp w)
  | 0x14D => (MemMod.parse b).map (Instr.ldp w)
  | 0x14E => (MemMod.parse b).map (Instr.stp w)
  | 0x14F => (MemMod.parse b).map (Instr.vldu w)
  | 0x150 => (MemMod.parse b).map (Instr.vldc w)
  | 0x151 => (MemMod.parse b).map (Instr.vstc w)
  | 0x152 => (MemMod.parse b).map (Instr.pfx w)
  | 0x153 => (MemMod.parse b).map (Instr.lwb w)
  | 0x154 => (MemMod.parse b).map (Instr.linv w)
  | 0x155 => (MemMod.parse b).map (Instr.vldf w)
  | 0x156 => (MemMod.parse b).map (Instr.vldfp w)
  | 0x157 => (MemMod.parse b).map (Instr.vstf w)
  | 0x160 => (AtMod.parse b).map (Instr.amo w)
  | 0x161 => (AtMod.parse b).map (Instr.vamo w)
  | 0x162 => (AtMod.parse b).map (Instr.red w)
  | 0x163 => (AtMod.parse b).map (Instr.vred w)
  | 0x164 => (AtMod.parse b).map (Instr.cas w)
  | 0x165 => (AtMod.parse b).map (Instr.vcas w)
  | 0x166 => (AtMod.parse b).map (Instr.cas2 w)
  | 0x167 => (AtMod.parse b).map (Instr.amop w)
  | 0x168 => (AtMod.parse b).map (Instr.vamop w)
  | 0x169 => (AtMod.parse b).map (Instr.vredp w)
  | 0x180 => (FnMod.parse b).map (Instr.fence w)
  | 0x181 => (FnMod.parse b).map (Instr.fencex w)
  | 0x182 => (FnMod.parse b).map (Instr.flushu w)
  | 0x1A0 => (CpyMod.parse b).map (Instr.cpy w)
  | 0x1A1 => (CpyMod.parse b).map (Instr.cpy2d w)
  | 0x1A2 => (CpmMod.parse b).map (Instr.cpym w)
  | 0x1A3 => (CpyMod.parse b).map (Instr.cpys w)
  | 0x1A4 => (CpyMod.parse b).map (Instr.cwany w)
  | 0x1A5 => (CpyMod.parse b).map (Instr.cwall w)
  | 0x1A6 => (CpyMod.parse b).map (Instr.cffr w)
  | 0x1A7 => (CpyMod.parse b).map (Instr.coll w)
  | 0x1A8 => (CpyMod.parse b).map (Instr.cfill w)
  | 0x1A9 => (CpyMod.parse b).map (Instr.cgrp w)
  | 0x1C0 => (QMod.parse b).map (Instr.qinit w)
  | 0x1C1 => (QMod.parse b).map (Instr.qpush w)
  | 0x1C2 => (QMod.parse b).map (Instr.qpop w)
  | 0x1C3 => (QMod.parse b).map (Instr.qallow w)
  | 0x1C4 => (QMod.parse b).map (Instr.qlen w)
  | 0x1E0 => (BarMod.parse b).map (Instr.bar w)
  | 0x1E1 => (BarMod.parse b).map (Instr.bara w)
  | 0x1E2 => (BarMod.parse b).map (Instr.barw w)
  | 0x200 => (TxMod.parse b).map (Instr.txb w)
  | 0x201 => (TxMod.parse b).map (Instr.txe w)
  | 0x202 => (TxMod.parse b).map (Instr.txelse w)
  | 0x203 => (TxMod.parse b).map (Instr.retry w)
  | 0x204 => (TxMod.parse b).map (Instr.txabt w)
  | 0x205 => (TxMod.parse b).map (Instr.txwatch w)
  | 0x220 => (ChkMod.parse b).map (Instr.chkb w)
  | 0x221 => (ChkMod.parse b).map (Instr.chkn w)
  | 0x222 => (ChkMod.parse b).map (Instr.chka w)
  | 0x223 => (ChkMod.parse b).map (Instr.chki w)
  | 0x224 => (ChkMod.parse b).map (Instr.chkl w)
  | 0x225 => (ChkMod.parse b).map (Instr.chkt w)
  | 0x226 => (ChkMod.parse b).map (Instr.chkr w)
  | 0x227 => (ChkMod.parse b).map (Instr.chkp w)
  | 0x240 => (SysMod.parse b).map (Instr.qfeat w)
  | 0x241 => (SysMod.parse b).map (Instr.trap w)
  | 0x242 => (SysMod.parse b).map (Instr.hret w)
  | 0x243 => (SysMod.parse b).map (Instr.fltrd w)
  | 0x244 => (SysMod.parse b).map (Instr.mapf w)
  | 0x245 => (SysMod.parse b).map (Instr.sealreq w)
  | 0x246 => (SysMod.parse b).map (Instr.movs w)
  | 0x247 => (SysMod.parse b).map (Instr.hskip w)
  | 0x248 => (SysMod.parse b).map (Instr.hfail w)
  | 0x249 => (SysMod.parse b).map (Instr.mapq w)
  | 0x24A => (SysMod.parse b).map (Instr.unmapf w)
  | 0x24B => (SysMod.parse b).map (Instr.gnote w)
  | _ => .error .enc01

end Sys2Proof
end

