-- ==== Sys2Proof/Machine/Checks.lean ====
section
/-!
DEFINITION. The encoding rules a word obeys beside its layout: operand limits (spec/03 R75, R79), the MOD checks of
every group (spec/04 R133, spec/05 R141, R146, R149, R154, R158, R166, R174, spec/06 R175, R184, R186, spec/09
R278, R285, R286, R288 to R293, spec/11 R342, R364, R366, R369, spec/15 R426, spec/18 R467), and the pairing rules
(spec/03 R82 to R85). Each check answers the rule it breaks.
-/

namespace Sys2Proof

/-- The rule `e` unless `c` holds. -/
def need (c : Bool) (e : Enc) : Except Enc Unit := if c then .ok () else .error e

/-! ## Operand limits -/

/-- How many of the three operand fields satisfy `p`. -/
def Ops.count (w : Ops) (p : Opnd → Bool) : Nat :=
  (if p w.d then 1 else 0) + (if p w.a then 1 else 0) + (if p w.b then 1 else 0)

/-- Some source takes the short immediate 0xE2. -/
def Ops.usesShort (w : Ops) : Bool := w.a == .short || w.b == .short

/-- Some operand field is 0xE1. -/
def Ops.usesExt (w : Ops) : Bool := w.a == .ext || w.b == .ext

/-- The FORM, operand and predicate rules that hold for every form (R71, R75, R79, R81, spec/02 R53). -/
def Ops.check (w : Ops) (f : Form) : Except Enc Unit := do
  need (if w.x.isSome then f.wide else f.full) .enc05
  need (f.d.contains w.d.cls || (f.d.isEmpty && w.d == .none)) .enc03
  need (f.a.contains w.a.cls || (f.a.isEmpty && w.a == .none)) .enc03
  need (f.b.contains w.b.cls || (f.b.isEmpty && w.b == .none)) .enc03
  need (w.count (· == .slice) ≤ 1) .enc03
  need (w.count (fun o => o == .ext || o == .short) ≤ 1) .enc03
  need (w.x.isSome || !w.usesExt) .enc03
  need (!w.x.isSome || w.usesExt || !(f.a.contains .ext || f.b.contains .ext)) .enc05
  need (if f.pred then !(w.h.pred == 0 && w.h.neg) else w.h.pred == 0 && !w.h.neg) .enc06
  need (!(f.dWrite && w.d == .p 0)) .typ03

/-! ## Types -/

/-- The types of the scalar integer forms (R77). -/
def Ty.isInt : Ty → Bool
  | .i32 | .n32 | .i64 | .n64 => true
  | _ => false

/-- The 32-bit integer types of the vector integer forms (R77). -/
def Ty.isInt32 : Ty → Bool
  | .i32 | .n32 => true
  | _ => false

/-- The types of the vector float forms (R77). -/
def Ty.isFloat : Ty → Bool
  | .f32 | .f16x2 | .bf16x2 => true
  | _ => false

/-- Signed integer types. -/
def Ty.signed : Ty → Bool
  | .i32 | .i64 => true
  | _ => false

/-- The width of an integer type. -/
def Ty.bits : Ty → Nat
  | .i64 | .n64 => 64
  | _ => 32

/-- A 14-bit immediate is zero outside a 0xE2 use (ENC-02). -/
def immFree (w : Ops) (imm : BitVec 14) : Except Enc Unit := need (w.usesShort || imm == 0) .enc02

/-- POS and LEN of the bit-field forms (spec/05 R144). -/
def bfCheck (width : Nat) (imm : BitVec 14) : Except Enc Unit := do
  need (!imm.getLsbD 7) .enc02
  let pos := (imm.extractLsb' 8 6).toNat
  let len := (imm.extractLsb' 0 7).toNat
  need (1 ≤ len && pos + len ≤ width) .enc07

/-- A vector form's immediate fills 32 bits (R79). -/
def ext32 (w : Ops) : Except Enc Unit :=
  match w.x with
  | some x => need (x.extractLsb' 32 32 == 0) .enc02
  | none => .ok ()

/-- RM = TY = 000 of the control forms (spec/05 R135). -/
def ctlCheck (m : AluMod) : Except Enc Unit := need (m.rm == .rne && m.ty == .i32) .enc07

/-- A wide branch has a zero OFF field and a byte offset that is a multiple of 8 (spec/05 R137). -/
def branchCheck (w : Ops) (off : BitVec 14) : Except Enc Unit :=
  match w.x with
  | some x => do
    need (off == 0) .enc02
    need (x.extractLsb' 0 3 == 0) .enc02
  | none => .ok ()

/-- Group rule of the scalar integer forms (spec/05 R146). -/
def siCheck (o : SOp) (w : Ops) (m : AluMod) : Except Enc Unit := do
  need (m.rm == .rne && m.ty.isInt) .enc07
  match o with
  | .abs | .neg => do
    need m.ty.signed .enc07
    immFree w m.imm
  | .cmp => do
    need (m.imm.extractLsb' 3 11 == 0) .enc02
    need (decide ((m.imm.extractLsb' 0 3).toNat ≤ 5)) .enc07
  | .bfx | .bfi => bfCheck m.ty.bits m.imm
  | .and | .or | .xor | .andn | .not | .mov => do
    need (m.ty == .n32 || w.count (fun x => x.cls == .p) == 0) .enc03
    immFree w m.imm
  | _ => immFree w m.imm

/-- Group rule of the vector integer forms (spec/05 R149). -/
def viCheck (o : VIOp) (w : Ops) (m : AluMod) : Except Enc Unit := do
  need (m.rm == .rne && m.ty.isInt32) .enc07
  ext32 w
  match o with
  | .abs | .neg => do
    need (m.ty == .i32) .enc07
    immFree w m.imm
  | .sad => do
    need (m.ty == .n32) .enc07
    immFree w m.imm
  | .cmp => do
    need (m.imm.extractLsb' 3 11 == 0) .enc02
    need (decide ((m.imm.extractLsb' 0 3).toNat ≤ 5)) .enc07
  | .sel => need (m.imm.extractLsb' 4 10 == 0) .enc02
  | .bfx | .bfi => bfCheck 32 m.imm
  | _ => immFree w m.imm

/-- The vector float forms that round (spec/05 R151). -/
def VFOp.rounds : VFOp → Bool
  | .add | .sub | .mul | .fma | .fms | .fnma | .fnms | .div | .dot2 | .abd | .lerp => true
  | _ => false

/-- Group rule of the vector float forms (spec/05 R151, R153, R154). -/
def vfCheck (o : VFOp) (w : Ops) (m : AluMod) : Except Enc Unit := do
  need (m.ty.isFloat && m.rm != .sr && (o.rounds || m.rm == .rne)) .enc07
  ext32 w
  match o with
  | .cmp => do
    need (m.imm.extractLsb' 4 10 == 0) .enc02
    need (!(m.ty == .f32 && m.imm.getLsbD 3)) .enc07
  | .sel => need (m.imm.extractLsb' 4 10 == 0) .enc02
  | .dot2 => do
    need (m.ty != .f32) .enc07
    immFree w m.imm
  | _ => immFree w m.imm

/-- Group rule of the special functions (spec/05 R155, R158). -/
def sfCheck (o : SFOp) (m : AluMod) : Except Enc Unit := do
  need (m.ty.isFloat && m.rm != .sr && (o == .rcp || o == .sqrt || m.rm == .rne)) .enc07
  need (m.imm == 0) .enc02

/-! ## Conversions (spec/04 R124, R133) -/

/-- Conversion type codes (R124), named by their suffixes. -/
inductive CTy where
  | f32 | e8m10 | bf16 | f16 | e5m2 | e4m3 | e3m4 | e3m2 | e2m3 | e2m1
  | i16 | i8 | n8 | i4 | n4 | i2 | i32 | n32 | i64 | n64 | n16
  deriving DecidableEq, Repr, Inhabited

/-- The type of a conversion type code; codes 10 and 22 to 31 are reserved (R124). -/
def CTy.ofCode (c : BitVec 5) : Option CTy :=
  match c.toNat with
  | 0 => some .f32 | 1 => some .e8m10 | 2 => some .bf16 | 3 => some .f16 | 4 => some .e5m2
  | 5 => some .e4m3 | 6 => some .e3m4 | 7 => some .e3m2 | 8 => some .e2m3 | 9 => some .e2m1
  | 11 => some .i16 | 12 => some .i8 | 13 => some .n8 | 14 => some .i4 | 15 => some .n4
  | 16 => some .i2 | 17 => some .i32 | 18 => some .n32 | 19 => some .i64 | 20 => some .n64
  | 21 => some .n16
  | _ => none

/-- Widths (R107, R109, R124). -/
def CTy.width : CTy → Nat
  | .f32 | .e8m10 | .i32 | .n32 => 32
  | .bf16 | .f16 | .i16 | .n16 => 16
  | .e5m2 | .e4m3 | .e3m4 | .i8 | .n8 => 8
  | .e3m2 | .e2m3 => 6
  | .e2m1 | .i4 | .n4 => 4
  | .i2 => 2
  | .i64 | .n64 => 64

/-- Mantissa bits of the float types (R107); `none` for the integer types. -/
def CTy.mant : CTy → Option Nat
  | .f32 => some 23 | .e8m10 => some 10 | .bf16 => some 7 | .f16 => some 10 | .e5m2 => some 2
  | .e4m3 => some 3 | .e3m4 => some 4 | .e3m2 => some 2 | .e2m3 => some 3 | .e2m1 => some 1
  | _ => none

/-- Float types. -/
def CTy.isFloat (t : CTy) : Bool := t.mant.isSome

/-- Signed integer types (I). -/
def CTy.signed : CTy → Bool
  | .i16 | .i8 | .i4 | .i2 | .i32 | .i64 => true
  | _ => false

/-- A position within the limit of R125. -/
def posOk (w p : Nat) : Bool := if w = 32 ∨ w = 64 then p == 0 else if w = 16 then decide (p ≤ 1) else decide (p ≤ 3)

/-- A 64-bit type stands on an even register (R125). -/
def pairOk (t : CTy) (o : Opnd) : Bool :=
  match o with
  | .v n => !(t.width == 64 && n.getLsbD 0)
  | _ => true

/-- SAT is accepted by a float destination, or between integers when the destination is narrower (R126). -/
def satOk (df sf : CTy) : Bool := df.isFloat || (!sf.isFloat && decide (df.width < sf.width))

/-- `CVT` (R126, R133). -/
def cvtCheck (w : Ops) (m : CnvMod) : Except Enc Unit :=
  match CTy.ofCode m.df, CTy.ofCode m.sf with
  | some df, some sf => do
    need (df != sf) .enc07
    need (m.pos.extractLsb' 0 2 == 0) .enc02
    need (posOk df.width (m.pos.extractLsb' 4 2).toNat && posOk sf.width (m.pos.extractLsb' 2 2).toNat) .enc07
    need (m.rm != .sr || (match df.mant, sf.mant with
      | some a, some b => decide (a < b)
      | _, _ => false)) .enc07
    need (!m.sat || satOk df sf) .enc02
    need (pairOk df w.d && pairOk sf w.a) .enc03
  | _, _ => .error .enc07

/-- `PACK` (R127, R133). -/
def packCheck (m : CnvMod) : Except Enc Unit :=
  match CTy.ofCode m.df, CTy.ofCode m.sf with
  | some df, some sf => do
    need (sf == .f32 || sf == .i32 || sf == .n32) .enc07
    need (df.width == 16 || df.width == 8 || df.width == 4 || df.width == 2) .enc07
    need (m.pos.extractLsb' 0 3 == 0) .enc02
    need (decide ((m.pos.extractLsb' 3 3).toNat ≤ 16 / df.width - 1)) .enc07
    need (m.rm != .sr) .enc07
    need (!m.sat || satOk df sf) .enc02
  | _, _ => .error .enc07

/-- `UNPACK` (R128, R133). -/
def unpackCheck (m : CnvMod) : Except Enc Unit :=
  match CTy.ofCode m.df, CTy.ofCode m.sf with
  | some df, some sf => do
    need (sf.width == 16 || sf.width == 8 || sf.width == 4 || sf.width == 2) .enc07
    need (df == .f32 || (!sf.isFloat && df == (if sf.signed then .i32 else .n32))) .enc07
    need (m.pos.extractLsb' 0 2 == 0) .enc02
    need (decide ((m.pos.extractLsb' 2 4).toNat ≤ 32 / sf.width - 1)) .enc07
    need (m.rm == .rne) .enc07
    need (!m.sat) .enc02
  | _, _ => .error .enc07

/-- `SCALEB`, `RINT`, `FCLS`, `GETEXP`: t in DF, everything else unused (R124, R129, R130). -/
def cnvTypeCheck (m : CnvMod) (rounds : Bool) : Except Enc Unit := do
  need (m.df == 0 || m.df == 2 || m.df == 3) .enc07
  need (m.sf == 0 && m.pos == 0 && !m.sat) .enc02
  need (m.rm != .sr && (rounds || m.rm == .rne)) .enc07

/-- `MXSCL` (R124, R131). -/
def mxsclCheck (m : CnvMod) : Except Enc Unit := do
  need (decide (17 ≤ m.df.toNat ∧ m.df.toNat ≤ 23)) .enc07
  need (m.sf == 0 && m.pos.extractLsb' 0 5 == 0 && !m.sat) .enc02
  need (m.rm == .rne) .enc07

/-! ## Cross-lane and exact-sum forms -/

/-- The types and operations of `PSCAN` and `REDL` (spec/05 R160, R166). -/
def scanCheck (m : XlMod) : Except Enc Unit := do
  need (m.ty == .i32 || m.ty == .n32 || m.ty == .f32) .enc07
  need (decide (m.mode.toNat ≤ 5)) .enc07
  need (m.ty != .f32 || m.mode == 1 || m.mode == 2) .enc07
  need (!m.fs) .enc07

/-- A cross-lane form without type, mode and argument (R160). -/
def xlPlain (m : XlMod) (fsOk : Bool) : Except Enc Unit :=
  need (m.ty == .i32 && m.mode == 0 && m.arg == 0 && (fsOk || !m.fs)) .enc07

/-- `SHFL` (R160, R166). -/
def shflCheck (m : XlMod) : Except Enc Unit := do
  need (m.ty == .i32 && decide (m.mode.toNat ≤ 3)) .enc07
  need (m.mode != 0 || m.arg == 0) .enc07

/-- `VOTE` and `ELECT` name a destination of the class their mode writes (R160). -/
def xlDest (w : Ops) (intoG : Bool) : Except Enc Unit :=
  need (w.d.cls == (if intoG then .g else .p)) .enc03

/-- The exact-sum forms (spec/05 R168, R174). -/
def xsCheck (m : XsMod) (ty : Ty → Bool) (rm sp xd xs : Bool) : Except Enc Unit := do
  need (ty m.ty) .enc07
  need (m.rm != .sr && (rm || m.rm == .rne)) .enc07
  need (sp || !m.sp) .enc07
  need ((xs || m.xs == 0) && (xd || m.xd == 0)) .enc02

/-! ## Matrix forms (spec/06 R175, R183, R184, R186) -/

/-- The tile layout word of `TCFG` (R175). -/
def layoutCheck (x : Word) : Except Enc Unit := do
  need (x.extractLsb' 41 23 == 0 && x.extractLsb' 3 13 == 0) .enc02
  if x.getLsbD 0 then do
    let base := (x.extractLsb' 32 9).toNat
    let rows := (x.extractLsb' 24 8).toNat
    let cols := (x.extractLsb' 16 8).toNat
    need (decide (base ≤ 383)) .enc07
    need (decide (8 ≤ rows ∧ rows ≤ 128 ∧ rows % 8 = 0)) .enc07
    need (decide (16 ≤ cols ∧ cols ≤ 192 ∧ cols % 16 = 0)) .enc07
  else need (x == 0) .enc02

/-- Which descriptor fields a matrix form uses (R185). -/
inductive DescKind where
  | move | dense | pitch | sparse | sparsePitch
  deriving DecidableEq, Repr, Inhabited

/-- The matrix descriptor (R184). -/
def descCheck (k : DescKind) (x : Word) : Except Enc Unit := do
  let sb := x.extractLsb' 26 19
  let k48 := (x.extractLsb' 7 7).toNat
  let n16 := (x.extractLsb' 14 6).toNat
  let m8 := (x.extractLsb' 20 6).toNat
  let wide := k == .pitch || k == .sparsePitch
  need (x.extractLsb' 0 6 == 0) .enc02
  need (k != .move || (sb == 0 && k48 == 0 && !x.getLsbD 6)) .enc02
  need (x.extractLsb' 45 19 != 0) .enc07
  need (wide || decide (m8 ≤ 15)) .enc07
  need (decide (1 ≤ n16 ∧ n16 ≤ (if wide then 48 else 12))) .enc07
  need (k == .move || (sb != 0 && decide (1 ≤ k48 ∧
    k48 ≤ (if k == .sparse || k == .sparsePitch then 1 else 64)))) .enc07

/-- The matrix MOD fields a form uses (R185, R186): AW, BW, the sparse fields, RM, SAT. -/
def mxModCheck (m : MxMod) (aw bw sp rm sat dense : Bool) : Except Enc Unit := do
  need ((aw || !m.aw) && (bw || !m.bw) && (sat || !m.sat)) .enc02
  need (sp || (m.sel == 0 && m.mbk == 0)) (if dense then .enc07 else .enc02)
  need (rm || m.rm == .rne) .enc02
  need (m.rm != .sr && m.sel != 3) .enc07

/-- The descriptor of a wide matrix form. -/
def withDesc (w : Ops) (k : DescKind) : Except Enc Unit :=
  match w.x with
  | some x => descCheck k x
  | none => .error .enc05

/-! ## Memory, atomic and copy forms -/

/-- A vector register that starts a pair or a quad (spec/09 R272). -/
def groupOk (o : Opnd) (n : Nat) : Bool :=
  match o with
  | .v k => k.toNat % n == 0
  | _ => true

/-- A load or store form (spec/09 R271, R274, R278). -/
def memCheck (w : Ops) (m : MemMod) (scalar indexed load fmt : Bool) : Except Enc Unit := do
  need (decide (m.w.toNat ≤ (if scalar then 3 else 4)) && (!fmt || m.w == 2)) .enc07
  need (m.mark != 3 && decide (m.sc.toNat ≤ 4)) .enc07
  need (!m.sx || decide (m.w.toNat < (if scalar then 3 else 2))) .enc07
  need (m.mark == 0 || m.mark == (if load then 1 else 2)) .enc07
  need (m.mark == 0 || m.obs != 0) .enc07
  need ((m.obs == 0 || m.mark != 0) && (indexed || m.sc == 0)) .enc02
  need (!(m.w == 4) || (w.d.cls == .v)) .enc03
  need (m.w != 3 || groupOk w.d 2) .enc03
  need (m.w != 4 || groupOk w.d 4) .enc03

/-- `PF`, `PFX`, `LWB`, `LINV` use no MOD field but the index scale of `PFX` (spec/09 R277, R278). -/
def pfCheck (m : MemMod) (indexed : Bool) : Except Enc Unit := do
  need (m.w == 0 && !m.sx && m.mark == 0 && m.obs == 0 && (indexed || m.sc == 0)) .enc02
  need (decide (m.sc.toNat ≤ 4)) .enc07

/-- The atomic and reduction forms (spec/09 R279, R285). -/
def atCheck (w : Ops) (m : AtMod) (cas cas2 red scalar vcas : Bool) : Except Enc Unit := do
  need (decide (m.op.toNat ≤ 6)) .enc07
  need (!cas || (m.op == 0 && m.ty.isInt)) .enc07
  need (!(red && m.op == 6)) .enc07
  need (!(m.ty.isFloat && (m.op == 1 || m.op == 2 || m.op == 3))) .enc07
  need (!cas2 || m.ty.bits == 64) .enc07
  need (!(red && (m.mark == 1 || m.mark == 3))) .enc07
  need ((m.mark == 0 || m.obs != 0) && decide (m.sc.toNat ≤ 4)) .enc07
  need ((m.obs == 0 || m.mark != 0) && (!scalar || m.sc == 0)) .enc02
  need (groupOk w.d (if vcas then (if m.ty.bits == 64 then 4 else 2) else if m.ty.bits == 64 then 2 else 1)) .enc03
  need (!cas2 || ((match w.d with | .g n => !n.getLsbD 0 | _ => false) &&
    (match w.b with | .g n => !n.getLsbD 0 | _ => false))) .enc03

/-- A fence (spec/09 R286). -/
def fenceCheck (m : FnMod) : Except Enc Unit := do
  need (m.lve != (m.obs != 0)) .enc07
  need (m.lve || m.lv == 0) .enc02

/-- The value of a small constant (spec/03 R74). -/
def constVal (n : BitVec 4) : Int := n.toInt

/-- The constant an operand supplies, as a signed number. -/
def constOf (w : Ops) (o : Opnd) (imm : BitVec 14) : Option Int :=
  match o with
  | .const n => some (constVal n)
  | .short => some imm.toInt
  | .ext => w.x.map BitVec.toInt
  | _ => none

/-- The special-register numbers of spec/02 R58. -/
def sregOk (n : BitVec 8) : Bool :=
  let k := n.toNat
  decide (k ≤ 5) || decide (8 ≤ k ∧ k ≤ 0x1D) || decide (0x20 ≤ k ∧ k ≤ 0x3F)

/-- The lane registers of spec/02 R58. -/
def sregLane (n : BitVec 8) : Bool := n == 0 || n == 1 || n == 8 || n == 9

/-! ## The MOD rule of every instruction -/

/-- The rule of the group and form of a full or wide word. -/
def Instr.modCheck (i : Instr) : Except Enc Unit :=
  match i with
  | .nop _ m | .join _ m | .ret _ m | .launch _ m | .exit _ m => do
    ctlCheck m
    need (m.imm == 0) .enc02
  | .bra w m => do
    ctlCheck m
    branchCheck w m.imm
  | .brc w m => do
    ctlCheck m
    need (decide ((m.imm.extractLsb' 11 3).toNat ≤ 5)) .enc07
    branchCheck w (0#3 ++ m.imm.extractLsb' 0 11)
  | .brv w m => do
    ctlCheck m
    branchCheck w (0#1 ++ m.imm.extractLsb' 0 13)
  | .call w m => do
    ctlCheck m
    need (!m.imm.getLsbD 13 || w.a != .none) .enc03
    need (m.imm.getLsbD 13 || w.a == .none) .enc02
    need (!m.imm.getLsbD 13 || m.imm.extractLsb' 0 13 == 0) .enc02
    branchCheck w m.imm
  | .jmpt _ m | .recast _ m => do
    ctlCheck m
    need (m.imm.extractLsb' 8 6 == 0) .enc02
  | .yield _ m => do
    ctlCheck m
    need (m.imm.extractLsb' 10 4 == 0) .enc02
  | .add w m => siCheck .add w m
  | .sub w m => siCheck .sub w m
  | .mul w m => siCheck .mul w m
  | .mulh w m => siCheck .mulh w m
  | .shl w m => siCheck .shl w m
  | .shr w m => siCheck .shr w m
  | .sar w m => siCheck .sar w m
  | .rol w m => siCheck .rol w m
  | .ror w m => siCheck .ror w m
  | .and w m => siCheck .and w m
  | .or w m => siCheck .or w m
  | .xor w m => siCheck .xor w m
  | .andn w m => siCheck .andn w m
  | .not w m => siCheck .not w m
  | .min w m => siCheck .min w m
  | .max w m => siCheck .max w m
  | .abs w m => siCheck .abs w m
  | .neg w m => siCheck .neg w m
  | .div w m => siCheck .div w m
  | .rem w m => siCheck .rem w m
  | .clz w m => siCheck .clz w m
  | .ctz w m => siCheck .ctz w m
  | .popc w m => siCheck .popc w m
  | .brev w m => siCheck .brev w m
  | .cmp w m => siCheck .cmp w m
  | .bfx w m => siCheck .bfx w m
  | .bfi w m => siCheck .bfi w m
  | .mov w m => siCheck .mov w m
  | .vaddInt w m => viCheck .add w m
  | .vsubInt w m => viCheck .sub w m
  | .vmulInt w m => viCheck .mul w m
  | .vcmpInt w m => viCheck .cmp w m
  | .vmulh w m => viCheck .mulh w m
  | .vmad w m => viCheck .mad w m
  | .vshl w m => viCheck .shl w m
  | .vshr w m => viCheck .shr w m
  | .vsar w m => viCheck .sar w m
  | .vand w m => viCheck .and w m
  | .vor w m => viCheck .or w m
  | .vxor w m => viCheck .xor w m
  | .vandn w m => viCheck .andn w m
  | .vnot w m => viCheck .not w m
  | .vminInt w m => viCheck .min w m
  | .vmaxInt w m => viCheck .max w m
  | .vabsInt w m => viCheck .abs w m
  | .vnegInt w m => viCheck .neg w m
  | .vadds w m => viCheck .adds w m
  | .vsubs w m => viCheck .subs w m
  | .vdivInt w m => viCheck .div w m
  | .vrem w m => viCheck .rem w m
  | .vclz w m => viCheck .clz w m
  | .vpopc w m => viCheck .popc w m
  | .vbrev w m => viCheck .brev w m
  | .vselInt w m => viCheck .sel w m
  | .vbfx w m => viCheck .bfx w m
  | .vbfi w m => viCheck .bfi w m
  | .vmovInt w m => viCheck .mov w m
  | .vsad w m => viCheck .sad w m
  | .vaddFloat w m => vfCheck .add w m
  | .vsubFloat w m => vfCheck .sub w m
  | .vmulFloat w m => vfCheck .mul w m
  | .vfma w m => vfCheck .fma w m
  | .vcmpFloat w m => vfCheck .cmp w m
  | .vfms w m => vfCheck .fms w m
  | .vfnma w m => vfCheck .fnma w m
  | .vfnms w m => vfCheck .fnms w m
  | .vminFloat w m => vfCheck .min w m
  | .vmaxFloat w m => vfCheck .max w m
  | .vminn w m => vfCheck .minn w m
  | .vmaxn w m => vfCheck .maxn w m
  | .vminm w m => vfCheck .minm w m
  | .vmaxm w m => vfCheck .maxm w m
  | .vabsFloat w m => vfCheck .abs w m
  | .vnegFloat w m => vfCheck .neg w m
  | .vcpsgn w m => vfCheck .cpsgn w m
  | .vdivFloat w m => vfCheck .div w m
  | .vselFloat w m => vfCheck .sel w m
  | .vmovFloat w m => vfCheck .mov w m
  | .vdot2 w m => vfCheck .dot2 w m
  | .vclamp w m => vfCheck .clamp w m
  | .vabd w m => vfCheck .abd w m
  | .vlerp w m => vfCheck .lerp w m
  | .vrcp _ m => sfCheck .rcp m
  | .vrsq _ m => sfCheck .rsq m
  | .vsqrt _ m => sfCheck .sqrt m
  | .vexp2 _ m => sfCheck .exp2 m
  | .vlog2 _ m => sfCheck .log2 m
  | .vsin _ m => sfCheck .sin m
  | .vcos _ m => sfCheck .cos m
  | .vtanh _ m => sfCheck .tanh m
  | .vsigm _ m => sfCheck .sigm m
  | .cvt w m => cvtCheck w m
  | .pack _ m => packCheck m
  | .unpack _ m => unpackCheck m
  | .scaleb _ m | .rint _ m => cnvTypeCheck m true
  | .fcls _ m | .getexp _ m => cnvTypeCheck m false
  | .mxscl _ m => mxsclCheck m
  | .shfl _ m => shflCheck m
  | .bcast _ m => xlPlain m true
  | .vote w m => do
    need (m.ty == .i32 && m.arg == 0 && !m.fs && decide (m.mode.toNat ≤ 3)) .enc07
    xlDest w (m.mode == 3)
  | .pscan _ m => do
    need (decide (m.arg.toNat ≤ 1)) .enc02
    scanCheck m
  | .redl _ m => do
    scanCheck m
    need (m.arg == 0) .enc07
  | .matchLanes _ m | .lwr _ m | .pcnt _ m => xlPlain m false
  | .elect w m => do
    need (m.ty == .i32 && m.arg == 0 && !m.fs && decide (m.mode.toNat ≤ 1)) .enc07
    xlDest w (m.mode == 0)
  | .lrd _ m => need (m.ty.isInt32 && m.mode == 0 && m.arg == 0) .enc07
  | .xclr _ m => xsCheck m (· == .i32) false false true false
  | .xadd _ m | .xsub _ m | .xdot _ m => xsCheck m Ty.isFloat false false true false
  | .xrnd _ m => xsCheck m (· == .f32) true false true false
  | .xld _ m | .xst _ m => xsCheck m (· == .i32) false true true false
  | .xmrg _ m => xsCheck m (· == .i32) false false true true
  | .tcfg w m => do
    mxModCheck m false false false false false false
    match w.x with
    | some x => layoutCheck x
    | none => .error .enc05
  | .tzero _ m | .tamax _ m | .tinfo _ m => mxModCheck m false false false false false false
  | .tld w m | .tst w m | .tlds w m | .tsts w m => do
    mxModCheck m false false false true true false
    withDesc w .move
  | .mma w m => do
    mxModCheck m true true false true true true
    withDesc w .dense
  | .mmap w m => do
    mxModCheck m true true false true true true
    withDesc w .pitch
  | .mmas w m => do
    mxModCheck m true true true true true false
    withDesc w .sparse
  | .mmasp w m => do
    mxModCheck m true true true true true false
    withDesc w .sparsePitch
  | .trd _ _ | .twr _ _ => .ok ()
  | .tmov _ m | .tadd _ m | .tscal _ m => mxModCheck m false false false true true false
  | .tstq w m => do
    mxModCheck m true false false true false false
    withDesc w .move
  | .ld w m | .ldp w m => memCheck w m true false true false
  | .st w m | .stp w m => memCheck w m true false false false
  | .vld w m | .vldp w m | .vlds w m | .vldu w m | .vldc w m => memCheck w m false false true false
  | .vst w m | .vstp w m | .vsts w m | .vstc w m => memCheck w m false false false false
  | .vldx w m | .vldxp w m => memCheck w m false true true false
  | .vstx w m | .vstxp w m => memCheck w m false true false false
  | .pf _ m | .lwb _ m | .linv _ m => pfCheck m false
  | .pfx _ m => pfCheck m true
  | .vldf w m | .vldfp w m => memCheck w m false false true true
  | .vstf w m => memCheck w m false false false true
  | .amo w m | .amop w m => atCheck w m false false false true false
  | .vamo w m | .vamop w m => atCheck w m false false false false false
  | .red w m => atCheck w m false false true true false
  | .vred w m => atCheck w m false false true false false
  | .vredp w m => do
    need (m.mark != 2 && (m.mark != 0 || m.obs == 0)) .enc02
    atCheck w m false false true false false
  | .cas w m => atCheck w m true false false true false
  | .vcas w m => atCheck w m true false false false true
  | .cas2 w m => atCheck w m true true false true false
  | .fence _ m | .fencex _ m => fenceCheck m
  | .flushu _ m => need (m.obs == 0 && !m.lve && m.lv == 0) .enc02
  | .cpy _ _ | .cpy2d _ _ => .ok ()
  | .cfill _ m => need (!m.sw) .enc02
  | .cpys _ m | .coll _ m | .cgrp _ m => need (!m.dw && !m.sw) .enc02
  | .cwany _ m | .cwall _ m | .cffr _ m => need (!m.dw && !m.sw && m.tag == 0) .enc02
  | .cpym w m => do
    need (m.sel != 3) .enc07
    need (m.sp || (m.sel == 0 && m.mbk == 0)) .enc02
    withDesc w (if m.sp then .sparse else .dense)
  | .qinit w m => do
    immFree w m.imm
    match constOf w w.b m.imm with
    | some c => need (decide (1 ≤ c ∧ c ≤ 256)) .enc07
    | none => .ok ()
  | .qpush w m | .qpop w m | .qallow w m | .qlen w m => immFree w m.imm
  | .bar _ _ | .bara _ _ | .barw _ _ => .ok ()
  | .txb w m | .txelse w m => branchCheck w m.imm
  | .txe _ m | .retry _ m | .txwatch _ m => need (m.imm == 0) .enc02
  | .txabt _ m => need (m.imm.extractLsb' 8 6 == 0) .enc02
  | .chkb w m => do
    immFree w m.imm
    need (match constOf w w.b m.imm with | some c => decide (0 ≤ c) | none => true) .enc07
  | .chki w m => do
    need (m.z == 0) .enc02
    immFree w m.imm
    if w.a.cls == .v then ext32 w
    need (match constOf w w.b m.imm with | some c => decide (0 ≤ c) | none => true) .enc07
  | .chkp w m => do
    need (m.z == 0) .enc02
    immFree w m.imm
    need (match constOf w w.b m.imm with | some c => decide (0 ≤ c) | none => true) .enc07
  | .chkn _ m | .chkt _ m => need (m.z == 0 && m.imm == 0) .enc02
  | .chka _ m => do
    need (m.imm == 0) .enc02
    need (decide (1 ≤ m.z.toNat ∧ m.z.toNat ≤ 12)) .enc07
  | .chkl _ m => need (m.imm == 0) .enc02
  | .chkr _ m => need (m.z == 0) .enc02
  | .qfeat w m => do
    need (!m.n.getLsbD 7) .enc02
    need (!m.n.getLsbD 6 || m.n.extractLsb' 0 6 == 0) .enc02
    need (!m.n.getLsbD 6 || w.a != .none) .enc03
    need (m.n.getLsbD 6 || w.a == .none) .enc02
  | .trap _ _ => .ok ()
  | .fltrd _ m => need (decide (m.n.toNat ≤ 7)) .enc02
  | .movs w m => do
    need (sregOk m.n) .enc03
    need (w.d.cls == (if sregLane m.n then .v else .g)) .typ04
  | .hret _ m | .mapf _ m | .sealreq _ m | .hskip _ m | .hfail _ m | .mapq _ m | .unmapf _ m | .gnote _ m =>
    need (m.n == 0) .enc02
  | _ => .error .enc01

/-! ## Paired words (spec/03 R82 to R85, R93) -/

/-- The classes a half's operands accept: those of the carried form less 0xE0, 0xE1 and 0xE2 (R82). -/
def halfClasses (cs : List Cls) : List Cls := cs.filter (fun c => c != .slice && c != .ext && c != .short)

/-- The opcode a half carries (R93); 0x020 for a NOP half. -/
def HalfOp.opc : HalfOp → Nat
  | .nop => 0x020
  | .si o _ => 0x040 + o.ctorIdx
  | .vi o _ => 0x060 + o.ctorIdx
  | .vf o _ _ => 0x080 + o.ctorIdx
  | .sf o _ _ => 0x0A0 + o.ctorIdx
  | .cvt _ => 0x0C0
  | .scaleb _ _ => 0x0C3
  | .shfl _ _ => 0x0E0
  | .vote _ => 0x0E2

/-- The two-source forms read DST as their first source (R83). -/
def HalfOp.twoSource : HalfOp → Bool
  | .si o _ => !(o == .not || o == .abs || o == .neg || o == .clz || o == .ctz || o == .popc || o == .brev || o == .mov)
  | .vi o _ => !(o == .not || o == .abs || o == .neg || o == .clz || o == .popc || o == .brev || o == .mov)
  | .vf o _ _ => !(o == .abs || o == .neg || o == .mov)
  | .scaleb _ _ => true
  | _ => false

/-- The forms that pair (spec/05 R143, R147, R151, R155, R166, spec/04 R132). -/
def HalfOp.pairs : HalfOp → Bool
  | .nop => true
  | .si o _ => !(o == .cmp || o == .bfx || o == .bfi)
  | .vi o _ => !(o == .cmp || o == .mad || o == .sel || o == .bfx || o == .bfi || o == .sad)
  | .vf o _ _ => !(o == .fma || o == .cmp || o == .fms || o == .fnma || o == .fnms || o == .sel || o == .dot2
      || o == .clamp || o == .lerp)
  | .sf _ _ _ | .cvt _ | .scaleb _ _ | .shfl _ _ | .vote _ => true

/-- The field conversions of R132 that read their destination. -/
def cvtHalfReads (m : BitVec 4) : Bool :=
  m == 4 || m == 5 || m == 6 || m == 7 || m == 12 || m == 13

/-- A half reads its destination (R83, R132). -/
def Half.readsDst (h : Half) : Bool :=
  h.op.twoSource || (match h.op with | .cvt m => cvtHalfReads m | _ => false)

/-- The vector registers a half reads (R84). -/
def Half.vReads (h : Half) : List Nat :=
  (match h.s with | .v n => [n.toNat] | _ => []) ++
  (match h.d with | .v n => if h.readsDst then [n.toNat] else [] | _ => [])

/-- The source classes of a half. -/
def HalfOp.srcClasses (o : HalfOp) : List Cls :=
  match formOf o.opc with
  | some f => halfClasses (if o.twoSource then f.b else f.a)
  | none => []

/-- The type rules of a half (R85, spec/05 R146, R149, R154, R157, R166). -/
def HalfOp.check : HalfOp → Except Enc Unit
  | .nop => .ok ()
  | .si o t => need (t.isInt && (!(o == .abs || o == .neg) || t.signed)) .enc07
  | .vi o t => need (t.isInt32 && (!(o == .abs || o == .neg) || t == .i32)) .enc07
  | .vf o t r => need (t.isFloat && r != .sr && r != .rna && (o.rounds || r == .rne)) .enc07
  | .sf o t r => need (t.isFloat && r != .sr && r != .rna && (o == .rcp || o == .sqrt || r == .rne)) .enc07
  | .cvt _ => .ok ()
  | .scaleb t r => need (t.isFloat && r != .sr && r != .rna) .enc07
  | .shfl _ lg => need (decide (lg.toNat ≤ 4)) .enc07
  | .vote m => need (decide (m.toNat ≤ 3)) .enc07

/-- One half by itself (R82, R83). -/
def Half.check (h : Half) : Except Enc Unit :=
  match h.op with
  | .nop => need (h.d == .none && h.s == .none) .enc02
  | o => do
    need o.pairs .enc01
    o.check
    match formOf o.opc with
    | none => .error .enc01
    | some f => do
      need ((halfClasses f.d).contains h.d.cls) .enc03
      need (o.srcClasses.contains h.s.cls) .enc03
      need (match o with
        | .si _ t => t == .n32 || (h.d.cls != .p && h.s.cls != .p)
        | .vote m => h.d.cls == (if m == 3 then .g else .p)
        | _ => true) .enc03
      need (!(h.d == .p 0)) .typ03

/-- The group of a half, for the pairing rules. -/
def HalfOp.group : HalfOp → Nat
  | .nop => 0
  | .si _ _ => 1
  | .vi _ _ => 2
  | .vf _ _ _ => 3
  | .sf _ _ _ => 4
  | .cvt _ | .scaleb _ _ => 5
  | .shfl _ _ | .vote _ => 6

/-- The pairing rules (R84): at most four distinct vector registers read, no two distinct ones of one bank, at most
one half in the scalar integer, special-function, conversion and cross-lane groups each, different destinations. -/
def pairCheck (hi lo : Half) : Except Enc Unit := do
  let rs := (hi.vReads ++ lo.vReads).dedup
  need (decide (rs.length ≤ 4) && decide ((rs.map (· % 4)).Nodup)) .enc04
  let g := hi.op.group
  need (!(g == lo.op.group && (g == 1 || g == 4 || g == 5 || g == 6))) .enc04
  need (hi.op == .nop || lo.op == .nop || hi.d != lo.d) .enc04

/-- Every encoding rule of an instruction word; an event is no word. -/
def Instr.check (i : Instr) : Except Enc Unit :=
  match i with
  | .pairedWord h hi lo => do
    need (!(h.pred == 0 && h.neg)) .enc06
    hi.check
    lo.check
    pairCheck hi lo
  | i =>
    match i.view with
    | none => .error .enc01
    | some v =>
      match formAt v.opc v.mod with
      | none => .error .enc01
      | some f => do
        v.ops.check f
        i.modCheck

end Sys2Proof
end

