-- ==== Sys2Proof/Machine/Operands.lean ====
section
/-!
DEFINITION. The value of every operand form (spec/03 R73 to R79), and the registers a word reads and writes.
-/

namespace Sys2Proof.Machine

/-- A source of a scalar form, as 64 bits (R74, R75, R79; a predicate register zero-extended, spec/05 R145). -/
def Slug.srcG (m : Slug) (w : Ops) (imm : BitVec 14) (o : Opnd) : Word :=
  match o with
  | .g n => m.readG n.toNat
  | .p n => (m.readP n.toNat).zeroExtend 64
  | .const n => n.signExtend 64
  | .short => imm.signExtend 64
  | .ext => w.x.getD 0
  | _ => 0

/-- A float lane that holds an integer exactly, in every element of the type (R74). -/
def constLane (t : Ty) (n : BitVec 4) : Lane :=
  if t.flt then
    let e := FVal.round t.ffmt .rne false (FVal.ofInt n.toInt)
    BitVec.ofNat 32 (match t with
      | .f32 => e
      | _ => e + 2 ^ 16 * e)
  else n.signExtend 32

/-- A source of a vector form in one lane (R74 to R76, R79). -/
def Slug.srcV (m : Slug) (w : Ops) (imm : BitVec 14) (t : Ty) (o : Opnd) (i : Fin 32) : Lane :=
  match o with
  | .v n => (m.readV n.toNat)[i]
  | .g n => (m.readG n.toNat).extractLsb' 0 32
  | .const n => constLane t n
  | .short => imm.signExtend 32
  | .ext => (w.x.getD 0).extractLsb' 0 32
  | .plane => BitVec.ofNat 32 i.val
  | _ => 0

end Sys2Proof.Machine

namespace Sys2Proof

/-- The number of a register operand. -/
def Opnd.num : Opnd → Nat
  | .v n => n.toNat
  | .g n => n.toNat
  | .a n => n.toNat
  | .p n => n.toNat
  | .const n => n.toNat
  | _ => 0

/-! ## The registers of a word -/

/-- The vector registers a DST, SRCA or SRCB stands for in a form: pairs and quads of the memory, atomic and conversion
forms (spec/04 R125, spec/09 R272, R280). -/
def Instr.groupSize (i : Instr) (dst : Bool) : Nat :=
  match i with
  | .vld _ m | .vst _ m | .vldx _ m | .vstx _ m | .vldp _ m | .vstp _ m | .vlds _ m | .vsts _ m | .vldxp _ m
  | .vstxp _ m | .vldu _ m | .vldc _ m | .vstc _ m =>
    if dst then (if m.w = 3 then 2 else if m.w = 4 then 4 else 1) else 1
  | .vamo _ m | .vamop _ m | .vred _ m | .vredp _ m => if dst && m.ty.bytes == 8 then 2 else 1
  | .vcas _ m => if dst then (if m.ty.bytes = 8 then 4 else 2) else 1
  | .cvt _ m => if (if dst then m.df == 19 || m.df == 20 else m.sf == 19 || m.sf == 20) then 2 else 1
  | _ => 1

/-- The scalar registers of a `CAS2` data operand, DST or SRCB, else one (spec/09 R280). -/
def Instr.gGroup (i : Instr) : Nat :=
  match i with
  | .cas2 _ _ => 2
  | _ => 1

/-- The operand codes of the registers an operand stands for. -/
def Opnd.regs (o : Opnd) (nv ng : Nat) : List (BitVec 8) :=
  match o with
  | .v n => (List.range nv).map (fun k => BitVec.ofNat 8 (n.toNat + k))
  | .g n => if n = 0 then [] else (List.range ng).map (fun k => BitVec.ofNat 8 (0x80 + n.toNat + k))
  | .p n => if n = 0 then [] else [BitVec.ofNat 8 (0xD0 + n.toNat)]
  | _ => []

/-- The predicate register of a word's frame. -/
def Hdr.regs (h : Hdr) : List (BitVec 8) := (Opnd.p h.pred).regs 1 1

/-- Registers a word reads through its MOD field: a slice's index, the predicate of `VSEL`, the metadata of a sparse form
(spec/03 R78, spec/05 R148, spec/06 R185, spec/09 R288). -/
def Instr.modReads (i : Instr) : List (BitVec 8) :=
  match i with
  | .trd _ m | .twr _ m => (Opnd.g m.idx).regs 1 1
  | .vselInt _ m | .vselFloat _ m => (Opnd.p (m.imm.extractLsb' 0 4)).regs 1 1
  | .mmas _ m | .mmasp _ m => (Opnd.v (m.mbk ++ 0#3)).regs 8 1
  | .cpym _ m => if m.sp then (Opnd.v (m.mbk ++ 0#3)).regs 8 1 else []
  | _ => []

/-- The registers an instruction word reads, by operand code (spec/03 R87). -/
def Instr.readRegs (i : Instr) : List (BitVec 8) :=
  match i with
  | .pairedWord h hi lo =>
    let half (x : Half) : List (BitVec 8) := x.s.regs 1 1 ++ (if x.readsDst then x.d.regs 1 1 else [])
    h.regs ++ half hi ++ half lo
  | i => match i.view with
    | none => []
    | some v => match formAt v.opc v.mod with
      | none => []
      | some f =>
        v.ops.h.regs ++ v.ops.a.regs (i.groupSize false) 1 ++ v.ops.b.regs 1 i.gGroup
          ++ (if f.dRead then v.ops.d.regs (i.groupSize true) i.gGroup else []) ++ i.modReads

/-- The registers an instruction word writes, each with its fixed latency (0 when variable; spec/01 R17). -/
def Instr.writeRegs (i : Instr) : List (BitVec 8 × Nat) :=
  match i with
  | .pairedWord _ hi lo =>
    let half (x : Half) : List (BitVec 8 × Nat) := (x.d.regs 1 1).map (fun r => (r, match formOf x.op.opc with | some f => f.lat | none => 0))
    half hi ++ half lo
  | i => match i.view with
    | none => []
    | some v => match formAt v.opc v.mod with
      | none => []
      | some f => if f.dWrite then (v.ops.d.regs (i.groupSize true) i.gGroup).map (fun r => (r, f.lat)) else []

/-- The vector registers a word names, for the limit A (spec/02 R53). -/
def Instr.vectorRegs (i : Instr) : List Nat :=
  ((i.readRegs ++ i.writeRegs.map (·.1)).filter (fun r => decide (r.toNat < 128))).map (·.toNat)

/-- The `RES` rule a word breaks under a launch (spec/15 R428): a vector register at A or above (spec/02 R53), a tile beyond
the accumulator need, a pitch form beyond the pitch (spec/06 R186), a guy line or a level that the launch does not declare or
gang (spec/11 R368, spec/09 R286). -/
def Instr.resRule (i : Instr) (l : Machine.Launch) (alloc : Nat) : Option Nat :=
  if i.vectorRegs.any (fun n => decide (8 * alloc ≤ n)) then some 1
  else match i with
    | .tcfg w _ =>
      let x := w.x.getD 0
      let stop' := (x.extractLsb' 32 9).toNat * 1024
        + (x.extractLsb' 24 8).toNat * (x.extractLsb' 16 8).toNat * (if x.getLsbD 2 then 2 else 4)
      if x.getLsbD 0 && decide (49152 * l.accNeed < stop') then some 2 else none
    | .mmap w _ | .mmasp w _ =>
      let x := w.x.getD 0
      if 128 * Nat.max 1 l.ph < 8 * ((x.extractLsb' 20 6).toNat + 1) ∨ 192 * Nat.max 1 l.pw < 16 * (x.extractLsb' 14 6).toNat
        ∨ 4 < l.pw ∨ 4 < l.ph then some 3 else none
    | .bar _ m | .bara _ m | .barw _ m =>
      let n := Nat.max 2 m.gl.toNat
      if !l.decl n || (decide (4 ≤ n) && !l.gang n) then some 3 else none
    | .fence _ m | .fencex _ m => if m.lve && !l.decl m.lv.toNat then some 3 else none
    | _ => none

/-- Where the form of a word is an instruction (spec/18 R455, R458). -/
def Instr.whereOk (i : Instr) (hnd : Bool) : Bool :=
  match i with
  | .pairedWord _ hi lo =>
    let ok (x : Half) := match x.op with
      | .nop | .si _ _ => true
      | _ => !hnd
    ok hi && ok lo
  | i => match i.view with
    | none => false
    | some v => match formOf v.opc with
      | none => false
      | some f => match f.place with
        | .both => !(hnd && v.ops.d.cls == .v)
        | .kernel => !hnd
        | .handler => hnd

end Sys2Proof
end

