-- ==== Sys2Proof/Machine/Flags.lean ====
section
/-!
DEFINITION. Condition codes: the machine has no flag register; conditions are computed where they are used, into a
predicate, a scalar register or a branch (spec/05 R136, R144, R148, R153).
-/

namespace Sys2Proof.Machine

/-- The condition codes `.eq`, `.ne`, `.lt`, `.le`, `.gt`, `.ge` on integers (R144). -/
def intCond (cc : Nat) (a b : Int) : Bool :=
  if cc = 0 then decide (a = b)
  else if cc = 1 then decide (a ≠ b)
  else if cc = 2 then decide (a < b)
  else if cc = 3 then decide (a ≤ b)
  else if cc = 4 then decide (a > b)
  else decide (a ≥ b)

/-- The condition codes of `BRC`: `.eqz`, `.nez`, `.ltz`, `.gez`, `.gtz`, `.lez` (R136). -/
def brcCond (cc : Nat) (x : Word) : Bool :=
  let v := x.toInt
  if cc = 0 then decide (v = 0)
  else if cc = 1 then decide (v ≠ 0)
  else if cc = 2 then decide (v < 0)
  else if cc = 3 then decide (v ≥ 0)
  else if cc = 4 then decide (v > 0)
  else decide (v ≤ 0)

/-- The condition codes of a float `VCMP` (R153): `.un` and `.ne` hold on a NaN, `.or` is the complement of `.un`, every
other is false. -/
def fltCond (cc : Nat) (a b : FVal) : Bool :=
  match FVal.cmp a b with
  | none => cc == 1 || cc == 6
  | some o =>
    if cc = 0 then o == .eq
    else if cc = 1 then o != .eq
    else if cc = 2 then o == .lt
    else if cc = 3 then o != .gt
    else if cc = 4 then o == .gt
    else if cc = 5 then o != .lt
    else cc == 7

/-- A mask from a condition on each plane. -/
def maskFn (f : Fin 32 → Bool) : Mask :=
  (List.finRange 32).foldl (fun m i => if f i then m ||| (1#32 <<< i.val) else m) 0

end Sys2Proof.Machine
end

