-- ==== Sys2Proof/Machine/Life.lean ====
section
/-!
DEFINITION. How a slug and a forme end: granules go to clearing (spec/02 R56, R57), guy lines count the slugs that are left
(spec/11 R370), the bind record is freed and the scheduler hears of it (spec/10 R323, R325); and how a gathering closes and
regroups (spec/01 R41 to R46).
-/

namespace Sys2Proof.Machine

/-! ## Granules (R57) -/

/-- Granules `base` to `base + n − 1` released in cycle `now`: a clearing engine that is free from cycle `clear` on takes
them in order, `cost` cycles each; each is free in the cycle after its clearing. -/
def releaseG (m : Sparse Granule) (clear now cost base n : Nat) : Sparse Granule × Nat :=
  (List.range n).foldl (fun (r : Sparse Granule × Nat) k =>
    let e := max (now + 1) r.2 + cost
    (r.1.put (base + k) { holder := none, freeAt := e, world := (m.look (base + k)).world }, e)) (m, clear)

/-- Register granules of a core released. -/
def Core.releaseR (c : Core) (now base n : Nat) : Core :=
  let r := releaseG c.regs c.clearR now 1 base n
  { c with regs := r.1, clearR := r.2 }

/-- Scratchpad granules of a core released. -/
def Core.releaseS (c : Core) (now base n : Nat) : Core :=
  let r := releaseG c.spad c.clearS now 256 base n
  { c with spad := r.1, clearS := r.2 }

/-- Accumulator granules of a core released. -/
def Core.releaseA (c : Core) (now base n : Nat) : Core :=
  let r := releaseG c.accs c.clearA now 48 base n
  { c with accs := r.1, clearA := r.2 }

/-- A resident slot is given up. -/
def Core.dropSlot (c : Core) (h : Nat) : Core :=
  { c with
    slots := c.slots.put h none
    port0 := { c.port0 with age := c.port0.age.erase h }
    port1 := { c.port1 with age := c.port1.age.erase h } }

/-! ## Guy lines (spec/11 R368, R370) -/

/-- The level a guy line serves. -/
def guyLevel (gl : Nat) : Nat := max 2 gl

/-- The unit of a level that holds a forme. -/
def Launch.unitOf (l : Launch) (fidx level : Nat) : Nat := fidx / l.formesPer level

/-- The key of a guy line's instance for a forme. -/
def Launch.guyKey (l : Launch) (fidx gl : Nat) : Nat := gl * 2 ^ 48 + l.unitOf fidx (guyLevel gl)

/-- The live slugs of the unit that a guy line's instance serves. -/
def State.unitSlugs (s : State) (n fidx gl : Nat) : List (Nat × Nat) :=
  let l := s.launch n
  s.formes.flatMap (fun e =>
    if e.2.launch = n ∧ l.unitOf e.2.fidx (guyLevel gl) = l.unitOf fidx (guyLevel gl)
    then e.2.slugs.filterMap (fun m => if m.2.live then some (e.1, m.1) else none) else [])

/-- A generation completes once every live slug of the unit has arrived (R370; log entry 12): GEN advances, the arrivals
start afresh, and the slugs that watch the generation are fired. -/
def State.guyCheck (s : State) (n fidx gl : Nat) : State :=
  let l := s.launch n
  let k := l.guyKey fidx gl
  let g := l.guys.look k
  if g.arrived.isEmpty || !(s.unitSlugs n fidx gl).all (fun e => g.arrived.contains e) then s
  else
    (s.modLaunch n (fun l => { l with guys := l.guys.put k { gen := g.gen + 1, arrived := [] } })).fireWhere
      (fun _ f _ w => f.launch == n && l.guyKey f.fidx gl == k && (w.gwait.look gl).isSome)

/-- All guy lines of a forme's units are looked at again. -/
def State.guyChecks (s : State) (n fidx : Nat) : State :=
  (List.range 8).foldl (fun s gl => s.guyCheck n fidx gl) s

/-! ## Command links (spec/10 R323) -/

/-- Bits [63:34] of a message's header on the link of a cluster: TYPE, CLUSTER, LAUNCH; bits [33:0] are its type's own, whose layout
R323 leaves open and whose contents are the message's other fields. -/
def LinkMsg.header (m : LinkMsg) (cl : Nat) : BitVec 30 := m.type ++ BitVec.ofNat 8 cl ++ BitVec.ofNat 14 m.launch

/-- A leaf sends a message to the scheduler, or keeps it while it holds no permit. -/
def Cluster.sendUp (c : Cluster) (m : LinkMsg) : Cluster :=
  if c.permitsUp = 0 || !c.waitUp.isEmpty then { c with waitUp := c.waitUp ++ [m] }
  else { c with toSched := c.toSched ++ [m], permitsUp := c.permitsUp - 1 }

/-- The scheduler sends a message to a leaf, or keeps it while it holds no permit. -/
def Cluster.sendDown (c : Cluster) (m : LinkMsg) : Cluster :=
  if c.permitsDown = 0 || !c.waitDown.isEmpty then { c with waitDown := c.waitDown ++ [m] }
  else { c with toLeaf := c.toLeaf ++ [m], permitsDown := c.permitsDown - 1 }

/-- The scheduler has consumed the message at the head: its permit returns to the leaf, which may send one that waited. -/
def Cluster.tookUp (c : Cluster) : Cluster :=
  match c.waitUp with
  | m :: r => { c with toSched := c.toSched.drop 1 ++ [m], waitUp := r }
  | [] => { c with toSched := c.toSched.drop 1, permitsUp := c.permitsUp + 1 }

/-- The leaf has consumed the message at the head. -/
def Cluster.tookDown (c : Cluster) : Cluster :=
  match c.waitDown with
  | m :: r => { c with toLeaf := c.toLeaf.drop 1 ++ [m], waitDown := r }
  | [] => { c with toLeaf := c.toLeaf.drop 1, permitsDown := c.permitsDown + 1 }

/-! ## The end of a forme and of a slug -/

/-- A forme leaves its core: scratchpad and accumulator granules are released, its bind record is free (R57, spec/10
R325). -/
def State.leaveCore (s : State) (fk : Nat) : State :=
  let f := s.forme fk
  let l := s.launch f.launch
  let cl := clusterOf f.core
  let b := (s.cluster cl).binds.look f.bind
  let s := s.modCore f.core (fun c => (c.releaseS s.cyc b.sbase l.spad).releaseA s.cyc b.abase l.accNeed)
  s.modCluster cl (fun c => { c with binds := c.binds.put f.bind {} })

/-- A forme ends (R57, spec/10 R325): it leaves its core and the scheduler is told. -/
def State.endForme (s : State) (fk : Nat) : State :=
  let f := s.forme fk
  let s := s.leaveCore fk
  let s := s.modForme fk (fun f => { f with place := .ended, scratch := [], acc := [], tiles := [], gathers := [] })
  s.modCluster (clusterOf f.core) (fun c => c.sendUp { type := 0x82, launch := f.launch, formes := [(f.launch, f.fidx)] })

/-- Every slug of a forme has ended. -/
def Forme.over (f : Forme) : Bool := f.slugs.all (fun m => !m.2.live)

/-! ## Gatherings (spec/01 R41 to R45) -/

/-- The lanes of a slug that have not exited: the union of its paths' masks (R33). -/
def Slug.liveLanes (m : Slug) : Mask :=
  let u (p : Option Path) : Mask := (p.map (·.mask)).getD 0
  m.stack.foldl (fun x p => x ||| p.mask) (u m.a.path ||| u m.b.path)

/-- The open gathering at an address. -/
def Forme.openAt (f : Forme) (pc : Addr) : Option Gather := f.gathers.find? (fun g => g.pc == pc && !g.closed)

/-- Every live slug that is not full has arrived at the gathering (R41). -/
def Forme.allIn (f : Forme) (g : Gather) : Bool :=
  f.slugs.all (fun m => !m.2.live || m.2.liveLanes == 0xFFFFFFFF || g.slugs.contains m.1)

/-- The lanes of gathered slugs: virtual lane id, slug, plane. -/
def Forme.lanesOf (f : Forme) (ss : List Nat) : List (Nat × Nat × Nat) :=
  ss.flatMap (fun sl => (planes (f.slugs.look sl).liveLanes).map (fun p => (f.vlidAt sl p, sl, p)))

/-- The slug of a list with the most lanes, the lower index first. -/
def Forme.mostLanes (f : Forme) (ss : List Nat) : Option Nat :=
  ss.foldl (fun b sl => match b with
    | none => some sl
    | some x =>
      let nx := popcount (f.slugs.look x).liveLanes
      let ns := popcount (f.slugs.look sl).liveLanes
      if nx < ns || (nx == ns && decide (sl < x)) then some sl else some x) none

/-- The `k` receivers of R42 step 2: the matrix owner first, then the slugs with the most lanes. -/
def Forme.receivers (f : Forme) : Nat → List Nat → List Nat
  | 0, _ => []
  | k + 1, ss =>
    match (match ss.find? (fun sl => (f.slugs.look sl).owner) with
           | some o => some o
           | none => f.mostLanes ss) with
    | some x => x :: f.receivers k (ss.erase x)
    | none => []

/-- The slugs a gathering needs once regrouped (R42). -/
def Forme.needed (f : Forme) (g : Gather) : Nat := ((f.lanesOf g.slugs).length + 31) / 32

/-- The moves of a regroup (R42 step 3): each moving lane with its old and its new slug and plane. -/
def Forme.plan (f : Forme) (g : Gather) : List ((Nat × Nat × Nat) × (Nat × Nat)) :=
  let rs := sortBy id (f.receivers (f.needed g) g.slugs)
  let moving := sortBy (·.1) (f.lanesOf (g.slugs.filter (fun x => !rs.contains x)))
  let free := rs.flatMap (fun sl =>
    ((List.range 32).filter (fun p => !(f.slugs.look sl).liveLanes.getLsbD p)).map (fun p => (sl, p)))
  moving.zip free

/-- A slug goes on after its `RECAST` (R42, R44): not before the STALL of the `RECAST` it issued has passed (spec/03 R86) and
every result it has in flight has landed (R89). -/
def Slug.afterRecast (m : Slug) (pc : Addr) (mask : Mask) (now : Nat) : Slug :=
  let own := if m.a.path.isNone then m.b.readyAt else m.a.readyAt
  let u := m.soleAt (pc + 8) mask (max own (m.landed now))
  { u with gathering := none }

/-- One lane of a slug's registers put into a plane of another's (R42 step 4). -/
def Slug.takeLane (m src : Slug) (p q : Nat) : Slug :=
  let v := src.v.foldl (fun v e => v.put e.1 (Vector.ofFn (fun i => if i.val = q then (e.2.toList.getD p 0) else (v.look e.1)[i]))) m.v
  let vz := m.v.foldl (fun v e => if (src.v.any (fun x => x.1 == e.1)) then v
    else v.put e.1 (Vector.ofFn (fun i => if i.val = q then 0 else (v.look e.1)[i]))) v
  let bit := 1#32 <<< q
  let pr := (List.range 16).foldl (fun t n =>
    if n = 0 then t
    else t.put n (if (src.p.look n).getLsbD p then t.look n ||| bit else t.look n &&& ~~~bit)) m.p
  { m with v := vz, p := pr }

/-- The gathering closes (R41, R42, R44): without a move its slugs go on at once, otherwise a regroup begins. -/
def State.closeGather (s : State) (fk : Nat) (pc : Addr) : State :=
  let f := s.forme fk
  match f.openAt pc with
  | none => s
  | some g =>
    if f.needed g = g.slugs.length then
      s.modForme fk (fun f =>
        let f := g.slugs.foldl (fun f sl => f.modSlug sl (fun m => m.afterRecast pc m.liveLanes s.cyc)) f
        { f with gathers := f.gathers.erase g })
    else
      let cost := 24 + ((f.plan g).length * 8 * (s.launch f.launch).alloc + 63) / 64
      s.modForme fk (fun f => { f with
        gathers := f.gathers.map (fun x => if x = g then { x with closed := true, done := s.cyc + cost } else x) })

/-- Closes the gatherings that every slug they can expect has joined (R41). -/
def State.closeFull (s : State) (fk : Nat) : State :=
  let f := s.forme fk
  (f.gathers.filter (fun g => !g.closed && f.allIn g)).foldl (fun s g => s.closeGather fk g.pc) s

/-- A slug ends (R37, R42, R57): its slot and registers are released, its forme's guy lines and gatherings are looked at
again, and with the last slug the forme ends. -/
def State.endSlug (s : State) (fk sl : Nat) : State :=
  let f := s.forme fk
  let m := f.slugs.look sl
  let a := (s.launch f.launch).alloc
  let s := s.modCore f.core (fun c => (c.dropSlot m.h).releaseR s.cyc m.vb a)
  let s := s.modCluster (clusterOf f.core) (fun c => { c with
    binds := c.binds.upd f.bind (fun b => { b with slots := b.slots &&& ~~~(1#64 <<< m.h) }) })
  let s := s.modSlug fk sl (fun m => { ended := true, h := m.h, vb := m.vb, owner := m.owner, alloc := m.alloc })
  let s := (s.guyChecks f.launch f.fidx).closeFull fk
  if (s.forme fk).over then s.endForme fk else s

/-- A regroup is complete (R42 steps 4 to 6): lanes move, the remap table follows, receivers go on, donors end. -/
def State.regroup (s : State) (fk : Nat) (g : Gather) : State :=
  let f := s.forme fk
  let mv := f.plan g
  let rs := f.receivers (f.needed g) g.slugs
  let f1 := mv.foldl (fun (x : Forme) e =>
    x.modSlug e.2.1 (fun m => m.takeLane (f.slugs.look e.1.2.1) e.1.2.2 e.2.2)) f
  let remap := mv.foldl (fun (t : Sparse Remap) e =>
    t.upd e.1.1 (fun r => { r with moved := some (BitVec.ofNat 5 e.2.1, BitVec.ofNat 5 e.2.2) })) f.remap
  let gained (sl : Nat) : Mask := maskOf ((mv.filter (fun e => e.2.1 == sl)).map (fun e => e.2.2))
  let f2 := rs.foldl (fun (x : Forme) sl =>
    x.modSlug sl (fun m => m.afterRecast g.pc ((f.slugs.look sl).liveLanes ||| gained sl) s.cyc)) f1
  let s := s.modForme fk (fun _ => { f2 with remap := remap, gathers := f.gathers.erase g })
  (g.slugs.filter (fun x => !rs.contains x)).foldl (fun s sl => s.endSlug fk sl) s

end Sys2Proof.Machine
end

