-- ==== Sys2Proof/Machine/Stack.lean ====
section
/-!
DEFINITION. The divergence stack in memory (spec/01 R38, R39): its 64 entries of 16 bytes are the first 1 KiB of the slug's
private memory. `Slug.stack` holds the occupied entries; every word that changes it reads the entries it held and writes
those that differ, as accesses of the slug's own core in program order (log entry 43).
-/

namespace Sys2Proof.Machine

/-- `%priv` of a slug (spec/02 R58, spec/10 R318). -/
def State.privBase (s : State) (fk sl : Nat) : Nat :=
  let f := s.forme fk
  let l := s.launch f.launch
  l.priv + (f.fidx * l.ext 1 + sl) * 2 ^ l.psz

/-- The 128 bits of an entry (R38): MASK, PK, PC; the reserved fields are zero. -/
def Path.entry (p : Path) : BitVec 128 :=
  p.mask ++ BitVec.ofBool p.pk ++ 0#31 ++ 0#10 ++ p.pc.extractLsb' 3 51 ++ 0#3

/-- The 16 bytes of an entry. -/
def Path.entryBytes (p : Path) : List Byte := bytesOf 16 p.entry.toNat

/-- The physical place of entry `i` of a slug's stack, and how its line is cached; `none` where the slug's private memory has
no NORMAL page with the rights of zone `zp` (spec/17 R442): the spec names no fault of a stack access. -/
def State.stackAt (s : State) (fk sl i : Nat) (need : Need) : State × Option (Nat × LineKind × HotInfo) :=
  let f := s.forme fk
  let l := s.launch f.launch
  let va := s.privBase fk sl + 16 * i
  match s.translate (some f.core) l.part va 16 need with
  | (s, .ok (pa, x)) =>
    (s, if x.mt = 0 then some (pa, x.kind, { hs := x.hs, part := x.part, tier := x.tier, va := va, world := l.world,
                                              core := some f.core })
        else none)
  | (s, .error _) => (s, none)

/-- Entry `i` is read. -/
def State.stackRead (s : State) (fk sl i : Nat) : State :=
  match s.stackAt fk sl i .read with
  | (s, some (pa, k, h)) => (s.l1Read (s.forme fk).core pa 16 k h).1
  | (s, none) => s

/-- Entry `i` is written. -/
def State.stackWrite (s : State) (fk sl i : Nat) (p : Path) : State :=
  match s.stackAt fk sl i .write with
  | (s, some (pa, k, h)) => s.l1Write (s.forme fk).core pa p.entryBytes k h (.path fk sl false)
  | (s, none) => s

/-- The stack traffic of a word that found the entries `old` (R39): they are read, and those that stand otherwise now are
written. -/
def State.stackTraffic (s : State) (fk sl : Nat) (old : List Path) : State :=
  let new := (s.slug fk sl).stack
  let s := (List.range old.length).foldl (fun s i => s.stackRead fk sl i) s
  (List.range new.length).foldl (fun s i =>
    if old[i]? = new[i]? then s else s.stackWrite fk sl i (new.getD i {})) s

end Sys2Proof.Machine
end

