-- ==== Sys2Proof/Machine/Control.lean ====
section
/-!
DEFINITION. The control instructions (spec/05 R136 to R141): branches, splits and joins of paths (spec/01 R34 to R38), the
end of lanes, recasting and yielding, with the events that end a gathering's hold, a regroup and a yield.
-/

namespace Sys2Proof.Machine

/-! ## Targets (R137) -/

/-- A branch target: the word's address plus 8 × its offset field, or plus the extension word. -/
def Ctx.target (c : Ctx) (w : Ops) (off : Nat) (imm : BitVec 14) : Addr :=
  match w.x with
  | some x => c.path.pc + x.extractLsb' 0 54
  | none => c.path.pc + 8 * (BitVec.signExtend 54 (imm.extractLsb' 0 off))

/-- The issuing slot as it stands after its word (spec/03 R86, R87). -/
def Ctx.after (c : Ctx) (s : State) : Slot :=
  { c.slot with readyAt := s.cyc + c.iss.occ + c.iss.stall, lastIssue := s.cyc, pend := c.iss.pend, part := none }

/-! ## Splitting (spec/01 R34, R35) -/

/-- A slot with a path. -/
def Slot.with (x : Slot) (p : Path) : Slot := { x with path := some p }

/-- The slug with its path in slot `b` split into two, the one with the smaller PC in `lo`; `none` when the stack is full.
`x` is the slot after the word. -/
def Slug.split (m : Slug) (b : Bool) (x : Slot) (lo hi : Path) : Option Slug :=
  let y := m.slot !b
  if y.path.isNone then
    some ((m.putSlot b (x.with lo)).putSlot (!b) { (x.with hi) with lastIssue := y.lastIssue })
  else if m.stack.length < 64 then
    let u := m.putSlot b (x.with lo)
    some { u with stack := m.stack ++ [hi] }
  else none

/-! ## Meeting again (spec/01 R36) -/

/-- A path parked at a join point. -/
def Path.parkedAt (p : Path) (j : Addr) : Bool := p.pk && p.pc == j

/-- A slot holds a path parked at a join point. -/
def Slot.parkedAt (x : Slot) (j : Addr) : Bool :=
  match x.path with
  | some p => p.parkedAt j
  | none => false

/-- Every path of a slug. -/
def Slug.allPaths (m : Slug) : List Path := m.a.path.toList ++ m.b.path.toList ++ m.stack

/-- Entry `i` of the stack removed: the last entry takes its index (R38). -/
def removeEntry (l : List Path) (i : Nat) : List Path :=
  match l.getLast? with
  | none => l
  | some e => if i + 1 = l.length then l.dropLast else l.dropLast.set i e

/-- All entries parked at a join point removed. -/
def dropParked (j : Addr) : Nat → List Path → List Path
  | 0, l => l
  | n + 1, l => match l.findIdx? (·.parkedAt j) with
    | some i => dropParked j n (removeEntry l i)
    | none => l

/-- A slot whose path has just been put there by the steps of R36: it carries no pending distance (spec/03 R89). -/
def Slot.fresh (x : Slot) (p : Option Path) (ready : Nat) : Slot :=
  { x with path := p, readyAt := ready, pend := [], part := none, yielding := none }

/-- Step 1: the paths parked at one join point become one. `ready` is the cycle from which a path may issue. -/
def Slug.merge (m : Slug) (j : Addr) (ready : Path → Nat) : Slug :=
  let ps := m.allPaths.filter (·.parkedAt j)
  let p : Path := { pk := false, pc := j + 8, mask := ps.foldl (fun x q => x ||| q.mask) 0 }
  let st := dropParked j m.stack.length m.stack
  if m.a.parkedAt j then
    { m with a := m.a.fresh (some p) (ready p), b := if m.b.parkedAt j then m.b.fresh none m.b.readyAt else m.b, stack := st }
  else if m.b.parkedAt j then { m with b := m.b.fresh (some p) (ready p), stack := st }
  else { m with stack := st ++ [p] }

/-- A join point at which two paths or more are parked. -/
def Slug.meeting (m : Slug) : Option Addr :=
  (m.allPaths.filter (fun p => p.pk && decide (2 ≤ (m.allPaths.filter (·.parkedAt p.pc)).length))).head?.map (·.pc)

/-- The entry that is not parked with the smallest PC, ties to the lowest index. -/
def nextEntry (l : List Path) : Option Nat :=
  (List.range l.length).foldl (fun (b : Option Nat) i =>
    let p := l.getD i {}
    if p.pk then b
    else match b with
      | none => some i
      | some k => if p.pc.toNat < (l.getD k {}).pc.toNat then some i else b) none

/-- A slot holds a parked path. -/
def Slot.parked (x : Slot) : Bool :=
  match x.path with
  | some p => p.pk
  | none => false

/-- The address of a slot's path. -/
def Slot.pcNat (x : Slot) : Nat := (x.path.map (·.pc.toNat)).getD 0

/-- Step 2: a free slot takes an entry of the stack. -/
def Slug.fill (m : Slug) (i : Nat) (b : Bool) (ready : Path → Nat) : Slug :=
  let p := m.stack.getD i {}
  let u := m.putSlot b ((m.slot b).fresh (some p) (ready p))
  { u with stack := removeEntry m.stack i }

/-- Step 3: the parked path of a slot changes places with an entry. -/
def Slug.exchange (m : Slug) (i : Nat) (b : Bool) (ready : Path → Nat) : Slug :=
  let old := ((m.slot b).path).getD {}
  let p := m.stack.getD i {}
  let u := m.putSlot b ((m.slot b).fresh (some p) (ready p))
  { u with stack := m.stack.set i old }

/-- Step 4: the parked path with the smallest join point goes on. -/
def Slug.release (m : Slug) (ready : Path → Nat) : Slug :=
  match m.allPaths.foldl (fun (b : Option Nat) p => match b with
      | none => some p.pc.toNat
      | some x => some (min x p.pc.toNat)) none with
  | none => m
  | some j =>
    let go (p : Path) : Path := { p with pk := false, pc := p.pc + 8 }
    let up (x : Slot) : Slot := x.fresh (x.path.map go) (ready (x.path.getD {}))
    if m.a.path.isSome && m.a.pcNat == j then { m with a := up m.a }
    else if m.b.path.isSome && m.b.pcNat == j then { m with b := up m.b }
    else { m with stack := m.stack.map (fun p => if p.pc.toNat = j then go p else p) }

/-- The first of the steps of R36 that applies. Where both slots are free, the entry of a fill takes slot A: R36 says only
that a free slot takes it (log entry 79). -/
def Slug.settleOnce (m : Slug) (ready : Path → Nat) : Option Slug :=
  match m.meeting with
  | some j => some (m.merge j ready)
  | none => match nextEntry m.stack with
    | some i =>
      if m.a.path.isNone then some (m.fill i false ready)
      else if m.b.path.isNone then some (m.fill i true ready)
      else if m.a.parked && m.b.parked then some (m.exchange i (decide (m.a.pcNat < m.b.pcNat)) ready)
      else if m.a.parked then some (m.exchange i false ready)
      else if m.b.parked then some (m.exchange i true ready)
      else none
    | none => if !m.allPaths.isEmpty && m.allPaths.all (·.pk) then some (m.release ready) else none

/-- The steps of R36 until none applies. -/
def Slug.settle (ready : Path → Nat) : Nat → Slug → Slug
  | 0, m => m
  | n + 1, m => match m.settleOnce ready with
    | some u => Slug.settle ready n u
    | none => m

/-- The cycle from which a path that the steps of R36 put into a slot may issue: every result of the slug has landed
(spec/03 R89), and STALL binds only lanes of the path that issued the word (R86). -/
def Ctx.readyFor (c : Ctx) (m : Slug) (now : Nat) (p : Path) : Nat :=
  max (now + c.iss.occ + (if p.mask &&& c.path.mask = 0 then 0 else c.iss.stall)) (m.landed now)

/-- The steps of R36 after a word of the slug. -/
def Slug.settled (m : Slug) (c : Ctx) (s : State) : Slug := m.settle (c.readyFor m s.cyc) 512

/-- The steps of R36 applied to the issuing slug, with its stack traffic (R39). -/
def State.settleCur (s : State) (c : Ctx) : State :=
  (s.modCur (fun m => m.settled c s)).stackTraffic c.iss.fk c.iss.sl c.m.stack

/-! ## Meanings -/

/-- `NOP` (spec/03 R86). -/
def execNop (w : Ops) (_m : AluMod) (s : State) : Out := scalarWord w.h s (fun c => s.retire c)

/-- `BRA` (R138). -/
def execBra (w : Ops) (m : AluMod) (s : State) : Out :=
  scalarWord w.h s (fun c => s.retireTo (c.target w 14 m.imm))

/-- `BRC` (R138). -/
def execBrc (w : Ops) (m : AluMod) (s : State) : Out :=
  scalarWord w.h s (fun c =>
    if brcCond (m.imm.extractLsb' 11 3).toNat (c.m.srcG w m.imm w.a) then s.retireTo (c.target w 11 m.imm)
    else s.retire c)

/-- A scalar result, and the path at an address. -/
def State.finishGTo (s : State) (c : Ctx) (n : Nat) (x : Word) (pc : Addr) : State :=
  if s.pinBlocks c n x then s.trap c (pinTrap c n x false) else (s.modCur (·.writeG n x)).retireTo pc

/-- `CALL` (R138): the link is the address of the next word. -/
def execCall (w : Ops) (m : AluMod) (s : State) : Out :=
  scalarWord w.h s (fun c =>
    let pc := if m.imm.getLsbD 13 then (c.m.srcG w m.imm w.a).extractLsb' 0 54 else c.target w 13 m.imm
    s.finishGTo c w.d.num (c.nextPc.zeroExtend 64) pc)

/-- `RET` (R138). -/
def execRet (w : Ops) (m : AluMod) (s : State) : Out :=
  scalarWord w.h s (fun c => s.retireTo ((c.m.srcG w m.imm w.a).extractLsb' 0 54))

/-- `JMPT` (R138): an index beyond the table takes its last word. -/
def execJmpt (w : Ops) (m : AluMod) (s : State) : Out :=
  scalarWord w.h s (fun c =>
    let k := min (c.m.srcG w m.imm w.a).toNat (m.imm.extractLsb' 0 8).toNat
    s.retireTo (c.path.pc + 8 + BitVec.ofNat 54 (8 * k)))

/-- `BRV` (spec/01 R34, R35; spec/11 R353). -/
def execBrv (w : Ops) (m : AluMod) (s : State) : Out :=
  vectorWord w.h s (fun c =>
    let bits := c.m.readP w.a.num
    let t := c.act &&& (if m.imm.getLsbD 13 then ~~~bits else bits)
    let n := c.path.mask &&& ~~~t
    let tpc := c.target w 13 m.imm
    if t = 0 then (s.retire c).settleCur c
    else if n = 0 || tpc == c.nextPc then (s.retireTo tpc).settleCur c
    else if c.m.tx.isSome then s.trapCode c 0x32
    else
      let pt : Path := { pc := tpc, mask := t }
      let pn : Path := { pc := c.nextPc, mask := n }
      let r := if tpc.toNat < c.nextPc.toNat then c.m.split c.iss.b (c.after s) pt pn
               else c.m.split c.iss.b (c.after s) pn pt
      match r with
      | none => s.trapCode c 0x06
      | some u => (s.modCur (fun _ => u)).settleCur c)

/-- `JOIN` (spec/01 R35, R36); inside a transaction, a `JOIN` that leaves lanes behind splits the path and faults as a `BRV`
that splits does (spec/11 R353; log entry 44). -/
def execJoin (w : Ops) (_m : AluMod) (s : State) : Out :=
  vectorWord w.h s (fun c =>
    let rest := c.path.mask &&& ~~~c.act
    let here : Path := { pk := true, pc := c.path.pc, mask := c.act }
    if c.act = 0 then (s.retire c).settleCur c
    else if rest = 0 then (s.modCur (fun m => m.putSlot c.iss.b ((c.after s).with here))).settleCur c
    else if c.m.tx.isSome then s.trapCode c 0x32
    else match c.m.split c.iss.b (c.after s) here { pc := c.nextPc, mask := rest } with
      | none => s.trapCode c 0x06
      | some u => (s.modCur (fun _ => u)).settleCur c)

/-- An engine instruction of a forme is unfinished on some core; with `followOns` also another forme's part on its own core, or a `CPYM`
follow-on that is still to come (spec/06 R182). -/
def State.engineBusy (s : State) (fk : Nat) (followOns : Bool) : Bool :=
  s.formes.any (fun e => (e.2.mq ++ e.2.transit).any (fun q =>
      (q.issuer == fk || (followOns && e.1 == fk)) && (followOns || q.tag.isNone)))
    || (followOns && (!(s.forme fk).follow.isEmpty
        || (s.core (s.forme fk).core).copies.any (fun x => x.fk == fk && x.follow.isSome)))

/-- `EXIT` (spec/01 R37, spec/02 R67; spec/06 R182; spec/11 R352). -/
def execExit (w : Ops) (_m : AluMod) (s : State) : Out :=
  vectorWord w.h s (fun c =>
    let last := c.act == c.m.liveLanes
    if c.act = 0 then s.retire c
    else if c.m.tx.isSome then s.trapCode c 0x33
    else if last && c.m.owner && s.engineBusy c.iss.fk true then s.hold
    else
      let gone := (planes c.act).map (fun p => c.f.vlidAt c.iss.sl p)
      let s := s.modForme c.iss.fk (fun f =>
        { f with remap := gone.foldl (fun t v => t.upd v (fun r => { r with dead := true })) f.remap })
      let rest := c.path.mask &&& ~~~c.act
      if last then s.endSlug c.iss.fk c.iss.sl
      else
        let x := c.after s
        let s := s.modCur (fun m => m.putSlot c.iss.b
          (if rest = 0 then x.fresh none x.readyAt else x.with { pc := c.nextPc, mask := rest }))
        (s.settleCur c).closeFull c.iss.fk)

/-- `RECAST` (spec/01 R40, R41). -/
def execRecast (w : Ops) (m : AluMod) (s : State) : Out :=
  match s.ctx w.h with
  | none => .next s
  | some c =>
    if c.m.paths = 1 ∧ c.m.tx = none ∧ c.m.hnd = none ∧ c.path.mask ≠ 0xFFFFFFFF then
      let pc := c.path.pc
      let hold := 16 * (m.imm.extractLsb' 0 8).toNat
      let s := s.modCur (fun m => { (m.putSlot c.iss.b (c.after s)) with gathering := some pc })
      let s := s.modForme c.iss.fk (fun f =>
        match f.openAt pc with
        | some g => { f with gathers := f.gathers.map (fun x => if x = g then { x with slugs := x.slugs ++ [c.iss.sl] } else x) }
        | none => { f with gathers := f.gathers ++ [{ pc := pc, slugs := [c.iss.sl], close := s.cyc + hold }] })
      .next (s.closeFull c.iss.fk)
    else .next (s.retire c)

/-- `YIELD` (R139): a scalar form, which without an active lane only goes on (DEDUCED; log entry 87). -/
def execYield (w : Ops) (m : AluMod) (s : State) : Out :=
  scalarWord w.h s (fun c =>
    let n := (m.imm.extractLsb' 0 10).toNat
    (s.retire c).modCur (fun u => u.modSlot c.iss.b (fun x => { x with yielding := some (x.readyAt + n) })))

/-! ## Events -/

/-- YIELD_EXPIRY: the count of a yielded path of slug `slug` of forme `forme` (slot B when `flag` is false) has ended. -/
def execYieldExpiry (s : State) : Out :=
  let b := !s.ev.flag
  .next (s.modSlug s.ev.forme s.ev.slug (fun m => m.modSlot b (fun x => match x.yielding with
    | some n => if n ≤ s.cyc then { x with yielding := none } else x
    | none => x)))

/-- RECAST_HOLD_EXPIRY: the hold of the gathering at `addr` of a forme has run out (R41). -/
def execRecastHoldExpiry (s : State) : Out :=
  let pc : Addr := s.ev.addr.extractLsb' 0 54
  match (s.forme s.ev.forme).openAt pc with
  | some g => if g.close ≤ s.cyc then .next (s.closeGather s.ev.forme pc) else .next s
  | none => .next s

/-- REGROUP_COMPLETE: a closed gathering's regroup has taken its cycles (R42, R44). -/
def execRegroupComplete (s : State) : Out :=
  let pc : Addr := s.ev.addr.extractLsb' 0 54
  match (s.forme s.ev.forme).gathers.find? (fun g => g.pc == pc && g.closed && decide (g.done ≤ s.cyc)) with
  | some g => .next (s.regroup s.ev.forme g)
  | none => .next s

end Sys2Proof.Machine
end

