-- ==== Sys2Proof/Machine/Access.lean ====
section
/-!
DEFINITION. How a word of a slug reaches memory, scratchpad, device registers, peers and the host: the checks of its elements
in the order of spec/09 R275, transactions' read and write sets (spec/11 R343 to R350), and the performing of its elements.
-/

namespace Sys2Proof.Machine

/-! ## Elements -/

/-- One element of a word: its lane (0 for a scalar form), the lane's virtual lane id, its address and bytes. -/
structure Elem where
  lane : Nat
  vlid : Nat
  va : Nat
  n : Nat
  deriving DecidableEq, Repr, Inhabited

/-- Where bytes of an element lie. -/
inductive Spot where
  | spad (fk off n : Nat)
  | mem (pa n va : Nat) (l : Leaf)
  deriving DecidableEq, Repr

/-- How a word accesses its elements: window or memory, the rights it needs, the code a SEALED page answers with, whether it
is `LD` or `ST` (which DEVREG pages accept), whether it may not touch a UO page (marks, atomics, reductions), its alignment
(1 for none), whether it is all-or-nothing, whether it is an atomic or reduction, and whether `HSKIP` may skip it. -/
structure How where
  win : Bool := false
  need : Need := .read
  sealedAs : BitVec 8 := 0x20
  dev : Bool := false
  noUo : Bool := false
  align : Nat := 1
  whole : Bool := false
  atomic : Bool := false
  red : Bool := false
  skips : Bool := true
  cas : Bool := false
  op : Nat := 0
  ty : Ty := .i32
  deriving DecidableEq, Repr, Inhabited

/-- The partition of a context. -/
def State.partOf (s : State) (c : Ctx) : Nat := (s.launchOf c).part

/-- What hotness sampling records of an access (spec/07 R241). -/
def State.hotInfo (s : State) (c : Ctx) (va : Nat) (l : Leaf) : HotInfo :=
  { hs := l.hs, part := l.part, tier := l.tier, va := va, world := (s.launchOf c).world, core := some c.core }

/-- The place of a fault among the failures of one element (R275). `TX_STATE` of a transaction stands beside rights. -/
def faultRank (code : BitVec 8) : Nat :=
  if code = 0x05 then 1 else if code = 0x10 then 2 else if code = 0x12 then 3 else if code = 0x42 then 4
  else if code = 0x11 then 5 else if code = 0x33 then 6 else if code = 0x20 ∨ code = 0x21 then 7
  else if code = 0x03 then 8 else 9

/-- The earlier of two faults in the order of R275. -/
def worse (a b : Flt) : Flt := if faultRank b.code < faultRank a.code then b else a

/-! ## Remote pages (spec/07 R232, spec/09 R284) -/

/-- The fabric ports that carry requests. -/
def State.portsUp (s : State) : List Nat := (s.ports.filter (fun e => e.2.enabled && e.2.up && !e.2.dropping)).map (·.1)

/-- A port goes on with the next key of its session (spec/14 R395). -/
def FabPort.rekey (t : FabPort) : FabPort := { t with keyNo := t.keyNo + 1, groups := 0 }

/-- The flit groups of a request or response about `n` bytes: one for its header, one for every 64 bytes (log entry 63). -/
def groupsOf (n : Nat) : Nat := 1 + (n + 63) / 64

/-- A port sends flit groups: a key encrypts at most 2^32 of them, and is replaced before the next one (spec/14 R395). -/
def FabPort.send (t : FabPort) (k : Nat) : FabPort :=
  let t := if 2 ^ 32 < t.groups + k then t.rekey else t
  { t with groups := t.groups + k }

/-- Whether a peer performs an access of `n` bytes: no port reaches it, or it is one of performed, unreachable, refused, and refused as an
access of a SEALED page, with the code `sealedAs` (spec/14 R400). The request leaves through some port. -/
def State.peerAnswer (s : State) (sealedAs : BitVec 8) (va n : Nat) (l : Leaf) : State × Option Flt :=
  let up := s.portsUp
  if up.isEmpty then (s, some { code := 0x10, reason := 0x05, va := va, d1 := l.hi })
  else
    let k := Config.choice s.fresh
    ({ s.tookFree with ports := s.ports.upd (up.getD (k / 4 % up.length) 0) (·.send (groupsOf n)) },
      if k % 4 = 1 then some { code := 0x10, reason := 0x05, va := va, d1 := l.hi }
      else if k % 4 = 2 then some { code := 0x11, reason := 0x07, va := va, d1 := l.hi }
      else if k % 4 = 3 then some { code := sealedAs, va := va } else none)

/-- Whether the host performs a read or atomic: a completion with an error status is "host refused". -/
def State.hostAnswer (s : State) (va : Nat) (l : Leaf) : State × Option Flt :=
  let k := Config.choice s.fresh % 2
  (s.tookFree, if k = 1 then some { code := 0x11, reason := 0x08, va := va, d1 := l.hi } else none)

/-- The atomics the host link carries (spec/09 R284): FetchAdd and Swap on 32 and 64 bits, compare-and-swap. Of the
float and packed types none is carried, `exch` included (DEDUCED; log entry 90). -/
def hostAtomic (h : How) : Bool :=
  !h.red && (h.cas || ((h.op == 0 || h.op == 6) && !h.ty.flt))

/-! ## Checks of one element -/

/-- The checks of bytes on one page (R275, spec/07 R221, R232, spec/14 R400). -/
def State.checkPiece (s : State) (c : Ctx) (h : How) (devOk : Bool) (va n : Nat) : State × Except Flt Spot :=
  match s.translate (some c.core) (s.partOf c) va n h.need with
  | (s, .error f) => (s, .error f)
  | (s, .ok (pa, l)) =>
    let ok : Except Flt Spot := .ok (.mem pa n va l)
    let rights : Except Flt Spot := .error { code := 0x11, reason := 0x0C, va := va, d1 := l.hi }
    if l.mt = 0 then (s, ok)
    else if l.mt = 1 then (s, .error { code := h.sealedAs, va := va })
    else if c.m.tx.isSome then (s, .error { code := 0x33, va := va })
    else if l.mt = 2 then (s, if devOk then ok else rights)
    else if l.mt = 3 then
      match s.peerAnswer h.sealedAs va n l with
      | (s, some f) => (s, .error f)
      | (s, none) => (s, ok)
    else if (h.atomic && !hostAtomic h) then (s, rights)
    else if h.need = .write then (s, ok)
    else match s.hostAnswer va l with
      | (s, some f) => (s, .error f)
      | (s, none) => (s, ok)

/-- The checks of an element: alignment, then its page or pages, or its window (R275). -/
def State.checkElem (s : State) (c : Ctx) (h : How) (e : Elem) : State × Except Flt (List Spot) :=
  if e.va % h.align ≠ 0 then
    (s, .error { code := 0x05, va := if h.win then 0 else e.va % 2 ^ 54, d1 := BitVec.ofNat 64 e.va })
  else if h.win then
    match s.window c.iss.fk e.va e.n with
    | .ok (k, o) => (s, .ok [.spad k o e.n])
    | .error f => (s, .error f)
  else
    let devOk := h.dev && (e.n == 4 || e.n == 8) && e.va % e.n == 0
    let k := 2 ^ 18 - e.va % 2 ^ 18
    if e.n ≤ k then
      match s.checkPiece c h devOk e.va e.n with
      | (s, .ok x) => (s, .ok [x])
      | (s, .error f) => (s, .error f)
    else
      match s.checkPiece c h devOk e.va k with
      | (s, .ok x) => match s.checkPiece c h devOk (e.va + k) (e.n - k) with
        | (s, .ok y) => (s, .ok [x, y])
        | (s, .error g) => (s, .error g)
      | (s, .error f) => match s.checkPiece c h devOk (e.va + k) (e.n - k) with
        | (s, .ok _) => (s, .error f)
        | (s, .error g) => (s, .error (worse f g))

/-- A UO page under an element, as the fault `ORD_KIND` (R257). -/
def State.onUo (s : State) (c : Ctx) (h : How) (e : Elem) : Option Flt :=
  if h.win || e.va % h.align ≠ 0 then none
  else
    let at' (va : Nat) : Option Flt := match s.leafFor (some c.core) va with
      | (_, .ok l) => if l.kind = .uo then some { code := 0x13, va := va, d1 := l.hi } else none
      | (_, .error _) => none
    match at' e.va with
    | some f => some f
    | none => if (e.va + e.n - 1) / 2 ^ 18 = e.va / 2 ^ 18 then none else at' ((e.va + e.n - 1) / 2 ^ 18 * 2 ^ 18)

/-- A checked element: where it lies, or why it is unfinished. -/
structure Checked where
  e : Elem
  r : Except Flt (List Spot)

/-- A check's answer with a further fault of the form's own. -/
def withExtra (x : Except Flt (List Spot)) (f : Option Flt) : Except Flt (List Spot) :=
  match x, f with
  | .ok y, none => .ok y
  | .ok _, some g => .error g
  | .error e, none => .error e
  | .error e, some g => .error (worse e g)

/-- All elements checked, one after the other; `extra` is what the form itself finds wrong with an element. -/
def State.checkAll (s : State) (c : Ctx) (h : How) (extra : Elem → Option Flt) (es : List Elem) : State × List Checked :=
  es.foldl (fun r e =>
    match r.1.checkElem c h e with
    | (s, x) => (s, r.2 ++ [{ e := e, r := withExtra x (extra e) }])) (s, [])

/-- The unfinished elements with their faults. -/
def failures (cs : List Checked) : List (Elem × Flt) :=
  cs.filterMap (fun k => match k.r with
    | .error f => some (k.e, f)
    | .ok _ => none)

/-- The elements that passed, with their places. -/
def passed (cs : List Checked) : List (Elem × List Spot) :=
  cs.filterMap (fun k => match k.r with
    | .ok x => some (k.e, x)
    | .error _ => none)

/-- The unfinished element of least virtual lane id; of two elements of one lane, data and scale bytes, the failure that comes first
in the order of R275 (R276). -/
def firstOf (l : List (Elem × Flt)) : Option (Elem × Flt) :=
  l.foldl (fun b x => match b with
    | none => some x
    | some y =>
      if x.1.vlid < y.1.vlid || (x.1.vlid == y.1.vlid && decide (faultRank x.2.code < faultRank y.2.code)) then some x else some y) none

/-- The lines of a place. -/
def Spot.lines : Spot → List LineRef
  | .spad fk o n => spadLines fk o n
  | .mem pa n _ l => if l.mt = 0 then (linesOf pa n).map (fun x => { line := x }) else []

/-! ## Transactional accesses (spec/11 R344, R345) -/

/-- How a transactional access of lines ends. -/
inductive Touch where
  | ok | wait | conflict | capacity
  deriving DecidableEq, Repr

/-- The distinct lines of a list. -/
def distinct (l : List LineRef) : List LineRef := l.foldl addNew []

/-- The innermost level changed. -/
def Tx.inner (t : Tx) (f : TxLevel → TxLevel) : Tx :=
  match t.levels with
  | l :: r => { t with levels := f l :: r }
  | [] => t

/-- A line enters the read or the write set of the innermost level. -/
def Tx.note (t : Tx) (l : LineRef) (write : Bool) : Tx :=
  if write then t.inner (fun v => { v with writes := addNew v.writes l })
  else { (t.inner (fun v => { v with reads := addNew v.reads l })) with seen := addNew t.seen l }

/-- The sets exceed their limits (R344). -/
def Tx.tooBig (t : Tx) : Bool :=
  decide (64 < (distinct (t.lines (·.reads))).length) || decide (32 < (distinct (t.lines (·.writes))).length)

/-- A transaction of slug `sl` touches one line (R344, R345): at the first touch its core's copy and every U partial of the line go
home, so that the access sees the line as its home holds it; older rivals make it the loser, younger ones abort. -/
def State.touchLine (s : State) (fk sl core : Nat) (l : LineRef) (write : Bool) : State × Touch :=
  match (s.slug fk sl).tx with
  | none => (s, .ok)
  | some t =>
    if (t.note l write).tooBig then (s, .capacity)
    else
      if (s.rivals fk sl l write).any (fun r => olderStamp r.2.2.stamp t.stamp) then (s, .conflict)
      else
        let first := !l.sp && !(t.readsLine l || t.writesLine l)
        if first && s.heldLine l && ((s.l1Line core l.line).dirty != 0 || s.anyPartial l.line) then (s, .wait)
        else
          let s := if first then (s.recall l.line).evict core l.line else s
          let s := (s.rivals fk sl l write).foldl (fun s r => s.conflictAbort r.1 r.2.1) s
          (s.modSlug fk sl (fun m => { m with tx := m.tx.map (fun t => t.note l write) }), .ok)

/-- A list of lines touched in order, until one of them cannot be. -/
def State.touchAll (s : State) (fk sl core : Nat) (write : Bool) : List LineRef → State × Touch
  | [] => (s, .ok)
  | l :: r => match s.touchLine fk sl core l write with
    | (s, .ok) => s.touchAll fk sl core write r
    | x => x

/-- The issuing transaction is the loser of a conflict: it restarts (R345, R349). -/
def State.loseTx (s : State) (c : Ctx) : State :=
  (s.modSlug c.iss.fk c.iss.sl (fun m => match m.tx with
    | some t => m.txRestart t 0x01 s.cyc
    | none => m)).drainAll

/-- The issuing transaction exceeds its capacity (R344, R349). -/
def State.overflowTx (s : State) (c : Ctx) : State :=
  (s.modSlug c.iss.fk c.iss.sl (fun m => match m.tx with
    | some t => m.txEnd t 0x30 s.cyc
    | none => m)).drainAll

/-- The lines of a word enter its transaction's sets; `none` when the word must not be performed. -/
def State.touchWord (s : State) (c : Ctx) (lines : List LineRef) (write : Bool) : State × Bool :=
  if c.m.tx.isNone then (s, true)
  else match s.touchAll c.iss.fk c.iss.sl c.core write (distinct lines) with
    | (s, .ok) => (s, true)
    | (s, .wait) => (s.hold, false)
    | (s, .conflict) => (s.loseTx c, false)
    | (s, .capacity) => (s.overflowTx c, false)

/-- A byte a transaction has buffered, the innermost level first. -/
def Tx.byte (t : Tx) (sp : Bool) (fk addr : Nat) : Option Byte :=
  (t.levels.findSome? (fun l => l.buf.find? (fun b => b.sp == sp && b.fk == fk && b.addr == addr))).map (·.val)

/-- A byte put into the innermost level's buffer. -/
def Tx.putByte (t : Tx) (b : TxByte) : Tx :=
  t.inner (fun l => { l with buf := l.buf.filter (fun x => !(x.sp == b.sp && x.fk == b.fk && x.addr == b.addr)) ++ [b] })

/-- Bytes with a transaction's buffered ones in their places. -/
def Tx.overlay (t : Tx) (sp : Bool) (fk addr : Nat) (bs : List Byte) : List Byte :=
  (List.range bs.length).map (fun i => (t.byte sp fk (addr + i)).getD (bs.getD i 0))

/-- Bytes buffered by the slug's transaction. -/
def State.txStore (s : State) (c : Ctx) (sp : Bool) (fk addr : Nat) (bs : List Byte) (h : HotInfo) : State :=
  s.modSlug c.iss.fk c.iss.sl (fun m => { m with tx := m.tx.map (fun t =>
    (List.range bs.length).foldl (fun t i =>
      t.putByte { sp := sp, fk := if sp then fk else 0, addr := addr + i, val := bs.getD i 0, hot := h }) t) })

/-! ## Performing -/

/-- Bytes within one page, split at lines: start and length of each part. -/
def lineParts (pa n : Nat) : List (Nat × Nat) :=
  (linesOf pa n).map (fun l => (max pa (l * 128), min (pa + n) ((l + 1) * 128) - max pa (l * 128)))

/-- Bytes that an agent outside supplies. -/
def State.outside (s : State) (n : Nat) : State × List Byte :=
  (s.tookFree, (List.range n).map (fun i => Config.freeByte (16 * s.fresh + i)))

/-- Read the bytes of a place; a transaction reads its lines as their homes hold them, which tracking keeps so, and L1 holds them
(spec/11 R344). -/
def State.readSpot (s : State) (c : Ctx) (x : Spot) : State × List Byte :=
  let t := (s.slug c.iss.fk c.iss.sl).tx
  match x with
  | .spad fk o n =>
    let bs := s.spadRead fk o n
    (s, match t with | some t => t.overlay true fk o bs | none => bs)
  | .mem pa n va l =>
    if l.mt = 2 then (s, s.barRead (pa / 2 ^ 18 % 64) (pa % 2 ^ 18) n)
    else if l.mt ≠ 0 then s.outside n
    else match t with
      | some t =>
        let s := (lineParts pa n).foldl (fun s p =>
          (s.l1Read c.core p.1 p.2 l.kind (s.hotInfo c (va + (p.1 - pa)) l)).1) s
        (s, t.overlay false 0 pa (s.physBytes pa n))
      | none =>
        (lineParts pa n).foldl (fun r p =>
          let y := r.1.l1Read c.core p.1 p.2 l.kind (s.hotInfo c (va + (p.1 - pa)) l)
          (y.1, r.2 ++ y.2)) (s, [])

/-- Read the bytes of an element. -/
def State.readSpots (s : State) (c : Ctx) (xs : List Spot) : State × List Byte :=
  xs.foldl (fun r x =>
    let y := r.1.readSpot c x
    (y.1, r.2 ++ y.2)) (s, [])

/-- The number of bytes of a place. -/
def Spot.size : Spot → Nat
  | .spad _ _ n => n
  | .mem _ n _ _ => n

/-- The issuing path, as the holder of a store that its home holds back. -/
def Ctx.holder (c : Ctx) : HeldBy := .path c.iss.fk c.iss.sl c.iss.b

/-- Write the bytes of a place: what a home holds back for the oldest transaction is performed later, the rest now (spec/08 R258). -/
def State.writeSpot (s : State) (c : Ctx) (x : Spot) (bs : List Byte) : State :=
  let inTx := (s.slug c.iss.fk c.iss.sl).tx.isSome
  match x with
  | .spad fk o _ => if inTx then s.txStore c true fk o bs {} else s.spadWrite fk o bs c.holder
  | .mem pa n va l =>
    if l.mt = 2 then s.barWrite (pa / 2 ^ 18 % 64) (pa % 2 ^ 18) bs true
    else if l.mt ≠ 0 then s
    else if inTx then s.txStore c false 0 pa bs (s.hotInfo c va l)
    else (lineParts pa n).foldl (fun s p =>
      s.l1Write c.core p.1 ((bs.drop (p.1 - pa)).take p.2) l.kind (s.hotInfo c (va + (p.1 - pa)) l) c.holder) s

/-- Write the bytes of an element, page by page (R258). -/
def State.writeSpots (s : State) (c : Ctx) (xs : List Spot) (bs : List Byte) : State :=
  (xs.foldl (fun (r : State × List Byte) x => (r.1.writeSpot c x (r.2.take x.size), r.2.drop x.size)) (s, bs)).1

/-- A word cannot perform an access of a line that its home holds for the oldest transaction (spec/11 R346): an atomic, which gives
back the old value; a read that would recall a U copy (spec/07 R231); an access before which the core's own partial or dirty
bytes of the line must go home (R228, R230). A store to the line does not wait: its home holds it. -/
def State.lineWaits (s : State) (c : Ctx) (h : How) (k : LineKind) (r : LineRef) : Bool :=
  let p := (s.core c.core).partials.look r.line
  let x := s.l1Line c.core r.line
  let enters := h.red && k == .rc
  s.heldLine r && ((h.atomic && !h.red)
    || (!r.sp && (
      (!p.cells.isEmpty && !(enters && p.op == h.op && p.ty == h.ty))
      || (x.dirty != 0 && (x.kind != k || h.red))
      || (h.need == .read && s.anyPartial r.line && !(x.valid && x.kind == k)))))

/-- A place at which a word outside any transaction has to wait. -/
def State.spotWaits (s : State) (c : Ctx) (h : How) (x : Spot) : Bool :=
  match x with
  | .spad _ _ _ => x.lines.any (s.lineWaits c h .so)
  | .mem _ _ _ l => x.lines.any (s.lineWaits c h l.kind)

/-- The elements of a word outside any transaction have to wait. -/
def State.wordWaits (s : State) (c : Ctx) (h : How) (good : List (Elem × List Spot)) : Bool :=
  c.m.tx.isNone && good.any (fun g => g.2.any (s.spotWaits c h))

/-! ## The gate of a memory word -/

/-- A fault of a memory word: all of it, or the lanes left unfinished (R275, spec/18 R453). -/
def memTrap (skips : Bool) (f : Flt) (vector : Bool) (mask : Mask) : TrapInfo :=
  { flt := f, mask := mask, mem := skips, scalar := !vector, part := if vector then some mask else none }

/-- The mask of the lanes of elements; every active lane for a form of one element (`VLDU`). -/
def lanesMask (c : Ctx) (one : Bool) (l : List (Elem × Flt)) : Mask :=
  if one then c.act else maskOf (l.map (·.1.lane))

/-- What a memory word may perform: the elements that passed, and the fault that follows them; `none` when the word is over (it
trapped, waits, or its transaction has ended). -/
def State.gate (s : State) (c : Ctx) (h : How) (vector one : Bool) (extra : Elem → Option Flt) (es : List Elem) :
    State × Option (List (Elem × List Spot) × Option (Flt × Mask)) :=
  let uo := if h.noUo then firstOf (es.filterMap (fun e => (s.onUo c h e).map (fun f => (e, f)))) else none
  match uo with
  | some x => (s.trap c (memTrap h.skips x.2 vector c.act), none)
  | none =>
    match s.checkAll c h extra es with
    | (s, cs) =>
      let bad := failures cs
      let good := passed cs
      match firstOf bad with
      | some x =>
        if h.whole || !vector || one || (!c.m.tx.isNone) then
          (s.trap c (memTrap h.skips x.2 vector (if h.whole then c.act else lanesMask c one bad)), none)
        else if s.wordWaits c h good then (s.hold, none)
        else (s, some (good, some (x.2, lanesMask c one bad)))
      | none =>
        if s.wordWaits c h good then (s.hold, none)
        else match s.touchWord c (good.flatMap (fun g => g.2.flatMap Spot.lines)) (h.need != .read) with
          | (s, true) => (s, some (good, none))
          | (s, false) => (s, none)

/-- A scalar result of a word that also changes memory or a queue: `after` is the state with those changes; a pinned register
that would change faults before them (spec/15 R417); `mem` as in `pinTrap`. -/
def State.finishPinned (s : State) (c : Ctx) (mem : Bool) (after : State) (n : Nat) (x : Word) : State :=
  if s.pinBlocks c n x then s.trap c (pinTrap c n x mem) else (after.modCur (·.writeG n x)).retire c

/-- The end of a memory word: it retires, or its unfinished lanes fault (R275). -/
def State.closeWord (s : State) (c : Ctx) (bad : Option (Flt × Mask)) : State :=
  match bad with
  | none => s.retire c
  | some (f, k) => s.trap c (memTrap true f true k)

end Sys2Proof.Machine
end

