-- ==== Sys2Proof/Machine/ScalarInt.lean ====
section
/-!
DEFINITION. The scalar integer instructions (spec/05 R142 to R146, spec/04 R122).
-/

namespace Sys2Proof.Machine

/-! ## Values -/

/-- A value read at a type's width: signed for `.i`, unsigned for `.n` (R142). -/
def sVal (t : Ty) (x : Word) : Int :=
  match t with
  | .i64 => x.toInt
  | .n64 => x.toNat
  | .i32 => (x.extractLsb' 0 32).toInt
  | _ => (x.extractLsb' 0 32).toNat

/-- A result as a scalar register holds it (R142). -/
def sExt (t : Ty) (y : Word) : Word :=
  match t with
  | .i32 => (y.extractLsb' 0 32).signExtend 64
  | .n32 => (y.extractLsb' 0 32).zeroExtend 64
  | _ => y

/-- The quotient of R122 at a width, of values read signed or unsigned. -/
def divVal (signed : Bool) (w : Nat) (x y : Int) : Int :=
  if y = 0 then (if signed then -1 else 2 ^ w - 1) else x.tdiv y

/-- The remainder of R122. -/
def remVal (x y : Int) : Int := if y = 0 then x else x.tmod y

/-- The number of zeros above the highest one bit, at a width. -/
def clzN (w x : Nat) : Nat := if x = 0 then w else w - 1 - x.log2

/-- The zeros below the lowest one bit, counted from bit `i` on. -/
def ctzFrom (x : Nat) : Nat → Nat → Nat
  | 0, i => i
  | n + 1, i => if x.testBit i then i else ctzFrom x n (i + 1)

/-- The number of one bits. -/
def popN (w x : Nat) : Nat := (List.range w).foldl (fun n i => if x.testBit i then n + 1 else n) 0

/-- The bits of a width in reverse order. -/
def brevN (w x : Nat) : Nat := (List.range w).foldl (fun n i => if x.testBit i then n + 2 ^ (w - 1 - i) else n) 0

/-- The result y of a scalar integer operation at its type (R143, R144, R122). `old` is the destination as it stood. -/
def sopVal (o : SOp) (t : Ty) (imm : BitVec 14) (old a b : Word) : Word :=
  let w := t.bits
  let x := sVal t a
  let y := sVal t b
  let un := (a.toNat) % 2 ^ w
  let vn := (b.toNat) % 2 ^ w
  let k := vn % w
  let pos := (imm.extractLsb' 8 6).toNat
  let len := (imm.extractLsb' 0 7).toNat
  let i (z : Int) : Word := BitVec.ofInt 64 z
  let n (z : Nat) : Word := BitVec.ofNat 64 (z % 2 ^ w)
  sExt t (match o with
    | .add => i (x + y)
    | .sub => i (x - y)
    | .mul => i (x * y)
    | .mulh => i (x * y / 2 ^ w)
    | .shl => n (un * 2 ^ k)
    | .shr => n (un / 2 ^ k)
    | .sar => i ((if t.bits = 64 then a.toInt else (a.extractLsb' 0 32).toInt) / 2 ^ k)
    | .rol => n (un * 2 ^ k + un / 2 ^ (w - k))
    | .ror => n (un / 2 ^ k + un * 2 ^ (w - k))
    | .and => a &&& b
    | .or => a ||| b
    | .xor => a ^^^ b
    | .andn => a &&& ~~~b
    | .not => ~~~a
    | .min => if x ≤ y then a else b
    | .max => if y ≤ x then a else b
    | .abs => i (if x < 0 then -x else x)
    | .neg => i (-x)
    | .div => i (divVal t.signed w x y)
    | .rem => i (remVal x y)
    | .clz => n (clzN w un)
    | .ctz => n (ctzFrom un w 0)
    | .popc => n (popN w un)
    | .brev => n (brevN w un)
    | .cmp => if intCond (imm.extractLsb' 0 3).toNat x y then 1 else 0
    | .bfx =>
      let f := un / 2 ^ pos % 2 ^ len
      if t.signed && f.testBit (len - 1) then i ((f : Int) - 2 ^ len) else n f
    | .bfi =>
      let d := old.toNat % 2 ^ w
      n (d / 2 ^ (pos + len) * 2 ^ (pos + len) + un % 2 ^ len * 2 ^ pos + d % 2 ^ pos)
    | .mov => a)

/-- A scalar result into its destination: a predicate register is written whole (R145); a `g` register may be pinned
(spec/15 R417). -/
def State.finishS (s : State) (c : Ctx) (d : Opnd) (x : Word) : State :=
  match d with
  | .p n => (s.modCur (·.writeP n.toNat 0xFFFFFFFF (x.extractLsb' 0 32))).retire c
  | d => s.finishG c d.num x

/-- A scalar integer word. -/
def scalarInt (o : SOp) (w : Ops) (m : AluMod) (s : State) : Out :=
  scalarWord w.h s (fun c =>
    let old := c.m.srcG w m.imm w.d
    s.finishS c w.d (sopVal o m.ty m.imm old (c.m.srcG w m.imm w.a) (c.m.srcG w m.imm w.b)))

/-! ## Meanings -/

def execAdd (w : Ops) (m : AluMod) (s : State) : Out := scalarInt .add w m s
def execSub (w : Ops) (m : AluMod) (s : State) : Out := scalarInt .sub w m s
def execMul (w : Ops) (m : AluMod) (s : State) : Out := scalarInt .mul w m s
def execMulh (w : Ops) (m : AluMod) (s : State) : Out := scalarInt .mulh w m s
def execShl (w : Ops) (m : AluMod) (s : State) : Out := scalarInt .shl w m s
def execShr (w : Ops) (m : AluMod) (s : State) : Out := scalarInt .shr w m s
def execSar (w : Ops) (m : AluMod) (s : State) : Out := scalarInt .sar w m s
def execRol (w : Ops) (m : AluMod) (s : State) : Out := scalarInt .rol w m s
def execRor (w : Ops) (m : AluMod) (s : State) : Out := scalarInt .ror w m s
def execAnd (w : Ops) (m : AluMod) (s : State) : Out := scalarInt .and w m s
def execOr (w : Ops) (m : AluMod) (s : State) : Out := scalarInt .or w m s
def execXor (w : Ops) (m : AluMod) (s : State) : Out := scalarInt .xor w m s
def execAndn (w : Ops) (m : AluMod) (s : State) : Out := scalarInt .andn w m s
def execNot (w : Ops) (m : AluMod) (s : State) : Out := scalarInt .not w m s
def execMin (w : Ops) (m : AluMod) (s : State) : Out := scalarInt .min w m s
def execMax (w : Ops) (m : AluMod) (s : State) : Out := scalarInt .max w m s
def execAbs (w : Ops) (m : AluMod) (s : State) : Out := scalarInt .abs w m s
def execNeg (w : Ops) (m : AluMod) (s : State) : Out := scalarInt .neg w m s
def execDiv (w : Ops) (m : AluMod) (s : State) : Out := scalarInt .div w m s
def execRem (w : Ops) (m : AluMod) (s : State) : Out := scalarInt .rem w m s
def execClz (w : Ops) (m : AluMod) (s : State) : Out := scalarInt .clz w m s
def execCtz (w : Ops) (m : AluMod) (s : State) : Out := scalarInt .ctz w m s
def execPopc (w : Ops) (m : AluMod) (s : State) : Out := scalarInt .popc w m s
def execBrev (w : Ops) (m : AluMod) (s : State) : Out := scalarInt .brev w m s
def execCmp (w : Ops) (m : AluMod) (s : State) : Out := scalarInt .cmp w m s
def execBfx (w : Ops) (m : AluMod) (s : State) : Out := scalarInt .bfx w m s
def execBfi (w : Ops) (m : AluMod) (s : State) : Out := scalarInt .bfi w m s
def execMov (w : Ops) (m : AluMod) (s : State) : Out := scalarInt .mov w m s

end Sys2Proof.Machine
end

