-- ==== Sys2Proof/Machine/VectorInt.lean ====
section
/-!
DEFINITION. The vector integer instructions (spec/05 R147, R148, spec/04 R122).
-/

namespace Sys2Proof.Machine

/-- A vector result: written in the active lanes, and the word is retired (spec/02 R54). -/
def State.finishV (s : State) (c : Ctx) (n : Nat) (f : Fin 32 → Lane) : State := (s.modCur (·.writeV n c.act f)).retire c

/-- A predicate result: the active lanes' bits are written, and the word is retired. -/
def State.finishP (s : State) (c : Ctx) (n : Nat) (x : Mask) : State := (s.modCur (·.writeP n c.act x)).retire c

/-- A lane value read at a type. -/
def lInt (t : Ty) (x : Lane) : Int := if t = .i32 then x.toInt else x.toNat

/-- A value clamped to the range of a 32-bit type (R147, Sat of spec/00 R8). -/
def satLane (t : Ty) (x : Int) : Lane :=
  let lo : Int := if t = .i32 then -2 ^ 31 else 0
  let hi : Int := if t = .i32 then 2 ^ 31 - 1 else 2 ^ 32 - 1
  BitVec.ofInt 32 (max lo (min hi x))

/-- The sum of the byte differences of two lanes (R147). -/
def sadLane (a b : Lane) : Nat :=
  (List.range 4).foldl (fun n i =>
    n + ((a.toNat / 256 ^ i % 256 : Int) - (b.toNat / 256 ^ i % 256 : Nat)).natAbs) 0

/-- The value y of a vector integer operation in one lane (R147, R148): `d` is the old destination lane, `q` the lane's bit of
the predicate that `VSEL` names. -/
def viVal (o : VIOp) (t : Ty) (imm : BitVec 14) (q : Bool) (d a b : Lane) : Lane :=
  let x := lInt t a
  let y := lInt t b
  let k := b.toNat % 32
  let pos := (imm.extractLsb' 8 6).toNat
  let len := (imm.extractLsb' 0 7).toNat
  let i (z : Int) : Lane := BitVec.ofInt 32 z
  match o with
  | .add => a + b
  | .sub => a - b
  | .mul => a * b
  | .cmp => 0
  | .mulh => i (x * y / 2 ^ 32)
  | .mad => a * b + d
  | .shl => a <<< k
  | .shr => a >>> k
  | .sar => a.sshiftRight k
  | .and => a &&& b
  | .or => a ||| b
  | .xor => a ^^^ b
  | .andn => a &&& ~~~b
  | .not => ~~~a
  | .min => if x ≤ y then a else b
  | .max => if y ≤ x then a else b
  | .abs => i (x.natAbs)
  | .neg => -a
  | .adds => satLane t (x + y)
  | .subs => satLane t (x - y)
  | .div => i (divVal (decide (t = .i32)) 32 x y)
  | .rem => i (remVal x y)
  | .clz => BitVec.ofNat 32 (clzN 32 a.toNat)
  | .popc => BitVec.ofNat 32 (popN 32 a.toNat)
  | .brev => BitVec.ofNat 32 (brevN 32 a.toNat)
  | .sel => if q then a else b
  | .bfx =>
    let f := a.toNat / 2 ^ pos % 2 ^ len
    if t = .i32 && f.testBit (len - 1) then i ((f : Int) - 2 ^ len) else BitVec.ofNat 32 f
  | .bfi =>
    let n := d.toNat
    BitVec.ofNat 32 (n / 2 ^ (pos + len) * 2 ^ (pos + len) + a.toNat % 2 ^ len * 2 ^ pos + n % 2 ^ pos)
  | .mov => a
  | .sad => d + BitVec.ofNat 32 (sadLane a b)

/-- A vector integer word with a vector destination. -/
def vectorInt (o : VIOp) (w : Ops) (m : AluMod) (s : State) : Out :=
  vectorWord w.h s (fun c =>
    let q := c.m.readP (m.imm.extractLsb' 0 4).toNat
    let old := c.m.readV w.d.num
    s.finishV c w.d.num (fun i =>
      viVal o m.ty m.imm (q.getLsbD i.val) old[i] (c.m.srcV w m.imm m.ty w.a i) (c.m.srcV w m.imm m.ty w.b i)))

/-- `VCMP` on integers (R148). -/
def vectorCmpInt (w : Ops) (m : AluMod) (s : State) : Out :=
  vectorWord w.h s (fun c =>
    s.finishP c w.d.num (maskFn (fun i =>
      intCond (m.imm.extractLsb' 0 3).toNat (lInt m.ty (c.m.srcV w m.imm m.ty w.a i)) (lInt m.ty (c.m.srcV w m.imm m.ty w.b i)))))

/-! ## Meanings -/

def execVaddInt (w : Ops) (m : AluMod) (s : State) : Out := vectorInt .add w m s
def execVsubInt (w : Ops) (m : AluMod) (s : State) : Out := vectorInt .sub w m s
def execVmulInt (w : Ops) (m : AluMod) (s : State) : Out := vectorInt .mul w m s
def execVcmpInt (w : Ops) (m : AluMod) (s : State) : Out := vectorCmpInt w m s
def execVmulh (w : Ops) (m : AluMod) (s : State) : Out := vectorInt .mulh w m s
def execVmad (w : Ops) (m : AluMod) (s : State) : Out := vectorInt .mad w m s
def execVshl (w : Ops) (m : AluMod) (s : State) : Out := vectorInt .shl w m s
def execVshr (w : Ops) (m : AluMod) (s : State) : Out := vectorInt .shr w m s
def execVsar (w : Ops) (m : AluMod) (s : State) : Out := vectorInt .sar w m s
def execVand (w : Ops) (m : AluMod) (s : State) : Out := vectorInt .and w m s
def execVor (w : Ops) (m : AluMod) (s : State) : Out := vectorInt .or w m s
def execVxor (w : Ops) (m : AluMod) (s : State) : Out := vectorInt .xor w m s
def execVandn (w : Ops) (m : AluMod) (s : State) : Out := vectorInt .andn w m s
def execVnot (w : Ops) (m : AluMod) (s : State) : Out := vectorInt .not w m s
def execVminInt (w : Ops) (m : AluMod) (s : State) : Out := vectorInt .min w m s
def execVmaxInt (w : Ops) (m : AluMod) (s : State) : Out := vectorInt .max w m s
def execVabsInt (w : Ops) (m : AluMod) (s : State) : Out := vectorInt .abs w m s
def execVnegInt (w : Ops) (m : AluMod) (s : State) : Out := vectorInt .neg w m s
def execVadds (w : Ops) (m : AluMod) (s : State) : Out := vectorInt .adds w m s
def execVsubs (w : Ops) (m : AluMod) (s : State) : Out := vectorInt .subs w m s
def execVdivInt (w : Ops) (m : AluMod) (s : State) : Out := vectorInt .div w m s
def execVrem (w : Ops) (m : AluMod) (s : State) : Out := vectorInt .rem w m s
def execVclz (w : Ops) (m : AluMod) (s : State) : Out := vectorInt .clz w m s
def execVpopc (w : Ops) (m : AluMod) (s : State) : Out := vectorInt .popc w m s
def execVbrev (w : Ops) (m : AluMod) (s : State) : Out := vectorInt .brev w m s
def execVselInt (w : Ops) (m : AluMod) (s : State) : Out := vectorInt .sel w m s
def execVbfx (w : Ops) (m : AluMod) (s : State) : Out := vectorInt .bfx w m s
def execVbfi (w : Ops) (m : AluMod) (s : State) : Out := vectorInt .bfi w m s
def execVmovInt (w : Ops) (m : AluMod) (s : State) : Out := vectorInt .mov w m s
def execVsad (w : Ops) (m : AluMod) (s : State) : Out := vectorInt .sad w m s

end Sys2Proof.Machine
end

