-- ==== Sys2Proof/Machine/VectorFloat.lean ====
section
/-!
DEFINITION. The vector float instructions (spec/05 R150 to R153): every element exactly, then rounded once.
-/

namespace Sys2Proof.Machine

/-! ## Elements -/

/-- A function on the elements of three lanes (spec/04 R115). -/
def perElem (t : Ty) (f : FFmt → Nat → Nat → Nat → Nat) (d a b : Nat) : Nat :=
  match t with
  | .f16x2 | .bf16x2 =>
    f t.ffmt (d % 2 ^ 16) (a % 2 ^ 16) (b % 2 ^ 16)
      + 2 ^ 16 * f t.ffmt (d / 2 ^ 16 % 2 ^ 16) (a / 2 ^ 16 % 2 ^ 16) (b / 2 ^ 16 % 2 ^ 16)
  | _ => f .f32 d a b

/-- `VMIN` and `VMAX` of two encoded elements (R152). -/
def minMax (max : Bool) (f : FFmt) (x y : Nat) : Nat :=
  if (FVal.decode f x).isNan || (FVal.decode f y).isNan then f.nanCode
  else if max then maxNBits f x y else minNBits f x y

/-- `VMINM` and `VMAXM` (R152): by magnitude, and at equal magnitudes as `VMIN` and `VMAX`. -/
def minMaxMag (max : Bool) (f : FFmt) (x y : Nat) : Nat :=
  match FVal.cmp (FVal.decode f x).abs (FVal.decode f y).abs with
  | none => f.nanCode
  | some .lt => if max then y else x
  | some .gt => if max then x else y
  | some .eq => minMax max f x y

/-- An element with its sign bit set to a value; a NaN becomes canonical (R151). -/
def withSign (f : FFmt) (neg : Bool) (x : Nat) : Nat :=
  if (FVal.decode f x).isNan then f.nanCode else x % f.signBit + (if neg then f.signBit else 0)

/-- The exact expression of a rounding form on one element (R151). -/
def vfExpr (o : VFOp) (rdn : Bool) (d a b : FVal) : FVal :=
  match o with
  | .add => FVal.add rdn a b
  | .sub => FVal.add rdn a b.neg
  | .mul => FVal.mul a b
  | .fma => FVal.add rdn (FVal.mul a b) d
  | .fms => FVal.add rdn (FVal.mul a b) d.neg
  | .fnma => FVal.add rdn (FVal.mul a b).neg d
  | .fnms => FVal.add rdn (FVal.mul a b).neg d.neg
  | .div => FVal.div a b
  | .abd => (FVal.add rdn a b.neg).abs
  | .lerp => FVal.add rdn d (FVal.mul a (FVal.add rdn b d.neg))
  | _ => a

/-- One element of a vector float form (R150 to R152). -/
def vfElem (o : VFOp) (rm : RM) (f : FFmt) (d a b : Nat) : Nat :=
  let rounded : Nat :=
    FVal.round f rm false (vfExpr o (rm == .rdn) (FVal.decode f d) (FVal.decode f a) (FVal.decode f b))
  match o with
  | .min => minMax false f a b
  | .max => minMax true f a b
  | .minn => minNBits f a b
  | .maxn => maxNBits f a b
  | .minm => minMaxMag false f a b
  | .maxm => minMaxMag true f a b
  | .abs => withSign f false a
  | .neg => withSign f (a / f.signBit % 2 == 0) a
  | .cpsgn => if (FVal.decode f b).isNan then f.nanCode else withSign f (b / f.signBit % 2 == 1) a
  | .clamp => minNBits f (maxNBits f d a) b
  | .sel | .mov | .cmp | .dot2 => a
  | _ => rounded

/-- `VDOT2` in one lane (R151): two products and the F32 sum, rounded once. -/
def dot2Lane (t : Ty) (rm : RM) (d a b : Nat) : Nat :=
  let f := t.ffmt
  let p (k : Nat) : FVal := FVal.mul (FVal.decode f (a / 2 ^ (16 * k) % 2 ^ 16)) (FVal.decode f (b / 2 ^ (16 * k) % 2 ^ 16))
  let rdn := rm == .rdn
  FVal.round .f32 rm false (FVal.add rdn (FVal.add rdn (FVal.decode .f32 d) (p 0)) (p 1))

/-- The value of a vector float form in one lane; `q` is the lane's bit of the predicate that `VSEL` names. -/
def vfVal (o : VFOp) (t : Ty) (rm : RM) (q : Bool) (d a b : Lane) : Lane :=
  match o with
  | .sel => if q then a else b
  | .mov => a
  | .dot2 => BitVec.ofNat 32 (dot2Lane t rm d.toNat a.toNat b.toNat)
  | o => BitVec.ofNat 32 (perElem t (vfElem o rm) d.toNat a.toNat b.toNat)

/-- A vector float word with a vector destination. -/
def vectorFloat (o : VFOp) (w : Ops) (m : AluMod) (s : State) : Out :=
  vectorWord w.h s (fun c =>
    let q := c.m.readP (m.imm.extractLsb' 0 4).toNat
    let old := c.m.readV w.d.num
    s.finishV c w.d.num (fun i =>
      vfVal o m.ty m.rm (q.getLsbD i.val) old[i] (c.m.srcV w m.imm m.ty w.a i) (c.m.srcV w m.imm m.ty w.b i)))

/-- The compared element of a lane (R153). -/
def cmpElem (t : Ty) (elt : Bool) (x : Lane) : FVal :=
  match t with
  | .f16x2 | .bf16x2 => FVal.decode t.ffmt (x.toNat / (if elt then 2 ^ 16 else 1) % 2 ^ 16)
  | _ => FVal.decode .f32 x.toNat

/-- `VCMP` on floats (R153). -/
def vectorCmpFloat (w : Ops) (m : AluMod) (s : State) : Out :=
  vectorWord w.h s (fun c =>
    s.finishP c w.d.num (maskFn (fun i =>
      fltCond (m.imm.extractLsb' 0 3).toNat (cmpElem m.ty (m.imm.getLsbD 3) (c.m.srcV w m.imm m.ty w.a i))
        (cmpElem m.ty (m.imm.getLsbD 3) (c.m.srcV w m.imm m.ty w.b i)))))

/-! ## Meanings -/

def execVaddFloat (w : Ops) (m : AluMod) (s : State) : Out := vectorFloat .add w m s
def execVsubFloat (w : Ops) (m : AluMod) (s : State) : Out := vectorFloat .sub w m s
def execVmulFloat (w : Ops) (m : AluMod) (s : State) : Out := vectorFloat .mul w m s
def execVfma (w : Ops) (m : AluMod) (s : State) : Out := vectorFloat .fma w m s
def execVcmpFloat (w : Ops) (m : AluMod) (s : State) : Out := vectorCmpFloat w m s
def execVfms (w : Ops) (m : AluMod) (s : State) : Out := vectorFloat .fms w m s
def execVfnma (w : Ops) (m : AluMod) (s : State) : Out := vectorFloat .fnma w m s
def execVfnms (w : Ops) (m : AluMod) (s : State) : Out := vectorFloat .fnms w m s
def execVminFloat (w : Ops) (m : AluMod) (s : State) : Out := vectorFloat .min w m s
def execVmaxFloat (w : Ops) (m : AluMod) (s : State) : Out := vectorFloat .max w m s
def execVminn (w : Ops) (m : AluMod) (s : State) : Out := vectorFloat .minn w m s
def execVmaxn (w : Ops) (m : AluMod) (s : State) : Out := vectorFloat .maxn w m s
def execVminm (w : Ops) (m : AluMod) (s : State) : Out := vectorFloat .minm w m s
def execVmaxm (w : Ops) (m : AluMod) (s : State) : Out := vectorFloat .maxm w m s
def execVabsFloat (w : Ops) (m : AluMod) (s : State) : Out := vectorFloat .abs w m s
def execVnegFloat (w : Ops) (m : AluMod) (s : State) : Out := vectorFloat .neg w m s
def execVcpsgn (w : Ops) (m : AluMod) (s : State) : Out := vectorFloat .cpsgn w m s
def execVdivFloat (w : Ops) (m : AluMod) (s : State) : Out := vectorFloat .div w m s
def execVselFloat (w : Ops) (m : AluMod) (s : State) : Out := vectorFloat .sel w m s
def execVmovFloat (w : Ops) (m : AluMod) (s : State) : Out := vectorFloat .mov w m s
def execVdot2 (w : Ops) (m : AluMod) (s : State) : Out := vectorFloat .dot2 w m s
def execVclamp (w : Ops) (m : AluMod) (s : State) : Out := vectorFloat .clamp w m s
def execVabd (w : Ops) (m : AluMod) (s : State) : Out := vectorFloat .abd w m s
def execVlerp (w : Ops) (m : AluMod) (s : State) : Out := vectorFloat .lerp w m s

end Sys2Proof.Machine
end

