-- ==== Sys2Proof/Machine/Convert.lean ====
section
/-!
DEFINITION. The conversion instructions (spec/04 R123 to R134), with stochastic rounding (R119 to R121).
-/

namespace Sys2Proof

/-- The format of a float type code (spec/04 R107). -/
def CTy.ffmt : CTy → FFmt
  | .e8m10 => .e8m10
  | .bf16 => .bf16
  | .f16 => .f16
  | .e5m2 => .e5m2
  | .e4m3 => .e4m3
  | .e3m4 => .e3m4
  | .e3m2 => .e3m2
  | .e2m3 => .e2m3
  | .e2m1 => .e2m1
  | _ => .f32

/-- The least and the greatest value of an integer type (R109). -/
def CTy.least (t : CTy) : Int := if t.signed then -2 ^ (t.width - 1) else 0
def CTy.greatest (t : CTy) : Int := if t.signed then 2 ^ (t.width - 1) - 1 else 2 ^ t.width - 1

/-- The value of an element: a float, or an integer. -/
inductive CVal where
  | flt (v : FVal)
  | int (i : Int)
  deriving DecidableEq, Repr, Inhabited

/-- The value of encoded bits of a type. -/
def CTy.value (t : CTy) (bits : Nat) : CVal :=
  if t.isFloat then .flt (FVal.decode t.ffmt bits)
  else
    let n := bits % 2 ^ t.width
    .int (if t.signed && n.testBit (t.width - 1) then (n : Int) - 2 ^ t.width else n)

end Sys2Proof

namespace Sys2Proof.Machine

/-! ## Values and fields (R125) -/

/-- The first bit of the field at a position. -/
def fieldLo (w p : Nat) : Nat := if w = 16 then 16 * p else if w = 32 ∨ w = 64 then 0 else 8 * p

/-- The bits of the field of width `w` at a position. -/
def readField (w p x : Nat) : Nat := x / 2 ^ fieldLo w p % 2 ^ w

/-- The field written: of 6, 4 or 2 bits with zeros in its byte's other bits. -/
def writeField (w p old y : Nat) : Nat :=
  if w = 32 ∨ w = 64 then y
  else
    let n := if w = 16 then 16 else 8
    let lo := fieldLo w p
    old / 2 ^ (lo + n) * 2 ^ (lo + n) + y % 2 ^ w * 2 ^ lo + old % 2 ^ lo

/-- A value rounded to an integer (R126, R130). -/
def roundInt (rm : RM) (s : Bool) (m : Nat) (e : Int) : Int :=
  let k : Nat :=
    if 0 ≤ e then m * 2 ^ e.toNat
    else
      let d := (-e).toNat
      if FVal.roundUp rm s (m / 2 ^ d) (m % 2 ^ d) d then m / 2 ^ d + 1 else m / 2 ^ d
  if s then -(k : Int) else k

/-- A value converted to a type: the bits, and the generator afterwards (R126, R120). -/
def convert (df : CTy) (rm : RM) (sat : Bool) (g : Word) (x : CVal) : Nat × Word :=
  if df.isFloat then
    let v := match x with
      | .flt v => v
      | .int i => FVal.ofInt i
    if rm = .sr then FVal.roundSR df.ffmt sat g v else (FVal.round df.ffmt rm sat v, g)
  else
    let clamp (i : Int) : Int := max df.least (min df.greatest i)
    let bits (i : Int) : Nat := (i % 2 ^ df.width).toNat
    (match x with
      | .flt .nan => 0
      | .flt (.inf s) => bits (if s then df.least else df.greatest)
      | .flt (.fin s m e) => bits (clamp (roundInt rm s m e))
      | .int i => bits (if sat then clamp i else i), g)

/-! ## Operands -/

/-- A source of a conversion in one lane, as 64 bits (R76, R123): a small constant stands for its value in the source
type; one that the type cannot hold is the exact integer for a float type and its low bits for an integer type (DESIGN CHOICE,
log entry 85). -/
def Slug.srcC (m : Slug) (w : Ops) (sf : CTy) (o : Opnd) (i : Fin 32) : CVal ⊕ Nat :=
  match o with
  | .v n => .inr (if sf.width = 64 then (m.readV n.toNat)[i].toNat + 2 ^ 32 * (m.readV (n.toNat + 1))[i].toNat
                  else (m.readV n.toNat)[i].toNat)
  | .g n => .inr (if sf.width = 64 then (m.readG n.toNat).toNat else (m.readG n.toNat).toNat % 2 ^ 32)
  | .const n => .inl (if sf.isFloat then .flt (FVal.ofInt n.toInt) else sf.value (n.toInt % 2 ^ 64).toNat)
  | o => .inr ((m.srcV w 0 .n32 o i).toNat)

/-- The value a source holds in a field. -/
def fieldVal (sf : CTy) (p : Nat) (x : CVal ⊕ Nat) : CVal :=
  match x with
  | .inl v => v
  | .inr n => sf.value (readField sf.width p n)

/-- One lane of `CVT`: the new destination, of 64 bits for a register pair, and the generator (R126). -/
def cvtLane (df sf : CTy) (rm : RM) (sat : Bool) (dpos spos : Nat) (g : Word) (x : CVal ⊕ Nat) (old : Nat) : Nat × Word :=
  let r := convert df rm sat g (fieldVal sf spos x)
  (writeField df.width dpos old r.1, r.2)

/-- The active lanes in ascending plane, each with its new value, the generator threaded through them (R120). -/
def foldLanes (act : Mask) (g : Word) (f : Fin 32 → Word → Nat × Word) : List (Nat × Nat) × Word :=
  (List.finRange 32).foldl (fun r i =>
    if act.getLsbD i.val then
      let y := f i r.2
      (r.1 ++ [(i.val, y.1)], y.2)
    else r) ([], g)

/-- The value of a lane in a list of lanes. -/
def laneOf (l : List (Nat × Nat)) (i : Fin 32) : Nat := ((l.find? (fun e => e.1 == i.val)).map (·.2)).getD 0

/-- The destination lanes, one register or a pair. -/
def Slug.writeWide (m : Slug) (n : Nat) (wide : Bool) (act : Mask) (l : List (Nat × Nat)) : Slug :=
  let u := m.writeV n act (fun i => BitVec.ofNat 32 (laneOf l i))
  if wide then u.writeV (n + 1) act (fun i => BitVec.ofNat 32 (laneOf l i / 2 ^ 32)) else u

/-- `CVT` (R126). -/
def execCvt (w : Ops) (m : CnvMod) (s : State) : Out :=
  vectorWord w.h s (fun c =>
    match CTy.ofCode m.df, CTy.ofCode m.sf with
    | some df, some sf =>
      let n := w.d.num
      let r := foldLanes c.act c.m.srg (fun i g =>
        cvtLane df sf m.rm m.sat (m.pos.extractLsb' 4 2).toNat (m.pos.extractLsb' 2 2).toNat g (c.m.srcC w sf w.a i)
          (c.m.readV n)[i].toNat)
      (s.modCur (fun u => { (u.writeWide n (df.width == 64) c.act r.1) with srg := r.2 })).retire c
    | _, _ => s.retire c)

/-- `PACK` (R127). -/
def execPack (w : Ops) (m : CnvMod) (s : State) : Out :=
  vectorWord w.h s (fun c =>
    match CTy.ofCode m.df, CTy.ofCode m.sf with
    | some df, some sf =>
      let k := (m.pos.extractLsb' 3 3).toNat
      let n := df.width
      let lo := 2 * n * k
      s.finishV c w.d.num (fun i =>
        let y0 := (convert df m.rm m.sat 0 (fieldVal sf 0 (c.m.srcC w sf w.a i))).1
        let y1 := (convert df m.rm m.sat 0 (fieldVal sf 0 (c.m.srcC w sf w.b i))).1
        let old := (c.m.readV w.d.num)[i].toNat
        BitVec.ofNat 32 (old / 2 ^ (lo + 2 * n) * 2 ^ (lo + 2 * n) + (y0 + 2 ^ n * y1) * 2 ^ lo + old % 2 ^ lo))
    | _, _ => s.retire c)

/-- `UNPACK` (R128). -/
def execUnpack (w : Ops) (m : CnvMod) (s : State) : Out :=
  vectorWord w.h s (fun c =>
    match CTy.ofCode m.df, CTy.ofCode m.sf with
    | some df, some sf =>
      let e := (m.pos.extractLsb' 2 4).toNat
      s.finishV c w.d.num (fun i =>
        let x := (c.m.srcV w 0 .n32 w.a i).toNat / 2 ^ (sf.width * e) % 2 ^ sf.width
        BitVec.ofNat 32 (convert df .rne false 0 (sf.value x)).1)
    | _, _ => s.retire c)

/-- The element type t of `SCALEB`, `RINT`, `FCLS` and `GETEXP` (R124). -/
def cnvTy (df : BitVec 5) : Ty := if df = 3 then .f16x2 else if df = 2 then .bf16x2 else .f32

/-- `SCALEB` of one element: x × 2^n, n read at the element's width (R129). -/
def scalebElem (rm : RM) (f : FFmt) (x n : Nat) : Nat :=
  let w := if f.mbits = 23 then 32 else 16
  let k : Int := if n.testBit (w - 1) then (n : Int) - 2 ^ w else n
  match FVal.decode f x with
  | .fin s m e => FVal.round f rm false (.fin s m (e + max (-2000) (min 2000 k)))
  | v => FVal.round f rm false v

/-- The exponent operand of `SCALEB`: a small constant of a packed type stands in both halves (R74; log entry 15). -/
def Slug.srcExp (m : Slug) (w : Ops) (t : Ty) (o : Opnd) (i : Fin 32) : Lane :=
  match o with
  | .const n => if t = .f32 then n.signExtend 32 else n.signExtend 16 ++ n.signExtend 16
  | o => m.srcV w 0 .n32 o i

/-- One lane of `SCALEB`. -/
def scalebLane (t : Ty) (rm : RM) (x n : Lane) : Lane :=
  BitVec.ofNat 32 (perElem t (fun f _ a b => scalebElem rm f a b) 0 x.toNat n.toNat)

/-- `SCALEB` (R129). -/
def execScaleb (w : Ops) (m : CnvMod) (s : State) : Out :=
  vectorWord w.h s (fun c =>
    let t := cnvTy m.df
    s.finishV c w.d.num (fun i => scalebLane t m.rm (c.m.srcV w 0 t w.a i) (c.m.srcExp w t w.b i)))

/-- `RINT` of one element (R130). -/
def rintElem (rm : RM) (f : FFmt) (x : Nat) : Nat :=
  match FVal.decode f x with
  | .fin s m e => FVal.round f rm false (.fin s (roundInt rm s m e).natAbs 0)
  | v => FVal.round f rm false v

/-- `FCLS` of one element (R130, R108). -/
def fclsElem (f : FFmt) (x : Nat) : Nat :=
  match FVal.decode f x with
  | .inf s => if s then 1 else 2 ^ 7
  | .nan => if x / 2 ^ (f.mbits - 1) % 2 = 0 then 2 ^ 8 else 2 ^ 9
  | .fin s m _ =>
    if m = 0 then (if s then 2 ^ 3 else 2 ^ 4)
    else if m < 2 ^ f.mbits then (if s then 2 ^ 2 else 2 ^ 5)
    else (if s then 2 ^ 1 else 2 ^ 6)

/-- `GETEXP` of one element, as an integer of the element's width (R130). -/
def getexpElem (f : FFmt) (x : Nat) : Nat :=
  let w := if f.mbits = 23 then 32 else 16
  match FVal.decode f x with
  | .fin _ m e => if m = 0 then 2 ^ (w - 1) else ((m.log2 + e) % 2 ^ w).toNat
  | _ => 2 ^ (w - 1) - 1

/-- A conversion word of one source that acts element by element. -/
def elemWord (f : FFmt → Nat → Nat) (w : Ops) (m : CnvMod) (s : State) : Out :=
  vectorWord w.h s (fun c =>
    let t := cnvTy m.df
    s.finishV c w.d.num (fun i =>
      BitVec.ofNat 32 (perElem t (fun k _ a _ => f k a) 0 (c.m.srcV w 0 t w.a i).toNat 0)))

/-- `RINT`, `FCLS` and `GETEXP` (R130). -/
def execRint (w : Ops) (m : CnvMod) (s : State) : Out := elemWord (rintElem m.rm) w m s
def execFcls (w : Ops) (m : CnvMod) (s : State) : Out := elemWord fclsElem w m s
def execGetexp (w : Ops) (m : CnvMod) (s : State) : Out := elemWord getexpElem w m s

/-- The largest element magnitude of a block-scaled format (R110), and its exponent emax. -/
def blockMax (fmt : Nat) : FVal × Int :=
  if fmt = 17 then (.fin false 448 0, 8)
  else if fmt = 18 then (.fin false 57344 0, 15)
  else if fmt = 19 then (.fin false 28 0, 4)
  else if fmt = 20 then (.fin false 15 (-1), 2)
  else if fmt = 23 then (.fin false 127 (-6), 0)
  else (.fin false 6 0, 2)

/-- The scale byte of a magnitude (R131). -/
def mxsclByte (fmt : Nat) (e4 : Bool) (x : FVal) : Nat :=
  match x.abs with
  | .nan => if e4 then 0x7F else 0xFF
  | .inf _ => if e4 then 0x7E else 0xFE
  | .fin _ m e =>
    if m = 0 then 0
    else if e4 then FVal.round .e4m3 .rup true (FVal.div (.fin false m e) (blockMax fmt).1)
    else (max 0 (min 254 (m.log2 + e - (blockMax fmt).2 + 127))).toNat

/-- `MXSCL` (R131). -/
def execMxscl (w : Ops) (m : CnvMod) (s : State) : Out :=
  vectorWord w.h s (fun c =>
    s.finishV c w.d.num (fun i =>
      BitVec.ofNat 32 (mxsclByte m.df.toNat (m.pos.getLsbD 5) (FVal.decode .f32 (c.m.srcV w 0 .f32 w.a i).toNat))))

/-! ## The conversions of paired halves (R132) -/

/-- The conversion a half's M4 selects: destination and source types, rounding, destination and source positions. -/
def halfConv (m4 : BitVec 4) : CTy × CTy × RM × Nat × Nat :=
  match m4.toNat with
  | 0 => (.f32, .f16, .rne, 0, 0)
  | 1 => (.f32, .f16, .rne, 0, 1)
  | 2 => (.f32, .bf16, .rne, 0, 0)
  | 3 => (.f32, .bf16, .rne, 0, 1)
  | 4 => (.f16, .f32, .rne, 0, 0)
  | 5 => (.f16, .f32, .rne, 1, 0)
  | 6 => (.bf16, .f32, .rne, 0, 0)
  | 7 => (.bf16, .f32, .rne, 1, 0)
  | 8 => (.i32, .f32, .rtz, 0, 0)
  | 9 => (.f32, .i32, .rne, 0, 0)
  | 10 => (.n32, .f32, .rtz, 0, 0)
  | 11 => (.f32, .n32, .rne, 0, 0)
  | 12 => (.e4m3, .f32, .rne, 0, 0)
  | 13 => (.e5m2, .f32, .rne, 0, 0)
  | 14 => (.f32, .e4m3, .rne, 0, 0)
  | _ => (.f32, .e5m2, .rne, 0, 0)

end Sys2Proof.Machine
end

