-- ==== Sys2Proof/Machine/Formats.lean ====
section
/-!
DEFINITION. The element formats of pages and scratchpad segments: widths, block geometry, scales and element values (spec/04
R106 to R114, spec/06 R189, R194), shared by the matrix engine and by `VLDF`, `VLDFP` and `VSTF`.
-/

namespace Sys2Proof.Machine

/-- The unscaled counterpart of a format code (R110). -/
def plainFmt (fmt : Nat) : Nat :=
  if fmt = 17 then 5 else if fmt = 18 then 4 else if fmt = 19 then 7 else if fmt = 20 then 8
  else if fmt = 21 then 9 else if fmt = 22 then 10 else if fmt = 23 then 12 else fmt

/-- The conversion type that encodes an element of a format; code 10 has the encoding of code 9 (R107, R110). -/
def fmtTy (fmt : Nat) : CTy :=
  let f := plainFmt fmt
  (CTy.ofCode (BitVec.ofNat 5 (if f = 10 then 9 else f))).getD .f32

/-- The width of an element in bits. -/
def fmtWidth (fmt : Nat) : Nat := (fmtTy fmt).width

/-- Block-scaled formats (R110). -/
def isScaled (fmt : Nat) : Bool := decide (17 ≤ fmt ∧ fmt ≤ 23)

/-- Formats laid out with a data and a scale region (R112, R189). -/
def hasBlocks (fmt : Nat) : Bool := fmt == 10 || isScaled fmt

/-- Float formats: their elements and products are reals with special values. -/
def fmtFloat (fmt : Nat) : Bool := decide (fmt ≤ 10) || isScaled fmt

/-- The block length along K (R111, R189). -/
def blockLen (fmt : Nat) (geo : BitVec 3) : Nat := if fmt = 10 then 48 else 48 * 2 ^ (geo.extractLsb' 0 2).toNat

/-- The value of an element's bits; `x` is the special byte of its block (R107, R109, R110, R114, R189). No scale enters. -/
def elemVal (fmt bits x : Nat) : FVal :=
  if (fmt = 10 || fmt = 22) && bits % 16 = 8 then FVal.decode .e3m4 x
  else match (fmtTy fmt).value bits with
    | .flt v => v
    | .int i => if fmt = 23 then FVal.mul (FVal.ofInt i) (.fin false 1 (-6)) else FVal.ofInt i

/-- The scale of a block from its scale byte (R113); 1 where the format has no scale. -/
def scaleVal (fmt : Nat) (geo : BitVec 3) (b : Nat) : FVal :=
  if !isScaled fmt then .fin false 1 0
  else if geo.getLsbD 2 then FVal.decode .e4m3 b
  else if b = 255 then .nan
  else .fin false 1 ((b : Int) - 127)

/-- The scaled element of `VLDF` (spec/09 R276): a NaN scale gives NaN, a zero scale a zero whatever the element is
(R113): with the product's sign of a finite element, +0 of an infinite one or a NaN (DESIGN CHOICE, log entry 84). -/
def scaledVal (s v : FVal) : FVal :=
  if s.isNan then .nan
  else match v with
    | .fin _ _ _ => FVal.mul s v
    | _ => if s.isZero then .zero else FVal.mul s v

/-- An exact value put into a tile or page format (spec/06 R194); `f` says whether it comes from float values. -/
def conv (d : CTy) (x : FVal) (rm : RM) (sat f : Bool) : Nat :=
  if d.isFloat then FVal.round d.ffmt rm sat x
  else
    let bits (i : Int) : Nat := (i % 2 ^ d.width).toNat
    match x with
    | .nan => 0
    | .inf s => bits (if s then d.least else d.greatest)
    | .fin s m e =>
      let y := roundInt rm s m e
      bits (if f || sat then max d.least (min d.greatest y) else y)

/-- Bits of a little-endian byte string (R106). -/
def bitsAt (bs : List Byte) (off w : Nat) : Nat := natOf bs / 2 ^ off % 2 ^ w

/-- A byte string with the bits of an element replaced. -/
def setBits (bs : List Byte) (off w y : Nat) : List Byte :=
  let n := natOf bs
  bytesOf bs.length (n / 2 ^ (off + w) * 2 ^ (off + w) + y % 2 ^ w * 2 ^ off + n % 2 ^ off)

end Sys2Proof.Machine
end

