-- ==== Sys2Proof/Machine/MemoryForms.lean ====
section
/-!
DEFINITION. The memory instructions (spec/09 R271 to R278).
-/

namespace Sys2Proof

/-- Bytes of an element of a memory form (R271). -/
def MemMod.bytes (m : MemMod) : Nat := 2 ^ m.w.toNat

end Sys2Proof

namespace Sys2Proof.Machine

/-! ## Elements (R274) -/

/-- The lanes of a mask, in ascending virtual lane id (R245). -/
def Ctx.lanes (c : Ctx) : List (Nat × Nat) :=
  sortBy (·.2) ((planes c.act).map (fun p => (p, c.f.vlidAt c.iss.sl p)))

/-- An element for every active lane. -/
def Ctx.elems (c : Ctx) (n : Nat) (addr : Nat → Word) : List Elem :=
  c.lanes.map (fun l => { lane := l.1, vlid := l.2, va := (addr l.1).toNat, n := n })

/-- The one element of a scalar form. -/
def oneElem (n : Nat) (a : Word) : List Elem := [{ lane := 0, vlid := 0, va := a.toNat, n := n }]

/-- a + off (R273). -/
def Ctx.base (c : Ctx) (w : Ops) : Word := c.m.srcG w 0 w.a + c.m.srcG w 0 w.b

/-- a + off + L·w. -/
def Ctx.packed (c : Ctx) (w : Ops) (n l : Nat) : Word := c.base w + BitVec.ofNat 64 (l * n)

/-- A lane of a register named by an operand. -/
def Slug.laneAt (m : Slug) (o : Opnd) (l : Nat) : Lane := (m.readV o.num).toList.getD l 0

/-- a + (vi[L] << SC). -/
def Ctx.indexed (c : Ctx) (w : Ops) (sc l : Nat) : Word :=
  c.m.srcG w 0 w.a + BitVec.ofNat 64 ((c.m.laneAt w.b l).toNat * 2 ^ sc)

/-- a + L·gs, gs signed. -/
def Ctx.strided (c : Ctx) (w : Ops) (l : Nat) : Word := c.m.srcG w 0 w.a + BitVec.ofNat 64 l * c.m.srcG w 0 w.b

/-- The lanes for which the word holds before any replay (R71): a compressed form numbers its elements over them. -/
def Ctx.whole (c : Ctx) (h : Hdr) : Mask := activeLanes c.m { c.slot with part := none } c.path h

/-- a + k·w, k the active lanes below L (log entry 16). -/
def Ctx.compressed (c : Ctx) (w : Ops) (n l : Nat) : Word :=
  c.m.srcG w 0 w.a + BitVec.ofNat 64 (popcount (c.whole w.h &&& (1#32 <<< l - 1)) * n)

/-! ## Loads (R272, R275) -/

/-- A value of `n` bytes as a destination holds it: `k` bits, sign- or zero-extended. -/
def extend (sx : Bool) (n k x : Nat) : Nat :=
  if sx && x.testBit (8 * n - 1) then x + (2 ^ k - 2 ^ (8 * n)) else x

/-- The elements of a word read in order, with their bytes. -/
def State.readGood (s : State) (c : Ctx) (good : List (Elem × List Spot)) : State × List (Elem × List Byte) :=
  good.foldl (fun r g =>
    let x := r.1.readSpots c g.2
    (x.1, r.2 ++ [(g.1, x.2)])) (s, [])

/-- Register `k` of the destination of a vector load written in the lanes of a list of values (R272). -/
def Slug.writeLanes (m : Slug) (n : Nat) (vals : List (Nat × Nat)) : Slug :=
  m.writeV n (maskOf (vals.map (·.1))) (fun i => BitVec.ofNat 32 (laneOf vals i))

/-- The destination of a vector load: one register, a pair or a quad. -/
def Slug.writeLoaded (m : Slug) (n : Nat) (w : Nat) (sx : Bool) (vals : List (Nat × Nat)) : Slug :=
  (List.range (max 1 (w / 4))).foldl (fun m k =>
    m.writeLanes (n + k) (vals.map (fun v => (v.1, (if w < 4 then extend sx w 32 v.2 else v.2) / 2 ^ (32 * k) % 2 ^ 32)))) m

/-- A word that may not run inside a transaction (R304). -/
def State.unlessTx (s : State) (c : Ctx) (bad : Bool) (f : Unit → State) : State :=
  if c.m.tx.isSome && bad then s.trapCode c 0x33 else f ()

/-- The L1 action of an acquire mark (spec/07 R228). -/
def State.acqMark (s : State) (c : Ctx) (mark : BitVec 2) (obs : BitVec 7) : State :=
  if mark.getLsbD 0 then s.acquire c.core obs else s

/-- The L1 action of a release mark (spec/07 R228). -/
def State.relMark (s : State) (c : Ctx) (mark : BitVec 2) (obs : BitVec 7) : State :=
  if mark.getLsbD 1 then s.release c.core obs else s

/-- A scalar load. -/
def scalarLoad (win : Bool) (w : Ops) (m : MemMod) (s : State) : Out :=
  scalarWord w.h s (fun c => s.unlessTx c (m.mark != 0) (fun _ =>
    let h : How := { win := win, dev := true, noUo := m.mark != 0, whole := true }
    match s.gate c h false false (fun _ => none) (oneElem m.bytes (c.base w)) with
    | (s, none) => s
    | (s, some (good, _)) =>
      let r := s.readGood c good
      let x := natOf ((r.2.map (·.2)).headD [])
      s.finishPinned c true (r.1.acqMark c m.mark m.obs) w.d.num (BitVec.ofNat 64 (extend m.sx m.bytes 64 x))))

/-- A vector load whose element of a lane lies at an address; `one` for `VLDU`, whose one element fills every active lane. -/
def vectorLoad (win one : Bool) (addr : Ctx → Nat → Word) (w : Ops) (m : MemMod) (s : State) : Out :=
  vectorWord w.h s (fun c => s.unlessTx c (m.mark != 0) (fun _ =>
    let h : How := { win := win, noUo := m.mark != 0, whole := m.mark != 0 }
    let es := if !one then c.elems m.bytes (addr c) else if c.act = 0 then [] else oneElem m.bytes (addr c 0)
    match s.gate c h true one (fun _ => none) es with
    | (s, none) => s
    | (s, some (good, bad)) =>
      let r := s.readGood c good
      let vals := r.2.flatMap (fun x =>
        (if one then planes c.act else [x.1.lane]).map (fun l => (l, natOf x.2)))
      (((if good.isEmpty then r.1 else r.1.acqMark c m.mark m.obs)).modCur
        (·.writeLoaded w.d.num m.bytes m.sx vals)).closeWord c bad))

/-! ## Stores -/

/-- The source bytes of a store in a lane (R272, R274). -/
def Slug.storeBytes (m : Slug) (o : Opnd) (n l : Nat) : List Byte :=
  match o with
  | .v r => bytesOf n ((List.range (max 1 (n / 4))).foldl (fun x k =>
      x + 2 ^ (32 * k) * ((m.readV (r.toNat + k)).toList.getD l 0).toNat) 0)
  | o => bytesOf n (m.srcG { h := default, d := .none, a := .none, b := .none, x := none } 0 o).toNat

/-- The elements of a word written in order. -/
def State.writeGood (s : State) (c : Ctx) (good : List (Elem × List Spot)) (data : Elem → List Byte) : State :=
  good.foldl (fun s g => s.writeSpots c g.2 (data g.1)) s

/-- What follows the release of a mark, once every home has acknowledged what the core has sent (spec/07 R228); until then the word
waits. A word that performs nothing releases nothing. -/
def State.released (s : State) (c : Ctx) (mark : BitVec 2) (obs : BitVec 7) (idle : Bool) (f : State → State) : State :=
  if idle || !mark.getLsbD 1 then f s
  else
    let s := s.release c.core obs
    if s.relWaits c.core obs then s.hold else f s

/-- A store after the release of its mark; its own bytes then go home as well. -/
def State.store (s : State) (c : Ctx) (mark : BitVec 2) (obs : BitVec 7) (good : List (Elem × List Spot))
    (data : Elem → List Byte) (f : State → State) : State :=
  s.released c mark obs good.isEmpty (fun s => f (if good.isEmpty then s else (s.writeGood c good data).relMark c mark obs))

/-- A scalar store. -/
def scalarStore (win : Bool) (w : Ops) (m : MemMod) (s : State) : Out :=
  scalarWord w.h s (fun c => s.unlessTx c (m.mark != 0) (fun _ =>
    let h : How := { win := win, need := .write, sealedAs := 0x21, dev := true, noUo := m.mark != 0, whole := true }
    match s.gate c h false false (fun _ => none) (oneElem m.bytes (c.base w)) with
    | (s, none) => s
    | (s, some (good, _)) =>
      s.store c m.mark m.obs good (fun _ => c.m.storeBytes w.d m.bytes 0) (fun s => s.retire c)))

/-- A vector store. -/
def vectorStore (win : Bool) (addr : Ctx → Nat → Word) (w : Ops) (m : MemMod) (s : State) : Out :=
  vectorWord w.h s (fun c => s.unlessTx c (m.mark != 0) (fun _ =>
    let h : How := { win := win, need := .write, sealedAs := 0x21, noUo := m.mark != 0, whole := m.mark != 0 }
    match s.gate c h true false (fun _ => none) (c.elems m.bytes (addr c)) with
    | (s, none) => s
    | (s, some (good, bad)) =>
      s.store c m.mark m.obs good (fun e => c.m.storeBytes w.d m.bytes e.lane) (fun s => s.closeWord c bad)))

/-- `LD` (R274, R275). -/
def execLd (w : Ops) (m : MemMod) (s : State) : Out := scalarLoad false w m s
/-- `ST` (R274, R275). -/
def execSt (w : Ops) (m : MemMod) (s : State) : Out := scalarStore false w m s
/-- `VLD` (R274, R275). -/
def execVld (w : Ops) (m : MemMod) (s : State) : Out := vectorLoad false false (fun c => c.packed w m.bytes) w m s
/-- `VST` (R274, R275). -/
def execVst (w : Ops) (m : MemMod) (s : State) : Out := vectorStore false (fun c => c.packed w m.bytes) w m s
/-- `VLDX` (R274, R275). -/
def execVldx (w : Ops) (m : MemMod) (s : State) : Out := vectorLoad false false (fun c => c.indexed w m.sc.toNat) w m s
/-- `VSTX` (R274, R275). -/
def execVstx (w : Ops) (m : MemMod) (s : State) : Out := vectorStore false (fun c => c.indexed w m.sc.toNat) w m s
/-- `VLDP` (R274, R275, spec/07 R235). -/
def execVldp (w : Ops) (m : MemMod) (s : State) : Out := vectorLoad true false (fun c => c.packed w m.bytes) w m s
/-- `VSTP` (R274, R275, spec/07 R235). -/
def execVstp (w : Ops) (m : MemMod) (s : State) : Out := vectorStore true (fun c => c.packed w m.bytes) w m s
/-- `VLDS` (R274, R275). -/
def execVlds (w : Ops) (m : MemMod) (s : State) : Out := vectorLoad false false (fun c => c.strided w) w m s
/-- `VSTS` (R274, R275). -/
def execVsts (w : Ops) (m : MemMod) (s : State) : Out := vectorStore false (fun c => c.strided w) w m s
/-- `VLDXP` (R274, R275). -/
def execVldxp (w : Ops) (m : MemMod) (s : State) : Out := vectorLoad true false (fun c => c.indexed w m.sc.toNat) w m s
/-- `VSTXP` (R274, R275). -/
def execVstxp (w : Ops) (m : MemMod) (s : State) : Out := vectorStore true (fun c => c.indexed w m.sc.toNat) w m s
/-- `LDP` (R274, R275). -/
def execLdp (w : Ops) (m : MemMod) (s : State) : Out := scalarLoad true w m s
/-- `STP` (R274, R275). -/
def execStp (w : Ops) (m : MemMod) (s : State) : Out := scalarStore true w m s
/-- `VLDU` (R274, R275). -/
def execVldu (w : Ops) (m : MemMod) (s : State) : Out := vectorLoad false true (fun c _ => c.base w) w m s
/-- `VLDC` (R274, R275). -/
def execVldc (w : Ops) (m : MemMod) (s : State) : Out := vectorLoad false false (fun c => c.compressed w m.bytes) w m s
/-- `VSTC` (R274, R275). -/
def execVstc (w : Ops) (m : MemMod) (s : State) : Out := vectorStore false (fun c => c.compressed w m.bytes) w m s

/-! ## Prefetch and line management (R277) -/

/-- The physical line of an address on a NORMAL page, and its leaf; a page that cannot be translated is skipped. -/
def State.normalLine (s : State) (c : Ctx) (va : Nat) (need : Option Need) : State × Option (Nat × Leaf) :=
  match s.leafFor (some c.core) va with
  | (s, .ok l) =>
    let pa := l.frame + (va - l.base)
    let ok := l.mt == 0 && (match need with | some n => l.allows n | none => true)
      && (s.frames.look (frameOf pa)).owner == some (s.partOf c) && !s.badLines.contains (lineOf pa)
    (s, if ok then some (lineOf pa, l) else none)
  | (s, .error _) => (s, none)

/-- A line brought into L1 when the core holds no copy. -/
def State.prefetch (s : State) (c : Ctx) (va : Nat) : State :=
  match s.normalLine c va (some .read) with
  | (s, some (n, l)) =>
    if (s.l1Line c.core n).data.isEmpty && ((s.core c.core).partials.look n).cells.isEmpty && !s.readWaits (n * 128) 128
    then (s.fill c.core n l.kind (s.hotInfo c va l)).1 else s
  | (s, none) => s

/-- `PF` (R277). -/
def execPf (w : Ops) (_m : MemMod) (s : State) : Out :=
  scalarWord w.h s (fun c => (s.prefetch c (c.base w).toNat).retire c)

/-- `PFX` (R277). -/
def execPfx (w : Ops) (m : MemMod) (s : State) : Out :=
  vectorWord w.h s (fun c =>
    ((planes c.act).foldl (fun s l => s.prefetch c (c.indexed w m.sc.toNat l).toNat) s).retire c)

/-- A line operation of `LWB` or `LINV` (R277, R304); it waits while the home holds what it writes. -/
def lineWord (drop : Bool) (w : Ops) (s : State) : Out :=
  scalarWord w.h s (fun c => s.unlessTx c true (fun _ =>
    match s.normalLine c (c.m.srcG w 0 w.a).toNat none with
    | (s, none) => s.retire c
    | (s, some (n, _)) =>
      let s := if drop then (s.evict c.core n).sendPartial c.core n else s.writeBack c.core n
      if (s.l1Line c.core n).dirty != 0 || (drop && !((s.core c.core).partials.look n).cells.isEmpty) then s.hold
      else s.retire c))

/-- `LWB` (R277). -/
def execLwb (w : Ops) (_m : MemMod) (s : State) : Out := lineWord false w s
/-- `LINV` (R277). -/
def execLinv (w : Ops) (_m : MemMod) (s : State) : Out := lineWord true w s

/-! ## Forms that decode and encode the format attribute (R276) -/

/-- The page or segment that holds a byte: its attribute, the address of its first byte, its size. -/
structure Region where
  fmt : Nat
  geo : BitVec 3
  base : Nat
  size : Nat
  deriving DecidableEq, Repr, Inhabited

/-- The region of a scratchpad offset (spec/07 R233, R234): the segment that holds it, else plain bytes. -/
def Launch.segAt (l : Launch) (o : Nat) : Region :=
  let one (k : Nat) : Option Region :=
    let d := l.seg k
    let b := (d.extractLsb' 0 11).toNat * 1024
    let z := (d.extractLsb' 11 11).toNat * 1024
    if d.getLsbD 31 && decide (b ≤ o ∧ o < b + z)
    then some { fmt := (d.extractLsb' 35 5).toNat, geo := d.extractLsb' 32 3, base := b, size := z } else none
  ((List.range 16).findSome? one).getD { fmt := 0, geo := 0, base := 0, size := 0 }

/-- The region of an address of a word; `none` when it has none. -/
def State.regionAt (s : State) (c : Ctx) (win : Bool) (a : Nat) : Option Region :=
  if win then
    match s.window c.iss.fk a 1 with
    | .ok (_, o) =>
      let r := (s.launchOf c).segAt o
      some { r with base := a - o + r.base }
    | .error _ => none
  else match s.leafFor (some c.core) a with
    | (_, .ok l) => some { fmt := l.fmt, geo := l.geo, base := l.base, size := l.size }
    | (_, .error _) => none

/-- An element of a formatted tensor: where its bits lie, and its region (log entry 17). -/
structure FElem where
  lane : Nat
  vlid : Nat
  va : Nat
  shift : Nat
  reg : Region
  deriving DecidableEq, Repr, Inhabited

/-- The bytes an element covers. -/
def FElem.n (e : FElem) : Nat := (e.shift + fmtWidth e.reg.fmt + 7) / 8

/-- The bit offset of an element from the start of its region. -/
def FElem.off (e : FElem) : Nat := (e.va - e.reg.base) * 8 + e.shift

/-- The element reaches past the data region of a region laid out in blocks (spec/04 R112). -/
def FElem.past (e : FElem) : Bool := hasBlocks e.reg.fmt && decide (7 * e.reg.size < e.off + fmtWidth e.reg.fmt)

/-- The scale entry of an element's block. -/
def FElem.scaleAt (e : FElem) : Nat :=
  e.reg.base + 7 * e.reg.size / 8 + 2 * (e.off / (blockLen e.reg.fmt e.reg.geo * fmtWidth e.reg.fmt))

/-- The elements of a word of R276: their width is that of the attribute at byte a, each is read by its own region's
attribute. -/
def State.felems (s : State) (c : Ctx) (win : Bool) (w : Ops) : List FElem :=
  let a := (c.m.srcG w 0 w.a).toNat
  let b := match s.regionAt c win a with
    | some r => fmtWidth r.fmt
    | none => 8
  c.lanes.map (fun l =>
    let bit := (c.m.laneAt w.b l.1).toNat * b
    let va := (a + bit / 8) % 2 ^ 64
    { lane := l.1, vlid := l.2, va := va, shift := bit % 8,
      reg := (s.regionAt c win va).getD { fmt := 0, geo := 0, base := 0, size := 0 } })

/-- The elements to check for the data of a list: when byte a has no attribute, byte a itself is each lane's failing element. -/
def State.fdata (s : State) (c : Ctx) (win : Bool) (w : Ops) (es : List FElem) : List Elem :=
  let a := c.m.srcG w 0 w.a
  if (s.regionAt c win a.toNat).isNone then c.elems 1 (fun _ => a)
  else es.map (fun e => { lane := e.lane, vlid := e.vlid, va := e.va, n := e.n })

/-- The value an element delivers (R276). -/
def FElem.value (e : FElem) (data scale : List Byte) : Lane :=
  let bits := bitsAt data e.shift (fmtWidth e.reg.fmt)
  let sb := ((scale.getD 0 0).toNat)
  let xb := ((scale.getD 1 0).toNat)
  if fmtFloat e.reg.fmt then
    BitVec.ofNat 32 (FVal.round .f32 .rne false
      (scaledVal (scaleVal e.reg.fmt e.reg.geo sb) (elemVal e.reg.fmt bits xb)))
  else match (fmtTy e.reg.fmt).value bits with
    | .int i => BitVec.ofInt 32 i
    | .flt _ => 0

/-- `VLDF` and `VLDFP` (R276). -/
def formatLoad (win : Bool) (w : Ops) (m : MemMod) (s : State) : Out :=
  vectorWord w.h s (fun c => s.unlessTx c (m.mark != 0) (fun _ =>
    let h : How := { win := win, noUo := m.mark != 0, whole := m.mark != 0 }
    let fs := s.felems c win w
    let scales := (fs.filter (fun e => hasBlocks e.reg.fmt && !e.past)).map (fun e =>
      ({ lane := e.lane, vlid := e.vlid, va := e.scaleAt, n := 2 } : Elem))
    let extra (e : Elem) : Option Flt :=
      if fs.any (fun x => x.lane == e.lane && x.past) then
        some { code := 0x11, reason := 0x09, va := if win then 0 else e.va % 2 ^ 54,
               d1 := if win then 0 else (match (s.leafFor (some c.core) e.va).2 with | .ok l => l.hi | .error _ => 0) } else none
    match s.gate c h true false extra (s.fdata c win w fs ++ scales) with
    | (s, none) => s
    | (s, some (good, bad)) =>
      let done := match bad with
        | some x => c.act &&& ~~~x.2
        | none => c.act
      let r := s.readGood c (good.filter (fun g => done.getLsbD g.1.lane))
      let got (e : FElem) (va : Nat) : List Byte :=
        ((r.2.find? (fun x => x.1.lane == e.lane && x.1.va == va)).map (·.2)).getD []
      let vals := (fs.filter (fun e => done.getLsbD e.lane)).map (fun e =>
        (e.lane, (e.value (got e e.va) (if hasBlocks e.reg.fmt then got e e.scaleAt else [])).toNat))
      (((if good.isEmpty then r.1 else r.1.acqMark c m.mark m.obs)).modCur (·.writeLanes w.d.num vals)).closeWord c bad))

/-- `VLDF` (R276). -/
def execVldf (w : Ops) (m : MemMod) (s : State) : Out := formatLoad false w m s
/-- `VLDFP` (R276). -/
def execVldfp (w : Ops) (m : MemMod) (s : State) : Out := formatLoad true w m s

/-- The formats `VSTF` writes (R276). -/
def storable (fmt : Nat) : Bool := decide (fmt ≤ 6) || decide (11 ≤ fmt ∧ fmt ≤ 13)

/-- The element `VSTF` makes of a lane. -/
def storedElem (fmt : Nat) (x : Lane) : Nat :=
  if fmt ≤ 6 then conv (fmtTy fmt) (FVal.decode .f32 x.toNat) .rne false true
  else
    let t := fmtTy fmt
    ((max t.least (min t.greatest x.toInt)) % 2 ^ t.width).toNat

/-- `VSTF` (R276). -/
def execVstf (w : Ops) (m : MemMod) (s : State) : Out :=
  vectorWord w.h s (fun c => s.unlessTx c (m.mark != 0) (fun _ =>
    let fs := s.felems c false w
    let odd := fs.any (fun e => !storable e.reg.fmt)
    let h : How := { need := .write, sealedAs := 0x21, noUo := m.mark != 0, whole := m.mark != 0 || odd }
    let extra (e : Elem) : Option Flt :=
      if fs.any (fun x => x.lane == e.lane && !storable x.reg.fmt) then some { code := 0x08, va := e.va % 2 ^ 54 } else none
    match s.gate c h true false extra (s.fdata c false w fs) with
    | (s, none) => s
    | (s, some (good, bad)) =>
      s.store c m.mark m.obs good (fun e =>
        let f := (fs.find? (fun x => x.lane == e.lane)).getD default
        bytesOf e.n (storedElem f.reg.fmt (c.m.laneAt w.d e.lane))) (fun s => s.closeWord c bad)))

end Sys2Proof.Machine
end

