-- ==== Sys2Proof/Machine/Atomics.lean ====
section
/-!
DEFINITION. The atomic, reduction and fence instructions (spec/09 R279 to R287).
-/

namespace Sys2Proof.Machine

/-! ## One location (R281, R284) -/

/-- What an element of an atomic form does to a location's old value. -/
abbrev Update := Nat → Nat

/-- A location changed in one step, with its old value: in scratchpad at its banks, in memory at its home after the core has
written back and dropped its own copy (spec/07 R227); at a peer or on the host the old value is theirs. -/
def State.atomicSpot (s : State) (c : Ctx) (f : Update) (x : Spot) : State × Nat :=
  match x with
  | .spad fk o n =>
    let old := natOf (s.spadRead fk o n)
    (s.spadWrite fk o (bytesOf n (f old)) c.holder, old)
  | .mem pa n va l =>
    if l.mt ≠ 0 then
      let r := s.outside n
      (r.1, natOf r.2)
    else
      let line := lineOf pa
      let s := (s.evict c.core line).sendPartial c.core line
      let r := s.homeRead pa n
      let old := natOf r.2
      (r.1.homeWrite pa (bytesOf n (f old)) c.holder (s.hotInfo c va l) 2, old)

/-- The elements of an atomic form performed in ascending virtual lane id (R282), each with its old value. -/
def State.atomicGood (s : State) (c : Ctx) (good : List (Elem × List Spot)) (f : Nat → Update) : State × List (Nat × Nat) :=
  good.foldl (fun r g =>
    match g.2 with
    | x :: _ =>
      let y := r.1.atomicSpot c (f g.1.lane) x
      (y.1, r.2 ++ [(g.1.lane, y.2)])
    | [] => r) (s, [])

/-- The value of a type that an operand gives in a lane: one register or a pair, or a small constant as its element type reads it
(spec/03 R74). -/
def Slug.tyLane (m : Slug) (t : Ty) (o : Opnd) (off l : Nat) : Nat :=
  match o with
  | .v n =>
    let r (k : Nat) : Nat := ((m.readV (n.toNat + off + k)).toList.getD l 0).toNat
    if t.bytes = 8 then r 0 + 2 ^ 32 * r 1 else r 0
  | o =>
    match o, t.flt with
    | .const n, true => (constLane t n).toNat
    | o, _ => (m.srcG { h := default, d := .none, a := .none, b := .none, x := none } 0 o).toNat % 2 ^ (8 * t.bytes)

/-- An old value as a scalar destination holds it (R281): sign-extended for signed types. -/
def tyExtend (t : Ty) (x : Nat) : Word := BitVec.ofNat 64 (extend t.signed t.bytes 64 x)

/-- The accesses of an atomic form. -/
def atHow (m : AtMod) (win : Bool) : How :=
  { win := win, need := .both, noUo := true, align := m.ty.bytes, whole := m.mark != 0, atomic := true, op := m.op.toNat,
    ty := m.ty }

/-! ## Atomics (R280 to R282) -/

/-- A scalar atomic: `f` gives the new value from the old. -/
def scalarAtomic (win cas : Bool) (f : Ctx → Update) (w : Ops) (m : AtMod) (s : State) : Out :=
  scalarWord w.h s (fun c => s.unlessTx c true (fun _ =>
    let h : How := { atHow m win with whole := true, cas := cas }
    match s.gate c h false false (fun _ => none) (oneElem m.ty.bytes (c.m.srcG w 0 w.a)) with
    | (s, none) => s
    | (s, some (good, _)) =>
      s.released c m.mark m.obs false (fun s =>
        let r := s.atomicGood c good (fun _ => f c)
        let x := (r.2.map (·.2)).headD 0
        s.finishPinned c true (r.1.acqMark c m.mark m.obs) w.d.num (tyExtend m.ty x))))

/-- A vector atomic. -/
def vectorAtomic (win cas : Bool) (f : Ctx → Nat → Update) (w : Ops) (m : AtMod) (s : State) : Out :=
  vectorWord w.h s (fun c => s.unlessTx c true (fun _ =>
    let h : How := { atHow m win with cas := cas }
    match s.gate c h true false (fun _ => none) (c.elems m.ty.bytes (c.indexed w m.sc.toNat)) with
    | (s, none) => s
    | (s, some (good, bad)) =>
      s.released c m.mark m.obs good.isEmpty (fun s =>
        let r := s.atomicGood c good (f c)
        let s := if good.isEmpty then r.1 else r.1.acqMark c m.mark m.obs
        (s.modCur (·.writeLoaded w.d.num m.ty.bytes false r.2)).closeWord c bad)))

/-- The new value of a combining operation with an operand (R281). -/
def combine (m : AtMod) (b : Nat) : Update := fun old => amo m.op.toNat m.ty old b

/-- `AMO` (R280, R281). -/
def execAmo (w : Ops) (m : AtMod) (s : State) : Out :=
  scalarAtomic false false (fun c => combine m (c.m.tyLane m.ty w.b 0 0)) w m s
/-- `VAMO` (R280, R281, R282). -/
def execVamo (w : Ops) (m : AtMod) (s : State) : Out :=
  vectorAtomic false false (fun c l => combine m (c.m.tyLane m.ty w.d 0 l)) w m s
/-- `CAS` (R280, R281). -/
def execCas (w : Ops) (m : AtMod) (s : State) : Out :=
  scalarAtomic false true (fun c => swapIf (c.m.tyLane m.ty w.d 0 0) (c.m.tyLane m.ty w.b 0 0)) w m s
/-- `VCAS` (R280, R281, R282). -/
def execVcas (w : Ops) (m : AtMod) (s : State) : Out :=
  vectorAtomic false true (fun c l =>
    swapIf (c.m.tyLane m.ty w.d 0 l) (c.m.tyLane m.ty w.d (m.ty.bytes / 4) l)) w m s
/-- `AMOP` (R280, R281). -/
def execAmop (w : Ops) (m : AtMod) (s : State) : Out :=
  scalarAtomic true false (fun c => combine m (c.m.tyLane m.ty w.b 0 0)) w m s
/-- `VAMOP` (R280, R281, R282). -/
def execVamop (w : Ops) (m : AtMod) (s : State) : Out :=
  vectorAtomic true false (fun c l => combine m (c.m.tyLane m.ty w.d 0 l)) w m s

/-- The pair a `CAS2` operand names, as 128 bits. -/
def Slug.pairG (m : Slug) (o : Opnd) : Nat := (m.readG o.num).toNat + 2 ^ 64 * (m.readG (o.num + 1)).toNat

/-- `CAS2` (R280, R281): both registers of its destination obey their pins (spec/15 R417). -/
def execCas2 (w : Ops) (m : AtMod) (s : State) : Out :=
  scalarWord w.h s (fun c => s.unlessTx c true (fun _ =>
    let h : How := { atHow m false with align := 16, whole := true, cas := true }
    match s.gate c h false false (fun _ => none) (oneElem 16 (c.m.srcG w 0 w.a)) with
    | (s, none) => s
    | (s, some (good, _)) =>
      s.released c m.mark m.obs false (fun s =>
        let r := s.atomicGood c good (fun _ => swapIf (c.m.pairG w.d) (c.m.pairG w.b))
        let x := (r.2.map (·.2)).headD 0
        let lo : Word := BitVec.ofNat 64 x
        let hi : Word := BitVec.ofNat 64 (x / 2 ^ 64)
        let after := r.1.acqMark c m.mark m.obs
        let d := w.d.num
        if s.pinBlocks c d lo then s.trap c (pinTrap c d lo true)
        else if s.pinBlocks c (d + 1) hi then s.trap c (pinTrap c (d + 1) hi true)
        else (after.modCur (fun u => (u.writeG d lo).writeG (d + 1) hi)).retire c)))

/-! ## Reductions (R283) -/

/-- One reduction performed: on an RC page into the core's partial, on an SO page at the home, in scratchpad at the banks; at a
peer it takes place there. At the home of an SO page it counts as TYPE 2 (spec/07 R241; log entry 83), and recalls nothing (R231). -/
def State.reduceSpot (s : State) (c : Ctx) (m : AtMod) (b : Nat) (x : Spot) : State :=
  let op := m.op.toNat
  match x with
  | .spad fk o _ => s.spadRed fk o op m.ty b c.holder
  | .mem pa _ va l =>
    if l.mt ≠ 0 then s
    else if l.kind = .rc then s.enterU c.core pa op m.ty b (s.hotInfo c va l) c.holder
    else ((s.evict c.core (lineOf pa)).sendPartial c.core (lineOf pa)).homeRed pa op m.ty b c.holder (s.hotInfo c va l) 2

/-- The accesses of a reduction. -/
def redHow (m : AtMod) (win : Bool) : How :=
  { win := win, need := .write, sealedAs := 0x21, noUo := true, align := m.ty.bytes, whole := m.mark != 0, atomic := true,
    red := true, op := m.op.toNat, ty := m.ty }

/-- The elements of a reduction form performed in order. -/
def State.reduceGood (s : State) (c : Ctx) (m : AtMod) (good : List (Elem × List Spot)) (b : Nat → Nat) : State :=
  good.foldl (fun s g => match g.2 with
    | x :: _ => s.reduceSpot c m (b g.1.lane) x
    | [] => s) s

/-- `RED` (R283). -/
def execRed (w : Ops) (m : AtMod) (s : State) : Out :=
  scalarWord w.h s (fun c => s.unlessTx c true (fun _ =>
    let h : How := { redHow m false with whole := true }
    match s.gate c h false false (fun _ => none) (oneElem m.ty.bytes (c.m.srcG w 0 w.a)) with
    | (s, none) => s
    | (s, some (good, _)) =>
      s.released c m.mark m.obs false (fun s =>
        (s.reduceGood c m good (fun _ => c.m.tyLane m.ty w.b 0 0)).retire c)))

/-- A vector reduction. -/
def vectorRed (win : Bool) (w : Ops) (m : AtMod) (s : State) : Out :=
  vectorWord w.h s (fun c => s.unlessTx c true (fun _ =>
    match s.gate c (redHow m win) true false (fun _ => none) (c.elems m.ty.bytes (c.indexed w m.sc.toNat)) with
    | (s, none) => s
    | (s, some (good, bad)) =>
      s.released c m.mark m.obs good.isEmpty (fun s =>
        (s.reduceGood c m good (fun l => c.m.tyLane m.ty w.d 0 l)).closeWord c bad)))

/-- `VRED` (R283). -/
def execVred (w : Ops) (m : AtMod) (s : State) : Out := vectorRed false w m s
/-- `VREDP` (R283). -/
def execVredp (w : Ops) (m : AtMod) (s : State) : Out := vectorRed true w m s

/-! ## Fences (R286, R287, spec/08 R253, R264) -/

/-- The mask of a fence: its own letters, or the SCOPE of a declared level (R286). -/
def State.fenceMask (s : State) (c : Ctx) (m : FnMod) : BitVec 7 :=
  if m.lve then (s.launchOf c).scope m.lv.toNat else m.obs

/-- The word is over once its fence is: every home has acknowledged what the core sent (spec/07 R228). -/
def State.fenced (s : State) (c : Ctx) (mask : BitVec 7) : State :=
  let s := s.fence c.core mask
  if s.fenceWaits c.core mask then s.hold else s.retire c

/-- `FENCE` (R286, spec/08 R253). -/
def execFence (w : Ops) (m : FnMod) (s : State) : Out :=
  scalarWord w.h s (fun c => s.unlessTx c true (fun _ => s.fenced c (s.fenceMask c m)))

/-- A command of a class in a mask that a slug issued is not over (spec/08 R264): X copies and copy parts, M engine forms and
`CPYM` follow-ons, K collectives. -/
def State.commandsLeft (s : State) (fk sl : Nat) (mask : BitVec 7) : Bool :=
  let f := s.forme fk
  let x := mask.getLsbD 2 && s.cores.any (fun k => k.2.copies.any (fun q => q.fk == fk && q.slug == sl))
  let mm := mask.getLsbD 3 && (s.formes.any (fun e => (e.2.mq ++ e.2.transit).any (fun q => q.issuer == fk && q.slug == sl))
    || f.follow.any (fun q => q.slug == sl)
    || s.cores.any (fun k => k.2.copies.any (fun q => q.fk == fk && q.slug == sl && q.follow.isSome)))
  let kk := mask.getLsbD 4 && s.parts.any (fun p => p.2.colls.any (fun q => q.fk == fk && q.slug == sl))
  x || mm || kk

/-- `FENCEX` (R286, spec/08 R264). -/
def execFencex (w : Ops) (m : FnMod) (s : State) : Out :=
  scalarWord w.h s (fun c => s.unlessTx c true (fun _ =>
    let k := s.fenceMask c m
    if s.commandsLeft c.iss.fk c.iss.sl k then s.hold else s.fenced c k))

/-- `FLUSHU` (R287): every U partial of the core goes home, and the word waits until all are applied. -/
def execFlushu (w : Ops) (_m : FnMod) (s : State) : Out :=
  scalarWord w.h s (fun c => s.unlessTx c true (fun _ =>
    let s := s.flushU c.core
    if (s.core c.core).partials.isEmpty then s.retire c else s.hold))

end Sys2Proof.Machine
end

