-- ==== Sys2Proof/Machine/FirstTouch.lean ====
section
/-!
DEFINITION. Changes of the page tables (spec/07 R216, R217, R225): finding and writing a leaf's slot, the tables on the way to
it, removing a leaf; the generation of a frame (R237 to R239); first-touch mapping (spec/18 R464 to R466).
-/

namespace Sys2Proof.Machine

/-! ## Slots and tables -/

/-- The physical address of a level's entry for an address within a table. -/
def slotOf (table va lv : Nat) : Nat := table + 16 * (va / 2 ^ (18 + 9 * lv) % 512)

/-- The tables on the walk to the slot of level `lowest`, from a table of level `lv` down: the slot's address, or the slot of the
first missing table with how many are missing. -/
def State.slotFrom (s : State) (va lowest : Nat) : Nat → Nat → Except (Nat × Nat) Nat
  | 0, table => .ok (slotOf table va 0)
  | lv + 1, table =>
    if lv + 1 ≤ lowest then .ok (slotOf table va (lv + 1))
    else
      let a := slotOf table va (lv + 1)
      match nextTable (s.physWord a) (s.physWord (a + 8)) false with
      | some n => s.slotFrom va lowest lv n
      | none => .error (a, lv + 1 - lowest)

/-- The slot of an address at a level, or the slot where tables are missing and how many are (R216). -/
def State.slotAt (s : State) (va lowest : Nat) : Except (Nat × Nat) Nat :=
  let a := slotOf s.root va 3
  match nextTable (s.physWord a) (s.physWord (a + 8)) true with
  | some n => s.slotFrom va lowest 2 n
  | none => .error (a, 3 - lowest)

/-- A 16-byte entry written at its home. -/
def State.putEntry (s : State) (a : Nat) (lo hi : Word) : State :=
  s.homeWrite a (bytesOf 8 lo.toNat ++ bytesOf 8 hi.toNat)

/-- A non-leaf entry (R217): root entries carry the partition. -/
def State.putTable (s : State) (a next : Nat) (part : Nat) (root : Bool) : State :=
  s.putEntry a (BitVec.ofNat 64 (next + 1)) (if root then BitVec.ofNat 64 part else 0)

/-- The missing tables linked one after the other from a slot down, and the slot of the leaf at the end. -/
def State.linkTables (s : State) (va part : Nat) (lv : Nat) (a : Nat) : List Nat → State × Nat
  | [] => (s, a)
  | t :: r => (s.putTable a t part (lv == 3)).linkTables va part (lv - 1) (slotOf t va (lv - 1)) r

/-- The present leaf that maps an address (R216 to R220). -/
def State.presentLeaf (s : State) (va : Nat) : Option Leaf :=
  if 2 ^ 54 ≤ va then none
  else match s.walk va with
    | some l => if l.broken.isNone then some l else none
    | none => none

/-! ## Frames leaving (R237 to R239) -/

/-- A frame's physical lines, as a test of a line number. -/
def inFrame (fr line : Nat) : Bool := line / 2048 == fr

/-- A wake entry watches a line of a frame (spec/11 R357, R360). -/
def Wake.hitsFrame (w : Wake) (fr : Nat) : Bool :=
  w.lines.any (fun l => !l.sp && inFrame fr l.line)
    || (w.sig != 0 && (List.range 2048).any (fun i => w.hits { line := fr * 2048 + i } 0))

/-- Sleepers that watch a line of a frame are fired: a leaf of it has changed, or its generation (spec/11 R360). -/
def State.fireFrame (s : State) (fr : Nat) : State := s.fireWhere (fun _ _ _ w => w.hitsFrame fr)

/-- Every L1 and L2 copy and every partial of a frame's lines is invalidated, dirty data discarded; writes held back for them go too, and
transactions that track them abort (R238 step 3). -/
def State.dropFrame (s : State) (fr : Nat) : State :=
  State.drainAll <|
  let hit (l : LineRef) : Bool := !l.sp && inFrame fr l.line
  let ts := s.txs.filter (fun e => e.2.2.levels.any (fun v => (v.reads ++ v.retained ++ v.writes).any hit))
  let s := ts.foldl (fun s e => s.conflictAbort e.1 e.2.1) s
  { s with
    held := s.held.filter (fun h => !hit h.line)
    l2 := s.l2.mapVals (fun _ m => m.mapVals (fun _ x => match x with
      | some l => if inFrame fr l then none else some l
      | none => none))
    cores := s.cores.mapVals (fun _ c => { c with
      l1 := c.l1.filter (fun e => !inFrame fr e.1)
      partials := c.partials.filter (fun e => !inFrame fr e.1) }) }

/-- A frame's generation advances by one; where it would meet the last scrub's, the frame is scrubbed first (R238, R239). -/
def State.advanceGen (s : State) (fr : Nat) : State :=
  let f := s.frames.look fr
  let s :=
    if f.gen + 1 = f.scrub then
      { s with
        dram := s.dram.filter (fun e => e.1 / 2 ^ 18 != fr)
        lineGen := (List.range 2048).foldl (fun t i => t.put (fr * 2048 + i) f.gen) s.lineGen
        frames := s.frames.upd fr (fun f => { f with scrub := f.gen }) }
    else s
  { s with frames := s.frames.upd fr (fun f => { f with gen := f.gen + 1 }) }.fireFrame fr

/-- The frames that a leaf covers. -/
def Leaf.framesOf (l : Leaf) : List Nat :=
  if l.mt = 0 ∨ l.mt = 1 then (List.range (l.size / 2 ^ 18)).map (· + l.frame / 2 ^ 18) else []

/-- A leaf's page holds a line. -/
def Leaf.holds (l : Leaf) (line : Nat) : Bool := l.mt == 0 && decide (l.frame ≤ line * 128 ∧ line * 128 < l.frame + l.size)

/-- Every access that used the translation of a page is performed (R225): the dirty bytes and U partials of its lines go home, and no
core keeps a copy. -/
def State.performPage (s : State) (l : Leaf) : State :=
  s.cores.foldl (fun s e =>
    let s := (e.2.partials.filter (fun x => l.holds x.1)).foldl (fun s x => s.sendPartial e.1 x.1) s
    (e.2.l1.filter (fun x => l.holds x.1)).foldl (fun s x => s.evict e.1 x.1) s) s

/-- A change of a page's leaf is not complete yet (R225): a home holds an access of the page back for the oldest transaction. -/
def State.pageWaits (s : State) (l : Leaf) : Bool :=
  s.held.any (fun h => !h.line.sp && l.holds h.line.line) ||
    s.cores.any (fun c =>
      c.2.l1.any (fun e => l.holds e.1 && e.2.dirty != 0 && s.heldLine { line := e.1 })
        || c.2.partials.any (fun e => l.holds e.1 && s.heldLine { line := e.1 }))

/-- The leaf of an address is removed, whole under R225: the entry, every buffered translation of its page, and every access that used
it. -/
def State.removeLeaf (s : State) (va : Nat) (l : Leaf) : State :=
  let s := s.performPage l
  match s.slotAt va l.level with
  | .ok a => (l.framesOf.foldl (fun s fr => s.fireFrame fr) ((s.putEntry a 0 0).tlbDrop l.base l.size))
  | .error _ => s

/-! ## Pools (spec/18 R464, R465) -/

/-- The first-touch pool of a tier; the third and fourth TIER codes name none. -/
def Partition.ftPool (q : Partition) (t : Nat) : List Nat := if t = 0 then q.pool1 else if t = 1 then q.pool2 else []

/-- Change the pool of a tier. -/
def Partition.setPool (q : Partition) (t : Nat) (l : List Nat) : Partition :=
  if t = 0 then { q with pool1 := l } else if t = 1 then { q with pool2 := l } else q

/-- The free slots of a tier's current table frame, as addresses. -/
def Partition.tableSlots (q : Partition) (t : Nat) : List Nat :=
  let fr (o : Option Nat) (l : List Nat) : List Nat := match o with
    | some f => l.map (fun i => f * 2 ^ 18 + i * 8192)
    | none => []
  if t = 0 then fr q.table1 q.slots1 else fr q.table2 q.slots2

/-- A tier's current table frame with other free slots. -/
def Partition.setTable (q : Partition) (t : Nat) (f : Option Nat) (l : List Nat) : Partition :=
  if t = 0 then { q with table1 := f, slots1 := l } else { q with table2 := f, slots2 := l }

/-- The enabled range of lowest number that holds an address. -/
def Partition.ftRange (q : Partition) (va : Nat) : Option FtRange :=
  ((List.range 16).map q.ft.look).find? (fun r =>
    r.len != 0 && decide (r.base.toNat ≤ va ∧ va < r.base.toNat + r.len.toNat))

/-- `k` table slots carved: the current table frame's first, then those of a further frame of the pool (R465). -/
def Partition.carve (q : Partition) (t k : Nat) : Partition × List Nat :=
  let have' := q.tableSlots t
  let cur := if t = 0 then q.table1 else q.table2
  let idx := if t = 0 then q.slots1 else q.slots2
  if k ≤ have'.length then (q.setTable t cur (idx.drop k), have'.take k)
  else match q.ftPool t with
    | [] => (q, have')
    | f :: r =>
      let more := k - have'.length
      ((q.setPool t r).setTable t (some f) ((List.range 32).drop more),
       have' ++ ((List.range 32).take more).map (fun i => f * 2 ^ 18 + i * 8192))

/-- `MAPF` of an address for a partition (R465): the result. -/
def State.mapf (s : State) (p : Nat) (ga : Word) : State × Word :=
  let va := ga.toNat / 2 ^ 18 * 2 ^ 18
  let q := s.part p
  match (if 2 ^ 54 ≤ ga.toNat || s.rootPart va != some p then none else q.ftRange va) with
  | none => (s, 3)
  | some r =>
    let t := (r.tmpl.extractLsb' 26 2).toNat
    let answer (s : State) (st : Nat) : State × Word := (s, BitVec.ofNat 64 (((s.part p).ftPool t).length * 2 ^ 32 + st))
    let x := s.slotAt va 0
    let m := match x with
      | .ok _ => 0
      | .error e => e.2
    let need := if (q.tableSlots t).length < m then 2 else 1
    if (s.presentLeaf va).isSome then answer s 1
    else if (q.ftPool t).length < need then answer s 2
    else match q.ftPool t with
      | [] => answer s 2
      | fr :: rest =>
        let c := (q.setPool t rest).carve t m
        let s := s.modPart p (fun _ => c.1)
        let y := match x with
          | .ok a => (s, a)
          | .error e => s.linkTables va p e.2 e.1 c.2
        let s := y.1.putEntry y.2 (BitVec.ofNat 64 (fr * 2 ^ 18 + 3)) r.tmpl
        answer { s with frames := s.frames.upd fr (fun f => { f with firstTouch := true }) } 0

/-- `MAPQ` (R466). -/
def State.mapq (s : State) (p : Nat) (ga : Word) : Word :=
  if s.rootPart (ga.toNat % 2 ^ 54) != some p then 0
  else match s.presentLeaf ga.toNat with
    | some l => l.hi ||| 0x8000000000000000
    | none => 0

/-- `UNMAPF` (R466): only a first-touch frame of the partition's own is let go. -/
def State.unmapf (s : State) (p : Nat) (ga : Word) : State × Word :=
  match s.presentLeaf ga.toNat with
  | none => (s, 1)
  | some l =>
    let fr := l.frame / 2 ^ 18
    let f := s.frames.look fr
    if l.level ≠ 0 || !(l.mt == 0 || l.mt == 1) || !f.firstTouch || f.owner != some p then (s, 3)
    else
      let s := ((s.removeLeaf ga.toNat l).dropFrame fr).advanceGen fr
      let s := { s with frames := s.frames.upd fr (fun f => { f with firstTouch := false }) }
      (s.modPart p (fun q => q.setPool l.tier (q.ftPool l.tier ++ [fr])), 0)

end Sys2Proof.Machine
end

