-- ==== Sys2Proof/Machine/Cipher.lean ====
section
/-!
DEFINITION. The cipher and the hash that the spec names by their standards: AES-256-GCM (spec/14 R395, R396) and SHA-512
(spec/15 R404, spec/14 R397). A byte string's first byte is the list's head.
-/

namespace Sys2Proof.Machine

/-! ## AES-256 -/

/-- Product in the field of 256 elements with the polynomial x^8 + x^4 + x^3 + x + 1. -/
def gf8 (a b : Byte) : Byte :=
  ((List.range 8).foldl (fun (r : Byte × Byte) i =>
    (if b.getLsbD i then r.1 ^^^ r.2 else r.1, (r.2 <<< 1) ^^^ (if r.2.getLsbD 7 then 0x1B#8 else 0))) ((0 : Byte), a)).1

/-- The inverse, x^254; 0 for 0. -/
def gf8Inv (x : Byte) : Byte :=
  let sq (y : Byte) : Byte := gf8 y y
  let x2 := sq x
  let x3 := gf8 x2 x
  let x12 := sq (sq x3)
  let x15 := gf8 x12 x3
  let x240 := sq (sq (sq (sq x15)))
  gf8 (gf8 x240 x12) x2

/-- The substitution of a byte. -/
def aesSub (x : Byte) : Byte :=
  let y := gf8Inv x
  y ^^^ y.rotateLeft 1 ^^^ y.rotateLeft 2 ^^^ y.rotateLeft 3 ^^^ y.rotateLeft 4 ^^^ 0x63#8

/-- The substitution as a table, by index. -/
def aesTable : Array Byte := (Array.range 256).map (fun i => aesSub (BitVec.ofNat 8 i))

/-- Bytes combined by exclusive or. -/
def xorBytes (a b : List Byte) : List Byte := List.zipWith (fun x y => x ^^^ y) a b

/-- One word of the key schedule after the `i` words in `ws` (newest first), with round constant `rc`. -/
def aesNextWord (tab : Array Byte) (i : Nat) (rc : Byte) (ws : List (List Byte)) : List Byte :=
  let t := ws.getD 0 []
  let sub (l : List Byte) : List Byte := l.map (fun b => tab.getD b.toNat 0)
  let t := if i % 8 = 0 then xorBytes (sub (t.drop 1 ++ t.take 1)) [rc, 0, 0, 0]
    else if i % 8 = 4 then sub t else t
  xorBytes (ws.getD 7 []) t

/-- The 60 words of the key schedule of a 32-byte key. -/
def aesKeys (tab : Array Byte) (key : List Byte) : List (List Byte) :=
  let first := (List.range 8).map (fun i => (key.drop (4 * i)).take 4)
  ((List.range 52).foldl (fun (r : List (List Byte) × Byte) i =>
    (aesNextWord tab (i + 8) r.2 r.1 :: r.1, if i % 8 = 0 then gf8 r.2 2 else r.2)) (first.reverse, 1)).1.reverse

/-- The 15 round keys, 16 bytes each. -/
def aesRounds (tab : Array Byte) (key : List Byte) : List (List Byte) :=
  let ws := aesKeys tab key
  (List.range 15).map (fun r => ((ws.drop (4 * r)).take 4).flatten)

/-- The rows shifted: byte r of column c comes from column c + r. -/
def aesShift (st : List Byte) : List Byte :=
  let a := st.toArray
  (List.range 16).map (fun i => a.getD ((i + 4 * (i % 4)) % 16) 0)

/-- The columns mixed. -/
def aesMix (st : List Byte) : List Byte :=
  let a := st.toArray
  (List.range 16).map (fun i =>
    let b (k : Nat) : Byte := a.getD (i / 4 * 4 + (i + k) % 4) 0
    gf8 (b 0) 2 ^^^ gf8 (b 1) 3 ^^^ b 2 ^^^ b 3)

/-- One block encrypted under round keys. -/
def aesBlock (tab : Array Byte) (ks : List (List Byte)) (x : List Byte) : List Byte :=
  match ks with
  | [] => x
  | k0 :: r =>
    let st := r.dropLast.foldl (fun st k =>
      xorBytes (aesMix (aesShift (st.map (fun b => tab.getD b.toNat 0)))) k) (xorBytes x k0)
    xorBytes (aesShift (st.map (fun b => tab.getD b.toNat 0))) (r.getLast?.getD [])

/-! ## GCM -/

/-- Sixteen bytes as a number, the first byte highest. -/
def blockNum (bs : List Byte) : BitVec 128 := bs.foldl (fun (n : BitVec 128) b => (n <<< 8) ||| b.zeroExtend 128) 0

/-- A number as `n` bytes, the highest first. -/
def bigBytes (n k : Nat) : List Byte := ((List.range n).map (fun i => BitVec.ofNat 8 (k / 256 ^ i))).reverse

/-- Product in GCM's field. -/
def gcmMul (x y : BitVec 128) : BitVec 128 :=
  ((List.range 128).foldl (fun (r : BitVec 128 × BitVec 128) i =>
    (if x.getLsbD (127 - i) then r.1 ^^^ r.2 else r.1,
     (r.2 >>> 1) ^^^ (if r.2.getLsbD 0 then 0xE1#128 <<< 120 else 0))) ((0 : BitVec 128), y)).1

/-- A byte string cut into blocks of 16, the last one filled with zeros. -/
def blocks16 (bs : List Byte) : List (List Byte) :=
  (List.range ((bs.length + 15) / 16)).map (fun i =>
    let b := (bs.drop (16 * i)).take 16
    b ++ List.replicate (16 - b.length) 0)

/-- The hash of additional data and ciphertext under the hash key. -/
def ghash (h : BitVec 128) (aad c : List Byte) : BitVec 128 :=
  (blocks16 aad ++ blocks16 c ++ [bigBytes 8 (8 * aad.length) ++ bigBytes 8 (8 * c.length)]).foldl
    (fun y b => gcmMul (y ^^^ blockNum b) h) 0

/-- The plaintext and the tag of a ciphertext under a 32-byte key and a 12-byte nonce. -/
def gcmOpen (key iv aad c : List Byte) : List Byte × List Byte :=
  let tab := aesTable
  let ks := aesRounds tab key
  let h := blockNum (aesBlock tab ks (List.replicate 16 0))
  let mask (n : Nat) : List Byte := aesBlock tab ks (iv ++ bigBytes 4 n)
  let bs := blocks16 c
  let p := (List.range bs.length).flatMap (fun i => xorBytes (bs.getD i []) (mask (i + 2)))
  (p.take c.length, xorBytes (mask 1) (bigBytes 16 (ghash h aad c).toNat))

/-! ## SHA-512 -/

/-- The initial hash value. -/
def shaInit : List Word :=
  [0x6A09E667F3BCC908, 0xBB67AE8584CAA73B, 0x3C6EF372FE94F82B, 0xA54FF53A5F1D36F1,
   0x510E527FADE682D1, 0x9B05688C2B3E6C1F, 0x1F83D9ABFB41BD6B, 0x5BE0CD19137E2179]

/-- Round constants 0 to 15. -/
def shaK0 : List Word :=
  [0x428A2F98D728AE22, 0x7137449123EF65CD, 0xB5C0FBCFEC4D3B2F, 0xE9B5DBA58189DBBC,
   0x3956C25BF348B538, 0x59F111F1B605D019, 0x923F82A4AF194F9B, 0xAB1C5ED5DA6D8118,
   0xD807AA98A3030242, 0x12835B0145706FBE, 0x243185BE4EE4B28C, 0x550C7DC3D5FFB4E2,
   0x72BE5D74F27B896F, 0x80DEB1FE3B1696B1, 0x9BDC06A725C71235, 0xC19BF174CF692694]

/-- Round constants 16 to 31. -/
def shaK1 : List Word :=
  [0xE49B69C19EF14AD2, 0xEFBE4786384F25E3, 0x0FC19DC68B8CD5B5, 0x240CA1CC77AC9C65,
   0x2DE92C6F592B0275, 0x4A7484AA6EA6E483, 0x5CB0A9DCBD41FBD4, 0x76F988DA831153B5,
   0x983E5152EE66DFAB, 0xA831C66D2DB43210, 0xB00327C898FB213F, 0xBF597FC7BEEF0EE4,
   0xC6E00BF33DA88FC2, 0xD5A79147930AA725, 0x06CA6351E003826F, 0x142929670A0E6E70]

/-- Round constants 32 to 47. -/
def shaK2 : List Word :=
  [0x27B70A8546D22FFC, 0x2E1B21385C26C926, 0x4D2C6DFC5AC42AED, 0x53380D139D95B3DF,
   0x650A73548BAF63DE, 0x766A0ABB3C77B2A8, 0x81C2C92E47EDAEE6, 0x92722C851482353B,
   0xA2BFE8A14CF10364, 0xA81A664BBC423001, 0xC24B8B70D0F89791, 0xC76C51A30654BE30,
   0xD192E819D6EF5218, 0xD69906245565A910, 0xF40E35855771202A, 0x106AA07032BBD1B8]

/-- Round constants 48 to 63. -/
def shaK3 : List Word :=
  [0x19A4C116B8D2D0C8, 0x1E376C085141AB53, 0x2748774CDF8EEB99, 0x34B0BCB5E19B48A8,
   0x391C0CB3C5C95A63, 0x4ED8AA4AE3418ACB, 0x5B9CCA4F7763E373, 0x682E6FF3D6B2B8A3,
   0x748F82EE5DEFB2FC, 0x78A5636F43172F60, 0x84C87814A1F0AB72, 0x8CC702081A6439EC,
   0x90BEFFFA23631E28, 0xA4506CEBDE82BDE9, 0xBEF9A3F7B2C67915, 0xC67178F2E372532B]

/-- Round constants 64 to 79. -/
def shaK4 : List Word :=
  [0xCA273ECEEA26619C, 0xD186B8C721C0C207, 0xEADA7DD6CDE0EB1E, 0xF57D4F7FEE6ED178,
   0x06F067AA72176FBA, 0x0A637DC5A2C898A6, 0x113F9804BEF90DAE, 0x1B710B35131C471B,
   0x28DB77F523047D84, 0x32CAAB7B40C72493, 0x3C9EBE0A15C9BEBC, 0x431D67C49C100D4C,
   0x4CC5D4BECB3E42B6, 0x597F299CFC657E2A, 0x5FCB6FAB3AD6FAEC, 0x6C44198C4A475817]

/-- The 80 round constants. -/
def shaK : Array Word := (shaK0 ++ shaK1 ++ shaK2 ++ shaK3 ++ shaK4).toArray

/-- The message schedule of a block of 16 words: 80 words. -/
def shaSchedule (ws : List Word) : Array Word :=
  (List.range 64).foldl (fun (w : Array Word) t =>
    let a := w.getD (t + 1) 0
    let b := w.getD (t + 14) 0
    let s0 := a.rotateRight 1 ^^^ a.rotateRight 8 ^^^ (a >>> 7)
    let s1 := b.rotateRight 19 ^^^ b.rotateRight 61 ^^^ (b >>> 6)
    w.push (w.getD t 0 + s0 + w.getD (t + 9) 0 + s1)) ws.toArray

/-- One round on the eight working words. -/
def shaRound (v : List Word) (k w : Word) : List Word :=
  match v with
  | [a, b, c, d, e, f, g, h] =>
    let t1 := h + (e.rotateRight 14 ^^^ e.rotateRight 18 ^^^ e.rotateRight 41) + ((e &&& f) ^^^ (~~~e &&& g)) + k + w
    let t2 := (a.rotateRight 28 ^^^ a.rotateRight 34 ^^^ a.rotateRight 39) + ((a &&& b) ^^^ (a &&& c) ^^^ (b &&& c))
    [t1 + t2, a, b, c, d + t1, e, f, g]
  | v => v

/-- One block of 16 words taken into a hash value. -/
def shaBlock (h ws : List Word) : List Word :=
  let w := shaSchedule ws
  List.zipWith (fun x y => x + y) h
    ((List.range 80).foldl (fun v t => shaRound v (shaK.getD t 0) (w.getD t 0)) h)

/-- The words of a byte string, eight bytes each, the highest first. -/
def bigWords (bs : List Byte) : List Word :=
  (List.range (bs.length / 8)).map (fun i =>
    ((bs.drop (8 * i)).take 8).foldl (fun (n : Word) b => (n <<< 8) ||| b.zeroExtend 64) 0)

/-- The SHA-512 digest of a byte string: 64 bytes. -/
def sha512 (bs : List Byte) : List Byte :=
  let z := (112 + 128 - (bs.length + 1) % 128) % 128
  let ws := bigWords (bs ++ [0x80] ++ List.replicate z 0 ++ bigBytes 16 (8 * bs.length))
  let h := (List.range (ws.length / 16)).foldl (fun h i => shaBlock h ((ws.drop (16 * i)).take 16)) shaInit
  h.flatMap (fun x => bigBytes 8 x.toNat)

end Sys2Proof.Machine
end

