-- ==== Sys2Proof/Machine/Tiles.lean ====
section
/-!
DEFINITION. Tiles: layout words (spec/06 R175, R176), elements, slices (R178), and the pairs of operand formats (R190).
-/

namespace Sys2Proof.Machine

/-! ## Layouts (R175, R176) -/

/-- A tile's layout word read as its fields. -/
abbrev Layout := Word

def Layout.valid (l : Layout) : Bool := l.getLsbD 0
def Layout.af (l : Layout) : Nat := (l.extractLsb' 1 2).toNat
def Layout.cols (l : Layout) : Nat := (l.extractLsb' 16 8).toNat
def Layout.rows (l : Layout) : Nat := (l.extractLsb' 24 8).toNat
def Layout.kib (l : Layout) : Nat := (l.extractLsb' 32 9).toNat

/-- The type of a tile's elements. -/
def Layout.ty (l : Layout) : CTy :=
  if l.af = 0 then .f32 else if l.af = 1 then .i32 else if l.af = 2 then .f16 else .bf16

/-- The accumulator format is a float. -/
def Layout.flt (l : Layout) : Bool := l.af != 1

/-- Bytes of an element. -/
def Layout.esize (l : Layout) : Nat := if l.af ≤ 1 then 4 else 2

/-- The accumulator byte of an element (R176). -/
def Layout.at (l : Layout) (r c : Nat) : Nat := l.kib * 1024 + (r * l.cols + c) * l.esize

/-- A forme's layout of a tile. -/
def Forme.layout (f : Forme) (t : Nat) : Layout := f.tiles.look t

/-- An element's bits. -/
def Forme.elem (f : Forme) (l : Layout) (r c : Nat) : Nat := natOf (f.acc.bytes (l.at r c) l.esize)

/-- An element's value. -/
def Forme.tileVal (f : Forme) (l : Layout) (r c : Nat) : FVal :=
  match l.ty.value (f.elem l r c) with
  | .flt v => v
  | .int i => FVal.ofInt i

/-- A forme with an element's bits put. -/
def Forme.putElem (f : Forme) (l : Layout) (r c x : Nat) : Forme :=
  { f with acc := f.acc.putBytes (l.at r c) (bytesOf l.esize x) }

/-- Elements of the rows `8b` to `8b + 7` and `n` columns put, each from its position. -/
def Forme.putBlock (f : Forme) (l : Layout) (b n : Nat) (g : Nat → Nat → Nat) : Forme :=
  (List.range 8).foldl (fun f i => (List.range n).foldl (fun f c => f.putElem l (8 * b + i) c (g (8 * b + i) c)) f) f

/-! ## Slices (R178) -/

/-- The elements a slice holds in a lane, lowest first: row and column of each position, in or out of the tile. -/
def sliceAt (l : Layout) (col : Bool) (s lane : Nat) : List (Nat × Nat) :=
  let per := if l.esize = 4 then 32 else 64
  let len := if col then l.rows else l.cols
  let k := (len + per - 1) / per
  let off := per * (s % k)
  let at' (i : Nat) : Nat × Nat := if col then (off + i, s / k) else (s / k, off + i)
  if l.esize = 4 then [at' lane] else [at' (2 * lane), at' (2 * lane + 1)]

/-- The position is an element of the tile. -/
def Layout.has (l : Layout) (p : Nat × Nat) : Bool := l.valid && decide (p.1 < l.rows ∧ p.2 < l.cols)

/-- A lane of a slice read; empty positions give zero bits. -/
def Forme.readSlice (f : Forme) (l : Layout) (col : Bool) (s lane : Nat) : Nat :=
  if !l.valid then 0
  else (sliceAt l col s lane).foldr (fun p x =>
    (if l.has p then f.elem l p.1 p.2 else 0) + 2 ^ (8 * l.esize) * x) 0

/-- A lane of a slice written; bits for empty positions are discarded. -/
def Forme.writeSlice (f : Forme) (l : Layout) (col : Bool) (s lane x : Nat) : Forme :=
  if !l.valid then f
  else
    let ps := sliceAt l col s lane
    (List.range ps.length).foldl (fun f i =>
      let p := ps.getD i (0, 0)
      if l.has p then f.putElem l p.1 p.2 (x / 2 ^ (8 * l.esize * i)) else f) f

/-! ## Operand formats (R190, R191) -/

/-- A pair of formats may form chains into an accumulator format (R190). -/
def pairOk (fa ga fb gb af : Nat) : Bool :=
  let i32 := af == 1
  let both (lo hi : Nat) : Bool := decide (lo ≤ fa ∧ fa ≤ hi ∧ lo ≤ fb ∧ fb ≤ hi)
  if fa = 0 ∨ fa = 1 then fb == fa && af == 0
  else if fa = 2 ∨ fa = 3 then fb == fa && !i32
  else if fa = 11 ∨ fa = 16 then fb == fa && i32
  else if fa = 23 then fb == 23 && !i32 && ga % 4 == gb % 4
  else if both 4 10 then !i32
  else if both 12 15 then i32
  else both 17 22 && !i32 && ga % 4 == gb % 4

/-- The K rule (R191), with the sparse forms' limit to unscaled pairs. -/
def kOk (fa : Nat) (ga : BitVec 3) (k : Nat) (sparse : Bool) : Bool :=
  if isScaled fa then !sparse && k == blockLen fa ga else true

/-- The exact sum of products (R192); `rdn` as in `FVal.add`. -/
def chainSum (rdn : Bool) (a b : List FVal) : FVal :=
  match List.zipWith FVal.mul a b with
  | [] => .zero
  | p :: r => r.foldl (FVal.add rdn) p

/-- What a chain drains into a tile element (R193): `c0` the old value or +0, `sa` and `sb` the scales, `x` the sum. -/
def drain (rdn : Bool) (c0 sa sb x : FVal) : FVal :=
  let t := if sa.isNan || sb.isNan then .nan
    else if sa.isZero || sb.isZero then .zero
    else FVal.mul (FVal.mul sa sb) x
  FVal.add rdn c0 t

end Sys2Proof.Machine
end

