-- ==== Sys2Proof/Machine/Engine.lean ====
section
/-!
DEFINITION. The matrix engine: how it reads and writes memory, scratchpad and sealed units, and what each engine instruction
does when it is executed (spec/06 R187 to R211, spec/14 R396, R398).
-/

namespace Sys2Proof.Machine

/-! ## Reaching operands -/

/-- A fault of the engine: what failed and the operand (spec/18 R450): 1 A, 2 B, 3 metadata, 4 destination, 5 scale. -/
structure MStop where
  code : BitVec 8
  reason : BitVec 8 := 0
  va : Nat := 0
  op : Nat := 4
  win : Nat := 0
  deriving DecidableEq, Repr, Inhabited

/-- A fault of an access as one of the engine. -/
def Flt.stop (f : Flt) (op : Nat) : MStop := { code := f.code, reason := f.reason, va := f.va, op := op, win := f.win }

/-- An answer of the engine's steps. -/
abbrev MRes (α : Type) := State × Except MStop α

/-- One step after another, unless the first one failed. -/
def MRes.then {α β : Type} (x : MRes α) (f : State → α → MRes β) : MRes β :=
  match x with
  | (s, .ok a) => f s a
  | (s, .error e) => (s, .error e)

/-- A step for every element of a list, the answers in order. -/
def mEach {α β : Type} (f : State → α → MRes β) : State → List α → MRes (List β)
  | s, [] => (s, .ok [])
  | s, a :: r => (f s a).then (fun s b => (mEach f s r).then (fun s bs => (s, .ok (b :: bs))))

/-- The plaintext of a 4 KiB unit of a SEALED frame (spec/14 R396, R398). -/
def State.openUnit (s : State) (part : Nat) (key : BitVec 8) (unit : Nat) : Except (BitVec 8) (List Byte) :=
  let k := s.keys.look key.toNat
  let e := s.side.look unit
  if !(k.installed && k.holder == some part) then .error 0x23
  else if !e.v || e.key != key then .error 0x22
  else
    let r := gcmOpen (bytesOf 32 k.key.toNat) (bytesOf 12 e.iv.toNat) [e.key] (s.physBytes (unit * 4096) 4096)
    if r.2 == bytesOf 16 e.tag.toNat then .ok r.1 else .error 0x22

/-- Bytes of a SEALED page, unit by unit. -/
def State.openBytes (s : State) (part : Nat) (key : BitVec 8) (pa n : Nat) : Except (BitVec 8) (List Byte) :=
  let us := (List.range ((pa + n - 1) / 4096 - pa / 4096 + 1)).map (· + pa / 4096)
  us.foldl (fun r u => match r with
    | .error e => .error e
    | .ok bs => match s.openUnit part key u with
      | .error e => .error e
      | .ok p =>
        let lo := max pa (u * 4096)
        let hi := min (pa + n) ((u + 1) * 4096)
        .ok (bs ++ (p.drop (lo - u * 4096)).take (hi - lo))) (.ok [])

/-- The engine of a forme. -/
structure Eng where
  fk : Nat
  core : Nat
  part : Nat
  world : Nat
  deriving DecidableEq, Repr, Inhabited

/-- An operand: its space, and the number its faults name. -/
structure Operand where
  win : Bool
  op : Nat
  deriving DecidableEq, Repr, Inhabited

/-- What hotness sampling records of an access of the engine (spec/07 R241). -/
def Eng.hot (g : Eng) (va : Nat) (l : Leaf) : HotInfo :=
  { hs := l.hs, part := l.part, tier := l.tier, va := va, world := g.world, core := some g.core }

/-- The pieces of a byte range that lie in one page each. -/
def pagePieces (a n : Nat) : List (Nat × Nat) :=
  if n = 0 then []
  else (List.range ((a + n - 1) / 2 ^ 18 - a / 2 ^ 18 + 1)).map (fun i =>
    let p := a / 2 ^ 18 + i
    (max a (p * 2 ^ 18), min (a + n) ((p + 1) * 2 ^ 18) - max a (p * 2 ^ 18)))

/-- Bytes an operand names, read; `open'` says that the operand may be sealed (R204). -/
def State.engRead (s : State) (g : Eng) (o : Operand) (open' : Bool) (a n : Nat) : MRes (List Byte) :=
  if n = 0 then (s, .ok [])
  else if o.win then
    match s.window g.fk a n with
    | .ok (k, x) => (s, .ok (s.spadRead k x n))
    | .error f => (s, .error (f.stop o.op))
  else
    let piece (s : State) (p : Nat × Nat) : MRes (List Byte) :=
      match s.translate (some g.core) g.part p.1 p.2 .read with
      | (s, .error f) => (s, .error (f.stop o.op))
      | (s, .ok (pa, l)) =>
        if l.mt = 0 then
          let r := s.homeRead pa p.2 (g.hot p.1 l) 4
          (r.1, .ok r.2)
        else if l.mt = 1 then
          if !open' then (s, .error { code := 0x20, va := p.1, op := o.op })
          else match s.openBytes g.part l.key pa p.2 with
            | .ok bs => (s.hot (g.hot p.1 l) pa 4, .ok bs)
            | .error c => (s, .error { code := c, va := p.1, op := o.op })
        else (s, .error { code := 0x11, reason := 0x0C, va := p.1, op := o.op })
    (mEach piece s (pagePieces a n)).then (fun s bs => (s, .ok bs.flatten))

/-- Bytes an operand names may be written. -/
def State.engMayWrite (s : State) (g : Eng) (o : Operand) (a n : Nat) : MRes Unit :=
  if o.win then
    match s.window g.fk a n with
    | .ok _ => (s, .ok ())
    | .error f => (s, .error (f.stop o.op))
  else
    let piece (s : State) (p : Nat × Nat) : MRes Unit :=
      match s.translate (some g.core) g.part p.1 p.2 .write with
      | (s, .error f) => (s, .error (f.stop o.op))
      | (s, .ok (_, l)) =>
        if l.mt = 0 then (s, .ok ())
        else if l.mt = 1 then (s, .error { code := 0x21, va := p.1, op := o.op })
        else (s, .error { code := 0x11, reason := 0x0C, va := p.1, op := o.op })
    (mEach piece s (pagePieces a n)).then (fun s _ => (s, .ok ()))

/-- Checked bytes of an operand written. -/
def State.engWrite (s : State) (g : Eng) (o : Operand) (a : Nat) (bs : List Byte) : State :=
  if o.win then
    match s.window g.fk a bs.length with
    | .ok (k, x) => s.spadWrite k x bs
    | .error _ => s
  else (pagePieces a bs.length).foldl (fun s p =>
    match s.translate (some g.core) g.part p.1 p.2 .write with
    | (s, .error _) => s
    | (s, .ok (pa, l)) => s.homeWrite pa ((bs.drop (p.1 - a)).take p.2) .device (g.hot p.1 l) 1) s

/-- The page or segment of an operand's byte (R188): it has a format only on a NORMAL or SEALED page. -/
def State.engRegion (s : State) (g : Eng) (o : Operand) (a : Nat) : MRes Region :=
  if o.win then
    match s.window g.fk a 1 with
    | .ok (k, x) =>
      let r := (s.launch (s.forme k).launch).segAt x
      (s, .ok { r with base := a - x + r.base })
    | .error f => (s, .error (f.stop o.op))
  else match s.leafFor (some g.core) a with
    | (s, .ok l) =>
      if 2 ≤ l.mt then (s, .error { code := 0x11, reason := 0x0C, va := a % 2 ^ 54, op := o.op })
      else (s, .ok { fmt := l.fmt, geo := l.geo, base := l.base, size := l.size })
    | (s, .error f) => (s, .error (f.stop o.op))

/-! ## Rows (R187, R188) -/

/-- What a row start's offset must be a multiple of: 8, and 3 for 6-bit formats, and the bytes of a block (R188). -/
def rowAlign (fmt : Nat) (geo : BitVec 3) : Nat :=
  Nat.lcm (Nat.lcm 8 (if fmtWidth fmt = 6 then 3 else 1)) (if hasBlocks fmt then blockLen fmt geo * fmtWidth fmt / 8 else 1)

/-- Bytes of a row of `n` elements. -/
def rowBytes (fmt n : Nat) : Nat := (n * fmtWidth fmt + 7) / 8

/-- The places in a row at which a page or segment may begin. -/
def rowMarks (o : Operand) (a n : Nat) : List Nat :=
  let g := if o.win then 1024 else 2 ^ 18
  a :: ((List.range ((a + n - 1) / g - a / g)).map (fun i => (a / g + i + 1) * g))

/-- The checks of a row before its bytes: attribute, alignment, data region (R188); its region. -/
def State.engRow (s : State) (g : Eng) (o : Operand) (fmt : Nat) (geo : BitVec 3) (a n : Nat) : MRes Region :=
  let va := if o.win then 0 else a % 2 ^ 54
  (mEach (fun s x => (s.engRegion g o x).then (fun s r =>
      if r.fmt = fmt ∧ r.geo = geo then (s, .ok r) else (s, .error { code := 0x08, va := va, op := o.op }))) s
    (rowMarks o a (max 1 (rowBytes fmt n)))).then (fun s rs =>
      let r := rs.headD { fmt := fmt, geo := geo, base := 0, size := 0 }
      if (a - r.base) % rowAlign fmt geo ≠ 0 then (s, .error { code := 0x05, va := va, op := o.op })
      else if hasBlocks fmt && decide (7 * r.size < 8 * (a - r.base) + n * fmtWidth fmt) then
        (s, .error { code := 0x11, reason := 0x09, va := va, op := o.op })
      else (s, .ok r))

/-- The address of the scale entry of the row's block `j`. -/
def Region.scaleAt (r : Region) (a j : Nat) : Nat :=
  r.base + 7 * r.size / 8 + 2 * ((a - r.base) / (blockLen r.fmt r.geo * fmtWidth r.fmt / 8) + j)

/-- A row of an operand: the values of its elements without scale, and its first block's scale. -/
structure Row where
  vals : List FVal := []
  raw : List Nat := []
  scale : FVal := .zero
  deriving DecidableEq, Repr, Inhabited

/-- A row of `n` elements read. -/
def State.engReadRow (s : State) (g : Eng) (o : Operand) (open' : Bool) (fmt : Nat) (geo : BitVec 3) (a n : Nat) :
    MRes Row :=
  (s.engRow g o fmt geo a n).then (fun s r =>
    (s.engRead g o open' a (rowBytes fmt n)).then (fun s bs =>
      let kb := blockLen fmt geo
      let scales := if hasBlocks fmt then (List.range ((n + kb - 1) / kb)).map (r.scaleAt a) else []
      (mEach (fun s x => s.engRead g { o with op := 5 } open' x 2) s scales).then (fun s ss =>
        let x := natOf bs
        let w := fmtWidth fmt
        let raw := (List.range n).map (fun i => x / 2 ^ (w * i) % 2 ^ w)
        let byte (j k : Nat) : Nat := ((ss.getD j []).getD k 0).toNat
        (s, .ok {
          raw := raw
          vals := (List.range n).map (fun i => elemVal fmt (raw.getD i 0) (byte (i / kb) 1))
          scale := scaleVal fmt geo (byte 0 0) }))))

/-! ## Multiplication (R187 to R199) -/

/-- The fields of a matrix descriptor (R184), in bytes and elements. -/
structure Shape where
  sa : Nat
  sb : Nat
  m : Nat
  n : Nat
  k : Nat
  acc : Bool
  deriving DecidableEq, Repr, Inhabited

/-- A descriptor read as its fields. -/
def shapeOf (x : Word) : Shape :=
  { sa := 8 * (x.extractLsb' 45 19).toNat, sb := 8 * (x.extractLsb' 26 19).toNat,
    m := 8 * ((x.extractLsb' 20 6).toNat + 1), n := 16 * (x.extractLsb' 14 6).toNat, k := 48 * (x.extractLsb' 7 7).toNat,
    acc := x.getLsbD 6 }

/-- Fields of an entry's MOD bits (R183). -/
def MqEntry.aw (e : MqEntry) : Bool := e.mod.getLsbD 19
def MqEntry.bw (e : MqEntry) : Bool := e.mod.getLsbD 18
def MqEntry.sel (e : MqEntry) : Nat := (e.mod.extractLsb' 16 2).toNat
def MqEntry.rm (e : MqEntry) : RM := match RM.parse (e.mod.extractLsb' 9 3) with
  | .ok r => r
  | .error _ => .rne
def MqEntry.sat (e : MqEntry) : Bool := e.mod.getLsbD 8

/-- The form is a sparse one. -/
def MqEntry.sparse (e : MqEntry) : Bool := e.opc == 0x128 || e.opc == 0x129

/-- The entry's own part: shape and base addresses (R198). `f` is the forme it runs for. -/
def MqEntry.partOf (e : MqEntry) (f : Forme) : Shape × Nat × Nat :=
  let d := shapeOf e.x
  match e.part with
  | none => (d, e.a.toNat, e.b.toNat)
  | some i =>
    let r := 128 * (i / f.pw)
    let c := 192 * (i % f.pw)
    ({ d with m := min 128 (d.m - r), n := min 192 (d.n - c) },
     (e.a + BitVec.ofNat 64 (r * d.sa)).toNat, (e.b + BitVec.ofNat 64 (c * d.sb)).toNat)

/-- Kept elements of a sparse row of 48 positions (R196). -/
def kept (sel : Nat) : Nat := if sel = 0 then 24 else 12

/-- The K positions of row `r`'s kept elements, from the metadata registers (R196, R197). -/
def positions (sel : Nat) (lanes : Sparse VReg) (r : Nat) : List Nat :=
  let reg := lanes.look (r / 16)
  let plane (p : Nat) : Nat := (reg.toList.getD p 0).toNat
  if sel = 0 then
    (List.range 24).map (fun i =>
      let q := i / 2
      4 * q + plane (2 * (r % 16) + q / 6) / 2 ^ (4 * (q % 6) + 2 * (i % 2)) % 4)
  else
    (List.range 12).map (fun q => 4 * q + plane ((if sel = 1 then 0 else 16) + r % 16) / 2 ^ (2 * q) % 4)

/-- The address of a row. -/
def rowAt (base stride r : Nat) : Nat := (base + r * stride) % 2 ^ 64

/-- One row block of a multiplication (R193, R201): A's rows of the block read, then drained. -/
def State.mmaBlock (s : State) (g : Eng) (e : MqEntry) (l : Layout) (d : Shape) (base : Nat) (ra : Region)
    (bs : List Row) (b : Nat) : MRes Unit :=
  let na := if e.sparse then kept e.sel else d.k
  let o : Operand := { win := e.aw, op := 1 }
  (mEach (fun s i => s.engReadRow g o true ra.fmt ra.geo (rowAt base d.sa (8 * b + i)) na) s (List.range 8)).then
    (fun s as =>
      let rdn := e.rm == .rdn
      let s := s.modForme g.fk (fun f =>
        f.putBlock l b d.n (fun r c =>
          let a := as.getD (r % 8) {}
          let col := bs.getD c {}
          let bv := if e.sparse then (positions e.sel e.lanes r).map (fun p => col.vals.getD p .zero) else col.vals
          let c0 := if d.acc then f.tileVal l r c else .zero
          conv l.ty (drain rdn c0 a.scale col.scale (chainSum rdn a.vals bv)) e.rm e.sat (fmtFloat ra.fmt)))
      (s, .ok ()))

/-- Row blocks `b` to `b + n − 1` one after the other; with a fault, how many blocks are finished. -/
def blocksFrom (f : State → Nat → MRes Unit) : Nat → Nat → State → State × Nat × Option MStop
  | 0, b, s => (s, b, none)
  | n + 1, b, s => match f s b with
    | (s, .ok _) => blocksFrom f n (b + 1) s
    | (s, .error e) => (s, b, some e)

/-- What an instruction comes to: the state, the finished blocks when it works in blocks, the fault it stops at. -/
abbrev MRun := State × Option Nat × Option MStop

/-- A step before block 0, then the blocks from `done` to `n` − 1. -/
def inBlocks {α : Type} (x : MRes α) (done n : Nat) (f : α → State → Nat → MRes Unit) : MRun :=
  match x with
  | (s, .error e) => (s, some done, some e)
  | (s, .ok a) => match blocksFrom (f a) (n - done) done s with
    | (s, k, r) => (s, some k, r)

/-- A fault when a condition holds. -/
def mStopIf (bad : Bool) (e : MStop) (s : State) : MRes Unit := if bad then (s, .error e) else (s, .ok ())

/-- `MMA`, `MMAS` and their pitch parts (R187 to R199). Where the pair of formats or K breaks a rule, operand A is named (R202; DESIGN
CHOICE, log entry 89). -/
def State.runMma (s : State) (g : Eng) (e : MqEntry) : MRun :=
  let f := s.forme g.fk
  let l := f.layout e.tile
  let p := e.partOf f
  let d := p.1
  let oa : Operand := { win := e.aw, op := 1 }
  let ob : Operand := { win := e.bw, op := 2 }
  let ready : MRes (Region × List Row) :=
    (mStopIf (!l.valid || decide (l.rows < d.m ∨ l.cols < d.n)) { code := 0x09 } s).then (fun s _ =>
    (s.engRegion g oa p.2.1).then (fun s ra =>
    (s.engRegion g ob p.2.2).then (fun s rb =>
    (mStopIf (!(pairOk ra.fmt ra.geo.toNat rb.fmt rb.geo.toNat l.af && kOk ra.fmt ra.geo d.k e.sparse))
      { code := 0x08, op := 1 } s).then (fun s _ =>
    (mStopIf (decide (d.sa < rowBytes ra.fmt (if e.sparse then kept e.sel else d.k))) { code := 0x03, op := 1 } s).then
      (fun s _ =>
    (mStopIf (decide (d.sb < rowBytes rb.fmt d.k)) { code := 0x03, op := 2 } s).then (fun s _ =>
    (mEach (fun s c => s.engReadRow g ob true rb.fmt rb.geo (rowAt p.2.2 d.sb c) d.k) s (List.range d.n)).then
      (fun s bs => (s, .ok (ra, bs)))))))))
  inBlocks ready e.done (d.m / 8) (fun x s b => s.mmaBlock g e l d p.2.1 x.1 x.2 b)

/-! ## Tile moves (R206 to R208) -/

/-- What a tile move checks before block 0: the tile, the format, the stride. -/
def State.moveReady (s : State) (g : Eng) (o : Operand) (l : Layout) (d : Shape) (base : Nat) (ok : Region → Bool) :
    MRes Region :=
  (mStopIf (!l.valid || decide (l.rows < d.m ∨ l.cols < d.n)) { code := 0x09 } s).then (fun s _ =>
    (s.engRegion g o base).then (fun s r =>
      (mStopIf (!ok r) { code := 0x08, va := if o.win then 0 else base, op := o.op } s).then (fun s _ =>
        (mStopIf (decide (d.sa < rowBytes r.fmt d.n)) { code := 0x03, op := o.op } s).then (fun s _ => (s, .ok r)))))

/-- Bits move without conversion between FMT 0 and a tile of 32-bit elements (R206, R207). -/
def moves (l : Layout) (fmt : Nat) : Bool := fmt == 0 && l.esize == 4

/-- `TLD` and `TLDS` (R206). -/
def State.runLoad (s : State) (g : Eng) (e : MqEntry) : MRun :=
  let l := (s.forme g.fk).layout e.tile
  let d := shapeOf e.x
  let o : Operand := { win := e.opc == 0x124, op := 1 }
  inBlocks (s.moveReady g o l d e.a.toNat (fun r => decide (r.fmt ≤ 16))) e.done (d.m / 8) (fun r s b =>
    (mEach (fun s i => s.engReadRow g o false r.fmt r.geo (rowAt e.a.toNat d.sa (8 * b + i)) d.n) s (List.range 8)).then
      (fun s rows => (s.modForme g.fk (fun f => f.putBlock l b d.n (fun i c =>
        let row := rows.getD (i % 8) {}
        if moves l r.fmt then row.raw.getD c 0
        else conv l.ty (row.vals.getD c .zero) e.rm e.sat (fmtFloat r.fmt))), .ok ())))

/-- Elements of a width packed into bytes (spec/04 R106). -/
def packElems (w : Nat) (xs : List Nat) : List Byte :=
  bytesOf ((xs.length * w + 7) / 8) (xs.foldr (fun x n => x % 2 ^ w + 2 ^ w * n) 0)

/-- Writes of a block, all checked before any is made (R201). -/
def State.engStore (s : State) (g : Eng) (ws : List (Operand × Nat × List Byte)) : MRes Unit :=
  (mEach (fun s (w : Operand × Nat × List Byte) => s.engMayWrite g w.1 w.2.1 w.2.2.length) s ws).then (fun s _ =>
    (ws.foldl (fun s w => s.engWrite g w.1 w.2.1 w.2.2) s, .ok ()))

/-- `TST` and `TSTS` (R207). -/
def State.runStore (s : State) (g : Eng) (e : MqEntry) : MRun :=
  let l := (s.forme g.fk).layout e.tile
  let d := shapeOf e.x
  let o : Operand := { win := e.opc == 0x125, op := 4 }
  inBlocks (s.moveReady g o l d e.b.toNat (fun r => decide (r.fmt ≤ 16) && r.fmt != 10)) e.done (d.m / 8) (fun r s b =>
    let f := s.forme g.fk
    let rows := (List.range 8).map (fun i => (8 * b + i, rowAt e.b.toNat d.sa (8 * b + i)))
    (mEach (fun s (x : Nat × Nat) => s.engRow g o r.fmt r.geo x.2 d.n) s rows).then (fun s _ =>
      s.engStore g (rows.map (fun x => (o, x.2, packElems (fmtWidth r.fmt) ((List.range d.n).map (fun c =>
        if moves l r.fmt then f.elem l x.1 c
        else conv (fmtTy r.fmt) (f.tileVal l x.1 c) e.rm e.sat l.flt)))))))

/-- The formats `TSTQ` writes (R208). -/
def quantFmt (fmt : Nat) : Bool := fmt == 23 || decide (17 ≤ fmt ∧ fmt ≤ 21)

/-- The largest magnitude of a list; a NaN among them gives NaN. -/
def maxAbs (vs : List FVal) : FVal :=
  if vs.any FVal.isNan then .nan else vs.foldl (fun a v => FVal.maxNum a v.abs) .zero

/-- An element of a block whose scale is `sc` (R208). -/
def quantElem (fmt : Nat) (rm : RM) (sc v : FVal) : Nat :=
  let ty := fmtTy fmt
  if sc.isNan then conv ty .nan rm true true
  else if sc.isZero then 0
  else
    let y := FVal.div v (if fmt = 23 then FVal.mul sc (.fin false 1 (-6)) else sc)
    conv ty (if v.isNan then .nan else y) rm true true

/-- `TSTQ` (R208). -/
def State.runQuant (s : State) (g : Eng) (e : MqEntry) : MRun :=
  let l := (s.forme g.fk).layout e.tile
  let d := shapeOf e.x
  let o : Operand := { win := e.aw, op := 4 }
  inBlocks (s.moveReady g o l d e.b.toNat (fun r => quantFmt r.fmt && d.n % blockLen r.fmt r.geo == 0)) e.done (d.m / 8)
    (fun r s b =>
      let f := s.forme g.fk
      let kb := blockLen r.fmt r.geo
      let rows := (List.range 8).map (fun i => (8 * b + i, rowAt e.b.toNat d.sa (8 * b + i)))
      (mEach (fun s (x : Nat × Nat) =>
          (s.engRow g o r.fmt r.geo x.2 d.n).then (fun s q => (s, .ok (x.1, x.2, q)))) s rows).then (fun s qs =>
        s.engStore g (qs.flatMap (fun x =>
          let blocks := (List.range (d.n / kb)).map (fun j =>
            let vs := (List.range kb).map (fun i => f.tileVal l x.1 (kb * j + i))
            let byte := mxsclByte r.fmt (r.geo.getLsbD 2) (maxAbs vs)
            (vs.map (quantElem r.fmt e.rm (scaleVal r.fmt r.geo byte)), byte))
          (o, x.2.1, packElems (fmtWidth r.fmt) (blocks.flatMap (·.1))) ::
            (List.range blocks.length).map (fun j =>
              ({ o with op := 5 }, x.2.2.scaleAt x.2.1 j, [BitVec.ofNat 8 (blocks.getD j ([], 0)).2, 0]))))))

/-! ## Tile arithmetic (R206, R209, R210) -/

/-- A form that computes the elements of a tile from tiles, by row blocks; TILE_SHAPE when a tile has no layout. -/
def State.runTiles (s : State) (g : Eng) (e : MqEntry) (src : Layout) (rows cols : Nat) (x : Forme → Nat → Nat → Nat) :
    MRun :=
  let l := (s.forme g.fk).layout e.tile
  inBlocks (mStopIf (!l.valid || !src.valid) { code := 0x09 } s) e.done (rows / 8) (fun _ s b =>
    (s.modForme g.fk (fun f => f.putBlock l b cols (fun r c => x f r c)), .ok ()))

/-- `TMOV`, `TADD` and `TSCAL` (R209). -/
def State.runArith (s : State) (g : Eng) (e : MqEntry) : MRun :=
  let f := s.forme g.fk
  let l := f.layout e.tile
  let rdn := e.rm == .rdn
  if e.opc = 0x12E then
    let k := FVal.decode .f32 (e.a.toNat % 2 ^ 32)
    s.runTiles g e l l.rows l.cols (fun f r c => conv l.ty (FVal.mul (f.tileVal l r c) k) e.rm e.sat true)
  else
    let t := f.layout e.tile2
    s.runTiles g e t (min l.rows t.rows) (min l.cols t.cols) (fun f r c =>
      if e.opc = 0x12C then
        (if l.af = t.af then f.elem t r c else conv l.ty (f.tileVal t r c) e.rm e.sat t.flt)
      else conv l.ty (FVal.add rdn (f.tileVal l r c) (f.tileVal t r c)) e.rm e.sat (l.flt || t.flt))

/-- The largest magnitude of a tile as F32 bits (R210). -/
def Forme.tileMax (f : Forme) (l : Layout) : Nat :=
  FVal.round .f32 .rup false
    (maxAbs ((List.range l.rows).flatMap (fun r => (List.range l.cols).map (fun c => f.tileVal l r c))))

/-- A register is awaited no more. -/
def Slug.heard (m : Slug) (n : Nat) : Slug := { m with pendingG := m.pendingG.filter (· != BitVec.ofNat 8 (0x80 + n)) }

/-- A result that reaches a scalar register after its word: the program's own register, in the stash while the handler runs. -/
def Slug.deliverG (m : Slug) (n : Nat) (x : Word) : Slug :=
  let m := m.heard n
  if n = 0 then m
  else match m.hnd with
    | some h => { m with hnd := some { h with stashG := h.stashG.put n x } }
    | none => m.writeG n x

/-- A late result may not reach its register now: the register is pinned, the slug has another path and the value differs
(spec/15 R417). -/
def State.pinHolds (s : State) (fk sl n : Nat) (x : Word) : Bool :=
  let m := s.slug fk sl
  n != 0 && !m.hnd.isSome && (s.launch (s.forme fk).launch).pinG.getLsbD n && decide (1 < m.paths) && x != m.readG n

/-- An engine instruction executed (R206 to R210). -/
def State.runEntry (s : State) (g : Eng) (e : MqEntry) : MRun :=
  let f := s.forme g.fk
  let l := f.layout e.tile
  if e.opc = 0x120 then (s.modForme g.fk (fun f => { f with tiles := f.tiles.put e.tile e.x }), none, none)
  else if e.opc = 0x121 then
    (if l.valid then (s.modForme g.fk (fun f => { f with
       acc := f.acc.putBytes (l.at 0 0) (List.replicate (l.rows * l.cols * l.esize) 0) }), none, none)
     else (s, none, some { code := 0x09 }))
  else if e.opc = 0x122 ∨ e.opc = 0x124 then s.runLoad g e
  else if e.opc = 0x123 ∨ e.opc = 0x125 then s.runStore g e
  else if e.opc = 0x12F then
    (let x := BitVec.ofNat 64 (f.tileMax l)
     if !l.valid then (s, none, some { code := 0x09 })
     else if s.pinHolds e.issuer e.slug e.tile2 x then (s, none, some { code := 0x0A })
     else (s.modSlug e.issuer e.slug (fun m => m.deliverG e.tile2 x), none, none))
  else if e.opc = 0x130 then s.runQuant g e
  else if e.opc = 0x12C ∨ e.opc = 0x12D ∨ e.opc = 0x12E then s.runArith g e
  else s.runMma g e

/-! ## The queue (R180, R181, R200 to R202) -/

/-- The forme whose queue head the engine of a core takes next: not stopped, the earliest arrival (R180); entries that
came with a restored forme rank by the numbers they had (log entry 88). -/
def State.nextHead (s : State) (core : Nat) : Option (Nat × MqEntry) :=
  s.formes.foldl (fun b x =>
    let live := x.2.core == core && (x.2.place == .running || x.2.place == .draining)
      && (s.launch x.2.launch).st == .active && s.awake
    match x.2.mq.head? with
    | some e =>
      if !live || e.stop.isSome then b
      else match b with
        | none => some (x.1, e)
        | some y => if e.arrival < y.2.arrival then some (x.1, e) else b
    | none => b) none

/-- A command of a tag is over (spec/02 R66, spec/09 R292, spec/11 R372): the status takes the first fault in completion order;
the bit is set, and waiting slugs fired, when no other command of the tag is in flight. -/
def State.setTag (s : State) (fk : Nat) (tag : BitVec 6) (code : BitVec 8) (va : Nat) : State :=
  let t := tag.toNat
  let left := (s.forme fk).inFlight.look t - 1
  let old := (s.forme fk).tagStat.look t
  let failed := old.extractLsb' 56 8 != 0xFE && old.extractLsb' 56 8 != 0
  let st : Word :=
    if failed then old
    else if code ≠ 0 then code ++ 0#2 ++ BitVec.ofNat 54 va
    else if left = 0 then 0 else old
  let s := s.modForme fk (fun f => { f with
    inFlight := f.inFlight.put t left
    cptag := if left = 0 then f.cptag ||| (1#64 <<< t) else f.cptag
    tagStat := f.tagStat.put t st })
  if left = 0 then s.fireCptag fk else s

/-- A command of a tag is issued (spec/02 R66, spec/09 R292). -/
def State.startTag (s : State) (fk : Nat) (tag : BitVec 6) : State :=
  let t := tag.toNat
  s.modForme fk (fun f => { f with
    inFlight := f.inFlight.upd t (· + 1)
    cptag := f.cptag &&& ~~~(1#64 <<< t)
    tagStat := f.tagStat.put t (0xFE#8 ++ 0#56) })

/-- An asynchronous failure's record (spec/18 R469): PATH 10; ASYNC when its forme has ended, and then the launch is not to
complete. -/
def State.asyncFail (s : State) (fk sl : Nat) (pc : Addr) (mask : Mask) (eng : Nat) (core : Option Nat) (f : Flt) : State :=
  let m := s.forme fk
  let gone := m.place == .ended
  let s := s.report { launch := m.launch, fidx := m.fidx, slug := sl, path := 2, pc := pc, mask := mask, eng := eng,
                      core := core, async := gone } f
  if gone then s.modLaunch m.launch (fun l => { l with failCode := some (l.failCode.getD f.code) }) else s

/-- A follow-on has completed or faulted: its drain tag is set the first time, and a failure of its drain is recorded beside the
record of its deferred trap (R212, spec/18 R469). -/
def State.drainOver (s : State) (core : Nat) (e : MqEntry) (r : Option MStop) : State :=
  match e.tag with
  | none => s
  | some t =>
    if e.told then s
    else match r with
      | none => s.setTag e.issuer t 0 0
      | some x => (s.setTag e.issuer t x.code (x.va + x.win)).asyncFail e.issuer e.slug e.pc (1#32 <<< e.plane) 1 (some core)
          { code := 0x40, reason := x.reason, va := x.va, d0 := t.toNat, sub := x.code }

/-- MATRIX_QUEUE_EXECUTE: the engine of core `core` takes a queue head and runs it (R180, R201, R202). -/
def execMatrixQueueExecute (s : State) : Out :=
  let s0 := s
  match s.nextHead s.ev.core with
  | none => .next s
  | some (fk, e) =>
    let l := s.launch (s.forme fk).launch
    match s.runEntry { fk := fk, core := s.ev.core, part := l.part, world := l.world } e with
    | (s, k, r) =>
      let s := match k with
        | some n => s.modForme fk (fun f => { f with rowprog := BitVec.ofNat 16 n })
        | none => s
      let s := s.modForme fk (fun f => { f with mq := match r with
        | none => f.mq.drop 1
        | some x => { e with done := k.getD 0, stop := some (x.code, x.reason, x.va, x.op), delivered := false, told := true } :: f.mq.drop 1 })
      .next (s0.orAgain (s.drainOver s0.ev.core e r))

/-- PITCH_PART_START: a part that has reached forme `forme`'s core enters its queue once there is room, with the forme's own
metadata (R199, R200). -/
def execPitchPartStart (s : State) : Out :=
  let fk := s.ev.forme
  let f := s.forme fk
  match f.transit with
  | [] => .next s
  | e :: r =>
    if 8 ≤ f.mq.length then .next s
    else
      let owner := ((f.slugs.find? (fun m => m.2.owner)).map (·.2)).getD {}
      let mbk := (e.mod.extractLsb' 12 4).toNat
      let lanes : Sparse VReg :=
        if e.opc = 0x129 ∧ e.issuer ≠ fk then
          (List.range 8).foldl (fun t k => t.put k (owner.readV (8 * mbk + k))) []
        else e.lanes
      let n := (s.core f.core).arrivals
      .next ((s.modForme fk (fun f => { f with transit := r, mq := f.mq ++ [{ e with arrival := n, lanes := lanes }] })).modCore
        f.core (fun c => { c with arrivals := n + 1 }))

/-- CPYM_FOLLOW_ON_ENQUEUE: the follow-on of a landed copy enters forme `forme`'s queue once there is room (R212). -/
def execCpymFollowOnEnqueue (s : State) : Out :=
  let fk := s.ev.forme
  let f := s.forme fk
  match f.follow with
  | [] => .next s
  | e :: r =>
    if 8 ≤ f.mq.length then .next s
    else
      let n := (s.core f.core).arrivals
      .next ((s.modForme fk (fun f => { f with follow := r, mq := f.mq ++ [{ e with arrival := n }] })).modCore
        f.core (fun c => { c with arrivals := n + 1 }))

/-! ## Deferred traps (R202, spec/18 R454, R457) -/

/-- The fault of a stopped entry in forme `fk` (spec/18 R450); a `TAMAX` whose register is pinned names it in DETAIL1 (spec/15 R417; log
entry 6). -/
def State.stopFlt (s : State) (fk : Nat) (e : MqEntry) : Flt :=
  match e.stop with
  | some (code, reason, va, op) =>
    { code := code, reason := reason, va := va, d0 := (s.forme fk).core * 2 ^ 40 + e.done * 2 ^ 8 + op
      d1 := if code = 0x0A then BitVec.ofNat 64 (0x80 + e.tile2) else 0 }
  | none => { code := 0 }

/-- The record fields of a stopped entry: the issuer's word, the stopped core (R202). -/
def State.stopRec (s : State) (fk : Nat) (e : MqEntry) : RecInfo :=
  { s.recInfo e.issuer e.slug e.slotB e.pc (1#32 <<< e.plane) with
    eng := 2, core := some (s.forme fk).core, deff := true }

/-- A trap that reaches a slug after its word (R202, spec/18 R454, spec/15 R417): a sleep ends, a transaction aborts, the record is
written and the handler starts in the path's slot, or in the other one when that is free. -/
def State.lateTrap (s : State) (fk sl : Nat) (slotB : Bool) (mask : Mask) (r : RecInfo) (flt : Flt) (resume : Resume) (mq : Nat) : State :=
  let m := s.slug fk sl
  let f := s.forme fk
  let asleep := m.wake.bind (·.tx)
  let tx := match m.tx with
    | some t => some t
    | none => asleep
  let m1 : Slug := match m.tx with
    | some t => m.txRestart t 0x03 s.cyc
    | none => if asleep.isSome then { m with cause := 0x03 } else m
  let m1 := { m1 with wake := none, tx := none }
  let b := if (m1.slot slotB).path.isSome then slotB else !slotB
  let words := s.record { r with txa := tx.isSome } flt
  let en := (s.part (s.launch f.launch).part).handlerEntry
  let ready := max (s.cyc + 1) (m1.slot b).readyAt
  let h : Handling :=
    { saved := { (m1.slot b) with pend := [] }, record := words, unfinished := mask, inTx := tx.map (·.again), mq := mq,
      resume := resume }
  let s := s.modSlug fk sl (fun _ => m1.enter b en.1 en.2 ready mask h)
  (s.post f.launch words).drainAll

/-- The deferred trap of a stopped entry (R202, spec/18 R454). -/
def State.deferredTrap (s : State) (fk : Nat) (e : MqEntry) : State :=
  let flt := s.stopFlt fk e
  s.lateTrap e.issuer e.slug e.slotB (1#32 <<< e.plane) (s.stopRec fk e) flt (if flt.code = 0x10 then .deferred else .fail) e.id

/-- DEFERRED_ENGINE_TRAP: a stopped part of an instruction of slug `slug` of forme `forme` writes its record; its issuer traps,
unless it is handling the same instruction (R202); while it handles anything else, or waits at a `RECAST`, the trap waits. -/
def execDeferredEngineTrap (s : State) : Out :=
  match s.stoppedOf s.ev.forme s.ev.slug with
  | none => .next s
  | some (fk, e) =>
    let m := s.slug e.issuer e.slug
    let mark (s : State) : State := s.modForme fk (fun f => { f with mq := match f.mq with
      | x :: r => { x with delivered := true } :: r
      | [] => [] })
    match m.hnd with
    | some h =>
      if h.mq = e.id then
        .next (mark (s.post (s.forme e.issuer).launch (s.record (s.stopRec fk e) (s.stopFlt fk e))))
      else .next s
    | none => if m.gathering.isSome || !m.live || m.failed then .next s else .next (mark (s.deferredTrap fk e))

end Sys2Proof.Machine
end

