-- ==== Sys2Proof/Machine/ExactSum.lean ====
section
/-!
DEFINITION. The exact-sum instructions (spec/05 R167 to R173).
-/

namespace Sys2Proof.Machine

/-! ## Accumulators (R167, R169, R170) -/

/-- A value added exactly (R169). -/
def XAcc.add (x : XAcc) (v : FVal) : XAcc :=
  match v with
  | .nan => { x with nan := true }
  | .inf false => { x with pinf := true }
  | .inf true => { x with ninf := true }
  | .fin s m e => { x with s := x.s + BitVec.ofInt 760 (FVal.scaled s m e (-298)) }

/-- The 96 bytes of the raw state (R167). -/
def XAcc.raw (x : XAcc) : List Byte :=
  bytesOf 95 x.s.toNat ++ [BitVec.ofBool x.nan ++ BitVec.ofBool x.pinf ++ BitVec.ofBool x.ninf ++ 0#5]

/-- The state of 96 bytes; reserved bits are ignored (R167). -/
def XAcc.ofRaw (bs : List Byte) : XAcc :=
  let b := bs.getD 95 0
  { nan := b.getLsbD 7, pinf := b.getLsbD 6, ninf := b.getLsbD 5, s := BitVec.ofNat 760 (natOf (bs.take 95)) }

/-- Two states combined (R171). -/
def XAcc.merge (x y : XAcc) : XAcc :=
  { nan := x.nan || y.nan, pinf := x.pinf || y.pinf, ninf := x.ninf || y.ninf, s := x.s + y.s }

/-- The sum rounded once to F32 (R170). -/
def XAcc.round (x : XAcc) (rm : RM) : Nat :=
  if x.nan || (x.pinf && x.ninf) then 0x7FC00000
  else if x.pinf then 0x7F800000
  else if x.ninf then 0xFF800000
  else if x.s = 0 then (if rm = .rdn then 0x80000000 else 0)
  else FVal.round .f32 rm false (.fin (decide (x.s.toInt < 0)) x.s.toInt.natAbs (-298))

/-! ## Meanings -/

/-- The elements of a lane at a type: one F32, or two packed ones (spec/04 R115). -/
def laneElems (t : Ty) (x : Lane) : List FVal :=
  match t with
  | .f16x2 | .bf16x2 =>
    [FVal.decode t.ffmt (x.toNat % 2 ^ 16), FVal.decode t.ffmt (x.toNat / 2 ^ 16)]
  | _ => [FVal.decode .f32 x.toNat]

/-- A word that adds a value for every element of every active lane (R169). -/
def exactAdd (f : Lane → Lane → List FVal) (w : Ops) (m : XsMod) (s : State) : Out :=
  vectorWord w.h s (fun c =>
    let n := m.xd.toNat
    let src (c : Ctx) (o : Opnd) (l : Nat) : Lane := c.m.srcV w 0 m.ty o (Fin.ofNat 32 l)
    let x := (planes c.act).foldl (fun x l => (f (src c w.a l) (src c w.b l)).foldl XAcc.add x) (c.m.readX n)
    (s.modCur (·.writeX n x)).retire c)

/-- `XCLR` (R169). -/
def execXclr (w : Ops) (m : XsMod) (s : State) : Out :=
  scalarWord w.h s (fun c => (s.modCur (·.writeX m.xd.toNat {})).retire c)

/-- `XADD` (R169). -/
def execXadd (w : Ops) (m : XsMod) (s : State) : Out := exactAdd (fun a _ => laneElems m.ty a) w m s

/-- `XSUB` (R169). -/
def execXsub (w : Ops) (m : XsMod) (s : State) : Out := exactAdd (fun a _ => (laneElems m.ty a).map FVal.neg) w m s

/-- `XDOT` (R169). -/
def execXdot (w : Ops) (m : XsMod) (s : State) : Out :=
  exactAdd (fun a b => List.zipWith FVal.mul (laneElems m.ty a) (laneElems m.ty b)) w m s

/-- `XRND` (R170): into a scalar register, or into the active lane of least plane. -/
def execXrnd (w : Ops) (m : XsMod) (s : State) : Out :=
  scalarWord w.h s (fun c =>
    let y := (c.m.readX m.xd.toNat).round m.rm
    match w.d with
    | .v n =>
      let p := (planes c.act).headD 0
      (s.modCur (fun u => u.writeV n.toNat (1#32 <<< p) (fun _ => BitVec.ofNat 32 y))).retire c
    | d => s.finishG c d.num (BitVec.ofNat 64 y))

/-- The twelve accesses of `XLD` and `XST` (R171). -/
def twelve (a : Word) : List Elem :=
  (List.range 12).map (fun k => { lane := 0, vlid := 0, va := (a + BitVec.ofNat 64 (8 * k)).toNat, n := 8 })

/-- `XLD` (R171). -/
def execXld (w : Ops) (m : XsMod) (s : State) : Out :=
  scalarWord w.h s (fun c =>
    let h : How := { win := m.sp, align := 8, whole := true, skips := false }
    match s.gate c h false false (fun _ => none) (twelve (c.m.srcG w 0 w.a)) with
    | (s, none) => s
    | (s, some (good, _)) =>
      let r := s.readGood c good
      (r.1.modCur (·.writeX m.xd.toNat (XAcc.ofRaw (r.2.flatMap (·.2))))).retire c)

/-- `XST` (R171). -/
def execXst (w : Ops) (m : XsMod) (s : State) : Out :=
  scalarWord w.h s (fun c =>
    let a := c.m.srcG w 0 w.a
    let h : How := { win := m.sp, need := .write, sealedAs := 0x21, align := 8, whole := true, skips := false }
    match s.gate c h false false (fun _ => none) (twelve a) with
    | (s, none) => s
    | (s, some (good, _)) =>
      let raw := (c.m.readX m.xd.toNat).raw
      ((List.range 12).foldl (fun s k =>
        match good[k]? with
        | some g => s.writeSpots c g.2 ((raw.drop (8 * k)).take 8)
        | none => s) s).retire c)

/-- `XMRG` (R171). -/
def execXmrg (w : Ops) (m : XsMod) (s : State) : Out :=
  scalarWord w.h s (fun c =>
    (s.modCur (fun u => u.writeX m.xd.toNat ((u.readX m.xd.toNat).merge (u.readX m.xs.toNat)))).retire c)

end Sys2Proof.Machine
end

