-- ==== Sys2Proof/Machine/Matrix.lean ====
section
/-!
DEFINITION. The matrix instructions as their slug issues them (spec/06 R177 to R186, R210).
-/

namespace Sys2Proof.Machine

/-! ## Entering the queue (R179, R180) -/

/-- The lowest active plane: the issuer of an engine form. -/
def Ctx.plane (c : Ctx) : Nat := (planes c.act).headD 0

/-- The metadata registers of a sparse form, all planes (R197). -/
def Ctx.metadata (c : Ctx) (mbk : BitVec 4) : Sparse VReg :=
  (List.range 8).foldl (fun t k => t.put k (c.m.readV (8 * mbk.toNat + k))) []

/-- An entry with what every engine form records of its issuer. -/
def Ctx.entry (c : Ctx) (opc : Nat) (w : Ops) (m : MxMod) : MqEntry :=
  { opc := opc, issuer := c.iss.fk, slug := c.iss.sl, slotB := c.iss.b, pc := c.path.pc, plane := c.plane,
    mod := m.bits, x := w.x.getD 0 }

/-- An entry put into the issuing forme's queue. -/
def State.enqueue (s : State) (c : Ctx) (e : MqEntry) : State :=
  let n := (s.core c.core).arrivals
  (s.modForme c.iss.fk (fun f => { f with
    issued := f.issued + 1
    mq := f.mq ++ [{ e with id := f.issued + 1, arrival := n }] })).modCore c.core (fun k => { k with arrivals := n + 1 })

/-- An engine form (R179, R180, R182): by the owner, outside transactions, while the queue has room. -/
def engineForm (w : Ops) (s : State) (go : Ctx → State) : Out :=
  scalarWord w.h s (fun c =>
    if !c.m.owner then s.trapCode c 0x07
    else if c.m.tx.isSome then s.trapCode c 0x33
    else if 8 ≤ c.f.mq.length then s.hold
    else go c)

/-- An engine form that only enters the queue. -/
def queuedForm (opc : Nat) (w : Ops) (m : MxMod) (s : State) (fill : Ctx → MqEntry → MqEntry) : Out :=
  engineForm w s (fun c => (s.enqueue c (fill c (c.entry opc w m))).retire c)

/-- `TCFG` (R177): it waits for follow-ons of the forme's `CPYM`s that are still to enter the queue. -/
def execTcfg (w : Ops) (m : MxMod) (s : State) : Out :=
  engineForm w s (fun c =>
    if !c.f.follow.isEmpty || (s.core c.core).copies.any (fun q => q.fk == c.iss.fk && q.follow.isSome) then s.hold
    else (s.enqueue c { c.entry 0x120 w m with tile := w.d.num }).retire c)

/-- `TZERO` (R206). -/
def execTzero (w : Ops) (m : MxMod) (s : State) : Out := queuedForm 0x121 w m s (fun _ e => { e with tile := w.d.num })

/-- `TLD` (R206). -/
def execTld (w : Ops) (m : MxMod) (s : State) : Out :=
  queuedForm 0x122 w m s (fun c e => { e with tile := w.d.num, a := c.m.readG w.a.num })

/-- `TST` (R207). -/
def execTst (w : Ops) (m : MxMod) (s : State) : Out :=
  queuedForm 0x123 w m s (fun c e => { e with tile := w.a.num, b := c.m.readG w.b.num })

/-- `TLDS` (R206). -/
def execTlds (w : Ops) (m : MxMod) (s : State) : Out :=
  queuedForm 0x124 w m s (fun c e => { e with tile := w.d.num, a := c.m.readG w.a.num })

/-- `TSTS` (R207). -/
def execTsts (w : Ops) (m : MxMod) (s : State) : Out :=
  queuedForm 0x125 w m s (fun c e => { e with tile := w.a.num, b := c.m.readG w.b.num })

/-- A multiplication's entry: tile, base addresses, metadata of a sparse form. -/
def Ctx.mmaEntry (c : Ctx) (w : Ops) (m : MxMod) (e : MqEntry) : MqEntry :=
  { e with tile := w.d.num, a := c.m.readG w.a.num, b := c.m.readG w.b.num,
           lanes := if e.sparse then c.metadata m.mbk else [] }

/-- `MMA` (R187 to R193). -/
def execMma (w : Ops) (m : MxMod) (s : State) : Out := queuedForm 0x126 w m s (fun c e => c.mmaEntry w m e)

/-- `MMAS` (R196, R197). -/
def execMmas (w : Ops) (m : MxMod) (s : State) : Out := queuedForm 0x128 w m s (fun c e => c.mmaEntry w m e)

/-- Part `i` of a pitch form is not empty (R198). -/
def partHasWork (d : Shape) (pw i : Nat) : Bool := decide (128 * (i / pw) < d.m ∧ 192 * (i % pw) < d.n)

/-- A pitch form (R198 to R200): by the leader's owner; its own part enters its queue, every other forme's part is under way to
that forme's core. -/
def pitchForm (opc : Nat) (w : Ops) (m : MxMod) (s : State) : Out :=
  engineForm w s (fun c =>
    if c.f.pidx ≠ 0 then s.trapCode c 0x07
    else
      let e := { c.mmaEntry w m (c.entry opc w m) with part := some 0 }
      let d := shapeOf e.x
      let id := c.f.issued + 1
      let s := s.enqueue c e
      let s := (List.range (c.f.pw * c.f.ph)).foldl (fun s i =>
        if i = 0 || !partHasWork d c.f.pw i then s
        else s.modForme (c.iss.fk + i) (fun f =>
          { f with transit := f.transit ++ [{ e with part := some i, id := id, lanes := [] }] })) s
      s.retire c)

/-- `MMAP` (R198). -/
def execMmap (w : Ops) (m : MxMod) (s : State) : Out := pitchForm 0x127 w m s

/-- `MMASP` (R199). -/
def execMmasp (w : Ops) (m : MxMod) (s : State) : Out := pitchForm 0x129 w m s

/-- `TMOV` (R209). -/
def execTmov (w : Ops) (m : MxMod) (s : State) : Out :=
  queuedForm 0x12C w m s (fun _ e => { e with tile := w.d.num, tile2 := w.a.num })

/-- `TADD` (R209). -/
def execTadd (w : Ops) (m : MxMod) (s : State) : Out :=
  queuedForm 0x12D w m s (fun _ e => { e with tile := w.d.num, tile2 := w.a.num })

/-- `TSCAL` (R209). -/
def execTscal (w : Ops) (m : MxMod) (s : State) : Out :=
  queuedForm 0x12E w m s (fun c e => { e with tile := w.d.num, a := c.m.readG w.a.num })

/-- `TAMAX` (R210): its register is on its way until the engine delivers it. -/
def execTamax (w : Ops) (m : MxMod) (s : State) : Out :=
  engineForm w s (fun c =>
    let d := w.d.num
    ((s.enqueue c { c.entry 0x12F w m with tile := w.a.num, tile2 := d }).modCur (fun u =>
      if d = 0 then u else { u with pendingG := u.pendingG ++ [BitVec.ofNat 8 (0x80 + d)] })).retire c)

/-- `TSTQ` (R208). -/
def execTstq (w : Ops) (m : MxMod) (s : State) : Out :=
  queuedForm 0x130 w m s (fun c e => { e with tile := w.a.num, b := c.m.readG w.b.num })

/-! ## Register reads and writes of tiles (R178, R181, R210) -/

/-- An engine instruction of a slug's that names tile `t` is unfinished on some core (R181). -/
def State.tileBusy (s : State) (c : Ctx) (t : Nat) : Bool :=
  c.m.owner && s.formes.any (fun x => (x.2.mq ++ x.2.transit).any (fun e =>
    e.issuer == c.iss.fk && (e.tile == t || (e.tile2 == t && (e.opc == 0x12C || e.opc == 0x12D)))))

/-- The slice number of a word (R78, R178). -/
def Ctx.slice (c : Ctx) (m : SliceMod) : Nat := (c.m.readG m.idx.toNat + m.off.signExtend 64).toNat

/-- `TRD` (R210): a vector form; lanes read their slice positions. -/
def execTrd (w : Ops) (m : SliceMod) (s : State) : Out :=
  vectorWord w.h s (fun c =>
    if s.tileBusy c m.tile.toNat then s.hold
    else
      let l := c.f.layout m.tile.toNat
      let k := c.slice m
      (s.modCur (fun u => u.writeV w.d.num c.act (fun i => BitVec.ofNat 32 (c.f.readSlice l m.col k i.val)))).retire c)

/-- `TWR` (R210, R182). -/
def execTwr (w : Ops) (m : SliceMod) (s : State) : Out :=
  vectorWord w.h s (fun c => s.unlessTx c true (fun _ =>
    if s.tileBusy c m.tile.toNat then s.hold
    else
      let l := c.f.layout m.tile.toNat
      let k := c.slice m
      (s.modForme c.iss.fk (fun f => (planes c.act).foldl (fun f p =>
        f.writeSlice l m.col k p (c.m.laneAt w.a p).toNat) f)).retire c))

/-- `TINFO` (R210): the tile's layout word. -/
def execTinfo (w : Ops) (_m : MxMod) (s : State) : Out :=
  scalarWord w.h s (fun c =>
    if s.tileBusy c w.a.num then s.hold else s.finishG c w.d.num (c.f.layout w.a.num))

end Sys2Proof.Machine
end

