-- ==== Sys2Proof/Machine/Copies.lean ====
section
/-!
DEFINITION. Copies, fills and collectives: the forms that issue them, and their completion (spec/09 R288 to R303, spec/06 R212,
spec/18 R469, R472, R473).
-/

namespace Sys2Proof.Machine

/-! ## How an engine of the device reaches memory -/

/-- A party that moves bytes: its forme (for pitch-window addresses), its core, partition and world, the TYPE codes of its
reads and writes (spec/07 R241), and whether it reaches peers and the host. -/
structure Agent where
  fk : Nat
  core : Option Nat
  part : Nat
  world : Nat
  rd : Nat
  wr : Nat
  far : Bool
  deriving DecidableEq, Repr, Inhabited

/-- What hotness sampling records of an agent's access. -/
def Agent.hot (g : Agent) (va : Nat) (l : Leaf) : HotInfo :=
  { hs := l.hs, part := l.part, tier := l.tier, va := va, world := g.world, core := g.core }

/-- A fault of a piece of `n` bytes with the address of its first failing byte (R292): of a poisoned line, the line's first byte in
the piece. -/
def State.firstByte (s : State) (f : Flt) (n : Nat) : Flt :=
  if f.code = 0x42 then
    match (s.leafFor none f.va).2 with
    | .ok l =>
      let pa := l.frame + (f.va - l.base)
      { f with va := f.va + (max pa (((s.poisoned pa n).getD 0) * 128) - pa) }
    | .error _ => f
  else f

/-- One page's part of an access checked (R291, spec/07 R221, R232): where it lies. A collective's buffers lie on NORMAL pages
(R301). -/
def State.agentPiece (s : State) (g : Agent) (write : Bool) (va n : Nat) : State × Except Flt (Nat × Leaf) :=
  match s.translate g.core g.part va n (if write then .write else .read) with
  | (s, .error f) => (s, .error (s.firstByte f n))
  | (s, .ok (pa, l)) =>
    let rights : Flt := { code := 0x11, reason := 0x0C, va := va, d1 := l.hi }
    if l.mt = 0 then (s, .ok (pa, l))
    else if l.mt = 1 && g.far then (s, .error { code := if write then 0x21 else 0x20, va := va })
    else if !g.far || l.mt = 2 then (s, .error rights)
    else if l.mt = 4 && write then (s, .ok (pa, l))
    else match (if l.mt = 3 then s.peerAnswer (if write then 0x21 else 0x20) va n l else s.hostAnswer va l) with
      | (s, some f) => (s, .error f)
      | (s, none) => (s, .ok (pa, l))

/-- A window address of an agent, whose failing byte is the first beyond the part it begins in (R292). -/
def State.agentWindow (s : State) (fk a n : Nat) : Except Flt (Nat × Nat) :=
  match s.window fk a n with
  | .ok x => .ok x
  | .error f =>
    let k := ((List.range n).find? (fun i => match s.window fk a (i + 1) with | .ok _ => false | .error _ => true)).getD 0
    .error { f with win := (a + k) % 2 ^ 54 }

/-- Bytes read by an agent. -/
def State.agentRead (s : State) (g : Agent) (win : Bool) (va n : Nat) : State × Except Flt (List Byte) :=
  if n = 0 then (s, .ok [])
  else if win then
    match s.agentWindow g.fk va n with
    | .ok (k, o) => (s, .ok (s.spadRead k o n))
    | .error f => (s, .error f)
  else (pagePieces va n).foldl (fun r p => match r with
    | (s, .error f) => (s, .error f)
    | (s, .ok bs) => match s.agentPiece g false p.1 p.2 with
      | (s, .error f) => (s, .error f)
      | (s, .ok (pa, l)) =>
        if l.mt = 0 then
          let x := s.homeRead pa p.2 (g.hot p.1 l) g.rd
          (x.1, .ok (bs ++ x.2))
        else
          let x := s.outside p.2
          (x.1, .ok (bs ++ x.2))) (s, .ok [])

/-- Bytes written by an agent: within one page, or within one part of the window. -/
def State.agentWrite (s : State) (g : Agent) (win : Bool) (va : Nat) (bs : List Byte) : State × Option Flt :=
  if bs.isEmpty then (s, none)
  else if win then
    match s.agentWindow g.fk va bs.length with
    | .ok (k, o) => (s.spadWrite k o bs, none)
    | .error f => (s, some f)
  else match s.agentPiece g true va bs.length with
    | (s, .error f) => (s, some f)
    | (s, .ok (pa, l)) => if l.mt = 0 then (s.homeWrite pa bs .device (g.hot va l) g.wr, none) else (s, none)

/-! ## Moving bytes (R291, R294) -/

/-- The parts of a destination range that lie in one 128-byte line each: offset and length. -/
def destParts (dst n : Nat) : List (Nat × Nat) := (lineParts dst n).map (fun p => (p.1 - dst, p.2))

/-- Steps taken one after the other until one fails. -/
def untilFault {α : Type} (f : State → α → State × Option Flt) : State → List α → State × Option Flt
  | s, [] => (s, none)
  | s, a :: r => match f s a with
    | (s, none) => untilFault f s r
    | x => x

/-- A run of bytes copied line by line: descending when the destination overlaps the source above it (R291). -/
def State.copyRun (s : State) (g : Agent) (dw sw : Bool) (dst src n : Nat) : State × Option Flt :=
  let ps := destParts dst n
  let down := dw == sw && decide (src < dst ∧ dst < src + n)
  untilFault (fun s (p : Nat × Nat) => match s.agentRead g sw (src + p.1) p.2 with
    | (s, .error f) => (s, some f)
    | (s, .ok bs) => s.agentWrite g dw (dst + p.1) bs) s (if down then ps.reverse else ps)

/-- A fill, line by line (R291). -/
def State.fillRun (s : State) (g : Agent) (dw : Bool) (dst n : Nat) (pat : Word) : State × Option Flt :=
  untilFault (fun s (p : Nat × Nat) =>
    s.agentWrite g dw (dst + p.1) ((List.range p.2).map (fun i => pat.extractLsb' (8 * ((p.1 + i) % 8)) 8))) s
    (destParts dst n)

/-- Rows copied one after the other (R291). -/
def State.copyRows (s : State) (g : Agent) (dw sw : Bool) (dst src n rows ds ss : Nat) : State × Option Flt :=
  let rs := List.range rows
  untilFault (fun s r => s.copyRun g dw sw ((dst + r * ds) % 2 ^ 64) ((src + r * ss) % 2 ^ 64) n) s
    (if dst ≤ src then rs else rs.reverse)

/-- The SEALED page of a unit: its physical address and leaf. -/
def State.sealedAt (s : State) (g : Agent) (write : Bool) (va : Nat) : State × Except Flt (Nat × Leaf) :=
  match s.translate g.core g.part va 4096 (if write then .write else .read) with
  | (s, .error f) => (s, .error (s.firstByte f 4096))
  | (s, .ok (pa, l)) =>
    if l.mt = 1 then (s, .ok (pa, l)) else (s, .error { code := if write then 0x21 else 0x20, va := va })

/-- One 4 KiB unit of ciphertext copied with its tag (R294). -/
def State.copyUnit (s : State) (g : Agent) (dst src : Nat) : State × Option Flt :=
  match s.sealedAt g false src with
  | (s, .error f) => (s, some f)
  | (s, .ok (pa, l)) => match s.sealedAt g true dst with
    | (s, .error f) => (s, some f)
    | (s, .ok (pd, ld)) =>
      if l.key ≠ ld.key then (s, some { code := 0x23, reason := 0x0A, va := src })
      else
        let r := s.homeRead pa 4096 (g.hot src l) g.rd
        let s := r.1.homeWrite pd r.2 .device (g.hot dst ld) g.wr
        ({ s with side := s.side.put (pd / 4096) (s.side.look (pa / 4096)) }, none)

/-- `CPYS` (R294): scratchpad is not SEALED. -/
def State.copySealed (s : State) (g : Agent) (dw sw : Bool) (dst src n : Nat) : State × Option Flt :=
  if dst % 4096 ≠ 0 ∨ src % 4096 ≠ 0 ∨ n % 4096 ≠ 0 then (s, some { code := 0x05, va := if dw then 0 else dst % 2 ^ 54, win := if dw then dst % 2 ^ 54 else 0 })
  else if sw then (s, if n = 0 then none else some { code := 0x20, win := src % 2 ^ 54 })
  else if dw then (s, if n = 0 then none else some { code := 0x21, win := dst % 2 ^ 54 })
  else
    let us := List.range (n / 4096)
    let down := decide (src < dst ∧ dst < src + n)
    untilFault (fun s u => s.copyUnit g (dst + 4096 * u) (src + 4096 * u)) s (if down then us.reverse else us)

/-- A copy command performed: the fault it stops at (R291, R293, R294). -/
def State.runCopy (s : State) (g : Agent) (q : Copy) : State × Option Flt :=
  let n := q.len.toNat
  let dst := q.dst.toNat
  let src := q.src.toNat
  let rows := q.rows.toNat
  let far := decide (2 ^ 40 ≤ n)
    || (q.opc == 0x1A1 && ((q.dstr != 0 && decide (q.dstr.toNat < n)) || decide (2 ^ 40 ≤ rows * q.dstr.toNat)))
  if far then (s, some { code := 0x03, va := if q.dw then 0 else dst % 2 ^ 54, win := if q.dw then dst % 2 ^ 54 else 0 })
  else if q.opc = 0x1A1 then s.copyRows g q.dw q.sw dst src n rows q.dstr.toNat q.sstr.toNat
  else if q.opc = 0x1A8 then s.fillRun g q.dw dst n q.src
  else if q.opc = 0x1A3 then s.copySealed g q.dw q.sw dst src n
  else s.copyRun g q.dw q.sw dst src n

/-! ## Issue (R288 to R294) -/

/-- A copy form (R291, R304): the copy unit accepts 16 descriptors. -/
def copyForm (w : Ops) (s : State) (go : Ctx → State) : Out :=
  scalarWord w.h s (fun c => s.unlessTx c true (fun _ =>
    if 16 ≤ (s.core c.core).copies.length then s.hold else go c))

/-- A command with what every copy form records of its issuer. -/
def Ctx.copy (c : Ctx) (opc : Nat) (w : Ops) (m : CpyMod) : Copy :=
  { opc := opc, fk := c.iss.fk, slug := c.iss.sl, slotB := c.iss.b, pc := c.path.pc, mask := c.act,
    dst := c.m.readG w.d.num, src := c.m.srcG w 0 w.a, len := c.m.srcG w 0 w.b, dw := m.dw, sw := m.sw, tag := m.tag }

/-- A command enters the copy unit; its tag starts. -/
def State.startCopy (s : State) (c : Ctx) (q : Copy) : State :=
  ((s.startTag c.iss.fk q.tag).modCore c.core (fun k => { k with copies := k.copies ++ [q] })).retire c

/-- `CPY` (R291). -/
def execCpy (w : Ops) (m : CpyMod) (s : State) : Out := copyForm w s (fun c => s.startCopy c (c.copy 0x1A0 w m))

/-- `CPY2D` (R290, R291). -/
def execCpy2d (w : Ops) (m : CpyMod) (s : State) : Out :=
  copyForm w s (fun c =>
    let x := w.x.getD 0
    s.startCopy c { c.copy 0x1A1 w m with
      rows := (x.extractLsb' 48 16).zeroExtend 64 + 1
      dstr := (x.extractLsb' 24 24).zeroExtend 64
      sstr := (x.extractLsb' 0 24).zeroExtend 64 })

/-- `CPYS` (R294). -/
def execCpys (w : Ops) (m : CpyMod) (s : State) : Out := copyForm w s (fun c => s.startCopy c (c.copy 0x1A3 w m))

/-- `CFILL` (R291). -/
def execCfill (w : Ops) (m : CpyMod) (s : State) : Out := copyForm w s (fun c => s.startCopy c (c.copy 0x1A8 w m))

/-- The matrix part of a `CPYM` (R293, spec/06 R212). -/
def Ctx.followOn (c : Ctx) (w : Ops) (m : CpmMod) : MqEntry :=
  let x : MxMod := { aw := m.aw, bw := m.bw, sel := m.sel, mbk := m.mbk, rm := .rne, sat := m.sat }
  let dst := c.m.readG w.d.num
  let other := c.m.readG w.b.num
  { c.entry (if m.sp then 0x128 else 0x126) w x with
    tile := m.tile.toNat
    a := if m.role then other else dst
    b := if m.role then dst else other
    lanes := if m.sp then c.metadata m.mbk else []
    id := c.f.issued + 1
    tag := some (2 * m.tp.zeroExtend 6 + 1) }

/-- `CPYM` (R293, spec/06 R179, R182). -/
def execCpym (w : Ops) (m : CpmMod) (s : State) : Out :=
  scalarWord w.h s (fun c =>
    if !c.m.owner then s.trapCode c 0x07
    else if c.m.tx.isSome then s.trapCode c 0x33
    else if 16 ≤ (s.core c.core).copies.length then s.hold
    else
      let e := c.followOn w m
      let d := shapeOf e.x
      let s := (s.startTag c.iss.fk (2 * m.tp.zeroExtend 6 + 1)).modForme c.iss.fk (fun f => { f with issued := f.issued + 1 })
      s.startCopy c
        { opc := 0x1A2, fk := c.iss.fk, slug := c.iss.sl, slotB := c.iss.b, pc := c.path.pc, mask := c.act,
          dst := c.m.readG w.d.num, src := c.m.readG w.a.num,
          len := BitVec.ofNat 64 (if m.role then d.n * d.sb else d.m * d.sa),
          dw := if m.role then m.bw else m.aw, sw := false, tag := 2 * m.tp.zeroExtend 6, follow := some e })

/-! ## Completion (R292, spec/18 R469) -/

/-- The copy unit of core `core` performs the command at place `index` of its queue: it sets the tag and status, records a failure,
and hands a `CPYM`'s matrix part on (R291 to R293, spec/06 R212). -/
def State.commandDone (s : State) : State :=
  let k := s.ev.core
  match (s.core k).copies[s.ev.index]? with
  | none => s
  | some q =>
    let l := s.launch (s.forme q.fk).launch
    let g : Agent := { fk := q.fk, core := some k, part := l.part, world := l.world, rd := 5, wr := 6, far := true }
    match s.runCopy g q with
    | (s, r) =>
      let s := s.modCore k (fun c => { c with copies := c.copies.eraseIdx s.ev.index })
      match r with
      | none =>
        let s := s.setTag q.fk q.tag 0 0
        (match q.follow with
          | some e => s.modForme q.fk (fun f => { f with follow := f.follow ++ [e] })
          | none => s)
      | some f =>
        let s := s.setTag q.fk q.tag f.code (f.va + f.win)
        let s := match q.follow.bind (·.tag) with
          | some t => s.setTag q.fk t f.code (f.va + f.win)
          | none => s
        (s.asyncFail q.fk q.slug q.pc q.mask 1 (some k)
          { code := 0x40, reason := f.reason, va := f.va, d0 := q.tag.toNat, sub := f.code })

/-! ## Collectives: issue (R298 to R302) -/

/-- Fields of a collective descriptor (R300). -/
structure CollDesc where
  gid : Nat
  op : Nat
  red : Nat
  ty : Nat
  exact' : Bool
  count : Nat
  root : Nat
  send : Nat
  recv : Nat
  deriving DecidableEq, Repr, Inhabited

/-- A collective descriptor read as its fields. -/
def collDesc (ws : List Word) : CollDesc :=
  let w0 := ws.getD 0 0
  let w1 := ws.getD 1 0
  { gid := (w0.extractLsb' 48 16).toNat, op := (w0.extractLsb' 44 4).toNat, red := (w0.extractLsb' 40 4).toNat,
    ty := (w0.extractLsb' 37 3).toNat, exact' := w0.getLsbD 36, count := (w1.extractLsb' 32 32).toNat,
    root := (w1.extractLsb' 0 9).toNat, send := (ws.getD 2 0).toNat % 2 ^ 54, recv := (ws.getD 3 0).toNat % 2 ^ 54 }

/-- A collective descriptor is malformed: a Rsvd field, a value out of range, EXACT where it may not stand (R300, R302). -/
def collBad (ws : List Word) (size : Option Nat) : Bool :=
  let d := collDesc ws
  let w (i : Nat) : Word := ws.getD i 0
  (w 0).extractLsb' 0 36 != 0 || (w 1).extractLsb' 9 23 != 0 || (w 2).extractLsb' 54 10 != 0 || (w 3).extractLsb' 54 10 != 0
    || w 4 != 0 || w 5 != 0 || w 6 != 0 || w 7 != 0
    || decide (6 < d.op) || decide (5 < d.red) || d.ty == 7
    || (d.exact' && !(d.red == 0 && d.ty == 4 && (d.op == 0 || d.op == 1 || d.op == 4)))
    || (match size with
        | some n => (d.op == 3 || d.op == 4) && decide (n ≤ d.root)
        | none => false)

/-- A group descriptor is malformed (R299). -/
def groupBad (ws : List Word) : Bool :=
  let w (i : Nat) : Word := ws.getD i 0
  let size := ((w 0).extractLsb' 38 10).toNat
  let self := ((w 0).extractLsb' 29 9).toNat
  (w 0).extractLsb' 0 29 != 0 || (w 1).extractLsb' 54 10 != 0 || (w 2).extractLsb' 32 32 != 0
    || w 3 != 0 || w 4 != 0 || w 5 != 0 || w 6 != 0 || w 7 != 0
    || decide (size < 1 ∨ 512 < size ∨ size ≤ self)

/-- A descriptor form (R298): the descriptor is a load of the slug; an acceptance code goes to the destination. `go` gives the
code and the state of an accepted command. -/
def descForm (w : Ops) (s : State) (go : Ctx → State → List Word → Nat × State) : Out :=
  scalarWord w.h s (fun c => s.unlessTx c true (fun _ =>
    let h : How := { whole := true, skips := false }
    match s.gate c h false false (fun _ => none) (oneElem 64 (c.m.readG w.a.num)) with
    | (s, none) => s
    | (s, some (good, _)) =>
      let r := s.readGood c good
      let bs := (r.2.map (·.2)).headD []
      let ws := (List.range 8).map (fun i => wordOf ((bs.drop (8 * i)).take 8))
      let x := go c r.1 ws
      s.finishPinned c false x.2 w.d.num (BitVec.ofNat 64 x.1)))

/-- `CGRP` (R298, R299). -/
def execCgrp (w : Ops) (m : CpyMod) (s : State) : Out :=
  descForm w s (fun c s ws =>
    let p := s.partOf c
    let gid := ((ws.getD 0 0).extractLsb' 48 16).toNat
    let gs := (s.part p).groups
    if groupBad ws then (1, s)
    else if (gs.look gid).used || decide (64 ≤ (gs.filter (fun g => g.2.used)).length) then (2, s)
    else if (s.part p).engines = 0 then (3, s)
    else
      let us := ((ws.getD 2 0).extractLsb' 0 32).toNat
      let g : Group :=
        { used := true, size := ((ws.getD 0 0).extractLsb' 38 10).toNat, self := ((ws.getD 0 0).extractLsb' 29 9).toNat,
          table := (ws.getD 1 0).toNat % 2 ^ 54, timeout := if us = 0 then 100000 else us, fk := c.iss.fk, slug := c.iss.sl,
          pc := c.path.pc, mask := c.act, tag := m.tag, since := s.cyc }
      (0, (s.startTag c.iss.fk m.tag).modPart p (fun q => { q with groups := q.groups.put gid g })))

/-- Waiting collectives start, in order, on the engines with fewer than 32 in flight (spec/18 R474). -/
def startColls (xs : List Coll) : List Coll :=
  (List.range xs.length).foldl (fun l i =>
    let e := (l.getD i {}).engine
    if (l.filter (fun x => x.engine == e && x.started)).length < 32 then l.modify i (fun x => { x with started := true }) else l) xs

/-- `COLL` (R298, R300, R302; spec/18 R474): an engine with room takes it, which one is open. -/
def execColl (w : Ops) (m : CpyMod) (s : State) : Out :=
  descForm w s (fun c s ws =>
    let p := s.partOf c
    let d := collDesc ws
    let g := (s.part p).groups.look d.gid
    if collBad ws (if g.used && g.formed then some g.size else none) then (1, s)
    else if !(g.used && g.formed) then (2, s)
    else if (s.part p).engines = 0 then (3, s)
    else
      let e := Config.choice s.fresh % (s.part p).engines
      let x : Coll := { fk := c.iss.fk, slug := c.iss.sl, pc := c.path.pc, mask := c.act, tag := m.tag, gid := d.gid, desc := ws,
                        engine := e, since := s.cyc }
      (0, (s.tookFree.startTag c.iss.fk m.tag).modPart p (fun q => { q with colls := startColls (q.colls ++ [x]) })))

/-! ## Collectives: effects (R301 to R303) -/

/-- The type of a collective's elements. -/
def collTy (ty : Nat) : Ty :=
  match Ty.parse (BitVec.ofNat 3 ty) with
  | .ok t => t
  | .error _ => .i32

/-- A float minimum or maximum of R152 (`VMIN`, `VMAX`): any NaN gives the canonical NaN. -/
def nanWins (pick : FFmt → Nat → Nat → Nat) (f : FFmt) (x y : Nat) : Nat :=
  if (FVal.decode f x).isNan || (FVal.decode f y).isNan then f.nanCode else pick f x y

/-- Two elements combined, floats rounded RNE (R281, R301; spec/05 R152). -/
def collRed (red : Nat) (t : Ty) (a b : Nat) : Nat :=
  if red = 0 then amo 0 t a b
  else if red = 1 then (if t.flt then eachElem t (nanWins minNBits) a b else amo 4 t a b)
  else if red = 2 then (if t.flt then eachElem t (nanWins maxNBits) a b else amo 5 t a b)
  else amo (red - 2) t a b

/-- All members' elements combined in some order and grouping, which one is open (R301). -/
def someOrder (f : Nat → Nat → Nat) (fresh : Nat) : Nat → List Nat → Nat
  | 0, xs => xs.headD 0
  | n + 1, xs => match xs with
    | [] => 0
    | [x] => x
    | _ =>
      let i := Config.choice (fresh + 2 * n) % xs.length
      let r := xs.eraseIdx i
      let j := Config.choice (fresh + 2 * n + 1) % r.length
      someOrder f fresh n (f (xs.getD i 0) (r.getD j 0) :: r.eraseIdx j)

/-- The exact sum of F32 elements, rounded once (R302). -/
def exactSum (xs : List Nat) : Nat :=
  (xs.foldl (fun (a : XAcc) x => a.add (FVal.decode .f32 x)) {}).round .rne

/-- One element of a reduced result: its own order of combination, from `fresh` on. -/
def collElem (d : CollDesc) (fresh : Nat) (xs : List Nat) : Nat :=
  if d.exact' then exactSum xs else someOrder (collRed d.red (collTy d.ty)) fresh xs.length xs

/-- The elements a range of bytes holds. -/
def elemsOf (w : Nat) (bs : List Byte) : List Nat :=
  (List.range (bs.length / w)).map (fun i => natOf ((bs.drop (w * i)).take w))

/-- The blocks of all members in order: `own` at place `self`, the others from `rest` (COUNT elements each). -/
def memberBlocks (size self len : Nat) (own rest : List Byte) : List (List Byte) :=
  (List.range size).map (fun j =>
    if j = self then own
    else
      let k := if j < self then j else j - 1
      let b := (rest.drop (len * k)).take len
      b ++ List.replicate (len - b.length) 0)

/-- What a member sends: how many elements. -/
def CollDesc.sends (d : CollDesc) (g : Group) : Nat :=
  if d.op = 6 then 0
  else if d.op = 1 ∨ d.op = 5 then d.count * g.size
  else if d.op = 3 then (if g.self = d.root then d.count else 0)
  else d.count

/-- What a member receives, from its own send buffer and the other members' blocks (R301). -/
def CollDesc.result (d : CollDesc) (g : Group) (fresh : Nat) (own rest : List Byte) : List Byte :=
  let w := (collTy d.ty).bytes
  let len := d.count * w
  let mine := if d.op = 1 ∨ d.op = 5 then (own.drop (len * g.self)).take len else own
  let bl := memberBlocks g.size g.self len mine rest
  let reduced : List Byte :=
    let es := bl.map (elemsOf w)
    (List.range d.count).flatMap (fun i => bytesOf w (collElem d (fresh + i * (2 * g.size + 1)) (es.map (fun e => e.getD i 0))))
  if d.op = 0 ∨ d.op = 1 then reduced
  else if d.op = 2 ∨ d.op = 5 then bl.flatten
  else if d.op = 3 then bl.getD d.root []
  else if d.op = 4 then (if g.self = d.root then reduced else [])
  else []

/-- A command of a group or collective is over on this member: tag, status, and a record of its failure (R292, spec/18 R469,
R472). -/
def State.collOver (s : State) (fk sl : Nat) (pc : Addr) (mask : Mask) (tag : BitVec 6) (f : Option Flt) : State :=
  match f with
  | none => s.setTag fk tag 0 0
  | some f => (s.setTag fk tag f.code (f.va + f.win)).asyncFail fk sl pc mask 3 none f

/-- A fault of a group's failure (spec/18 R450). -/
def collFlt (code : BitVec 8) (gid member : Nat) : Flt := { code := code, d0 := gid * 2 ^ 32 + member }

/-- The engine that serves a collective. -/
def State.collAgent (s : State) (p : Nat) (x : Coll) : Agent :=
  { fk := x.fk, core := none, part := p, world := (s.launch (s.forme x.fk).launch).world, rd := 7, wr := 7, far := false }

/-- What this member of a collective would receive, with the other members' blocks in `rest`: its send buffer is read. -/
def State.collOut (s : State) (p : Nat) (x : Coll) (rest : List Byte) : State × Except Flt (List Byte) :=
  let g := (s.part p).groups.look x.gid
  let d := collDesc x.desc
  match s.agentRead (s.collAgent p x) false d.send ((collTy d.ty).bytes * d.sends g) with
  | (s, .error f) => (s, .error f)
  | (s, .ok own) => ({ s with fresh := s.fresh + d.count * (2 * g.size + 1) }, .ok (d.result g s.fresh own rest))

/-- Some elements of RECV are written with their final values, which ones is open (spec/18 R473). -/
def State.someRecv (s : State) (p : Nat) (x : Coll) (out : List Byte) : State :=
  let d := collDesc x.desc
  let w := (collTy d.ty).bytes
  let n := out.length / w
  (List.range n).foldl (fun t i =>
    if (Config.choice (s.fresh + i)).testBit 0
    then (t.agentWrite (t.collAgent p x) false (d.recv + i * w) ((out.drop (i * w)).take w)).1 else t) { s with fresh := s.fresh + n }

/-- A collective that had started aborts: each element of RECV keeps its value or has its final one, which follows from what the other
members had sent, open here (spec/18 R473). -/
def State.abortedRecv (s : State) (p : Nat) (x : Coll) : State :=
  let n := (collDesc x.desc).count * (collTy (collDesc x.desc).ty).bytes * ((s.part p).groups.look x.gid).size
  let rest := (List.range n).map (fun i => Config.freeByte (16 * (s.fresh + i)))
  if !x.started then s
  else match { s with fresh := s.fresh + n }.collOut p x rest with
    | (s, .ok out) => s.someRecv p x out
    | (_, .error _) => s

/-- A collective at a place of a partition's list is taken out, and a waiting one of its engine may start. -/
def State.dropColl (s : State) (p i : Nat) : State :=
  s.modPart p (fun q => { q with colls := startColls (q.colls.eraseIdx i) })

/-- GROUP_FORMED: the attestations of group `index` of partition `part` match (`flag`), or member `size` does not
(R299). The zero fields of the member table are not looked at (DESIGN CHOICE; log entry 91). -/
def execGroupFormed (s : State) : Out :=
  let p := s.ev.part
  let gid := s.ev.index
  let g := (s.part p).groups.look gid
  if !g.used || g.formed then .next s
  else
    let ag : Agent := { fk := g.fk, core := none, part := p, world := 0, rd := 7, wr := 7, far := false }
    match s.agentRead ag false g.table (64 * g.size) with
    | (s, .error f) =>
      .next ((s.modPart p (fun q => { q with groups := q.groups.put gid {} })).collOver g.fk g.slug g.pc g.mask g.tag (some f))
    | (s, .ok bs) =>
      if s.ev.flag then
        .next ((s.modPart p (fun q => { q with groups := q.groups.put gid { g with formed := true, members := bs } })).collOver
          g.fk g.slug g.pc g.mask g.tag none)
      else .next ((s.modPart p (fun q => { q with groups := q.groups.put gid {} })).collOver g.fk g.slug g.pc g.mask g.tag
        (some (collFlt 0x61 gid s.ev.size)))

/-- COLLECTIVE_COMPLETE: every member has issued the collective at place `index` of partition `part`'s list, and `bytes` holds
what the other members send to this one; its RECV is written and its tag set (R301, R302). With `flag` false the members'
descriptors do not match, member `size` responsible, and it aborts; an aborted one leaves each element of RECV as it was or with its
final value (spec/18 R473). -/
def execCollectiveComplete (s : State) : Out :=
  let p := s.ev.part
  let s0 := s
  match (s.part p).colls[s.ev.index]? with
  | none => .next s
  | some x =>
    let recv := (collDesc x.desc).recv
    let done (s : State) (r : Option Flt) : State := (s.dropColl p s.ev.index).collOver x.fk x.slug x.pc x.mask x.tag r
    if !x.started then .next s
    else if !s.ev.flag then .next (done (s.abortedRecv p x) (some (collFlt 0x60 x.gid s.ev.size)))
    else match s.collOut p x s.ev.bytes with
      | (s, .error f) => .next (done s (some f))
      | (s, .ok out) =>
        match untilFault (fun s (q : Nat × Nat) =>
            s.agentWrite (s.collAgent p x) false (recv + q.1) ((out.drop q.1).take q.2)) s (destParts recv out.length) with
        | (t, none) => .next (s0.orAgain (done t none))
        | (_, some f) => .next (s0.orAgain (done (s.someRecv p x out) (some f)))

/-- Every collective of a group aborts with a code (spec/18 R472). -/
def State.abortGroup (s : State) (p gid : Nat) (code : BitVec 8) (member : Nat) : State :=
  let xs := (s.part p).colls.filter (fun x => x.gid == gid)
  let s := s.modPart p (fun q => { q with colls := startColls (q.colls.filter (fun x => x.gid != gid)) })
  xs.foldl (fun s x => (s.abortedRecv p x).collOver x.fk x.slug x.pc x.mask x.tag (some (collFlt code gid member))) s

/-- Cycles of a group's TIMEOUT. -/
def Group.cycles (g : Group) : Nat := 1600 * g.timeout

/-- COLLECTIVE_TIMEOUT: TIMEOUT has run out for the forming group `index` (`tenant` false), or for the collective at place
`index` (`tenant` true); `size` is the member responsible, 0x1FF for none, and with `flag` false that member has not
re-attested, so that later collectives abort too (R299, spec/18 R472). -/
def execCollectiveTimeout (s : State) : Out :=
  let p := s.ev.part
  if s.ev.tenant then
    match (s.part p).colls[s.ev.index]? with
    | none => .next s
    | some x =>
      let g := (s.part p).groups.look x.gid
      if s.cyc < x.since + g.cycles && g.lost.isNone then .next s
      else
        let s := if s.ev.flag then s
          else s.modPart p (fun q => { q with groups := q.groups.put x.gid { g with lost := some s.ev.size } })
        .next (((s.abortedRecv p x).dropColl p s.ev.index).collOver x.fk x.slug x.pc x.mask x.tag
          (some (collFlt 0x60 x.gid (g.lost.getD s.ev.size))))
  else
    let g := (s.part p).groups.look s.ev.index
    if !g.used || g.formed || decide (s.cyc < g.since + g.cycles) then .next s
    else .next ((s.modPart p (fun q => { q with groups := q.groups.put s.ev.index {} })).collOver g.fk g.slug g.pc g.mask g.tag
      (some (collFlt 0x60 s.ev.index s.ev.size)))

/-- MEMBER_REATTEST: member `size` of group `index`, whose device or partition was reset, attests again with the same
measurement (`flag`) or another (spec/18 R472). -/
def execMemberReattest (s : State) : Out :=
  let p := s.ev.part
  let gid := s.ev.index
  let g := (s.part p).groups.look gid
  if !g.used || !g.formed then .next s
  else if s.ev.flag then
    .next ((s.modPart p (fun q => { q with groups := q.groups.put gid { g with lost := none } })).abortGroup p gid 0x60 s.ev.size)
  else .next ((s.abortGroup p gid 0x61 s.ev.size).modPart p (fun q => { q with groups := q.groups.put gid {} }))

end Sys2Proof.Machine
end

