-- ==== Sys2Proof/Machine/HostRegs.lean ====
section
/-!
DEFINITION. Writes of device registers with no work behind them: the hotness ring (spec/07 R240 to R242), the handler's entry
(spec/20 R486), first-touch ranges (spec/18 R464), the time-triggered table (spec/10 R332), the mailbox's buffers and the MSI-X
table (spec/20 R485), and the physical function's controls (spec/10 R330, R335, spec/14 R391, spec/18 R460, R464).
-/

namespace Sys2Proof.Machine

/-- A register write of the physical function for a partition, which acts only under a condition. -/
def partWrite (s : State) (ok : Bool) (f : Partition → Partition) : Out :=
  .next (if ok then s.modPart s.ev.part f else s)

/-- A write of the virtual function's register at offset `o`, which acts only under a condition. -/
def vfWrite (s : State) (o : Nat) (ok : Bool) (f : Partition → Partition) : Out := regWrite s o (fun s => partWrite s ok f)

/-! ## Interrupts (spec/20 R485, spec/10 R313) -/

/-- An interrupt of a virtual function: the message is sent, or left pending with its cookie while the vector is masked; of several
while it is masked the last one's stands (log entry 95). -/
def State.raiseIrq (s : State) (p v : Nat) (cookie : Word) : State :=
  let q := s.part p
  if (q.msixTable.look (2 * v + 1)).getLsbD 32 then
    s.modPart p (fun q => { q with msixPending := q.msixPending ||| (1#256 <<< v), cookies := q.cookies.put v cookie })
  else { s with irqs := s.irqs ++ [(p + 1, v, cookie)] }

/-! ## Hotness sampling -/

/-- HOTNESS_SAMPLE: the first record that the homes keep for partition `part` goes to its ring, or is dropped and counted (R242). -/
def execHotnessSample (s : State) : Out :=
  let p := s.ev.part
  let q := s.part p
  let drop (s : State) : State := s.modPart p (fun q => { q with hsdrop := q.hsdrop + 1 })
  let e := 2 ^ q.hssize.toNat / 32
  let t := s.modPart p (fun q => { q with hsPending := q.hsPending.drop 1 })
  match q.hsPending with
  | [] => .next s
  | r :: _ =>
  if q.hssize = 0 ∨ (q.hswr - q.hsrd).toNat = e then .next (drop t)
  else match t.translate none p (q.hsbase.toNat + q.hswr.toNat % e * 32) 32 .write with
    | (t, .ok (pa, l)) =>
      if l.mt = 0 then .next (s.orAgain ((t.homeWrite pa r).modPart p (fun q => { q with hswr := q.hswr + 1 })))
      else .next (drop t)
    | (t, .error _) => .next (drop t)

/-- HSBASE_WRITE (R242). -/
def execHsbaseWrite (s : State) : Out :=
  vfWrite s 0x4100 (s.ev.value.toNat % 4096 == 0) (fun q => { q with hsbase := s.ev.value })

/-- HSSIZE_WRITE (R242). -/
def execHssizeWrite (s : State) : Out :=
  vfWrite s 0x4108 (decide (12 ≤ s.ev.value.toNat ∧ s.ev.value.toNat ≤ 26)) (fun q => { q with hssize := s.ev.value })

/-- HSRD_WRITE (R242). -/
def execHsrdWrite (s : State) : Out := vfWrite s 0x4118 true (fun q => { q with hsrd := s.ev.value })

/-- HSK_WRITE (R240): the exponent, or 0 to stop sampling; the home counters start from it. -/
def execHskWrite (s : State) : Out :=
  let k := s.ev.value.toNat
  vfWrite s 0x4128 (k == 0 || decide (6 ≤ k ∧ k ≤ 20)) (fun q => { q with hsk := s.ev.value, hsCount := [] })

/-! ## The handler's entry -/

/-- HENTRY_WRITE (spec/20 R486). -/
def execHentryWrite (s : State) : Out :=
  let v := s.ev.value.extractLsb' 0 32
  vfWrite s 0x4208 (v.toNat % 8 == 0) (fun q => { q with hentry := v })

/-! ## First-touch ranges (spec/18 R464) -/

/-- Bits [127:64] of a leaf that a template may hold. -/
def templateOk (v : Word) : Bool :=
  let l : Leaf := { lo := 0, hi := v, level := 0, part := 0, base := 0 }
  l.mt == 0 && l.key == 0 && l.ps == 0 && !l.x && isFormat l.fmt l.geo && v.extractLsb' 58 6 == 0 && v.extractLsb' 0 20 == 0

/-- Change a first-touch range. -/
def Partition.modFt (q : Partition) (r : Nat) (f : FtRange → FtRange) : Partition := { q with ft := q.ft.upd r f }

/-- FTBASE_WRITE. -/
def execFtbaseWrite (s : State) : Out :=
  vfWrite s 0x4300 (s.ev.value.toNat % 2 ^ 18 == 0) (·.modFt s.ev.index (fun r => { r with base := s.ev.value }))

/-- FTLEN_WRITE. -/
def execFtlenWrite (s : State) : Out :=
  vfWrite s 0x4308 (s.ev.value.toNat % 2 ^ 18 == 0) (·.modFt s.ev.index (fun r => { r with len := s.ev.value }))

/-- FTTMPL_WRITE. -/
def execFttmplWrite (s : State) : Out :=
  vfWrite s 0x4310 (templateOk s.ev.value) (·.modFt s.ev.index (fun r => { r with tmpl := s.ev.value }))

/-! ## The time-triggered table (spec/10 R332) -/

/-- A write of a register of an entry: only a write that clears EN acts while EN = 1; a set Rsvd bit or a PERIOD from 1 to
9,999 discards the write, and so does the register of SKIPS and RUNS, which are firmware's. -/
def TtEntry.write (t : TtEntry) (k : Nat) (v : Word) : TtEntry :=
  let p := v.extractLsb' 0 48
  if k = 1 ∧ (v.extractLsb' 48 15 ≠ 0 ∨ (1 ≤ p.toNat ∧ p.toNat < 10000)) then t
  else if t.en then (if k = 1 ∧ !v.getLsbD 63 then { t with en := false } else t)
  else if k = 0 then { t with next := v }
  else if k = 1 then { t with en := v.getLsbD 63, period := p }
  else if k = 2 ∧ v.extractLsb' 54 10 = 0 then { t with record := v.extractLsb' 0 54 }
  else t

/-- TT_ENTRY_WRITE: register `index` of the table, four to an entry. -/
def execTtEntryWrite (s : State) : Out :=
  vfWrite s (0x2000 + 8 * s.ev.index) true (fun q => { q with tt := q.tt.upd (s.ev.index / 4) (fun t => t.write (s.ev.index % 4) s.ev.value) })

/-! ## Registers that only hold what is written (spec/20 R484, R485) -/

/-- The vectors of the MSI-X table that are pending and no longer masked. -/
def Partition.unmasked (q : Partition) : List Nat :=
  (List.range 256).filter (fun v => q.msixPending.getLsbD v && !(q.msixTable.look (2 * v + 1)).getLsbD 32)

/-- A write of the mailbox's request buffer at offset `index`, or of the MSI-X table; the response buffer is the device's own. -/
def State.plainWrite (s : State) : State :=
  let p := s.ev.part
  let o := s.ev.index
  if 0x4000 ≤ o ∧ o < 0x4040 then
    s.modPart p (fun q => { q with mboxReq := q.mboxReq.put ((o - 0x4000) / 8) s.ev.value })
  else if 0x8000 ≤ o ∧ o < 0x9000 then
    let s := s.modPart p (fun q => { q with msixTable := q.msixTable.put ((o - 0x8000) / 8) s.ev.value })
    (s.part p).unmasked.foldl (fun s v =>
      (s.modPart p (fun q => { q with msixPending := q.msixPending &&& ~~~(1#256 <<< v), cookies := q.cookies.put v 0 })).raiseIrq p v
        ((s.part p).cookies.look v)) s
  else s

/-- BAR_REGISTER_WRITE. -/
def execBarRegisterWrite (s : State) : Out := regWrite s s.ev.index (fun s => .next s.plainWrite)

/-! ## The physical function's registers (spec/20 R488) -/

/-- DRAIN_BUDGET_WRITE: partition `part`'s budget in microseconds (spec/10 R335). -/
def execDrainBudgetWrite (s : State) : Out :=
  let v := s.ev.value.toNat
  partWrite s (decide (10 ≤ v ∧ v ≤ 10000)) (fun q => { q with drainUs := s.ev.value })

/-- SLICE_BASE_WRITE: BASE in microseconds, from 100 to 100,000 (spec/10 R330). -/
def execSliceBaseWrite (s : State) : Out :=
  let v := s.ev.value.toNat
  .next (if 100 ≤ v ∧ v ≤ 100000 then { s with sliceBase := s.ev.value } else s)

/-- FEATURE_MASK_WRITE: partition `part`'s mask of leaf `index` (spec/18 R460). -/
def execFeatureMaskWrite (s : State) : Out :=
  partWrite s (decide (s.ev.index < 6)) (fun q => { q with masks := q.masks.put s.ev.index (~~~s.ev.value) })

/-- The floor fields of every world. -/
def State.floors (s : State) (mem : Bool) : Nat :=
  s.worlds.foldl (fun n e => n + (if mem then e.2.mflr else e.2.fflr).toNat) 0

/-- BANDWIDTH_RECORD_WRITE: the memory half (`flag`) or the fabric half of world `index`'s record; floors above 1,024 in all are
refused (spec/14 R391). -/
def execBandwidthRecordWrite (s : State) : Out :=
  let w := s.worlds.look s.ev.index
  let lim := s.ev.value.extractLsb' 32 32
  let flr := s.ev.value.extractLsb' 0 11
  let mem := s.ev.flag
  let w' : World := if mem then { w with mlim := lim, mflr := flr } else { w with flim := lim, fflr := flr }
  let t := { s with worlds := s.worlds.put s.ev.index w' }
  .next (if 1 ≤ s.ev.index ∧ s.ev.index ≤ 4095 ∧ s.ev.value.extractLsb' 11 21 = 0 ∧ t.floors mem ≤ 1024 then t else s)

/-- TOKEN_RATE_RECOMPUTE: a world's rates at `size` points that hold its work (spec/14 R393). -/
def execTokenRateRecompute (s : State) : Out :=
  let n := max 1 s.ev.size
  .next { s with worlds := s.worlds.upd s.ev.index (fun w =>
    { w with memRate := w.mlim.toNat / n, fabRate := w.flim.toNat / n }) }

end Sys2Proof.Machine
end

