-- ==== Sys2Proof/Machine/Submit.lean ====
section
/-!
DEFINITION. Submitting a launch for its checks (spec/10 R320), and what firmware does to signals (R307, R308).
-/

namespace Sys2Proof.Machine

/-! ## Firmware's accesses -/

/-- Firmware reads bytes of a partition within one page: NORMAL pages, and HOST pages where `host` allows them. -/
def State.fwRead (s : State) (p va n : Nat) (host : Bool) : State × Option (List Byte) :=
  match s.translate none p va n .read with
  | (s, .ok (pa, l)) =>
    if l.mt = 0 then
      let r := s.homeRead pa n
      (r.1, some r.2)
    else if l.mt = 4 ∧ host then
      match s.hostAnswer va l with
      | (s, some _) => (s, none)
      | (s, none) =>
        let r := s.outside n
        (r.1, some r.2)
    else (s, none)
  | (s, .error _) => (s, none)

/-- Firmware reads bytes that may lie on several NORMAL pages. -/
def State.fwReadAll (s : State) (p va n : Nat) : State × Option (List Byte) :=
  (pagePieces va n).foldl (fun r k => match r with
    | (s, none) => (s, none)
    | (s, some bs) => match s.fwRead p k.1 k.2 false with
      | (s, some cs) => (s, some (bs ++ cs))
      | (s, none) => (s, none)) (s, some [])

/-- A 64-bit word read by firmware. -/
def State.fwWord (s : State) (p va : Nat) : State × Option Word :=
  match s.fwRead p va 8 false with
  | (s, some bs) => (s, some (wordOf bs))
  | (s, none) => (s, none)

/-! ## Signals (R307) -/

/-- An atomic of 64 bits at its home, or held back for the oldest transaction. -/
def State.homeAtomic (s : State) (pa op : Nat) (v : Word) : State :=
  s.perform { line := { line := lineOf pa }, addr := pa, bytes := bytesOf 8 v.toNat, op := .amo op .i64, type := 2 }

/-- One atomic of firmware on a signal, with the operation codes of spec/09 R279; whether it was performed (R313). -/
def State.fwSignal (s : State) (p va op : Nat) (v : Word) : State × Bool :=
  if va % 8 ≠ 0 then (s, false)
  else match s.translate none p va 8 .write with
    | (s, .ok (pa, l)) => if l.mt = 0 then (s.homeAtomic pa op v, true) else (s, false)
    | (s, .error _) => (s, false)

/-- A completion of a signal adds −1; an abort is min with −1; address 0 is no signal. -/
def State.signal (s : State) (p va : Nat) (abort : Bool) : State :=
  if va = 0 then s
  else (if abort then s.fwSignal p va 4 0xFFFFFFFFFFFFFFFF else s.fwSignal p va 0 0xFFFFFFFFFFFFFFFF).1

/-! ## Submission (R320) -/

/-- The active launches of a partition. -/
def State.activeCount (s : State) (p : Nat) : Nat :=
  (s.launches.filter (fun e => e.2.part == p && (e.2.st == .active || e.2.st == .failing))).length

/-- The active launches a partition may hold (R320, spec/14 R385). -/
def State.launchLimit (s : State) (p : Nat) : Nat := min 256 (s.part p).launches

/-- The first number from a base at which no launch stands. -/
def State.freeLaunch (s : State) (base : Nat) : Nat :=
  ((List.range (s.launches.length + 1)).map (· + base)).find? (fun n => (s.launch n).st == .none) |>.getD base

/-- A launch enters its checks, numbered in the order of submission; until it is accepted it stands beyond the 16,384
active-launch indexes. -/
def State.submit (s : State) (l : Launch) : State :=
  let n := s.freeLaunch 16384
  let s := s.modLaunch n (fun _ => { l with st := .checking, order := s.accepted })
  { s with accepted := s.accepted + 1 }

end Sys2Proof.Machine
end

