-- ==== Sys2Proof/Machine/Queues.lean ====
section
/-!
DEFINITION. Host command queues (spec/10 R309 to R317, R331, spec/13 R377, R378): register writes, the reading and starting of
packets, their work and their end.
-/

namespace Sys2Proof.Machine

/-! ## States (R314) -/

/-- A queue block. -/
def State.queue (s : State) (p q : Nat) : HostQueue := (s.part p).queues.look q

/-- The queue enters ERROR (R315). -/
def State.qError (s : State) (p q : Nat) (code : BitVec 8) : State :=
  s.modQueue p q (fun k => { k with st := 5, err := code, head := none, deficit := 0 })

/-- Fields of a packet (R311, R312). -/
def Packet.word (k : Packet) (i : Nat) : Word := k.words.getD i 0
def Packet.type (k : Packet) : Nat := (k.word 0).toNat % 256
def Packet.bar (k : Packet) : Bool := (k.word 0).getLsbD 8
def Packet.ah (k : Packet) : Bool := (k.word 0).getLsbD 9
def Packet.irq (k : Packet) : Bool := (k.word 0).getLsbD 10
def Packet.csig (k : Packet) : Nat := (k.word 1).toNat % 2 ^ 54

/-- Why a packet is malformed, as an ERR code (R311, R312, R315). -/
def Packet.malformed (k : Packet) : Option (BitVec 8) :=
  let w := k.word
  let hi (i n : Nat) : Bool := decide ((w i).toNat < 2 ^ n)
  let body : Bool :=
    if k.type = 0 then [2, 3, 4, 5, 6, 7].all (fun i => w i == 0)
    else if k.type = 1 then w 1 == 0 && hi 2 54 && [3, 4, 5, 6, 7].all (fun i => w i == 0)
    else if k.type = 2 then hi 2 54 && hi 3 54 && hi 4 40 && [5, 6, 7].all (fun i => w i == 0)
    else if k.type = 3 then [2, 3, 4, 5, 6].all (fun i => hi i 54) && hi 7 32
    else if k.type = 4 then hi 2 54 && decide ((w 4).toNat ≤ 2) && [5, 6, 7].all (fun i => w i == 0)
    else [3, 4, 5, 6, 7].all (fun i => w i == 0)
  if 6 ≤ k.type then some 0x01
  else if (w 0).extractLsb' 11 21 != 0 || !hi 1 54 || !body then some 0x02
  else none

/-- PACKET_READ (R310, R315): the next packet is read whole, QRD advances, its form is checked; or the queue is IDLE. -/
def State.readNext (s : State) (p q : Nat) : State :=
  let k := s.queue p q
  if k.qrd = k.qwr then s.modQueue p q (fun k => { k with st := 1, deficit := 0 })
  else match s.fwRead p ((k.qbase.toNat + k.qrd.toNat % 2 ^ k.log2n.toNat) * 64) 64 true with
    | (s, none) => s.qError p q 0x03
    | (s, some bs) =>
      let pk : Packet := { words := (List.range 8).map (fun i => wordOf ((bs.drop (8 * i)).take 8)) }
      let s := s.modQueue p q (fun k => { k with qrd := k.qrd + 1 })
      match pk.malformed with
      | some e => s.qError p q e
      | none => s.modQueue p q (fun k => { k with st := 3, head := some pk })

/-! ## Register writes (R309, R315) -/

/-- QUEUE_BASE_WRITE. -/
def execQueueBaseWrite (s : State) : Out := regWrite s (32 * s.ev.index) (fun s =>
  let p := s.ev.part
  let q := s.ev.index
  let v := s.ev.value
  if v.extractLsb' 54 10 ≠ 0 ∨ v.extractLsb' 0 6 ≠ 0 then .next (s.qError p q 0x02)
  else if (s.queue p q).en then .next s
  else .next (s.modQueue p q (fun k => { k with qbase := v.extractLsb' 6 48 })))

/-- A control write while EN = 0: its fields, and then EN (R309). -/
def State.queueControl (s : State) (p q : Nat) (v : Word) : State :=
  let lg := v.extractLsb' 0 5
  if v.extractLsb' 32 32 ≠ 0 ∨ v.extractLsb' 5 15 ≠ 0 then s.qError p q 0x02
  else if lg.toNat < 4 ∨ 16 < lg.toNat then s
  else
    let s := s.modQueue p q (fun k => { k with prio := v.extractLsb' 28 3, weight := v.extractLsb' 20 8, log2n := lg })
    if !v.getLsbD 31 then s.modQueue p q (fun k => { k with st := if k.st = 5 then 0 else k.st })
    else s.modQueue p q (fun k =>
      if k.st = 5 then k else { k with en := true, qrd := k.qwr, st := 1, head := none, aborts := 0, deficit := 0 })

/-- QUEUE_POLICY_WRITE: PRIO, WEIGHT and LOG2N while the queue is disabled; while it is enabled, EN = 1 leaves it as it is. -/
def execQueuePolicyWrite (s : State) : Out := regWrite s (32 * s.ev.index + 8) (fun s =>
  if (s.queue s.ev.part s.ev.index).en then .next s else .next (s.queueControl s.ev.part s.ev.index s.ev.value))

/-- QUEUE_ENABLE. -/
def execQueueEnable (s : State) : Out := regWrite s (32 * s.ev.index + 8) (fun s =>
  if (s.queue s.ev.part s.ev.index).en then .next s else .next (s.queueControl s.ev.part s.ev.index s.ev.value))

/-- A queue goes OFF: a held packet does not start, started ones run on (R315, R317). -/
def HostQueue.off (k : HostQueue) : HostQueue :=
  { k with en := false, st := 0, head := none, aborts := 0, deficit := 0,
           running := k.running.map (fun x => { x with detached := true }) }

/-- QUEUE_DISABLE. -/
def execQueueDisable (s : State) : Out := regWrite s (32 * s.ev.index + 8) (fun s =>
  let p := s.ev.part
  let q := s.ev.index
  if (s.queue p q).en then .next (s.modQueue p q (·.off)) else .next (s.queueControl p q s.ev.value))

/-- KICK (R310): QWR takes the value; an overrun is an error; an idle queue's next packet is read. -/
def execKick (s : State) : Out := regWrite s (32 * s.ev.index + 16) (fun s =>
  let p := s.ev.part
  let q := s.ev.index
  if s.ev.value.extractLsb' 32 32 ≠ 0 then .next (s.qError p q 0x02)
  else
    let s := s.modQueue p q (fun k => { k with qwr := s.ev.value.extractLsb' 0 32 })
    let k := s.queue p q
    if k.st = 0 ∨ k.st = 5 then .next s
    else if 2 ^ k.log2n.toNat < (k.qwr - k.qrd).toNat then .next (s.qError p q 0x04)
    else if k.st = 1 then .next (s.readNext p q)
    else .next s)

/-! ## The end of a packet (R313, R315) -/

/-- A started packet of a queue has ended: CSIG, then the interrupt; a queue that waited for it reads on. -/
def State.endPacket (s : State) (p q id : Nat) (abort : Bool) : State :=
  match (s.queue p q).running.find? (fun x => x.id == id) with
  | none => s
  | some k =>
    let s := if k.type = 1 then s else s.signal p k.csig abort
    let s := s.modQueue p q (fun x => { x with
      running := x.running.filter (fun y => y.id != id)
      aborts := if abort && !k.detached then x.aborts + 1 else x.aborts })
    let s := if k.irq then s.raiseIrq p q ((k.word 0).extractLsb' 32 32 |>.zeroExtend 64) else s
    if (s.queue p q).st = 4 ∧ !k.detached ∧ (k.type = 3 ∨ k.type = 5) then s.readNext p q else s

/-! ## Barrier passes (R378) -/

/-- One read of a pass: signal `i` of the five, at its home; one that cannot be read counts as −1, an unused one is skipped. -/
def State.passRead (s : State) (p : Nat) (k : Packet) (i : Nat) : State × Packet :=
  let va := (k.word (2 + i)).toNat
  let note (s : State) (x : Int) : State × Packet := (s, { k with low := k.low || decide (x < 0), high := k.high || decide (0 < x) })
  if va = 0 then (s, k)
  else if va % 8 ≠ 0 then note s (-1)
  else match s.fwWord p va with
    | (s, some w) => note s w.toInt
    | (s, none) => note s (-1)

/-- The next `n` reads of a packet's pass; the pass is not one indivisible snapshot. -/
def State.passReads (s : State) (p : Nat) (k : Packet) : Nat → State × Packet
  | 0 => (s, k)
  | n + 1 =>
    if 5 ≤ k.read then (s, k)
    else match s.passRead p k k.read with
      | (s, x) => s.passReads p { x with read := k.read + 1 } n

/-- Reads of a waiting BARRIER packet's pass, and at its end what follows (R317, R378): the first pass begins at the packet's start. -/
def State.barrierPass (s : State) (p q : Nat) (k : Packet) (n : Nat) : State :=
  match s.passReads p k n with
  | (s, x) =>
    if x.read < 5 then
      s.modQueue p q (fun y => { y with running := y.running.map (fun z => if z.id = k.id then x else z) })
    else if (x.first && x.ah && x.low) || !x.high then s.endPacket p q k.id x.low
    else s.modQueue p q (fun y => { y with running := y.running.map (fun z => if z.id = k.id then
        { x with read := 0, low := false, high := false, first := false } else z) })

/-! ## Starting packets (R316, R317, R331) -/

/-- The head packet of a queue may start now. -/
def State.canStart (s : State) (p q : Nat) : Bool :=
  let k := s.queue p q
  k.en && k.st == 3 && (s.part p).tdisp != .error && s.power == .on && (match k.head with
    | some h => (!h.bar || k.running.isEmpty) && (h.type != 1 || decide (s.activeCount p < s.launchLimit p))
    | none => false)

/-- The packet's work (R313). -/
def State.doPacket (s : State) (p q : Nat) (k : Packet) : State :=
  let w (i : Nat) : Nat := (k.word i).toNat
  if k.type = 0 then s.endPacket p q k.id false
  else if k.type = 1 then s.submit { part := p, origin := .packet q k.id, recAddr := w 2 }
  else if k.type = 2 then
    s.modPart p (fun x => { x with copies := x.copies ++ [{ q := q, id := k.id, src := w 2, dst := w 3, len := w 4 }] })
  else if k.type = 3 then s.tookFree.barrierPass p q k (Config.choice s.fresh % 6)
  else if k.type = 4 then
    let op := if w 4 = 0 then 0 else if w 4 = 1 then 6 else 4
    match s.fwSignal p (w 2) op (k.word 3) with
    | (s, ok) => s.endPacket p q k.id (!ok)
  else if w 2 ≤ s.ptpNow then s.endPacket p q k.id false
  else s

/-- A packet does no work and aborts: its CSIG, or the SIGNAL of a launch record (R317). -/
def State.abortPacket (s : State) (p q : Nat) (k : Packet) : State :=
  let s := if k.type = 1 then
      (match s.fwWord p ((k.word 2).toNat + 0x28) with
       | (s, some x) => s.signal p (x.toNat % 2 ^ 54) true
       | (s, none) => s)
    else s
  s.endPacket p q k.id true

/-- The head packet of a queue starts; the queue waits for a BARRIER or TIMED packet, else its next packet is read
(R315). -/
def State.startHead (s : State) (p q : Nat) : State :=
  match (s.queue p q).head with
  | none => s
  | some h =>
    let k : Packet := { h with id := (s.part p).serial, since := s.cyc, first := h.type == 3 }
    let s := s.modPart p (fun x => { x with serial := x.serial + 1 })
    let aborted := k.ah && decide (0 < (s.queue p q).aborts)
    let waits := k.type == 3 || k.type == 5
    let s := s.modQueue p q (fun x => { x with head := none, running := x.running ++ [k], st := if waits then 4 else x.st })
    let s := if waits then s else s.readNext p q
    if aborted then s.abortPacket p q k else s.doPacket p q k

/-- The quantum of a queue: WEIGHT, 0 read as 1. -/
def HostQueue.quantum (k : HostQueue) : Nat := max 1 k.weight.toNat

/-- The queue whose packet starts next, and the partition after the choice: the highest PRIO first; within it the queue whose turn
it is while its quantum lasts, then the next in index order (R331). -/
def State.pickQueue (s : State) (p : Nat) : Option (Nat × State) :=
  let qs := ((s.part p).queues.map (·.1)).filter (fun q => s.canStart p q)
  match qs.map (fun q => (s.queue p q).prio.toNat) with
  | [] => none
  | a :: r =>
    let top := r.foldl max a
    let cs := qs.filter (fun q => (s.queue p q).prio.toNat == top)
    let cur := (s.part p).turns.look top
    let mine := cs.contains cur && decide (0 < (s.queue p cur).deficit)
    let q := if mine then cur else ((cs.find? (fun x => decide (cur < x))).getD (cs.headD 0))
    let d := if mine then (s.queue p q).deficit - 1 else (s.queue p q).quantum - 1
    some (q, (s.modQueue p q (fun k => { k with deficit := d })).modPart p (fun x => { x with turns := x.turns.put top q }))

/-- One packet of a partition starts, if any may. -/
def State.startOne (s : State) (p : Nat) : Option State :=
  (s.pickQueue p).map (fun r => r.2.startHead p r.1)

/-- Packets of a partition start until none may. -/
def State.pump (p : Nat) : Nat → State → State
  | 0, s => s
  | n + 1, s => match s.startOne p with
    | some t => State.pump p n t
    | none => s

/-- PACKET_START: one packet of partition `part` starts. -/
def execPacketStart (s : State) : Out := .next ((s.startOne s.ev.part).getD s)

/-- A started packet of a queue by its number. -/
def State.started (s : State) (p q id : Nat) : Option Packet := (s.queue p q).running.find? (fun x => x.id == id)

/-- BARRIER_PASS: the waiting packet `size` of queue `index` finishes its pass, or makes a further one; with `flag` false it makes the next
read of it only (R378). -/
def execBarrierPass (s : State) : Out :=
  match s.started s.ev.part s.ev.index s.ev.size with
  | some k => if k.type = 3 then .next (State.pump s.ev.part 64 (s.barrierPass s.ev.part s.ev.index k (if s.ev.flag then 5 else 1))) else .next s
  | none => .next s

/-- TMO has run out for a waiting packet. -/
def Packet.timedOut (k : Packet) (now : Nat) : Bool :=
  let t := (k.word 7).toNat
  k.type == 3 && t != 0 && decide (k.since + 1600 * t ≤ now)

/-- BARRIER_TIMEOUT (R312, R313). -/
def execBarrierTimeout (s : State) : Out :=
  match s.started s.ev.part s.ev.index s.ev.size with
  | some k => if k.timedOut s.cyc then .next (State.pump s.ev.part 64 (s.endPacket s.ev.part s.ev.index k.id true)) else .next s
  | none => .next s

/-- TIMED_EXPIRY (R313). -/
def execTimedExpiry (s : State) : Out :=
  match s.started s.ev.part s.ev.index s.ev.size with
  | some k =>
    if k.type = 5 ∧ (k.word 2).toNat ≤ s.ptpNow then
      .next (State.pump s.ev.part 64 (s.endPacket s.ev.part s.ev.index k.id false))
    else .next s
  | none => .next s

/-- A COPY packet performed by the copy unit of core `core` of the partition (R313): it completes or aborts. -/
def State.packetCopy (s : State) (p i : Nat) : State :=
  match (s.part p).copies[i]? with
  | none => s
  | some x =>
    let k := s.ev.core
    if !(s.clustersNow p).contains (clusterOf k) || (s.core k).retired then s
    else
      let g : Agent := { fk := 0, core := some k, part := p, world := 0, rd := 5, wr := 6, far := true }
      match s.copyRun g false false x.dst x.src x.len with
      | (s, r) =>
        let s := s.modPart p (fun y => { y with copies := y.copies.eraseIdx i })
        State.pump p 64 (s.endPacket p x.q x.id r.isSome)

end Sys2Proof.Machine
end

