-- ==== Sys2Proof/Machine/Annotations.lean ====
section
/-!
DEFINITION. Annotations (spec/15 R410 to R413): types, relations and block records, and reading an annotation blob. A
rejection names its rule, the operand and the demanded check (R428, R429).
-/

namespace Sys2Proof.Machine

/-! ## Rejections -/

/-- The demanded check of a rejection (R429 word 7): opcode, register, zone, token or power, and length or limit. -/
structure Demand where
  op : Nat := 0
  reg : Nat := 0
  zt : Nat := 0
  val : Nat := 0
  deriving DecidableEq, Repr, Inhabited

/-- Why admission rejects: family, number, operand position, demanded check (R428, R429). -/
structure AdmRej where
  fam : Nat
  num : Nat
  opnd : Nat := 0
  chk : Demand := {}
  deriving DecidableEq, Repr, Inhabited

/-- Rules of the six families (R428). -/
def typR (n opnd : Nat) : AdmRej := { fam := 1, num := n, opnd := opnd }
def bndR (n opnd : Nat) : AdmRej := { fam := 2, num := n, opnd := opnd }
def lckR (n opnd : Nat) : AdmRej := { fam := 3, num := n, opnd := opnd }
def cfgR (n opnd : Nat) : AdmRej := { fam := 5, num := n, opnd := opnd }
def resR (n opnd : Nat) : AdmRej := { fam := 6, num := n, opnd := opnd }

/-- The rule an encoding error names (spec/03 R90). -/
def encR (e : Enc) (opnd : Nat) : AdmRej :=
  match e with
  | .enc01 => { fam := 4, num := 1, opnd := opnd }
  | .enc02 => { fam := 4, num := 2, opnd := opnd }
  | .enc03 => { fam := 4, num := 3, opnd := opnd }
  | .enc04 => { fam := 4, num := 4, opnd := opnd }
  | .enc05 => { fam := 4, num := 5, opnd := opnd }
  | .enc06 => { fam := 4, num := 6, opnd := opnd }
  | .enc07 => { fam := 4, num := 7, opnd := opnd }
  | .typ03 => typR 3 opnd
  | .typ04 => typR 4 opnd

/-- An answer of admission. -/
abbrev Adm (α : Type) := Except AdmRej α

/-- The rejection `e` unless `c` holds. -/
def must (c : Bool) (e : AdmRej) : Adm Unit := if c then .ok () else .error e

/-! ## Types and relations (R410, R411) -/

/-- The type of a register; registers are named by their operand codes (spec/03 R73). -/
inductive RegTy where
  | int | idx | ptr (z : Nat) | sptr | handle | lock (k : Nat) | code
  deriving DecidableEq, Repr, Inhabited

/-- A relation: `x - y <= c`, or `p + s*x <= end(z) - e`. -/
inductive Rel where
  | diff (x y : Nat) (c : Int)
  | fin (p s x z e : Nat)
  deriving DecidableEq, Repr, Inhabited

/-- The operand code of `g0`, which names zero in a relation. -/
def g0 : Nat := 0x80

/-- A relation names a register. -/
def Rel.names (r : Rel) (n : Nat) : Bool :=
  match r with
  | .diff x y _ => x == n || y == n
  | .fin p _ x _ _ => p == n || x == n

/-- A block record (R412); `canon` is its bytes with START zero, and `bad` marks one that breaks a limit of its own fields. -/
structure BlockRec where
  start : Nat := 0
  bad : Bool := false
  typ : List (Nat × RegTy) := []
  rels : List Rel := []
  holds : BitVec 16 := 0
  canon : List Byte := [0, 0, 0, 0, 0, 0, 0, 0]
  deriving DecidableEq, Repr, Inhabited

/-- The type an annotation gives a register; `int` when it gives none. -/
def BlockRec.ty (b : BlockRec) (r : Nat) : RegTy := ((b.typ.find? (fun e => e.1 == r)).map (·.2)).getD .int

/-! ## Reading a blob (R412) -/

/-- The word at the head of a byte list, and the rest; RES-05 when the bytes run short. -/
def takeWord (bs : List Byte) : Adm (Word × List Byte) :=
  if bs.length < 8 then .error (resR 5 8) else .ok (wordOf (bs.take 8), bs.drop 8)

/-- A field of a word. -/
def wfield (w : Word) (lo n : Nat) : Nat := w.toNat / 2 ^ lo % 2 ^ n

/-- An operand code names a vector register or one of `g1` to `g63`. -/
def typable (r : Nat) : Bool := decide (r < 0x80) || (decide (0x80 < r) && decide (r < 0xC0))

/-- One typing entry; none when it breaks a limit. -/
def readTyping (h : Nat) : Option (Nat × RegTy) :=
  let reg := h / 256
  let t := h / 32 % 8
  let arg := h % 32
  let ty : Option RegTy :=
    if t = 2 then (if arg ≤ 16 then some (.ptr arg) else none)
    else if t = 5 then (if arg ≤ 15 then some (.lock arg) else none)
    else if arg ≠ 0 then none
    else [RegTy.int, .idx, .int, .sptr, .handle, .int, .code][t]?
  ty.bind (fun k => if typable reg && (decide (0x80 ≤ reg) || k == .int || k == .idx) then some (reg, k) else none)

/-- The typing entries packed in a byte list, `n` of them. -/
def readTypings : Nat → List Byte → Option (List (Nat × RegTy))
  | 0, _ => some []
  | n + 1, bs => do
    let e ← readTyping (natOf (bs.take 2))
    let r ← readTypings n (bs.drop 2)
    if r.all (fun x => x.1 != e.1) then some (e :: r) else none

/-- A register that may stand as x or y of a relation. -/
def relOperand (typ : List (Nat × RegTy)) (r : Nat) : Bool :=
  r == g0 || typ.any (fun e => e.1 == r && (e.2 == .int || e.2 == .idx))

/-- One relation entry: words a and b. -/
def readRel (typ : List (Nat × RegTy)) (a b : Word) : Option Rel :=
  let x := wfield a 54 8
  let y := wfield a 46 8
  let z := wfield a 41 5
  let ls := wfield a 38 3
  if wfield a 0 38 ≠ 0 ∨ !relOperand typ x then none
  else if wfield a 62 2 = 0 then
    if z = 0 ∧ ls = 0 ∧ relOperand typ y ∧ -(2 ^ 47 : Int) ≤ b.toInt ∧ b.toInt < 2 ^ 47 then some (.diff x y b.toInt)
    else none
  else if wfield a 62 2 = 1 then
    if z ≤ 16 ∧ b.toNat ≤ 16777215 ∧ typ.contains (y, .ptr z) then some (.fin y (2 ^ ls) x z b.toNat)
    else none
  else none

/-- `n` relation entries packed in a byte list. -/
def readRels (typ : List (Nat × RegTy)) : Nat → List Byte → Option (List Rel)
  | 0, _ => some []
  | n + 1, bs => do
    let r ← readRel typ (wordOf (bs.take 8)) (wordOf ((bs.drop 8).take 8))
    let rs ← readRels typ n (bs.drop 16)
    some (r :: rs)

/-- The fields of a block record after its first word, when they keep their limits. -/
def recordFields (w : Word) (rest : List Byte) : Option (List (Nat × RegTy) × List Rel) := do
  let nt := wfield w 56 8
  let typ ← readTypings nt rest
  let rels ← readRels typ (wfield w 48 8) (rest.drop ((2 * nt + 7) / 8 * 8))
  if nt ≤ 192 ∧ wfield w 48 8 ≤ 64 ∧ wfield w 10 22 = 0 then some (typ, rels) else none

/-- A block record at the head of a byte list, its START below `limit`, and the bytes after it. -/
def readBlock (limit : Nat) (bs : List Byte) : Adm (BlockRec × List Byte) := do
  let (w, rest) ← takeWord bs
  let n := (2 * wfield w 56 8 + 7) / 8 * 8 + 16 * wfield w 48 8
  must (decide (n ≤ rest.length)) (resR 5 8)
  let f := recordFields w rest
  .ok ({ start := wfield w 0 10, bad := f.isNone || decide (limit ≤ wfield w 0 10), typ := (f.map (·.1)).getD [],
         rels := (f.map (·.2)).getD [], holds := w.extractLsb' 32 16,
         canon := bytesOf 8 (w.toNat / 2 ^ 10 * 2 ^ 10) ++ rest.take n }, rest.drop n)

/-- `n` block records, whose START ascends below `limit`; `least` is the least START that the next may have. -/
def readBlocks (limit : Nat) : Nat → Nat → List Byte → Adm (List BlockRec × List Byte)
  | 0, _, bs => .ok ([], bs)
  | n + 1, least, bs => do
    let (b, bs) ← readBlock limit bs
    let (r, bs) ← readBlocks limit n (b.start + 1) bs
    .ok ({ b with bad := b.bad || decide (b.start < least) } :: r, bs)

/-- `n` import records: a text offset and the block record expected there. -/
def readImports (limit : Nat) : Nat → List Byte → Adm (List (Nat × BlockRec))
  | 0, _ => .ok []
  | n + 1, bs => do
    let (t, bs) ← takeWord bs
    let (b, bs) ← readBlock limit bs
    let r ← readImports limit n bs
    .ok ((t.toNat % 2 ^ 32, { b with bad := b.bad || decide (2 ^ 32 ≤ t.toNat) }) :: r)

/-- An annotation blob: its block records, whose START stays below `limit`, and its import records. A record that breaks a
limit of its own is marked, and the walk names it where it comes to it (R441). -/
def readBlob (limit : Nat) (bs : List Byte) : Adm (List BlockRec × List (Nat × BlockRec)) := do
  let (w, rest) ← takeWord bs
  let nb := wfield w 48 16
  let ni := wfield w 32 16
  must (decide (1 ≤ nb ∧ nb ≤ 512) && decide (ni ≤ 512)) (resR 5 8)
  must (wfield w 0 32 == 0) (typR 9 8)
  let (bl, rest) ← readBlocks limit nb 0 rest
  let im ← readImports limit ni rest
  .ok (bl, im)

/-- The length in bytes of the block record at the head of a byte list, from its NT and NR. -/
def recordLen (bs : List Byte) : Nat :=
  let w := wordOf (bs.take 8)
  8 + (2 * wfield w 56 8 + 7) / 8 * 8 + 16 * wfield w 48 8

/-- Every token that a record names is declared by LOCK fields (R410). -/
def BlockRec.tokensOk (b : BlockRec) (locks : List Byte) : Bool :=
  (List.range 16).all (fun k => (locks.getD k 0).getLsbD 7 || !(b.holds.getLsbD k || b.typ.any (fun t => t.2 == .lock k)))

/-- A record with its tokens held to LOCK fields. -/
def BlockRec.under (b : BlockRec) (locks : List Byte) : BlockRec := { b with bad := b.bad || !b.tokensOk locks }

/-- The gate record G (R404) under LOCK fields: the empty annotation when the object names none. -/
def readGate (locks bs : List Byte) : Adm BlockRec :=
  if bs.isEmpty then .ok {}
  else do
    let (b, _) ← readBlock 1024 bs
    must (!(b.under locks).bad) (typR 9 8)
    .ok b

/-! ## Kernel start (R413) -/

/-- The state at kernel start, every register zero, implies an annotation. -/
def BlockRec.startOk (b : BlockRec) : Bool :=
  b.typ.all (fun e => e.2 == .int || e.2 == .idx || e.2 == .sptr || e.2 == .handle) && b.holds == 0
    && b.rels.all (fun r => match r with
      | .diff _ _ c => decide (0 ≤ c)
      | .fin _ _ _ _ _ => false)

/-- The state at a handler's start, where no register is known, implies an annotation (spec/18 R454, R455). -/
def BlockRec.unknownOk (b : BlockRec) : Bool := b.typ.all (fun e => e.2 == .int) && b.rels.isEmpty && b.holds == 0

end Sys2Proof.Machine
end

