-- ==== Sys2Proof/WellFormed.lean ====
section
/-!
DEFINITION. A well-formed instruction word is one that breaks no encoding rule of spec/03 R90; the rules stand in
Machine/Checks.lean.
-/

namespace Sys2Proof

/-- The instruction is a word that obeys every encoding rule. -/
def Instr.wf (i : Instr) : Bool :=
  match i.check with
  | .ok _ => true
  | .error _ => false

/-- The rule a word breaks. -/
def Instr.broken (i : Instr) : Option Enc :=
  match i.check with
  | .ok _ => none
  | .error e => some e

end Sys2Proof
end

