-- ==== Sys2Proof/Decode.lean ====
section
/-!
DEFINITION. The decoder of instruction words, total on any words and any bytes (spec/03 R69 to R91), and the encoder.
Both use the tables of Machine/Forms.lean; a word that is not an instruction is rejected with the name of the rule it
breaks (spec/03 R90).
-/

namespace Sys2Proof

/-- Why bytes hold no instruction: too few bytes, or a rule of spec/03 R90. -/
inductive Reject where
  | short
  | broken (e : Enc)
  deriving DecidableEq, Repr

/-! ## Paired words (spec/03 R82 to R85, R93) -/

/-- The scalar integer operation at an offset (spec/05 R143). -/
def SOp.all : List SOp :=
  [.add, .sub, .mul, .mulh, .shl, .shr, .sar, .rol, .ror, .and, .or, .xor, .andn, .not, .min, .max, .abs, .neg,
   .div, .rem, .clz, .ctz, .popc, .brev, .cmp, .bfx, .bfi, .mov]

/-- The vector integer operations by offset (spec/05 R147). -/
def VIOp.all : List VIOp :=
  [.add, .sub, .mul, .cmp, .mulh, .mad, .shl, .shr, .sar, .and, .or, .xor, .andn, .not, .min, .max, .abs, .neg,
   .adds, .subs, .div, .rem, .clz, .popc, .brev, .sel, .bfx, .bfi, .mov, .sad]

/-- The vector float operations by offset (spec/05 R151). -/
def VFOp.all : List VFOp :=
  [.add, .sub, .mul, .fma, .cmp, .fms, .fnma, .fnms, .min, .max, .minn, .maxn, .minm, .maxm, .abs, .neg, .cpsgn,
   .div, .sel, .mov, .dot2, .clamp, .abd, .lerp]

/-- The special functions by offset (spec/05 R155). -/
def SFOp.all : List SFOp := [.rcp, .rsq, .sqrt, .exp2, .log2, .sin, .cos, .tanh, .sigm]

/-- The types a vector float or special-function half names in M4[3:2] (R85). -/
def halfFloatTy (c : BitVec 2) : Except Enc Ty :=
  if c = 0 then .ok .f32 else if c = 1 then .ok .f16x2 else if c = 2 then .ok .bf16x2 else .error .enc07

/-- The rounding modes a half names in M4[1:0] (R85). -/
def halfRM (c : BitVec 2) : RM :=
  if c = 0 then .rne else if c = 1 then .rtz else if c = 2 then .rdn else .rup

/-- The M4 code of a float type (R85). -/
def Ty.half : Ty → BitVec 2
  | .f16x2 => 1
  | .bf16x2 => 2
  | _ => 0

/-- The M4 code of a rounding mode (R85). -/
def RM.half : RM → BitVec 2
  | .rtz => 1
  | .rdn => 2
  | .rup => 3
  | _ => 0

/-- The integer type of a scalar integer half (R85). -/
def halfIntTy (c : BitVec 2) : Ty :=
  if c = 0 then .i32 else if c = 1 then .n32 else if c = 2 then .i64 else .n64

/-- What a pair opcode and M4 name (R85, R93). -/
def HalfOp.parse (po : BitVec 7) (m4 : BitVec 4) : Except Enc HalfOp :=
  let k := po.toNat
  let hi := m4.extractLsb' 2 2
  let lo := m4.extractLsb' 0 2
  if k = 0 then (if m4 = 0 then .ok .nop else .error .enc02)
  else if k ≤ 0x1C then
    match SOp.all[k - 1]? with
    | some o => if lo = 0 then .ok (.si o (halfIntTy hi)) else .error .enc02
    | none => .error .enc01
  else if k < 0x20 then .error .enc01
  else if k ≤ 0x3D then
    match VIOp.all[k - 0x20]? with
    | some o => if m4.extractLsb' 0 3 = 0 then .ok (.vi o (if m4.getLsbD 3 then .n32 else .i32)) else .error .enc02
    | none => .error .enc01
  else if k < 0x40 then .error .enc01
  else if k ≤ 0x57 then
    match VFOp.all[k - 0x40]? with
    | some o => (halfFloatTy hi).map (fun t => .vf o t (halfRM lo))
    | none => .error .enc01
  else if k < 0x60 then .error .enc01
  else if k ≤ 0x68 then
    match SFOp.all[k - 0x60]? with
    | some o => (halfFloatTy hi).map (fun t => .sf o t (halfRM lo))
    | none => .error .enc01
  else if k = 0x69 then .ok (.cvt m4)
  else if k = 0x6C then (halfFloatTy hi).map (fun t => .scaleb t (halfRM lo))
  else if k = 0x71 then .ok (.shfl (m4.getLsbD 3) (m4.extractLsb' 0 3))
  else if k = 0x73 then (if hi = 0 then .ok (.vote lo) else .error .enc02)
  else .error .enc01

/-- The pair opcode of a half (R93). -/
def HalfOp.po : HalfOp → BitVec 7
  | .nop => 0
  | .si o _ => BitVec.ofNat 7 (1 + o.ctorIdx)
  | .vi o _ => BitVec.ofNat 7 (0x20 + o.ctorIdx)
  | .vf o _ _ => BitVec.ofNat 7 (0x40 + o.ctorIdx)
  | .sf o _ _ => BitVec.ofNat 7 (0x60 + o.ctorIdx)
  | .cvt _ => 0x69
  | .scaleb _ _ => 0x6C
  | .shfl _ _ => 0x71
  | .vote _ => 0x73

/-- The M4 field of a half (R85). -/
def HalfOp.m4 : HalfOp → BitVec 4
  | .nop => 0
  | .si _ t => t.code.extractLsb' 0 2 ++ 0#2
  | .vi _ t => (if t = .n32 then 1#1 else 0#1) ++ 0#3
  | .vf _ t r | .sf _ t r | .scaleb t r => t.half ++ r.half
  | .cvt m => m
  | .shfl d lg => bit1 d ++ lg
  | .vote m => 0#2 ++ m

/-- The destination classes of a half. -/
def HalfOp.dstClasses (o : HalfOp) : List Cls :=
  match o, formOf o.opc with
  | .nop, _ => []
  | _, some f => halfClasses f.d
  | _, none => []

/-- The source classes a half's SRC field accepts, none for a NOP half. -/
def HalfOp.srcField (o : HalfOp) : List Cls :=
  match o with
  | .nop => []
  | o => o.srcClasses

/-- One half (R82). -/
def Half.parse (b : BitVec 27) : Except Enc Half := do
  let o ← HalfOp.parse (b.extractLsb' 20 7) (b.extractLsb' 0 4)
  need o.pairs .enc01
  let d ← Opnd.parse o.dstClasses (b.extractLsb' 12 8)
  let s ← Opnd.parse o.srcField (b.extractLsb' 4 8)
  .ok { op := o, d := d, s := s }

/-- The bits of a half (R82). -/
def Half.bits (h : Half) : BitVec 27 := h.op.po ++ h.d.code ++ h.s.code ++ h.op.m4

/-! ## Words -/

/-- The frame of a word (R69). -/
def Hdr.parse (w : Word) : Hdr := { stall := w.extractLsb' 59 3, neg := w.getLsbD 58, pred := w.extractLsb' 54 4 }

/-- A full word, or a wide word with its extension word (R72, R79). -/
def decodeFull (w : Word) (x : Option Word) : Except Enc Instr :=
  let opc := (w.extractLsb' 44 10).toNat
  let mod := w.extractLsb' 0 20
  match formAt opc mod with
  | none => .error .enc01
  | some f => do
    let d ← Opnd.parse f.d (w.extractLsb' 36 8)
    let a ← Opnd.parse f.a (w.extractLsb' 28 8)
    let b ← Opnd.parse f.b (w.extractLsb' 20 8)
    build opc { h := Hdr.parse w, d := d, a := a, b := b, x := x } mod

/-- A paired word (R82). -/
def decodePair (w : Word) : Except Enc Instr := do
  let hi ← Half.parse (w.extractLsb' 27 27)
  let lo ← Half.parse (w.extractLsb' 0 27)
  .ok (.pairedWord (Hdr.parse w) hi lo)

/-- The fields of a word, by its FORM (R70). -/
def decodeFields (w x : Word) : Except Enc Instr :=
  let form := w.extractLsb' 62 2
  if form = 0 then decodeFull w none
  else if form = 1 then decodePair w
  else if form = 2 then decodeFull w (some x)
  else .error .enc01

/-- The instruction in the word `w`, where `x` is the word after it; otherwise the rule it breaks (R90, R91). -/
def decode (w x : Word) : Except Enc Instr :=
  match decodeFields w x with
  | .error e => .error e
  | .ok i => match i.check with
    | .ok _ => .ok i
    | .error e => .error e

/-- A word is wide by its FORM alone (R70). -/
def isWideWord (w : Word) : Bool := w.extractLsb' 62 2 == 2

/-- The length of an instruction in bytes (R70). -/
def Instr.size (i : Instr) : Nat :=
  match i.view with
  | some v => if v.ops.x.isSome then 16 else 8
  | none => 8

/-! ## Bytes -/

/-- A little-endian number. -/
def leNat : List Byte → Nat
  | [] => 0
  | b :: bs => b.toNat + 256 * leNat bs

/-- The `n` low bytes of a number, lowest first. -/
def leBytes : Nat → Nat → List Byte
  | 0, _ => []
  | n + 1, k => BitVec.ofNat 8 k :: leBytes n (k / 256)

/-- The instruction at the head of a byte list, stored little-endian (R69), and the bytes after it. -/
def decodeBytes (bs : List Byte) : Except Reject (Instr × List Byte) :=
  if bs.length < 8 then .error .short
  else
    let w : Word := BitVec.ofNat 64 (leNat (bs.take 8))
    if isWideWord w && decide (bs.length < 16) then .error .short
    else match decode w (BitVec.ofNat 64 (leNat ((bs.drop 8).take 8))) with
      | .ok i => .ok (i, bs.drop (if isWideWord w then 16 else 8))
      | .error e => .error (.broken e)

/-! ## The encoder -/

/-- The frame, opcode, operand and MOD bits of a full or wide word (R69, R72). -/
def WordView.word (v : WordView) : Word :=
  (if v.ops.x.isSome then 2#2 else 0#2) ++ v.ops.h.stall ++ bit1 v.ops.h.neg ++ v.ops.h.pred ++ BitVec.ofNat 10 v.opc
    ++ v.ops.d.code ++ v.ops.a.code ++ v.ops.b.code ++ v.mod

/-- The words of an instruction; an event of the table has none. -/
def encode (i : Instr) : List Word :=
  match i with
  | .pairedWord h hi lo => [1#2 ++ h.stall ++ bit1 h.neg ++ h.pred ++ hi.bits ++ lo.bits]
  | .illegalWord w => [w]
  | i => match i.view with
    | some v => match v.ops.x with
      | some x => [v.word, x]
      | none => [v.word]
    | none => []

/-- The bytes of an instruction as they stand in memory (R69). -/
def encodeBytes (i : Instr) : List Byte := (encode i).flatMap (fun w => leBytes 8 w.toNat)

/-- The instruction the decoder reads from the bits `w` of a table row: 64-bit words, the first lowest, each stored
little-endian; every bit above the row's bits is 0. -/
def decodeTableWord (nbits w : Nat) : Option Instr :=
  match decodeBytes (leBytes 16 (w % 2 ^ nbits)) with
  | .ok (i, _) => some i
  | .error _ => none

end Sys2Proof
end

