-- ==== Sys2Proof/Machine/Firmware.lean ====
section
/-!
DEFINITION. The default handler of firmware (spec/18 R456), as the words of a handler object. The spec gives its
behaviour and its bound of 24 words; the words themselves are the model's (log entry 7).
-/

namespace Sys2Proof.Machine

/-- A frame with no stall count and predicate `p0`. -/
def plainHdr : Hdr := { stall := 0, neg := false, pred := 0 }

/-- Operands of a full word. -/
def plainOps (d a b : Opnd) : Ops := { h := plainHdr, d := d, a := a, b := b, x := none }

/-- A modifier of a scalar form. -/
def plainMod (t : Ty) (imm : Nat) : AluMod := { rm := .rne, ty := t, imm := BitVec.ofNat 14 imm }

/-- A `BRC` a number of words ahead. -/
def brcWord (cc : Nat) (g : BitVec 6) (off : Nat) : Instr :=
  .brc (plainOps .none (.g g) .none) (plainMod .i32 (cc * 2 ^ 11 + off))

/-- The handler's words in order. -/
def defaultHandler : List Instr :=
  [ .fltrd (plainOps (.g 1) .none .none) { n := 0 },
    .shr (plainOps (.g 1) (.g 1) .short) (plainMod .n64 56),
    .fltrd (plainOps (.g 2) .none .none) { n := 5 },
    .bfx (plainOps (.g 2) (.g 2) .none) (plainMod .n64 (48 * 2 ^ 8 + 8)),
    .sub (plainOps (.g 3) (.g 1) .short) (plainMod .i64 0x10),
    brcWord 1 3 9,
    .sub (plainOps (.g 3) (.g 2) (.const 1)) (plainMod .i64 0),
    brcWord 1 3 11,
    .fltrd (plainOps (.g 3) .none .none) { n := 4 },
    .mapf (plainOps (.g 2) (.g 3) .none) { n := 0 },
    .bfx (plainOps (.g 2) (.g 2) .none) (plainMod .n64 8),
    .shr (plainOps (.g 2) (.g 2) (.const 1)) (plainMod .n64 0),
    brcWord 1 2 6,
    .hret (plainOps .none .none .none) { n := 0 },
    .sub (plainOps (.g 3) (.g 1) (.const 2)) (plainMod .i64 0),
    brcWord 0 3 4,
    .sub (plainOps (.g 3) (.g 1) .short) (plainMod .i64 0x0C),
    brcWord 0 3 2,
    .hfail (plainOps .none .none .none) { n := 0 },
    .hret (plainOps .none .none .none) { n := 0 } ]

/-- The words of the default handler as they stand in its chunk. -/
def defaultHandlerWords : List Word := defaultHandler.flatMap encode

end Sys2Proof.Machine
end

