-- ==== Sys2Proof/Machine/Issue.lean ====
section
/-!
DEFINITION. Fetch and issue: the words at a path's address (spec/15 R406, R407), when a slug is ready (spec/01 R29), which
word a port takes (R30, R32), the pipes (R18), and the compiled distances of the scoreboard (spec/03 R86 to R88).
-/

namespace Sys2Proof.Machine

/-! ## Fetch -/

/-- What stands at a code address: the word, the word after it, whether it begins an instruction (spec/03 R80), whether it
is the last of its chunk. -/
structure Fetched where
  w : Word := 0
  x : Word := 0
  marked : Bool := false
  last : Bool := false
  deriving DecidableEq, Repr, Inhabited

/-- A word list read at an index as code whose every word begins an instruction. -/
def fetchList (ws : List Word) (i : Nat) : Fetched :=
  { w := ws.getD i 0, x := ws.getD (i + 1) 0, marked := decide (i < ws.length), last := i % 512 == 511 }

/-- The code at an address of a partition's object table (spec/15 R406, R407). -/
def Partition.fetch (p : Partition) (pc : Addr) : Fetched :=
  let o := p.objs.look (pc.toNat / 2 ^ 32)
  let i := pc.toNat % 2 ^ 32 / 8
  match o.chunks[i / 512]? with
  | none => {}
  | some id =>
    let c := p.chunks.look id
    { w := c.words.getD (i % 512) 0, x := c.words.getD (i % 512 + 1) 0,
      marked := o.used && c.isSealed && c.s.getLsbD (i % 512), last := i % 512 == 511 }

/-- The code at a path's address: firmware's default handler while it serves (spec/18 R456), else the partition's. -/
def State.fetch (s : State) (f : Forme) (m : Slug) (pc : Addr) : Fetched :=
  if pc.toNat % 8 ≠ 0 then {}
  else match m.hnd with
    | some h => if h.firmware then fetchList defaultHandlerWords (pc.toNat / 8)
                else (s.part (s.launch f.launch).part).fetch pc
    | none => (s.part (s.launch f.launch).part).fetch pc

/-- The instruction a fetched word is in a slug: whatever is not an instruction there is an illegal word (spec/03 R91,
spec/02 R53, spec/06 R186, spec/18 R457). A guy line or a level that the launch does not declare is no fault of the word
(rule 3 outside the matrix forms): its own meaning says what then happens. -/
def instrAt (x : Fetched) (l : Launch) (alloc : Nat) (hnd : Bool) : Instr :=
  if !x.marked then .illegalWord x.w
  else match decode x.w x.x with
    | .error _ => .illegalWord x.w
    | .ok i =>
      let res := match i.resRule l alloc with
        | some 3 => (match i with | .mmap _ _ | .mmasp _ _ => true | _ => false)
        | some _ => true
        | none => false
      if (x.last && isWideWord x.w) || res || !i.whereOk hnd then .illegalWord x.w else i

/-- The next instruction of a path. -/
def State.instrOf (s : State) (f : Forme) (m : Slug) (pc : Addr) : Instr :=
  instrAt (s.fetch f m pc) (s.launch f.launch) m.alloc m.hnd.isSome

end Sys2Proof.Machine

namespace Sys2Proof

/-! ## Words -/

/-- The frame of an instruction. -/
def Instr.hdr (i : Instr) : Hdr :=
  match i with
  | .pairedWord h _ _ => h
  | i => match i.view with
    | some v => v.ops.h
    | none => default

/-- The cycles a word occupies its port (R30). -/
def Instr.occ (i : Instr) : Nat := i.size / 8

/-- The pipes two ports share (R18, spec/05 R173). -/
inductive Pipe where
  | fma0 | fma1 | sfu | xsum
  deriving DecidableEq, Repr, Inhabited

/-- The block of opcodes an opcode lies in (spec/03 R92). -/
def block (opc : Nat) : Nat := opc / 32

/-- The home FMA pipe of a port. -/
def homeFma (port : Nat) : Pipe := if port = 0 then .fma0 else .fma1

/-- The pipes a word uses at a port, each with the cycles for which it then accepts nothing more (R14, R18, R173). -/
def Instr.pipes (i : Instr) (port : Nat) : List (Pipe × Nat) :=
  match i with
  | .pairedWord _ hi lo =>
    let vf (h : Half) : Bool := block h.op.opc == 4
    let sf (h : Half) : Bool := block h.op.opc == 5
    (if vf hi && vf lo then [(.fma0, 1), (.fma1, 1)] else if vf hi || vf lo then [(homeFma port, 1)] else [])
      ++ (if sf hi || sf lo then [(.sfu, 4)] else [])
  | .xadd _ m | .xsub _ m | .xdot _ m => [(.xsum, if m.ty == .f32 then 2 else 4)]
  | i => match i.view with
    | none => []
    | some v =>
      if block v.opc = 4 then [(homeFma port, 1)]
      else if block v.opc = 5 then [(.sfu, 4)]
      else if block v.opc = 8 then [(.xsum, 2)]
      else []

end Sys2Proof

namespace Sys2Proof.Machine

/-- The cycle from which a pipe accepts a word. -/
def Core.pipeFree (c : Core) (p : Pipe) : Nat :=
  match p with
  | .fma0 => c.fma0Free
  | .fma1 => c.fma1Free
  | .sfu => c.sfuFree
  | .xsum => c.xsumFree

/-- A pipe takes a word in a cycle. -/
def Core.usePipe (c : Core) (now : Nat) (p : Pipe × Nat) : Core :=
  match p.1 with
  | .fma0 => { c with fma0Free := now + p.2 }
  | .fma1 => { c with fma1Free := now + p.2 }
  | .sfu => { c with sfuFree := now + p.2 }
  | .xsum => { c with xsumFree := now + p.2 }

/-! ## The scoreboard (R87, R88) -/

/-- The pending result that a word reads too early by its compiled distance (R87). -/
def shortOf (pend : List Pend) (i : Instr) : Option Pend :=
  pend.find? (fun p => decide (p.dist < p.lat) && i.readRegs.contains p.reg)

/-- STRICT as it governs a slug: never in the handler (spec/18 R454). -/
def Slug.strictNow (m : Slug) : Bool := m.strict && !m.hnd.isSome

/-- A register of the word still has a result on its way (R29, R88). -/
def Slug.waits (m : Slug) (i : Instr) (now : Nat) : Bool :=
  let rs := i.readRegs ++ i.writeRegs.map (·.1)
  m.busy.any (fun e => decide (now < e.2) && rs.contains e.1) || m.pendingG.any (fun r => rs.contains r)

/-- The distances after a word that takes `cost` cycles of its path has issued (R87). -/
def pendAfter (pend : List Pend) (i : Instr) (cost : Nat) (pc : Addr) : List Pend :=
  ((pend.map (fun p => { p with dist := p.dist + cost })).filter (fun p => decide (p.dist < p.lat))) ++
    (i.writeRegs.filter (fun r => decide (cost < r.2))).map (fun r => { reg := r.1, lat := r.2, dist := cost, pc := pc })

/-! ## Readiness and choice -/

/-- A slug of a forme may issue at all: resident, running, awake, not gathered, its launch active (R29, R41, spec/18
R468); a matrix owner whose engine has stopped traps before its next word (spec/06 R202). -/
def State.slugRuns (s : State) (fk sl : Nat) : Bool :=
  let f := s.forme fk
  let m := f.slugs.look sl
  m.live && !m.ended && !m.failed && m.wake.isNone && m.gathering.isNone
    && (f.place == .running || f.place == .draining) && (s.launch f.launch).st == .active && s.awake
    && !(m.owner && m.hnd.isNone && (s.stoppedOf fk sl).isSome)

/-- The path of a slot may issue in this cycle as far as the slot alone shows. -/
def Slug.slotRuns (m : Slug) (b : Bool) (now : Nat) : Bool :=
  let x := m.slot b
  decide (x.readyAt ≤ now) && x.yielding.isNone && (match x.path with | some p => !p.pk | none => false)
    && (match m.hnd with | some h => h.slotB == b | none => true)

/-- A ready path: forme, slug, slot, instruction, and the pending result it would read too early under STRICT. -/
structure Offer where
  fk : Nat
  sl : Nat
  b : Bool
  i : Instr
  short : Option Pend
  deriving DecidableEq, Repr

/-- What the path in a slot offers to its port (R29), without regard to the other port. -/
def State.slotOffer (s : State) (fk sl : Nat) (b : Bool) : Option Offer :=
  let f := s.forme fk
  let m := f.slugs.look sl
  if !m.slotRuns b s.cyc || s.owes fk sl b then none
  else match (m.slot b).path with
    | none => none
    | some p =>
      let i := s.instrOf f m p.pc
      let o : Offer := { fk := fk, sl := sl, b := b, i := i, short := none }
      match (if m.strictNow then shortOf (m.slot b).pend i else none) with
      | some q => some { o with short := some q }
      | none =>
        if m.waits i s.cyc then none
        else if (i.pipes (m.h % 2)).any (fun p => decide (s.cyc < (s.core f.core).pipeFree p.1)) then none
        else some o

/-- What a slug offers: when both slots are ready, the one that issued less recently (R32). -/
def State.slugOffer (s : State) (fk sl : Nat) : Option Offer :=
  let m := s.slug fk sl
  if !s.slugRuns fk sl then none
  else match s.slotOffer fk sl false, s.slotOffer fk sl true with
    | some x, some y => if m.b.lastIssue < m.a.lastIssue then some y else some x
    | some x, none => some x
    | none, y => y

/-- A port of a core. -/
def Core.port (c : Core) (p : Nat) : Port := if p = 0 then c.port0 else c.port1

/-- Change a port of a core. -/
def Core.modPort (c : Core) (p : Nat) (f : Port → Port) : Core :=
  if p = 0 then { c with port0 := f c.port0 } else { c with port1 := f c.port1 }

/-- What the slots of a port offer, nearest the head of its age list first (R30). -/
def State.portOffers (s : State) (core port : Nat) : List Offer :=
  let c := s.core core
  if s.cyc < (c.port port).freeAt then []
  else (c.port port).age.filterMap (fun h =>
    match c.slots.look h with
    | some (fk, sl) => s.slugOffer fk sl
    | none => none)

/-- Two lists of pipes have one in common. -/
def sharesPipe (a b : List (Pipe × Nat)) : Bool := a.any (fun p => b.any (fun q => q.1 == p.1))

/-- The word a port issues in this cycle: its first offer, but where the other port offers a word for the same pipe and
the parity of the cycle favours it (R18). -/
def State.portPick (s : State) (core port : Nat) : Option Offer :=
  let rival : List (Pipe × Nat) :=
    if s.cyc % 2 = port % 2 then []
    else match s.portOffers core (1 - port) with
      | o :: _ => if o.short.isSome then [] else o.i.pipes (1 - port)
      | [] => []
  (s.portOffers core port).find? (fun o => o.short.isSome || !sharesPipe (o.i.pipes port) rival)

/-! ## Before and after the word -/

/-- The state with an offered word at the point of issue: the issuer is set, and an open transaction notes the vector
registers the word writes (spec/11 R350). -/
def State.beginWord (s : State) (o : Offer) : State :=
  let m := s.slug o.fk o.sl
  let x := m.slot o.b
  let pc := (x.path.map (·.pc)).getD 0
  let cost := o.i.occ + o.i.hdr.stall.toNat
  let vs := (o.i.writeRegs.filter (fun r => decide (r.1.toNat < 128))).map (fun r => r.1.toNat)
  let note (t : Tx) : Tx := match t.levels with
    | l :: r => { t with levels := { l with vw := (l.vw ++ vs).dedup } :: r }
    | [] => t
  let s := if m.tx.isSome && !vs.isEmpty then s.modSlug o.fk o.sl (fun m => { m with tx := m.tx.map note }) else s
  { s with cur := some { fk := o.fk, sl := o.sl, b := o.b, occ := o.i.occ, stall := o.i.hdr.stall.toNat,
                         pend := pendAfter x.pend o.i cost pc } }

/-- A word with a short stall count under STRICT traps before it issues (R87). -/
def State.shortTrap (s : State) (o : Offer) (p : Pend) : State :=
  let x := (s.slug o.fk o.sl).slot o.b
  let mask := (x.path.map (·.mask)).getD 0
  s.takeTrap o.fk o.sl o.b
    { flt := { code := 0x02, d0 := p.lat * 256 + p.dist, d1 := p.pc.zeroExtend 64 }, mask := mask, size := 8 * o.i.occ }

/-- After the word: a word that issued (its issuer still stands) occupies its port and pipes and sends its slug to the
tail of the age list (R30); its fixed-latency results are on their way (R17). -/
def State.endWord (s : State) (o : Offer) : State :=
  match s.cur with
  | none => s
  | some c =>
    let m := s.slug c.fk c.sl
    let core := (s.forme c.fk).core
    let port := m.h % 2
    let land := (o.i.writeRegs.filter (fun r => decide (0 < r.2))).map (fun r => (r.1, s.cyc + r.2))
    let s := if land.isEmpty && m.busy.isEmpty then s
      else s.modSlug c.fk c.sl (fun m => { m with busy := m.busy.filter (fun e => decide (s.cyc < e.2)) ++ land })
    let s := s.modCore core (fun k => ((o.i.pipes port).foldl (fun k p => k.usePipe s.cyc p) k).modPort port (fun q =>
      { age := if q.age.contains m.h then q.age.erase m.h ++ [m.h] else q.age, freeAt := s.cyc + c.occ }))
    { s with cur := none }

end Sys2Proof.Machine
end

