-- ==== Sys2Proof/Machine/Walk.lean ====
section
/-!
DEFINITION. The walk's state and what a word gives its destination (spec/15 R414 to R417): types, alignments, facts, held
tokens, pinned registers, and the launch facts the walk uses (R408).
-/

namespace Sys2Proof

/-- The operand code of a register operand other than `g0`. -/
def Opnd.code? (o : Opnd) : Option Nat :=
  match o with
  | .v n => some n.toNat
  | .g n => if n = 0 then Option.none else some (0x80 + n.toNat)
  | _ => Option.none

/-- The constant a source supplies: `g0` and every constant form; the extension word of a vector form is a lane. -/
def Opnd.fixed (o : Opnd) (w : Ops) (imm : BitVec 14) (vec : Bool) : Option Int :=
  match o with
  | .g n => if n = 0 then some 0 else Option.none
  | .const n => some n.toInt
  | .short => some imm.toInt
  | .ext => w.x.map (fun x => if vec then ((x.extractLsb' 0 32).toNat : Int) else x.toInt)
  | _ => Option.none

end Sys2Proof

namespace Sys2Proof.Machine

/-! ## The walk's surroundings -/

/-- What the walk of a chunk may look at: the launch, the object's ZONES and LOCK fields, whether it is a handler object, G,
the chunk's number, words, block records and import records, and the length of the text. -/
structure WalkEnv where
  l : Launch := {}
  zones : Word := 0
  locks : List Byte := []
  handler : Bool := false
  gate : BlockRec := {}
  chunk : Nat := 0
  words : List Word := []
  textLen : Nat := 4096
  blocks : List BlockRec := []
  imports : List (Nat × BlockRec) := []
  deriving DecidableEq, Repr, Inhabited

/-- The token that guards a zone, from LOCK fields (R404). -/
def guardOf (locks : List Byte) (z : Nat) : Option Nat :=
  (List.range 16).find? (fun k => (locks.getD k 0).getLsbD 7 && (locks.getD k 0).toNat % 16 == z)

/-- The zone that a token guards. -/
def WalkEnv.locked (e : WalkEnv) (k : Nat) : Nat := (e.locks.getD k 0).toNat % 16

/-- The object declares a zone. -/
def WalkEnv.declares (e : WalkEnv) (z : Nat) : Bool := e.zones.getLsbD (4 * z + 3)

/-- The extent of a level; a handler serves launches of any extent. -/
def WalkEnv.extent (e : WalkEnv) (n : Nat) : Nat := if e.handler then 2 ^ 32 else e.l.ext n

/-- Log2 of the largest power of two up to 4,096 that divides a number (R414). -/
def alignOf (k : Nat) : Nat :=
  if k = 0 then 12 else ((List.range 13).filter (fun j => k % 2 ^ j == 0)).foldl Nat.max 0

/-- The length of a zone as a launch fact (R408). -/
def Launch.zcap (l : Launch) (z : Nat) : Nat := Nat.min (l.zlen z) 16777215

/-- The rights of a zone: `r` 1, `w` 2, `a` 4 (spec/10 R319). -/
def Launch.rights (l : Launch) (z : Nat) : Nat := (l.zone1 z).toNat / 2 ^ 48 % 8

/-- The world a zone's memory belongs to is the launch's. -/
def Launch.ownZone (l : Launch) (z : Nat) : Bool := (l.zone1 z).toNat / 2 ^ 52 == l.world

/-! ## Launch facts (R408) -/

/-- A launch fact: kind, index, value. -/
abbrev Fact := Nat × Nat × Nat

/-- Bits of the levels a launch declares, or gangs. -/
def Launch.levels (l : Launch) (gang : Bool) : Nat :=
  ((List.range 8).filter (fun n => l.decl n && (!gang || l.gang n))).foldl (fun a n => a + 2 ^ n) 0

/-- A launch meets a fact: kinds 0 rights of a zone, 1 its length, 2 its alignment, 3 its
world, 4 an extent, 5 the launch's shape, 6 PSZ. -/
def WalkEnv.meets (e : WalkEnv) (f : Fact) : Bool :=
  let l := e.l
  let k := f.1
  let n := f.2.1
  let v := f.2.2
  if k = 0 then l.zoneV n && l.rights n &&& v == v
  else if k = 1 then decide (v ≤ l.zcap n)
  else if k = 2 then decide (v ≤ alignOf (l.zbase n))
  else if k = 3 then (if l.ownZone n then 1 else 0) == v
  else if k = 4 then decide (e.extent n ≤ v)
  else if k = 5 then ([l.pw, l.ph, l.alloc, l.spad, l.accNeed, l.levels false, l.levels true].getD n 0) == v
  else decide (v ≤ l.psz)

/-- The facts every walk uses. -/
def WalkEnv.shape (e : WalkEnv) : List Fact :=
  let l := e.l
  [(5, 0, l.pw), (5, 1, l.ph), (5, 2, l.alloc), (5, 3, l.spad), (5, 4, l.accNeed), (5, 5, l.levels false),
   (5, 6, l.levels true)]

/-! ## The walk's state (R414) -/

/-- Types, alignments, marks, facts and held tokens, and what the walk has gathered: launch facts and pinned registers.
`dead` marks the exact accumulators that hold no value (spec/01 R43). -/
structure Walk where
  ty : Sparse RegTy := []
  al : Sparse Nat := []
  priv : List Nat := []
  derived : List Nat := []
  rels : List Rel := []
  held : BitVec 16 := 0
  dead : BitVec 4 := 0
  facts : List Fact := []
  pins : BitVec 64 := 0
  deriving DecidableEq, Repr, Inhabited

/-- A launch fact is used. -/
def Walk.use (k : Walk) (f : Fact) : Walk := if k.facts.contains f then k else { k with facts := k.facts ++ [f] }

/-- The type of a register; `g0` is an `idx`. -/
def Walk.tyOf (k : Walk) (r : Nat) : RegTy := if r = g0 then .idx else k.ty.look r

/-- The largest value of an `idx` register, or of a lane (R411). -/
def idxLimit (r : Nat) : Int := if r < 0x80 then 2 ^ 32 - 1 else 2 ^ 47 - 1

/-- The least upper bound of an `idx` register (R415). -/
def Walk.ub (k : Walk) (r : Nat) : Int :=
  if r = g0 then 0
  else k.rels.foldl (fun (a : Int) f => match f with
    | .diff x y c => if x = r ∧ y = g0 ∧ c < a then c else a
    | .fin _ _ _ _ _ => a) (idxLimit r)

/-- The greatest lower bound of an `idx` register (R415). -/
def Walk.lb (k : Walk) (r : Nat) : Int :=
  k.rels.foldl (fun (a : Int) f => match f with
    | .diff x y c => if x = g0 ∧ y = r ∧ a < -c then -c else a
    | .fin _ _ _ _ _ => a) 0

/-- The alignment of a register. -/
def Walk.alignReg (k : Walk) (r : Nat) : Nat := if r = g0 then 12 else k.al.look r

/-- A fact is recorded, but not a 129th (R414). -/
def Walk.addRel (k : Walk) (f : Rel) : Walk :=
  if k.rels.contains f || decide (128 ≤ k.rels.length) then k else { k with rels := k.rels ++ [f] }

/-- Nothing is known of a register any more. -/
def Walk.forget (k : Walk) (r : Nat) : Walk :=
  { k with ty := k.ty.put r .int, al := k.al.put r 0, priv := k.priv.filter (· != r), derived := k.derived.filter (· != r),
           rels := k.rels.filter (fun f => !f.names r) }

/-- The `g` registers that a state makes pinned (R417). -/
def Walk.pinned (k : Walk) : BitVec 64 :=
  let named : List Nat := k.rels.flatMap (fun f => match f with
    | .diff x y _ => [x, y]
    | .fin p _ x _ _ => [p, x])
  ((k.ty.map (·.1)) ++ k.priv ++ named).foldl (fun m r =>
    if 0x80 < r ∧ r < 0xC0 then m ||| (1#64 <<< (r - 0x80)) else m) 0

/-- The state's pinned registers join those of the walk. -/
def Walk.pin (k : Walk) : Walk := { k with pins := k.pins ||| k.pinned }

/-- The state at a block's start (R414): its annotation. An `idx` or `ptr` register is taken as aligned to 8, a lock register as
the base of its zone (DEDUCED; log entry 31). -/
def WalkEnv.begin (e : WalkEnv) (b : BlockRec) (k : Walk) : Walk :=
  let k : Walk := { facts := k.facts, pins := k.pins, held := b.holds, rels := b.rels.take 128 }
  b.typ.foldl (fun k t =>
    let k := { k with ty := k.ty.put t.1 t.2 }
    if t.1 < 0x80 then k
    else match t.2 with
      | .idx | .ptr _ => { k with al := k.al.put t.1 3 }
      | .lock n =>
        let z := e.locked n
        (({ k with al := k.al.put t.1 (alignOf (e.l.zbase z)) }.addRel (.fin t.1 1 g0 z (e.l.zcap z))).use
          (1, z, e.l.zcap z)).use (2, z, alignOf (e.l.zbase z))
      | _ => k) k

/-! ## What a word gives its destination (R415) -/

/-- What a destination receives: type, alignment, facts, the private-base mark. -/
structure Given where
  ty : RegTy
  al : Nat := 0
  rels : List Rel := []
  priv : Bool := false
  deriving DecidableEq, Repr, Inhabited

/-- The operations of R415's table. -/
inductive ArOp where
  | mov | add | sub | and | min | shl | shr | mul
  deriving DecidableEq, Repr, Inhabited

/-- An arithmetic word or half as R415 reads it. -/
structure Arith where
  op : ArOp
  vec : Bool
  ty : Ty
  d : Opnd
  a : Opnd
  b : Opnd
  w : Ops
  imm : BitVec 14
  deriving DecidableEq, Repr, Inhabited

/-- A 32-bit scalar form. -/
def Arith.narrow (q : Arith) : Bool := !q.vec && (q.ty == .i32 || q.ty == .n32)

/-- The largest value an `idx` result of a word may have (R411, R415). -/
def Arith.limit (q : Arith) : Int := if q.vec then 2 ^ 32 - 1 else if q.narrow then 2 ^ 31 - 1 else 2 ^ 47 - 1

/-- The constant a source of an arithmetic word supplies. -/
def Arith.fixed (q : Arith) (o : Opnd) : Option Int := o.fixed q.w q.imm q.vec

/-- The alignment of a source. -/
def Walk.alignSrc (k : Walk) (q : Arith) (o : Opnd) : Nat :=
  match q.fixed o, o.code? with
  | some c, _ => alignOf c.natAbs
  | none, some r => k.alignReg r
  | none, none => 0

/-- The bounds of a source that is an `idx` or a constant from 0 on. A scalar register that a 32-bit form or a lane reads counts
only below 2^32. -/
def Walk.bounds (k : Walk) (q : Arith) (o : Opnd) : Option (Int × Int) :=
  match q.fixed o, o.code? with
  | some c, _ => if 0 ≤ c then some (c, c) else none
  | none, some r =>
    if k.tyOf r ≠ .idx then none
    else if 0x80 ≤ r ∧ (q.vec ∨ q.narrow) ∧ 2 ^ 32 ≤ k.ub r then none
    else some (k.lb r, k.ub r)
  | none, none => none

/-- An `idx` with bounds, when they are within the limit. -/
def idxOf (q : Arith) (d : Nat) (al : Nat) (lo hi : Int) : Option Given :=
  if 0 ≤ lo ∧ hi ≤ q.limit then
    some { ty := .idx, al := al, rels := .diff d g0 hi :: (if 0 < lo then [.diff g0 d (-lo)] else []) }
  else none

/-- A relation with one register renamed. -/
def Rel.rename (r : Rel) (a d : Nat) : Rel :=
  match r with
  | .diff x y c => .diff (if x = a then d else x) (if y = a then d else y) c
  | .fin p s x z e => .fin (if p = a then d else p) s (if x = a then d else x) z e

/-- A move of a register: its type, alignment and facts. -/
def Walk.moved (k : Walk) (q : Arith) (d a : Nat) : Option Given :=
  let fs := if a = d then k.rels.filter (·.names a) else
    (k.rels.filter (fun f => f.names a && !f.names d)).map (·.rename a d)
  if q.vec then
    if a < 0x80 then some { ty := k.tyOf a, rels := fs }
    else if k.tyOf a = .idx ∧ k.ub a < 2 ^ 32 then some { ty := .idx, rels := fs }
    else none
  else if q.narrow then
    (if k.tyOf a = .idx ∧ k.ub a < 2 ^ 31 then some { ty := .idx, al := k.alignReg a, rels := fs } else none)
  else some { ty := k.tyOf a, al := k.alignReg a, rels := fs, priv := k.priv.contains a }

/-- The sum of a pointer, a private-base register or a lock register `p` and `o`. -/
def WalkEnv.pointerSum (e : WalkEnv) (k : Walk) (q : Arith) (d p : Nat) (o : Opnd) : Option Given :=
  let al := Nat.min (k.alignReg p) (k.alignSrc q o)
  let c := q.fixed o
  let okPtr (g : Given) : Option Given := if al < 3 then none else some g
  match k.tyOf p with
  | .ptr _ | .sptr =>
    let uq : Option Int := match c with
      | some c => if 0 ≤ c ∧ c < 2 ^ 24 then some c else none
      | none => (k.bounds q o).map (·.2)
    match uq with
    | none => none
    | some u =>
      if k.tyOf p = .sptr then some { ty := .sptr, al := al }
      else okPtr { ty := k.tyOf p, al := al, rels := k.rels.filterMap (fun f => match f with
        | .fin p' 1 x z m =>
          if p' ≠ p then none
          else if x = g0 then (if u ≤ m then some (.fin d 1 g0 z (m - u.toNat)) else none)
          else if c.isNone ∧ o.code? = some x then some (.fin d 1 g0 z m)
          else none
        | _ => none) }
  | .lock n =>
    match c with
    | some c =>
      if 8 ≤ c ∧ c < 2 ^ 24 then
        okPtr { ty := .ptr (e.locked n), al := al, rels := k.rels.filterMap (fun f => match f with
          | .fin p' 1 x z m => if p' = p ∧ x = g0 ∧ c ≤ m then some (.fin d 1 g0 z (m - c.toNat)) else none
          | _ => none) }
      else none
    | none => none
  | _ =>
    match c with
    | some c =>
      if k.priv.contains p ∧ 1024 ≤ c ∧ c < 2 ^ e.l.psz then
        okPtr { ty := .ptr 16, al := al, rels := [.fin d 1 g0 16 (2 ^ e.l.psz - c.toNat)] }
      else none
    | none => none

/-- The number of a constant shift or scale factor; a shift counts modulo the width (spec/05 R142). -/
def Arith.shift (q : Arith) (c : Int) : Nat := c.toNat % (if q.vec || q.narrow then 32 else 64)

/-- What an arithmetic word gives its destination `d`, before any predicate; `none` is `int` (R415). -/
def WalkEnv.given (e : WalkEnv) (k : Walk) (q : Arith) (d : Nat) : Option Given :=
  let ba := k.bounds q q.a
  let bb := k.bounds q q.b
  let ca := q.fixed q.a
  let cb := q.fixed q.b
  let al := Nat.min (k.alignSrc q q.a) (k.alignSrc q q.b)
  if q.vec && q.ty != .n32 then none
  else match q.op with
    | .mov => match ca, q.a.code? with
      | some c, _ => idxOf q d (alignOf c.natAbs) c c
      | none, some r => k.moved q d r
      | none, none => none
    | .add =>
      let ptr : Option Given := if q.vec || q.narrow then none else
        ((q.a.code?).bind (fun p => e.pointerSum k q d p q.b)).or ((q.b.code?).bind (fun p => e.pointerSum k q d p q.a))
      ptr.or (match ba, bb with
        | some x, some y => idxOf q d al (x.1 + y.1) (x.2 + y.2)
        | _, _ => none)
    | .sub => match ca, ba, cb with
      | none, some x, some c => if 0 < c ∧ c ≤ x.1 then idxOf q d al (x.1 - c) (x.2 - c) else none
      | _, _, _ => none
    | .and => match cb.filter (fun c => decide (0 ≤ c)), ca.filter (fun c => decide (0 ≤ c)) with
      | some c, _ | none, some c => idxOf q d (Nat.max (k.alignSrc q q.a) (k.alignSrc q q.b)) 0 c
      | none, none => none
    | .min =>
      if q.ty ≠ .n64 ∧ q.ty ≠ .n32 then none
      else match ba, bb with
        | some x, some y => idxOf q d al 0 (if x.2 ≤ y.2 then x.2 else y.2)
        | some x, none | none, some x => idxOf q d al 0 x.2
        | none, none => none
    | .shl => match ca, ba, cb with
      | none, some x, some c =>
        let n := q.shift c
        if 0 ≤ c then idxOf q d (Nat.min 12 (k.alignSrc q q.a + n)) (x.1 * 2 ^ n) (x.2 * 2 ^ n) else none
      | _, _, _ => none
    | .shr => match ca, ba, cb with
      | none, some x, some c =>
        let n := q.shift c
        if 0 ≤ c then idxOf q d (k.alignSrc q q.a - n) (x.1 / 2 ^ n) (x.2 / 2 ^ n) else none
      | _, _, _ => none
    | .mul => match ca, ba, cb, bb with
      | none, some x, some c, _ | some c, _, none, some x =>
        if 0 ≤ c then idxOf q d (Nat.min 12 (k.alignSrc q q.a + k.alignSrc q q.b)) (x.1 * c) (x.2 * c) else none
      | _, _, _, _ => none

/-- A destination receives what a word gives it; a predicated word leaves the old type, without facts, or `int` (R417). -/
def Walk.set (k : Walk) (d : Nat) (g : Option Given) (pred : Bool) : Walk :=
  let old := k.tyOf d
  let oal := k.alignReg d
  let f := k.forget d
  match g with
  | none => f
  | some g =>
    let put (t : RegTy) (al : Nat) : Walk :=
      { f with ty := f.ty.put d t, al := if 0x80 ≤ d then f.al.put d al else f.al }
    if pred then
      let al := Nat.min g.al oal
      if g.ty ≠ old then f
      else match g.ty with
        | .ptr _ => if al < 3 then f else put g.ty al
        | _ => put g.ty al
    else
      let k := g.rels.foldl (fun k r => k.addRel r) (put g.ty g.al)
      if g.priv then { k with priv := d :: k.priv } else k

/-! ## `MOVS` (R416) -/

/-- What `MOVS` gives its destination `d`, and the launch facts it uses. -/
def WalkEnv.special (e : WalkEnv) (d n : Nat) : Option Given × List Fact :=
  let l := e.l
  let upTo (u : Nat) : Option Given :=
    if (u : Int) ≤ idxLimit d then some { ty := .idx, rels := [.diff d g0 u] } else none
  let ext (v : Nat) : Nat × List Fact := (e.extent v, [(4, v, e.extent v)])
  if n = 0x00 then (upTo (32 * (ext 1).1 - 1), (ext 1).2)
  else if n = 0x01 ∨ n = 0x08 then (upTo 31, [])
  else if n = 0x02 ∨ n = 0x09 then (upTo ((ext 1).1 - 1), (ext 1).2)
  else if n = 0x03 then (upTo (if e.handler then 23 else if l.decl 3 then l.pw * l.ph - 1 else 0), [])
  else if 0x0A ≤ n ∧ n ≤ 0x0F then
    (if l.decl (n - 8) || e.handler then (upTo ((ext (n - 8)).1 - 1), (ext (n - 8)).2) else (upTo 0, []))
  else if 0x20 ≤ n ∧ n ≤ 0x2F then
    let z := n - 0x20
    let al := alignOf (l.zbase z)
    if !l.zoneV z then (none, [])
    else
      let g (t : RegTy) : Given := { ty := t, al := al, rels := [.fin d 1 g0 z (l.zcap z)] }
      let fs : List Fact := [(0, z, 0), (1, z, l.zcap z), (2, z, al), (3, z, if l.ownZone z then 1 else 0)]
      match guardOf e.locks z with
      | some k => (some (g (.lock k)), fs)
      | none => (if al < 3 then none else some (g (.ptr z)), fs)
  else if n = 0x1B then (some { ty := .int, al := Nat.min l.psz 12, priv := true }, [(6, 0, l.psz)])
  else (none, [])

end Sys2Proof.Machine
end

