-- ==== Sys2Proof/Machine/Proofs.lean ====
section
/-!
DEFINITION. The accesses of every form and when admission takes one as proved (spec/15 R418, R419, R422, R423), and what each
word does to the walk's state, lock tokens and checks included (R415 to R417, R423 to R426).
-/

namespace Sys2Proof.Machine

/-- One access of a word (R418): the operand position and register of its base, the rights it needs (`r` 1, `w` 2, `a` 4), its
constant offset, its offset, index or length register with the scale, the extent with that register at 0, the alignment it
requires (log2), whether an engine, record or descriptor access, whether through the pitch window, and whether the ring of a
`QINIT` there. -/
structure Reach where
  pos : Nat
  base : Opnd
  rights : Nat := 1
  off : Int := 0
  x : Option Nat := none
  scale : Nat := 1
  ext : Nat := 0
  align : Nat := 0
  engine : Bool := false
  win : Bool := false
  ring : Bool := false
  deriving DecidableEq, Repr, Inhabited

/-- An access at `base` + offset operand, a byte count long. -/
def reachOff (w : Ops) (rights n : Nat) : Reach :=
  let k : Reach := { pos := 2, base := w.a, rights := rights, ext := n }
  match w.b.fixed w 0 false with
  | some c => { k with off := c }
  | none => { k with x := w.b.code? }

/-- A side of a copy of `n` bytes, `n` a constant or the register of SRCB. -/
def copySide (w : Ops) (pos : Nat) (base : Opnd) (rights : Nat) (win : Bool) : Reach :=
  let k : Reach := { pos := pos, base := base, rights := rights, engine := true, win := win }
  match w.b.fixed w 0 false with
  | some c => { k with ext := (c % 2 ^ 64).toNat }
  | none => { k with x := w.b.code? }

end Sys2Proof.Machine

namespace Sys2Proof

open Machine

/-- A matrix operand: rows × stride bytes at a register. -/
def mxSide (pos : Nat) (base : Opnd) (rights rows stride : Nat) (win : Bool) : Reach :=
  { pos := pos, base := base, rights := rights, ext := rows * stride, align := 3, engine := true, win := win }

/-- The accesses of a word (R418). -/
def Instr.reaches (i : Instr) : List Reach :=
  match i with
  | .ld w m => [reachOff w 1 (2 ^ m.w.toNat)]
  | .st w m => [reachOff w 2 (2 ^ m.w.toNat)]
  | .vld w m | .vldc w m => [reachOff w 1 (32 * (2 ^ m.w.toNat))]
  | .vst w m | .vstc w m => [reachOff w 2 (32 * (2 ^ m.w.toNat))]
  | .vldu w m => [reachOff w 1 (2 ^ m.w.toNat)]
  | .vldx w m => [{ pos := 2, base := w.a, x := w.b.code?, scale := 2 ^ m.sc.toNat, ext := (2 ^ m.w.toNat) }]
  | .vstx w m => [{ pos := 2, base := w.a, rights := 2, x := w.b.code?, scale := 2 ^ m.sc.toNat, ext := (2 ^ m.w.toNat) }]
  | .vlds w m => [{ pos := 2, base := w.a, x := w.b.code?, scale := 31, ext := (2 ^ m.w.toNat) }]
  | .vsts w m => [{ pos := 2, base := w.a, rights := 2, x := w.b.code?, scale := 31, ext := (2 ^ m.w.toNat) }]
  | .vldf w _ => [{ pos := 2, base := w.a, x := w.b.code?, scale := 4, ext := 4 }]
  | .vstf w _ => [{ pos := 2, base := w.a, rights := 2, x := w.b.code?, scale := 4, ext := 4 }]
  | .amo w m => [{ pos := 2, base := w.a, rights := 5, ext := m.ty.bytes, align := if m.ty.bytes = 8 then 3 else 2 }]
  | .cas w m => [{ pos := 2, base := w.a, rights := 5, ext := m.ty.bytes, align := if m.ty.bytes = 8 then 3 else 2 }]
  | .red w m => [{ pos := 2, base := w.a, rights := 4, ext := m.ty.bytes, align := if m.ty.bytes = 8 then 3 else 2 }]
  | .cas2 w _ => [{ pos := 2, base := w.a, rights := 5, ext := 16, align := 4 }]
  | .vamo w m | .vcas w m =>
    [{ pos := 2, base := w.a, rights := 5, x := w.b.code?, scale := 2 ^ m.sc.toNat, ext := m.ty.bytes,
       align := if m.ty.bytes = 8 then 3 else 2 }]
  | .vred w m =>
    [{ pos := 2, base := w.a, rights := 4, x := w.b.code?, scale := 2 ^ m.sc.toNat, ext := m.ty.bytes,
       align := if m.ty.bytes = 8 then 3 else 2 }]
  | .xld w m => [{ pos := 2, base := w.a, ext := 96, align := 3, win := m.sp }]
  | .xst w m => [{ pos := 2, base := w.a, rights := 2, ext := 96, align := 3, win := m.sp }]
  | .txwatch w _ => [reachOff w 1 8]
  | .launch w _ => [{ pos := 2, base := w.a, ext := 512, engine := true }]
  | .coll w _ | .cgrp w _ => [{ pos := 2, base := w.a, ext := 64, engine := true }]
  | .sealreq w _ => [{ pos := 2, base := w.a, ext := 4096 }, { pos := 3, base := w.b, ext := 8 }]
  | .tld w _ => let d := shapeOf (w.x.getD 0); [mxSide 2 w.a 1 d.m d.sa false]
  | .tst w _ => let d := shapeOf (w.x.getD 0); [mxSide 3 w.b 2 d.m d.sa false]
  | .tstq w m => let d := shapeOf (w.x.getD 0); [mxSide 3 w.b 2 d.m d.sa m.aw]
  | .tlds w _ => [{ pos := 2, base := w.a, win := true }]
  | .tsts w _ => [{ pos := 3, base := w.b, win := true }]
  | .mma w m | .mmap w m | .mmas w m | .mmasp w m =>
    let d := shapeOf (w.x.getD 0)
    [mxSide 2 w.a 1 d.m d.sa m.aw, mxSide 3 w.b 1 d.n d.sb m.bw]
  | .cpy w m => [copySide w 1 w.d 2 m.dw, copySide w 2 w.a 1 m.sw]
  | .cpys w m => [copySide w 1 w.d 2 m.dw, copySide w 2 w.a 1 m.sw]
  | .cfill w m => [copySide w 1 w.d 2 m.dw]
  | .cpy2d w m =>
    let x := w.x.getD 0
    let side (pos : Nat) (base : Opnd) (rights stride : Nat) (win : Bool) : Reach :=
      { pos := pos, base := base, rights := rights, x := w.b.code?, ext := (x.extractLsb' 48 16).toNat * stride,
        engine := true, win := win }
    [side 1 w.d 2 (x.extractLsb' 24 24).toNat m.dw, side 2 w.a 1 (x.extractLsb' 0 24).toNat m.sw]
  | .cpym w m =>
    let d := shapeOf (w.x.getD 0)
    let own := if m.role then (d.n, d.sb, m.bw) else (d.m, d.sa, m.aw)
    let other := if m.role then (d.m, d.sa, m.aw) else (d.n, d.sb, m.bw)
    [{ pos := 2, base := w.a, ext := own.1 * own.2.1, engine := true },
     mxSide 1 w.d 3 own.1 own.2.1 own.2.2, mxSide 3 w.b 1 other.1 other.2.1 other.2.2]
  | .vldp w _ | .vstp w _ | .ldp w _ | .stp w _ | .vldxp w _ | .vstxp w _ | .vldfp w _ | .amop w _ | .vamop w _
  | .vredp w _ => [{ pos := 2, base := w.a, win := true }]
  | .qinit w m =>
    let cap : Nat := match w.b.fixed w m.imm false with
      | some c => c.toNat
      | none => 256
    [{ pos := 2, base := w.a, ext := 128 + 8 * cap, ring := true }]
  | _ => []

/-- An 8-byte `LD`, `ST`, `AMO` or `CAS` at offset 0, as a lock word may be accessed (R423). -/
def Instr.lockForm (i : Instr) : Bool :=
  match i with
  | .ld w m | .st w m => m.w == 3 && (w.b == .none || w.b.fixed w 0 false == some 0)
  | .amo _ m | .cas _ m => m.ty.bytes == 8 && m.ty.isInt
  | _ => false

/-- The base register and mark of an access that may give up a token: `.rel` and `.acqrel` (R423). -/
def Instr.released (i : Instr) : Option Opnd :=
  match i with
  | .st w m | .vst w m | .vstx w m | .vsts w m | .vstc w m | .vstf w m => if m.mark = 2 then some w.a else none
  | .amo w m | .cas w m | .cas2 w m | .vamo w m | .vcas w m | .red w m | .vred w m =>
    if m.mark = 2 ∨ m.mark = 3 then some w.a else none
  | _ => none

/-- The forms accepted only with no token held (R423). -/
def Instr.needsNoToken (i : Instr) : Bool :=
  match i with
  | .call _ _ | .ret _ _ | .exit _ _ | .launch _ _ | .recast _ _ | .sealreq _ _ => true
  | _ => false

/-- The exact accumulators a form reads (spec/01 R43). -/
def Instr.accReads (i : Instr) : List Nat :=
  match i with
  | .xadd _ m | .xsub _ m | .xdot _ m | .xrnd _ m | .xst _ m => [m.xd.toNat]
  | .xmrg _ m => [m.xd.toNat, m.xs.toNat]
  | _ => []

/-- The exact accumulator a form gives a value. -/
def Instr.accClears (i : Instr) : Option Nat :=
  match i with
  | .xclr _ m | .xld _ m => some m.xd.toNat
  | _ => none

/-- A scalar operation as R415's table has it. -/
def SOp.arith (o : SOp) : Option ArOp :=
  match o with
  | .mov => some .mov
  | .add => some .add
  | .sub => some .sub
  | .and => some .and
  | .min => some .min
  | .shl => some .shl
  | .shr => some .shr
  | .mul => some .mul
  | _ => none

/-- A vector integer operation as R415's table has it. -/
def VIOp.arith (o : VIOp) : Option ArOp :=
  match o with
  | .mov => some .mov
  | .add => some .add
  | .sub => some .sub
  | .and => some .and
  | .min => some .min
  | .shl => some .shl
  | .shr => some .shr
  | .mul => some .mul
  | _ => none

/-- A word as an arithmetic word of R415. -/
def Instr.arith (i : Instr) : Option Arith :=
  let f (o : ArOp) (vec : Bool) (w : Ops) (m : AluMod) : Option Arith :=
    some { op := o, vec := vec, ty := m.ty, d := w.d, a := w.a, b := w.b, w := w, imm := m.imm }
  match i with
  | .mov w m => f .mov false w m
  | .add w m => f .add false w m
  | .sub w m => f .sub false w m
  | .and w m => f .and false w m
  | .min w m => f .min false w m
  | .shl w m => f .shl false w m
  | .shr w m => f .shr false w m
  | .mul w m => f .mul false w m
  | .vmovInt w m => f .mov true w m
  | .vaddInt w m => f .add true w m
  | .vsubInt w m => f .sub true w m
  | .vand w m => f .and true w m
  | .vminInt w m => f .min true w m
  | .vshl w m => f .shl true w m
  | .vshr w m => f .shr true w m
  | .vmulInt w m => f .mul true w m
  | _ => none

/-- A half as an arithmetic word of R415: a two-source half reads its destination first (spec/03 R83). -/
def Half.arith (h : Half) : Option Arith :=
  let w : Ops := { h := default, d := h.d, a := h.d, b := h.s, x := Option.none }
  let f (o : ArOp) (vec : Bool) (t : Ty) : Arith :=
    { op := o, vec := vec, ty := t, d := h.d, a := if o = .mov then h.s else h.d, b := if o = .mov then .none else h.s,
      w := w, imm := 0 }
  match h.op with
  | .si o t => o.arith.map (fun a => f a false t)
  | .vi o t => o.arith.map (fun a => f a true t)
  | _ => none

/-- A word takes a predicate other than the always-true one. -/
def Hdr.predicated (h : Hdr) : Bool := h.pred != 0

end Sys2Proof

namespace Sys2Proof.Machine

/-! ## Proofs of accesses (R418, R419, R422, R423) -/

/-- The bound of a base by a fact whose extent register is `x` or none: the greatest e of those. -/
def Walk.ends (k : Walk) (b z : Nat) (ok : Nat → Nat → Bool) : List Nat :=
  k.rels.filterMap (fun f => match f with
    | .fin p s x z' e => if p = b ∧ z' = z ∧ ok s x then some e else none
    | .diff _ _ _ => none)

/-- The demanded check of a base (R419 steps 1 and 2). -/
def demandBase (priv : Bool) (pos b z n : Nat) : AdmRej :=
  { bndR 5 pos with chk := { op := if priv then 0x27 else 0x20, reg := b, zt := if priv then 0xFF else z, val := n } }

/-- A ring of `n` bytes at a register lies within the pitch window: an `sptr`, an `idx` below the scratchpad of forme 0, or a
register that the demanded `CHKB` made a pointer with that length (spec/11 R366; DEDUCED, log entry 97). -/
def WalkEnv.ringAt (e : WalkEnv) (k : Walk) (pos b n : Nat) : Adm Unit :=
  match k.tyOf b with
  | .sptr => .ok ()
  | .idx => must (decide (k.ub b + n ≤ e.l.spad * 2 ^ 18)) (demandBase false pos b 0xFF n)
  | .int => .error (demandBase false pos b 0xFF n)
  | .ptr z => must ((k.ends b z (fun s x => s == 1 && x == g0)).any (fun m => decide (n ≤ m))) (demandBase false pos b z n)
  | _ => .error (typR 2 pos)

/-- One access is proved, or rejected. -/
def WalkEnv.prove (e : WalkEnv) (k : Walk) (lockForm : Bool) (r : Reach) : Adm Walk := do
  let b := (r.base.code?).getD g0
  let t := k.tyOf b
  if r.ring then do
    e.ringAt k r.pos b r.ext
    .ok k
  else if r.win then
    must (t == .sptr || t == .int || t == .idx) (typR 2 r.pos)
    .ok k
  else
    let priv := k.priv.contains b || k.derived.contains b
    let need := (r.off + r.ext).toNat
    let zg : Nat × Option Nat ← (match t with
      | .ptr z => .ok (z, if z < 16 then guardOf e.locks z else none)
      | .lock n => if lockForm then .ok (e.locked n, none) else .error (typR 7 r.pos)
      | .int | .idx => .error (demandBase priv r.pos b 0xFF need)
      | _ => .error (typR 2 r.pos))
    let z := zg.1
    let k ← (if z = 16 then do
        must (r.rights &&& 4 == 0) (bndR 1 r.pos)
        .ok (k.use (6, 0, e.l.psz))
      else do
        must (e.l.zoneV z && e.l.rights z &&& r.rights == r.rights) (bndR 1 r.pos)
        .ok ((k.use (0, z, r.rights)).use (3, z, if e.l.ownZone z then 1 else 0)) : Adm Walk)
    (match zg.2 with
      | some n => do
        must (!r.engine) (bndR 4 r.pos)
        must (k.held.getLsbD n) (lckR 1 r.pos)
      | none => .ok () : Adm Unit)
    must (decide (0 ≤ r.off)) (bndR 3 3)
    let plain := k.ends b z (fun s x => s == 1 && x == g0)
    let withX : List Nat := match r.x with
      | some x => k.ends b z (fun s y => y == x && s == r.scale)
      | none => []
    let full : Option Nat := match r.x with
      | none => some need
      | some x => if k.tyOf x = .idx then some (need + r.scale * (k.ub x).toNat) else none
    let proved := withX.any (fun m => decide (need ≤ m)) || (match full with
      | some n => plain.any (fun m => decide (n ≤ m))
      | none => false)
    if !proved then
      match r.x, (plain ++ withX).any (fun m => decide (need ≤ m)) with
      | some x, true =>
        let m := (if plain.isEmpty then withX else plain).foldl Nat.max 0
        .error { bndR 5 3 with chk := { op := 0x23, reg := x, zt := 0xFF, val := (m - need) / r.scale } }
      | _, _ => .error (demandBase (z == 16) r.pos b z need)
    else
      let xal := match r.x with
        | some x => alignOf r.scale + (if 0x80 < x then k.alignReg x else 0)
        | none => 12
      if Nat.min (k.alignReg b) (Nat.min (alignOf r.off.natAbs) xal) < r.align then
        .error { bndR 5 r.pos with chk := { op := 0x22, reg := b, zt := r.align, val := 0 } }
      else .ok k

/-! ## Words -/

/-- The operand position (R429) of the first operand of a word that `bad` takes by its position, in the order DST, SRCA, SRCB; of a
paired word, the half. `read`: of the operands it reads. -/
def opndOf (i : Instr) (read : Bool) (bad : Nat → Opnd → Bool) : Option Nat :=
  match i with
  | .pairedWord _ hi lo =>
    let half (x : Half) : Bool := ((!read || x.readsDst) && bad 1 x.d) || bad 3 x.s
    if half hi then some 6 else if half lo then some 7 else none
  | i => i.view.bind (fun v =>
    let dst : Bool := !read || (match formAt v.opc v.mod with
      | some f => f.dRead
      | none => false)
    if dst && bad 1 v.ops.d then some 1 else if bad 2 v.ops.a then some 2 else if bad 3 v.ops.b then some 3 else none)

/-- A `lock(kN)` register serves only as the base of a lock access and in the `ADD` of R415 (R423). -/
def Walk.lockUse (k : Walk) (i : Instr) : Adm Unit :=
  let isLock (r : Nat) : Bool := match k.tyOf r with
    | .lock _ => true
    | _ => false
  let locks : List Nat := (i.readRegs.map (·.toNat)).filter isLock
  let viaAdd (r : Nat) : Bool := match i with
    | .add w m =>
      let other := if w.a.code? = some r then w.b else w.a
      match other.fixed w m.imm false with
      | some c => decide (8 ≤ c ∧ c < 2 ^ 24)
      | none => false
    | _ => false
  let bad (pos : Nat) (o : Opnd) : Bool := (o.regs (i.groupSize (pos == 1)) i.gGroup).any (fun r =>
    locks.contains r.toNat && !(i.lockForm && pos == 2) && !viaAdd r.toNat)
  match opndOf i true bad with
  | some n => .error (typR 7 n)
  | none => must (locks.all (fun r => viaAdd r || (i.lockForm && (i.reaches.head?.bind (·.base.code?)) == some r))) (typR 7 4)

/-- What a check adds when it passes (R425). -/
def WalkEnv.checked (e : WalkEnv) (k : Walk) (i : Instr) : Adm Walk :=
  let bound (w : Ops) (m : ChkMod) (z : Nat) : Adm Walk :=
    match w.a.code? with
    | none => .ok k
    | some a =>
      let k := { k with ty := k.ty.put a (.ptr z) }
      .ok (match w.b.fixed w m.imm false, w.b.code? with
        | some c, _ => k.addRel (.fin a 1 g0 z (Nat.min c.toNat 16777215))
        | none, some x => k.addRel (.fin a 1 x z 0)
        | none, none => k)
  match i with
  | .chkb w m => do
    must (e.declares m.z.toNat) (resR 4 4)
    bound w m m.z.toNat
  | .chkp w m => bound w m 16
  | .chkn w _ => .ok (match w.a.code? with
    | some a => if k.tyOf a = .idx then k.addRel (.diff g0 a (-1)) else k
    | none => k)
  | .chka w m => .ok (match w.a.code? with
    | some a => { k with al := k.al.put a (Nat.max (k.alignReg a) m.z.toNat) }
    | none => k)
  | .chki w m => .ok (match w.a.code? with
    | some a =>
      let k := { k with ty := k.ty.put a .idx }
      match w.b.fixed w m.imm (decide (a < 0x80)), w.b.code? with
      | some c, _ => k.addRel (.diff a g0 c)
      | none, some x => k.addRel (.diff a x 0)
      | none, none => k
    | none => k)
  | .chkl _ m => do
    must ((e.locks.getD m.z.toNat 0).getLsbD 7) (resR 4 4)
    .ok { k with held := k.held ||| (1#16 <<< m.z.toNat) }
  | .chkt w _ => .ok (match w.a.code? with
    | some a => { k with ty := k.ty.put a .code }
    | none => k)
  | .chkr w m => .ok (match w.a.code?, w.b.code? with
    | some a, some b => k.addRel (.diff a b m.imm.toInt)
    | some a, none => k.addRel (.diff a g0 m.imm.toInt)
    | none, some b => k.addRel (.diff g0 b m.imm.toInt)
    | none, none => k)
  | _ => .ok k

/-- What a word that is no arithmetic word of R415 gives its destination, with the launch facts it uses. -/
def WalkEnv.otherGiven (e : WalkEnv) (i : Instr) (d : Nat) : Option Given × List Fact :=
  match i with
  | .movs _ m => e.special d m.n.toNat
  | .qpop _ _ => (some { ty := .handle }, [])
  | .call _ _ | .sealreq _ _ => (some { ty := .code }, [])
  | _ => (none, [])

/-- The registers of an arithmetic word or half after which a result counts as derived from the private base (R419). -/
def Walk.derives (k : Walk) (q : Arith) : Bool :=
  (q.op == .add || q.op == .sub) && !q.vec && ([q.a, q.b].filterMap Opnd.code?).any (fun r =>
    k.priv.contains r || k.derived.contains r || k.tyOf r == .ptr 16)

/-- The destination registers written: those of an arithmetic word receive `g`, all others become `int`. -/
def Walk.write (k : Walk) (i : Instr) (d : Opnd) (g : Option Given) (pred derived : Bool) : Walk :=
  (i.writeRegs.map (·.1.toNat)).foldl (fun k r =>
    if r = g0 ∨ 0xC0 ≤ r then k
    else
      let own := d.code? == some r
      let k := k.set r (if own then g else none) pred
      if own && derived && k.tyOf r == .int then { k with derived := r :: k.derived } else k) k

/-- The launch facts of an arithmetic word: the private base's size (R408). -/
def WalkEnv.arithFacts (e : WalkEnv) (k : Walk) (q : Arith) : Walk :=
  if ([q.a, q.b].filterMap Opnd.code?).any (k.priv.contains ·) then k.use (6, 0, e.l.psz) else k

/-- What a half gives its destination, and whether a plain result counts as derived from the private base. -/
def WalkEnv.halfGiven (e : WalkEnv) (k : Walk) (h : Half) : Option Given × Bool :=
  match h.arith with
  | some q => ((q.d.code?).bind (fun d => e.given k q d), k.derives q)
  | none => (none, false)

/-- A half's destination receives what it gives. -/
def Walk.putHalf (k : Walk) (h : Half) (g : Option Given × Bool) (pred : Bool) : Walk :=
  match h.d.code? with
  | some r =>
    let k := k.set r g.1 pred
    if g.2 && k.tyOf r == RegTy.int then { k with derived := r :: k.derived } else k
  | none => k

/-- A paired word: both halves read the state before either writes (spec/03 R83). -/
def WalkEnv.halves (e : WalkEnv) (k : Walk) (hi lo : Half) (pred : Bool) : Walk :=
  let a := e.halfGiven k hi
  let b := e.halfGiven k lo
  let k := [hi, lo].foldl (fun (k : Walk) (h : Half) => match h.arith with
    | some q => e.arithFacts k q
    | none => k) k
  (k.putHalf hi a pred).putHalf lo b pred

/-- The `RES` rule a word breaks, with the operand it names (R428). -/
def WalkEnv.resCheck (e : WalkEnv) (i : Instr) : Adm Unit :=
  let high (pos : Nat) (o : Opnd) : Bool := (o.regs (i.groupSize (pos == 1)) 1).any (fun r =>
    decide (r.toNat < 0x80 ∧ 8 * e.l.alloc ≤ r.toNat))
  match (if e.handler then none else i.resRule e.l e.l.alloc) with
  | none => .ok ()
  | some 1 => .error (resR 1 ((opndOf i false high).getD 4))
  | some 2 => .error (resR 2 5)
  | some n => .error (resR n (match i with
      | .mmap _ _ | .mmasp _ _ => 5
      | _ => 4))

/-- A word of a block that is a legal encoding: every rule checked, then its effect on the state. -/
def WalkEnv.word (e : WalkEnv) (k : Walk) (i : Instr) : Adm Walk := do
  e.resCheck i
  must (!(i.accReads.any (fun n => k.dead.getLsbD n))) (typR 5 0)
  k.lockUse i
  must (!i.needsNoToken || k.held == 0) (lckR 3 0)
  (match i with
    | .call w m => must (!m.imm.getLsbD 13 || k.tyOf ((w.a.code?).getD g0) == .code) (typR 6 2)
    | .ret w _ => must (k.tyOf ((w.a.code?).getD g0) == .code) (typR 6 2)
    | _ => .ok () : Adm Unit)
  let k ← i.reaches.foldlM (fun k r => e.prove k i.lockForm r) k
  let k : Walk := match i.released.bind Opnd.code? with
    | some b => match k.tyOf b with
      | .lock n => { k with held := k.held &&& ~~~(1#16 <<< n) }
      | .ptr z => match guardOf e.locks z with
        | some n => { k with held := k.held &&& ~~~(1#16 <<< n) }
        | none => k
      | _ => k
    | none => k
  let k := match i.accClears with
    | some n => { k with dead := k.dead &&& ~~~(1#4 <<< n) }
    | none => k
  let k ← e.checked k i
  let pred := i.hdr.predicated
  .ok ((match i with
    | .pairedWord _ hi lo => e.halves k hi lo pred
    | i => match i.arith with
      | some q => (e.arithFacts k q).write i q.d ((q.d.code?).bind (fun d => e.given k q d)) pred (k.derives q)
      | none => match i.view with
        | some v =>
          let g := match v.ops.d.code? with
            | some d => e.otherGiven i d
            | none => (none, [])
          (g.2.foldl Walk.use k).write i v.ops.d g.1 pred false
        | none => k).pin)

end Sys2Proof.Machine
end

