-- ==== Sys2Proof/Machine/Admission.lean ====
section
/-!
DEFINITION. The admission unit: edges (spec/15 R420, R421), the walk of a chunk (R414, R439 to R441), verdicts and their cache
(R408), what a launch checks after them (R409), the rejection record (R429).
-/

namespace Sys2Proof

/-- The word ends its block (R421, spec/18 R455). -/
def Instr.endsBlock (i : Instr) : Bool :=
  match i with
  | .bra _ _ | .brc _ _ | .brv _ _ | .join _ _ | .call _ _ | .ret _ _ | .jmpt _ _ | .recast _ _ | .exit _ _ | .retry _ _
  | .hret _ _ | .hskip _ _ | .hfail _ _ => true
  | _ => false

end Sys2Proof

namespace Sys2Proof.Machine

/-! ## Edges (R420, R421) -/

/-- A state implies a block's annotation. -/
def Walk.implies (k : Walk) (b : BlockRec) : Adm Unit := do
  must (b.typ.all (fun t =>
    (t.2 == .int || k.tyOf t.1 == t.2) && (match t.2 with
      | .ptr _ => decide (3 ≤ k.alignReg t.1)
      | _ => true))) (typR 8 8)
  must (b.rels.all (fun r => match r with
    | .diff x y c =>
      (x == g0 && decide (0 ≤ c) && k.tyOf y == .idx) || k.rels.any (fun f => match f with
        | .diff x' y' c' => x' == x && y' == y && decide (c' ≤ c)
        | .fin _ _ _ _ _ => false)
    | .fin p s x z m => k.rels.any (fun f => match f with
        | .fin p' s' x' z' m' => p' == p && s' == s && x' == x && z' == z && decide (m ≤ m')
        | .diff _ _ _ => false))) (bndR 2 8)
  must (k.held == b.holds) (lckR 2 8)

/-- The block record at a text offset: of this chunk, or an import record of another; the rejection `miss` where none can
be. -/
def WalkEnv.target (e : WalkEnv) (t : Int) (miss : AdmRej) : Adm BlockRec :=
  if t < 0 ∨ (e.textLen : Int) ≤ t ∨ t % 8 ≠ 0 then .error miss
  else
    let n := t.toNat
    if n / 4096 = e.chunk then
      match e.blocks.find? (fun b => b.start == n % 4096 / 8) with
      | some b => .ok b
      | none => .error miss
    else match e.imports.find? (fun x => x.1 == n) with
      | some x => .ok x.2
      | none => .error (cfgR 6 0)

/-- An edge to a text offset; a block whose record breaks its limits is named at its own first word. -/
def WalkEnv.edge (e : WalkEnv) (k : Walk) (t : Int) (miss : AdmRej) : Adm Unit := do
  let b ← e.target t miss
  if b.bad then .ok () else k.implies b

/-- Control that goes on to the next word: it must begin a block. -/
def WalkEnv.onward (e : WalkEnv) (k : Walk) (t : Int) : Adm Unit :=
  if (e.textLen : Int) ≤ t then .error (cfgR 2 0) else e.edge k t (cfgR 3 0)

/-- The target of a branch at an offset (spec/05 R137, spec/11 R341). -/
def branchTarget (off : Nat) (w : Ops) (bits : Nat) (imm : BitVec 14) : Int :=
  match w.x with
  | some x => off + x.toInt
  | none => off + 8 * (imm.extractLsb' 0 bits).toInt

/-- The edges of a word at offset `off`; `k` is the state before it, `after` the state after it (R421). A word that its
predicate may hold back also goes on (DEDUCED; log entry 31). -/
def WalkEnv.edges (e : WalkEnv) (k after : Walk) (i : Instr) (off : Nat) : Adm Unit :=
  let next : Int := off + i.size
  let held : Adm Unit := if i.hdr.predicated then e.onward k next else .ok ()
  match i with
  | .bra w m => do
    e.edge k (branchTarget off w 14 m.imm) (cfgR 1 0)
    held
  | .brc w m => do
    e.edge k (branchTarget off w 11 m.imm) (cfgR 1 0)
    e.onward k next
  | .brv w m => do
    e.edge k (branchTarget off w 13 m.imm) (cfgR 1 0)
    e.onward k next
  | .join _ _ | .recast _ _ => e.onward k next
  | .jmpt _ m =>
    (List.range ((m.imm.extractLsb' 0 8).toNat + 1)).foldlM (fun _ (n : Nat) => e.onward k (off + 8 + 8 * n)) ()
  | .call w m => do
    let linked := match w.d.code? with
      | some d => after.set d (some { ty := .code }) false
      | none => after
    (if m.imm.getLsbD 13 then linked.implies e.gate else e.edge linked (branchTarget off w 13 m.imm) (cfgR 1 0) : Adm Unit)
    let b ← e.target next (if (e.textLen : Int) ≤ next then cfgR 2 0 else cfgR 3 0)
    must (b.canon == e.gate.canon) (cfgR 4 0)
    if i.hdr.predicated then k.implies b else .ok ()
  | .ret _ _ => do
    k.implies e.gate
    held
  | .exit _ _ => held
  | .txb w m | .txelse w m => e.edge k (branchTarget off w 14 m.imm) (cfgR 1 0)
  | _ => .ok ()

/-! ## The walk of a chunk (R414, R439 to R441) -/

/-- Where and why a walk stops (R429): the rejection, chunk, block, instruction, text offset. -/
structure Stop where
  r : AdmRej
  chunk : Nat := 0
  block : Nat := 0
  instr : Nat := 0
  off : Nat := 0
  deriving DecidableEq, Repr, Inhabited

/-- The operand position an encoding error names: the first field that no class of the form accepts, else MOD, or the
halves (R429; DESIGN CHOICE, log entry 32). -/
def encOpnd (w : Word) (e : Enc) : Nat :=
  let form := w.extractLsb' 62 2
  if form = 1 then (match Half.parse (w.extractLsb' 27 27) with
    | .error _ => 6
    | .ok h => match h.check with
      | .error _ => 6
      | .ok _ => match Half.parse (w.extractLsb' 0 27) with
        | .error _ => 7
        | .ok l => match l.check with
          | .error _ => 7
          | .ok _ => 0)
  else match formAt (w.extractLsb' 44 10).toNat (w.extractLsb' 0 20) with
    | none => 0
    | some f =>
      let bad (cs : List Cls) (lo : Nat) : Bool := match Opnd.parse cs (w.extractLsb' lo 8) with
        | .ok _ => false
        | .error _ => true
      if bad f.d 36 then 1 else if bad f.a 28 then 2 else if bad f.b 20 then 3
      else match e with
        | .enc01 | .enc04 | .enc05 | .enc06 => 0
        | .typ03 | .typ04 => 1
        | _ => 4

/-- What a walk has gathered: the state and the S marks. -/
structure Walked where
  k : Walk := {}
  s : BitVec 512 := 0
  deriving DecidableEq, Repr, Inhabited

/-- The word `NOP` with every other field zero (R439). -/
def plainNop : Word := 0x020 <<< 44

/-- The words after a block's last one, up to the next block: plain `NOP`s, marked S (R439). -/
def WalkEnv.tail (e : WalkEnv) (bi next : Nat) : Nat → Nat → Nat → BitVec 512 → Except Stop (BitVec 512)
  | 0, _, _, s => .ok s
  | f + 1, i, n, s =>
    if next ≤ i then .ok s
    else if e.words.getD i 0 = plainNop then WalkEnv.tail e bi next f (i + 1) (n + 1) (s ||| (1#512 <<< i))
    else .error { r := encR .enc01 0, chunk := e.chunk, block := bi, instr := n, off := 4096 * e.chunk + 8 * i }

/-- The instruction at a word of the chunk, as admission takes it (spec/03 R81, R90, spec/18 R455, R467). -/
def WalkEnv.instrAt (e : WalkEnv) (i : Nat) : Adm Instr :=
  let w := e.words.getD i 0
  if isWideWord w ∧ i = 511 then .error (encR .enc05 0)
  else match decode w (e.words.getD (i + 1) 0) with
    | .error x => .error (encR x (encOpnd w x))
    | .ok x =>
      if x.whereOk e.handler then .ok x
      else if e.handler && (match x with | .movs _ _ => true | _ => false) then .error (encR .enc03 1)
      else .error (encR .enc01 0)

/-- The words of a block from index `i`, up to index `next` where another block begins. -/
def WalkEnv.walkWords (e : WalkEnv) (bi next : Nat) : Nat → Nat → Nat → Walked → Except Stop Walked
  | 0, _, _, x => .ok x
  | f + 1, i, n, x =>
    let off := 4096 * e.chunk + 8 * i
    let at' {α : Type} (a : Adm α) : Except Stop α := match a with
      | .ok v => .ok v
      | .error r => .error { r := r, chunk := e.chunk, block := bi, instr := n, off := off }
    if next < i then .error { r := cfgR 1 0, chunk := e.chunk, block := bi + 1, off := 4096 * e.chunk + 8 * next }
    else do
      let ins ← at' (e.instrAt i)
      let k ← at' (e.word x.k ins)
      let s := x.s ||| (1#512 <<< i)
      let j := i + ins.size / 8
      at' (e.edges x.k k ins off)
      if ins.endsBlock then do
        let s ← e.tail bi next 512 j (n + 1) s
        .ok { k := k, s := s }
      else if j = next then do
        at' (e.onward k (4096 * e.chunk + 8 * next))
        .ok { k := k, s := s }
      else WalkEnv.walkWords e bi next f j (n + 1) { k := k, s := s }

/-- The word at which a block ends: where the next one begins, or the chunk's end. -/
def nextStart (b : BlockRec) (r : List BlockRec) : Nat :=
  match r with
  | c :: _ => if c.start ≤ b.start then 512 else Nat.min 512 c.start
  | [] => 512

/-- The word before an index ends in a `RECAST` whose `T + 8` is that index (spec/01 R43). -/
def WalkEnv.afterRecast (e : WalkEnv) (i : Nat) : Bool :=
  decide (0 < i) && (match decode (e.words.getD (i - 1) 0) 0 with
    | .ok (.recast _ _) => true
    | _ => false)

/-- The blocks of a chunk in address order, each from its own annotation, up to a record that breaks its limits. -/
def WalkEnv.walkBlocks (e : WalkEnv) : List BlockRec → Nat → Walked → Except Stop Walked
  | [], _, x => .ok x
  | b :: r, bi, x =>
    if b.bad then .ok x
    else
    let next := nextStart b r
    let k := e.begin b x.k
    let dead : BitVec 4 := if e.afterRecast b.start && x.s.getLsbD (b.start - 1) then 0xF else 0
    match e.walkWords bi next 513 b.start 0 { x with k := { k with dead := dead }.pin } with
    | .ok y => WalkEnv.walkBlocks e r (bi + 1) y
    | .error s => .error s

/-- The GT marks of a chunk: the blocks whose annotation equals G (R407, R421). -/
def WalkEnv.gates (e : WalkEnv) : BitVec 512 :=
  e.blocks.foldl (fun m b => if b.canon = e.gate.canon then m ||| (1#512 <<< b.start) else m) 0

/-- Of two stops of a chunk the one at the lower address (R441). -/
def Stop.first (a b : Stop) : Stop := if b.off < a.off then b else a

/-- The stops at block records that break a limit of their own, each at its block's first word (R412, R441). -/
def WalkEnv.badRecords (e : WalkEnv) : List Stop :=
  (e.blocks.zipIdx.filter (fun b => b.1.bad)).map (fun b =>
    { r := typR 9 8, chunk := e.chunk, block := b.2, off := 4096 * e.chunk + 8 * b.1.start })

/-- The walk of one chunk with its annotation blob: it stops at the first failing rule in address order (R441). A blob or an import
record out of its limits belongs to no word, and stops it at the first (DESIGN CHOICE; log entry 32). -/
def WalkEnv.walkChunk (e : WalkEnv) (blob : List Byte) : Except Stop (BitVec 512 × BitVec 512 × Walk × List (Nat × BlockRec)) :=
  let here {α : Type} (r : AdmRej) : Except Stop α := .error { r := r, chunk := e.chunk, off := 4096 * e.chunk }
  match readBlob 512 blob with
  | .error r => here r
  | .ok (bs, is) =>
    let is : List (Nat × BlockRec) := is.map (fun x => (x.1, x.2.under e.locks))
    let e := { e with blocks := bs.map (fun (b : BlockRec) => b.under e.locks), imports := is }
    if is.any (·.2.bad) then here (typR 9 8)
    else if (bs.head?.map (·.start)) ≠ some 0 then here (cfgR 5 0)
    else match e.walkBlocks e.blocks 0 { k := { facts := e.shape } }, e.badRecords with
      | .error s, bad => .error (bad.foldl Stop.first s)
      | .ok _, b :: bad => .error (bad.foldl Stop.first b)
      | .ok x, [] => .ok (x.s, e.gates, x.k, is)

/-! ## Verdicts (R408) -/

/-- The first 32 bytes of SHA-512 as a number (R405). -/
def idOf (bs : List Byte) : Nat := natOf ((sha512 bs).take 32)

/-- The annotation digest (R408). -/
def annDigest (gate : BlockRec) (blob : List Byte) : Nat := idOf (gate.canon ++ blob)

/-- The accepting verdict on a pair of chunk id and digest that a launch may reuse; a rejecting one records no fact that a
launch could meet, and is walked afresh (DEDUCED; log entry 96). -/
def WalkEnv.reuse (e : WalkEnv) (vs : List Verdict) (id dig : Nat) : Option Verdict :=
  vs.find? (fun v => v.chunk == id && v.digest == dig && v.handler == e.handler && v.accepts && v.facts.all (fun f => e.meets f))

/-- The cache with a verdict as its most recent (R408): 4,096 at most. -/
def remember (vs : List Verdict) (v : Verdict) : List Verdict :=
  (v :: vs.filter (fun x => !(x.chunk == v.chunk && x.digest == v.digest && x.handler == v.handler))).take 4096

/-- The verdict on one chunk, cached or walked, and the cache afterwards. -/
def WalkEnv.verdict (e : WalkEnv) (vs : List Verdict) (id : Nat) (blob : List Byte) : Except Stop Verdict × List Verdict :=
  let dig := annDigest e.gate blob
  match e.reuse vs id dig with
  | some v => (.ok v, remember vs v)
  | none =>
    let v : Verdict := { chunk := id, digest := dig, handler := e.handler }
    match e.walkChunk blob with
    | .error s => (.error s, remember vs { v with accepts := false })
    | .ok (s, gt, k, is) =>
      let v := { v with s := s, gt := gt, pinG := k.pins, imports := is.map (fun x => (x.1, x.2.canon)), facts := k.facts }
      (.ok v, remember vs v)

/-! ## The chunks a kernel reaches (R409) -/

/-- A code object as admission reads it: per chunk its id, words and blob; G's record. -/
structure Admitted where
  ids : List Nat := []
  texts : List (List Word) := []
  blobs : List (List Byte) := []
  gate : BlockRec := {}
  deriving DecidableEq, Repr, Inhabited

/-- What an admission answers: verdicts of the reached chunks in the order reached, and the cache. -/
structure Reached where
  done : List (Nat × Verdict) := []
  cache : List Verdict := []
  deriving DecidableEq, Repr, Inhabited

/-- What the walk of a chunk of an object may look at. -/
def Admitted.env (o : Admitted) (e : WalkEnv) (c : Nat) : WalkEnv :=
  { e with chunk := c, words := o.texts.getD c [], gate := o.gate, textLen := 4096 * o.ids.length }

/-- Every reached chunk gets its verdict; a chunk is reached by the import records of reached chunks. -/
def Admitted.reach (o : Admitted) (e : WalkEnv) : Nat → List Nat → Reached → Reached × Option Stop
  | 0, _, x => (x, none)
  | _, [], x => (x, none)
  | f + 1, c :: todo, x =>
    if x.done.any (fun d => d.1 == c) then Admitted.reach o e f todo x
    else
      match (o.env e c).verdict x.cache (o.ids.getD c 0) (o.blobs.getD c []) with
      | (.error s, vs) => ({ x with cache := vs }, some s)
      | (.ok v, vs) =>
        let more := (v.imports.map (fun y => y.1 / 4096)).filter (fun n => decide (n < o.ids.length))
        Admitted.reach o e f (todo ++ more) { done := x.done ++ [(c, v)], cache := vs }

/-- The block record at a text offset, as its chunk's blob has it. -/
def Admitted.blockAt (o : Admitted) (t : Nat) : Option BlockRec :=
  if t % 8 ≠ 0 then none
  else match readBlob 512 (o.blobs.getD (t / 4096) []) with
    | .ok (bs, _) => bs.find? (fun b => b.start == t % 4096 / 8)
    | .error _ => none

/-- Each import record equals the block record at its target (R409). -/
def Admitted.importsOk (o : Admitted) (done : List (Nat × Verdict)) : Option Stop :=
  (done.flatMap (fun d => d.2.imports.map (fun x => (d.1, x)))).findSome? (fun y =>
    if (o.blockAt y.2.1).any (fun b => b.canon == y.2.2) then none else some { r := cfgR 6 8, chunk := y.1, off := y.2.1 })

/-- A chunk whose last word is a `RECAST` that its walk came to: the block at T + 8 begins the next chunk, and is walked with no
exact accumulator holding a value (spec/01 R43). -/
def Admitted.recastHead (o : Admitted) (e : WalkEnv) (d : Nat × Verdict) : Option Stop :=
  if d.2.s.getLsbD 511 && (o.env e d.1).afterRecast 512 then
    match readBlob 512 (o.blobs.getD (d.1 + 1) []) with
    | .ok (b :: r, is) =>
      let e := { o.env e (d.1 + 1) with blocks := b :: r, imports := is }
      match e.walkWords 0 (nextStart b r) 513 0 0 { k := { e.begin b {} with dead := 0xF } } with
      | .error s => some s
      | .ok _ => none
    | _ => none
  else none

/-- LCK-04 (R422, R428): two guards of one zone, a guard of an undeclared zone, a zone of another world unguarded. -/
def WalkEnv.guardsOk (e : WalkEnv) : Bool :=
  let ks := (List.range 16).filter (fun k => (e.locks.getD k 0).getLsbD 7)
  ks.all (fun k => e.declares (e.locked k)) && (ks.map e.locked).Nodup
    && (e.handler || (List.range 16).all (fun z => !e.l.zoneV z || e.l.ownZone z || (guardOf e.locks z).isSome))

/-- Admission of an object for an entry offset: the verdicts of the chunks it reaches, or where it stops; the cache with
every verdict given on the way. -/
def Admitted.settle (o : Admitted) (e : WalkEnv) (entry : Nat) (cache : List Verdict) : Reached × Option Stop :=
  let c := entry / 4096
  if !e.guardsOk then ({ cache := cache }, some { r := lckR 4 0, chunk := c, off := entry })
  else if o.ids.length ≤ c ∨ entry % 8 ≠ 0 then ({ cache := cache }, some { r := cfgR 4 0, off := entry })
  else match o.reach e (o.ids.length * 513 + 1) [c] { cache := cache } with
    | (x, some s) => (x, some s)
    | (x, none) => match (x.done.findSome? (o.recastHead e)).or (o.importsOk x.done) with
      | some s => (x, some s)
      | none => match o.blockAt entry with
        | some b =>
          if (if e.handler then b.unknownOk else b.startOk) then (x, none)
          else (x, some { r := cfgR 4 8, chunk := c, off := entry })
        | none => (x, some { r := cfgR 4 8, chunk := c, off := entry })

/-- The 64-byte rejection record (R429). -/
def Stop.record (s : Stop) (id : Nat) : List Word :=
  [0x7001#16 ++ BitVec.ofNat 8 s.r.fam ++ BitVec.ofNat 8 s.r.num ++ BitVec.ofNat 4 s.r.opnd ++ 0#28,
   BitVec.ofNat 32 s.block ++ BitVec.ofNat 32 s.instr,
   BitVec.ofNat 32 s.off ++ BitVec.ofNat 32 s.chunk] ++
  (List.range 4).map (fun i => BitVec.ofNat 64 (id / 2 ^ (64 * i))) ++
  [BitVec.ofNat 8 s.r.chk.op ++ BitVec.ofNat 8 s.r.chk.reg ++ BitVec.ofNat 8 s.r.chk.zt ++ BitVec.ofNat 40 s.r.chk.val]

end Sys2Proof.Machine
end

