-- ==== Sys2Proof/Machine/Translate.lean ====
section
/-!
DEFINITION. Load-time translation of Jihal-1 objects (spec/15 R430 to R436, spec/17 R443 to R446): reading the 32-bit words,
homes and spills, expansions and errata, layout in native chunks with their stall counts and annotation blobs.
-/

namespace Sys2Proof

/-- An operand with its vector register renamed. -/
def Opnd.renameV (o : Opnd) (f : Nat → Nat) : Opnd :=
  match o with
  | .v n => .v (BitVec.ofNat 7 (f n.toNat))
  | o => o

/-- The vector register an operand names. -/
def Opnd.vNum? (o : Opnd) : Option Nat :=
  match o with
  | .v n => some n.toNat
  | _ => Option.none

/-- The code of a conversion type (spec/04 R124), as far as Jihal-1 names it. -/
def CTy.j1Code : CTy → BitVec 5
  | .bf16 => 2 | .f16 => 3 | .e5m2 => 4 | .e4m3 => 5 | .i32 => 17 | .n32 => 18
  | _ => 0

end Sys2Proof

namespace Sys2Proof.Machine

/-! ## Words (R430, R431) -/

/-- A Jihal-1 word with its immediate. -/
structure J1Word where
  w : BitVec 32 := 0
  imm : BitVec 32 := 0
  deriving DecidableEq, Repr, Inhabited

def J1Word.op (j : J1Word) : Nat := (j.w.extractLsb' 26 6).toNat
def J1Word.d (j : J1Word) : Nat := (j.w.extractLsb' 16 6).toNat
def J1Word.a (j : J1Word) : Nat := (j.w.extractLsb' 10 6).toNat
def J1Word.b (j : J1Word) : Nat := (j.w.extractLsb' 4 6).toNat
def J1Word.i (j : J1Word) : Bool := j.w.getLsbD 3
def J1Word.t (j : J1Word) : Nat := (j.w.extractLsb' 0 3).toNat

/-- The predicate fields. -/
def J1Word.hdr (j : J1Word) : Hdr := { stall := 0, neg := j.w.getLsbD 25, pred := 0#1 ++ j.w.extractLsb' 22 3 }

/-- What is appended to or put in place of a word's native form (R434, R435). -/
inductive J1Kind where
  | nop | plain | dot | rsq | exp2
  deriving DecidableEq, Repr, Inhabited

/-- A word in native form, its vector registers still those of Jihal-1: whether it reads the destination it writes, and
the Jihal-1 word it branches to. -/
structure Virt where
  kind : J1Kind := .plain
  i : Instr
  reads : Bool := false
  target : Option Nat := none
  deriving DecidableEq, Repr

/-- A native word from its fields, read back by the decoder. -/
def native (opc : Nat) (w : Ops) (mod : BitVec 20) : Adm Instr :=
  let v : WordView := ⟨opc, w, mod⟩
  match decode v.word (w.x.getD 0) with
  | .ok i => .ok i
  | .error e => .error (encR e (encOpnd v.word e))

/-- The MOD bits of the common layout. -/
def aluBits (rm ty : Nat) (imm : BitVec 14) : BitVec 20 := BitVec.ofNat 3 rm ++ BitVec.ofNat 3 ty ++ imm

/-- A vector position. -/
def j1V (n : Nat) : Opnd := .v (BitVec.ofNat 7 n)

/-- A scalar position (R431). -/
def j1G (n pos : Nat) : Adm Opnd :=
  if n < 32 then .ok (.g (BitVec.ofNat 6 n))
  else if n < 48 then .ok (.const (BitVec.ofInt 4 ((n : Int) - 40)))
  else .error (encR .enc03 pos)

/-- A predicate position. -/
def j1P (n pos : Nat) : Adm Opnd := if n < 8 then .ok (.p (BitVec.ofNat 4 n)) else .error (encR .enc03 pos)

/-- A native source for an immediate: a small constant or a short immediate where an integer form takes one, else the
extension word (R431; log entry 33). -/
def j1Imm (cs : List Cls) (flt vec : Bool) (x : BitVec 32) : Opnd × BitVec 14 × Option Word :=
  if !flt && cs.contains .const && decide (-8 ≤ x.toInt ∧ x.toInt ≤ 7) then (.const (x.extractLsb' 0 4), 0, none)
  else if !flt && cs.contains .short && decide (-8192 ≤ x.toInt ∧ x.toInt ≤ 8191) then (.short, x.extractLsb' 0 14, none)
  else (.ext, 0, some (if vec then x.zeroExtend 64 else x.signExtend 64))

/-- The native opcode of Jihal-1 opcodes 0x08 to 0x28 (R432). -/
def j1Opc (op : Nat) : Nat :=
  [0x040, 0x041, 0x042, 0x044, 0x045, 0x049, 0x04A, 0x04B, 0x060, 0x061, 0x062, 0x066, 0x067, 0x069, 0x06A, 0x06B, 0x06E,
   0x06F, 0x063, 0x079, 0x080, 0x081, 0x082, 0x083, 0x088, 0x089, 0x084, 0x093, 0x083, 0x0A0, 0x0A1, 0x0A3, 0x0A4].getD (op - 8) 0

/-- RM and TY of a float T (R431). -/
def j1Float (t : Nat) : Adm (Nat × Nat) := if t < 4 then .error (encR .enc07 4) else .ok (t % 2, t / 2 + 2)

/-- A form that takes no immediate. -/
def J1Word.noImm (j : J1Word) : Adm Unit := must (!j.i) (encR .enc02 3)

/-- A form whose T has no meaning beyond `n` values. -/
def J1Word.tBelow (j : J1Word) (n : Nat) : Adm Unit := must (decide (j.t < n)) (encR .enc07 4)

/-- The second source: the B field, or the immediate where I = 1, when B is 0 (R430). -/
def J1Word.second (j : J1Word) (opc : Nat) (flt vec : Bool) (b : Adm Opnd) : Adm (Opnd × BitVec 14 × Option Word) :=
  if j.i then do
    must (j.b == 0) (encR .enc02 3)
    .ok (j1Imm (match formOf opc with | some f => f.b | none => []) flt vec j.imm)
  else b.map (fun o => (o, 0, none))

/-- A memory offset from the immediate (R432). -/
def J1Word.offset (j : J1Word) : Adm (Opnd × Option Word) := do
  must (j.b == 0 || !j.i) (encR .enc02 3)
  if !j.i then .ok (.none, none)
  else
    let x := j1Imm [.const] false false j.imm
    .ok (x.1, x.2.2)

/-- A branch's target: the immediate counts 32-bit words from the branch (R431); it must begin a block. -/
def J1Word.branch (j : J1Word) (here : Nat) (starts : List Nat) : Adm Nat := do
  must j.i (encR .enc02 3)
  must (j.b == 0) (encR .enc02 3)
  let n := (here : Int) + j.imm.toInt
  must (decide (0 ≤ n) && starts.contains n.toNat) (cfgR 1 0)
  .ok n.toNat

/-- A word that uses no operand field. -/
def j1Ops (h : Hdr) : Ops := { h := h, d := .none, a := .none, b := .none, x := none }

/-- The control words (0x00 to 0x07, 0x34, 0x35). -/
def J1Word.control (j : J1Word) (here : Nat) (starts : List Nat) : Adm Virt := do
  let w := j1Ops j.hdr
  match j.op with
  | 0x00 => do
    let i ← native 0x020 w 0
    .ok { kind := .nop, i := i }
  | 0x01 => do
    j.tBelow 1
    let t ← j.branch here starts
    let i ← native 0x021 w 0
    .ok { i := i, target := some t }
  | 0x02 => do
    let t ← j.branch here starts
    let a ← j1G j.a 2
    let i ← native 0x022 { w with a := a } (aluBits 0 0 (BitVec.ofNat 3 j.t ++ 0#11))
    .ok { i := i, target := some t }
  | 0x03 => do
    j.tBelow 2
    let t ← j.branch here starts
    let a ← j1P j.a 2
    let i ← native 0x023 { w with a := a } (aluBits 0 0 (BitVec.ofNat 1 j.t ++ 0#13))
    .ok { i := i, target := some t }
  | 0x04 | 0x05 | 0x06 => do
    j.noImm
    j.tBelow 1
    let i ← if j.op = 4 then native 0x024 w 0 else if j.op = 5 then native 0x02B w 0 else native 0x1E0 w 2
    .ok { i := i }
  | 0x07 => do
    j.noImm
    j.tBelow 1
    must (decide (j.a ≤ 0x1D)) (encR .enc03 2)
    let d ← if [0, 1, 8, 9].contains j.a then .ok (j1V j.d) else j1G j.d 1
    let i ← native 0x246 { w with d := d } (BitVec.ofNat 20 j.a)
    .ok { i := i }
  | 0x34 => do
    j.tBelow 1
    let d ← j1G j.d 1
    if j.i then do
      let t ← j.branch here starts
      let i ← native 0x025 { w with d := d } 0
      .ok { i := i, target := some t }
    else do
      let a ← j1G j.a 2
      let i ← native 0x025 { w with d := d, a := a } (aluBits 0 0 (1#1 ++ 0#13))
      .ok { i := i }
  | _ => do
    j.noImm
    j.tBelow 1
    let a ← j1G j.a 2
    let i ← native 0x026 { w with a := a } 0
    .ok { i := i }

/-- The scalar and vector integer words (0x08 to 0x1B). -/
def J1Word.ints (j : J1Word) : Adm Virt := do
  let w := j1Ops j.hdr
  let opc := j1Opc j.op
  if j.op < 0x10 then do
    j.tBelow 4
    let d ← j1G j.d 1
    let a ← j1G j.a 2
    let (b, s, x) ← j.second opc false false (j1G j.b 3)
    let i ← native opc { w with d := d, a := a, b := b, x := x } (aluBits 0 j.t s)
    .ok { i := i }
  else if j.op = 0x1A then do
    j.tBelow 6
    let d ← j1P j.d 1
    let (b, _, x) ← j.second opc false true (.ok (j1V j.b))
    let i ← native opc { w with d := d, a := j1V j.a, b := b, x := x } (aluBits 0 0 (BitVec.ofNat 14 j.t))
    .ok { i := i }
  else if j.op = 0x1B then do
    let (b, _, x) ← j.second opc false true (.ok (j1V j.b))
    let i ← native opc { w with d := j1V j.d, a := j1V j.a, b := b, x := x } (aluBits 0 1 (BitVec.ofNat 14 j.t))
    .ok { i := i }
  else do
    j.tBelow 2
    let (b, s, x) ← j.second opc false true (.ok (j1V j.b))
    let i ← native opc { w with d := j1V j.d, a := j1V j.a, b := b, x := x } (aluBits 0 j.t s)
    .ok { i := i }

/-- The vector float words and the special functions (0x1C to 0x28). -/
def J1Word.floats (j : J1Word) : Adm Virt := do
  let w := j1Ops j.hdr
  let opc := j1Opc j.op
  if j.op = 0x22 then do
    let d ← j1P j.d 1
    let (b, _, x) ← j.second opc true true (.ok (j1V j.b))
    let i ← native opc { w with d := d, a := j1V j.a, b := b, x := x } (aluBits 0 4 (BitVec.ofNat 14 j.t))
    .ok { i := i }
  else do
    let (rm, ty) ← j1Float j.t
    if j.op = 0x23 then do
      let (a, _, x) ← if j.i then do
          must (j.b == 0) (encR .enc02 3)
          .ok (j1Imm [.ext] true true j.imm)
        else (.ok (j1V j.a, 0, none) : Adm (Opnd × BitVec 14 × Option Word))
      let i ← native opc { w with d := j1V j.d, a := a, x := x } (aluBits rm ty 0)
      .ok { i := i }
    else if j.op = 0x24 then do
      j.noImm
      must (j.t == 6) (encR .enc07 4)
      let i ← native opc { w with d := j1V j.d, a := j1V j.a, b := j1V j.b } (aluBits 0 5 0)
      .ok { kind := .dot, i := i, reads := true }
    else if 0x25 ≤ j.op then do
      j.noImm
      let i ← native opc { w with d := j1V j.d, a := j1V j.a } (aluBits rm ty 0)
      .ok { kind := if ty = 4 ∧ j.op = 0x26 then .rsq else if ty = 4 ∧ j.op = 0x27 then .exp2 else .plain, i := i }
    else do
      let (b, _, x) ← j.second opc true true (.ok (j1V j.b))
      let i ← native opc { w with d := j1V j.d, a := j1V j.a, b := b, x := x } (aluBits rm ty 0)
      .ok { i := i, reads := j.op == 0x1F }

/-- The conversion, shuffle and vote words (0x29 to 0x2B). -/
def J1Word.cross (j : J1Word) : Adm Virt := do
  let w := j1Ops j.hdr
  j.noImm
  if j.op = 0x29 then do
    j.tBelow 1
    must (decide (j.b ≤ 15)) (encR .enc07 3)
    let c := halfConv (BitVec.ofNat 4 j.b)
    let m : CnvMod := { rm := c.2.2.1, df := c.1.j1Code, sf := c.2.1.j1Code, sat := false,
                        pos := BitVec.ofNat 2 c.2.2.2.1 ++ BitVec.ofNat 2 c.2.2.2.2 ++ 0#2 }
    let i ← native 0x0C0 { w with d := j1V j.d, a := j1V j.a } m.bits
    .ok { i := i, reads := decide (c.1.width < 32) }
  else if j.op = 0x2A then do
    j.tBelow 1
    let m : XlMod := { ty := .i32, fs := false, mode := 1, arg := BitVec.ofNat 10 j.b }
    let i ← native 0x0E0 { w with d := j1V j.d, a := j1V j.a } m.bits
    .ok { i := i }
  else do
    j.tBelow 4
    let d ← if j.t = 3 then j1G j.d 1 else j1P j.d 1
    let a ← j1P j.a 2
    let m : XlMod := { ty := .i32, fs := false, mode := BitVec.ofNat 3 j.t, arg := 0 }
    let i ← native 0x0E2 { w with d := d, a := a } m.bits
    .ok { i := i }

/-- The memory words (0x2C to 0x33). -/
def J1Word.memory (j : J1Word) : Adm Virt := do
  let w := j1Ops j.hdr
  if j.op = 0x33 then do
    j.noImm
    j.tBelow 1
    let i ← native 0x180 w ({ obs := 3, lve := false, lv := 0 } : FnMod).bits
    .ok { i := i }
  else if j.op = 0x32 then do
    j.tBelow 4
    let d ← j1G j.d 1
    let a ← j1G j.a 2
    let (b, _, x) ← j.second 0x160 false false (j1G j.b 3)
    let m : AtMod := { op := BitVec.ofNat 4 ([0, 4, 5, 6].getD j.t 0), mark := 0, obs := 0, ty := .n32, sc := 0 }
    let i ← native 0x160 { w with d := d, a := a, b := b, x := x } m.bits
    .ok { i := i }
  else do
    j.tBelow (if j.op < 0x2E then 4 else 2)
    let a ← j1G j.a 2
    let d ← if j.op < 0x2E then j1G j.d 1 else .ok (j1V j.d)
    let m : MemMod := { w := if 2 ≤ j.t then 3 else 2, sx := j.op == 0x2C && j.t == 0, mark := 0, obs := 0, sc := 0 }
    if 0x30 ≤ j.op then do
      j.noImm
      let i ← native (j.op - 0x30 + 0x144) { w with d := d, a := a, b := j1V j.b } m.bits
      .ok { i := i }
    else do
      let (b, x) ← j.offset
      let i ← native (j.op - 0x2C + 0x140) { w with d := d, a := a, b := b, x := x } m.bits
      .ok { i := i }

/-- The native form of a Jihal-1 word (R432). -/
def J1Word.virt (j : J1Word) (here : Nat) (starts : List Nat) : Adm Virt :=
  if j.op ≤ 0x07 ∨ j.op = 0x34 ∨ j.op = 0x35 then j.control here starts
  else if 0x36 ≤ j.op then .error (encR .enc01 0)
  else if j.op ≤ 0x1B then j.ints
  else if j.op ≤ 0x28 then j.floats
  else if j.op ≤ 0x2B then j.cross
  else j.memory

/-! ## Homes and spills (R433, R443) -/

/-- Where the vector registers stand: the budget, the spilled registers in slot order, the others in ascending order. -/
structure Homes where
  budget : Nat := 4
  spills : List Nat := []
  homes : List Nat := []
  deriving DecidableEq, Repr, Inhabited

/-- A spilled register's slot. -/
def Homes.slot? (z : Homes) (x : Nat) : Option Nat := z.spills.idxOf? x

/-- The operand fields of a word that name a vector register. -/
def Virt.refs (v : Virt) : List Nat :=
  match v.i.view with
  | some x => [x.ops.d, x.ops.a, x.ops.b].filterMap Opnd.vNum?
  | none => []

/-- A register put into the order in which registers spill: fewest references first, ties to the higher number. -/
def spillInsert (count : Nat → Nat) (x : Nat) : List Nat → List Nat
  | [] => [x]
  | y :: r => if count x < count y ∨ (count x = count y ∧ y < x) then x :: y :: r else y :: spillInsert count x r

/-- The assignment (R433); none when too few registers are eligible. `bound` are the registers that an annotation types
other than `int` or that a relation names. -/
def assignHomes (budget : Nat) (refs bound : List Nat) : Option Homes :=
  let used := (List.range 64).filter (fun x => refs.contains x || bound.contains x)
  let need := used.length + 4 - budget
  let order := (used.filter (fun x => !bound.contains x)).foldl (fun l x => spillInsert refs.count x l) []
  if order.length < need then none
  else
    let sp := order.take need
    some { budget := budget, spills := sp, homes := used.filter (fun x => !sp.contains x) }

/-- A native word, with the Jihal-1 word it branches to. -/
structure Emit where
  i : Instr
  target : Option Nat := none
  deriving DecidableEq, Repr

/-- The address operands of a spill slot: `g55` and its offset. -/
def spillOps (h : Hdr) (reg slot : Nat) : Ops :=
  let off := j1Imm [.const] false false (BitVec.ofNat 32 (128 * slot))
  { h := h, d := j1V reg, a := .g 55, b := if slot = 0 then .none else off.1, x := if slot = 0 then none else off.2.2 }

/-- `VLD.n32`, without predicate, from a slot. -/
def spillLoad (reg slot : Nat) : Adm Instr := native 0x142 (spillOps (j1Ops (J1Word.hdr {})).h reg slot) (2#3 ++ 0#17)

/-- `VST.n32` into a slot, under the word's predicate. -/
def spillStore (h : Hdr) (reg slot : Nat) : Adm Instr := native 0x143 (spillOps h reg slot) (2#3 ++ 0#17)

/-- A vector word of an expansion. -/
def expWord (opc ty : Nat) (h : Hdr) (d a b : Opnd) (x : Option Word) : Adm Instr :=
  native opc { h := h, d := d, a := a, b := b, x := x } (aluBits 0 ty 0)

/-- `VFDOT2R` (R434). -/
def dotWords (h : Hdr) (t u : Nat) (d a b : Opnd) : Adm (List Instr) := do
  let t := j1V t
  let u := j1V u
  let i1 ← expWord 0x082 5 h t a b none
  let i2 ← native 0x067 { h := h, d := u, a := t, b := .short, x := none } (aluBits 0 1 16)
  let i3 ← expWord 0x080 5 h t t u none
  let i4 ← expWord 0x080 5 h t t d none
  let i5 ← expWord 0x069 1 h t t .ext (some 0xFFFF)
  let i6 ← expWord 0x069 1 h d d .ext (some 0xFFFF0000)
  let i7 ← expWord 0x06A 1 h d d t none
  .ok [i1, i2, i3, i4, i5, i6, i7]

/-- What follows a word whose published erratum is emulated (R435). -/
def errataWords (k : J1Kind) (h : Hdr) (d : Opnd) : Adm (List Instr) :=
  match k with
  | .rsq => do
    let i ← expWord 0x088 4 h d d .ext (some 0x7F7FFFFF)
    .ok [i]
  | .exp2 => do
    let i1 ← native 0x05B { h := (J1Word.hdr {}), d := .p 15, a := .const 0, b := .none, x := none } (aluBits 0 1 0)
    let i2 ← native 0x084 { h := h, d := .p 15, a := d, b := .ext, x := some 0x00800000 } (aluBits 0 4 2)
    let i3 ← native 0x07C { h := { stall := 0, neg := false, pred := 15 }, d := d, a := .const 0, b := .none, x := none }
      (aluBits 0 1 0)
    .ok [i1, i2, i3]
  | _ => .ok []

/-- The spilled sources, each once, with the scratch registers that take them, from `k` on. -/
def Homes.sources (z : Homes) (xs : List Nat) (k : Nat) : List (Nat × Nat) :=
  xs.foldl (fun l x => if l.any (fun e => e.1 == x) || (z.slot? x).isNone then l else l ++ [(x, k + l.length)]) []

/-- The native words of one Jihal-1 word (R433 to R435, R443). -/
def Homes.emit (z : Homes) (v : Virt) : Adm (List Emit) := do
  match v.i.view with
  | none => .ok []
  | some x =>
    let f := formOf x.opc
    let writes := (f.map (·.dWrite)).getD false
    let dst := if writes then x.ops.d.vNum? else none
    let stored := if writes then [] else x.ops.d.vNum?.toList
    let srcs := x.ops.a.vNum?.toList ++ x.ops.b.vNum?.toList ++ stored
    let reads := v.reads || dst.any (fun d => srcs.contains d)
    let dSlot := dst.bind z.slot?
    let first ← match dSlot with
      | some k => if reads then (spillLoad (z.budget - 1) k).map (fun i => [i]) else .ok []
      | none => .ok []
    let temps := z.sources (srcs.filter (fun y => dst != some y)) (z.budget - 4)
    let loads ← temps.mapM (fun e => spillLoad e.2 ((z.slot? e.1).getD 0))
    let name (y : Nat) : Nat :=
      if dst = some y ∧ dSlot.isSome then z.budget - 1
      else match temps.find? (fun e => e.1 == y) with
        | some e => e.2
        | none => (z.homes.idxOf? y).getD y
    let d := x.ops.d.renameV name
    let a := x.ops.a.renameV name
    let b := x.ops.b.renameV name
    let h := x.ops.h
    let body ← (match v.kind with
      | .nop => .ok []
      | .dot => dotWords h (z.budget - 4) (z.budget - 3) d a b
      | _ => (native x.opc { x.ops with d := d, a := a, b := b } x.mod).map (fun i => [i]) : Adm (List Instr))
    let extra ← errataWords v.kind h d
    let last ← match dSlot with
      | some k => (spillStore h (z.budget - 1) k).map (fun i => [i])
      | none => .ok []
    .ok ((first ++ loads).map (fun i => { i := i }) ++ body.map (fun i => { i := i, target := v.target })
      ++ (extra ++ last).map (fun i => { i := i }))

/-- The prologue (R433). -/
def prologue : Adm (List Emit) := do
  let i1 ← native 0x246 { h := (J1Word.hdr {}), d := .g 55, a := .none, b := .none, x := none } 0x1B
  let i2 ← native 0x040 { h := (J1Word.hdr {}), d := .g 55, a := .g 55, b := .short, x := none } (aluBits 0 2 1024)
  .ok [{ i := i1 }, { i := i2 }]

/-! ## Annotations (R412, R433, R436) -/

/-- The operand code of a register after translation; none for a spilled register or one without a home. -/
def Homes.code (z : Homes) (r : Nat) : Adm (Option Nat) :=
  if 0x80 ≤ r then (if r < 0xA0 then .ok (some r) else .error (typR 9 8))
  else if 64 ≤ r then .error (typR 9 8)
  else .ok (z.homes.idxOf? r)

/-- The TYPE and ARG fields of a type (R412). -/
def RegTy.bits : RegTy → Nat
  | .int => 0
  | .idx => 32
  | .ptr z => 64 + z
  | .sptr => 96
  | .handle => 128
  | .lock k => 160 + k
  | .code => 192

/-- The two words of a relation (R412). -/
def Rel.words (r : Rel) : List Nat :=
  match r with
  | .diff x y c => [x * 2 ^ 54 + y * 2 ^ 46, (BitVec.ofInt 64 c).toNat]
  | .fin p s x z e => [2 ^ 62 + x * 2 ^ 54 + p * 2 ^ 46 + z * 2 ^ 41 + s.log2 * 2 ^ 38, e]

/-- The bytes of a block record that begins at a word of its chunk. -/
def recordBytes (start : Nat) (typ : List (Nat × RegTy)) (rels : List Rel) (holds : BitVec 16) : List Byte :=
  let ts := typ.flatMap (fun t => bytesOf 2 (t.1 * 256 + t.2.bits))
  bytesOf 8 (typ.length * 2 ^ 56 + rels.length * 2 ^ 48 + holds.toNat * 2 ^ 32 + start)
    ++ ts ++ List.replicate ((8 - ts.length % 8) % 8) 0 ++ rels.flatMap (fun r => r.words.flatMap (bytesOf 8))

/-- A translated annotation: its types and relations, with those of `g55` when it gains them. -/
def Homes.annotation (z : Homes) (b : BlockRec) (gain : Bool) : Adm (List (Nat × RegTy) × List Rel) := do
  let typ ← b.typ.mapM (fun t => (z.code t.1).map (fun c => c.map (fun r => (r, t.2))))
  let at' (r : Nat) : Adm Nat := (z.code r).map (fun c => c.getD 0)
  let rels ← b.rels.mapM (fun r => match r with
    | .diff x y c => do
      let x ← at' x
      let y ← at' y
      .ok (Rel.diff x y c)
    | .fin p s x w e => do
      let p ← at' p
      let x ← at' x
      .ok (Rel.fin p s x w e))
  .ok (typ.filterMap id ++ (if gain then [(0xB7, RegTy.ptr 16)] else []),
       rels ++ (if gain then [Rel.fin 0xB7 1 g0 16 (128 * z.spills.length)] else []))

/-! ## Layout (R436) -/

/-- A native block: the Jihal-1 word it stands for, whose annotation it has, and its words. A block of padding stands for the
block after it. -/
structure J1Block where
  start : Nat := 0
  pad : Bool := false
  words : List Emit := []
  deriving DecidableEq, Repr

/-- The bytes of a block. -/
def J1Block.size (b : J1Block) : Nat := (b.words.map (fun e => e.i.size)).sum

/-- Control may go on past a word. -/
def goesOn (i : Instr) : Bool :=
  match i with
  | .bra _ _ | .exit _ _ | .ret _ _ => i.hdr.predicated
  | _ => true

/-- Control may go on past a block. -/
def J1Block.passes (b : J1Block) : Bool := match b.words.getLast? with
  | some e => goesOn e.i
  | none => true

/-- A plain `NOP`. -/
def nopEmit : Emit := { i := .nop (j1Ops { stall := 0, neg := false, pred := 0 }) { rm := .rne, ty := .i32, imm := 0 } }

/-- Blocks given their byte offsets: a block that does not fit in what is left of a chunk begins the next, and a block
that control leaves at its end is followed by padding (log entry 33). -/
def placeBlocks : List J1Block → Option J1Block → Nat → List (Nat × J1Block)
  | [], _, _ => []
  | b :: r, last, pos =>
    let room := 4096 - pos % 4096
    if room < b.size then
      (if last.any J1Block.passes then [(pos, { start := b.start, pad := true, words := List.replicate (room / 8) nopEmit })] else [])
        ++ (pos + room, b) :: placeBlocks r (some b) (pos + room + b.size)
    else (pos, b) :: placeBlocks r (some b) (pos + b.size)

/-- The offset at which a Jihal-1 block's translation begins. -/
def blockPos (ps : List (Nat × J1Block)) (start : Nat) : Nat :=
  ((ps.find? (fun p => p.2.start == start && !p.2.pad)).map (·.1)).getD 0

/-- The bits of a branch's short offset field. -/
def branchBits (i : Instr) : Nat :=
  match i with
  | .bra _ _ => 14
  | .brc _ _ => 11
  | _ => 13

/-- A signed byte offset fits the short field. -/
def fitsOff (bits : Nat) (off : Int) : Bool := decide (-(2 ^ (bits - 1) : Int) ≤ off / 8 ∧ off / 8 < 2 ^ (bits - 1))

/-- A branch with its offset put in; `short` in the full form, else in the wide form. -/
def putOffset (i : Instr) (off : Int) (short : Bool) : Instr :=
  let put (w : Ops) (m : AluMod) : Ops × AluMod :=
    if short then (w, { m with imm := m.imm ||| ((BitVec.ofInt 14 (off / 8)) &&& BitVec.ofNat 14 (2 ^ branchBits i - 1)) })
    else ({ w with b := .ext, x := some (BitVec.ofInt 64 off) }, m)
  match i with
  | .bra w m => .bra (put w m).1 (put w m).2
  | .brc w m => .brc (put w m).1 (put w m).2
  | .brv w m => .brv (put w m).1 (put w m).2
  | .call w m => .call (put w m).1 (put w m).2
  | i => i

/-- Words with their byte offsets. -/
def offsets : Nat → List Emit → List (Nat × Emit)
  | _, [] => []
  | n, e :: r => (n, e) :: offsets (n + e.i.size) r

/-- The branches of a block whose offset does not fit made wide. -/
def J1Block.widen (ps : List (Nat × J1Block)) (pos : Nat) (b : J1Block) : J1Block :=
  { b with words := (offsets pos b.words).map (fun x => match x.2.target with
      | some t =>
        let off := (blockPos ps t : Int) - x.1
        if x.2.i.size = 8 ∧ !fitsOff (branchBits x.2.i) off then { x.2 with i := putOffset x.2.i 0 false } else x.2
      | none => x.2) }

/-- Placed blocks with every branch in a form its offset fits (spec/05 R137). -/
def settle : Nat → List J1Block → List (Nat × J1Block)
  | 0, bs => placeBlocks bs none 0
  | n + 1, bs =>
    let ps := placeBlocks bs none 0
    let bs' := (ps.filter (fun p => !p.2.pad)).map (fun p => p.2.widen ps p.1)
    if bs' == bs then ps else settle n bs'

/-- The offsets put into a block's branches. -/
def J1Block.resolve (ps : List (Nat × J1Block)) (pos : Nat) (b : J1Block) : J1Block :=
  { b with words := (offsets pos b.words).map (fun x => match x.2.target with
      | some t =>
        let off := (blockPos ps t : Int) - x.1
        { x.2 with i := if x.2.i.size = 8 then putOffset x.2.i off true else putOffset x.2.i off false }
      | none => x.2) }

/-! ## Stall counts (spec/03 R97) -/

/-- A word with its STALL field set. -/
def putStall (i : Instr) (n : Nat) : Instr :=
  match i.view with
  | none => i
  | some v => match build v.opc { v.ops with h := { v.ops.h with stall := BitVec.ofNat 3 n } } v.mod with
    | .ok j => j
    | .error _ => i

/-- What stalling: pending results with their distance, and the words so far, last first, each with its stall. -/
structure Stalls where
  pend : List Pend := []
  done : List (Emit × Nat) := []
  deriving DecidableEq, Repr

/-- The last word's stall raised. -/
def Stalls.raise (s : Stalls) (n : Nat) : Stalls :=
  match s.done with
  | (e, k) :: r => { pend := s.pend.map (fun p => { p with dist := p.dist + n }), done := (e, k + n) :: r }
  | [] => s

/-- The cycles still missing for a set of pending results. -/
def shortBy (ps : List Pend) : Nat := ps.foldl (fun m p => Nat.max m (p.lat - p.dist)) 0

/-- One word taken in. -/
def Stalls.word (s : Stalls) (e : Emit) : Stalls :=
  let rs := e.i.readRegs
  let s := s.raise (shortBy (s.pend.filter (fun p => rs.contains p.reg)))
  { pend := pendAfter s.pend e.i e.i.occ 0, done := (e, 0) :: s.done }

/-- The words of a block with the least stall counts (spec/03 R87, R97). -/
def J1Block.stalled (b : J1Block) : J1Block :=
  let s := b.words.foldl Stalls.word {}
  let s := if b.passes || (match b.words.getLast? with
      | some e => (match e.i with | .exit _ _ => false | _ => true)
      | none => false) then s.raise (shortBy s.pend) else s
  { b with words := s.done.reverse.map (fun x => { x.1 with i := putStall x.1.i x.2 }) }

/-! ## The translation of an object -/

/-- Why the translator refuses a load: a load error, or a rejection in Jihal-1 terms (R433, R436). -/
inductive J1Fail where
  | load (code : BitVec 8)
  | reject (s : Stop)
  deriving DecidableEq, Repr

/-- A native object (R436): chunks, their blobs, the gate record, the offset of the entry. -/
structure J1Out where
  texts : List (List Word) := []
  blobs : List (List Byte) := []
  gate : List Byte := []
  entry : Nat := 0
  deriving DecidableEq, Repr

/-- The Jihal-1 word at an index of the text. -/
def j1At (texts : List (List Word)) (i : Nat) : BitVec 32 :=
  let w := (texts.getD (i / 1024) []).getD (i % 1024 / 2) 0
  if i % 2 = 0 then w.extractLsb' 0 32 else w.extractLsb' 32 32

/-- A Jihal-1 block: its chunk, its number there, the word it begins at and the word at which it ends, its record. -/
structure J1Src where
  chunk : Nat := 0
  block : Nat := 0
  start : Nat := 0
  stop : Nat := 0
  record : BlockRec := {}
  deriving DecidableEq, Repr

/-- The blocks of a chunk, from its records. -/
def j1Sources (chunk : Nat) : List BlockRec → Nat → List J1Src
  | [], _ => []
  | b :: r, n =>
    { chunk := chunk, block := n, start := 1024 * chunk + b.start,
      stop := 1024 * chunk + (match r with | c :: _ => c.start | [] => 1024), record := b } :: j1Sources chunk r (n + 1)

/-- The words of a block in native form. -/
def J1Src.virts (texts : List (List Word)) (starts : List Nat) (b : J1Src) : Nat → Nat → Nat → Except J1Fail (List Virt)
  | 0, _, _ => .ok []
  | f + 1, i, n =>
    if b.stop ≤ i then .ok []
    else
      let fail {α : Type} (r : AdmRej) : Except J1Fail α :=
        .error (.reject { r := r, chunk := b.chunk, block := b.block, instr := n, off := 4 * i })
      let j : J1Word := { w := j1At texts i, imm := j1At texts (i + 1) }
      if j.i && i + 1 == b.stop then (if (i + 1) % 1024 = 0 then fail (encR .enc05 0) else fail (cfgR 1 0))
      else match j.virt i starts with
        | .error r => fail r
        | .ok v => match J1Src.virts texts starts b f (if j.i then i + 2 else i + 1) (n + 1) with
          | .ok vs => .ok (v :: vs)
          | .error e => .error e

/-- An annotation's rejection placed at its chunk. -/
def atChunk {α : Type} (c : Nat) (a : Adm α) : Except J1Fail α :=
  match a with
  | .ok x => .ok x
  | .error r => .error (.reject { r := r, chunk := c, off := 4096 * c })

/-- The blocks of every chunk; a chunk begins a block. -/
def j1Blocks (blobs : List (List Byte)) : Except J1Fail (List J1Src) :=
  ((List.range blobs.length).mapM (fun c => atChunk c (do
    let (bs, is) ← readBlob 1024 (blobs.getD c [])
    must (is.all (fun x => !x.2.bad)) (typR 9 8)
    must (bs.head?.map (·.start) == some 0) (cfgR 5 0)
    .ok (j1Sources c bs 0)))).map List.flatten

/-- The vector registers that annotations type other than `int` or that relations name (R433). -/
def boundRegs (rs : List BlockRec) : List Nat :=
  rs.flatMap (fun b => (b.typ.filter (fun t => t.2 != .int && decide (t.1 < 64))).map (·.1) ++
    b.rels.flatMap (fun r => match r with
      | .diff x y _ => [x, y].filter (fun n => decide (n < 64))
      | .fin _ _ x _ _ => [x].filter (fun n => decide (n < 64))))

/-- The text of a chunk: its blocks' words from their offsets, then plain `NOP`s. -/
def chunkText (ps : List (Nat × J1Block)) (c : Nat) : List Word :=
  let ws := (ps.filter (fun p => p.1 / 4096 == c)).flatMap (fun p => p.2.words.flatMap (fun e => encode e.i))
  ws ++ List.replicate (512 - ws.length) plainNop

/-- The offsets outside a chunk that its blocks go to. -/
def chunkExits (ps : List (Nat × J1Block)) (c : Nat) : List Nat :=
  let mine := ps.filter (fun p => p.1 / 4096 == c)
  let far := mine.flatMap (fun p => p.2.words.filterMap (fun e => e.target.map (blockPos ps)))
  let next := mine.filterMap (fun p =>
    if p.1 + p.2.size = 4096 * (c + 1) ∧ p.2.passes ∧ ps.any (fun q => q.1 == 4096 * (c + 1)) then some (4096 * (c + 1)) else none)
  ((far ++ next).filter (fun t => t / 4096 != c)).eraseDups

/-- Jihal-1 code made native (R433, R436). `budget` is the header's BUDGET, `entry` the launch's ENTRY. -/
def translateJ1 (texts : List (List Word)) (blobs : List (List Byte)) (locks gate : List Byte) (budget entry : Nat) :
    Except J1Fail J1Out := do
  let srcs ← j1Blocks blobs
  match srcs.find? (fun b => b.record.bad) with
  | some b => .error (.reject { r := typR 9 8, chunk := b.chunk, block := b.block, off := 4 * b.start })
  | none => .ok ()
  let g ← atChunk 0 (readGate locks gate)
  let starts := srcs.map (·.start)
  if entry % 4 = 0 ∧ starts.contains (entry / 4) then .ok ()
    else .error (.reject { r := cfgR 4 0, chunk := entry / 4096, off := entry })
  let vs ← srcs.mapM (fun b => (b.virts texts starts 1025 b.start 0).map (fun x => (b, x)))
  match assignHomes budget (vs.flatMap (fun x => x.2.flatMap Virt.refs)) (boundRegs (g :: srcs.map (·.record))) with
  | none => .error (.load 0x85)
  | some z => do
    let spilled := !z.spills.isEmpty
    let bs ← vs.mapM (fun x => atChunk x.1.chunk (do
      let pro ← if spilled && x.1.start == entry / 4 then prologue else .ok []
      let ws ← x.2.mapM z.emit
      let all := pro ++ ws.flatten
      .ok ({ start := x.1.start, words := if all.isEmpty then [nopEmit] else all } : J1Block)))
    let ps := settle ((bs.map (fun b => b.words.length)).sum + 1) bs
    if ps.any (fun p => decide (4096 < p.2.size)) then .error (.load 0x85) else .ok ()
    let ps := ps.map (fun p => (p.1, (p.2.resolve ps p.1).stalled))
    let note (q : Nat × J1Block) : Adm (List (Nat × RegTy) × List Rel × BitVec 16) := do
      let r := ((srcs.find? (fun b => b.start == q.2.start)).map (·.record)).getD {}
      let (t, l) ← z.annotation r (spilled && q.2.start != entry / 4)
      .ok (t, l, r.holds)
    let n := (ps.foldl (fun m p => Nat.max m (p.1 + p.2.size)) 0 + 4095) / 4096
    let blobs' ← (List.range n).mapM (fun c => atChunk 0 (do
      let bl ← (ps.filter (fun p => p.1 / 4096 == c)).mapM (fun p => (note p).map (fun r =>
        recordBytes (p.1 % 4096 / 8) r.1 r.2.1 r.2.2))
      let im ← (chunkExits ps c).mapM (fun t => match ps.find? (fun p => p.1 == t) with
        | some p => (note p).map (fun r => bytesOf 8 t ++ recordBytes (t % 4096 / 8) r.1 r.2.1 r.2.2)
        | none => .ok [])
      .ok (bytesOf 8 (bl.length * 2 ^ 48 + im.length * 2 ^ 32) ++ bl.flatten ++ im.flatten)))
    let (gt, gl) ← atChunk 0 (z.annotation g spilled)
    .ok { texts := (List.range n).map (chunkText ps), blobs := blobs',
          gate := if gt.isEmpty && gl.isEmpty && g.holds == 0 then [] else recordBytes 0 gt gl g.holds,
          entry := blockPos ps (entry / 4) }

end Sys2Proof.Machine
end

