-- ==== Sys2Proof/Machine/Load.lean ====
section
/-!
DEFINITION. Loading code objects: the header (spec/15 R404), the hash tree (R405), the object table and the chunk store (R406,
R407), admission with its verdict cache (R408, R409); handler objects (spec/18 R455, spec/20 R486); and `SEALREQ` (R437).
-/

namespace Sys2Proof.Machine

/-! ## Refusals -/

/-- Why a load is refused: the load error of R320, and the rejection record of R429. -/
structure Refused where
  code : BitVec 8
  note : Option (List Word) := none
  deriving DecidableEq, Repr, Inhabited

/-- An answer of a check that may read memory. -/
abbrev Ck (α : Type) := State × Except Refused α

/-- A check after another. -/
def Ck.then {α β : Type} (x : Ck α) (f : State → α → Ck β) : Ck β :=
  match x with
  | (s, .ok a) => f s a
  | (s, .error e) => (s, .error e)

/-- The load error `code` unless `c`. -/
def orRefuse {α : Type} (s : State) (c : Bool) (code : BitVec 8) (f : State → Ck α) : Ck α :=
  if c then f s else (s, .error { code := code })

/-! ## The header (R404) -/

/-- A header's fields. -/
structure ObjHdr where
  set : Nat := 3
  budget : Nat := 0
  nchunk : Nat := 0
  nerr : Nat := 0
  text : Nat := 0
  ann : Nat := 0
  gate : Nat := 0
  root : Nat := 0
  zones : Word := 0
  locks : List Byte := []
  deriving DecidableEq, Repr, Inhabited

/-- The header in 128 bytes; none when a field is out of its range (R404, R435). -/
def parseHdr (bs : List Byte) : Option ObjHdr :=
  let w (i : Nat) : Word := wordOf ((bs.drop (8 * i)).take 8)
  let err (i : Nat) : Nat := natOf ((bs.drop (0x40 + 4 * i)).take 4)
  let set := wfield (w 0) 56 8
  let budget := wfield (w 0) 48 8
  let nerr := wfield (w 0) 28 4
  let locks := (bs.drop 0x68).take 16
  let ok : Bool :=
    decide ((set = 1 ∧ 16 ≤ budget ∧ budget ≤ 128 ∧ budget % 8 = 0) ∨ (set = 3 ∧ budget = 0))
      && decide (1 ≤ wfield (w 0) 32 16 ∧ nerr ≤ 8 ∧ wfield (w 0) 0 28 = 0)
      && [1, 2, 3].all (fun i => wfield (w i) 54 10 == 0) && wfield (w 1) 0 12 == 0
      && (List.range 8).all (fun i => if i < nerr then err i / 2 ^ 24 == set else err i == 0)
      && locks.all (fun b => b.extractLsb' 4 3 == 0) && w 15 == 0
  if ok then some { set := set, budget := budget, nchunk := wfield (w 0) 32 16, nerr := nerr, text := wfield (w 1) 0 54,
                    ann := wfield (w 2) 0 54, gate := wfield (w 3) 0 54, root := natOf ((bs.drop 0x20).take 32),
                    zones := w 12, locks := locks }
  else none

/-- The header at an address of a partition. -/
def State.readHdr (s : State) (p va : Nat) : Ck ObjHdr :=
  orRefuse s (va % 128 == 0) 0x85 (fun s => match s.fwReadAll p va 128 with
    | (s, none) => (s, .error { code := 0x85 })
    | (s, some bs) => match parseHdr bs with
      | some h => (s, .ok h)
      | none => (s, .error { code := 0x85 }))

/-! ## The hash tree (R405) -/

/-- One level of the tree from the one below. -/
def treeLevel : List Nat → List Nat
  | a :: b :: r => idOf (bytesOf 32 a ++ bytesOf 32 b) :: treeLevel r
  | l => l

/-- The root over chunk ids. -/
def treeRoot : Nat → List Nat → Nat
  | 0, l => l.headD 0
  | n + 1, l => if l.length ≤ 1 then l.headD 0 else treeRoot n (treeLevel l)

/-- The words of a chunk's bytes. -/
def chunkWords (bs : List Byte) : List Word := (List.range 512).map (fun i => wordOf ((bs.drop (8 * i)).take 8))

/-- The bytes of a chunk's words. -/
def chunkBytes (ws : List Word) : List Byte := ws.flatMap (fun w => bytesOf 8 w.toNat)

/-! ## Reading an object -/

/-- An object's parts as read: chunk ids, words (none where a chunk could not be read as it was), blobs, gate record. -/
structure ObjSrc where
  ids : List Nat := []
  texts : List (Option (List Word)) := []
  blobs : List (List Byte) := []
  gate : List Byte := []
  deriving DecidableEq, Repr, Inhabited

/-- Checks over a list, in order. -/
def ckAll {α β : Type} (f : State → α → Ck β) : State → List α → Ck (List β)
  | s, [] => (s, .ok [])
  | s, a :: r => (f s a).then (fun s b => (ckAll f s r).then (fun s bs => (s, .ok (b :: bs))))

/-- Bytes of the partition that the load needs. -/
def State.loadBytes (s : State) (p va n : Nat) : Ck (List Byte) :=
  match s.fwReadAll p va n with
  | (s, some bs) => (s, .ok bs)
  | (s, none) => (s, .error { code := 0x85 })

/-- The blob that entry `k` of the annotation index names (R404). -/
def State.loadBlob (s : State) (p : Nat) (h : ObjHdr) (k : Nat) : Ck (List Byte) :=
  (s.loadBytes p (h.ann + 16 * k) 16).then (fun s bs =>
    let a := wordOf (bs.take 8)
    let n := wordOf (bs.drop 8)
    orRefuse s (decide (a.toNat < 2 ^ 54 ∧ n.toNat < 2 ^ 32)) 0x85 (fun s => s.loadBytes p a.toNat n.toNat))

/-- The gate record (R412): its first word gives its length. -/
def State.loadGate (s : State) (p : Nat) (h : ObjHdr) : Ck (List Byte) :=
  if h.gate = 0 then (s, .ok [])
  else (s.loadBytes p h.gate 8).then (fun s bs => s.loadBytes p h.gate (recordLen bs))

/-- Every part of an object, its tree checked against ROOT (R406 step 2). -/
def State.readObject (s : State) (p : Nat) (h : ObjHdr) : Ck ObjSrc :=
  (ckAll (fun s k => s.loadBytes p (h.text + 4096 * k) 4096) s (List.range h.nchunk)).then (fun s cs =>
    let ids := cs.map idOf
    orRefuse s (treeRoot 17 ids == h.root) 0x85 (fun s =>
      (ckAll (fun s k => s.loadBlob p h k) s (List.range h.nchunk)).then (fun s bl =>
        (s.loadGate p h).then (fun s g =>
          (s, .ok { ids := ids, texts := cs.map (fun c => some (chunkWords c)), blobs := bl, gate := g })))))

/-- An object of the table (R406 step 1): its stored chunks, and those out of the store read again from TEXT (step 5). -/
def State.reuseObject (s : State) (p : Nat) (h : ObjHdr) (o : CodeObj) : State × ObjSrc :=
  let r := o.chunks.zipIdx.foldl (fun (r : State × List (Option (List Word))) e =>
    let c := (r.1.part p).chunks.look e.1
    if c.isSealed then (r.1, r.2 ++ [some c.words])
    else match r.1.fwReadAll p (h.text + 4096 * e.2) 4096 with
      | (s, some bs) => (s, r.2 ++ [if idOf bs = e.1 then some (chunkWords bs) else none])
      | (s, none) => (s, r.2 ++ [none])) (s, [])
  (r.1, { ids := o.chunks, texts := r.2, blobs := o.blobs, gate := o.gate })

/-! ## The object table and the chunk store (R406) -/

/-- The object of the table under a root, of the set 1 also under its budget and entry (R405, R436). -/
def Partition.findObj (q : Partition) (set root budget entry : Nat) : Option (Nat × CodeObj) :=
  q.objs.find? (fun e => e.2.used && e.2.root == root && e.2.set == set
    && (set == 3 || (e.2.budget == budget && e.2.srcEntry == entry)))

/-- The lowest free object handle. -/
def Partition.freeOh (q : Partition) : Option Nat :=
  (List.range (q.objs.length + 1)).find? (fun n => !(q.objs.look n).used && decide (n < 4194304))

/-- The chunks that must stay: those of handler objects and of objects that active launches refer to (R406 step 7). -/
def State.keptChunks (s : State) (p : Nat) : List Nat :=
  let live := s.launches.flatMap (fun e =>
    if e.2.part = p ∧ (e.2.st = .active ∨ e.2.st = .failing) then e.2.oh :: e.2.sealedOh else [])
  (s.part p).objs.flatMap (fun e => if e.2.handler || live.contains e.1 then e.2.chunks else [])

/-- Room for chunks in the store: 64 in each of its frames. -/
def Partition.storeRoom (q : Partition) : Nat := 64 * q.storeFrames.length

/-- Chunks put into the store, each id once, sealed with its marks (R407, R409); one already sealed keeps its own (log entry 34).
None when the store has no room, chunks that no launch refers to having been dropped. -/
def State.pageIn (s : State) (p : Nat) (cs : List (Nat × Chunk)) : Option State :=
  let q := s.part p
  let new := cs.foldl (fun (m : List (Nat × Chunk)) c =>
    if (q.chunks.look c.1).isSealed || m.any (fun d => d.1 == c.1) then m else m ++ [c]) []
  let old := if q.storeRoom < q.chunks.length + new.length
    then q.chunks.filter (fun e => (s.keptChunks p).contains e.1 || cs.any (fun c => c.1 == e.1)) else q.chunks
  if q.storeRoom < old.length + new.length then none
  else some (s.modPart p (fun q => { q with chunks := new.foldl (fun m c => m.put c.1 c.2) old }))

/-! ## Admission (R408, R409) -/

/-- A launch's code: object handle, entry address, pinned registers. -/
structure Loaded where
  oh : Nat := 0
  entry : Addr := 0
  pinG : BitVec 64 := 0
  deriving DecidableEq, Repr, Inhabited

/-- The words of a chunk for the walk. -/
def ObjSrc.words (o : ObjSrc) : List (List Word) := o.texts.map (fun t => t.getD [])

/-- Admission of an object for an entry offset, and its place in the table: `at'` is the handle it already has, `obj` what the
table is to hold. -/
def State.admitObject (s : State) (p : Nat) (l : Launch) (handler : Bool) (src : ObjSrc) (at' : Option Nat) (obj : CodeObj) : Ck Loaded :=
  match readGate obj.locks src.gate with
  | .error r => (s, .error { code := 0x70, note := some (Stop.record { r := r } (src.ids.headD 0)) })
  | .ok g =>
    let o : Admitted := { ids := src.ids, texts := src.words, blobs := src.blobs, gate := g }
    let e : WalkEnv := { l := l, zones := obj.zones, locks := obj.locks, handler := handler, gate := g }
    match o.settle e obj.entry (s.part p).verdicts with
    | (x, stop) =>
      let s := s.modPart p (fun q => { q with verdicts := x.cache })
      let gone (c : Nat) : Bool := (src.texts.getD c none).isNone && decide (c < src.ids.length)
      match stop with
      | some st =>
        if gone st.chunk then (s, .error { code := 0x85 })
        else (s, .error { code := 0x70, note := some (st.record (src.ids.getD st.chunk 0)) })
      | none =>
        if x.done.any (fun d => gone d.1) then (s, .error { code := 0x85 })
        else
          let cs := x.done.map (fun d => (src.ids.getD d.1 0,
            ({ words := src.words.getD d.1 [], s := d.2.s, gt := d.2.gt, isSealed := true } : Chunk)))
          match at'.orElse (fun _ => (s.part p).freeOh), s.pageIn p cs with
          | some oh, some s =>
            let new : CodeObj := { obj with used := true, made := false, handler := obj.handler || handler, chunks := src.ids }
            (s.modPart p (fun q => { q with objs := q.objs.put oh new }),
             .ok { oh := oh, entry := BitVec.ofNat 54 (oh * 2 ^ 32 + obj.entry), pinG := x.done.foldl (fun m d => m ||| d.2.pinG) 0 })
          | _, _ => (s, .error { code := 0x85 })

/-- An object of the set 3. -/
def State.loadNative (s : State) (p : Nat) (l : Launch) (handler : Bool) (entry : Nat) (h : ObjHdr) : Ck Loaded :=
  let go (s : State) (src : ObjSrc) (at' : Option Nat) (o : CodeObj) : Ck Loaded :=
    orRefuse s (h.nerr == 0) 0x86 (fun s => s.admitObject p l handler src at' { o with entry := entry })
  match (s.part p).findObj 3 h.root 0 0 with
  | some (oh, o) =>
    match s.reuseObject p h o with
    | (s, src) => go s src (some oh) o
  | none => (s.readObject p h).then (fun s src =>
    go s src none { zones := h.zones, locks := h.locks, root := h.root, set := 3, blobs := src.blobs, gate := src.gate })

/-- A rejection in terms of the object as it was read. -/
def rejected (src : ObjSrc) (st : Stop) : Refused := { code := 0x70, note := some (st.record (src.ids.getD st.chunk 0)) }

/-- An object of the set 1: translated for its budget and entry, or taken from the table, which holds the translation (spec/16
R433 to R436, spec/17 R446). -/
def State.loadJihal1 (s : State) (p : Nat) (l : Launch) (handler : Bool) (alloc entry : Nat) (h : ObjHdr) : Ck Loaded :=
  let source (o : CodeObj) : ObjSrc := { ids := o.chunks, texts := o.texts.map some, blobs := o.blobs, gate := o.gate }
  match if h.budget ≤ alloc then (s.part p).findObj 1 h.root h.budget entry else none with
  | some (oh, o) => s.admitObject p l handler (source o) (some oh) o
  | none => (s.readObject p h).then (fun s src =>
    if alloc < h.budget then (s, .error (rejected src { r := resR 1 0 }))
    else match translateJ1 src.words src.blobs h.locks src.gate h.budget entry with
      | .error (.load c) => (s, .error { code := c })
      | .error (.reject st) => (s, .error (rejected src st))
      | .ok t =>
        let o : CodeObj := { zones := h.zones, locks := h.locks, root := h.root, set := 1, budget := h.budget, srcEntry := entry,
                             entry := t.entry, texts := t.texts, chunks := t.texts.map (fun w => idOf (chunkBytes w)),
                             blobs := t.blobs, gate := t.gate }
        s.admitObject p l handler (source o) none o)

/-- Steps 6 to 8 of R320 for the object at an address. An ENTRY that is no multiple of 8 is in range for the set 1 alone
(R436; log entry 33). -/
def State.loadCode (s : State) (p : Nat) (l : Launch) (handler : Bool) (alloc va entry : Nat) : Ck Loaded :=
  (s.readHdr p va).then (fun s h =>
    if h.set = 1 then s.loadJihal1 p l handler alloc entry h
    else orRefuse s (entry % 8 == 0) 0x81 (fun s => s.loadNative p l handler entry h))

/-! ## Handler objects (spec/18 R455, spec/20 R486) -/

/-- HOBJ_WRITE: the load begins. -/
def execHobjWrite (s : State) : Out :=
  vfWrite s 0x4200 true (fun q => { q with hobj := s.ev.value &&& 0x3FFFFFFFFFFFFF, hst := 1, hlerr := 0 })

/-- HANDLER_LOAD_DONE: the load that HOBJ began succeeds, and the object serves from now on, or is refused. -/
def execHandlerLoadDone (s : State) : Out :=
  let p := s.ev.part
  let q := s.part p
  if q.hst ≠ 1 then .next s
  else
    let e := q.hentry.toNat
    match s.loadCode p {} true 128 (q.hobj.toNat % 2 ^ 54) e with
    | (s, .ok x) => .next (s.modPart p (fun q => { q with hst := 2, hlerr := 0, hoh := some x.oh, hentryUsed := x.entry.toNat % 2 ^ 32 }))
    | (s, .error r) => .next (s.modPart p (fun q => { q with hst := 3, hlerr := r.code, hoh := none }))

/-! ## Sealing new code (R437) -/

/-- The zone of a launch that holds a range, declared, unguarded and with `r` (R437). -/
def Launch.readZone (l : Launch) (locks : List Byte) (va n : Nat) : Bool :=
  (List.range 16).any (fun z => l.zoneV z && (l.zone1 z).getLsbD 48 && (guardOf locks z).isNone
    && decide (l.zbase z ≤ va ∧ va + n ≤ l.zbase z + l.zlen z))

/-- The slug's own load of a range: its bytes, or the word is over (it trapped or waits). -/
def State.ownLoad (s : State) (c : Ctx) (va : Word) (n : Nat) : State × Option (List Byte) :=
  match s.gate c { whole := true, skips := false } false false (fun _ => none) (oneElem n va) with
  | (s, none) => (s, none)
  | (s, some (good, _)) =>
    let r := s.readGood c good
    (r.1, some ((r.2.map (·.2)).headD []))

/-- The length of an annotation blob, from the NT and NR of its records; `heads` are the bytes before each record. Each record's
first word is a load of the slug's own, within the zone; none when the word is over (R437). -/
def State.blobEnd (s : State) (c : Ctx) (inZone : Nat → Bool) (bounds : State) (va : Word) : List Nat → Nat → State × Option Nat
  | [], off => (s, some off)
  | n :: r, off =>
    if !inZone (off + n + 8) then (bounds, none)
    else match s.ownLoad c (va + BitVec.ofNat 64 (off + n)) 8 with
      | (s, none) => (s, none)
      | (s, some bs) => s.blobEnd c inZone bounds va r (off + n + recordLen bs)

/-- The one-chunk object of a sealed chunk: the table's where its root stands there, or a new one (R405, R437). -/
def State.oneChunk (s : State) (p id : Nat) (o : CodeObj) (blob : List Byte) : Option (Nat × State) :=
  let q := s.part p
  match q.findObj 3 id 0 0 with
  | some (oh, _) => some (oh, s)
  | none => q.freeOh.map (fun oh =>
    (oh, s.modPart p (fun q => { q with objs := q.objs.put oh { used := true, made := true, zones := o.zones, locks := o.locks,
                                                                root := id, chunks := [id], blobs := [blob], gate := o.gate } })))

/-- A new chunk with its blob, judged and sealed (R437): the code value, the state, and the rejection. -/
def State.sealChunk (s : State) (c : Ctx) (text blob : List Byte) : State × Word × Option (List Word) :=
  let l := s.launchOf c
  let p := l.part
  let o := (s.part p).objs.look (c.path.pc.toNat / 2 ^ 32)
  let id := idOf text
  match readGate o.locks o.gate with
  | .error _ => (s, 0, none)
  | .ok g =>
    let e : WalkEnv := { l := l, zones := o.zones, locks := o.locks, gate := g, words := chunkWords text, textLen := 4096 }
    match e.verdict (s.part p).verdicts id blob with
    | (x, cache) =>
      let s := s.modPart p (fun q => { q with verdicts := cache })
      match x with
      | .error st => (s, 0, some (st.record id))
      | .ok v =>
        match (s.pageIn p [(id, { words := chunkWords text, s := v.s, gt := v.gt, isSealed := true })]).bind (fun s =>
            s.oneChunk p id o blob) with
        | some (oh, s) =>
          (s.modLaunch c.f.launch (fun l => { l with sealedOh := l.sealedOh ++ [oh], pinG := l.pinG ||| v.pinG }),
           if v.gt.getLsbD 0 then BitVec.ofNat 64 (oh * 2 ^ 32) else 0, none)
        | none => (s, 0, none)

/-- `SEALREQ` (R437): the text and the head of the blob, then the rest of the blob within one zone, all as the slug's own loads. -/
def execSealreq (w : Ops) (_m : SysMod) (s : State) : Out :=
  scalarWord w.h s (fun c => s.unlessTx c true (fun _ =>
    let ga := c.m.readG w.a.num
    let gb := c.m.readG w.b.num
    if ga.toNat % 4096 ≠ 0 then s.trap c { flt := { code := 0x05, va := ga.toNat }, mask := c.act }
    else match s.ownLoad c ga 4096 with
      | (t, none) => t
      | (t, some text) => match t.ownLoad c gb 8 with
        | (t, none) => t
        | (t, some head) =>
          let l := s.launchOf c
          let inZone := l.readZone ((s.part l.part).objs.look (c.path.pc.toNat / 2 ^ 32)).locks gb.toNat
          let bounds := s.trap c { flt := { code := 0x03, va := gb.toNat, d1 := gb }, mask := c.act }
          let hw := wordOf head
          let heads := List.replicate (wfield hw 48 16) 0 ++ List.replicate (wfield hw 32 16) 8
          match t.blobEnd c inZone bounds gb heads 8 with
          | (t, none) => t
          | (t, some n) =>
            if !inZone n then bounds
            else match t.ownLoad c gb n with
              | (t, none) => t
              | (t, some blob) => match t.sealChunk c text blob with
                | (t, x, note) =>
                  let t := match note with
                    | some ws => t.post c.f.launch ws
                    | none => t
                  t.finishPinned c false t w.d.num x))

end Sys2Proof.Machine
end

