-- ==== Sys2Proof/Machine/Placement.lean ====
section
/-!
DEFINITION. Where units of placement go (spec/01 R21, R25 to R28, spec/10 R326 to R329): what a core has room for, the searches
for a core, a pitch rectangle and a ganged unit, and the instances that units are bound to.
-/

namespace Sys2Proof.Machine

/-! ## Room -/

/-- What placement sees of a core: whether it is live, its free resident slots, its granules that are not free, its scratchpad
part and whether a forme holds scratchpad there. -/
structure Room where
  live : Bool := true
  slots : Nat := 64
  regs : List Nat := []
  spad : List Nat := []
  accs : List Nat := []
  p : Nat := 1
  heldS : Bool := false
  deriving DecidableEq, Repr, Inhabited

/-- What a forme needs of a core (R25): slugs, register granules each, scratchpad and accumulator granules. -/
structure Need' where
  slugs : Nat := 1
  alloc : Nat := 2
  spad : Nat := 0
  acc : Nat := 0
  deriving DecidableEq, Repr, Inhabited

/-- The first run of `n` indexes below `limit` that a rising list leaves out. -/
def firstRun (n limit : Nat) : List Nat → Nat → Option Nat
  | [], cur => if cur + n ≤ limit then some cur else none
  | h :: r, cur => if cur + n ≤ h ∧ cur + n ≤ limit then some cur else firstRun n limit r (Nat.max cur (h + 1))

/-- The scratchpad part a core would have for a need (R26): it changes only while no forme holds scratchpad. -/
def Room.part (r : Room) (need : Nat) : Nat := if r.heldS then r.p else Nat.max 1 need

/-- The first granules a forme would take: registers, scratchpad, accumulator (R25; the lowest that fit: log entry 36). -/
def Room.fits (r : Room) (n : Need') : Option (Nat × Nat × Nat) :=
  if !r.live || decide (r.slots < n.slugs) then none
  else match firstRun (n.slugs * n.alloc) 512 r.regs 0,
             (if n.spad = 0 then some 0 else firstRun n.spad (Nat.min 7 (r.part n.spad)) r.spad 0),
             (if n.acc = 0 then some 0 else firstRun n.acc 8 r.accs 0) with
    | some v, some s, some a => some (v, s, a)
    | _, _, _ => none

/-- Rising indexes joined. -/
def joinRun (held : List Nat) (base n : Nat) : List Nat := sortBy id (held ++ (List.range n).map (· + base))

/-- The room left once a forme has taken its granules. -/
def Room.take (r : Room) (n : Need') (b : Nat × Nat × Nat) : Room :=
  { r with slots := r.slots - n.slugs, regs := joinRun r.regs b.1 (n.slugs * n.alloc), spad := joinRun r.spad b.2.1 n.spad,
           accs := joinRun r.accs b.2.2 n.acc, p := if n.spad = 0 then r.p else r.part n.spad, heldS := r.heldS || n.spad != 0 }

/-! ## Placing -/

/-- A forme's place: grid index, core, first granules. -/
structure Placed where
  fidx : Nat
  core : Nat
  base : Nat × Nat × Nat
  deriving DecidableEq, Repr, Inhabited

/-- A placement under way: the room of each core, the free bind records of each cluster, the instances units are bound to, the
formes placed. -/
structure Placing where
  rooms : List (Nat × Room) := []
  free : List (Nat × Nat) := []
  bound : Sparse (Option Nat) := []
  done : List Placed := []
  deriving DecidableEq, Repr, Inhabited

def Placing.room (x : Placing) (core : Nat) : Room := ((x.rooms.find? (fun e => e.1 == core)).map (·.2)).getD { live := false }
def Placing.records (x : Placing) (cl : Nat) : Nat := ((x.free.find? (fun e => e.1 == cl)).map (·.2)).getD 0

/-- A forme takes its place. -/
def Placing.put (x : Placing) (n : Need') (q : Placed) : Placing :=
  { x with rooms := x.rooms.map (fun e => if e.1 = q.core then (e.1, e.2.take n q.base) else e)
           free := x.free.map (fun e => if e.1 = clusterOf q.core then (e.1, e.2 - 1) else e)
           done := x.done ++ [q] }

/-- The core of a cluster for a forme: the most free resident slots, then the lowest id (R327). -/
def Placing.bestCore (x : Placing) (cl : Nat) (n : Need') : Option (Nat × Nat × Nat × Nat) :=
  if x.records cl = 0 then none
  else (sortBy id (clusterCores cl)).foldl (fun b c => match (x.room c).fits n with
    | none => b
    | some f => match b with
      | some (d, g) => if (x.room d).slots < (x.room c).slots then some (c, f) else some (d, g)
      | none => some (c, f)) none

/-- R327: the lowest-numbered cluster that can hold the forme. -/
def Placing.forme (x : Placing) (clusters : List Nat) (n : Need') (fidx : Nat) : Option Placing :=
  (clusters.findSome? (fun cl => x.bestCore cl n)).map (fun r => x.put n { fidx := fidx, core := r.1, base := r.2 })

/-- The cores of a rectangle, in the order of the formes' indexes within the pitch (R48). -/
def rectCores (die x0 y0 pw ph : Nat) : List Nat :=
  (List.range ph).flatMap (fun y => (List.range pw).map (fun x => (die / 2 * 8 + y0 + y) * 16 + die % 2 * 8 + x0 + x))

/-- Every core of a rectangle can hold its forme (R328); `one` confines it to one cluster (R329). -/
def Placing.rect (x : Placing) (clusters : List Nat) (one : Bool) (need : Nat → Need') (first : Nat) (cores : List Nat) : Option Placing :=
  if one && cores.any (fun c => clusterOf c != clusterOf (cores.headD 0)) then none
  else cores.zipIdx.foldl (fun r e => r.bind (fun (x : Placing) =>
    if clusters.contains (clusterOf e.1) ∧ 0 < x.records (clusterOf e.1) then
      ((x.room e.1).fits (need (first + e.2))).map (fun f => x.put (need (first + e.2)) { fidx := first + e.2, core := e.1, base := f })
    else none)) (some x)

/-- R328: the first rectangle, by die, then Y, then X. -/
def Placing.pitch (x : Placing) (clusters : List Nat) (one : Bool) (pw ph : Nat) (need : Nat → Need') (first : Nat) : Option Placing :=
  (List.range 4).findSome? (fun die =>
    (List.range (9 - ph)).findSome? (fun y0 =>
      (List.range (9 - pw)).findSome? (fun x0 => x.rect clusters one need first (rectCores die x0 y0 pw ph))))

/-! ## Domains (R21, R329) -/

/-- The clusters of an instance of a level's domain: a cluster, a die, else the device. -/
def domain (level i : Nat) : List Nat :=
  if level = 4 then [i] else if level = 5 then [4 * i, 4 * i + 1, 4 * i + 2, 4 * i + 3] else allClusters

/-- How many instances a level's domain has. -/
def instances (level : Nat) : Nat := if level = 4 then 16 else if level = 5 then 4 else 1

/-- The instance that holds a cluster. -/
def instanceOf (level cl : Nat) : Nat := if level = 4 then cl else if level = 5 then cl / 4 else 0

/-- The key of a unit of a level in a launch's record of bound instances. -/
def unitKey (level u : Nat) : Nat := level * 2 ^ 48 + u

/-- The clusters of a list that lie in the instance a unit is bound to; all of them while it is not bound. -/
def Placing.within (x : Placing) (level u : Nat) (clusters : List Nat) : List Nat :=
  match x.bound.look (unitKey level u) with
  | some i => clusters.filter (fun c => (domain level i).contains c)
  | none => clusters

/-- The unit bound to the instance that holds the core of the forme placed last, unless it is bound already. -/
def Placing.bind (x : Placing) (level u : Nat) : Placing :=
  match x.bound.look (unitKey level u), x.done.getLast? with
  | none, some q => { x with bound := x.bound.put (unitKey level u) (some (instanceOf level (clusterOf q.core))) }
  | _, _ => x

/-- `n` parts of a unit placed one after another, from part `i`. -/
def placeMany (f : Nat → Placing → Option Placing) : Nat → Nat → Placing → Option Placing
  | 0, _, x => some x
  | n + 1, i, x => (f i x).bind (placeMany f n (i + 1))

/-- Unit `u` of a level placed whole within clusters (R327 to R329): a pitch by its rectangle; a ganged unit in the first
instance that holds all of it; else part by part, the first part binding the unit. -/
def placeUnit (l : Launch) (need : Nat → Need') : Nat → Nat → List Nat → Placing → Option Placing
  | 0, u, cs, x => x.forme cs (need u) u
  | k + 1, u, cs, x =>
    let level := k + 3
    if level = 3 ∧ l.decl 3 then x.pitch cs (l.decl 4) l.pw l.ph need (u * l.ext 2)
    else
      let kids := l.ext (level - 1)
      let all (x : Placing) (cs : List Nat) : Option Placing :=
        placeMany (fun i x => (placeUnit l need k i (x.within level u cs) x).map (fun y => if l.decl level && !l.gang level && decide (4 ≤ level) then y.bind level u else y))
          kids (u * kids) x
      if l.decl level && l.gang level && decide (4 ≤ level) then
        (List.range (instances level)).findSome? (fun i =>
          let inside := cs.filter (fun c => (domain level i).contains c)
          if inside.isEmpty then none else all x inside)
      else all x cs

/-- The declared levels outside a unit's own whose instances confine it, outermost first. -/
def Launch.outerLevels (l : Launch) (g : Nat) : List Nat := [6, 5, 4].filter (fun n => decide (g < n) && l.decl n)

/-- One unit of placement, which begins with forme `first` (R326 to R329): the clusters are those of the instances its outer
units are bound to, and placing it binds them. -/
def Launch.placeAt (l : Launch) (need : Nat → Need') (first : Nat) (clusters : List Nat) (x : Placing) : Option Placing :=
  let g := l.gangLevel
  let up := l.outerLevels g
  let cs := up.foldl (fun cs n => x.within n (first / l.formesPer n) cs) clusters
  (placeUnit l need (g - 2) (first / l.formesPer g) cs x).map (fun y => up.foldl (fun y n => y.bind n (first / l.formesPer n)) y)

/-- What every forme of a launch needs at its first residency (R25). -/
def Launch.need (l : Launch) : Need' := { slugs := l.ext 1, alloc := l.alloc, spad := l.spad, acc := l.accNeed }

/-! ## The device as placement sees it -/

/-- The live device with every core empty and every record free (R23, spec/18 R478). -/
def State.emptyDevice (s : State) : Placing :=
  let cls := allClusters.filter (fun c => (s.cluster c).holder != .outOfService)
  { rooms := cls.flatMap (fun cl => (clusterCores cl).map (fun c => (c, { live := !(s.core c).retired })))
    free := cls.map (fun cl => (cl, 512)) }

/-- One unit that begins with forme `first` could be placed on the empty device. -/
def State.couldPlace (s : State) (l : Launch) (first : Nat) : Bool :=
  (l.placeAt (fun _ => l.need) first allClusters s.emptyDevice).isSome

/-- Slots promised to formes bound on a core that have not started. -/
def State.promised (s : State) (core : Nat) : Nat :=
  (s.formes.map (fun e => if e.2.core = core ∧ e.2.place = .bound then (e.2.slugs.filter (fun m => m.2.live)).length else 0)).sum

/-- Granules that are not free: held, or not yet cleared (spec/02 R57). -/
def notFree (m : Sparse Granule) (now : Nat) : List Nat :=
  (m.filter (fun e => e.2.holder.isSome || decide (now < e.2.freeAt))).map (·.1)

/-- A core keeps formes that a pre-emption has yet to save, so that no new unit starts there (spec/10 R334). -/
def State.emptying (s : State) (core : Nat) : Bool :=
  s.formes.any (fun e => e.2.core == core && (e.2.place == .draining || e.2.place == .saving))

/-- A launch's pre-emption is under way, and one of its formes is still on the core: no new unit starts there (spec/10 R334). -/
def State.concerned (s : State) (core : Nat) : Bool :=
  s.parts.any (fun p => p.2.draining.any (fun d => match d.launch with
    | some n => s.formes.any (fun e => e.2.launch == n && e.2.core == core && (e.2.place == .bound || e.2.place == .running))
    | none => false))

/-- A core's room. -/
def State.roomOf (s : State) (core : Nat) : Room :=
  let c := s.core core
  { live := !c.retired && !s.emptying core && !s.concerned core
    slots := 64 - (c.slots.filter (fun e => e.2.isSome)).length - s.promised core
    regs := notFree c.regs s.cyc
    spad := notFree c.spad s.cyc
    accs := notFree c.accs s.cyc
    p := c.p
    heldS := c.spad.any (fun e => e.2.holder.isSome) }

/-- Clusters from which pre-emption keeps new units (spec/10 R334, spec/14 R388); while frames leave, none of the partition's units
starts (log entry 40). -/
def State.barred (s : State) (p : Nat) : List Nat :=
  (s.part p).draining.flatMap (fun d => match d.cluster with
    | some c => [c]
    | none => if d.launch.isNone then allClusters else [])

/-- The clusters a partition's units may start on. -/
def State.openClusters (s : State) (p : Nat) : List Nat := (s.clustersNow p).filter (fun c => !(s.barred p).contains c)

/-- What placement sees of a partition's clusters, with the bound instances of a launch. -/
def State.placing (s : State) (p : Nat) (l : Launch) : Placing :=
  let cls := s.openClusters p
  { rooms := cls.flatMap (fun cl => (clusterCores cl).map (fun c => (c, s.roomOf c)))
    free := cls.map (fun cl => (cl, 512 - ((s.cluster cl).binds.filter (fun e => e.2.v)).length))
    bound := l.boundTo }

end Sys2Proof.Machine
end

