-- ==== Sys2Proof/Machine/Waiting.lean ====
section
/-!
DEFINITION. Transactions, and the waits that are transactions: queues, barriers and copy-tag waits (spec/11).
-/

namespace Sys2Proof.Machine

/-! ## Opening, merging and committing (R343, R347) -/

/-- The mask FC. -/
def maskFC : BitVec 7 := 0x03

/-- An empty level opened at the word's end, with a checkpoint that continues at `pc` (R343). -/
def Ctx.level (c : Ctx) (pc : Addr) (alt : Option Addr) : TxLevel :=
  { alt := alt, ck := c.m.checkpoint pc c.path.mask }

/-- The inner of two levels merged into the one below it (R343). -/
def TxLevel.merge (inner below : TxLevel) : TxLevel :=
  { below with
    reads := distinct (below.reads ++ inner.reads)
    retained := distinct (below.retained ++ inner.retained)
    writes := distinct (below.writes ++ inner.writes)
    vw := (below.vw ++ inner.vw).dedup
    buf := below.buf.filter (fun x => !inner.buf.any (fun y => y.sp == x.sp && y.fk == x.fk && y.addr == x.addr))
      ++ inner.buf }

/-- A buffered byte is performed at its home or bank. -/
def State.commitByte (s : State) (b : TxByte) : State :=
  if b.sp then s.spadSet { sp := true, fk := b.fk, line := b.addr / 128 } b.addr [b.val] else s.homeSet b.addr [b.val]

/-- A commit (R347): a release with mask `rel`, then all buffered bytes at their homes and banks, each line counted once. Bytes that
other slugs of the core have written in lines it tracks, and U partials of lines it writes, come after it where it is the oldest
(R346); of another transaction they abort it: the answer is `conflict`. `wait`: the release is not acknowledged yet. -/
def State.commitTx (s : State) (fk sl : Nat) (rel : BitVec 7) : State × Touch :=
  match (s.slug fk sl).tx with
  | none => (s, .ok)
  | some t =>
    let core := (s.forme fk).core
    let other (l : Nat) : Bool := !(t.readsLine { line := l } || t.writesLine { line := l })
    let s := if beyondF rel then s.releaseOf core other else s
    let bs := t.outer.buf
    let ls := ((bs.filter (fun b => !b.sp)).map (fun b => lineOf b.addr)).dedup
    if beyondF rel && (s.core core).unsent other then (s, .wait)
    else if ls.any (fun l => s.anyPartial l && !s.heldLine { line := l }) then (s, .conflict)
    else
      let s := s.modSlug fk sl (fun m => { m with tx := none, stamp := none })
      let s := bs.foldl (fun s b => s.commitByte b) s
      let s := ls.foldl (fun s l => match bs.find? (fun b => !b.sp && lineOf b.addr == l) with
        | some b => (s.evict core l).hot b.hot b.addr 1
        | none => s) s
      (s.drainAll, .ok)

/-! ## Retrying (R348, R357, R360) -/

/-- The levels split at the innermost one that has an alternative: those given up, its checkpoint and alternative, those
below it. -/
def splitAlt : List TxLevel → List TxLevel → Option (List TxLevel × Checkpoint × Addr × List TxLevel)
  | _, [] => none
  | up, l :: r => match l.alt with
    | some a => some (up ++ [l], l.ck, a, r)
    | none => splitAlt (up ++ [l]) r

/-- The wake entry of a transaction (R357). -/
def Tx.asleep (t : Tx) (core : LineRef → Nat) : Wake :=
  { (Wake.ofLines t.seen core) with cpt := t.cpt, gwait := t.gwait, fired := t.fired }

/-- `RETRY` in an open transaction (R348). -/
def Slug.retryTx (m : Slug) (t : Tx) (core : LineRef → Nat) (now : Nat) : Slug :=
  match splitAlt [] t.levels with
  | some (up, ck, alt, below) =>
    let kept := up.flatMap (fun l => l.retained ++ l.reads)
    let t := { t with levels := below }.inner (fun l => { l with retained := distinct (l.retained ++ kept) })
    { ((m.restore ck).soleAt alt ck.mask (now + abortCycles (vWritten up))) with tx := some t }
  | none =>
    let ck := t.outer.ck
    { ((m.restore ck).soleAt ck.pc ck.mask (now + abortCycles (vWritten t.levels))) with
      tx := none
      wake := some { (t.asleep core) with tx := some t.again } }

/-- The issuing slug's transaction retries. -/
def State.retryTx (s : State) : State :=
  (s.modCur (fun m => match m.tx with
    | some t => m.retryTx t s.keyCore s.cyc
    | none => m)).drainAll

/-! ## Blocking forms (R340) -/

/-- What the body of a blocking form comes to. -/
inductive Body where
  | done (s : State) (g : Option (Nat × Word))
  | retry (s : State)
  | fault (s : State) (f : Flt)
  | lost (s : State) (k : Touch)

/-- Lines touched by the issuing slug's transaction before the rest of a body. -/
def State.withLines (s : State) (c : Ctx) (ls : List LineRef) (write : Bool) (f : State → Body) : Body :=
  match s.touchAll c.iss.fk c.iss.sl c.core write (distinct ls) with
  | (s, .ok) => f s
  | (s, k) => .lost s k

/-- The result of a body, if it has one, in its register. -/
def State.giveG (s : State) (g : Option (Nat × Word)) : State :=
  match g with
  | some (n, x) => s.modCur (·.writeG n x)
  | none => s

/-- A blocking form inside a transaction joins it (R340). -/
def State.joinTx (s : State) (c : Ctx) (f : State → Body) : State :=
  match f s with
  | .done s g => (s.giveG g).retire c
  | .retry s => s.retryTx
  | .fault s x => s.trap c { flt := x, mask := c.act }
  | .lost s .conflict => s.loseTx c
  | .lost s .capacity => s.overflowTx c
  | .lost s _ => s.hold

/-- A blocking form outside a transaction: one of its own, whose stamp lasts over its restarts (R340, R343); `edge` is the
mask of its acquire and of its release (R347). -/
def State.ownTx (s : State) (c : Ctx) (edge : BitVec 7) (f : State → Body) : State :=
  let st := c.m.stamp.getD (s.cyc, c.core, c.m.h)
  let t : Tx := { levels := [c.level c.path.pc none], stampCyc := st.1, stampCore := st.2.1, stampSlot := st.2.2 }
  let close (s : State) (k : Option (Nat × Nat × Nat)) (w : Option Wake) : State :=
    s.modCur (fun m => { m with tx := none, stamp := k, wake := w })
  let lost (s : State) (k : Touch) : State :=
    if k = .conflict then
      ((close (s.retireTo c.path.pc) (some st) none).modCur (fun m =>
        m.modSlot c.iss.b (fun x => { x with readyAt := s.cyc + abortCycles 0, pend := [] }))).drainAll
    else (close s (some st) none).drainAll.hold
  let s := (s.modCur (fun m => { m with tx := some t })).drainAll.acquire c.core edge
  match f s with
  | .done s g => match s.commitTx c.iss.fk c.iss.sl edge with
    | (s, .ok) => (s.giveG g).retire c
    | (s, k) => lost s k
  | .retry s =>
    let w := ((s.slug c.iss.fk c.iss.sl).tx.map (fun t => t.asleep s.keyCore)).getD {}
    (close (s.retireTo c.path.pc) (some st) (some w)).drainAll
  | .fault s x => ((close s none none).drainAll).trap c { flt := x, mask := c.act }
  | .lost s k => lost s k

/-- A form that is a transaction (R340): `TX_DIVERGED` outside one for a slug with more than one path (R353). -/
def State.asTx (s : State) (c : Ctx) (edge : BitVec 7) (f : State → Body) : State :=
  if c.m.tx.isSome then s.joinTx c f
  else if 1 < c.m.paths then s.trapCode c 0x32
  else s.ownTx c edge f

/-- The edges of the transaction that a `BAR` or `BARW` outside a transaction is: a barrier's arrival and departure carry the
mask of its level (spec/08 R267) and no other, so that a level of mask F takes no L1 action (spec/12 R373; log entry 80). -/
def barrierEdge : BitVec 7 := 0x01

/-! ## Transaction forms (R341, R343, R348, R351) -/

/-- `TXB` (R343, R353): the outermost one is an acquire with mask FC (R347). A checkpoint records every register, so the word
waits for results that are on their way (spec/01 R29). -/
def execTxb (w : Ops) (m : TxMod) (s : State) : Out :=
  scalarWord w.h s (fun c =>
    if !c.m.pendingG.isEmpty then s.hold
    else if c.m.depth = 4 then s.trapCode c 0x31
    else if 1 < c.m.paths then s.trapCode c 0x32
    else
      let lv := c.level c.nextPc none
      match c.m.tx with
      | some t => (s.modCur (fun u => { u with tx := some { t with levels := lv :: t.levels } })).retire c
      | none =>
        let t : Tx := { levels := [lv], stampCyc := s.cyc, stampCore := c.core, stampSlot := c.m.h,
                        target := c.target w 14 m.imm }
        ((s.acquire c.core maskFC).modCur (fun u => { u with tx := some t, cause := 0, abtcode := 0 })).retire c)

/-- `TXE` (R343, R347). -/
def execTxe (w : Ops) (_m : TxMod) (s : State) : Out :=
  scalarWord w.h s (fun c =>
    match c.m.tx with
    | none => s.trapCode c 0x33
    | some t => match t.levels with
      | a :: b :: r => (s.modCur (fun u => { u with tx := some { t with levels := a.merge b :: r } })).retire c
      | _ => match s.commitTx c.iss.fk c.iss.sl maskFC with
        | (s, .ok) => s.retire c
        | (s, .conflict) => s.loseTx c
        | (s, _) => s.hold)

/-- `TXELSE` (R343). -/
def execTxelse (w : Ops) (m : TxMod) (s : State) : Out :=
  scalarWord w.h s (fun c =>
    match c.m.tx with
    | none => s.trapCode c 0x33
    | some t =>
      if !c.m.pendingG.isEmpty then s.hold
      else if t.levels.length = 4 then s.trapCode c 0x31
      else
        let lv := c.level c.nextPc (some (c.target w 14 m.imm))
        (s.modCur (fun u => { u with tx := some { t with levels := lv :: t.levels } })).retire c)

/-- `RETRY` (R348). -/
def execRetry (w : Ops) (_m : TxMod) (s : State) : Out :=
  scalarWord w.h s (fun c => if c.m.tx.isNone then s.trapCode c 0x33 else s.retryTx)

/-- `TXABT` (R349, R351). -/
def execTxabt (w : Ops) (m : TxMod) (s : State) : Out :=
  scalarWord w.h s (fun c =>
    match c.m.tx with
    | none => s.trapCode c 0x33
    | some t => (s.modCur (fun u => { (u.txEnd t 0x02 s.cyc) with abtcode := m.imm.extractLsb' 0 8 })).drainAll)

/-- `TXWATCH` (R351): the checks of `LD` with width 8; the line of its address is read. -/
def execTxwatch (w : Ops) (_m : TxMod) (s : State) : Out :=
  scalarWord w.h s (fun c =>
    if c.m.tx.isNone then s.retire c
    else
      let a := c.base w
      let h : How := { skips := false }
      match s.checkElem c h { lane := 0, vlid := 0, va := a.toNat, n := 8 } with
      | (s, .error f) => s.trap c { flt := f, mask := c.act }
      | (s, .ok xs) =>
        match s.touchWord c ((xs.flatMap Spot.lines).take 1) false with
        | (s, true) => s.retire c
        | (s, false) => s)

/-- SLUG_WAKE: a sleeping slug whose entry has fired goes on (R348, R360, R361): a `RETRY` reopens its transaction, a blocking
form issues again. It carries no pending distance (spec/03 R89). -/
def execSlugWake (s : State) : Out :=
  .next (State.drainAll (s.modSlug s.ev.forme s.ev.slug (fun m => match m.wake with
    | some w =>
      if !w.fired then m
      else
        let u : Slug := { m with wake := none, a := { m.a with pend := [] }, b := { m.b with pend := [] } }
        match w.tx with
        | some t => { u with tx := some t, cause := 0 }
        | none => u
    | none => m)))

/-! ## Queues (R362 to R367) -/

/-- The key of a queue of a forme's pitch (R362). -/
def Forme.queueKey (f : Forme) (q : Nat) : Nat := (f.fidx - f.pidx) * 16 + q

/-- The queue-table entry that a word names. -/
def State.queueOf (s : State) (c : Ctx) (q : Nat) : QEntry := (s.launchOf c).queues.look (c.f.queueKey q)

/-- `QUEUE_FAULT` of a queue (R366). -/
def queueFault (q : Nat) : Flt := { code := 0x50, d0 := q }

/-- Bytes of a queue's area as the issuing slug's transaction reads them. -/
def State.ringRead (s : State) (c : Ctx) (e : QEntry) (o n : Nat) : Nat := natOf (s.readSpot c (.spad e.fk (e.off + o) n)).2

/-- Bytes of a queue's area written by the issuing slug's transaction. -/
def State.ringWrite (s : State) (c : Ctx) (e : QEntry) (o n x : Nat) : State :=
  s.writeSpot c (.spad e.fk (e.off + o) n) (bytesOf n x)

/-- The line of a queue's area at an offset. -/
def QEntry.line (e : QEntry) (o : Nat) : List LineRef := spadLines e.fk (e.off + o) 1

/-- The offset of entry `j`. -/
def QEntry.slot (e : QEntry) (j : Nat) : Nat := 128 + 8 * (j % e.cap)

/-- `Check` of R365: the control line is read; the body goes on with HEAD and the number of entries. -/
def State.ringCheck (s : State) (c : Ctx) (q : Nat) (f : State → QEntry → Nat → Nat → Body) : Body :=
  let e := s.queueOf c q
  if !e.set then .fault s (queueFault q)
  else s.withLines c (e.line 0) false (fun s =>
    let head := s.ringRead c e 0 8
    let tail := s.ringRead c e 8 8
    let len := (tail + 2 ^ 64 - head) % 2 ^ 64
    if s.ringRead c e 16 2 ≠ e.cap ∨ e.cap < len then .fault s (queueFault q) else f s e head len)

/-- `QINIT` (R365): one write of the control line outside any transaction, and the table entry. -/
def execQinit (w : Ops) (m : QMod) (s : State) : Out :=
  scalarWord w.h s (fun c => s.unlessTx c true (fun _ =>
    let a := (c.m.srcG w m.imm w.a).toNat
    let n := (c.m.srcG w m.imm w.b).toNat
    if n = 0 ∨ 256 < n then s.trap c { flt := queueFault m.q.toNat, mask := c.act }
    else if a % 128 ≠ 0 then s.trap c { flt := { code := 0x05, d1 := BitVec.ofNat 64 a }, mask := c.act }
    else match s.window c.iss.fk a (128 + 8 * n) with
      | .error f => s.trap c { flt := f, mask := c.act }
      | .ok (k, o) =>
        if (spadLines k o 128).any s.heldLine then s.hold
        else
          let line := bytesOf 16 0 ++ bytesOf 2 n ++ bytesOf 110 0
          let e : QEntry := { set := true, fk := k, off := o, cap := n }
          ((s.spadWrite k o line).modLaunch c.f.launch (fun l =>
            { l with queues := l.queues.put (c.f.queueKey m.q.toNat) e })).retire c))

/-- The control-line offset of a forme's send allowance (R363). -/
def allowance (i : Nat) : Nat := 32 + 4 * i

/-- `QPUSH` (R365). -/
def execQpush (w : Ops) (m : QMod) (s : State) : Out :=
  scalarWord w.h s (fun c =>
    let x := (c.m.srcG w m.imm w.a).toNat
    s.asTx c maskFC (fun s => s.ringCheck c m.q.toNat (fun s e head len =>
      let alw := s.ringRead c e (allowance c.f.pidx) 4
      if alw = 0 ∨ len = e.cap then .retry s
      else
        let tail := (head + len) % 2 ^ 64
        s.withLines c (e.line 0 ++ e.line (e.slot tail)) true (fun s =>
        let s := s.ringWrite c e (e.slot tail) 8 x
        let s := s.ringWrite c e 8 8 (tail + 1)
        .done (s.ringWrite c e (allowance c.f.pidx) 4 (alw - 1)) none))))

/-- `QPOP` (R365). -/
def execQpop (w : Ops) (m : QMod) (s : State) : Out :=
  scalarWord w.h s (fun c =>
    s.asTx c maskFC (fun s => s.ringCheck c m.q.toNat (fun s e head len =>
      if len = 0 then .retry s
      else s.withLines c (e.line (e.slot head)) false (fun s =>
        let x := s.ringRead c e (e.slot head) 8
        s.withLines c (e.line 0) true (fun s =>
          .done (s.ringWrite c e 0 8 (head + 1)) (some (w.d.num, BitVec.ofNat 64 x)))))))

/-- `QALLOW` (R365). -/
def execQallow (w : Ops) (m : QMod) (s : State) : Out :=
  scalarWord w.h s (fun c =>
    let i := (c.m.srcG w m.imm w.a).toNat
    let n := (c.m.srcG w m.imm w.b).toNat % 2 ^ 32
    s.asTx c maskFC (fun s => s.ringCheck c m.q.toNat (fun s e _ _ =>
      if c.f.pw * c.f.ph ≤ i then .fault s (queueFault m.q.toNat)
      else s.withLines c (e.line 0) true (fun s =>
        .done (s.ringWrite c e (allowance i) 4 (min (s.ringRead c e (allowance i) 4 + n) 0xFFFFFFFF)) none))))

/-- `QLEN` (R365). -/
def execQlen (w : Ops) (m : QMod) (s : State) : Out :=
  scalarWord w.h s (fun c =>
    s.asTx c maskFC (fun s => s.ringCheck c m.q.toNat (fun s _ _ len => .done s (some (w.d.num, BitVec.ofNat 64 len)))))

/-! ## Barriers (R368 to R371) -/

/-- The instance of a guy line that serves the issuing forme. -/
def State.guyOf (s : State) (c : Ctx) (gl : Nat) : GuyLine := (s.launchOf c).guys.look ((s.launchOf c).guyKey c.f.fidx gl)

/-- SCOPE of the level a guy line serves (spec/08 R267). -/
def State.guyScope (s : State) (c : Ctx) (gl : Nat) : BitVec 7 := (s.launchOf c).scope (guyLevel gl)

/-- The slug has arrived at the current generation of a guy line. -/
def State.hasArrived (s : State) (c : Ctx) (gl : Nat) : Bool := (s.guyOf c gl).arrived.contains (c.iss.fk, c.iss.sl)

/-- An arrival (R370, spec/08 R267), after its release: the generation completes with the last one. -/
def State.arrive (s : State) (c : Ctx) (gl : Nat) : State :=
  let k := (s.launchOf c).guyKey c.f.fidx gl
  (s.modLaunch c.f.launch (fun l => { l with
    guys := l.guys.upd k (fun g => { g with arrived := g.arrived ++ [(c.iss.fk, c.iss.sl)] }) })).guyCheck
      c.f.launch c.f.fidx gl

/-- The wait for a generation (R370): the pseudo-line is read; on return an acquire (spec/08 R267). -/
def State.awaitGen (s : State) (c : Ctx) (gl : Nat) (gs : BitVec 32) (f : State → Body) : Body :=
  let s := s.modCur (fun m => { m with tx := m.tx.map (fun t => { t with gwait := t.gwait.put gl (some gs) }) })
  let d := ((s.guyOf c gl).gen - gs).toNat
  if d = 0 ∨ 2 ^ 31 < d then .retry s else f (s.acquire c.core (s.guyScope c gl))

/-- `BAR` (R369, R370): the generation arrived at is kept while the word waits; a matrix owner's engine instructions finish
first (spec/06 R181). -/
def execBar (w : Ops) (m : BarMod) (s : State) : Out :=
  scalarWord w.h s (fun c => s.unlessTx c true (fun _ =>
    let gl := m.gl.toNat
    let wait (s : State) (gs : BitVec 32) : State := s.ownTx c barrierEdge (fun s => s.awaitGen c gl gs (fun s =>
      .done (s.modCur (fun u => { u with arrived := u.arrived.put gl none })) none))
    match c.m.arrived.look gl with
    | some gs => wait s gs
    | none =>
      if 1 < c.m.paths then s.trapCode c 0x32
      else if (c.m.owner && s.engineBusy c.iss.fk false) || s.hasArrived c gl then s.hold
      else s.released c 2 (s.guyScope c gl) false (fun s =>
        let gs := (s.guyOf c gl).gen
        wait ((s.modCur (fun u => { u with arrived := u.arrived.put gl (some gs) })).arrive c gl) gs)))

/-- `BARA` (R369, R370). -/
def execBara (w : Ops) (m : BarMod) (s : State) : Out :=
  scalarWord w.h s (fun c => s.unlessTx c true (fun _ =>
    if 1 < c.m.paths then s.trapCode c 0x32
    else if s.hasArrived c m.gl.toNat then s.hold
    else s.released c 2 (s.guyScope c m.gl.toNat) false (fun s =>
      let g := ((s.guyOf c m.gl.toNat).gen).zeroExtend 64
      s.finishPinned c false (s.arrive c m.gl.toNat) w.d.num g)))

/-- `BARW` (R369, R370). -/
def execBarw (w : Ops) (m : BarMod) (s : State) : Out :=
  scalarWord w.h s (fun c =>
    let gs := (c.m.readG w.a.num).extractLsb' 0 32
    s.asTx c barrierEdge (fun s => s.awaitGen c m.gl.toNat gs (fun s => .done s none)))

/-! ## Copy-tag waits (R372, spec/09 R295, spec/08 R265) -/

/-- The L1 actions of a returning tag wait: UO lines as at a fence, then an acquire, both with mask C (spec/08 R265). -/
def State.tagReturn (s : State) (c : Ctx) : State := (s.dropUo c.core).acquire c.core 0x02

/-- A wait on `%cptag`: the pseudo-line is read, and the condition looked at. -/
def State.awaitTags (s : State) (c : Ctx) (ok : Word → Bool) (g : Word → Option (Nat × Word)) : State :=
  s.asTx c maskFC (fun s =>
    let s := s.modCur (fun m => { m with tx := m.tx.map (fun t => { t with cpt := true }) })
    let x := (s.forme c.iss.fk).cptag
    if ok x then .done (s.tagReturn c) (g x) else .retry s)

/-- `CWANY` (spec/09 R295, R372): a mask of zero returns at once. -/
def execCwany (w : Ops) (_m : CpyMod) (s : State) : Out :=
  scalarWord w.h s (fun c =>
    let k := c.m.readG w.a.num
    s.awaitTags c (fun x => k == 0 || k &&& x != 0) (fun x => some (w.d.num, k &&& x)))

/-- `CWALL` (spec/09 R295, R372). -/
def execCwall (w : Ops) (_m : CpyMod) (s : State) : Out :=
  scalarWord w.h s (fun c =>
    let k := c.m.readG w.a.num
    s.awaitTags c (fun x => k &&& x == k) (fun _ => none))

/-- `CFFR` (spec/09 R292): the status word of a tag. -/
def execCffr (w : Ops) (_m : CpyMod) (s : State) : Out :=
  scalarWord w.h s (fun c =>
    s.finishG c w.d.num (c.f.tagStat.look ((c.m.readG w.a.num).toNat % 64)))

end Sys2Proof.Machine
end

