-- ==== Sys2Proof/Machine/Launching.lean ====
section
/-!
DEFINITION. Launches: the checks of a launch record (spec/10 R318 to R320, spec/01 R19 to R23, spec/07 R233, R234, spec/17 R442),
acceptance and refusal (R320, R321), the `LAUNCH` word (spec/05 R140, R337, R338), time-triggered occurrences (R333).
-/

namespace Sys2Proof.Machine

/-! ## The record (R318, R319, R442) -/

/-- Bits of a record's word that must be zero. -/
def rsvdOk (l : Launch) (off lo n : Nat) : Bool := l.field off lo n == 0

/-- A zone descriptor (R319). -/
def Launch.zoneOk (l : Launch) (n : Nat) : Bool :=
  if l.zoneV n then wfield (l.zone0 n) 54 10 == 0 && decide (1 ≤ l.zlen n) else l.zone0 n == 0 && l.zone1 n == 0

/-- The slugs of the grid. -/
def Launch.slugCount (l : Launch) : Nat := l.formeCount * l.ext 1

/-- The record's ranges (R318, R319, R442). ENTRY is held to a multiple of 8 once the object's set is known (log entry 33). -/
def Launch.recordOk (l : Launch) : Bool :=
  rsvdOk l 0x000 54 10 && rsvdOk l 0x008 54 4 && rsvdOk l 0x008 32 10 && rsvdOk l 0x010 54 10 && rsvdOk l 0x020 60 4
    && rsvdOk l 0x028 54 10 && rsvdOk l 0x030 60 4 && rsvdOk l 0x038 12 52
    && decide (l.owner < l.extent 1) && decide (2 ≤ l.alloc ∧ l.alloc ≤ 16) && decide (l.accNeed ≤ 8)
    && l.entryOff % 4 == 0 && decide (4 ≤ l.glog ∧ l.glog ≤ 16) && decide (10 ≤ l.psz ∧ l.psz ≤ 20) && l.world != 0
    && decide (l.priv % 2 ^ l.psz = 0) && decide (l.priv + l.slugCount * 2 ^ l.psz ≤ 2 ^ 54)
    && (List.range 16).all l.zoneOk

/-! ## Shape (spec/01 R19 to R23) -/

/-- The minimum SCOPE of a level (spec/01 R22). -/
def minScope (n : Nat) : BitVec 7 := if n < 3 then 0x01 else if n < 7 then 0x03 else 0x23

/-- The conditions of spec/01 R19 to R22. -/
def Launch.shapeOk (l : Launch) : Bool :=
  (List.range 8).all (fun n => wfield (l.lvl n) 24 8 == 0 && wfield (l.lvl n) 9 7 == 0)
    && l.decl 0 && l.decl 1 && l.decl 2
    && l.extent 0 == 32 && decide (1 ≤ l.extent 1 ∧ l.extent 1 ≤ 32)
    && (if l.decl 3 then decide (1 ≤ l.extent 2 ∧ l.extent 2 ≤ 24) && l.pw * l.ph == l.extent 2 && decide (l.pw ≤ 6 ∧ l.ph ≤ 6)
          && decide (l.pw ≤ 4 ∨ l.ph ≤ 4) && l.gang 3
        else l.pw == 0 && l.ph == 0)
    && (!l.decl 7 || decide (l.extent 7 ≤ 512))
    && decide (32 * l.slugCount < 2 ^ 48)
    && [0, 1, 2].all (fun n => !l.gang n)
    && (List.range 8).all (fun n => !l.decl n || l.scope n &&& minScope n == minScope n)
    && !(l.decl 3 && l.decl 4 && (decide (4 < l.pw) || decide (4 < l.ph)))

/-! ## Segments (spec/07 R233, R234) -/

/-- A segment descriptor by itself. -/
def Launch.segOk (l : Launch) (n : Nat) : Bool :=
  let w := l.seg n
  let fmt := wfield w 35 5
  let len := wfield w 11 11
  if w.getLsbD 31 then
    wfield w 40 24 == 0 && wfield w 22 9 == 0 && decide (1 ≤ len ∧ len ≤ 1792) && decide (wfield w 0 11 + len ≤ 256 * l.spad)
      && isFormat fmt (w.extractLsb' 32 3)
  else w == 0

/-- Two segments do not overlap. -/
def Launch.segApart (l : Launch) (a b : Nat) : Bool :=
  let x := l.seg a
  let y := l.seg b
  !x.getLsbD 31 || !y.getLsbD 31 || decide (wfield x 0 11 + wfield x 11 11 ≤ wfield y 0 11)
    || decide (wfield y 0 11 + wfield y 11 11 ≤ wfield x 0 11)

/-- Every segment descriptor (spec/07 R234). -/
def Launch.segsOk (l : Launch) : Bool :=
  (List.range 16).all l.segOk && (List.range 16).all (fun a => (List.range a).all (fun b => l.segApart a b))

/-! ## Worlds (R320 step 5) -/

/-- WORLD and every zone's ZW belong to the partition; a child's WORLD is its parent's. -/
def State.worldsOk (s : State) (l : Launch) : Bool :=
  let mine (w : Nat) : Bool := (s.worlds.look w).part == some l.part
  mine l.world && (List.range 16).all (fun z => !l.zoneV z || mine (wfield (l.zone1 z) 52 12))
    && (match l.origin with
      | .device .. => l.world == l.parentWorld
      | _ => true)

/-! ## The checks (R320) -/

/-- The launch came from a slug. -/
def Launch.fromDevice (l : Launch) : Bool := match l.origin with
  | .device .. => true
  | _ => false

/-- No further launch of a partition can be active: its limit, or the device's 16,384. -/
def State.launchesFull (s : State) (p : Nat) : Bool :=
  decide (s.launchLimit p ≤ s.activeCount p) || decide (16384 ≤ s.freeLaunch 0)

/-- Steps 1 to 9 on a launch whose record has been read. -/
def State.checkLaunch (s : State) (l : Launch) : Ck Loaded :=
  orRefuse s (!l.fromDevice || !s.launchesFull l.part) 0x87 (fun s =>
  orRefuse s (l.recAddr % 64 == 0 && l.recordOk) 0x81 (fun s =>
  orRefuse s (l.shapeOk && (l.formeCount == 0 || l.gangLevel == 2 || s.couldPlace l 0)) 0x82 (fun s =>
  orRefuse s l.segsOk 0x83 (fun s =>
  orRefuse s (s.worldsOk l) 0x84 (fun s =>
  (s.loadCode l.part l false (8 * l.alloc) l.obj l.entryOff).then (fun s x =>
  orRefuse s (decide (l.depth ≤ 8)) 0x88 (fun s => (s, .ok x))))))))

/-- The words of a record as far as firmware can read them, the others zero. -/
def State.readWords (s : State) (p va : Nat) : State × Sparse Word :=
  (List.range 64).foldl (fun (r : State × Sparse Word) i => match r.1.fwWord p (va + 8 * i) with
    | (s, some w) => (s, r.2.put i w)
    | (s, none) => (s, r.2)) (s, [])

/-- The record of a submitted launch, read by firmware, and whether the partition can read it whole; a device launch brings it along. -/
def State.readLaunch (s : State) (l : Launch) : State × Launch × Bool :=
  if l.fromDevice then (s, l, !l.far)
  else match s.fwReadAll l.part l.recAddr 512 with
    | (s, some bs) => (s, { l with words := (List.range 64).foldl (fun m i => m.put i (wordOf ((bs.drop (8 * i)).take 8))) [] }, true)
    | (s, none) =>
      let r := s.readWords l.part l.recAddr
      (r.1, { l with words := r.2 }, false)

/-! ## What follows (R320, R321) -/

/-- A result reaches the slug that launched; its register may be one that a path of a diverged slug may not change: then the `LAUNCH`
faults (spec/15 R417; log entry 55). -/
def State.answerParent (s : State) (o : Origin) (x : Word) : State :=
  match o with
  | .device fk sl g b pc mask =>
    if !(s.slug fk sl).live then s
    else if s.pinHolds fk sl g.toNat x then
      (s.modSlug fk sl (fun m => m.heard g.toNat)).lateTrap fk sl b mask (s.recInfo fk sl b pc mask)
        { code := 0x0A, d0 := 0x80 + g.toNat, d1 := x } .fail 0
    else s.modSlug fk sl (fun m => m.deliverG g.toNat x)
  | _ => s

/-- A launch's packet or table entry hears of its end (R313, R333). -/
def State.launchOver (s : State) (p : Nat) (o : Origin) (abort : Bool) : State :=
  match o with
  | .packet q id => s.endPacket p q id abort
  | .timed i => s.modPart p (fun q => { q with tt := q.tt.upd i (fun e => { e with busy := false }) })
  | _ => s

/-- Records of a refused launch (R321, R429): in the galley when it lies in the partition and GLOG is in range. -/
def State.refusalRecords (s : State) (k : Nat) (r : Refused) : State :=
  let l := s.launch k
  if s.rootPart l.galley = some l.part ∧ 4 ≤ l.glog ∧ l.glog ≤ 16 then
    let s := s.report { launch := k, eng := 5 } { code := 0x70, sub := r.code }
    match r.note with
    | some ws => s.post k ws
    | none => s
  else s

/-- A refused launch (R321): its records, LREF, the abort of SIGNAL, and its slot is free. -/
def State.refuseLaunch (s : State) (k : Nat) (r : Refused) : State :=
  let l := s.launch k
  let s := s.refusalRecords k r
  let s := match l.origin with
    | .packet q _ => s.modQueue l.part q (fun x => { x with lref := r.code })
    | _ => s
  let s := s.signal l.part l.signal true
  let s := s.answerParent l.origin (r.code.zeroExtend 64)
  State.pump l.part 64 ((s.modLaunch k (fun _ => {})).launchOver l.part l.origin true)

/-- An accepted launch (R320): it takes the lowest free active-launch index, and its place in the order of acceptance, by the
cycle in which its checks finish and then by the order of submission. -/
def State.acceptLaunch (s : State) (k : Nat) (x : Loaded) : State :=
  let l := s.launch k
  let n := s.freeLaunch 0
  let s := s.modLaunch k (fun _ => {})
  let s := s.modLaunch n (fun _ => { l with st := .active, order := s.cyc * 2 ^ 64 + l.order, oh := x.oh, entry := x.entry, pinG := x.pinG })
  s.answerParent l.origin 0

/-- LAUNCH_CHECKS_FINISH: the checks of the launch that stands beyond the active indexes at `index` finish. A launch that is none of a
slug's passes its last check once there is an active-launch entry for it. -/
def execLaunchChecksFinish (s : State) : Out :=
  let k := s.ev.index
  let l0 := s.launch k
  if l0.st ≠ .checking ∨ k < 16384 then .next s
  else match s.readLaunch l0 with
    | (s, l, whole) =>
      let s := s.modLaunch k (fun _ => l)
      match (orRefuse s whole 0x81 (fun s => s.checkLaunch l) : Ck Loaded) with
      | (s', .ok x) => .next (if s.launchesFull l.part then s else s'.acceptLaunch k x)
      | (s', .error r) => .next (s'.refuseLaunch k r)

/-! ## The word (spec/05 R140, spec/08 R268, R337, R338) -/

/-- The spots of a load all lie on NORMAL pages. -/
def allNormal (good : List (Elem × List Spot)) : Bool :=
  good.all (fun g => g.2.all (fun x => match x with
    | .mem _ _ _ l => l.mt == 0
    | .spad _ _ _ => false))

/-- `LAUNCH`: the record is a load of the slug; a release with mask FC; the launch is submitted, and the destination waits for
its checks. -/
def execLaunch (w : Ops) (_m : AluMod) (s : State) : Out :=
  scalarWord w.h s (fun c => s.unlessTx c true (fun _ =>
    let ga := c.m.srcG w 0 w.a
    match s.gate c { whole := true, skips := false } false false (fun _ => none) (oneElem 512 ga) with
    | (s, none) => s
    | (s, some (good, _)) =>
      let s := s.release c.core maskFC
      if s.relWaits c.core maskFC then s.hold else
      let r := s.readGood c good
      let bs := (r.2.map (·.2)).headD []
      let s := r.1
      let l := s.launchOf c
      let child : Launch :=
        { part := l.part, depth := l.depth + 1, recAddr := ga.toNat, parent := c.f.launch, parentWorld := l.world,
          origin := .device c.iss.fk c.iss.sl (BitVec.ofNat 8 w.d.num) c.iss.b c.path.pc c.act
          words := (List.range 64).foldl (fun m i => m.put i (wordOf ((bs.drop (8 * i)).take 8))) [], far := !allNormal good }
      let s := s.submit child
      (s.modCur (fun m => { m with pendingG := m.pendingG ++ [BitVec.ofNat 8 (0x80 + w.d.num)] })).retire c))

/-! ## Time-triggered launches (R332, R333) -/

/-- An occurrence of an entry has come. -/
def State.ttDue (s : State) (p i : Nat) : Bool :=
  let e := (s.part p).tt.look i
  e.en && decide (e.next.toNat ≤ s.ptpNow)

/-- TT_OCCURRENCE: the occurrence of entry `index` is submitted, or skipped while the entry's launch has not completed, while no
active-launch entry is free, and when its time passed unseen (R333). -/
def execTtOccurrence (s : State) : Out :=
  let p := s.ev.part
  let i := s.ev.index
  let e := (s.part p).tt.look i
  if !s.ttDue p i then .next s
  else
    let late := decide (5000 < s.ptpNow - e.next.toNat)
    let skip := e.busy || late || decide (s.launchLimit p ≤ s.activeCount p)
    let e' : TtEntry :=
      { e with next := e.next + e.period.zeroExtend 64, en := e.period != 0
               skips := if skip then e.skips + 1 else e.skips
               runs := if skip then e.runs else e.runs + 1, busy := e.busy || !skip }
    let s := s.modPart p (fun q => { q with tt := q.tt.put i e' })
    .next (if skip then s else s.submit { part := p, origin := .timed i, recAddr := e.record.toNat })

end Sys2Proof.Machine
end

