-- ==== Sys2Proof/Machine/Scheduling.lean ====
section
/-!
DEFINITION. The scheduler and the leaf controllers (spec/10 R322 to R328, R336): the placement order, binding, starting and
restoring formes, the messages of the command links, and how a launch completes.
-/

namespace Sys2Proof.Machine

/-! ## The placement order (R326) -/

/-- The first forme of the unit that holds a forme. -/
def Launch.unitFirst (l : Launch) (fidx : Nat) : Nat := fidx / l.unitSize * l.unitSize

/-- The formes of a unit. -/
def Launch.unitFormes (l : Launch) (first : Nat) : List Nat := (List.range l.unitSize).map (· + first)

/-- The first forme of the next unit of a launch: one that returned unstarted, or the next of the grid. -/
def Launch.nextUnit (l : Launch) : Option Nat :=
  let fresh := if l.next < l.formeCount then [l.next] else []
  match l.returned ++ fresh with
  | [] => none
  | a :: r => some (r.foldl Nat.min a)

/-- The active launches of a partition in the order of acceptance. -/
def State.activeOf (s : State) (p : Nat) : List Nat :=
  sortBy (fun n => (s.launch n).order) ((s.launches.filter (fun e => e.2.part == p && e.2.st == .active)).map (·.1))

/-- A partition's head (R326): launch, first forme, and whether it is a restore. -/
def State.headUnit (s : State) (p : Nat) : Option (Nat × Nat × Bool) :=
  match (s.part p).savedUnits with
  | u :: _ => some (u.1, u.2, true)
  | [] =>
    let ls := s.activeOf p
    let ordered := ls.filter (fun n => (s.launch n).fromDevice) ++ ls.filter (fun n => !(s.launch n).fromDevice)
    ordered.findSome? (fun n => (s.launch n).nextUnit.map (fun f => (n, f, false)))

/-! ## The save pool (R336) -/

/-- The bytes of a forme's save (log entry 37). -/
def Launch.saveBytes (l : Launch) : Nat :=
  4096 + l.ext 1 * (8192 + l.alloc * 1024) + l.spad * 2 ^ 18 + l.accNeed * 49152

/-- The pool has room for the saves of a unit. -/
def State.saveRoom (s : State) (l : Launch) : Bool :=
  let q := s.part l.part
  decide (q.saveUsed + l.unitSize * l.saveBytes ≤ 2 ^ 18 * q.saveFrames.length)

/-- The reservation of `n` formes' saves made or given back. -/
def State.reserveSave (s : State) (l : Launch) (n : Nat) (back : Bool) : State :=
  s.modPart l.part (fun q => { q with saveUsed := if back then q.saveUsed - n * l.saveBytes else q.saveUsed + n * l.saveBytes })

/-! ## Binding (R25, R26, R324, R327) -/

/-- What a forme needs now: every slug at first, the live ones at a restore, nothing once it has ended (R25). -/
def State.needOf (s : State) (n : Nat) (l : Launch) (restore : Bool) (fidx : Nat) : Need' :=
  let f := s.forme (formeKey n fidx)
  if !restore then l.need
  else if f.place = .ended then { slugs := 0 }
  else { l.need with slugs := (f.slugs.filter (fun m => m.2.live)).length }

/-- A slug as it starts (spec/01 R33, spec/02 R55, spec/04 R119). -/
def Launch.freshSlug (l : Launch) (fidx sl : Nat) : Slug :=
  let seed : Word := if l.srseed = 0 then 1 else l.srseed
  let x := seed ^^^ (BitVec.ofNat 64 (fidx * l.ext 1 + sl) * 0x9E3779B97F4A7C15)
  { live := true, strict := l.strict, owner := sl == l.owner, alloc := l.alloc, srg := if x = 0 then 1 else x,
    a := { path := some { pc := l.entry, mask := 0xFFFFFFFF } } }

/-- A forme as it starts, on a core. -/
def Launch.freshForme (l : Launch) (n fidx : Nat) : Forme :=
  { launch := n, fidx := fidx, slugs := (List.range (l.ext 1)).foldl (fun m i => m.put i (l.freshSlug fidx i)) [] }

/-- Granules `base` to `base + n − 1` given to a forme, with its world's tag (spec/02 R56). -/
def holdG (m : Sparse Granule) (fk base n world : Nat) : Sparse Granule :=
  (List.range n).foldl (fun m i => m.put (base + i) { holder := some fk, world := world }) m

/-- The scratchpad part of a core set (spec/01 R26): the L1 lines that no longer fit are written back, with U partials, and
dropped. -/
def State.setPart (s : State) (core p : Nat) : State :=
  if (s.core core).p = p then s
  else
    let s := (s.modCore core (fun c => { c with p := p })).flushU core
    let c := s.core core
    (c.l1.take (c.l1.length - c.l1Lines)).foldl (fun s e => s.evict core e.1) s

/-- The lowest free bind record of a cluster. -/
def Cluster.freeBind (c : Cluster) : Nat := ((List.range 512).find? (fun i => !(c.binds.look i).v)).getD 0

/-- A forme bound to a place (R324): its granules and its bind record are taken. `x0` and `y0` are its pitch's south-west core.
A restored forme's engine queue keeps its arrival numbers (DESIGN CHOICE; log entry 88). -/
def State.bindForme (s : State) (n : Nat) (l : Launch) (q : Placed) (x0 y0 : Nat) (reserved restore : Bool) : State :=
  let fk := formeKey n q.fidx
  let old := if restore then s.forme fk else l.freshForme n q.fidx
  let live := (old.slugs.filter (fun m => m.2.live)).map (·.1)
  let slugs := live.zipIdx.foldl (fun m e => m.upd e.1 (fun x => { x with vb := q.base.1 + e.2 * l.alloc })) old.slugs
  let cl := clusterOf q.core
  let b := (s.cluster cl).freeBind
  let pitch := l.decl 3
  let f : Forme :=
    { old with
      place := .bound, core := q.core, bind := b, slugs := slugs, goes := !reserved, restored := restore
      pidx := if pitch then q.fidx % l.ext 2 else 0
      pw := if pitch then l.pw else 1, ph := if pitch then l.ph else 1, x0 := x0, y0 := y0 }
  let need := if (s.core q.core).spad.any (fun e => e.2.holder.isSome) then (s.core q.core).p else Nat.max 1 l.spad
  let s := if l.spad = 0 then s else s.setPart q.core need
  let s := s.modCore q.core (fun c => { c with
    regs := holdG c.regs fk q.base.1 (live.length * l.alloc) l.world
    spad := holdG c.spad fk q.base.2.1 l.spad l.world
    accs := holdG c.accs fk q.base.2.2 l.accNeed l.world })
  let rec' : Bind :=
    { v := true, launch := n, core := coreInCluster q.core, pf := f.pidx, vbase := q.base.1, sbase := q.base.2.1,
      abase := q.base.2.2, fidx := q.fidx, reserved := reserved }
  let s := s.modCluster cl (fun c => { c with binds := c.binds.put b rec' })
  let s := { s with formes := s.formes.put fk f }
  if restore then s.rehash else s

/-- The clusters a list of placed formes touches. -/
def placedClusters (qs : List Placed) : List Nat := (qs.map (fun q => clusterOf q.core)).dedup

/-! ## Orders (R323) -/

/-- The message at the head of a cluster's link to the scheduler, when it is of a type. -/
def State.upHead (s : State) (cl : Nat) (type : BitVec 8) : Option LinkMsg :=
  match (s.cluster cl).toSched with
  | m :: _ => if m.type = type then some m else none
  | [] => none

/-- The message at the head of a cluster's link to its leaf, when it is of a type. -/
def State.downHead (s : State) (cl : Nat) (type : BitVec 8) : Option LinkMsg :=
  match (s.cluster cl).toLeaf with
  | m :: _ => if m.type = type then some m else none
  | [] => none

/-- The formes of a unit that a placement binds: at a restore not those that had ended (R25). -/
def State.toBind (s : State) (n : Nat) (restore : Bool) (x : Placing) : List Placed :=
  x.done.filter (fun q => !restore || (s.forme (formeKey n q.fidx)).place != .ended)

/-- The scheduler sends its orders for a unit (R323, R327, R328): PLACE, RESERVE or RESTORE to every cluster that holds a chosen core. A
unit of one forme names none, for the leaf chooses it. The bytes of the unit's save are reserved (R336). -/
def State.orderUnit (s : State) (n first : Nat) (restore : Bool) (x : Placing) : State :=
  let l := s.launch n
  let many := decide (1 < l.unitSize)
  let corner (q : Placed) : Nat :=
    if l.decl 3 then ((x.done.find? (fun r => r.fidx == q.fidx / l.ext 2 * l.ext 2)).map (·.core)).getD q.core else q.core
  let new := s.toBind n restore x
  let cls := placedClusters new
  let s := if restore then s else s.reserveSave l l.unitSize false
  let o : Order := { launch := n, first := first, restore := restore, formes := new.map (·.fidx), waits := cls, bound := x.bound }
  let s := s.modPart l.part (fun p => { p with order := some o })
  cls.foldl (fun s cl =>
    let here := new.filter (fun q => clusterOf q.core == cl)
    s.modCluster cl (fun c => c.sendDown
      { type := if restore then 0x05 else if many then 0x02 else 0x01, launch := n, formes := here.map (fun q => (n, q.fidx)),
        cores := if many then here.map (fun q => (q.core, corner q)) else [] })) s

/-- The orders for the head of a partition, if it is of the kind asked for, there is room, and no other unit of the partition is being
bound (R325 to R328, R336; log entry 51). -/
def State.orderHead (s : State) (p : Nat) (ask : Launch → Bool → Bool) : Option State :=
  match s.headUnit p with
  | none => none
  | some (n, first, restore) =>
    let l := s.launch n
    if (s.part p).order.isSome || !ask l restore || !(restore || s.saveRoom l) then none
    else (l.placeAt (s.needOf n l restore) first (s.openClusters p) (s.placing p l)).map (fun x => s.orderUnit n first restore x)

/-- The places a leaf finds for the formes of an order: on the cores named, or on the best core of its cluster (R327); `none` when it
has no room, or when pre-emption keeps new units from the cluster (R334). -/
def State.leafFinds (s : State) (cl : Nat) (m : LinkMsg) : Option Placing :=
  let l := s.launch m.launch
  let x := s.placing l.part l
  let need (i : Nat) : Need' := s.needOf m.launch l (m.type == 0x05) i
  if l.st ≠ .active ∨ !(s.openClusters l.part).contains cl then none
  else if m.cores.isEmpty then m.formes.foldl (fun r e => r.bind (fun (x : Placing) => x.forme [cl] (need e.2) e.2)) (some x)
  else (m.formes.zip m.cores).foldl (fun r e => r.bind (fun (x : Placing) =>
    if x.records cl = 0 then none
    else ((x.room e.2.1).fits (need e.1.2)).map (fun f => x.put (need e.1.2) { fidx := e.1.2, core := e.2.1, base := f }))) (some x)

/-- The leaf of cluster `core` obeys the order at the head of its link: it binds every forme named, or none, and answers BOUND (R323). -/
def State.leafBinds (s : State) (type : BitVec 8) : State :=
  let cl := s.ev.core
  match s.downHead cl type with
  | none => s
  | some m =>
    let s := s.modCluster cl (·.tookDown)
    let answer (s : State) (ok : Bool) : State :=
      s.modCluster cl (fun c => c.sendUp { type := 0x81, launch := m.launch, formes := m.formes, ok := ok })
    match s.leafFinds cl m with
    | none => answer s false
    | some x =>
      let corner (q : Placed) : Nat := (((m.formes.zip m.cores).find? (fun e => e.1.2 == q.fidx)).map (·.2.2)).getD q.core
      answer (x.done.foldl (fun s q =>
        s.bindForme m.launch (s.launch m.launch) q (corner q % 16) (corner q / 16) (!m.cores.isEmpty) (type == 0x05)) s) true

/-- PLACE: the leaf of cluster `core` binds a forme that is no part of a pitch or ganged unit; with `flag` false the scheduler sends the
order for the head of partition `part`. -/
def execLinkPlace (s : State) : Out :=
  .next (if s.ev.flag then s.leafBinds 0x01 else (s.orderHead s.ev.part (fun l r => !r && l.unitSize == 1)).getD s)

/-- RESERVE: the leaf of cluster `core` binds formes of a pitch or ganged unit without starting them; with `flag` false the scheduler
sends the orders for the head of partition `part`. -/
def execLinkReserve (s : State) : Out :=
  .next (if s.ev.flag then s.leafBinds 0x02 else (s.orderHead s.ev.part (fun l r => !r && l.unitSize != 1)).getD s)

/-- RESTORE: the leaf of cluster `core` binds formes of a saved unit; with `flag` false the scheduler sends the orders for the head of
partition `part`. With `tenant` an image that the leaf reads has an uncorrectable error on line `index`: the launch ends by failure
(spec/18 R475). -/
def execLinkRestore (s : State) : Out :=
  if !s.ev.flag then .next ((s.orderHead s.ev.part (fun _ r => r)).getD s)
  else if s.ev.tenant then
    match s.downHead s.ev.core 0x05 with
    | some m => .next (((s.report { launch := m.launch, eng := 5 }
        { code := 0x41, reason := 0x12, d1 := BitVec.ofNat 64 s.ev.index }).failLaunch m.launch 0x41).leafBinds 0x05)
    | none => .next s
  else .next (s.leafBinds 0x05)

/-! ## Answers of the leaves (R323, R328) -/

/-- A forme gives its core up: its slugs' slots and registers, its granules, its bind record. -/
def State.vacate (s : State) (fk : Nat) : State :=
  let f := s.forme fk
  let running := f.place != .bound
  let s := (f.slugs.filter (fun m => m.2.live)).foldl (fun s m => s.modCore f.core (fun c =>
    (if running then c.dropSlot m.2.h else c).releaseR s.cyc m.2.vb m.2.alloc)) s
  s.leaveCore fk

/-- The bound formes of a unit give their places up: a saved one is saved as it was, the others have not begun (R334). -/
def State.dropBound (s : State) (fks : List Nat) (saved : Bool) : State :=
  let s := fks.foldl (fun s k => s.vacate k) s
  if saved then fks.foldl (fun s k => s.modForme k (fun f => { f with place := .saved })) s
  else { s with formes := s.formes.filter (fun e => !fks.contains e.1) }

/-- A unit stands: it leaves the placement order, its outer units are bound to their instances (R329), and a unit of several formes is
let go by GO to all of its clusters (R328). -/
def State.unitStands (s : State) (o : Order) : State :=
  let l := s.launch o.launch
  let s := s.modLaunch o.launch (fun l => { l with
    next := if !o.restore && o.first == l.next then l.next + l.unitSize else l.next
    returned := if o.restore then l.returned else l.returned.erase o.first
    boundTo := o.bound })
  let s := if o.restore then s.modPart l.part (fun q => { q with savedUnits := q.savedUnits.erase (o.launch, o.first) }) else s
  if l.unitSize ≤ 1 then s
  else
    let at' (i : Nat) : Nat := clusterOf (s.forme (formeKey o.launch i)).core
    ((o.formes.map at').dedup).foldl (fun s c => s.modCluster c (fun x => x.sendDown
      { type := 0x03, launch := o.launch, formes := (o.formes.filter (fun i => at' i == c)).map (fun i => (o.launch, i)) })) s

/-- A unit is refused (R328): what was bound of it is unbound, and it stays the head. -/
def State.unitRefused (s : State) (o : Order) : State :=
  let l := s.launch o.launch
  let here := (o.formes.map (formeKey o.launch)).filter (fun k => (s.forme k).place == .bound)
  let s := s.dropBound here o.restore
  if o.restore then s else s.reserveSave l l.unitSize true

/-- BOUND: the scheduler takes note of cluster `core`'s answer; once every cluster has answered the unit stands, or is refused because
one of them refused (R323, R328). -/
def execLinkBound (s : State) : Out :=
  let cl := s.ev.core
  match s.upHead cl 0x81 with
  | none => .next s
  | some m =>
    let s := s.modCluster cl (·.tookUp)
    let p := (s.launch m.launch).part
    match (s.part p).order with
    | none => .next s
    | some o =>
      let o := { o with waits := o.waits.erase cl, refused := o.refused || !m.ok || (s.launch m.launch).st != .active }
      if o.launch ≠ m.launch then .next s
      else if !o.waits.isEmpty then .next (s.modPart p (fun q => { q with order := some o }))
      else
        let s := s.modPart p (fun q => { q with order := none })
        .next (if o.refused then s.unitRefused o else s.unitStands o)

/-- GO: the leaf of cluster `core` lets the formes that RESERVE bound start. -/
def execLinkGo (s : State) : Out :=
  let cl := s.ev.core
  match s.downHead cl 0x03 with
  | none => .next s
  | some m =>
    let s := s.modCluster cl (·.tookDown)
    .next (m.formes.foldl (fun s e => s.modForme (formeKey e.1 e.2) (fun f => if f.place = .bound then { f with goes := true } else f)) s)

/-- A partition's pre-emptions that have nothing left to do end (R334); those that hold stay. -/
def State.settle (s : State) (p : Nat) : State :=
  let busy (d : Draining) : Bool := d.hold || s.formes.any (fun e =>
    (e.2.place == .draining || e.2.place == .saving) && (s.launch e.2.launch).part == p
      && (match d.launch with | some n => e.2.launch == n | none => true)
      && (match d.cluster with | some c => clusterOf e.2.core == c | none => true))
  let waiting (d : Draining) : Bool := (List.range 16).any (fun c => ((s.cluster c).toLeaf ++ (s.cluster c).waitDown).any (fun m =>
    m.type == 0x04 && (match d.cluster with | some x => x == c | none => true)))
  s.modPart p (fun q => { q with draining := q.draining.filter (fun d => busy d || waiting d) })

/-- DONE: the scheduler counts the formes that ended in cluster `core`; their save bytes are free. -/
def execLinkDone (s : State) : Out :=
  let cl := s.ev.core
  match s.upHead cl 0x82 with
  | none => .next s
  | some m =>
    let s := s.modCluster cl (·.tookUp)
    let l := s.launch m.launch
    let s := (s.modLaunch m.launch (fun l => { l with ended := l.ended + m.formes.length })).reserveSave l m.formes.length true
    .next (s.settle l.part)

/-! ## Starting (R325, spec/01 R27) -/

/-- The slot a slug takes (spec/01 R27): the port with fewer slugs, ties to port 0; the lowest free slot, of the other port when
that one has none. -/
def Core.slotFor (c : Core) : Nat :=
  let used (p : Nat) : Nat := (c.slots.filter (fun e => e.2.isSome && e.1 % 2 == p)).length
  let free (p : Nat) : Option Nat := (List.range 32).findSome? (fun i => if (c.slots.look (2 * i + p)).isNone then some (2 * i + p) else none)
  let p := if used 1 < used 0 then 1 else 0
  ((free p).orElse (fun _ => free (1 - p))).getD 0

/-- A slug takes its slot and stands last in its port's age list. -/
def Core.seat (c : Core) (fk sl : Nat) : Core × Nat :=
  let h := c.slotFor
  let c := { c with slots := c.slots.put h (some (fk, sl)) }
  (if h % 2 = 0 then { c with port0 := { c.port0 with age := c.port0.age ++ [h] } }
   else { c with port1 := { c.port1 with age := c.port1.age ++ [h] } }, h)

/-- The observer mask C. -/
def maskC : BitVec 7 := 0x02

/-- A bound forme starts: its slugs take their slots; the core acts as at an acquire of mask C (spec/08 R268), and at a restore as at a
fence on UO lines too (R270). A restored path carries no pending distance, and waits for results that were in flight (spec/03 R89). -/
def State.startForme (s : State) (fk : Nat) : State :=
  let f := s.forme fk
  let live := (f.slugs.filter (fun m => m.2.live)).map (·.1)
  let s := s.acquire f.core maskC
  let s := if f.restored then s.dropUo f.core else s
  let s := live.foldl (fun s sl =>
    let r := (s.core f.core).seat fk sl
    (s.modCore f.core (fun _ => r.1)).modSlug fk sl (fun m =>
      let late (x : Slot) : Slot := { x with readyAt := max (max x.readyAt (s.cyc + 1)) (m.landed s.cyc), pend := [] }
      let wake := m.wake.map (fun w => if w.empty then { w with fired := true } else w)
      { m with h := r.2, a := late m.a, b := late m.b, wake := wake })) s
  let slots : BitVec 64 := live.foldl (fun b sl => b ||| (1#64 <<< (s.slug fk sl).h)) 0
  let s := s.modCluster (clusterOf f.core) (fun c => { c with binds := c.binds.upd f.bind (fun b => { b with st := 1, slots := slots }) })
  s.modForme fk (fun f => { f with place := .running, drain := none })

/-- Every granule of a bound forme is free for it (R325), and its core is live. -/
def State.granulesReady (s : State) (fk : Nat) : Bool :=
  let f := s.forme fk
  let c := s.core f.core
  let ok (m : Sparse Granule) : Bool := m.all (fun e => e.2.holder != some fk || decide (e.2.freeAt ≤ s.cyc))
  !c.retired && ok c.regs && ok c.spad && ok c.accs

/-- A pre-emption that is under way keeps a bound forme from starting (R334): it is named in a PREEMPT on its way, its cluster is barred
to its partition, or its core is one of those concerned. -/
def State.mayNotStart (s : State) (fk : Nat) : Bool :=
  let f := s.forme fk
  let c := s.cluster (clusterOf f.core)
  (c.toLeaf ++ c.waitDown).any (fun m => m.type == 0x04 && m.formes.contains (f.launch, f.fidx))
    || (s.barred (s.launch f.launch).part).contains (clusterOf f.core) || s.concerned f.core

/-- FORME_DISPATCH: the unit of forme `forme` starts, every forme of it in one step (spec/01 R49). -/
def execFormeDispatch (s : State) : Out :=
  let f := s.forme s.ev.forme
  let l := s.launch f.launch
  let fks := (l.unitFormes (l.unitFirst f.fidx)).map (formeKey f.launch)
  let here := fks.filter (fun k => (s.forme k).place == .bound)
  if f.place ≠ .bound ∨ !(fks.all (fun k => (s.forme k).place == .bound || (s.forme k).place == .ended)) then .next s
  else if here.all (fun k => (s.forme k).goes && s.granulesReady k && !s.mayNotStart k) then .next (here.foldl (fun s k => s.startForme k) s)
  else .next s

/-- A clearing engine's finished granules are free. -/
def sweepG (m : Sparse Granule) (now : Nat) : Sparse Granule :=
  m.mapVals (fun _ g => if g.holder.isNone && decide (g.freeAt ≤ now) then {} else g)

/-- GRANULE_CLEARED: granules of core `core` whose clearing is over are free; without scratchpad in use or in clearing the core's
scratchpad part is 256 KiB (spec/01 R26, spec/02 R57). -/
def execGranuleCleared (s : State) : Out :=
  let k := s.ev.core
  let s := s.modCore k (fun c => { c with regs := sweepG c.regs s.cyc, spad := sweepG c.spad s.cyc, accs := sweepG c.accs s.cyc })
  .next (if (s.core k).spad.isEmpty then s.setPart k 1 else s)

/-! ## The end of a launch (R308, R322) -/

/-- Formes of a launch. -/
def State.formesOf (s : State) (n : Nat) : List (Nat × Forme) := s.formes.filter (fun e => e.2.launch == n)

/-- Copies, follow-ons, queued engine work or collectives of a launch are still under way. -/
def State.workLeft (s : State) (n : Nat) : Bool :=
  let mine (fk : Nat) : Bool := (s.forme fk).launch == n && s.formes.any (fun e => e.1 == fk)
  s.cores.any (fun c => c.2.copies.any (fun q => mine q.fk))
    || (s.formesOf n).any (fun e => !e.2.mq.isEmpty || !e.2.follow.isEmpty || !e.2.transit.isEmpty)
    || s.parts.any (fun p => p.2.colls.any (fun x => mine x.fk))

/-- Messages about a launch are still on a link. -/
def State.messagesLeft (s : State) (n : Nat) : Bool :=
  s.clusters.any (fun c => (c.2.toLeaf ++ c.2.waitDown ++ c.2.toSched ++ c.2.waitUp).any (fun m =>
    m.formes.any (fun f => f.1 == n)))

/-- An object made by a `SEALREQ` goes with the launch: none other refers to it (spec/15 R405, R437). -/
def State.ownObject (s : State) (n oh : Nat) : Bool :=
  let l := s.launch n
  ((s.part l.part).objs.look oh).made && !s.launches.any (fun e =>
    e.1 != n && e.2.st != .none && e.2.part == l.part && (e.2.oh == oh || e.2.sealedOh.contains oh))

/-- A launch leaves the device: its formes, the objects it made, its index. -/
def State.dropLaunch (s : State) (n : Nat) : State :=
  let l := s.launch n
  let own := l.sealedOh.filter (s.ownObject n)
  let s := { s with formes := s.formes.filter (fun e => e.2.launch != n) }
  let s := s.modPart l.part (fun q => { q with
    objs := own.foldl (fun m oh => m.put oh {}) q.objs
    groups := q.groups.mapVals (fun _ g => if g.used && !g.formed && g.fk / 2 ^ 48 == n then {} else g) })
  s.modLaunch n (fun _ => {})

/-- The writes of a launch are performed: what its cores hold back goes home (R308). -/
def State.flushLaunch (s : State) (n : Nat) : State :=
  (((s.formesOf n).map (fun e => e.2.core)).dedup).foldl (fun s c => s.fence c 0x7F) s

/-- Some of them are not: their homes hold them back (R308). -/
def State.launchUnsent (s : State) (n : Nat) : Bool := (s.formesOf n).any (fun e => s.fenceWaits e.2.core 0x7F)

/-- A launch may complete. -/
def State.launchDone (s : State) (n : Nat) : Bool :=
  let l := s.launch n
  l.st == .active && l.failCode.isNone && decide (l.formeCount ≤ l.next) && l.returned.isEmpty && l.ended == l.formeCount
    && !s.workLeft n && !s.messagesLeft n

/-- LAUNCH_COMPLETE: launch `index` completes: its SIGNAL, then its packet or entry (R313, R322). -/
def execLaunchComplete (s : State) : Out :=
  let n := s.ev.index
  let l := s.launch n
  if !s.launchDone n then .next s
  else
    let s := s.flushLaunch n
    if s.launchUnsent n then .next s
    else
    let s := s.signal l.part l.signal false
    .next (State.pump l.part 64 ((s.dropLaunch n).launchOver l.part l.origin false))

end Sys2Proof.Machine
end

