-- ==== Sys2Proof/Machine/Preemption.lean ====
section
/-!
DEFINITION. Pre-emption (spec/10 R334 to R336, spec/02 R68, spec/06 R205, spec/08 R270, spec/18 R475), the shared pool's slices
(R330), and the end of a launch by failure (spec/18 R468, R478).
-/

namespace Sys2Proof.Machine

/-! ## Asking for a pre-emption (R334) -/

/-- A forme is on a core. -/
def Place.resident (p : Place) : Bool := p == .bound || p == .running || p == .draining || p == .saving

/-- The formes of a partition that are on cores and satisfy a test. -/
def State.residents (s : State) (p : Nat) (t : Nat → Forme → Bool) : List Nat :=
  (s.formes.filter (fun e => e.2.place.resident && (s.launch e.2.launch).part == p && t e.1 e.2)).map (·.1)

/-- Every forme of the units that formes belong to. -/
def State.wholeUnits (s : State) (fks : List Nat) : List Nat :=
  (fks.flatMap (fun fk =>
    let f := s.forme fk
    let l := s.launch f.launch
    (l.unitFormes (l.unitFirst f.fidx)).map (formeKey f.launch))).dedup

/-- A pre-emption of formes is asked for: the drain budget runs from now, and each cluster's leaf is sent PREEMPT. -/
def State.preempt (s : State) (p : Nat) (ds : List Draining) (fks : List Nat) : State :=
  let fks := (s.wholeUnits fks).filter (fun fk => (s.forme fk).place.resident)
  let s := s.modPart p (fun q => { q with draining := q.draining ++ ds })
  let cls := (fks.map (fun fk => clusterOf (s.forme fk).core)).dedup
  let s := cls.foldl (fun s c => s.modCluster c (fun x => x.sendDown
    { type := 0x04, formes := (fks.filter (fun fk => clusterOf (s.forme fk).core == c)).map (fun fk => (fk / 2 ^ 48, fk % 2 ^ 48)) })) s
  s.settle p

/-- The cycle at which a drain budget that begins now ends (R335). -/
def State.drainEnd (s : State) (p : Nat) : Nat := s.cyc + 1600 * (s.part p).drainUs.toNat

/-! ## Whether a forme may be saved (R334) -/

/-- Copies of a forme are under way. -/
def State.copying (s : State) (fk : Nat) : Bool := s.cores.any (fun c => c.2.copies.any (fun q => q.fk == fk))

/-- A slug waits in `BAR` or `BARW` on a guy line of level 2. -/
def Slug.atGuy2 (m : Slug) : Bool := match m.wake with
  | some w => w.gwait.any (fun e => decide (guyLevel e.1 = 2) && e.2.isSome)
  | none => false

/-- A slug sleeps in `RETRY`. -/
def Slug.inRetry (m : Slug) : Bool := match m.wake with
  | some w => w.tx.isSome
  | none => false

/-- Every live slug sleeps in `RETRY`, or the forme is at a tile-task boundary. -/
def State.atRest (s : State) (fk : Nat) : Bool :=
  let f := s.forme fk
  let p := (s.launch f.launch).part
  let live := (f.slugs.filter (fun m => m.2.live)).map (·.2)
  live.all Slug.inRetry || (live.all Slug.atGuy2 && f.mq.isEmpty && f.follow.isEmpty && f.transit.isEmpty && !s.copying fk
    && !(s.part p).colls.any (fun x => x.fk == fk))

/-! ## Saving (R335, R336, spec/08 R270) -/

/-- The open transactions of a forme abort (spec/08 R270, spec/11 R349). -/
def State.abortTxs (s : State) (fk : Nat) : State :=
  (s.modForme fk (fun f => { f with slugs := f.slugs.mapVals (fun _ m => match m.tx with
    | some t => m.txRestart t 0x03 s.cyc
    | none => m) })).drainAll

/-- A core drops its SO lines (spec/08 R270). -/
def State.dropSo (s : State) (core : Nat) : State := s.sweep core (fun _ x => x.kind == .so) true

/-- A slug that waits in a gathering is put back before its `RECAST` (spec/01 R46); it stands there already, and issues it again. -/
def Slug.backToRecast (m : Slug) : Slug := { m with gathering := none }

/-- A forme cannot be saved yet: a regroup of it is under way (spec/01 R46), a path of it has a store that its home holds back, or its
core has bytes or partials that their homes hold back (spec/08 R270). -/
def State.saveWaits (s : State) (fk : Nat) : Bool :=
  let f := s.forme fk
  f.gathers.any (·.closed) || s.stuckAt f.core
    || s.held.any (fun x => match x.src with | .path k _ _ => k == fk | _ => false)

/-- A forme is saved: its open transactions abort, its core acts as at a fence of mask C and drops its lines, slugs in a gathering are
put back before their `RECAST`, its place is given up. A hard save leaves a note in the galley. -/
def State.saveForme (s : State) (hard : Bool) (fk : Nat) : State :=
  let f := s.forme fk
  if f.place == .ended || f.place == .saved then s
  else
    let s := if hard then s.report { launch := f.launch, fidx := f.fidx, eng := 5, core := some f.core } { code := 0x7F } else s
    let s := ((s.abortTxs fk).fence f.core maskC).dropSo f.core
    let s := (s.vacate fk).modForme fk (fun f => { f with
      place := .saved, drain := none, slugs := f.slugs.mapVals (fun _ m => m.backToRecast), gathers := [] })
    s.modCluster (clusterOf f.core) (fun c => c.sendUp { type := 0x83, launch := f.launch, formes := [(f.launch, f.fidx)] })

/-- A unit saved whole. -/
def State.saveUnit (s : State) (hard : Bool) (fk : Nat) : State := (s.wholeUnits [fk]).foldl (fun s k => s.saveForme hard k) s

/-- A unit is being saved: its formes issue nothing more, and wait for their copies to end, for regroups, and for what their homes hold
back (R68, R334, R335, spec/01 R46). -/
def State.toSave (s : State) (fks : List Nat) : State :=
  fks.foldl (fun s k => (s.modForme k (fun f => { f with place := .saving })).modCluster (clusterOf (s.forme k).core)
    (fun c => { c with binds := c.binds.upd (s.forme k).bind (fun b => { b with st := 3 }) })) s

/-- A bound forme has not begun: its slugs are as at their start. -/
def State.unbegun (s : State) (fk : Nat) : Bool :=
  let f := s.forme fk
  f.slugs.mapVals (fun _ m => { m with vb := 0 }) == ((s.launch f.launch).freshForme f.launch f.fidx).slugs

/-- A unit that stood is back in the placement order. -/
def State.unbound (s : State) (l : Launch) (n first count : Nat) (fresh : Bool) : State :=
  if fresh then (s.modLaunch n (fun l => { l with returned := l.returned ++ [first] })).reserveSave l count true
  else s.modPart l.part (fun q => { q with savedUnits := (n, first) :: q.savedUnits })

/-- A unit that has no slug resident is unbound and returns to the placement order: unstarted, or as the saved unit it was
(R334); one whose binding is not complete is refused. -/
def State.unbind (s : State) (fk : Nat) : State :=
  let fks := (s.wholeUnits [fk]).filter (fun k => (s.forme k).place == .bound)
  let n := (s.forme fk).launch
  let l := s.launch n
  let first := l.unitFirst (s.forme fk).fidx
  let fresh := fks.all s.unbegun
  let s := s.dropBound fks (!fresh)
  match (s.part l.part).order with
  | some o =>
    if o.launch = n ∧ o.first = first then s.modPart l.part (fun q => { q with order := some { o with refused := true } })
    else s.unbound l n first fks.length fresh
  | none => s.unbound l n first fks.length fresh

/-- The unit of a forme is treated at a pre-emption whose budget ends at `deadline` (R334). -/
def State.treatUnit (s : State) (deadline : Nat) (fk : Nat) : State :=
  let fks := (s.wholeUnits [fk]).filter (fun k => (s.forme k).place.resident)
  if fks.isEmpty then s
  else if fks.all (fun k => (s.forme k).place == .bound) then s.unbind fk
  else
    if fks.all s.atRest then
      if fks.any s.copying || fks.any s.saveWaits then s.toSave fks else s.saveUnit false fk
    else fks.foldl (fun s k => (s.modForme k (fun f => if f.place = .running then { f with place := .draining, drain := some deadline } else f)).modCluster
      (clusterOf (s.forme k).core) (fun c => { c with binds := c.binds.upd (s.forme k).bind (fun b => { b with st := 2 }) })) s

/-- PREEMPT: the leaf of cluster `core` treats the formes named; a unit is treated once. -/
def execLinkPreempt (s : State) : Out :=
  let cl := s.ev.core
  match s.downHead cl 0x04 with
  | none => .next s
  | some m =>
    let s := s.modCluster cl (·.tookDown)
    let fks := m.formes.map (fun e => formeKey e.1 e.2)
    let p := (s.launch (s.forme (fks.headD 0)).launch).part
    let ends := (s.part p).draining.map (·.deadline)
    let deadline := ends.foldl Nat.min (s.drainEnd p)
    .next ((fks.foldl (fun s k => s.treatUnit deadline k) s).settle p)

/-- The unit of a forme is hard-saved, once its copies in flight have ended and its regroups are over; until then no slug of it issues
(R334, R335, spec/01 R46). -/
def State.hardSave (s : State) (fk : Nat) : State :=
  let fks := (s.wholeUnits [fk]).filter (fun k => (s.forme k).place.resident)
  let s := fks.foldl (fun s k => (s.abortTxs k).modForme k (fun f => { f with drain := some s.cyc })) s
  if fks.any s.copying || fks.any s.saveWaits then s.toSave fks else s.saveUnit true fk

/-- DRAIN_BUDGET_EXPIRY: forme `forme` still drains at its budget, and its unit is hard-saved. -/
def execDrainBudgetExpiry (s : State) : Out :=
  let f := s.forme s.ev.forme
  let p := (s.launch f.launch).part
  if f.place ≠ .draining ∨ !(f.drain.any (fun d => decide (d ≤ s.cyc))) then .next s
  else .next ((s.hardSave s.ev.forme).settle p)

/-- The leaf may save the unit of a forme now: every forme of it may be saved, or it waited for copies alone. -/
def State.savable (s : State) (fk : Nat) : Bool :=
  let fks := (s.wholeUnits [fk]).filter (fun k => (s.forme k).place.resident)
  !fks.isEmpty && !fks.any s.saveWaits && (fks.all (fun k => (s.forme k).place == .saving && !s.copying k)
    || fks.all (fun k => (s.forme k).place == .draining && s.atRest k && !s.copying k))

/-- SAVED: with `flag` the scheduler takes note of cluster `core`'s message, and a unit saved whole joins the restores; without it
the leaf saves the unit of forme `forme`. -/
def execLinkSaved (s : State) : Out :=
  if s.ev.flag then
    match s.upHead s.ev.core 0x83 with
    | none => .next s
    | some m =>
      let s := s.modCluster s.ev.core (·.tookUp)
      let l := s.launch m.launch
      let first := l.unitFirst ((m.formes.headD (0, 0)).2)
      let places := (l.unitFormes first).map (fun i => (s.forme (formeKey m.launch i)).place)
      let whole := places.any (· == .saved) && places.all (fun x => x == .saved || x == .ended)
      if l.st = .active ∧ whole ∧ !(s.part l.part).savedUnits.contains (m.launch, first) then
        .next ((s.modPart l.part (fun q => { q with savedUnits := q.savedUnits ++ [(m.launch, first)] })).settle l.part)
      else .next (s.settle l.part)
  else if s.savable s.ev.forme then
    let f := s.forme s.ev.forme
    .next ((s.saveUnit (f.place == .saving && f.drain.isSome) s.ev.forme).settle (s.launch f.launch).part)
  else .next s

/-- A partition's formes are not to return for now: its interface is in ERROR, or the device in D3hot (spec/14 R403, spec/20 R493). -/
def State.heldBack (s : State) (p : Nat) : Bool := (s.part p).tdisp == .error || s.power == .d3hot

/-- PREEMPT_REQUEST: the physical function pre-empts partition `part` (`flag`), or launch `index` (R334). -/
def execPreemptRequest (s : State) : Out :=
  let p := if s.ev.flag then s.ev.part else (s.launch s.ev.index).part
  let n := s.ev.index
  let d : Draining := { launch := if s.ev.flag then none else some n, hold := s.ev.flag && s.heldBack p, deadline := s.drainEnd p }
  .next (s.preempt p [d] (s.residents p (fun _ f => s.ev.flag || f.launch == n)))

/-! ## The shared pool (R330) -/

/-- The clusters of the shared pool. -/
def State.poolClusters (s : State) : List Nat := allClusters.filter (fun c => (s.cluster c).holder == .free)

/-- A partition that shares the pool has a unit waiting or saved, or one that is about to be saved from the pool. -/
def State.wantsPool (s : State) (p : Nat) : Bool :=
  let q := s.part p
  q.exist && q.poolWeight != 0 && ((s.headUnit p).isSome ||
    !(s.residents p (fun _ f => s.poolClusters.contains (clusterOf f.core))).isEmpty)

/-- The partition whose slice is next: ascending index, round from the one that had the last. -/
def State.nextSlice (s : State) : Option Nat :=
  let after := match s.pool.part with
    | some p => (List.range 64).map (fun i => (p + 1 + i) % 64)
    | none => List.range 64
  after.find? s.wantsPool

/-- A slice is over: its time is up, or its partition has no resident forme on the pool and no unit that could be placed
there; or no partition has one while some partition wants it. -/
def State.sliceOver (s : State) : Bool :=
  match s.pool.part with
  | none => s.nextSlice.isSome
  | some p =>
    decide (s.pool.sliceEnd ≤ s.cyc) ||
      ((s.residents p (fun _ f => s.poolClusters.contains (clusterOf f.core))).isEmpty
        && (match s.headUnit p with
          | none => true
          | some (n, first, r) =>
            let l := s.launch n
            (s.part p).order.isNone && (!(r || s.saveRoom l)
              || (l.placeAt (s.needOf n l r) first ((s.openClusters p).filter s.poolClusters.contains) (s.placing p l)).isNone)))

/-- SLICE_END: the outgoing partition's formes on the pool are pre-empted and the next partition has its slice. -/
def execSliceEnd (s : State) : Out :=
  if !s.sliceOver then .next s
  else
    let next := s.nextSlice
    let out := s.pool.part
    let s' := match out with
      | some p => s.preempt p (s.poolClusters.map (fun c => { deadline := s.drainEnd p, cluster := some c }))
          (s.residents p (fun _ f => s.poolClusters.contains (clusterOf f.core)))
      | none => s
    .next { s' with pool := match next with
      | some p => { part := some p, sliceEnd := s.cyc + 1600 * ((s.part p).poolWeight * s.sliceBase.toNat) }
      | none => {} }

/-! ## A launch ends by failure (spec/18 R468, R478) -/

/-- Copies of a launch are still under way. -/
def State.launchCopying (s : State) (n : Nat) : Bool := (s.formesOf n).any (fun e => s.copying e.1)

/-- A launch that failed after one of its formes had ended, and whose other formes have ended (spec/18 R469). -/
def State.asyncOver (s : State) (n : Nat) : Bool :=
  let l := s.launch n
  l.st == .active && l.failCode.isSome && decide (l.formeCount ≤ l.next) && l.returned.isEmpty && l.ended == l.formeCount
    && !s.workLeft n

/-- A launch ends by failure: it is failing, or its last forme has ended after a failure. -/
def State.failDue (s : State) (n : Nat) : Bool := (s.launch n).st == .failing || s.asyncOver n

/-- A core of a launch still holds bytes or partials that their homes hold back for the oldest transaction. -/
def State.launchStuck (s : State) (n : Nat) : Bool := (s.formesOf n).any (fun e => s.stuckAt e.2.core)

/-- The device's part in a failing launch is over: no copy in flight, no message on a link, no write that a home holds back. -/
def State.failReady (s : State) (n : Nat) : Bool := s.failDue n && !s.launchCopying n && !s.messagesLeft n && !s.launchStuck n

/-- A failing launch has stopped: its open transactions have aborted without effect, and it sleeps no more (R468 step 2). -/
def State.stopLaunch (s : State) (n : Nat) : State :=
  { s with formes := s.formes.mapVals (fun _ f => if f.launch = n then
      { f with slugs := f.slugs.mapVals (fun _ m => { m with tx := none, wake := none }) } else f) }.drainAll

/-- The steps of R468 once copies have ended. -/
def State.endByFailure (s : State) (n : Nat) : State :=
  let l := s.launch n
  let p := l.part
  let fs := s.formesOf n
  let cores := (fs.map (fun e => e.2.core)).dedup
  let s := { s with formes := s.formes.mapVals (fun _ f => if f.launch = n then
      { f with mq := [], follow := [], transit := [] } else f) }
  let s := ((s.part p).colls.filter (fun x => x.fk / 2 ^ 48 == n)).foldl (fun s x =>
    match (s.part p).colls.findIdx? (fun y => y == x) with
    | some i => (s.dropColl p i).collOver x.fk x.slug x.pc x.mask x.tag (some (collFlt 0x60 x.gid ((s.part p).groups.look x.gid).self))
    | none => s) s
  let s := cores.foldl (fun s c => s.fence c 0x7F) s
  let s := (fs.filter (fun e => e.2.place.resident)).foldl (fun s e => s.vacate e.1) s
  let s := s.reserveSave l (fs.filter (fun e => e.2.place != .ended)).length true
  let s := s.modPart p (fun q => { q with savedUnits := q.savedUnits.filter (fun u => u.1 != n) })
  let s := s.signal p l.signal true
  let s := (s.dropLaunch n).launchOver p l.origin true
  (State.pump p 64 s).settle p

/-- LAUNCH_END_BY_FAILURE: launch `index` issues nothing more, and is ended once its copies have completed or failed. -/
def execLaunchEndByFailure (s : State) : Out :=
  let n := s.ev.index
  if !s.failDue n then .next s
  else
    let s := (s.modLaunch n (fun l => { l with st := .failing })).stopLaunch n
    if s.failReady n then .next (s.endByFailure n) else .next s

/-- Launches with a saved or waiting unit that the live device can no longer place end by failure (spec/18 R478). -/
def State.endUnplaceable (s : State) : State :=
  s.launches.foldl (fun s e =>
    let l := s.launch e.1
    let units := (match l.nextUnit with | some f => [f] | none => []) ++
      ((s.part l.part).savedUnits.filter (fun u => u.1 == e.1)).map (·.2)
    if l.st = .active ∧ units.any (fun f => !s.couldPlace l f) then
      (s.report { launch := e.1, eng := 5, async := true } { code := 0x70, sub := 0x82 }).failLaunch e.1 0x70
    else s) s

end Sys2Proof.Machine
end

