-- ==== Sys2Proof/Machine/Grants.lean ====
section
/-!
DEFINITION. How partitions come into existence and grow (spec/14 R380, R384, R385, R387), the frames set aside from a grant (spec/10
R336, spec/15 R406, spec/18 R464), and the frames and tables firmware keeps for itself (spec/07 R215, spec/14 R394).
-/

namespace Sys2Proof.Machine

/-! ## Frames -/

/-- The first frame of a tier and the frame after its last (spec/07 R223). -/
def tierFrames (tier : Nat) : Nat × Nat := if tier = 0 then (0, 786432) else (16777216, 23068672)

/-- The first `n` numbers from `cur` on, below `limit`, that a rising list leaves out. -/
def leftOut (limit : Nat) : List Nat → Nat → Nat → List Nat
  | [], cur, n => (List.range (Nat.min n (limit - cur))).map (· + cur)
  | h :: r, cur, n =>
    if h < cur then leftOut limit r cur n
    else
      let k := Nat.min n (Nat.min h limit - cur)
      (List.range k).map (· + cur) ++ leftOut limit r (h + 1) (n - k)

/-- A frame that cannot be granted: held, kept by firmware, or retired (spec/07 R222, R238). -/
def Frame.taken (f : Frame) : Bool := f.owner.isSome || f.firmware || f.retired

/-- Up to `n` frames of a tier that nobody holds, from frame `start` of the tier on. -/
def State.freeFrames (s : State) (tier start n : Nat) : List Nat :=
  let b := tierFrames tier
  leftOut b.2 ((s.frames.filter (fun e => e.2.taken)).map (·.1)) (b.1 + start) n

/-- Change frames. -/
def State.modFrames (s : State) (fs : List Nat) (f : Frame → Frame) : State :=
  { s with frames := fs.foldl (fun m i => m.upd i f) s.frames }

/-- Firmware's own frames. -/
def State.fwFrames (s : State) : List Nat := (s.frames.filter (fun e => e.2.firmware)).map (·.1)

/-- `k` slots for tables in firmware's frames, zero at first; firmware keeps one more frame when it has too few. -/
def State.newTables (s : State) (k : Nat) : Option (State × List Nat) :=
  if k = 0 then some (s, [])
  else
    let slots (s : State) : List Nat := (s.fwFrames.flatMap (fun f => (List.range 32).map (fun i => f * 2 ^ 18 + i * 8192))).filter
      (fun a => !s.fwTables.contains a)
    let more : State := s.modFrames (s.freeFrames 0 0 1) (fun f => { f with firmware := true })
    let s := if k ≤ (slots s).length then s else more
    let ts := (slots s).take k
    if ts.length < k then none
    else some (ts.foldl (fun s a => s.homeWrite a (List.replicate 8192 0)) { s with fwTables := s.fwTables ++ ts }, ts)

/-! ## Leaves of a partition (spec/07 R216) -/

/-- Every present leaf below a table of a level, whose range begins at an address. -/
def State.leavesAt (s : State) (part : Nat) : Nat → Nat → Nat → List Leaf
  | 0, table, va => (List.range 512).filterMap (fun i =>
    let e := s.entry table i
    if e.1.getLsbD 0 && e.1.getLsbD 1 then some { lo := e.1, hi := e.2, level := 0, part := part, base := va + i * pageSize 0 } else none)
  | lv + 1, table, va => (List.range 512).flatMap (fun i =>
    let e := s.entry table i
    let base := va + i * pageSize (lv + 1)
    if e.1.getLsbD 0 && e.1.getLsbD 1 then [{ lo := e.1, hi := e.2, level := lv + 1, part := part, base := base }]
    else match nextTable e.1 e.2 false with
      | some n => s.leavesAt part lv n base
      | none => [])

/-- The root entries granted to a partition (spec/14 R383). -/
def State.rootsOf (s : State) (p : Nat) : List Nat := (s.roots.filter (fun e => e.2 == some p)).map (·.1)

/-- Every present leaf in a partition's root ranges. -/
def State.leavesOf (s : State) (p : Nat) : List Leaf :=
  (s.rootsOf p).flatMap (fun r =>
    let e := s.entry s.root r
    match nextTable e.1 e.2 true with
    | some n => s.leavesAt p 2 n (r * 2 ^ 45)
    | none => [])

/-- Leaves of a partition map a frame. -/
def State.mapped (s : State) (p : Nat) (fr : Nat) : Bool :=
  (s.leavesOf p).any (fun l => (l.mt == 0 || l.mt == 1) && decide (l.frame / 2 ^ 18 ≤ fr ∧ fr < (l.frame + l.size) / 2 ^ 18))

/-! ## Grants (R385, R387) -/

/-- A cluster that nobody holds and on which no forme stands: it may be granted. -/
def State.clusterFree (s : State) (c : Nat) : Bool :=
  (s.cluster c).holder == .free && !s.formes.any (fun e => e.2.place.resident && clusterOf e.2.core == c)

/-- The clusters that may be granted, from number `start` on. -/
def State.freeClusters (s : State) (start : Nat) : List Nat := allClusters.filter (fun c => decide (start ≤ c) && s.clusterFree c)

/-- `n` of a kind may be granted to a partition, from a place on: clusters and frames bring what comes with them. -/
def State.canGrant (s : State) (p k n start : Nat) : Bool :=
  if k = 0 then decide (1 ≤ n ∧ n ≤ 255)
  else if k = 1 then decide (n ≤ (s.freeClusters start).length)
  else if k = 2 ∨ k = 6 then n == 0
  else if k = 3 ∨ k = 4 then n % 2 ^ 18 == 0 && (s.freeFrames (k - 3) start (n / 2 ^ 18)).length == n / 2 ^ 18
  else decide (k ≤ 14) && n % (kindRow k).2 == 0 && decide (n ≤ s.unheld k) && (decide (k < 13) || decide (s.heldOf p k + n ≤ 256))

/-- The grant of `n` of a kind; kind 0 is the partition's weight in the shared pool. The L2 begins empty under a new split of its ways (log
entry 81). -/
def State.grant (s : State) (p k n start : Nat) : State :=
  match k with
  | 0 => s.modPart p (fun q => { q with poolWeight := n })
  | 1 => ((s.freeClusters start).take n).foldl (fun s c => s.modCluster c (fun x => { x with holder := .part p })) s
  | 3 => s.modFrames (s.freeFrames 0 start (n / 2 ^ 18)) (fun f => { f with owner := some p, key := 0, firstTouch := false })
  | 4 => s.modFrames (s.freeFrames 1 start (n / 2 ^ 18)) (fun f => { f with owner := some p, key := 0, firstTouch := false })
  | 5 => { s with l2 := if n = 0 then s.l2 else [] }.modPart p (fun q => { q with ways := q.ways + n })
  | 7 => s.modPart p (fun q => { q with engines := q.engines + n })
  | 8 => s.modPart p (fun q => { q with binds := q.binds + n })
  | 9 => s.modPart p (fun q => { q with worlds := q.worlds + n })
  | 10 => s.modPart p (fun q => { q with memFloor := q.memFloor + n })
  | 11 => s.modPart p (fun q => { q with fabFloor := q.fabFloor + n })
  | 12 => s.modPart p (fun q => { q with keyIds := q.keyIds + n })
  | 13 => s.modPart p (fun q => { q with launches := q.launches + n })
  | 14 => s.modPart p (fun q => { q with queuesHeld := q.queuesHeld + n })
  | _ => s

/-- Where the search for a kind's units begins: clusters at `core`, frames of the tiers at `index` and `size`. -/
def EvArgs.startOf (a : EvArgs) (k : Nat) : Nat := if k = 1 then a.core else if k = 3 then a.index else if k = 4 then a.size else 0

/-- PARTITION_CREATE: partition `part` comes into existence with the amounts of the fourteen kinds in `bytes`. It does not while it
exists, or when an amount cannot be granted. -/
def execPartitionCreate (s : State) : Out :=
  let p := s.ev.part
  let n (k : Nat) : Nat := natOf ((s.ev.bytes.drop (8 * (k - 1))).take 8)
  if s.power ≠ .on ∨ 64 ≤ p ∨ (s.part p).exist then .next s
  else if !(kinds.all (fun k => s.canGrant p k (n k) (s.ev.startOf k))) then .next s
  else .next (kinds.foldl (fun s k => s.grant p k (n k) (s.ev.startOf k)) (s.modPart p (fun _ => { exist := true })))

/-- Frames of a partition that serve no use: not set aside, not in tables, and mapped by no leaf. -/
def State.spareFrames (s : State) (p tier : Nat) : List Nat :=
  let q := s.part p
  let used := q.saveFrames ++ q.storeFrames ++ q.pool1 ++ q.pool2 ++ q.table1.toList ++ q.table2.toList
    ++ (s.leavesOf p).flatMap Leaf.framesOf
  (s.framesHeld p tier).filter (fun f => !used.contains f && !(s.frames.look f).firstTouch)

/-- A resize request of a partition is in progress: a cluster or frames are leaving it. -/
def State.resizing (s : State) (p : Nat) : Bool :=
  (s.part p).draining.any (fun d => d.hold && (d.cluster.isSome || !d.frames.isEmpty))

/-- The answer to a resize request (R389). -/
def State.resizeAnswer (s : State) (p : Nat) (status : BitVec 8) : State := s.modPart p (fun q => { q with resizeStatus := status })

/-- A resize request waits for those of its partition that came before it (R387). -/
def State.resizeLater (s : State) (i : Instr) : State :=
  (s.modPart s.ev.part (fun q => { q with resizes := q.resizes ++ [(i, s.ev)] })).resizeAnswer s.ev.part 0xFF

/-- The partition's next resize request is taken up, if none is in progress. -/
def State.nextResize (s : State) (p : Nat) : State :=
  match (s.part p).resizes with
  | r :: _ => if s.resizing p then s else (s.modPart p (fun q => { q with resizes := q.resizes.drop 1 })).pushNow r.1 r.2
  | [] => s

/-- PARTITION_GROW: partition `part` gains `value` of kind `index`, from place `core` on. -/
def execPartitionGrow (s : State) : Out :=
  let p := s.ev.part
  let k := s.ev.index
  let n := s.ev.value.toNat
  if !(s.part p).exist then .next s
  else if s.resizing p then .next (s.resizeLater .partitionGrow)
  else .next ((if s.canGrant p k n s.ev.core then (s.grant p k n s.ev.core).resizeAnswer p 0x00 else s.resizeAnswer p 0x03).nextResize p)

/-- POOL_COUNT_WRITE: the physical function sets aside frames of partition `part` for its use `index`: its first-touch pool of the
first tier (0) or of the second (1), its save pool (2) or its chunk store (3), until the use has `value` of them or no spare frame is
left. Each frame's generation advances as it enters (spec/18 R464, spec/10 R336, spec/15 R406; log entry 38), and its key record is cleared,
for no leaf maps it (R401). -/
def execPoolCountWrite (s : State) : Out :=
  let p := s.ev.part
  let u := s.ev.index
  let q := s.part p
  let have' := if u = 0 then q.pool1 else if u = 1 then q.pool2 else if u = 2 then q.saveFrames else q.storeFrames
  let n := s.ev.value.toNat
  if !q.exist || decide (4 ≤ u) || decide (n < have'.length ∧ 2 ≤ u) then .next s
  else
    let more := (s.spareFrames p (if u = 1 then 1 else 0)).take (n - have'.length)
    let s := (more.foldl (fun s f => (s.dropFrame f).advanceGen f) s).modFrames more (fun f => { f with key := 0 })
    let all := (have' ++ more).take n
    .next (s.modPart p (fun q =>
      if u = 0 then { q with pool1 := all } else if u = 1 then { q with pool2 := all }
      else if u = 2 then { q with saveFrames := all } else { q with storeFrames := all }))

end Sys2Proof.Machine
end

