-- ==== Sys2Proof/Machine/Mailbox.lean ====
section
/-!
DEFINITION. The mailbox (spec/14 R382) and what its requests do: worlds (R381), root entries, leaves (R383, R401), the import of
sealed units (R399), peer grants (R394).
-/

namespace Sys2Proof.Machine

/-! ## The mailbox (R382) -/

/-- MAILBOX_DOORBELL: the request of partition `part` is delivered to the physical function's ring; a ring while one is outstanding is
ignored. -/
def execMailboxDoorbell (s : State) : Out := regWrite s 0x4080 (fun s =>
  let p := s.ev.part
  if (s.part p).mboxBusy.isSome then .next s
  else
    let s := s.modPart p (fun q => { q with
      mboxBusy := some s.cyc, mboxTenant := s.ev.tenant, mboxTaken := q.mboxReq, mboxRsp := Sparse.put [] 0 (rspWord (q.mboxReq.look 0) 0xFF) })
    .next { s with pfRing := s.pfRing ++ [p] })

/-- The response is written whole and the request is no longer outstanding. -/
def State.mboxAnswer (s : State) (p : Nat) (status : BitVec 8) (w1 : Word) : State :=
  let s := s.modPart p (fun q => { q with
    mboxBusy := none, mboxRsp := (Sparse.put [] 0 (rspWord (q.mboxTaken.look 0) status)).put 1 w1 })
  { s with pfRing := s.pfRing.erase p }

/-- PF_REFUSE: the physical function refuses partition `part`'s request. -/
def execPfRefuse (s : State) : Out :=
  .next (if (s.part s.ev.part).mboxBusy.isSome then s.mboxAnswer s.ev.part 0x04 0 else s)

/-- A request has stood for 1 s, neither forwarded nor refused. -/
def State.mboxLate (s : State) (p : Nat) : Bool := (s.part p).mboxBusy.any (fun c => decide (c + 1600000000 ≤ s.cyc))

/-- MAILBOX_TIMEOUT. -/
def execMailboxTimeout (s : State) : Out := .next (if s.mboxLate s.ev.part then s.mboxAnswer s.ev.part 0x04 0 else s)

/-! ## Worlds (R381) -/

/-- A launch of a world is not over. -/
def State.worldBusy (s : State) (w : Nat) : Bool := s.launches.any (fun e => e.2.st != .none && e.2.world == w)

/-- A granule tagged with a world is held or not yet cleared. -/
def State.worldTagged (s : State) (w : Nat) : Bool :=
  let has (m : Sparse Granule) : Bool := m.any (fun e => e.2.world == w && (e.2.holder.isSome || decide (s.cyc < e.2.freeAt)))
  s.cores.any (fun c => has c.2.regs || has c.2.spad || has c.2.accs)

/-- The worlds of a partition. -/
def State.worldsOf (s : State) (p : Nat) : List Nat := (s.worlds.filter (fun e => e.2.part == some p)).map (·.1)

/-- A free world id: of no partition, with no launch and no granule left. -/
def State.worldFree (s : State) (w : Nat) : Bool := (s.worlds.look w).part.isNone && !s.worldBusy w && !s.worldTagged w

/-- WORLD_ALLOC: the lowest free id, within the partition's quota. -/
def State.worldAlloc (s : State) (p : Nat) : State × BitVec 8 × Word :=
  if (s.part p).worlds ≤ (s.worldsOf p).length then (s, 0x03, 0)
  else match ((List.range 4095).map (· + 1)).find? s.worldFree with
    | none => (s, 0x03, 0)
    | some w => ({ s with worlds := s.worlds.put w { part := some p } }, 0x00, BitVec.ofNat 64 w)

/-- A world leaves its partition, its bandwidth record zero. -/
def State.dropWorld (s : State) (w : Nat) : State := { s with worlds := s.worlds.put w {} }

/-- WORLD_FREE: a world with a launch that is not over is in use; the id is free once its granules are cleared. -/
def State.worldRelease (s : State) (p w : Nat) : State × BitVec 8 × Word :=
  if (s.worlds.look w).part ≠ some p ∨ s.worldBusy w then (s, 0x03, 0) else (s.dropWorld w, 0x00, 0)

/-! ## Root entries and leaves (R383, spec/07 R215 to R225) -/

/-- ROOT_REQ: the lowest root entry granted to nobody. -/
def State.rootReq (s : State) (p : Nat) : State × BitVec 8 × Word :=
  match (List.range 512).find? (fun r => (s.roots.look r).isNone) with
  | none => (s, 0x03, 0)
  | some r => ({ s with roots := s.roots.put r (some p) }, 0x00, BitVec.ofNat 64 r)

/-- The slot of a leaf of a level is taken: a leaf of a larger page covers it, or a table stands in it. -/
def State.slotTaken (s : State) (va level : Nat) : Bool :=
  (s.presentLeaf va).any (fun l => decide (level < l.level)) ||
    (match s.slotAt va level with
     | .ok a => level != 0 && (nextTable (s.physWord a) (s.physWord (a + 8)) false).isSome
     | .error _ => false)

/-- A frame may be mapped by a leaf of its partition: it is set aside for nothing else, and the leaf's key id is the one recorded, or
the frame, which no leaf maps, has none recorded (spec/07 R222, R401). -/
def State.mayMap (s : State) (p : Nat) (l : Leaf) (fr : Nat) : Bool :=
  let f := s.frames.look fr
  let q := s.part p
  f.owner == some p && !(q.saveFrames ++ q.storeFrames ++ q.pool1 ++ q.pool2 ++ q.table1.toList ++ q.table2.toList).contains fr
    && (f.key == l.key || (f.key == 0 && !s.mapped p fr))

/-- MAP: one leaf, with the tables that are missing on the way. -/
def State.mapReq (s : State) (p : Nat) (va frame : Nat) (hi : Word) : State × BitVec 8 :=
  let lv := (hi.extractLsb' 24 2).toNat
  let l : Leaf := { lo := BitVec.ofNat 64 (frame + 3), hi := hi, level := lv, part := p, base := va / pageSize lv * pageSize lv }
  if 2 ^ 54 ≤ va ∨ frame % 2 ^ 18 ≠ 0 ∨ lv = 3 ∨ l.broken.isSome then (s, 0x02)
  else if s.roots.look (va / 2 ^ 45) ≠ some p then (s, 0x03)
  else if l.mt = 2 ∧ (frame ≠ p * 2 ^ 18 ∨ lv ≠ 0) then (s, 0x03)
  else if !(l.framesOf.all (s.mayMap p l)) || s.slotTaken va lv then (s, 0x03)
  else
    let x := s.slotAt va lv
    let m := match x with
      | .ok _ => 0
      | .error e => e.2
    match s.newTables m with
    | none => (s, 0x03)
    | some (s, ts) =>
      let old := (s.presentLeaf va).toList.flatMap Leaf.framesOf
      let s := (s.presentLeaf va).toList.foldl (fun s l => s.performPage l) s
      let y := match x with
        | .ok a => (s, a)
        | .error e => s.linkTables va p e.2 e.1 ts
      let s := (y.1.putEntry y.2 l.lo l.hi).tlbDrop l.base l.size
      let s := if l.mt = 1 then s.modFrames l.framesOf (fun f => { f with key := l.key }) else s
      let s := s.modPart p (fun q => { q with gone := q.gone.filter (fun g => !decide (g.1 < l.base + l.size ∧ l.base < g.1 + g.2)) })
      ((old ++ l.framesOf).foldl (fun s fr => s.fireFrame fr) s, 0x00)

/-- UNMAP: word 1 says whether a leaf was removed. -/
def State.unmapReq (s : State) (p va : Nat) : State × BitVec 8 × Word :=
  if 2 ^ 54 ≤ va ∨ s.roots.look (va / 2 ^ 45) ≠ some p then (s, 0x03, 0)
  else match s.presentLeaf va with
    | some l => (s.removeLeaf va l, 0x00, 0)
    | none => (s, 0x00, 1)

/-! ## SEALIN (R399) -/

/-- One unit of an import: what is read and where it goes, or the status that its check gives. -/
def State.sealUnit (s : State) (p src ents dst : Nat) (i : Nat) : State × Except (BitVec 8) (List Byte × Nat × SideEntry) :=
  match s.translate none p (src + 4096 * i) 4096 .read with
  | (s, .error _) => (s, .error 0x03)
  | (s, .ok (pa, la)) => match s.translate none p (ents + 32 * i) 32 .read with
    | (s, .error _) => (s, .error 0x03)
    | (s, .ok (pe, le)) => match s.translate none p (dst + 4096 * i) 4096 .write with
      | (s, .error _) => (s, .error 0x03)
      | (s, .ok (pd, ld)) =>
        if la.mt ≠ 0 ∨ le.mt ≠ 0 ∨ ld.mt ≠ 1 then (s, .error 0x03)
        else
          let r := s.homeRead pe 32
          let e : SideEntry :=
            { tag := BitVec.ofNat 128 (natOf (r.2.drop 16)), iv := BitVec.ofNat 96 (natOf ((r.2.drop 4).take 12))
              key := r.2.getD 3 0, v := (r.2.getD 0 0).getLsbD 0 }
          if !e.v || e.key != ld.key then (r.1, .error 0x02)
          else if !((s.keys.look e.key.toNat).installed && (s.keys.look e.key.toNat).holder == some p) then (r.1, .error 0x06)
          else
            let d := r.1.homeRead pa 4096
            (d.1, .ok (d.2, pd, e))

/-- SEALIN: every unit is checked before any is written; the first status of R399's table that a unit gives is the answer. -/
def State.sealIn (s : State) (p src ents dst n : Nat) : State × BitVec 8 :=
  if src % 4096 ≠ 0 ∨ ents % 4096 ≠ 0 ∨ dst % 4096 ≠ 0 ∨ n = 0 ∨ 65536 < n then (s, 0x02)
  else
    let r := (List.range n).foldl (fun (r : State × List (BitVec 8) × List (List Byte × Nat × SideEntry)) i =>
      match r.1.sealUnit p src ents dst i with
      | (s, .error e) => (s, e :: r.2.1, r.2.2)
      | (s, .ok u) => (s, r.2.1, r.2.2 ++ [u])) (s, [], [])
    match [(0x02 : BitVec 8), 0x06, 0x03].find? (fun x => r.2.1.contains x) with
    | some st => (r.1, st)
    | none => (r.2.2.foldl (fun s u =>
        { (s.homeWrite u.2.1 u.1) with side := s.side.put (u.2.1 / 4096) u.2.2 }) r.1, 0x00)

/-! ## PEER_GRANT (R394) -/

/-- An entry of the peer grant table set or cleared; a table holds 64. -/
def State.peerGrant (s : State) (p dev part v : Nat) : State × BitVec 8 :=
  let l := (s.part p).peers
  if 512 ≤ dev ∨ 64 ≤ part ∨ 2 ≤ v then (s, 0x02)
  else if v = 0 then (s.modPart p (fun q => { q with peers := q.peers.filter (fun e => e != (dev, part)) }), 0x00)
  else if l.contains (dev, part) then (s, 0x00)
  else if 64 ≤ l.length then (s, 0x03)
  else (s.modPart p (fun q => { q with peers := q.peers ++ [(dev, part)] }), 0x00)

/-! ## Firmware's part (R382, R383) -/

/-- A request performed: the state, the status, word 1 of the response. An interface in ERROR takes no request of the tenant (R402, R403);
in its other states no request of R383 changes an item that R402 locks. -/
def State.serve (s : State) (p : Nat) : State × BitVec 8 × Word :=
  let w (i : Nat) : Word := (s.part p).mboxTaken.look i
  let n (i : Nat) : Nat := (w i).toNat
  let op := reqOp (w 0)
  let plain (r : State × BitVec 8) : State × BitVec 8 × Word := (r.1, r.2, 0)
  if (s.part p).tdisp == .error && (s.part p).mboxTenant then (s, 0x05, 0)
  else if op = 0 ∨ 7 < op then (s, 0x01, 0)
  else if (w 0).extractLsb' 0 32 ≠ 0 then (s, 0x02, 0)
  else if op = 1 then s.worldAlloc p
  else if op = 2 then s.worldRelease p (n 1)
  else if op = 3 then s.rootReq p
  else if op = 4 then plain (s.mapReq p (n 1) (n 2) (w 3))
  else if op = 5 then s.unmapReq p (n 1)
  else if op = 6 then plain (s.sealIn p (n 1) (n 2) (n 3) (n 4))
  else plain (s.peerGrant p (n 1) (n 2) (n 3))

/-- The outstanding request changes the leaf of an address (MAP, UNMAP) whose page has accesses that are not performed yet. -/
def State.serveWaits (s : State) (p : Nat) : Bool :=
  let w (i : Nat) : Word := (s.part p).mboxTaken.look i
  (reqOp (w 0) == 4 || reqOp (w 0) == 5) && (s.presentLeaf (w 1).toNat).any s.pageWaits

/-- PF_FORWARD: firmware checks and performs the outstanding request of partition `part` and answers it; without one the forward is
discarded. The answer to a change of a leaf waits until the change is complete (spec/07 R225). -/
def execPfForward (s : State) : Out :=
  let p := s.ev.part
  if (s.part p).mboxBusy.isNone || s.serveWaits p then .next s
  else match s.serve p with
    | (s, st, w1) => .next (s.mboxAnswer p st w1)

end Sys2Proof.Machine
end

