-- ==== Sys2Proof/Machine/Leaving.lean ====
section
/-!
DEFINITION. What leaves a partition: clusters (spec/14 R388), frames (R389, spec/07 R238), everything at a Function Level Reset or
when it is destroyed (R390); its keys (R397) and its TDISP interface (R402, R403).
-/

namespace Sys2Proof.Machine

/-! ## Replacement (spec/18 R481, R384) -/

/-- A replacement is requested for a kind, in the device's entry and in a holder's. -/
def State.askReplace (s : State) (k : Nat) (p : Option Nat) : State :=
  { s with repl := s.repl ++ ([(k, 255)] ++ p.toList.map (fun n => (k, n))).filter (fun e => !s.repl.contains e) }

/-- The live amount of a kind falls. -/
def State.cutTotal (s : State) (k n : Nat) : State := { s with totalCut := s.totalCut.upd k (· + n) }

/-- The partition that holds a cluster. -/
def Holder.partition? : Holder → Option Nat
  | .part n => some n
  | _ => none

/-! ## Clusters (R388, spec/10 R329) -/

/-- A cluster is empty: no forme stands on it, its records are free, its cores' granules cleared. -/
def State.clusterEmpty (s : State) (c : Nat) : Bool :=
  !s.formes.any (fun e => e.2.place.resident && clusterOf e.2.core == c)
    && !(s.cluster c).binds.any (fun e => e.2.v)
    && (clusterCores c).all (fun k => let x := s.core k
        (notFree x.regs s.cyc).isEmpty && (notFree x.spad s.cyc).isEmpty && (notFree x.accs s.cyc).isEmpty)

/-- Units bound to an instance in which the partition has no cluster left are bound no more (R329). -/
def State.unbindUnits (s : State) (p : Nat) : State :=
  let has (key i : Nat) : Bool := (domain (key / 2 ^ 48) i).any (fun c => (s.cluster c).holder == .part p || ((s.cluster c).holder == .free && (s.part p).poolWeight != 0))
  { s with launches := s.launches.mapVals (fun _ l =>
      if l.part = p then { l with boundTo := l.boundTo.filter (fun e => e.2.any (has e.1)) } else l) }

/-- Steps 4 and 5: translations go, the cluster is free, or out of service when a failing core takes it along: what the device has and
what the partition holds fall in one update (R385, spec/18 R477). -/
def State.clusterLeaves (s : State) (p c : Nat) : State :=
  let dead := (s.cluster c).doomed
  let s := if dead then (((s.cutTotal 1 1).cutTotal 2 (s.liveCores c).length).cutTotal 6 16).askReplace 1 (s.cluster c).holder.partition? else s
  let s := s.modCluster c (fun x => { x with tlb := [], holder := if dead then .outOfService else .free })
  let s := (clusterCores c).foldl (fun s k => s.modCore k (fun x => { x with tlb := [], retired := x.retired || dead })) s
  let s := s.modPart p (fun q => { q with draining := q.draining.filter (fun d => !(d.hold && d.cluster == some c)) })
  (((s.unbindUnits p).endUnplaceable).resizeAnswer p 0x00).nextResize p

/-- Steps 1 and 2 begin: the cluster leaves the placement search, and the partition's formes there are pre-empted. -/
def State.shrinkBegins (s : State) (p c : Nat) : State :=
  s.preempt p [{ cluster := some c, hold := true, deadline := s.drainEnd p }] (s.residents p (fun _ f => clusterOf f.core == c))

/-- A cluster is on its way out of a partition. -/
def State.shrinking (s : State) (p c : Nat) : Bool := (s.part p).draining.any (fun d => d.hold && d.cluster == some c)

/-- A cluster may leave a partition: it holds it, or the cluster is in the shared pool and goes out of service. -/
def State.mayShrink (s : State) (p c : Nat) : Bool :=
  decide (c < 16) && ((s.cluster c).holder == .part p || ((s.cluster c).holder == .free && (s.cluster c).doomed))

/-- CLUSTER_SHRINK: cluster `core` begins to leave partition `part`, or leaves it once it is empty. -/
def execClusterShrink (s : State) : Out :=
  let p := s.ev.part
  let c := s.ev.core
  if s.resizing p && !s.shrinking p c then .next (s.resizeLater .clusterShrink)
  else if !s.mayShrink p c then .next ((s.resizeAnswer p 0x03).nextResize p)
  else
    let s := if s.shrinking p c then s else (s.shrinkBegins p c).resizeAnswer p 0xFF
    .next (if s.clusterEmpty c then s.clusterLeaves p c else s)

/-! ## Frames (R389, spec/07 R238) -/

/-- A leaf maps one of some frames. -/
def Leaf.mapsAny (l : Leaf) (fs : List Nat) : Bool := l.framesOf.any (fun f => fs.contains f)

/-- The zones of a launch cover an address of a page. -/
def Launch.covers (l : Launch) (base size : Nat) : Bool :=
  (List.range 16).any (fun z => l.zoneV z && decide (l.zbase z < base + size ∧ base < l.zbase z + l.zlen z))

/-- An address range lies on one of some leaves. -/
def onLeaves (ls : List Leaf) (a n : Nat) : Bool := ls.any (fun l => decide (a < l.base + l.size ∧ l.base < a + n))

/-- A ring, a galley or a hotness ring in use lies on one of some leaves of a partition. -/
def State.ringsOn (s : State) (p : Nat) (ls : List Leaf) : Bool :=
  let q := s.part p
  q.queues.any (fun e => e.2.en && onLeaves ls (e.2.qbase.toNat * 64) (64 * 2 ^ e.2.log2n.toNat))
    || s.launches.any (fun e => e.2.st != .none && e.2.part == p && onLeaves ls e.2.galley (64 * 2 ^ e.2.glog))
    || (q.hssize != 0 && q.hsk != 0 && onLeaves ls q.hsbase.toNat (2 ^ q.hssize.toNat))

/-- The chunk store keeps room for the chunks in use when frames leave it (spec/15 R406). -/
def State.storeStays (s : State) (p : Nat) (fs : List Nat) : Bool :=
  let q := s.part p
  decide (((s.keptChunks p).dedup.filter (fun c => (q.chunks.look c).isSealed)).length
    ≤ 64 * (q.storeFrames.filter (fun f => !fs.contains f)).length)

/-- The request may proceed: every frame is the partition's, and none is in a use that R389 protects; frames of the chunk store leave
while it has room for the chunks in use without them. -/
def State.mayWithdraw (s : State) (p : Nat) (fs : List Nat) : Bool :=
  let q := s.part p
  !fs.isEmpty && fs.all (fun f => (s.frames.look f).owner == some p)
    && !fs.any (fun f => q.saveFrames.contains f) && s.storeStays p fs
    && !s.ringsOn p ((s.leavesOf p).filter (fun l => l.mapsAny fs))

/-- The formes of a partition whose launches have a zone on one of some leaves. -/
def State.usersOf (s : State) (p : Nat) (ls : List Leaf) : List Nat :=
  s.residents p (fun _ f => ls.any (fun l => (s.launch f.launch).covers l.base l.size))

/-- A frame leaves for good: copies and transactions on its lines go, its generation advances, its records are cleared. -/
def State.frameGone (s : State) (f : Nat) : State :=
  let s := (s.dropFrame f).advanceGen f
  let s := { s with side := s.side.filter (fun e => e.1 / 64 != f) }
  s.modFrames [f] (fun x => { x with owner := none, key := 0, firstTouch := false })

/-- Steps 2 to 4 of R238, with the rules of R389. -/
def State.framesLeave (s : State) (p : Nat) (fs : List Nat) : State :=
  let ls := (s.leavesOf p).filter (fun l => l.mapsAny fs)
  let s := ls.foldl (fun s l => s.removeLeaf l.base l) s
  let s := s.modPart p (fun q => { q with
    gone := q.gone ++ ls.map (fun l => (l.base, l.size))
    pool1 := q.pool1.filter (fun f => !fs.contains f)
    pool2 := q.pool2.filter (fun f => !fs.contains f)
    table1 := q.table1.filter (fun f => !fs.contains f)
    table2 := q.table2.filter (fun f => !fs.contains f)
    storeFrames := q.storeFrames.filter (fun f => !fs.contains f)
    chunks := if q.storeFrames.any fs.contains then q.chunks.filter (fun e => (s.keptChunks p).contains e.1) else q.chunks
    draining := q.draining.filter (fun d => d.frames != fs) })
  fs.foldl (fun s f => s.frameGone f) s

/-- The frames that partition `p` is giving up, request by request. -/
def State.withdrawing (s : State) (p : Nat) : List (List Nat) := ((s.part p).draining.map (·.frames)).filter (fun fs => !fs.isEmpty)

/-- A withdrawal may end: no forme that uses the frames is on a core. -/
def State.withdrawReady (s : State) (p : Nat) (fs : List Nat) : Bool :=
  (s.usersOf p ((s.leavesOf p).filter (fun l => l.mapsAny fs))).isEmpty

/-- FRAME_WITHDRAW: `size` frames from frame `index` on begin to leave partition `part`, and leave once the formes that use them are
saved; a request for a frame in use changes nothing. -/
def execFrameWithdraw (s : State) : Out :=
  let p := s.ev.part
  let fs := (List.range s.ev.size).map (· + s.ev.index)
  let mine := (s.withdrawing p).contains fs
  if s.resizing p && !mine then .next (s.resizeLater .frameWithdraw)
  else if !s.mayWithdraw p fs then
    .next (((s.modPart p (fun q => { q with draining := if mine then q.draining.filter (fun d => d.frames != fs) else q.draining })).resizeAnswer
      p 0x03).nextResize p)
  else
    let s := if mine then s
      else (s.preempt p [{ frames := fs, hold := true, deadline := s.drainEnd p }]
        (s.usersOf p ((s.leavesOf p).filter (fun l => l.mapsAny fs)))).resizeAnswer p 0xFF
    .next (if s.withdrawReady p fs then ((s.framesLeave p fs).resizeAnswer p 0x00).nextResize p else s)

/-! ## Reset and destruction (R390) -/

/-- Messages about a launch leave the command links; their permits return (spec/10 R323). -/
def State.dropMessages (s : State) (n : Nat) : State :=
  let other (m : LinkMsg) : Bool := !m.formes.any (fun f => f.1 == n)
  let s := s.modPart (s.launch n).part (fun q => { q with order := q.order.filter (fun o => o.launch != n) })
  { s with clusters := s.clusters.mapVals (fun _ c =>
    { c with
      permitsDown := c.permitsDown + (c.toLeaf.filter (fun m => !other m)).length
      permitsUp := c.permitsUp + (c.toSched.filter (fun m => !other m)).length
      toLeaf := c.toLeaf.filter other, toSched := c.toSched.filter other
      waitDown := c.waitDown.filter other, waitUp := c.waitUp.filter other }) }

/-- A launch ends at once, without a save, its signal aborted: its copies in flight fail. -/
def State.cutLaunch (s : State) (n : Nat) : State :=
  let l := s.launch n
  if l.st = .none then s
  else if l.st = .checking then
    (match s.readLaunch l with
     | (s, r, _) => (s.signal l.part r.signal true).modLaunch n (fun _ => {}))
  else
    let s := { s with cores := s.cores.mapVals (fun _ c => { c with copies := c.copies.filter (fun q => (s.forme q.fk).launch != n) }) }
    ((s.stopLaunch n).dropMessages n).endByFailure n

/-- A table-free root range: its entry is not present and its translations are gone. -/
def State.clearRoot (s : State) (r : Nat) : State := (s.putEntry (slotOf s.root (r * 2 ^ 45) 3) 0 0).tlbDrop (r * 2 ^ 45) (2 ^ 45)

/-- The steps of R390. A partition keeps its holdings; its tables, its objects and its handler went with its frames' contents (log
entry 39). -/
def State.resetPart (s : State) (p : Nat) : State :=
  let s := s.modPart p (fun q => { q with
    queues := q.queues.mapVals (fun _ k => { k.off with running := [] })
    tt := q.tt.mapVals (fun _ t => { t with en := false, busy := false })
    copies := [], draining := [] })
  let ns := (s.launches.filter (fun e => e.2.part == p && e.2.st != .none)).map (·.1)
  let s := ns.foldl (fun s n => s.cutLaunch n) s
  let s := (s.rootsOf p).foldl (fun s r => s.clearRoot r) s
  let fs := s.framesHeld p 0 ++ s.framesHeld p 1
  let s := fs.foldl (fun s f => (s.dropFrame f).advanceGen f) s
  let s := s.modFrames fs (fun f => { f with key := 0, firstTouch := false })
  let s := (s.worldsOf p).foldl (fun s w => s.dropWorld w) s
  let s := { s with keys := s.keys.filter (fun e => e.2.holder != some p) }
  s.modPart p (fun q => { q with
    draining := [], resizes := [], order := none, hsbase := 0, hssize := 0, hsPending := [], savedUnits := [], saveUsed := 0
    objs := [], chunks := [], verdicts := [], hoh := none, hst := 0, hlerr := 0
    table1 := none, table2 := none, slots1 := [], slots2 := [], groups := [], colls := [] })

/-- FUNCTION_LEVEL_RESET of the virtual function of partition `part`. -/
def execFunctionLevelReset (s : State) : Out := .next (if (s.part s.ev.part).exist then s.resetPart s.ev.part else s)

/-- PARTITION_DESTROY: the same steps, and every holding of partition `part` returns to the device. -/
def execPartitionDestroy (s : State) : Out :=
  let p := s.ev.part
  if !(s.part p).exist then .next s
  else
    let cs := s.clustersOf p
    let s := s.resetPart p
    let s := (s.framesHeld p 0 ++ s.framesHeld p 1).foldl (fun s f =>
      ({ s with side := s.side.filter (fun e => e.1 / 64 != f) }).modFrames [f] (fun x => { x with owner := none })) s
    let s := cs.foldl (fun s c => s.clusterLeaves p c) s
    let s := { s with
      roots := s.roots.filter (fun e => e.2 != some p)
      l2 := []
      pfRing := s.pfRing.erase p
      pool := if s.pool.part = some p then {} else s.pool }
    .next (s.modPart p (fun _ => {}))

/-! ## Keys (R397) -/

/-- A frame is recorded under a key id for a partition. -/
def State.keyRecorded (s : State) (p k : Nat) : Bool := s.frames.any (fun e => e.2.owner == some p && e.2.key.toNat == k)

/-- The key ids a partition holds. -/
def State.keysOf (s : State) (p : Nat) : List Nat := (s.keys.filter (fun e => e.2.holder == some p)).map (·.1)

/-- KEY_SET in the session of partition `part`: key id `index`, the key in `bytes`. -/
def execKeySet (s : State) : Out :=
  let p := s.ev.part
  let k := s.ev.index
  let x := s.keys.look k
  let refused := !(s.part p).keysOpen || decide (k < 1 ∨ 239 < k) || decide (s.ev.bytes.length ≠ 32)
    || (match x.holder with
        | some h => h != p || s.keyRecorded p k
        | none => decide ((s.part p).keyIds ≤ (s.keysOf p).length))
  .next (if refused then s
    else { s with keys := s.keys.put k { holder := some p, key := BitVec.ofNat 256 (natOf s.ev.bytes), installed := true } })

/-- KEY_CLEAR in the session of partition `part`: the key of id `index` is removed from every pipe. -/
def execKeyClear (s : State) : Out :=
  let k := s.ev.index
  .next (if (s.part s.ev.part).keysOpen && (s.keys.look k).holder == some s.ev.part then { s with keys := s.keys.put k {} } else s)

/-- SPDM_SESSION_SETUP: a session over the DOE of partition `part`'s function, or (without `flag`) one for fabric port `index`, whose
keys begin (R395). -/
def execSpdmSessionSetup (s : State) : Out :=
  if s.ev.flag then .next (s.modPart s.ev.part (fun q => { q with keysOpen := q.exist }))
  else .next { s with ports := s.ports.upd s.ev.index (fun t => if t.enabled then { t with keyNo := 1, groups := 0 } else t) }

/-! ## Locked interfaces (R402, R403) -/

/-- LOCK_INTERFACE_REQUEST. -/
def execLockInterfaceRequest (s : State) : Out := .next (s.modPart s.ev.part (fun q => { q with tdisp := if q.tdisp = .unlocked then .locked else q.tdisp }))

/-- START_INTERFACE_REQUEST. -/
def execStartInterfaceRequest (s : State) : Out := .next (s.modPart s.ev.part (fun q => { q with tdisp := if q.tdisp = .locked then .run else q.tdisp }))

/-- STOP_INTERFACE_REQUEST: from RUN or ERROR, the steps of R390, and the interface is unlocked. -/
def execStopInterfaceRequest (s : State) : Out :=
  let p := s.ev.part
  let t := (s.part p).tdisp
  if t = .run ∨ t = .error then .next ((s.resetPart p).modPart p (fun q => { q with tdisp := .unlocked })) else .next s

end Sys2Proof.Machine
end

