-- ==== Sys2Proof/Machine/Outside.lean ====
section
/-!
DEFINITION. What comes over the links: the host's and peers' accesses of device memory (spec/08 R260, spec/14 R394, R400), the fabric
ports' keys and failures (R395, spec/18 R471); what L1 evicts (spec/07 R229); and the completion of copies.
-/

namespace Sys2Proof.Machine

/-! ## The firewall at the homes (spec/14 R394, R400, spec/18 R470) -/

/-- The frames of a physical range. -/
def framesIn (pa n : Nat) : List Nat := ((linesOf pa n).map (· / 2048)).dedup

/-- A range lies in device memory, in frames that a test allows, none of them retired or SEALED, no line poisoned. -/
def State.reachable (s : State) (pa n : Nat) (ok : Frame → Bool) : Bool :=
  decide (1 ≤ n) && (inTier 0 pa n || inTier 1 pa n) && (s.poisoned pa n).isNone
    && (framesIn pa n).all (fun f => ok (s.frames.look f) && !(s.frames.look f).retired && (s.frames.look f).key == 0)

/-- The host's function may reach a frame: a virtual function its partition's (`flag`), the physical function firmware's. -/
def State.hostFrame (s : State) (f : Frame) : Bool :=
  if s.ev.flag then f.owner == some s.ev.part && (s.part s.ev.part).exist else f.firmware

/-- What the homes count of an access from outside at a physical address (spec/07 R240, R241): the first page of its partition that maps
it with HS = 1 (log entry 57). -/
def State.outsideHot (s : State) (pa : Nat) : HotInfo :=
  match (s.frames.look (frameOf pa)).owner with
  | none => {}
  | some p =>
    if (s.part p).hsk = 0 then {}
    else match (s.leavesOf p).find? (fun l => l.hs && l.mt == 0 && decide (l.frame ≤ pa ∧ pa < l.frame + l.size)) with
      | some l => { hs := true, part := p, tier := l.tier, va := l.base + (pa - l.frame) }
      | none => {}

/-- An access from outside, line by line: a write of bytes, or a read of as many. -/
def State.outsideAccess (s : State) (src : HeldBy) (type pa : Nat) (op : Nat → HeldOp) (bs : List Byte) (n : Nat) : State :=
  (linesOf pa n).foldl (fun s l =>
    let lo := max pa (l * 128)
    let k := min (pa + n) ((l + 1) * 128) - lo
    s.perform { line := { line := l }, addr := lo, bytes := (bs.drop (lo - pa)).take k, op := op k, src := src, hot := s.outsideHot lo,
                type := type }) s

/-- HOST_MEMORY_WRITE: the host writes `bytes` at physical address `addr`, with the Relaxed Ordering attribute when `tenant`, or its
request is an Unsupported Request. Without the attribute a write is performed after every earlier one (spec/08 R260). -/
def execHostMemoryWrite (s : State) : Out :=
  let pa := s.ev.addr.toNat
  let n := s.ev.bytes.length
  .next (if s.power == .on && s.reachable pa n s.hostFrame
    then s.outsideAccess (if s.ev.tenant then .device else .host) 9 pa (fun _ => .put) s.ev.bytes n else s)

/-- HOST_MEMORY_READ: the host reads `size` bytes at physical address `addr`, after every write of the host that arrived before (spec/08
R260); U copies of the lines are recalled. -/
def execHostMemoryRead (s : State) : Out :=
  let pa := s.ev.addr.toNat
  .next (if s.power == .on && s.reachable pa s.ev.size s.hostFrame
    then s.outsideAccess .host 9 pa .look [] s.ev.size else s)

/-- A read of `n` bytes of device memory by management or by a debugger of firmware: a SEALED frame refuses it, and the answer carries code
0x20 (spec/14 R400). No turn of the table is such a read. -/
def State.debugRead (s : State) (pa n : Nat) : Except (BitVec 8) (List Byte) :=
  if (framesIn pa n).any (fun f => (s.frames.look f).key != 0) then .error 0x20 else .ok (s.physBytes pa n)

/-- What a peer asks for: a read of `size` bytes, a write of `bytes`, an atomic (a reduction, when `flag` is false) with operation `core` on
a type of table code `slug`, or a compare-and-swap of the first half of `bytes` with the second (spec/08 R261). -/
inductive PeerOp where
  | read | write | amo | cas
  deriving DecidableEq, Repr

/-- The kind of a peer's request, by `size` of the event: 0 a write, 2 ^ 20 an atomic, 2 ^ 20 + 1 a compare-and-swap, else a read. -/
def EvArgs.peerOp (a : EvArgs) : PeerOp :=
  if a.size = 0 then .write else if a.size = 2 ^ 20 then .amo else if a.size = 2 ^ 20 + 1 then .cas else .read

/-- The bytes a request touches. -/
def EvArgs.peerLen (a : EvArgs) : Nat := match a.peerOp with
  | .read => a.size
  | .cas => a.bytes.length / 2
  | _ => a.bytes.length

/-- The type of a peer's atomic by its width in bytes and whether it is signed or floating (`slug`: spec/09 R279's TY code). -/
def peerTy (code : Nat) : Ty := match code with
  | 0 => .i32 | 1 => .i64 | 2 => .n32 | 3 => .n64 | 4 => .f32 | 5 => .f16x2 | _ => .bf16x2

/-- A frame's partition grants a peer access. -/
def State.peerFrame (s : State) (f : Frame) : Bool :=
  match f.owner with
  | some p => (s.part p).peers.contains (s.ev.index, s.ev.part)
  | none => false

/-- A peer's atomic, reduction or compare-and-swap of one element, performed at its home or held back whole. -/
def State.peerAtomic (s : State) (pa : Nat) (op : HeldOp) : State :=
  s.perform { line := { line := lineOf pa }, addr := pa, bytes := s.ev.bytes, op := op, src := .peer, hot := s.outsideHot pa, type := 8 }

/-- PEER_REQUEST: partition `part` of device `index` asks through fabric port `forme` for an access at physical address `addr`. A port
that drops its groups performs nothing; the firewall refuses what is not granted. Either way the port answers. -/
def execPeerRequest (s : State) : Out :=
  let t := s.ports.look s.ev.forme
  let pa := s.ev.addr.toNat
  let n := s.ev.peerLen
  if s.power ≠ .on ∨ !(t.enabled && t.up && !t.dropping) then .next s
  else
    let s := { s with ports := s.ports.upd s.ev.forme (·.send (groupsOf n)) }
    if !(s.reachable pa n s.peerFrame) then .next s
    else match s.ev.peerOp with
      | .read => .next (s.outsideAccess .peer 8 pa .look [] n)
      | .write => .next (s.outsideAccess .peer 8 pa (fun _ => .put) s.ev.bytes n)
      | .amo =>
        let ty := peerTy s.ev.slug
        if n ≠ ty.bytes ∨ pa % n ≠ 0 then .next s
        else .next (s.peerAtomic pa (if s.ev.flag then .amo s.ev.core ty else .red s.ev.core ty))
      | .cas => if !(n == 4 || n == 8 || n == 16) || pa % n != 0 then .next s else .next (s.peerAtomic pa .cas)

/-! ## Ports (spec/14 R395, spec/18 R471) -/

/-- Launch indexes listed in `bytes`, two bytes each. -/
def EvArgs.launches (a : EvArgs) : List Nat := (List.range (a.bytes.length / 2)).map (fun i => natOf ((a.bytes.drop (2 * i)).take 2))

/-- A launch is contained: a record of INTEGRITY, and it ends by failure. -/
def State.contain (s : State) (n : Nat) (eng : Nat) (core : Option Nat) (f : Flt) : State :=
  if (s.launch n).st = .active then (s.report { launch := n, eng := eng, core := core } f).failLaunch n f.code else s

/-- PORT_TAG_FAILURE: fabric port `index` drops inbound groups from now on; the launches of `bytes` had a request or response there. -/
def execPortTagFailure (s : State) : Out :=
  if 32 ≤ s.ev.index then .next s else
  let s := { s with ports := s.ports.upd s.ev.index (fun t => { t with dropping := true }) }
  .next (s.ev.launches.foldl (fun s n => s.contain n 4 none { code := 0x41, reason := 0x10 }) s)

/-- PORT_SESSION_REKEY: the session of port `index` has new keys, and inbound groups are accepted again. -/
def execPortSessionRekey (s : State) : Out :=
  .next (if 32 ≤ s.ev.index then s
    else { s with ports := s.ports.upd s.ev.index (fun t => { t.rekey with dropping := false }) })

/-- FABRIC_REKEY: the key of port `index` is replaced by the next of the session; at the latest when it has encrypted 2^32 flit
groups (`FabPort.send`). -/
def execFabricRekey (s : State) : Out :=
  .next { s with ports := s.ports.upd s.ev.index (fun t => if t.enabled then t.rekey else t) }

/-! ## Eviction (spec/07 R229, R230) -/

/-- A mask of a line's bytes with every byte that an atomic access joins to one of them (spec/07 R227). -/
def glued (glue mask : BitVec 128) : BitVec 128 :=
  (List.range 127).foldl (fun m _ => m ||| ((m &&& glue) <<< 1) ||| ((m >>> 1) &&& glue)) mask

/-- L1_EVICTION: core `core` evicts line `index`: dirty bytes or the U partial go home. With `flag` false only the dirty bytes of the
mask in `bytes` are written back, and the line stays: L1 may write back any of them at any time, bytes of one single-copy atomic access
together (R227, R229). A line that a transaction of the core tracks stays (spec/11 R344). -/
def execL1Eviction (s : State) : Out :=
  let k := s.ev.core
  let line := s.ev.index
  .next (if s.trackedAt k line then s
    else if s.ev.flag then (if ((s.core k).partials.look line).cells.isEmpty then s else s.sendPartial k line).evict k line
    else s.writeBackOf k line (glued (s.l1Line k line).glue (BitVec.ofNat 128 (natOf s.ev.bytes))))

/-! ## Copies (spec/09 R291, spec/10 R313) -/

/-- COPY_COMPLETE: a copy unit of core `core` performs the command at place `index` of its queue, or (`tenant`) the COPY packet at
place `index` of partition `part`'s list. -/
def execCopyComplete (s : State) : Out := 
  .next (s.orAgain (if s.ev.tenant then s.packetCopy s.ev.part s.ev.index else s.commandDone))

end Sys2Proof.Machine
end

