-- ==== Sys2Proof/Machine/Degraded.lean ====
section
/-!
DEFINITION. Degraded operation (spec/18 R470, R476 to R481): poisoned lines, retired lines and the frames that move, retired channels,
retired cores.
-/

namespace Sys2Proof.Machine

/-! ## Poison (R470) -/

/-- A line is poisoned, by an error of its data or of its metadata (spec/07 R237): nobody receives its data any more, and no copy of it
stays. -/
def State.poisonLine (s : State) (line : Nat) (metadata : Bool) : State :=
  let add (l : List Nat) : List Nat := if l.contains line then l else line :: l
  let s := if metadata then { s with metaPoison := add s.metaPoison } else { s with poison := add s.poison }
  { s with cores := s.cores.mapVals (fun _ c => { c with l1 := c.l1.put line {}, partials := c.partials.put line {} }) }

/-- The homes refuse what a launch has not written yet: its bytes and partials still in L1, its held accesses, its queued copies. Of
the lines that hold nothing but its bytes each is performed or not, which is open (R470); of the others the bytes are performed. -/
def State.refuseWrites (s : State) (n : Nat) : State :=
  let bits := Config.choice s.fresh
  let bad (k core line : Nat) (o : List Nat) : Bool := o == [n] && bits.testBit (2 * (256 * line + core) + k)
  let s := { s.tookFree with
    held := s.held.filter (fun h => match h.src with | .path fk _ _ => keyLaunch fk != n | _ => true)
    cores := s.cores.mapVals (fun k c => { c with
      copies := c.copies.filter (fun q => keyLaunch q.fk != n)
      l1 := c.l1.filter (fun e => !bad 0 k e.1 e.2.owners)
      partials := c.partials.filter (fun e => !bad 1 k e.1 e.2.owners) }) }
  let s := s.cores.foldl (fun s e =>
    let s := (e.2.partials.filter (fun x => x.2.owners.contains n)).foldl (fun s x => s.sendPartial e.1 x.1) s
    (e.2.l1.filter (fun x => x.2.owners.contains n)).foldl (fun s x => s.writeBack e.1 x.1) s) s
  { s with cores := s.cores.mapVals (fun _ c => { c with
      l1 := c.l1.filter (fun e => e.2.owners != [n])
      partials := c.partials.filter (fun e => e.2.owners != [n]) }) }

/-- POISON_DETECT: the home of line `index`, whose data went to launch `size` for an access at `addr` by core `core` (when `flag`),
finds it uncorrectable, an error of its metadata when `tenant`. -/
def execPoisonDetect (s : State) : Out :=
  let line := s.ev.index
  let s := (s.refuseWrites s.ev.size).poisonLine line s.ev.tenant
  .next (s.contain s.ev.size 0 (if s.ev.flag then some s.ev.core else none)
    { code := 0x41, reason := 0x11, va := s.ev.addr.toNat % 2 ^ 54, d1 := BitVec.ofNat 64 line })

/-! ## Lines (R476) -/

/-- 24 hours in cycles. -/
def dayCycles : Nat := 86400 * 1600000000

/-- LINE_RETIRE: line `index` had an uncorrectable error (`flag`; of its metadata when `tenant`), or a corrected one: the fourth in 24
hours retires it. -/
def execLineRetire (s : State) : Out :=
  let line := s.ev.index
  let times := ((s.lineErrs.look line).filter (fun t => decide (s.cyc < t + dayCycles))) ++ [s.cyc]
  let lost := if s.lostLines.contains line then s.lostLines else s.lostLines ++ [line]
  if s.ev.flag then .next ({ s with lostLines := lost }.poisonLine line s.ev.tenant)
  else if times.length < 4 then .next { s with lineErrs := s.lineErrs.put line times }
  else .next { s with lineErrs := s.lineErrs.put line [], lostLines := lost }

/-! ## Frames that move (R479) -/

/-- A line number, and an address, after frame `o` has moved to frame `n`. -/
def movedLine (o n line : Nat) : Nat := if line / 2048 = o then line - o * 2048 + n * 2048 else line
def movedAddr (o n a : Nat) : Nat := if a / 2 ^ 18 = o then a - o * 2 ^ 18 + n * 2 ^ 18 else a

def LineRef.moved (l : LineRef) (o n : Nat) : LineRef := if l.sp then l else { l with line := movedLine o n l.line }

/-- A transaction's tracked lines and buffered bytes follow the frame. -/
def Tx.moved (t : Tx) (o n : Nat) : Tx :=
  let ls (l : List LineRef) : List LineRef := l.map (fun x => x.moved o n)
  { t with
    seen := ls t.seen
    levels := t.levels.map (fun v => { v with
      reads := ls v.reads
      retained := ls v.retained
      writes := ls v.writes
      buf := v.buf.map (fun b => if b.sp then b else { b with addr := movedAddr o n b.addr }) }) }

/-- Every table below a table of a level (spec/07 R216), itself included. -/
def State.tablesAt (s : State) : Nat → Nat → List Nat
  | 0, table => [table]
  | lv + 1, table => table :: (List.range 512).flatMap (fun i =>
    let e := s.entry table i
    match nextTable e.1 e.2 false with
    | some n => s.tablesAt lv n
    | none => [])

/-- The frames in which a partition's tables stand. -/
def State.tableFrames (s : State) (p : Nat) : List Nat :=
  (s.rootsOf p).flatMap (fun r =>
    let e := s.entry s.root r
    match nextTable e.1 e.2 true with
    | some n => (s.tablesAt 2 n).map frameOf
    | none => [])

/-- A frame can move: only leaves of its own page size map it, and it holds no table (log entry 42). -/
def State.movable (s : State) (p fr : Nat) : Bool :=
  !(s.tableFrames p).contains fr && ((s.leavesOf p).filter (fun l => l.mapsAny [fr])).all (fun l => l.level == 0)

/-- Every core's dirty bytes and U partials of a frame's lines go home, and no core keeps a copy. -/
def State.clearFrame (s : State) (o : Nat) : State :=
  s.cores.foldl (fun s e =>
    let s := (e.2.partials.filter (fun x => inFrame o x.1)).foldl (fun s x => s.sendPartial e.1 x.1) s
    (e.2.l1.filter (fun x => inFrame o x.1)).foldl (fun s x => s.evict e.1 x.1) s) s

/-- A core still holds bytes of a frame: their homes hold them back. -/
def State.frameStuck (s : State) (o : Nat) : Bool :=
  s.cores.any (fun c => c.2.l1.any (fun e => inFrame o e.1) || c.2.partials.any (fun e => inFrame o e.1))

/-- What a frame holds goes to another one, a poisoned line poisoned. -/
def State.copyFrame (s : State) (o n : Nat) : State :=
  let s := s.advanceGen n
  let s := (s.dram.filter (fun e => frameOf e.1 == o && s.lineFresh (lineOf e.1))).foldl (fun s e => s.physPut (movedAddr o n e.1) e.2) s
  { s with
    poison := s.poison ++ (s.poison.filter (fun l => l / 2048 == o && s.lineFresh l)).map (movedLine o n)
    metaPoison := s.metaPoison ++ (s.metaPoison.filter (fun l => l / 2048 == o)).map (movedLine o n)
    side := (s.side.filter (fun e => e.1 / 64 == o)).foldl (fun m e => m.put (e.1 - o * 64 + n * 64) e.2) s.side
    held := s.held.map (fun h => { h with line := h.line.moved o n, addr := if h.line.sp then h.addr else movedAddr o n h.addr })
    formes := s.formes.mapVals (fun _ f => { f with slugs := f.slugs.mapVals (fun _ m => { m with tx := m.tx.map (fun t => t.moved o n) }) }) }

/-- A frame's place in the frame table and in its partition's lists goes to another frame; the old one is retired. -/
def State.renameFrame (s : State) (p o n : Nat) : State :=
  let f := s.frames.look o
  let g := s.frames.look n
  let to' (l : List Nat) : List Nat := l.map (fun x => if x = o then n else x)
  let s := s.modFrames [n] (fun _ => { f with gen := g.gen, scrub := g.scrub, retired := false })
  let s := s.modFrames [o] (fun x => { gen := x.gen, scrub := x.scrub, retired := true })
  s.modPart p (fun q => { q with
    pool1 := to' q.pool1, pool2 := to' q.pool2, saveFrames := to' q.saveFrames, storeFrames := to' q.storeFrames })

/-- The leaves that map a frame name another one. -/
def State.repoint (s : State) (p o n : Nat) : State :=
  ((s.leavesOf p).filter (fun l => l.mapsAny [o])).foldl (fun s l => match s.slotAt l.base 0 with
    | .ok a => (s.putEntry a (BitVec.ofNat 64 (n * 2 ^ 18 + 3)) l.hi).tlbDrop l.base l.size
    | .error _ => s) s

/-- The tier of a frame: 0 or 1. -/
def frameTier (fr : Nat) : Nat := if fr < 16777216 then 0 else 1

/-- A frame holds a retired line and is in service; one that is leaving its partition moves no more. -/
def State.mustMove (s : State) (fr : Nat) : Bool :=
  s.lostLines.any (inFrame fr) && !(s.frames.look fr).retired
    && !s.parts.any (fun e => e.2.draining.any (fun d => d.frames.contains fr))

/-- FRAME_MOVE: frame `index`, which holds a retired line, moves to a spare frame of its tier while its partition runs. A frame that
nobody holds is retired. Without a spare frame it stays in service and a replacement is requested. -/
def execFrameMove (s : State) : Out :=
  let o := s.ev.index
  let f := s.frames.look o
  let t := frameTier o
  if !s.mustMove o then .next s
  else match f.owner with
    | none =>
      if f.firmware then .next (s.askReplace (3 + t) none)
      else .next ((s.modFrames [o] (fun x => { x with retired := true })).cutTotal (3 + t) (2 ^ 18))
    | some p => match s.freeFrames t 0 1 with
      | n :: _ =>
        let s' := s.clearFrame o
        if !s.movable p o then .next (s.askReplace (3 + t) (some p))
        else if s'.frameStuck o then .next s'
        else .next ((((s'.fireFrame o).copyFrame o n).repoint p o n).renameFrame p o n |>.cutTotal (3 + t) (2 ^ 18))
      | [] => .next (s.askReplace (3 + t) (some p))

/-! ## Channels (R480) -/

/-- The frames of 8 GiB. -/
def channelFrames : Nat := 2 ^ 33 / 2 ^ 18

/-- A line of the second tier that is stored on a channel (spec/07 R226). -/
def onChannel (ch line : Nat) : Bool := inTier 1 (line * 128) 128 && channelOf line == ch

/-- A channel of which 64 lines are retired (R476). -/
def State.channelWorn (s : State) (ch : Nat) : Bool := decide (64 ≤ (s.lostLines.filter (onChannel ch)).length)

/-- CHANNEL_RETIRE: LPDDR6 channel `index` has failed its training (`flag`), or 64 of its lines are retired (R476): its lines are
substituted by storage of second-tier frames that nobody holds, which are withdrawn; without enough of them the channel stays in
service. -/
def execChannelRetire (s : State) : Out :=
  let ch := s.ev.index
  let fs := s.freeFrames 1 0 channelFrames
  if 192 ≤ ch ∨ s.lostChannels.contains ch ∨ !(s.ev.flag || s.channelWorn ch) then .next s
  else if fs.length < channelFrames then .next (s.askReplace 4 none)
  else
    let s := { s with lostChannels := s.lostChannels ++ [ch], lostLines := s.lostLines.filter (fun l => !onChannel ch l) }
    .next (((s.modFrames fs (fun f => { f with retired := true })).cutTotal 4 (2 ^ 33)).askReplace 4 none)

/-! ## Cores (R477, R478) -/

/-- A resident unit is saved with a zero drain budget, or unbound when it has not begun. -/
def State.saveNow (s : State) (fk : Nat) : State :=
  let fks := (s.wholeUnits [fk]).filter (fun k => (s.forme k).place.resident)
  if fks.isEmpty then s
  else if fks.all (fun k => (s.forme k).place == .bound) then s.unbind fk
  else s.hardSave fk

/-- The core becomes not live: with its L1, its translations and its partials gone home first. -/
def State.coreGone (s : State) (c : Nat) : State :=
  let s := (s.flushU c).sweep c (fun _ _ => true) true
  let s := { s with coresLost := s.coresLost + 1 }.modCore c (fun x => { x with retired := true, tlb := [] })
  (s.cutTotal 2 1).askReplace 2 (s.cluster (clusterOf c)).holder.partition?

/-- The core's whole cluster goes out of service, as a cluster that leaves its partition. -/
def State.clusterFails (s : State) (cl : Nat) : State :=
  let p := (s.cluster cl).holder.partition?
  let s := s.modCluster cl (fun x => { x with doomed := true })
  match p.or s.pool.part with
  | some q =>
    let s := s.shrinkBegins q cl
    if s.clusterEmpty cl then s.clusterLeaves q cl else s
  | none => if s.clusterEmpty cl then s.clusterLeaves 0 cl else s

/-- CORE_RETIRE: core `core` fails; the launches of `bytes` had state on it that the error reached. -/
def execCoreRetire (s : State) : Out :=
  let c := s.ev.core
  if 256 ≤ c ∨ (s.core c).retired ∨ (s.cluster (clusterOf c)).doomed then .next s
  else
    let fs := s.formes.filter (fun e => e.2.place.resident && e.2.core == c)
    let hit := s.ev.launches.filter (fun n => fs.any (fun e => e.2.launch == n))
    let s := hit.foldl (fun s n => s.contain n 0 (some c) { code := 0x41 }) s
    let s := (fs.filter (fun e => !hit.contains e.2.launch)).foldl (fun s e => s.saveNow e.1) s
    .next (if s.coresLost < 16 then (s.coreGone c).endUnplaceable else s.clusterFails (clusterOf c))

end Sys2Proof.Machine
end

