-- ==== Sys2Proof/Machine/Boot.lean ====
section
/-!
DEFINITION. Bring-up, time, power and the physical function's registers (spec/20 R488 to R493).
-/

namespace Sys2Proof.Machine

/-! ## Boot (R490, R491) -/

/-- A number in the configuration record's digest that the event carries. -/
def EvArgs.cfg (a : EvArgs) (off n : Nat) : Nat := natOf ((a.bytes.drop off).take n)

/-- The record's settings: version, mode, device id, devices in the fabric set; then the four measurements. -/
def EvArgs.bootRec (a : EvArgs) (accepted : Nat) : BootRec :=
  { version := a.cfg 0 4, mode := a.cfg 4 1, deviceId := BitVec.ofNat 9 (a.cfg 5 2), setSize := a.cfg 7 2,
    accepted := Nat.max accepted (a.cfg 0 4), log := (List.range 4).map (fun i => (a.bytes.drop (17 + 64 * i)).take 64) }

/-- The fabric ports that the record enables, and those of them that trained. -/
def EvArgs.bootPorts (a : EvArgs) : Sparse FabPort :=
  (List.range 32).foldl (fun m i =>
    let on := (a.cfg 9 4).testBit i
    m.put i { enabled := on, up := on && (a.cfg 13 4).testBit i }) []

/-- What is left of a device whose power has gone: retired units, requests for replacement, the last accepted record, and the model's
own fields. -/
def State.afterPower (s : State) : State :=
  { State.reset with
    agenda := s.agenda
    ev := s.ev
    fresh := s.fresh
    repl := s.repl
    totalCut := s.totalCut
    lostLines := s.lostLines
    lostChannels := s.lostChannels
    coresLost := s.coresLost
    lineErrs := s.lineErrs
    boot := { accepted := s.boot.accepted }
    frames := s.frames.mapVals (fun _ f => { retired := f.retired })
    cores := s.cores.mapVals (fun _ c => { retired := c.retired })
    clusters := s.clusters.mapVals (fun _ c => { holder := if c.holder = .outOfService then .outOfService else .free, doomed := c.doomed }) }

/-- The steps of R491 succeed: firmware's own frame holds the root table, and the ports are up. -/
def State.booted (s : State) (root : Nat) : State :=
  let t := s.afterPower
  { t with
    power := .on
    root := root
    fwTables := [root]
    frames := t.frames.upd (frameOf root) (fun f => { f with firmware := true })
    boot := s.ev.bootRec s.boot.accepted
    ports := s.ev.bootPorts }

/-- A physical address at which a table may stand (spec/07 R216, R217). -/
def tablePlace (a : Nat) : Bool := a % 8192 == 0 && (inTier 0 a 8192 || inTier 1 a 8192)

/-- POWER_UP_BOOT: the device boots from a record (`bytes`), its root table at `addr`; step `size` fails without `flag`, step 2 for a
record older than the last accepted one, and the device is then in recovery. A fabric set has at most 512 devices (spec/00 R2). -/
def execPowerUpBoot (s : State) : Out :=
  let root := s.ev.addr.toNat
  if s.power = .on ∨ s.power = .d3hot ∨ !tablePlace root ∨ 512 < s.ev.cfg 7 2 then .next s
  else if !s.ev.flag then .next { s.afterPower with power := .recovery s.ev.size }
  else if s.ev.cfg 0 4 < s.boot.accepted then .next { s.afterPower with power := .recovery 2 }
  else .next (s.booted root)

/-! ## Time (R492) -/

/-- LOCK: the offset is within 100 ns. -/
def Ptp.locked (t : Ptp) : Bool := t.measured && decide (t.left.natAbs ≤ 4000000)

/-- AHEAD: `%ptp` is more than 10 ms ahead of the host. -/
def Ptp.isAhead (t : Ptp) : Bool := decide (400000000000 < t.left)

/-- PTP_DISCIPLINE: a measurement finds `%ptp` ahead of the host's clock by `value` nanoseconds (signed). More than 10 ms behind it
takes one step forward; every other offset is slewed out as cycles pass. -/
def execPtpDiscipline (s : State) : Out :=
  let off := s.ev.value.toInt
  let t := { s.ptp with measured := true, offset := s.ev.value, left := 40000 * off }
  let behind := decide (off < -10000000)
  let t : Ptp := if behind then { t with left := 0, steps := t.steps + 1 } else t
  .next { s with
    ptp := { t with ever := t.ever || t.locked }
    ptpNow := if behind then s.ptpNow + off.natAbs else s.ptpNow }

/-! ## Telemetry (R493, spec/18 R481) -/

/-- The REPL word: bit 0 while any replacement is requested, bit k for kind k. -/
def State.replWord (s : State) : Word :=
  s.repl.foldl (fun w e => w ||| 1 ||| (1#64 <<< e.1)) 0

/-- TELEMETRY_REFRESH: power in W (`value`), the hottest junction of each die in °C (`bytes`), the fabric ports that are down. -/
def execTelemetryRefresh (s : State) : Out :=
  .next { s with telemetry :=
    { s.telemetry with
      power := s.ev.value
      junction := s.ev.bytes.zipIdx.foldl (fun m e => m.put e.2 (e.1.zeroExtend 64)) []
      portsDown := s.ports.foldl (fun w e => if e.2.enabled && !e.2.up then w ||| (1#64 <<< e.1) else w) 0
      due := s.cyc + 16000000 } }

/-- THERMAL_ALARM: the alarm bit, and vector 0 of the physical function. -/
def execThermalAlarm (s : State) : Out :=
  .next (if s.telemetry.alarm then s else { s with telemetry := { s.telemetry with alarm := true }, irqs := s.irqs ++ [(0, 0, 0)] })

/-- THERMAL_SHUTDOWN: the links are down and every launch's state is lost. -/
def execThermalShutdown (s : State) : Out := .next { s.afterPower with power := .shut }

/-! ## Power states (R493) -/

/-- D3HOT_ENTRY of the physical function: every partition is pre-empted and held. -/
def execD3hotEntry (s : State) : Out :=
  if s.power ≠ .on then .next s
  else
    let s := { s with power := .d3hot }
    .next (s.existing.foldl (fun s p => s.preempt p [{ hold := true, deadline := s.drainEnd p }] (s.residents p (fun _ _ => true))) s)

/-- D0_RETURN: what D3hot held back returns. -/
def execD0Return (s : State) : Out :=
  if s.power ≠ .d3hot then .next s
  else
    let s := { s with power := .on }
    .next (s.existing.foldl (fun s p => (s.modPart p (fun q => { q with draining := q.draining.filter (fun d =>
      !d.hold || d.cluster.isSome || !d.frames.isEmpty || q.tdisp == .error) })).settle p) s)

/-! ## The physical function's BAR (R488) -/

/-- The block of a feature in the physical function's BAR. -/
def pfBlock (id : Nat) : Nat := match id with
  | 1 => 0x1000
  | 4 => 0x9000
  | _ => 0

/-- A register of the physical function's BAR at an offset that is a multiple of 8; the places of the time and telemetry block's fields
are not given. -/
def State.pfReg (s : State) (o : Nat) : Word :=
  if o < 0x1000 then (capList 0 pfBlock ((List.range 12).map (· + 1))).getD (o / 8) 0
  else if o < 0x9000 then s.capTable.getD ((o - 0x1000) / 8) 0
  else if o < 0xB000 then
    (let q := s.part ((o - 0x9000) / 128)
     let i := (o - 0x9000) % 128 / 8
     if i < 8 then q.mboxTaken.look i else q.mboxRsp.look (i - 8))
  else if 0x10000 ≤ o ∧ o < 0x20000 then
    (let w := s.worlds.look ((o - 0x10000) / 16)
     if o % 16 = 0 then w.flim ++ 0#21 ++ w.fflr else w.mlim ++ 0#21 ++ w.mflr)
  else if o = 0x20000 then s.sliceBase
  else if 0x20100 ≤ o ∧ o < 0x20300 then (s.part ((o - 0x20100) / 8)).drainUs
  else if 0x20400 ≤ o ∧ o < 0x20800 then
    (let q := s.part ((o - 0x20400) / 16)
     BitVec.ofNat 64 (if o % 16 = 0 then q.pool1 else q.pool2).length)
  else if 0x22000 ≤ o ∧ o < 0x23000 then
    (if o % 64 / 8 < 6 then s.featureMask ((o - 0x22000) / 64) (o % 64 / 8) else 0)
  else if 0x1000000 ≤ o ∧ o < 0x2000000 then
    (let r := (o - 0x1000000) % 2 ^ 18
     if r < 0x10000 then s.barReg ((o - 0x1000000) / 2 ^ 18) r else 0)
  else 0

end Sys2Proof.Machine
end

