-- ==== Sys2Proof/Machine/CheckForms.lean ====
section
/-!
DEFINITION. The check instructions (spec/15 R424 to R427).
-/

namespace Sys2Proof.Machine

/-! ## Bases (spec/02 R58, R61, spec/10 R318) -/

/-- `%priv` of a context. -/
def State.privOf (s : State) (c : Ctx) : Nat := s.privBase c.iss.fk c.iss.sl

/-- A check's fault with the failing value. -/
def checkTrap (code : BitVec 8) (x : Word) (mask : Mask) : TrapInfo :=
  { flt := { code := code, d1 := x }, mask := mask }

/-- A scalar check: passes, or faults with a code. -/
def checkForm (w : Ops) (s : State) (f : Ctx → Word → Option (BitVec 8)) : Out :=
  scalarWord w.h s (fun c =>
    let a := c.m.srcG w 0 w.a
    match f c a with
    | none => s.retire c
    | some code => s.trap c (checkTrap code a c.act))

/-- A range of bytes lies within another. -/
def rangeIn (a len lo hi : Nat) : Bool := decide (lo ≤ a ∧ a + len ≤ hi)

/-! ## Meanings (R425) -/

/-- `CHKB`. -/
def execChkb (w : Ops) (m : ChkMod) (s : State) : Out :=
  checkForm w s (fun c a =>
    let l := s.launchOf c
    let z := l.zbase m.z.toNat
    if rangeIn a.toNat (c.m.srcG w m.imm w.b).toNat z (z + l.zlen m.z.toNat) then none else some 0x03)

/-- `CHKN`. -/
def execChkn (w : Ops) (_m : ChkMod) (s : State) : Out :=
  checkForm w s (fun _ a => if a = 0 then some 0x04 else none)

/-- `CHKA`: the power stands in Z. -/
def execChka (w : Ops) (m : ChkMod) (s : State) : Out :=
  checkForm w s (fun _ a => if a.toNat % 2 ^ m.z.toNat = 0 then none else some 0x05)

/-- `CHKI`: a scalar, or every lane of the path's mask; a vector fault names the value of its lane of least virtual lane id. -/
def execChki (w : Ops) (m : ChkMod) (s : State) : Out :=
  match w.a with
  | .v _ =>
    vectorWord w.h s (fun c =>
      let lim := c.m.srcG w m.imm w.b
      let bad := maskOf ((planes c.path.mask).filter (fun p => decide (lim.toNat < (c.m.laneAt w.a p).toNat)))
      match (sortBy (fun p => c.f.vlidAt c.iss.sl p) (planes bad)).head? with
      | none => s.retire c
      | some p => s.trap c (checkTrap 0x03 ((c.m.laneAt w.a p).zeroExtend 64) bad))
  | _ => checkForm w s (fun c a => if (c.m.srcG w m.imm w.b).toNat < a.toNat then some 0x03 else none)

/-- The zone that a token of the launch's object guards (R404). -/
def State.guardZone (s : State) (c : Ctx) (k : Nat) : Nat :=
  let l := s.launchOf c
  let o := (s.part l.part).objs.look l.oh
  (o.locks.getD k 0).toNat % 16

/-- `CHKL`: a load `LD.n64.acq.obs=FC` of the lock word, whose value must be `%priv` (R425, R426). -/
def execChkl (w : Ops) (m : ChkMod) (s : State) : Out :=
  scalarWord w.h s (fun c => s.unlessTx c true (fun _ =>
    let h : How := { dev := true, noUo := true, whole := true, skips := false }
    let a := BitVec.ofNat 64 ((s.launchOf c).zbase (s.guardZone c m.z.toNat))
    match s.gate c h false false (fun _ => none) (oneElem 8 a) with
    | (s, none) => s
    | (s, some (good, _)) =>
      let r := s.readGood c good
      let x := BitVec.ofNat 64 (natOf ((r.2.map (·.2)).headD []))
      let s := r.1.acquire c.core 0x03
      if x.toNat = s.privOf c then s.retire c else s.trap c (checkTrap 0x0B x c.act)))

/-- A code address at a gate start of a sealed chunk of an object of the launch, or of one it sealed (R407, R425). -/
def State.isGate (s : State) (n : Nat) (a : Word) : Bool :=
  let l := s.launch n
  let p := s.part l.part
  let oh := (a.extractLsb' 32 22).toNat
  let i := a.toNat % 2 ^ 32 / 8
  decide (a.toNat < 2 ^ 54) && a.toNat % 8 == 0 && (oh == l.oh || l.sealedOh.contains oh) && (p.objs.look oh).used &&
    (match (p.objs.look oh).chunks[i / 512]? with
     | some id => (p.chunks.look id).isSealed && (p.chunks.look id).gt.getLsbD (i % 512)
     | none => false)

/-- `CHKT`. -/
def execChkt (w : Ops) (_m : ChkMod) (s : State) : Out :=
  checkForm w s (fun c a =>
    if a = 0 then some 0x04 else if s.isGate c.f.launch a then none else some 0x0A)

/-- `CHKR`. -/
def execChkr (w : Ops) (m : ChkMod) (s : State) : Out :=
  checkForm w s (fun c a => if m.imm.toInt < a.toInt - (c.m.srcG w 0 w.b).toInt then some 0x03 else none)

/-- `CHKP`. -/
def execChkp (w : Ops) (m : ChkMod) (s : State) : Out :=
  checkForm w s (fun c a =>
    let b := s.privOf c
    if rangeIn a.toNat (c.m.srcG w m.imm w.b).toNat (b + 1024) (b + 2 ^ (s.launchOf c).psz) then none else some 0x03)

end Sys2Proof.Machine
end

