-- ==== Sys2Proof/Machine/CrossLane.lean ====
section
/-!
DEFINITION. The cross-lane instructions (spec/05 R160 to R166): lanes named by virtual lane id through the remap table, and
the operations over the active lanes of a path.
-/

namespace Sys2Proof.Machine

/-- The virtual lane id of a plane of the issuing slug. -/
def Ctx.vlid (c : Ctx) (p : Nat) : Nat := c.f.vlidAt c.iss.sl p

/-- A source lane is reachable (R161); its slug and plane. -/
def State.reach (s : State) (c : Ctx) (fs : Bool) (v : Nat) : Option (Nat × Nat) :=
  let l := c.f.lane v
  if v < 32 * (s.launchOf c).extent 1 && l.2.2 && (c.f.slugs.look l.1).live && (fs || l.1 == c.iss.sl)
  then some (l.1, l.2.1) else none

/-- A lane of a vector register of any slug of the forme. -/
def Ctx.laneReg (c : Ctx) (n : Nat) (at_ : Nat × Nat) : Lane :=
  ((c.f.slugs.look at_.1).readV n).toList.getD at_.2 0

/-- A lane that moves in a regroup under way (R45). -/
def Forme.moving (f : Forme) (v : Nat) : Bool :=
  f.gathers.any (fun g => g.closed && (f.plan g).any (fun e => e.1.1 == v))

/-- The source lane a `SHFL` names for virtual lane `u` (R162); `none` below 0. -/
def shflSource (mode : Nat) (arg idx u : Nat) : Option Nat :=
  if mode = 0 then some idx
  else if mode = 1 then some (Nat.xor u arg)
  else if mode = 2 then (if arg ≤ u then some (u - arg) else none)
  else some (u + arg)

/-- A word that reads one lane of a register for each active lane: `src` names it; a lane without a reachable source
keeps its own value (R162). It waits for a lane that is moving (R45). A lane of another slug gives the value it holds when the word issues
(R164; DESIGN CHOICE, log entry 86). -/
def State.laneWord (s : State) (c : Ctx) (fs : Bool) (d : Nat) (a : Opnd) (val : Fin 32 → Lane) (src : Fin 32 → Option Nat) :
    State :=
  let named := (List.finRange 32).filterMap (fun i => if c.act.getLsbD i.val then src i else none)
  if fs && named.any (fun v => (s.reach c fs v).isSome && c.f.moving v) then s.hold
  else
    s.finishV c d (fun i =>
      match src i with
      | none => val i
      | some v => match s.reach c fs v with
        | none => val i
        | some at_ => match a with
          | .v n => c.laneReg n.toNat at_
          | _ => val i)

/-- `SHFL` (R162). -/
def execShfl (w : Ops) (m : XlMod) (s : State) : Out :=
  vectorWord w.h s (fun c =>
    s.laneWord c m.fs w.d.num w.a (fun i => c.m.srcV w 0 .n32 w.a i) (fun i =>
      shflSource m.mode.toNat m.arg.toNat (c.m.srcV w 0 .n32 w.b i).toNat (c.vlid i.val)))

/-- `BCAST` (R162). -/
def execBcast (w : Ops) (m : XlMod) (s : State) : Out :=
  vectorWord w.h s (fun c =>
    s.laneWord c m.fs w.d.num w.a (fun i => c.m.srcV w 0 .n32 w.a i) (fun _ => some (c.m.srcG w 0 w.b).toNat))

/-- The bits of a predicate source on the active lanes. -/
def Ctx.predBits (c : Ctx) (o : Opnd) : Mask := c.m.readP o.num &&& c.act

/-- The result of `VOTE` by mode, as a bit (R163): all, any, all equal. -/
def voteBit (mode : Nat) (act bits : Mask) : Bool :=
  if mode = 0 then bits == act
  else if mode = 1 then bits != 0
  else bits == act || bits == 0

/-- `VOTE` (R163). -/
def execVote (w : Ops) (m : XlMod) (s : State) : Out :=
  vectorWord w.h s (fun c =>
    let bits := c.predBits w.a
    if m.mode = 3 then s.finishG c w.d.num (bits.zeroExtend 64)
    else s.finishP c w.d.num (if voteBit m.mode.toNat c.act bits then 0xFFFFFFFF else 0))

/-- The operation of `PSCAN` and `REDL` on two lanes (R160, R163): add, min, max, and, or, xor. -/
def scanOp (t : Ty) (op : Nat) (x y : Lane) : Lane :=
  if t.flt then BitVec.ofNat 32 (minMax (op == 2) .f32 x.toNat y.toNat)
  else if op = 0 then x + y
  else if op = 1 then (if lInt t x ≤ lInt t y then x else y)
  else if op = 2 then (if lInt t y ≤ lInt t x then x else y)
  else if op = 3 then x &&& y
  else if op = 4 then x ||| y
  else x ^^^ y

/-- Its identity (R163). -/
def scanIdentity (t : Ty) (op : Nat) : Lane :=
  if op = 1 then (match t with | .i32 => 0x7FFFFFFF | .f32 => 0x7F800000 | _ => 0xFFFFFFFF)
  else if op = 2 then (match t with | .i32 => 0x80000000 | .f32 => 0xFF800000 | _ => 0)
  else if op = 3 then 0xFFFFFFFF
  else 0

/-- The active planes in ascending virtual lane id. -/
def Ctx.byVlid (c : Ctx) : List Nat := sortBy c.vlid (planes c.act)

/-- The prefixes of a scan: each plane with its result. -/
def scanLanes (op : Lane → Lane → Lane) (excl : Bool) (val : Nat → Lane) : List Nat → Lane → List (Nat × Lane)
  | [], _ => []
  | p :: r, acc =>
    let x := op acc (val p)
    (p, if excl then acc else x) :: scanLanes op excl val r x

/-- `PSCAN` (R163). -/
def execPscan (w : Ops) (m : XlMod) (s : State) : Out :=
  vectorWord w.h s (fun c =>
    let val (p : Nat) : Lane := c.m.srcV w 0 m.ty w.a (Fin.ofNat 32 p)
    let op := m.mode.toNat
    let r := scanLanes (scanOp m.ty op) (m.arg.getLsbD 0) val c.byVlid (scanIdentity m.ty op)
    s.finishV c w.d.num (fun i => ((r.find? (fun e => e.1 == i.val)).map (·.2)).getD 0))

/-- `MATCH` (R163). -/
def execMatchLanes (w : Ops) (_m : XlMod) (s : State) : Out :=
  vectorWord w.h s (fun c =>
    let val (i : Fin 32) : Lane := c.m.srcV w 0 .n32 w.a i
    s.finishV c w.d.num (fun i => maskFn (fun k => c.act.getLsbD k.val && val k == val i)))

/-- `REDL` (R163). -/
def execRedl (w : Ops) (m : XlMod) (s : State) : Out :=
  scalarWord w.h s (fun c =>
    let op := m.mode.toNat
    let x := c.byVlid.foldl (fun x p => scanOp m.ty op x (c.m.srcV w 0 m.ty w.a (Fin.ofNat 32 p))) (scanIdentity m.ty op)
    s.finishG c w.d.num (if m.ty = .i32 then x.signExtend 64 else x.zeroExtend 64))

/-- `ELECT` (R163). -/
def execElect (w : Ops) (m : XlMod) (s : State) : Out :=
  scalarWord w.h s (fun c =>
    match c.byVlid with
    | [] => s.retire c
    | p :: _ => if m.mode = 0 then s.finishG c w.d.num (BitVec.ofNat 64 (c.vlid p))
                else s.finishP c w.d.num (1#32 <<< p))

/-- `LRD` (R162). -/
def execLrd (w : Ops) (m : XlMod) (s : State) : Out :=
  scalarWord w.h s (fun c =>
    let v := (c.m.srcG w 0 w.b).toNat
    match s.reach c m.fs v with
    | none => s.finishG c w.d.num 0
    | some at_ =>
      if m.fs && c.f.moving v then s.hold
      else
        let y := c.laneReg w.a.num at_
        s.finishG c w.d.num (if m.ty = .i32 then y.signExtend 64 else y.zeroExtend 64))

/-- `LWR` (R162). -/
def execLwr (w : Ops) (_m : XlMod) (s : State) : Out :=
  vectorWord w.h s (fun c =>
    let x := (c.m.srcG w 0 w.a).extractLsb' 0 32
    let v := (c.m.srcG w 0 w.b).toNat
    let hit := c.act &&& maskFn (fun i => c.vlid i.val == v)
    (s.modCur (·.writeV w.d.num hit (fun _ => x))).retire c)

/-- `PCNT` (R163). -/
def execPcnt (w : Ops) (_m : XlMod) (s : State) : Out :=
  scalarWord w.h s (fun c => s.finishG c w.d.num (BitVec.ofNat 64 (popcount (c.predBits w.a))))

end Sys2Proof.Machine
end

