-- ==== Sys2Proof/Machine/Special.lean ====
section
/-!
DEFINITION. The special functions (spec/05 R155 to R157). The spec bounds the error of each and fixes its exact points; the
value within the bound is the implementation's: the machine delivers the proposal of Config.special where it keeps the
bound, judged by an evaluation to about 2^-120, and that evaluation's nearest value otherwise (log entry 11).
-/

namespace Sys2Proof.Machine

/-! ## Evaluation in fixed point with 192 fraction bits -/

/-- The number of fraction bits. -/
def fxP : Nat := 192

/-- ln 2, 1 / ln 2 and π / 2, cut to 192 fraction bits. -/
def fxLn2 : Nat := 4350955369971217654477563090224794165364344896676135745069
def fxLog2e : Nat := 9055943544797870567083544809312461607371518589544137143473
def fxHalfPi : Nat := 9860048348863269281198066682114134445731725432595044866280

/-- A fixed-point product. -/
def fxMul (a b : Nat) : Nat := a * b / 2 ^ fxP

/-- The Taylor series of e^y from a term on. -/
def expLoop (y : Nat) : Nat → Nat → Nat → Nat → Nat
  | 0, _, _, acc => acc
  | k + 1, n, term, acc =>
    let t := fxMul term y / n
    expLoop y k (n + 1) t (acc + t)

/-- e^y for 0 ≤ y < 1. -/
def fxExp (y : Nat) : Nat := expLoop y 44 1 (2 ^ fxP) (2 ^ fxP)

/-- The alternating Taylor series of sine (from term y, `n` = 2) or cosine (from 1, `n` = 1). -/
def trigLoop (y2 : Nat) : Nat → Nat → Nat → Bool → Int → Int
  | 0, _, _, _, acc => acc
  | k + 1, n, term, neg, acc =>
    let t := fxMul term y2 / (n * (n + 1))
    trigLoop y2 k (n + 2) t (!neg) (if neg then acc - t else acc + t)

/-- The sine of an angle of 0 to π / 2. -/
def fxSin (y : Nat) : Int := trigLoop (fxMul y y) 28 2 y true y

/-- The cosine of an angle of 0 to π / 2. -/
def fxCos (y : Nat) : Int := trigLoop (fxMul y y) 28 1 (2 ^ fxP) true (2 ^ fxP)

/-- The fraction bits of log2 of a mantissa of 1 to 2, by repeated squaring. -/
def log2Loop : Nat → Nat → Nat → Nat
  | 0, _, acc => acc
  | k + 1, y, acc =>
    let y2 := fxMul y y
    if 2 ^ (fxP + 1) ≤ y2 then log2Loop k (y2 / 2) (2 * acc + 1) else log2Loop k y2 (2 * acc)

/-- A finite value as a fixed-point integer, rounded down. -/
def fxOf (s : Bool) (m : Nat) (e : Int) : Int :=
  let k := e + fxP
  let v : Int := if 0 ≤ k then m * 2 ^ k.toNat else (m / 2 ^ (-k).toNat : Nat)
  if s then (if 0 ≤ k ∨ m % 2 ^ (-k).toNat = 0 then -v else -v - 1) else v

/-- A value from an integer multiple of 2^`e`. -/
def valOf (k : Int) (e : Int) : FVal := .fin (decide (k < 0)) k.natAbs e

/-- A tiny value, and one just below 1. -/
def tinyVal : FVal := .fin false 1 (-400)
def nearOne (s : Bool) : FVal := .fin s (2 ^ 300 - 1) (-300)

/-- 2^x of a fixed-point x, with a sticky last bit. -/
def exp2Fx (x : Int) : FVal :=
  .fin false (2 * fxExp (fxMul (x % 2 ^ fxP).toNat fxLn2) + 1) (x / 2 ^ fxP - fxP - 1)

/-- 2^x. -/
def exp2Val (s : Bool) (m : Nat) (e : Int) : FVal :=
  if 12 < m.log2 + e then (if s then tinyVal else .fin false 1 400) else exp2Fx (fxOf s m e)

/-- log2 x of a positive value. -/
def log2Val (m : Nat) (e : Int) : FVal :=
  let l := m.log2
  let frac := log2Loop 128 (m * 2 ^ (fxP - l)) 0
  valOf (2 * ((e + l) * 2 ^ 128 + frac) + 1) (-129)

/-- sin 2πx or cos 2πx. -/
def turnVal (cosine s : Bool) (m : Nat) (e : Int) : FVal :=
  let t := ((fxOf s m e) % 2 ^ fxP).toNat * 4
  let q := (t / 2 ^ fxP + (if cosine then 1 else 0)) % 4
  let a := fxMul (t % 2 ^ fxP) fxHalfPi
  let v := if q = 0 then fxSin a else if q = 1 then fxCos a else if q = 2 then -fxSin a else -fxCos a
  valOf v (-(fxP : Int))

/-- e^|x| of a value below 2^9. -/
def expAbs (m : Nat) (e : Int) : FVal := exp2Fx (fxMul (fxOf false m e).toNat fxLog2e)

/-- tanh x. -/
def tanhVal (s : Bool) (m : Nat) (e : Int) : FVal :=
  let x : FVal := .fin s m e
  if m.log2 + e < -20 then FVal.add false x (FVal.div (FVal.mul x (FVal.mul x x)) (.fin false 3 0)).neg
  else if 6 ≤ m.log2 + e then nearOne s
  else
    let a := expAbs m (e + 1)
    let y := FVal.div (FVal.add false a (.fin true 1 0)) (FVal.add false a (.fin false 1 0))
    if s then y.neg else y

/-- 1 / (1 + e^-x). -/
def sigmVal (s : Bool) (m : Nat) (e : Int) : FVal :=
  if 9 ≤ m.log2 + e then (if s then tinyVal else nearOne false)
  else
    let a := expAbs m e
    let b := FVal.add false a (.fin false 1 0)
    if s then FVal.div (.fin false 1 0) b else FVal.div a b

/-! ## Bounds and exact points -/

/-- The bound that a result keeps (R155): one of the two neighbours, two units in the last place, or an absolute error
of 2^`k`. -/
inductive Bound where
  | neighbour
  | twoUlp
  | absolute (k : Int)
  deriving DecidableEq, Repr, Inhabited

/-- |x − y| ≤ 2^k · u. -/
def within (x y : FVal) (u : Nat) (k : Int) : Bool :=
  match FVal.cmp (FVal.add false x y.neg).abs (.fin false u k) with
  | some .gt => false
  | some _ => true
  | none => false

/-- A proposed code keeps the bound about the value y. -/
def keeps (f : FFmt) (b : Bound) (y : FVal) (c : Nat) : Bool :=
  let lo := FVal.round f .rdn false y
  let hi := FVal.round f .rup false y
  let v := FVal.decode f c
  match b with
  | .neighbour => c == lo || c == hi
  | .twoUlp => match y with
    | .fin _ m e => decide (c < 2 * f.signBit) && within v y 2 (FVal.lastPlace f m e)
    | _ => false
  | .absolute k => decide (c < 2 * f.signBit) && within v y 1 k

/-- The delivered code: the implementation's proposal where it keeps one of the bounds, else the nearest; a value that
rounds beyond the format is infinite (R117). -/
def deliver (fn : Nat) (f : FFmt) (bs : List Bound) (y : FVal) (x : Nat) : Nat :=
  let near := FVal.round f .rne false y
  let c := Config.special fn f.ebits f.mbits x
  if near % f.signBit = f.infCode then near
  else if bs.any (fun b => keeps f b y c) then c else near

/-- A finite value is an integral multiple of 2^`k`. -/
def multipleOf (m : Nat) (e k : Int) : Bool := m == 0 || decide (k ≤ e) || m % 2 ^ (k - e).toNat == 0

/-- The integer of an integral value. -/
def intOf (s : Bool) (m : Nat) (e : Int) : Int :=
  let v : Int := if 0 ≤ e then m * 2 ^ e.toNat else (m / 2 ^ (-e).toNat : Nat)
  if s then -v else v

/-- A power of two, as its exponent. -/
def powerOfTwo (m : Nat) (e : Int) : Option Int := if m = 2 ^ m.log2 then some (e + m.log2) else none

/-- The least of the sines of the quarter turns: 0, 1, 0, −1. -/
def quarter (q : Int) : FVal :=
  if q % 4 = 1 then .fin false 1 0 else if q % 4 = 3 then .fin true 1 0 else .zero

/-- The absolute bound of a format: 2^-22 for F32, 2^-10 for the 16-bit formats (R155). -/
def absBound (f : FFmt) : Int := if f.mbits = 23 then -22 else -10

/-- The bound of `VTANH` and `VSIGM` (R155). -/
def ulpBound (f : FFmt) : Bound := if f.mbits = 23 then .twoUlp else .neighbour

/-- One element of a special function (R155, R156). -/
def sfElem (o : SFOp) (rm : RM) (f : FFmt) (x : Nat) : Nat :=
  let one : FVal := .fin false 1 0
  let r (v : FVal) : Nat := FVal.round f rm false v
  match FVal.decode f x with
  | .nan => f.nanCode
  | .inf s =>
    (match o with
     | .rcp => r (.fin s 0 0)
     | .rsq => if s then f.nanCode else r .zero
     | .sqrt => if s then f.nanCode else r (.inf false)
     | .exp2 => if s then r .zero else r (.inf false)
     | .log2 => if s then f.nanCode else r (.inf false)
     | .sin | .cos => f.nanCode
     | .tanh => r (.fin s 1 0)
     | .sigm => if s then r .zero else r one)
  | .fin s m e =>
    if m = 0 then
      (match o with
       | .rcp | .rsq => r (.inf s)
       | .log2 => r (.inf true)
       | .sqrt => r (.fin s 0 0)
       | .exp2 | .cos => r one
       | .sin => if s then r (.fin true 0 0) else r .zero
       | .tanh => r (.fin s 0 0)
       | .sigm => r (.fin false 1 (-1)))
    else
      (match o with
       | .rcp => r (FVal.div one (.fin s m e))
       | .sqrt => if s then f.nanCode else r (FVal.sqrt (.fin s m e))
       | .rsq =>
         if s then f.nanCode
         else match powerOfTwo m e with
           | some k => if k % 2 = 0 then r (.fin false 1 (-(k / 2)))
                       else deliver 1 f [.neighbour] (FVal.sqrt (FVal.div one (.fin s m e))) x
           | none => deliver 1 f [.neighbour] (FVal.sqrt (FVal.div one (.fin s m e))) x
       | .exp2 =>
         if multipleOf m e 0 then r (if 12 < m.log2 + e then exp2Val s m e else .fin false 1 (intOf s m e))
         else deliver 3 f [.neighbour] (exp2Val s m e) x
       | .log2 =>
         if s then f.nanCode
         else match powerOfTwo m e with
           | some k => r (valOf k 0)
           | none =>
             let mid := decide (m.log2 + e = 0 ∨ m.log2 + e = -1)
             deliver 4 f (if mid then [.neighbour, .absolute (absBound f)] else [.neighbour]) (log2Val m e) x
       | .sin =>
         if multipleOf m e (-2) then r (quarter (intOf s m (e + 2)))
         else deliver 5 f [.absolute (absBound f)] (turnVal false s m e) x
       | .cos =>
         if multipleOf m e (-2) then r (quarter (intOf s m (e + 2) + 1))
         else deliver 6 f [.absolute (absBound f)] (turnVal true s m e) x
       | .tanh => deliver 7 f [ulpBound f] (tanhVal s m e) x
       | .sigm => deliver 8 f [ulpBound f] (sigmVal s m e) x)

/-- A special function in one lane. -/
def sfVal (o : SFOp) (t : Ty) (rm : RM) (a : Lane) : Lane :=
  BitVec.ofNat 32 (perElem t (fun f _ x _ => sfElem o rm f x) 0 a.toNat 0)

/-- A special-function word. -/
def specialFn (o : SFOp) (w : Ops) (m : AluMod) (s : State) : Out :=
  vectorWord w.h s (fun c => s.finishV c w.d.num (fun i => sfVal o m.ty m.rm (c.m.srcV w m.imm m.ty w.a i)))

/-! ## Meanings -/

def execVrcp (w : Ops) (m : AluMod) (s : State) : Out := specialFn .rcp w m s
def execVrsq (w : Ops) (m : AluMod) (s : State) : Out := specialFn .rsq w m s
def execVsqrt (w : Ops) (m : AluMod) (s : State) : Out := specialFn .sqrt w m s
def execVexp2 (w : Ops) (m : AluMod) (s : State) : Out := specialFn .exp2 w m s
def execVlog2 (w : Ops) (m : AluMod) (s : State) : Out := specialFn .log2 w m s
def execVsin (w : Ops) (m : AluMod) (s : State) : Out := specialFn .sin w m s
def execVcos (w : Ops) (m : AluMod) (s : State) : Out := specialFn .cos w m s
def execVtanh (w : Ops) (m : AluMod) (s : State) : Out := specialFn .tanh w m s
def execVsigm (w : Ops) (m : AluMod) (s : State) : Out := specialFn .sigm w m s

end Sys2Proof.Machine
end

