-- ==== Sys2Proof/Machine/Paired.lean ====
section
/-!
DEFINITION. Paired words (spec/03 R82 to R85, spec/04 R132, spec/05 R166): two halves that both read before either writes.
-/

namespace Sys2Proof.Machine

/-- What a half writes. -/
inductive HalfOut where
  | none
  | g (n : Nat) (x : Word)
  | p (n : Nat) (act x : Mask)
  | v (n : Nat) (f : Fin 32 → Lane)

/-- A scalar or predicate destination given a value. -/
def scalarOut (d : Opnd) (x : Word) : HalfOut :=
  match d with
  | .p n => .p n.toNat 0xFFFFFFFF (x.extractLsb' 0 32)
  | d => .g d.num x

/-- The result of a half, from the registers as they stand before the word. A form of two sources reads DST first. -/
def halfOut (s : State) (c : Ctx) (h : Half) : HalfOut :=
  let w : Ops := { h := default, d := h.d, a := if h.op.twoSource then h.d else h.s,
                   b := if h.op.twoSource then h.s else .none, x := none }
  let n := h.d.num
  let old := c.m.readV n
  match h.op with
  | .nop => .none
  | .si o t => if c.act = 0 then .none
    else scalarOut h.d (sopVal o t 0 (c.m.srcG w 0 h.d) (c.m.srcG w 0 w.a) (c.m.srcG w 0 w.b))
  | .vi o t => .v n (fun i => viVal o t 0 false old[i] (c.m.srcV w 0 t w.a i) (c.m.srcV w 0 t w.b i))
  | .vf o t r => .v n (fun i => vfVal o t r false old[i] (c.m.srcV w 0 t w.a i) (c.m.srcV w 0 t w.b i))
  | .sf o t r => .v n (fun i => sfVal o t r (c.m.srcV w 0 t w.a i))
  | .scaleb t r => .v n (fun i => scalebLane t r (c.m.srcV w 0 t w.a i) (c.m.srcExp w t w.b i))
  | .cvt k =>
    let x := halfConv k
    .v n (fun i => BitVec.ofNat 32
      (cvtLane x.1 x.2.1 x.2.2.1 false x.2.2.2.1 x.2.2.2.2 c.m.srg (c.m.srcC w x.2.1 w.a i) old[i].toNat).1)
  | .shfl down lg =>
    .v n (fun i =>
      let own := c.m.srcV w 0 .n32 w.a i
      match shflSource (if down then 3 else 1) (2 ^ lg.toNat) 0 (c.vlid i.val) with
      | none => own
      | some v => match s.reach c false v with
        | none => own
        | some l => match w.a with
          | .v k => c.laneReg k.toNat l
          | _ => own)
  | .vote mode =>
    let bits := c.predBits w.a
    if mode = 3 then .g n (bits.zeroExtend 64)
    else .p n c.act (if voteBit mode.toNat c.act bits then 0xFFFFFFFF else 0)

/-- A half's result written. -/
def Slug.writeHalf (m : Slug) (act : Mask) (o : HalfOut) : Slug :=
  match o with
  | .none => m
  | .g n x => m.writeG n x
  | .p n a x => m.writeP n a x
  | .v n f => m.writeV n act f

/-- The scalar register that a half would write, and its value, for the pinned-register check (spec/15 R417). -/
def HalfOut.pin (o : HalfOut) : Option (Nat × Word) :=
  match o with
  | .g n x => some (n, x)
  | _ => Option.none

/-- PAIRED_WORD (R82, R83): a fault of either half is a fault of the whole word. -/
def execPairedWord (h : Hdr) (hi lo : Half) (s : State) : Out :=
  vectorWord h s (fun c =>
    let a := halfOut s c hi
    let b := halfOut s c lo
    match (a.pin.toList ++ b.pin.toList).find? (fun e => s.pinBlocks c e.1 e.2) with
    | some e => s.trap c (pinTrap c e.1 e.2 false)
    | none => (s.modCur (fun m => (m.writeHalf c.act a).writeHalf c.act b)).retire c)

end Sys2Proof.Machine
end

