-- ==== Sys2Proof/Machine/System.lean ====
section
/-!
DEFINITION. The system instructions (spec/18 R458 to R467) but `SEALREQ`: special registers (spec/02 R58 to R66), feature words,
traps and notes, the handler's own forms, and first-touch mapping.
-/

namespace Sys2Proof.Machine

/-! ## Special registers -/

/-- `%pca` and `%pcb` (R63). -/
def Slot.pcReg (x : Slot) : Word :=
  match x.path with
  | some p => 1#1 ++ BitVec.ofBool p.pk ++ 0#8 ++ p.pc.extractLsb' 3 51 ++ 0#3
  | none => 0

/-- `%maska` and `%maskb`. -/
def Slot.maskReg (x : Slot) : Word := match x.path with
  | some p => p.mask.zeroExtend 64
  | none => 0

/-- `%scw` (R64). -/
def Slug.scw (m : Slug) : Word :=
  0#32 ++ BitVec.ofBool m.strict ++ BitVec.ofBool m.owner ++ BitVec.ofBool m.hnd.isSome ++ 0#6
    ++ BitVec.ofNat 7 m.stack.length ++ 0#3 ++ BitVec.ofNat 5 m.alloc ++ 0#8

/-- `%txst` (R65). -/
def Slug.txst (m : Slug) : Word := 0#40 ++ m.abtcode ++ m.cause ++ 0#5 ++ BitVec.ofNat 3 m.depth

/-- `%pitch` (R62). -/
def Forme.pitchReg (f : Forme) : Word :=
  0#48 ++ BitVec.ofNat 4 f.x0 ++ BitVec.ofNat 4 f.y0 ++ BitVec.ofNat 4 f.pw ++ BitVec.ofNat 4 f.ph

/-- A special register that is not a lane register (R58). -/
def State.sreg (s : State) (c : Ctx) (n : Nat) : Word :=
  let l := s.launchOf c
  let w (x : Nat) : Word := BitVec.ofNat 64 x
  if n = 0x02 then w c.iss.sl
  else if n = 0x03 then w c.f.pidx
  else if n = 0x04 then c.f.pitchReg
  else if n = 0x05 then w c.f.core
  else if 0x0A ≤ n ∧ n ≤ 0x0F then w (l.coord c.f.fidx (n - 8))
  else if n = 0x10 then w l.world
  else if n = 0x11 then c.f.cptag
  else if n = 0x12 then c.f.rowprog.zeroExtend 64
  else if n = 0x13 then c.m.txst
  else if n = 0x14 then c.m.a.pcReg
  else if n = 0x15 then c.m.b.pcReg
  else if n = 0x16 then c.m.a.maskReg
  else if n = 0x17 then c.m.b.maskReg
  else if n = 0x18 then c.m.scw
  else if n = 0x19 then c.m.srg
  else if n = 0x1A then w l.args
  else if n = 0x1B then w (s.privOf c)
  else if n = 0x1C then w s.cyc
  else if n = 0x1D then w s.ptpNow
  else if 0x20 ≤ n ∧ n ≤ 0x2F then w (l.zbase (n - 0x20))
  else if 0x30 ≤ n ∧ n ≤ 0x3F then w (l.zlen (n - 0x30))
  else 0

/-- A lane register in the lane at a plane (R24, R58). -/
def Ctx.laneSreg (c : Ctx) (n p : Nat) : Lane :=
  let v := c.f.vlidAt c.iss.sl p
  BitVec.ofNat 32 (if n = 0x00 then v else if n = 0x01 then p else if n = 0x08 then v % 32 else v / 32)

/-- `MOVS` (R459). -/
def execMovs (w : Ops) (m : SysMod) (s : State) : Out :=
  match w.d with
  | .v d => vectorWord w.h s (fun c =>
      (s.modCur (·.writeV d.toNat c.act (fun i => c.laneSreg m.n.toNat i.val))).retire c)
  | d => scalarWord w.h s (fun c => s.finishG c d.num (s.sreg c m.n.toNat))

/-! ## Features, traps and notes -/

/-- `QFEAT` (R460). -/
def execQfeat (w : Ops) (m : SysMod) (s : State) : Out :=
  scalarWord w.h s (fun c =>
    let leaf := if m.n.getLsbD 6 then (c.m.srcG w 0 w.a).toNat else (m.n.extractLsb' 0 6).toNat
    s.finishG c w.d.num (s.feature (s.partOf c) leaf))

/-- `TRAP` (R461). -/
def execTrap (w : Ops) (m : SysMod) (s : State) : Out :=
  scalarWord w.h s (fun c => s.trap c { flt := { code := 0x0C, d0 := m.n.toNat }, mask := c.act })

/-- `GNOTE` (R463). -/
def execGnote (w : Ops) (_m : SysMod) (s : State) : Out :=
  scalarWord w.h s (fun c => s.unlessTx c true (fun _ =>
    let a := c.m.srcG w 0 w.a
    let r := { s.recInfo c.iss.fk c.iss.sl c.iss.b c.path.pc c.act with inh := c.m.hnd.isSome }
    (s.report r { code := 0x7E, sub := a.extractLsb' 56 8, reason := a.extractLsb' 48 8, d0 := a.toNat % 2 ^ 48,
                  d1 := c.m.srcG w 0 w.b }).retire c))

/-! ## The handler's own forms (R462) -/

/-- `FLTRD`. -/
def execFltrd (w : Ops) (m : SysMod) (s : State) : Out :=
  scalarWord w.h s (fun c => s.finishG c w.d.num (match c.m.hnd with
    | some h => h.record.getD (m.n.toNat % 8) 0
    | none => 0))

/-- `HRET`. -/
def execHret (w : Ops) (_m : SysMod) (s : State) : Out :=
  scalarWord w.h s (fun c => s.hret c.iss.fk c.iss.sl)

/-- `HSKIP`. -/
def execHskip (w : Ops) (_m : SysMod) (s : State) : Out :=
  scalarWord w.h s (fun c => s.hskip c.iss.fk c.iss.sl ((c.m.srcG w 0 w.a).extractLsb' 0 32))

/-- `HFAIL`. -/
def execHfail (w : Ops) (_m : SysMod) (s : State) : Out :=
  scalarWord w.h s (fun c => s.hfail c.iss.fk c.iss.sl)

/-! ## First-touch mapping (R464 to R466) -/

/-- `MAPF`. -/
def execMapf (w : Ops) (_m : SysMod) (s : State) : Out :=
  scalarWord w.h s (fun c =>
    let r := s.mapf (s.partOf c) (c.m.srcG w 0 w.a)
    r.1.finishG c w.d.num r.2)

/-- `MAPQ`. -/
def execMapq (w : Ops) (_m : SysMod) (s : State) : Out :=
  scalarWord w.h s (fun c => s.finishG c w.d.num (s.mapq (s.partOf c) (c.m.srcG w 0 w.a)))

/-- `UNMAPF`; it waits until the change can be complete (spec/07 R225). -/
def execUnmapf (w : Ops) (_m : SysMod) (s : State) : Out :=
  scalarWord w.h s (fun c =>
    if (s.presentLeaf (c.m.srcG w 0 w.a).toNat).any s.pageWaits then s.hold
    else
    let r := s.unmapf (s.partOf c) (c.m.srcG w 0 w.a)
    r.1.finishG c w.d.num r.2)

/-! ## What is not an instruction (spec/03 R91) -/

/-- ILLEGAL_WORD: the decoder reaches a word that is not an instruction; whatever its predicate and lanes, it faults
before it has any effect, with the word itself in the record. -/
def execIllegalWord (word : Word) (s : State) : Out :=
  match s.ctx default with
  | none => .next s
  | some c => .next (s.trap c { flt := { code := 0x01, d1 := word }, mask := c.path.mask })

end Sys2Proof.Machine
end

