-- ==== Sys2Proof/Machine/Dispatch.lean ====
section
/-!
DEFINITION. One arm for every constructor of Instr: a direct call of the instruction's meaning.
-/

namespace Sys2Proof.Machine

def exec (i : Instr) (s : State) : Host.Outcome State Fault Refusal :=
  match i with
  | .nop w m => Sys2Proof.Machine.execNop w m s
  | .bra w m => Sys2Proof.Machine.execBra w m s
  | .brc w m => Sys2Proof.Machine.execBrc w m s
  | .brv w m => Sys2Proof.Machine.execBrv w m s
  | .join w m => Sys2Proof.Machine.execJoin w m s
  | .call w m => Sys2Proof.Machine.execCall w m s
  | .ret w m => Sys2Proof.Machine.execRet w m s
  | .jmpt w m => Sys2Proof.Machine.execJmpt w m s
  | .recast w m => Sys2Proof.Machine.execRecast w m s
  | .yield w m => Sys2Proof.Machine.execYield w m s
  | .launch w m => Sys2Proof.Machine.execLaunch w m s
  | .exit w m => Sys2Proof.Machine.execExit w m s
  | .add w m => Sys2Proof.Machine.execAdd w m s
  | .sub w m => Sys2Proof.Machine.execSub w m s
  | .mul w m => Sys2Proof.Machine.execMul w m s
  | .mulh w m => Sys2Proof.Machine.execMulh w m s
  | .shl w m => Sys2Proof.Machine.execShl w m s
  | .shr w m => Sys2Proof.Machine.execShr w m s
  | .sar w m => Sys2Proof.Machine.execSar w m s
  | .rol w m => Sys2Proof.Machine.execRol w m s
  | .ror w m => Sys2Proof.Machine.execRor w m s
  | .and w m => Sys2Proof.Machine.execAnd w m s
  | .or w m => Sys2Proof.Machine.execOr w m s
  | .xor w m => Sys2Proof.Machine.execXor w m s
  | .andn w m => Sys2Proof.Machine.execAndn w m s
  | .not w m => Sys2Proof.Machine.execNot w m s
  | .min w m => Sys2Proof.Machine.execMin w m s
  | .max w m => Sys2Proof.Machine.execMax w m s
  | .abs w m => Sys2Proof.Machine.execAbs w m s
  | .neg w m => Sys2Proof.Machine.execNeg w m s
  | .div w m => Sys2Proof.Machine.execDiv w m s
  | .rem w m => Sys2Proof.Machine.execRem w m s
  | .clz w m => Sys2Proof.Machine.execClz w m s
  | .ctz w m => Sys2Proof.Machine.execCtz w m s
  | .popc w m => Sys2Proof.Machine.execPopc w m s
  | .brev w m => Sys2Proof.Machine.execBrev w m s
  | .cmp w m => Sys2Proof.Machine.execCmp w m s
  | .bfx w m => Sys2Proof.Machine.execBfx w m s
  | .bfi w m => Sys2Proof.Machine.execBfi w m s
  | .mov w m => Sys2Proof.Machine.execMov w m s
  | .vaddInt w m => Sys2Proof.Machine.execVaddInt w m s
  | .vsubInt w m => Sys2Proof.Machine.execVsubInt w m s
  | .vmulInt w m => Sys2Proof.Machine.execVmulInt w m s
  | .vcmpInt w m => Sys2Proof.Machine.execVcmpInt w m s
  | .vmulh w m => Sys2Proof.Machine.execVmulh w m s
  | .vmad w m => Sys2Proof.Machine.execVmad w m s
  | .vshl w m => Sys2Proof.Machine.execVshl w m s
  | .vshr w m => Sys2Proof.Machine.execVshr w m s
  | .vsar w m => Sys2Proof.Machine.execVsar w m s
  | .vand w m => Sys2Proof.Machine.execVand w m s
  | .vor w m => Sys2Proof.Machine.execVor w m s
  | .vxor w m => Sys2Proof.Machine.execVxor w m s
  | .vandn w m => Sys2Proof.Machine.execVandn w m s
  | .vnot w m => Sys2Proof.Machine.execVnot w m s
  | .vminInt w m => Sys2Proof.Machine.execVminInt w m s
  | .vmaxInt w m => Sys2Proof.Machine.execVmaxInt w m s
  | .vabsInt w m => Sys2Proof.Machine.execVabsInt w m s
  | .vnegInt w m => Sys2Proof.Machine.execVnegInt w m s
  | .vadds w m => Sys2Proof.Machine.execVadds w m s
  | .vsubs w m => Sys2Proof.Machine.execVsubs w m s
  | .vdivInt w m => Sys2Proof.Machine.execVdivInt w m s
  | .vrem w m => Sys2Proof.Machine.execVrem w m s
  | .vclz w m => Sys2Proof.Machine.execVclz w m s
  | .vpopc w m => Sys2Proof.Machine.execVpopc w m s
  | .vbrev w m => Sys2Proof.Machine.execVbrev w m s
  | .vselInt w m => Sys2Proof.Machine.execVselInt w m s
  | .vbfx w m => Sys2Proof.Machine.execVbfx w m s
  | .vbfi w m => Sys2Proof.Machine.execVbfi w m s
  | .vmovInt w m => Sys2Proof.Machine.execVmovInt w m s
  | .vsad w m => Sys2Proof.Machine.execVsad w m s
  | .vaddFloat w m => Sys2Proof.Machine.execVaddFloat w m s
  | .vsubFloat w m => Sys2Proof.Machine.execVsubFloat w m s
  | .vmulFloat w m => Sys2Proof.Machine.execVmulFloat w m s
  | .vfma w m => Sys2Proof.Machine.execVfma w m s
  | .vcmpFloat w m => Sys2Proof.Machine.execVcmpFloat w m s
  | .vfms w m => Sys2Proof.Machine.execVfms w m s
  | .vfnma w m => Sys2Proof.Machine.execVfnma w m s
  | .vfnms w m => Sys2Proof.Machine.execVfnms w m s
  | .vminFloat w m => Sys2Proof.Machine.execVminFloat w m s
  | .vmaxFloat w m => Sys2Proof.Machine.execVmaxFloat w m s
  | .vminn w m => Sys2Proof.Machine.execVminn w m s
  | .vmaxn w m => Sys2Proof.Machine.execVmaxn w m s
  | .vminm w m => Sys2Proof.Machine.execVminm w m s
  | .vmaxm w m => Sys2Proof.Machine.execVmaxm w m s
  | .vabsFloat w m => Sys2Proof.Machine.execVabsFloat w m s
  | .vnegFloat w m => Sys2Proof.Machine.execVnegFloat w m s
  | .vcpsgn w m => Sys2Proof.Machine.execVcpsgn w m s
  | .vdivFloat w m => Sys2Proof.Machine.execVdivFloat w m s
  | .vselFloat w m => Sys2Proof.Machine.execVselFloat w m s
  | .vmovFloat w m => Sys2Proof.Machine.execVmovFloat w m s
  | .vdot2 w m => Sys2Proof.Machine.execVdot2 w m s
  | .vclamp w m => Sys2Proof.Machine.execVclamp w m s
  | .vabd w m => Sys2Proof.Machine.execVabd w m s
  | .vlerp w m => Sys2Proof.Machine.execVlerp w m s
  | .vrcp w m => Sys2Proof.Machine.execVrcp w m s
  | .vrsq w m => Sys2Proof.Machine.execVrsq w m s
  | .vsqrt w m => Sys2Proof.Machine.execVsqrt w m s
  | .vexp2 w m => Sys2Proof.Machine.execVexp2 w m s
  | .vlog2 w m => Sys2Proof.Machine.execVlog2 w m s
  | .vsin w m => Sys2Proof.Machine.execVsin w m s
  | .vcos w m => Sys2Proof.Machine.execVcos w m s
  | .vtanh w m => Sys2Proof.Machine.execVtanh w m s
  | .vsigm w m => Sys2Proof.Machine.execVsigm w m s
  | .cvt w m => Sys2Proof.Machine.execCvt w m s
  | .pack w m => Sys2Proof.Machine.execPack w m s
  | .unpack w m => Sys2Proof.Machine.execUnpack w m s
  | .scaleb w m => Sys2Proof.Machine.execScaleb w m s
  | .rint w m => Sys2Proof.Machine.execRint w m s
  | .fcls w m => Sys2Proof.Machine.execFcls w m s
  | .getexp w m => Sys2Proof.Machine.execGetexp w m s
  | .mxscl w m => Sys2Proof.Machine.execMxscl w m s
  | .shfl w m => Sys2Proof.Machine.execShfl w m s
  | .bcast w m => Sys2Proof.Machine.execBcast w m s
  | .vote w m => Sys2Proof.Machine.execVote w m s
  | .pscan w m => Sys2Proof.Machine.execPscan w m s
  | .matchLanes w m => Sys2Proof.Machine.execMatchLanes w m s
  | .redl w m => Sys2Proof.Machine.execRedl w m s
  | .elect w m => Sys2Proof.Machine.execElect w m s
  | .lrd w m => Sys2Proof.Machine.execLrd w m s
  | .lwr w m => Sys2Proof.Machine.execLwr w m s
  | .pcnt w m => Sys2Proof.Machine.execPcnt w m s
  | .xclr w m => Sys2Proof.Machine.execXclr w m s
  | .xadd w m => Sys2Proof.Machine.execXadd w m s
  | .xsub w m => Sys2Proof.Machine.execXsub w m s
  | .xdot w m => Sys2Proof.Machine.execXdot w m s
  | .xrnd w m => Sys2Proof.Machine.execXrnd w m s
  | .xld w m => Sys2Proof.Machine.execXld w m s
  | .xst w m => Sys2Proof.Machine.execXst w m s
  | .xmrg w m => Sys2Proof.Machine.execXmrg w m s
  | .tcfg w m => Sys2Proof.Machine.execTcfg w m s
  | .tzero w m => Sys2Proof.Machine.execTzero w m s
  | .tld w m => Sys2Proof.Machine.execTld w m s
  | .tst w m => Sys2Proof.Machine.execTst w m s
  | .tlds w m => Sys2Proof.Machine.execTlds w m s
  | .tsts w m => Sys2Proof.Machine.execTsts w m s
  | .mma w m => Sys2Proof.Machine.execMma w m s
  | .mmap w m => Sys2Proof.Machine.execMmap w m s
  | .mmas w m => Sys2Proof.Machine.execMmas w m s
  | .mmasp w m => Sys2Proof.Machine.execMmasp w m s
  | .trd w m => Sys2Proof.Machine.execTrd w m s
  | .twr w m => Sys2Proof.Machine.execTwr w m s
  | .tmov w m => Sys2Proof.Machine.execTmov w m s
  | .tadd w m => Sys2Proof.Machine.execTadd w m s
  | .tscal w m => Sys2Proof.Machine.execTscal w m s
  | .tamax w m => Sys2Proof.Machine.execTamax w m s
  | .tstq w m => Sys2Proof.Machine.execTstq w m s
  | .tinfo w m => Sys2Proof.Machine.execTinfo w m s
  | .ld w m => Sys2Proof.Machine.execLd w m s
  | .st w m => Sys2Proof.Machine.execSt w m s
  | .vld w m => Sys2Proof.Machine.execVld w m s
  | .vst w m => Sys2Proof.Machine.execVst w m s
  | .vldx w m => Sys2Proof.Machine.execVldx w m s
  | .vstx w m => Sys2Proof.Machine.execVstx w m s
  | .vldp w m => Sys2Proof.Machine.execVldp w m s
  | .vstp w m => Sys2Proof.Machine.execVstp w m s
  | .pf w m => Sys2Proof.Machine.execPf w m s
  | .vlds w m => Sys2Proof.Machine.execVlds w m s
  | .vsts w m => Sys2Proof.Machine.execVsts w m s
  | .vldxp w m => Sys2Proof.Machine.execVldxp w m s
  | .vstxp w m => Sys2Proof.Machine.execVstxp w m s
  | .ldp w m => Sys2Proof.Machine.execLdp w m s
  | .stp w m => Sys2Proof.Machine.execStp w m s
  | .vldu w m => Sys2Proof.Machine.execVldu w m s
  | .vldc w m => Sys2Proof.Machine.execVldc w m s
  | .vstc w m => Sys2Proof.Machine.execVstc w m s
  | .pfx w m => Sys2Proof.Machine.execPfx w m s
  | .lwb w m => Sys2Proof.Machine.execLwb w m s
  | .linv w m => Sys2Proof.Machine.execLinv w m s
  | .vldf w m => Sys2Proof.Machine.execVldf w m s
  | .vldfp w m => Sys2Proof.Machine.execVldfp w m s
  | .vstf w m => Sys2Proof.Machine.execVstf w m s
  | .amo w m => Sys2Proof.Machine.execAmo w m s
  | .vamo w m => Sys2Proof.Machine.execVamo w m s
  | .red w m => Sys2Proof.Machine.execRed w m s
  | .vred w m => Sys2Proof.Machine.execVred w m s
  | .cas w m => Sys2Proof.Machine.execCas w m s
  | .vcas w m => Sys2Proof.Machine.execVcas w m s
  | .cas2 w m => Sys2Proof.Machine.execCas2 w m s
  | .amop w m => Sys2Proof.Machine.execAmop w m s
  | .vamop w m => Sys2Proof.Machine.execVamop w m s
  | .vredp w m => Sys2Proof.Machine.execVredp w m s
  | .fence w m => Sys2Proof.Machine.execFence w m s
  | .fencex w m => Sys2Proof.Machine.execFencex w m s
  | .flushu w m => Sys2Proof.Machine.execFlushu w m s
  | .cpy w m => Sys2Proof.Machine.execCpy w m s
  | .cpy2d w m => Sys2Proof.Machine.execCpy2d w m s
  | .cpym w m => Sys2Proof.Machine.execCpym w m s
  | .cpys w m => Sys2Proof.Machine.execCpys w m s
  | .cwany w m => Sys2Proof.Machine.execCwany w m s
  | .cwall w m => Sys2Proof.Machine.execCwall w m s
  | .cffr w m => Sys2Proof.Machine.execCffr w m s
  | .coll w m => Sys2Proof.Machine.execColl w m s
  | .cfill w m => Sys2Proof.Machine.execCfill w m s
  | .cgrp w m => Sys2Proof.Machine.execCgrp w m s
  | .qinit w m => Sys2Proof.Machine.execQinit w m s
  | .qpush w m => Sys2Proof.Machine.execQpush w m s
  | .qpop w m => Sys2Proof.Machine.execQpop w m s
  | .qallow w m => Sys2Proof.Machine.execQallow w m s
  | .qlen w m => Sys2Proof.Machine.execQlen w m s
  | .bar w m => Sys2Proof.Machine.execBar w m s
  | .bara w m => Sys2Proof.Machine.execBara w m s
  | .barw w m => Sys2Proof.Machine.execBarw w m s
  | .txb w m => Sys2Proof.Machine.execTxb w m s
  | .txe w m => Sys2Proof.Machine.execTxe w m s
  | .txelse w m => Sys2Proof.Machine.execTxelse w m s
  | .retry w m => Sys2Proof.Machine.execRetry w m s
  | .txabt w m => Sys2Proof.Machine.execTxabt w m s
  | .txwatch w m => Sys2Proof.Machine.execTxwatch w m s
  | .chkb w m => Sys2Proof.Machine.execChkb w m s
  | .chkn w m => Sys2Proof.Machine.execChkn w m s
  | .chka w m => Sys2Proof.Machine.execChka w m s
  | .chki w m => Sys2Proof.Machine.execChki w m s
  | .chkl w m => Sys2Proof.Machine.execChkl w m s
  | .chkt w m => Sys2Proof.Machine.execChkt w m s
  | .chkr w m => Sys2Proof.Machine.execChkr w m s
  | .chkp w m => Sys2Proof.Machine.execChkp w m s
  | .qfeat w m => Sys2Proof.Machine.execQfeat w m s
  | .trap w m => Sys2Proof.Machine.execTrap w m s
  | .hret w m => Sys2Proof.Machine.execHret w m s
  | .fltrd w m => Sys2Proof.Machine.execFltrd w m s
  | .mapf w m => Sys2Proof.Machine.execMapf w m s
  | .sealreq w m => Sys2Proof.Machine.execSealreq w m s
  | .movs w m => Sys2Proof.Machine.execMovs w m s
  | .hskip w m => Sys2Proof.Machine.execHskip w m s
  | .hfail w m => Sys2Proof.Machine.execHfail w m s
  | .mapq w m => Sys2Proof.Machine.execMapq w m s
  | .unmapf w m => Sys2Proof.Machine.execUnmapf w m s
  | .gnote w m => Sys2Proof.Machine.execGnote w m s
  | .pairedWord h hi lo => Sys2Proof.Machine.execPairedWord h hi lo s
  | .illegalWord w => Sys2Proof.Machine.execIllegalWord w s
  | .matrixQueueExecute => Sys2Proof.Machine.execMatrixQueueExecute s
  | .pitchPartStart => Sys2Proof.Machine.execPitchPartStart s
  | .deferredEngineTrap => Sys2Proof.Machine.execDeferredEngineTrap s
  | .copyComplete => Sys2Proof.Machine.execCopyComplete s
  | .cpymFollowOnEnqueue => Sys2Proof.Machine.execCpymFollowOnEnqueue s
  | .groupFormed => Sys2Proof.Machine.execGroupFormed s
  | .collectiveComplete => Sys2Proof.Machine.execCollectiveComplete s
  | .collectiveTimeout => Sys2Proof.Machine.execCollectiveTimeout s
  | .memberReattest => Sys2Proof.Machine.execMemberReattest s
  | .slugWake => Sys2Proof.Machine.execSlugWake s
  | .regroupComplete => Sys2Proof.Machine.execRegroupComplete s
  | .recastHoldExpiry => Sys2Proof.Machine.execRecastHoldExpiry s
  | .yieldExpiry => Sys2Proof.Machine.execYieldExpiry s
  | .l1Eviction => Sys2Proof.Machine.execL1Eviction s
  | .hotnessSample => Sys2Proof.Machine.execHotnessSample s
  | .hostMemoryWrite => Sys2Proof.Machine.execHostMemoryWrite s
  | .hostMemoryRead => Sys2Proof.Machine.execHostMemoryRead s
  | .peerRequest => Sys2Proof.Machine.execPeerRequest s
  | .queueEnable => Sys2Proof.Machine.execQueueEnable s
  | .queueDisable => Sys2Proof.Machine.execQueueDisable s
  | .queueBaseWrite => Sys2Proof.Machine.execQueueBaseWrite s
  | .queuePolicyWrite => Sys2Proof.Machine.execQueuePolicyWrite s
  | .kick => Sys2Proof.Machine.execKick s
  | .packetStart => Sys2Proof.Machine.execPacketStart s
  | .barrierPass => Sys2Proof.Machine.execBarrierPass s
  | .barrierTimeout => Sys2Proof.Machine.execBarrierTimeout s
  | .timedExpiry => Sys2Proof.Machine.execTimedExpiry s
  | .launchChecksFinish => Sys2Proof.Machine.execLaunchChecksFinish s
  | .launchComplete => Sys2Proof.Machine.execLaunchComplete s
  | .launchEndByFailure => Sys2Proof.Machine.execLaunchEndByFailure s
  | .ttEntryWrite => Sys2Proof.Machine.execTtEntryWrite s
  | .ttOccurrence => Sys2Proof.Machine.execTtOccurrence s
  | .linkPlace => Sys2Proof.Machine.execLinkPlace s
  | .linkReserve => Sys2Proof.Machine.execLinkReserve s
  | .linkGo => Sys2Proof.Machine.execLinkGo s
  | .linkPreempt => Sys2Proof.Machine.execLinkPreempt s
  | .linkRestore => Sys2Proof.Machine.execLinkRestore s
  | .linkBound => Sys2Proof.Machine.execLinkBound s
  | .linkDone => Sys2Proof.Machine.execLinkDone s
  | .linkSaved => Sys2Proof.Machine.execLinkSaved s
  | .formeDispatch => Sys2Proof.Machine.execFormeDispatch s
  | .granuleCleared => Sys2Proof.Machine.execGranuleCleared s
  | .sliceEnd => Sys2Proof.Machine.execSliceEnd s
  | .preemptRequest => Sys2Proof.Machine.execPreemptRequest s
  | .drainBudgetExpiry => Sys2Proof.Machine.execDrainBudgetExpiry s
  | .mailboxDoorbell => Sys2Proof.Machine.execMailboxDoorbell s
  | .pfForward => Sys2Proof.Machine.execPfForward s
  | .pfRefuse => Sys2Proof.Machine.execPfRefuse s
  | .mailboxTimeout => Sys2Proof.Machine.execMailboxTimeout s
  | .partitionGrow => Sys2Proof.Machine.execPartitionGrow s
  | .clusterShrink => Sys2Proof.Machine.execClusterShrink s
  | .frameWithdraw => Sys2Proof.Machine.execFrameWithdraw s
  | .functionLevelReset => Sys2Proof.Machine.execFunctionLevelReset s
  | .partitionDestroy => Sys2Proof.Machine.execPartitionDestroy s
  | .bandwidthRecordWrite => Sys2Proof.Machine.execBandwidthRecordWrite s
  | .tokenRateRecompute => Sys2Proof.Machine.execTokenRateRecompute s
  | .keySet => Sys2Proof.Machine.execKeySet s
  | .keyClear => Sys2Proof.Machine.execKeyClear s
  | .lockInterfaceRequest => Sys2Proof.Machine.execLockInterfaceRequest s
  | .startInterfaceRequest => Sys2Proof.Machine.execStartInterfaceRequest s
  | .stopInterfaceRequest => Sys2Proof.Machine.execStopInterfaceRequest s
  | .hobjWrite => Sys2Proof.Machine.execHobjWrite s
  | .handlerLoadDone => Sys2Proof.Machine.execHandlerLoadDone s
  | .hentryWrite => Sys2Proof.Machine.execHentryWrite s
  | .hsbaseWrite => Sys2Proof.Machine.execHsbaseWrite s
  | .hssizeWrite => Sys2Proof.Machine.execHssizeWrite s
  | .hsrdWrite => Sys2Proof.Machine.execHsrdWrite s
  | .hskWrite => Sys2Proof.Machine.execHskWrite s
  | .ftbaseWrite => Sys2Proof.Machine.execFtbaseWrite s
  | .ftlenWrite => Sys2Proof.Machine.execFtlenWrite s
  | .fttmplWrite => Sys2Proof.Machine.execFttmplWrite s
  | .drainBudgetWrite => Sys2Proof.Machine.execDrainBudgetWrite s
  | .sliceBaseWrite => Sys2Proof.Machine.execSliceBaseWrite s
  | .featureMaskWrite => Sys2Proof.Machine.execFeatureMaskWrite s
  | .poolCountWrite => Sys2Proof.Machine.execPoolCountWrite s
  | .barRegisterWrite => Sys2Proof.Machine.execBarRegisterWrite s
  | .poisonDetect => Sys2Proof.Machine.execPoisonDetect s
  | .portTagFailure => Sys2Proof.Machine.execPortTagFailure s
  | .fabricRekey => Sys2Proof.Machine.execFabricRekey s
  | .coreRetire => Sys2Proof.Machine.execCoreRetire s
  | .lineRetire => Sys2Proof.Machine.execLineRetire s
  | .frameMove => Sys2Proof.Machine.execFrameMove s
  | .channelRetire => Sys2Proof.Machine.execChannelRetire s
  | .powerUpBoot => Sys2Proof.Machine.execPowerUpBoot s
  | .ptpDiscipline => Sys2Proof.Machine.execPtpDiscipline s
  | .telemetryRefresh => Sys2Proof.Machine.execTelemetryRefresh s
  | .thermalAlarm => Sys2Proof.Machine.execThermalAlarm s
  | .thermalShutdown => Sys2Proof.Machine.execThermalShutdown s
  | .d3hotEntry => Sys2Proof.Machine.execD3hotEntry s
  | .d0Return => Sys2Proof.Machine.execD0Return s
  | .portSessionRekey => Sys2Proof.Machine.execPortSessionRekey s
  | .spdmSessionSetup => Sys2Proof.Machine.execSpdmSessionSetup s
  | .partitionCreate => Sys2Proof.Machine.execPartitionCreate s

end Sys2Proof.Machine
end

