-- ==== Sys2Proof/Machine/Turns.lean ====
section
/-!
DEFINITION. Which turn comes next when the agenda is empty: the words the ports may issue and the events that are due;
when none is, a cycle passes (spec/95, spec/01 R29 to R31; log entry 3).
-/

namespace Sys2Proof.Machine

/-- What one cycle of discipline takes off an offset: at most 200 parts in a million (spec/20 R492). -/
def slewOf (left : Int) : Int := if 5 < left then 5 else if left < -5 then -5 else left

/-- One cycle of the 1.6 GHz clock passes (spec/02 R60): 5/8 ns, or 25,000/40,000, less what discipline removes (spec/20 R492; log
entry 41). -/
def State.tick (s : State) : State :=
  let d := slewOf s.ptp.left
  let f := s.ptp.frac + (25000 - d).toNat
  let left := s.ptp.left - d
  { s with
    cyc := s.cyc + 1
    ptpNow := s.ptpNow + f / 40000
    ptp := { s.ptp with
      frac := f % 40000
      left := left
      ever := s.ptp.ever || (s.ptp.measured && decide (left.natAbs ≤ 4000000)) } }

/-- The page-table root lies in device memory (spec/07 R215, R223). -/
def State.rootOk (s : State) : Bool := s.root % 8192 == 0 && (inTier 0 s.root 8192 || inTier 1 s.root 8192)

/-- The ports that have a word to issue. -/
def State.portTurns (s : State) : List Turn :=
  s.cores.flatMap (fun e =>
    (if (s.portPick e.1 0).isSome then [Turn.port e.1 0] else []) ++
    (if (s.portPick e.1 1).isSome then [Turn.port e.1 1] else []))

/-! ## Events that are due: they come before the cycle ends -/

/-- Due events of one slug. -/
def State.dueOfSlug (s : State) (fk sl : Nat) (f : Forme) (m : Slug) : List Turn :=
  let ev (i : Instr) (flag : Bool) : Turn := .event i { forme := fk, slug := sl, flag := flag }
  let late (x : Slot) : Bool := x.yielding.any (fun n => decide (n ≤ s.cyc))
  let here := f.place == .running || f.place == .draining
  let trap := match s.stoppedOf fk sl with
    | some (_, e) => (match m.hnd with
      | some h => h.mq == e.id
      | none => m.gathering.isNone && m.live && !m.failed)
    | none => false
  (if late m.a then [ev .yieldExpiry true] else []) ++ (if late m.b then [ev .yieldExpiry false] else [])
    ++ (if here && m.live && m.wake.any (·.fired) then [ev .slugWake true] else [])
    ++ (if here && trap then [ev .deferredEngineTrap true] else [])

/-- Due events of one forme. -/
def State.dueOfForme (s : State) (fk : Nat) (f : Forme) : List Turn :=
  let ev (i : Instr) (pc : Addr) : Turn := .event i { forme := fk, addr := pc.zeroExtend 64 }
  f.gathers.flatMap (fun g =>
      if g.closed then (if g.done ≤ s.cyc then [ev .regroupComplete g.pc] else [])
      else if g.close ≤ s.cyc then [ev .recastHoldExpiry g.pc] else [])
    ++ f.slugs.flatMap (fun e => s.dueOfSlug fk e.1 f e.2)
    ++ (if f.transit.isEmpty || decide (8 ≤ f.mq.length) then [] else [ev .pitchPartStart 0])
    ++ (if f.follow.isEmpty || decide (8 ≤ f.mq.length) then [] else [ev .cpymFollowOnEnqueue 0])
    ++ (if f.place == .draining && f.drain.any (fun d => decide (d ≤ s.cyc)) then [ev .drainBudgetExpiry 0] else [])
    ++ (if s.savable fk then [.event .linkSaved { forme := fk, flag := false }] else [])

/-- Due events of one partition. -/
def State.dueOfPart (s : State) (p : Nat) (q : Partition) : List Turn :=
  q.queues.flatMap (fun e => e.2.running.flatMap (fun k =>
      let a : EvArgs := { part := p, index := e.1, size := k.id }
      if k.timedOut s.cyc then [Turn.event .barrierTimeout a]
      else if k.type = 5 ∧ (k.word 2).toNat ≤ s.ptpNow then [Turn.event .timedExpiry a] else []))
    ++ (q.tt.map (·.1)).filterMap (fun i => if s.ttDue p i then some (.event .ttOccurrence { part := p, index := i }) else none)
    ++ (if s.mboxLate p then [.event .mailboxTimeout { part := p }] else [])
    ++ q.draining.flatMap (fun d =>
      (match d.cluster with
       | some c => if d.hold && s.mayShrink p c && s.clusterEmpty c then [Turn.event .clusterShrink { part := p, core := c }] else []
       | none => [])
      ++ (if !d.frames.isEmpty && s.withdrawReady p d.frames
          then [Turn.event .frameWithdraw { part := p, index := d.frames.headD 0, size := d.frames.length }] else []))
    ++ q.colls.zipIdx.flatMap (fun x =>
      let g := q.groups.look x.1.gid
      if g.lost.isSome || decide (x.1.since + g.cycles ≤ s.cyc)
      then [Turn.event .collectiveTimeout { part := p, index := x.2, size := 0x1FF, tenant := true }] else [])
    ++ q.groups.flatMap (fun e =>
      if e.2.used && !e.2.formed && decide (e.2.since + e.2.cycles ≤ s.cyc)
      then [Turn.event .collectiveTimeout { part := p, index := e.1, size := 0x1FF }] else [])

/-- A core has granules whose clearing is over. -/
def Core.cleared (c : Core) (now : Nat) : Bool :=
  let over' (m : Sparse Granule) : Bool := m.any (fun e => e.2.holder.isNone && decide (e.2.freeAt ≤ now))
  over' c.regs || over' c.spad || over' c.accs

/-- The refresh of telemetry, due every 10 ms (spec/20 R493), with what the sensors of the six dies find, which is open. -/
def State.measurement (s : State) : Turn :=
  .event .telemetryRefresh { value := Config.freeWord s.fresh, bytes := (List.range 6).map (fun i => Config.freeByte (16 * s.fresh + i)) }

/-- Every due event. -/
def State.due (s : State) : List Turn :=
  s.formes.flatMap (fun e => s.dueOfForme e.1 e.2)
    ++ s.parts.flatMap (fun e => if e.2.exist then s.dueOfPart e.1 e.2 else [])
    ++ s.cores.filterMap (fun e => if e.2.cleared s.cyc then some (.event .granuleCleared { core := e.1 }) else none)
    ++ (if s.sliceOver then [.event .sliceEnd {}] else [])
    ++ (if s.telemetry.due ≤ s.cyc then [s.measurement] else [])
    ++ s.launches.filterMap (fun e => if s.failReady e.1 then some (.event .launchEndByFailure { index := e.1 }) else none)

/-! ## Events that may come at any time from when they can -/

/-- What a partition's firmware and copy units may do. -/
def State.openOfPart (s : State) (p : Nat) (q : Partition) : List Turn :=
  let unit := ((s.clustersNow p).flatMap s.liveCores).head?
  (if (s.pickQueue p).isSome then [.event .packetStart { part := p }] else [])
    ++ q.queues.flatMap (fun e => e.2.running.filterMap (fun k =>
      if k.type = 3 then some (.event .barrierPass { part := p, index := e.1, size := k.id }) else none))
    ++ (match unit with
      | some c => (List.range q.copies.length).map (fun i => Turn.event .copyComplete { part := p, index := i, core := c, tenant := true })
      | none => [])
    ++ (if q.hsPending.isEmpty then [] else [.event .hotnessSample { part := p }])
    ++ (if q.hst = 1 then [.event .handlerLoadDone { part := p }] else [])
    ++ (match s.headUnit p with
      | some (n, _, true) => if (s.orderHead p (fun _ r => r)).isSome then [.event .linkRestore { part := p, index := n, flag := false }] else []
      | some (n, _, false) =>
        let one := (s.launch n).unitSize == 1
        if (s.orderHead p (fun _ r => !r)).isSome
        then [.event (if one then .linkPlace else .linkReserve) { part := p, index := n, flag := false }] else []
      | none => [])

/-- What a cluster's leaf and the scheduler may do with the messages of its link (spec/10 R323). -/
def linkTurns (cl : Nat) (c : Cluster) : List Turn :=
  (match c.toSched with
   | m :: _ => [Turn.event (if m.type = 0x81 then .linkBound else if m.type = 0x82 then .linkDone else .linkSaved) { core := cl }]
   | [] => [])
  ++ (match c.toLeaf with
   | m :: _ => [Turn.event (if m.type = 0x01 then .linkPlace else if m.type = 0x02 then .linkReserve else if m.type = 0x03 then .linkGo
       else if m.type = 0x04 then .linkPreempt else .linkRestore) { core := cl }]
   | [] => [])

/-- A unit that is bound may start. -/
def State.mayDispatch (s : State) (fk : Nat) (f : Forme) : Bool :=
  let l := s.launch f.launch
  let fks := (l.unitFormes (l.unitFirst f.fidx)).map (formeKey f.launch)
  f.place == .bound && fks.all (fun k => (s.forme k).place == .bound || (s.forme k).place == .ended)
    && fks.all (fun k => (s.forme k).place == .ended || ((s.forme k).goes && s.granulesReady k && !s.mayNotStart k)) && fks.contains fk

/-- The frames that may move: a spare frame and no table, or no replacement asked for yet. -/
def State.framesToMove (s : State) : List Nat :=
  ((s.lostLines.map (· / 2048)).dedup).filter (fun fr => s.mustMove fr && (
    match (s.frames.look fr).owner with
    | none => !(s.frames.look fr).firmware || !s.repl.contains (3 + frameTier fr, 255)
    | some p => (!(s.freeFrames (frameTier fr) 0 1).isEmpty && s.movable p fr) || !s.repl.contains (3 + frameTier fr, 255)))

/-- The turns by which the device goes on, which come after a finite time (spec/10 R306). -/
def State.advances (s : State) : List Turn :=
  s.parts.flatMap (fun e => if e.2.exist then s.openOfPart e.1 e.2 else [])
    ++ s.clusters.flatMap (fun e => linkTurns e.1 e.2)
    ++ s.cores.flatMap (fun e =>
      (if (s.nextHead e.1).isSome then [Turn.event .matrixQueueExecute { core := e.1 }] else [])
        ++ (List.range e.2.copies.length).map (fun i => Turn.event .copyComplete { core := e.1, index := i }))
    ++ s.formes.filterMap (fun e => if s.mayDispatch e.1 e.2 then some (.event .formeDispatch { forme := e.1 }) else none)
    ++ s.launches.flatMap (fun e =>
      (if e.2.st = .checking then [Turn.event .launchChecksFinish { index := e.1 }] else [])
        ++ (if s.launchDone e.1 then [Turn.event .launchComplete { index := e.1 }] else []))
    ++ ((s.lostLines.map channelOf).dedup.filter (fun ch =>
        s.channelWorn ch && !s.lostChannels.contains ch && decide (channelFrames ≤ (s.freeFrames 1 0 channelFrames).length))).map
      (fun ch => Turn.event .channelRetire { index := ch, flag := false })
    ++ s.framesToMove.map (fun fr => Turn.event .frameMove { index := fr })

/-- The turns that may come or not: evictions (spec/07 R229), and one read of a pass by itself (spec/13 R378). -/
def State.chances (s : State) : List Turn :=
  s.cores.flatMap (fun e =>
    (e.2.l1.map (·.1) ++ e.2.partials.map (·.1)).map (fun l => Turn.event .l1Eviction { core := e.1, index := l })
      ++ (e.2.l1.filter (fun x => x.2.dirty != 0)).map (fun x => Turn.event .l1Eviction
        { core := e.1, index := x.1, flag := false, bytes := bytesOf 16 (Config.choice (s.fresh + 1)) }))
    ++ s.parts.flatMap (fun e => if e.2.exist then e.2.queues.flatMap (fun x => x.2.running.filterMap (fun k =>
      if k.type = 3 then some (.event .barrierPass { part := e.1, index := x.1, size := k.id, flag := false }) else none)) else [])

/-- Every event that may come. -/
def State.open' (s : State) : List Turn := s.advances ++ s.chances

/-- The cycles a turn may be put off: finitely many, how many is open; a pass 1 µs, so that the next whole pass after a write ends within
2 µs of it (spec/13 R378; log entry 3). -/
def patience (t : Turn) (choice : Nat) : Nat := match t with
  | .event .barrierPass _ => choice % 1600
  | _ => choice

/-- The turns that have been put off long enough. -/
def State.overdue (s : State) : List Turn :=
  (s.advances.filter (fun t => s.deadlines.any (fun d => d.1 == t && decide (d.2 ≤ s.cyc))))

/-- Each turn that may come has a deadline from the first cycle that ends while it may come (spec/10 R306). -/
def State.promise (s : State) : State :=
  let ts := s.advances
  { s with
    deadlines := ts.zipIdx.map (fun e => match s.deadlines.find? (fun d => d.1 == e.1) with
      | some d => d
      | none => (e.1, s.cyc + 1 + patience e.1 (Config.choice (s.fresh + e.2))))
    fresh := s.fresh + ts.length }

/-- A turn is taken: one that comes again has a new deadline. -/
def State.tookTurn (s : State) (t : Turn) : State :=
  { s.tookFree with deadlines := s.deadlines.filter (fun d => d.1 != t) }

/-- The turns that may come next (log entry 3): while a port has a word, an event is due or a turn has been put off long enough, the
cycle does not end. -/
def State.candidates (s : State) : List Turn :=
  if !s.awake then [.tick]
  else
    let must := s.due ++ s.overdue ++ s.portTurns
    must ++ s.open' ++ (if must.isEmpty then [.tick] else [])

/-- The turn taken: one of the candidates, which one is open; a cycle passes when there is none. -/
def State.freeTurn (s : State) : Turn :=
  s.candidates.getD (Config.choice s.fresh % s.candidates.length) .tick

end Sys2Proof.Machine
end

