-- ==== Sys2Proof/Machine/Step.lean ====
section
/-!
DEFINITION. One step of the device: one turn, whole (spec/95). The agenda's head is taken; with an empty agenda one of
the turns that may come next.
-/

namespace Sys2Proof.Machine

/-- A port issues one word: the word it picks, if any, is run between `beginWord` and `endWord`; a word with a short stall
count traps first (spec/03 R87). -/
def runPort (core port : Nat) (s : State) : Out :=
  if !s.rootOk then .fault .rootHole
  else match s.portPick core port with
    | none => .next s
    | some o => match o.short with
      | some p => .next (s.shortTrap o p)
      | none => match exec o.i (s.beginWord o) with
        | .next t => .next (t.endWord o)
        | .fault r => .fault r
        | .refused r => .refused r

/-- One turn. -/
def runTurn (t : Turn) (s : State) : Out :=
  match t with
  | .event i a => exec i { s with ev := a }
  | .port core port => runPort core port s
  | .tick => .next s.promise.tick

/-- One step. -/
def step (s : State) : Out :=
  match s.agenda with
  | t :: r => runTurn t { s with agenda := r }
  | [] => runTurn s.freeTurn (s.tookTurn s.freeTurn)

/-- The forme of `withFetchWord`: one slug, running on core 0 in slot 0, its path at the object's first word; in the handler
when the instruction is one of the handler's own. -/
def fetchForme (inHandler : Bool) : Forme :=
  let m : Slug :=
    { live := true
      alloc := 16
      owner := true
      a := { path := some { pc := 0, mask := 0xFFFFFFFF } }
      hnd := if inHandler then some { firmware := false } else none }
  { place := .running, slugs := Sparse.put [] 0 m }

/-- The state with the words of an instruction placed as the first code of object 0 of partition 0, a running slug whose
path stands there, and port 0 of core 0 next to issue (log entry 8). The launch declares the largest accumulator need, so that a
`TCFG` is an instruction (spec/06 R186). -/
def State.withFetchWord (s : State) (nbits w : Nat) : State :=
  let x := w % 2 ^ nbits
  let w0 : Word := BitVec.ofNat 64 x
  let w1 : Word := BitVec.ofNat 64 (x / 2 ^ 64)
  let own : Bool := match decode w0 w1 with
    | .ok i => !i.whereOk false
    | .error _ => false
  { s with
    power := .on
    root := 0
    agenda := [.port 0 0]
    cur := none
    formes := s.formes.put 0 (fetchForme own)
    launches := s.launches.upd 0 (fun l => { l with st := .active, part := 0, words := l.words.put 1 (BitVec.ofNat 64 (2 ^ 45)) })
    parts := s.parts.upd 0 (fun p => { p with
      exist := true
      objs := p.objs.put 0 { used := true, chunks := [0] }
      chunks := p.chunks.put 0 { words := [w0, w1], s := 1, gt := 1, isSealed := true } })
    cores := s.cores.upd 0 (fun c => { c with
      port0 := { age := [0] }
      port1 := {}
      fma0Free := 0
      fma1Free := 0
      sfuFree := 0
      xsumFree := 0
      slots := Sparse.put [] 0 (some (0, 0)) }) }

end Sys2Proof.Machine
end

