-- ==== Sys2Proof/Laws/Sparse.lean ====
section
/-!
SUPPORT. What reading a table gives after a change, and that every change keeps the canonical form.
-/

namespace Sys2Proof

section Reading

variable {α : Type} [Inhabited α]

@[simp] theorem Sparse.look_nil (i : Nat) : Sparse.look ([] : Sparse α) i = default := rfl

theorem Sparse.look_cons (k : Nat) (v : α) (r : Sparse α) (i : Nat) :
    Sparse.look ((k, v) :: r) i = if k = i then v else Sparse.look r i := rfl

theorem Sparse.look_drop_self (m : Sparse α) (i : Nat) : Sparse.look (Sparse.drop m i) i = default := by
  induction m with
  | nil => rfl
  | cons e r ih =>
    obtain ⟨k, v⟩ := e
    by_cases h : k = i
    · simpa [Sparse.drop, h] using ih
    · simpa [Sparse.drop, h, Sparse.look_cons] using ih

theorem Sparse.look_drop_ne (m : Sparse α) {i j : Nat} (h : j ≠ i) : Sparse.look (Sparse.drop m i) j = Sparse.look m j := by
  induction m with
  | nil => rfl
  | cons e r ih =>
    obtain ⟨k, v⟩ := e
    by_cases hk : k = i
    · have : k ≠ j := fun x => h (x.symm.trans hk)
      simpa [Sparse.drop, hk, Sparse.look_cons, h.symm] using ih
    · have hd : Sparse.drop ((k, v) :: r) i = (k, v) :: Sparse.drop r i := by simp [Sparse.drop, hk]
      rw [hd, Sparse.look_cons, Sparse.look_cons, ih]

theorem Sparse.look_insert_self (m : Sparse α) (i : Nat) (v : α) :
    Sparse.look (Sparse.insert (Sparse.drop m i) i v) i = v := by
  induction m with
  | nil => simp [Sparse.drop, Sparse.insert, Sparse.look_cons]
  | cons e r ih =>
    obtain ⟨k, w⟩ := e
    by_cases h : k = i
    · simpa [Sparse.drop, h] using ih
    · have hd : Sparse.drop ((k, w) :: r) i = (k, w) :: Sparse.drop r i := by simp [Sparse.drop, h]
      rw [hd, Sparse.insert]
      split
      · simp [Sparse.look_cons]
      · simpa [Sparse.look_cons, h] using ih

theorem Sparse.look_insert_ne (m : Sparse α) {i j : Nat} (v : α) (h : j ≠ i) :
    Sparse.look (Sparse.insert m i v) j = Sparse.look m j := by
  induction m with
  | nil => simp [Sparse.insert, Sparse.look_cons, h.symm]
  | cons e r ih =>
    obtain ⟨k, w⟩ := e
    rw [Sparse.insert]
    split
    · simp [Sparse.look_cons, h.symm]
    · simp [Sparse.look_cons, ih]

variable [DecidableEq α]

@[simp] theorem Sparse.look_put_self (m : Sparse α) (i : Nat) (v : α) : Sparse.look (Sparse.put m i v) i = v := by
  unfold Sparse.put
  split
  · rename_i h
    rw [Sparse.look_drop_self, h]
  · exact Sparse.look_insert_self m i v

theorem Sparse.look_put_ne (m : Sparse α) {i j : Nat} (v : α) (h : j ≠ i) :
    Sparse.look (Sparse.put m i v) j = Sparse.look m j := by
  unfold Sparse.put
  split
  · exact Sparse.look_drop_ne m h
  · rw [Sparse.look_insert_ne _ v h, Sparse.look_drop_ne m h]

theorem Sparse.look_put (m : Sparse α) (i j : Nat) (v : α) :
    Sparse.look (Sparse.put m i v) j = if j = i then v else Sparse.look m j := by
  split
  · rename_i h
    rw [h, Sparse.look_put_self]
  · rename_i h
    exact Sparse.look_put_ne m v h

@[simp] theorem Sparse.look_upd_self (m : Sparse α) (i : Nat) (f : α → α) :
    Sparse.look (Sparse.upd m i f) i = f (Sparse.look m i) := Sparse.look_put_self m i _

theorem Sparse.look_upd_ne (m : Sparse α) {i j : Nat} (f : α → α) (h : j ≠ i) :
    Sparse.look (Sparse.upd m i f) j = Sparse.look m j := Sparse.look_put_ne m _ h

theorem Sparse.look_upd (m : Sparse α) (i j : Nat) (f : α → α) :
    Sparse.look (Sparse.upd m i f) j = if j = i then f (Sparse.look m i) else Sparse.look m j := Sparse.look_put m i j _

end Reading

section Canonical

variable {α : Type} [Inhabited α] [DecidableEq α]

theorem Sparse.above_mono {a b : Nat} (h : a ≤ b) {m : Sparse α} (hm : Sparse.above b m = true) : Sparse.above a m = true := by
  cases m with
  | nil => rfl
  | cons e r =>
    obtain ⟨k, v⟩ := e
    simp only [Sparse.above, Bool.and_eq_true, decide_eq_true_eq] at hm ⊢
    exact ⟨⟨by omega, hm.1.2⟩, hm.2⟩

theorem Sparse.above_drop {b i : Nat} {m : Sparse α} (hm : Sparse.above b m = true) : Sparse.above b (Sparse.drop m i) = true := by
  induction m generalizing b with
  | nil => rfl
  | cons e r ih =>
    obtain ⟨k, v⟩ := e
    simp only [Sparse.above, Bool.and_eq_true, decide_eq_true_eq] at hm
    by_cases h : k = i
    · have := ih hm.2
      simpa [Sparse.drop, h] using Sparse.above_mono (by omega) this
    · have := ih hm.2
      have hd : Sparse.drop ((k, v) :: r) i = (k, v) :: Sparse.drop r i := by simp [Sparse.drop, h]
      rw [hd]
      simp only [Sparse.above, Bool.and_eq_true, decide_eq_true_eq]
      exact ⟨hm.1, this⟩

theorem Sparse.above_insert {b i : Nat} {v : α} {m : Sparse α} (hv : v ≠ default) (hb : b < i)
    (hm : Sparse.above b (Sparse.drop m i) = true) : Sparse.above b (Sparse.insert (Sparse.drop m i) i v) = true := by
  induction m generalizing b with
  | nil => simp [Sparse.drop, Sparse.insert, Sparse.above, hv, hb]
  | cons e r ih =>
    obtain ⟨k, w⟩ := e
    by_cases h : k = i
    · have hd : Sparse.drop ((k, w) :: r) i = Sparse.drop r i := by simp [Sparse.drop, h]
      rw [hd] at hm ⊢
      exact ih hb hm
    · have hd : Sparse.drop ((k, w) :: r) i = (k, w) :: Sparse.drop r i := by simp [Sparse.drop, h]
      rw [hd] at hm ⊢
      simp only [Sparse.above, Bool.and_eq_true, decide_eq_true_eq] at hm
      rw [Sparse.insert]
      split
      · simp only [Sparse.above, Bool.and_eq_true, decide_eq_true_eq]
        exact ⟨⟨hb, hv⟩, ⟨by assumption, hm.1.2⟩, hm.2⟩
      · simp only [Sparse.above, Bool.and_eq_true, decide_eq_true_eq]
        exact ⟨hm.1, ih (by omega) hm.2⟩

theorem Sparse.wf_of_above {b : Nat} {m : Sparse α} (h : Sparse.above b m = true) : Sparse.wf m = true := by
  cases m with
  | nil => rfl
  | cons e r =>
    obtain ⟨k, v⟩ := e
    simp only [Sparse.above, Sparse.wf, Bool.and_eq_true, decide_eq_true_eq] at h ⊢
    exact ⟨h.1.2, h.2⟩

/-- Putting a value keeps the canonical form. -/
theorem Sparse.wf_put {m : Sparse α} (h : Sparse.wf m = true) (i : Nat) (v : α) : Sparse.wf (Sparse.put m i v) = true := by
  have hdrop : ∀ n : Sparse α, Sparse.wf n = true → Sparse.wf (Sparse.drop n i) = true := by
    intro n hn
    cases n with
    | nil => rfl
    | cons e r =>
      obtain ⟨k, w⟩ := e
      simp only [Sparse.wf, Bool.and_eq_true, decide_eq_true_eq] at hn
      by_cases hk : k = i
      · have hd : Sparse.drop ((k, w) :: r) i = Sparse.drop r i := by simp [Sparse.drop, hk]
        rw [hd]
        exact Sparse.wf_of_above (Sparse.above_drop hn.2)
      · have hd : Sparse.drop ((k, w) :: r) i = (k, w) :: Sparse.drop r i := by simp [Sparse.drop, hk]
        rw [hd]
        simp only [Sparse.wf, Bool.and_eq_true, decide_eq_true_eq]
        exact ⟨hn.1, Sparse.above_drop hn.2⟩
  unfold Sparse.put
  split
  · exact hdrop m h
  · rename_i hv
    have h2 := hdrop m h
    revert h2
    induction m with
    | nil => intro _; simp [Sparse.drop, Sparse.insert, Sparse.wf, Sparse.above, hv]
    | cons e r ih =>
      obtain ⟨k, w⟩ := e
      intro h2
      by_cases hk : k = i
      · have hd : Sparse.drop ((k, w) :: r) i = Sparse.drop r i := by simp [Sparse.drop, hk]
        rw [hd] at h2 ⊢
        refine ih ?_ h2
        simp only [Sparse.wf, Bool.and_eq_true, decide_eq_true_eq] at h
        exact Sparse.wf_of_above h.2
      · have hd : Sparse.drop ((k, w) :: r) i = (k, w) :: Sparse.drop r i := by simp [Sparse.drop, hk]
        rw [hd] at h2 ⊢
        simp only [Sparse.wf, Bool.and_eq_true, decide_eq_true_eq] at h2
        rw [Sparse.insert]
        split
        · simp only [Sparse.wf, Sparse.above, Bool.and_eq_true, decide_eq_true_eq]
          exact ⟨hv, ⟨by assumption, h2.1⟩, h2.2⟩
        · simp only [Sparse.wf, Bool.and_eq_true, decide_eq_true_eq]
          exact ⟨h2.1, Sparse.above_insert hv (by omega) h2.2⟩

/-- Changing a value keeps the canonical form. -/
theorem Sparse.wf_upd {m : Sparse α} (h : Sparse.wf m = true) (i : Nat) (f : α → α) : Sparse.wf (Sparse.upd m i f) = true :=
  Sparse.wf_put h i _

end Canonical

section Mapping

variable {α : Type} [Inhabited α] [DecidableEq α]

/-- A function that keeps the default value acts on every reading. -/
theorem Sparse.look_mapVals {f : Nat → α → α} (hf : ∀ k, f k default = default) (m : Sparse α) (i : Nat) :
    Sparse.look (Sparse.mapVals f m) i = f i (Sparse.look m i) := by
  induction m with
  | nil => simp [Sparse.mapVals, hf]
  | cons e r ih =>
    obtain ⟨k, v⟩ := e
    rw [Sparse.mapVals, Sparse.look_cons]
    by_cases hk : k = i
    · subst hk
      split
      · rename_i hv
        simp [Sparse.look_drop_self, hv]
      · simp [Sparse.look_cons]
    · have hk' : i ≠ k := fun h => hk h.symm
      split
      · simp [Sparse.look_drop_ne _ hk', hk, ih]
      · simp [Sparse.look_cons, hk, ih]

theorem Sparse.above_mapVals {f : Nat → α → α} {b : Nat} {m : Sparse α} (h : Sparse.above b m = true) :
    Sparse.above b (Sparse.mapVals f m) = true := by
  induction m generalizing b with
  | nil => rfl
  | cons e r ih =>
    obtain ⟨k, v⟩ := e
    simp only [Sparse.above, Bool.and_eq_true, decide_eq_true_eq] at h
    rw [Sparse.mapVals]
    split
    · exact Sparse.above_drop (Sparse.above_mono (by omega) (ih h.2))
    · rename_i hv
      simp only [Sparse.above, Bool.and_eq_true, decide_eq_true_eq]
      exact ⟨⟨h.1.1, hv⟩, ih h.2⟩

/-- Mapping keeps the canonical form. -/
theorem Sparse.wf_mapVals {f : Nat → α → α} {m : Sparse α} (h : Sparse.wf m = true) :
    Sparse.wf (Sparse.mapVals f m) = true := by
  cases m with
  | nil => rfl
  | cons e r =>
    obtain ⟨k, v⟩ := e
    simp only [Sparse.wf, Bool.and_eq_true, decide_eq_true_eq] at h
    rw [Sparse.mapVals]
    split
    · exact Sparse.wf_of_above (Sparse.above_drop (Sparse.above_mapVals h.2))
    · rename_i hv
      simp only [Sparse.wf, Bool.and_eq_true, decide_eq_true_eq]
      exact ⟨hv, Sparse.above_mapVals h.2⟩

end Mapping

/-- Putting bytes keeps the canonical form. -/
theorem Sparse.wf_putBytes {m : Sparse Byte} (h : Sparse.wf m = true) (i : Nat) (bs : List Byte) :
    Sparse.wf (Sparse.putBytes m i bs) = true := by
  induction bs generalizing m i with
  | nil => exact h
  | cons b r ih => exact ih (Sparse.wf_put h i b) (i + 1)

/-- A byte outside the bytes put reads as before; one among them reads as put. -/
theorem Sparse.look_putBytes (m : Sparse Byte) (i : Nat) (bs : List Byte) (j : Nat) :
    Sparse.look (Sparse.putBytes m i bs) j = if i ≤ j ∧ j < i + bs.length then bs.getD (j - i) 0 else Sparse.look m j := by
  induction bs generalizing m i with
  | nil =>
    have : ¬ (i ≤ j ∧ j < i + ([] : List Byte).length) := by simp
    rw [if_neg this]
    rfl
  | cons b r ih =>
    rw [Sparse.putBytes, ih, Sparse.look_put]
    by_cases h1 : j = i
    · subst h1
      simp
    · by_cases h2 : i + 1 ≤ j ∧ j < i + 1 + r.length
      · have h3 : i ≤ j ∧ j < i + (b :: r).length := by simp; omega
        have h4 : j - i = (j - (i + 1)) + 1 := by omega
        rw [if_pos h2, if_pos h3, h4]
        simp
      · have h3 : ¬ (i ≤ j ∧ j < i + (b :: r).length) := by simp; omega
        rw [if_neg h2, if_neg h3, if_neg h1]

@[simp] theorem Sparse.length_bytes (m : Sparse Byte) (i n : Nat) : (Sparse.bytes m i n).length = n := by
  induction n generalizing i with
  | zero => rfl
  | succ k ih => simp [Sparse.bytes, ih]

theorem Sparse.getD_bytes (m : Sparse Byte) (i n k : Nat) (h : k < n) :
    (Sparse.bytes m i n).getD k 0 = Sparse.look m (i + k) := by
  induction n generalizing i k with
  | zero => omega
  | succ n ih =>
    cases k with
    | zero => simp [Sparse.bytes]
    | succ k =>
      have := ih (i + 1) k (by omega)
      simp only [Sparse.bytes, List.getD_cons_succ]
      rw [this]
      congr 1
      omega

end Sys2Proof
end

