-- ==== Sys2Proof/Laws/State.lean ====
section
/-!
SUPPORT. What each field of the state, of a forme and of a slug reads after an update of another: one lemma per field per update,
so that a proof never unfolds an update.
-/

namespace Sys2Proof.Machine

/-! ## `State.modForme` -/

@[simp] theorem State.modForme_power (s : State) (k : Nat) (f : Forme → Forme) : (s.modForme k f).power = s.power := rfl
@[simp] theorem State.modForme_cyc (s : State) (k : Nat) (f : Forme → Forme) : (s.modForme k f).cyc = s.cyc := rfl
@[simp] theorem State.modForme_ptpNow (s : State) (k : Nat) (f : Forme → Forme) : (s.modForme k f).ptpNow = s.ptpNow := rfl
@[simp] theorem State.modForme_ptp (s : State) (k : Nat) (f : Forme → Forme) : (s.modForme k f).ptp = s.ptp := rfl
@[simp] theorem State.modForme_root (s : State) (k : Nat) (f : Forme → Forme) : (s.modForme k f).root = s.root := rfl
@[simp] theorem State.modForme_roots (s : State) (k : Nat) (f : Forme → Forme) : (s.modForme k f).roots = s.roots := rfl
@[simp] theorem State.modForme_fwTables (s : State) (k : Nat) (f : Forme → Forme) : (s.modForme k f).fwTables = s.fwTables := rfl
@[simp] theorem State.modForme_dram (s : State) (k : Nat) (f : Forme → Forme) : (s.modForme k f).dram = s.dram := rfl
@[simp] theorem State.modForme_lineGen (s : State) (k : Nat) (f : Forme → Forme) : (s.modForme k f).lineGen = s.lineGen := rfl
@[simp] theorem State.modForme_poison (s : State) (k : Nat) (f : Forme → Forme) : (s.modForme k f).poison = s.poison := rfl
@[simp] theorem State.modForme_metaPoison (s : State) (k : Nat) (f : Forme → Forme) : (s.modForme k f).metaPoison = s.metaPoison := rfl
@[simp] theorem State.modForme_l2 (s : State) (k : Nat) (f : Forme → Forme) : (s.modForme k f).l2 = s.l2 := rfl
@[simp] theorem State.modForme_lineErrs (s : State) (k : Nat) (f : Forme → Forme) : (s.modForme k f).lineErrs = s.lineErrs := rfl
@[simp] theorem State.modForme_lostLines (s : State) (k : Nat) (f : Forme → Forme) : (s.modForme k f).lostLines = s.lostLines := rfl
@[simp] theorem State.modForme_lostChannels (s : State) (k : Nat) (f : Forme → Forme) : (s.modForme k f).lostChannels = s.lostChannels := rfl
@[simp] theorem State.modForme_coresLost (s : State) (k : Nat) (f : Forme → Forme) : (s.modForme k f).coresLost = s.coresLost := rfl
@[simp] theorem State.modForme_frames (s : State) (k : Nat) (f : Forme → Forme) : (s.modForme k f).frames = s.frames := rfl
@[simp] theorem State.modForme_side (s : State) (k : Nat) (f : Forme → Forme) : (s.modForme k f).side = s.side := rfl
@[simp] theorem State.modForme_keys (s : State) (k : Nat) (f : Forme → Forme) : (s.modForme k f).keys = s.keys := rfl
@[simp] theorem State.modForme_totalCut (s : State) (k : Nat) (f : Forme → Forme) : (s.modForme k f).totalCut = s.totalCut := rfl
@[simp] theorem State.modForme_repl (s : State) (k : Nat) (f : Forme → Forme) : (s.modForme k f).repl = s.repl := rfl
@[simp] theorem State.modForme_worlds (s : State) (k : Nat) (f : Forme → Forme) : (s.modForme k f).worlds = s.worlds := rfl
@[simp] theorem State.modForme_sliceBase (s : State) (k : Nat) (f : Forme → Forme) : (s.modForme k f).sliceBase = s.sliceBase := rfl
@[simp] theorem State.modForme_pool (s : State) (k : Nat) (f : Forme → Forme) : (s.modForme k f).pool = s.pool := rfl
@[simp] theorem State.modForme_launches (s : State) (k : Nat) (f : Forme → Forme) : (s.modForme k f).launches = s.launches := rfl
@[simp] theorem State.modForme_accepted (s : State) (k : Nat) (f : Forme → Forme) : (s.modForme k f).accepted = s.accepted := rfl
@[simp] theorem State.modForme_clusters (s : State) (k : Nat) (f : Forme → Forme) : (s.modForme k f).clusters = s.clusters := rfl
@[simp] theorem State.modForme_cores (s : State) (k : Nat) (f : Forme → Forme) : (s.modForme k f).cores = s.cores := rfl
@[simp] theorem State.modForme_parts (s : State) (k : Nat) (f : Forme → Forme) : (s.modForme k f).parts = s.parts := rfl
@[simp] theorem State.modForme_ports (s : State) (k : Nat) (f : Forme → Forme) : (s.modForme k f).ports = s.ports := rfl
@[simp] theorem State.modForme_telemetry (s : State) (k : Nat) (f : Forme → Forme) : (s.modForme k f).telemetry = s.telemetry := rfl
@[simp] theorem State.modForme_irqs (s : State) (k : Nat) (f : Forme → Forme) : (s.modForme k f).irqs = s.irqs := rfl
@[simp] theorem State.modForme_boot (s : State) (k : Nat) (f : Forme → Forme) : (s.modForme k f).boot = s.boot := rfl
@[simp] theorem State.modForme_held (s : State) (k : Nat) (f : Forme → Forme) : (s.modForme k f).held = s.held := rfl
@[simp] theorem State.modForme_pfRing (s : State) (k : Nat) (f : Forme → Forme) : (s.modForme k f).pfRing = s.pfRing := rfl
@[simp] theorem State.modForme_agenda (s : State) (k : Nat) (f : Forme → Forme) : (s.modForme k f).agenda = s.agenda := rfl
@[simp] theorem State.modForme_deadlines (s : State) (k : Nat) (f : Forme → Forme) : (s.modForme k f).deadlines = s.deadlines := rfl
@[simp] theorem State.modForme_cur (s : State) (k : Nat) (f : Forme → Forme) : (s.modForme k f).cur = s.cur := rfl
@[simp] theorem State.modForme_ev (s : State) (k : Nat) (f : Forme → Forme) : (s.modForme k f).ev = s.ev := rfl
@[simp] theorem State.modForme_fresh (s : State) (k : Nat) (f : Forme → Forme) : (s.modForme k f).fresh = s.fresh := rfl

/-! ## `State.modSlug` -/

@[simp] theorem State.modSlug_power (s : State) (k j : Nat) (f : Slug → Slug) : (s.modSlug k j f).power = s.power := rfl
@[simp] theorem State.modSlug_cyc (s : State) (k j : Nat) (f : Slug → Slug) : (s.modSlug k j f).cyc = s.cyc := rfl
@[simp] theorem State.modSlug_ptpNow (s : State) (k j : Nat) (f : Slug → Slug) : (s.modSlug k j f).ptpNow = s.ptpNow := rfl
@[simp] theorem State.modSlug_ptp (s : State) (k j : Nat) (f : Slug → Slug) : (s.modSlug k j f).ptp = s.ptp := rfl
@[simp] theorem State.modSlug_root (s : State) (k j : Nat) (f : Slug → Slug) : (s.modSlug k j f).root = s.root := rfl
@[simp] theorem State.modSlug_roots (s : State) (k j : Nat) (f : Slug → Slug) : (s.modSlug k j f).roots = s.roots := rfl
@[simp] theorem State.modSlug_fwTables (s : State) (k j : Nat) (f : Slug → Slug) : (s.modSlug k j f).fwTables = s.fwTables := rfl
@[simp] theorem State.modSlug_dram (s : State) (k j : Nat) (f : Slug → Slug) : (s.modSlug k j f).dram = s.dram := rfl
@[simp] theorem State.modSlug_lineGen (s : State) (k j : Nat) (f : Slug → Slug) : (s.modSlug k j f).lineGen = s.lineGen := rfl
@[simp] theorem State.modSlug_poison (s : State) (k j : Nat) (f : Slug → Slug) : (s.modSlug k j f).poison = s.poison := rfl
@[simp] theorem State.modSlug_metaPoison (s : State) (k j : Nat) (f : Slug → Slug) : (s.modSlug k j f).metaPoison = s.metaPoison := rfl
@[simp] theorem State.modSlug_l2 (s : State) (k j : Nat) (f : Slug → Slug) : (s.modSlug k j f).l2 = s.l2 := rfl
@[simp] theorem State.modSlug_lineErrs (s : State) (k j : Nat) (f : Slug → Slug) : (s.modSlug k j f).lineErrs = s.lineErrs := rfl
@[simp] theorem State.modSlug_lostLines (s : State) (k j : Nat) (f : Slug → Slug) : (s.modSlug k j f).lostLines = s.lostLines := rfl
@[simp] theorem State.modSlug_lostChannels (s : State) (k j : Nat) (f : Slug → Slug) : (s.modSlug k j f).lostChannels = s.lostChannels := rfl
@[simp] theorem State.modSlug_coresLost (s : State) (k j : Nat) (f : Slug → Slug) : (s.modSlug k j f).coresLost = s.coresLost := rfl
@[simp] theorem State.modSlug_frames (s : State) (k j : Nat) (f : Slug → Slug) : (s.modSlug k j f).frames = s.frames := rfl
@[simp] theorem State.modSlug_side (s : State) (k j : Nat) (f : Slug → Slug) : (s.modSlug k j f).side = s.side := rfl
@[simp] theorem State.modSlug_keys (s : State) (k j : Nat) (f : Slug → Slug) : (s.modSlug k j f).keys = s.keys := rfl
@[simp] theorem State.modSlug_totalCut (s : State) (k j : Nat) (f : Slug → Slug) : (s.modSlug k j f).totalCut = s.totalCut := rfl
@[simp] theorem State.modSlug_repl (s : State) (k j : Nat) (f : Slug → Slug) : (s.modSlug k j f).repl = s.repl := rfl
@[simp] theorem State.modSlug_worlds (s : State) (k j : Nat) (f : Slug → Slug) : (s.modSlug k j f).worlds = s.worlds := rfl
@[simp] theorem State.modSlug_sliceBase (s : State) (k j : Nat) (f : Slug → Slug) : (s.modSlug k j f).sliceBase = s.sliceBase := rfl
@[simp] theorem State.modSlug_pool (s : State) (k j : Nat) (f : Slug → Slug) : (s.modSlug k j f).pool = s.pool := rfl
@[simp] theorem State.modSlug_launches (s : State) (k j : Nat) (f : Slug → Slug) : (s.modSlug k j f).launches = s.launches := rfl
@[simp] theorem State.modSlug_accepted (s : State) (k j : Nat) (f : Slug → Slug) : (s.modSlug k j f).accepted = s.accepted := rfl
@[simp] theorem State.modSlug_clusters (s : State) (k j : Nat) (f : Slug → Slug) : (s.modSlug k j f).clusters = s.clusters := rfl
@[simp] theorem State.modSlug_cores (s : State) (k j : Nat) (f : Slug → Slug) : (s.modSlug k j f).cores = s.cores := rfl
@[simp] theorem State.modSlug_parts (s : State) (k j : Nat) (f : Slug → Slug) : (s.modSlug k j f).parts = s.parts := rfl
@[simp] theorem State.modSlug_ports (s : State) (k j : Nat) (f : Slug → Slug) : (s.modSlug k j f).ports = s.ports := rfl
@[simp] theorem State.modSlug_telemetry (s : State) (k j : Nat) (f : Slug → Slug) : (s.modSlug k j f).telemetry = s.telemetry := rfl
@[simp] theorem State.modSlug_irqs (s : State) (k j : Nat) (f : Slug → Slug) : (s.modSlug k j f).irqs = s.irqs := rfl
@[simp] theorem State.modSlug_boot (s : State) (k j : Nat) (f : Slug → Slug) : (s.modSlug k j f).boot = s.boot := rfl
@[simp] theorem State.modSlug_held (s : State) (k j : Nat) (f : Slug → Slug) : (s.modSlug k j f).held = s.held := rfl
@[simp] theorem State.modSlug_pfRing (s : State) (k j : Nat) (f : Slug → Slug) : (s.modSlug k j f).pfRing = s.pfRing := rfl
@[simp] theorem State.modSlug_agenda (s : State) (k j : Nat) (f : Slug → Slug) : (s.modSlug k j f).agenda = s.agenda := rfl
@[simp] theorem State.modSlug_deadlines (s : State) (k j : Nat) (f : Slug → Slug) : (s.modSlug k j f).deadlines = s.deadlines := rfl
@[simp] theorem State.modSlug_cur (s : State) (k j : Nat) (f : Slug → Slug) : (s.modSlug k j f).cur = s.cur := rfl
@[simp] theorem State.modSlug_ev (s : State) (k j : Nat) (f : Slug → Slug) : (s.modSlug k j f).ev = s.ev := rfl
@[simp] theorem State.modSlug_fresh (s : State) (k j : Nat) (f : Slug → Slug) : (s.modSlug k j f).fresh = s.fresh := rfl

/-! ## `State.modCore` -/

@[simp] theorem State.modCore_power (s : State) (k : Nat) (f : Core → Core) : (s.modCore k f).power = s.power := rfl
@[simp] theorem State.modCore_cyc (s : State) (k : Nat) (f : Core → Core) : (s.modCore k f).cyc = s.cyc := rfl
@[simp] theorem State.modCore_ptpNow (s : State) (k : Nat) (f : Core → Core) : (s.modCore k f).ptpNow = s.ptpNow := rfl
@[simp] theorem State.modCore_ptp (s : State) (k : Nat) (f : Core → Core) : (s.modCore k f).ptp = s.ptp := rfl
@[simp] theorem State.modCore_root (s : State) (k : Nat) (f : Core → Core) : (s.modCore k f).root = s.root := rfl
@[simp] theorem State.modCore_roots (s : State) (k : Nat) (f : Core → Core) : (s.modCore k f).roots = s.roots := rfl
@[simp] theorem State.modCore_fwTables (s : State) (k : Nat) (f : Core → Core) : (s.modCore k f).fwTables = s.fwTables := rfl
@[simp] theorem State.modCore_dram (s : State) (k : Nat) (f : Core → Core) : (s.modCore k f).dram = s.dram := rfl
@[simp] theorem State.modCore_lineGen (s : State) (k : Nat) (f : Core → Core) : (s.modCore k f).lineGen = s.lineGen := rfl
@[simp] theorem State.modCore_poison (s : State) (k : Nat) (f : Core → Core) : (s.modCore k f).poison = s.poison := rfl
@[simp] theorem State.modCore_metaPoison (s : State) (k : Nat) (f : Core → Core) : (s.modCore k f).metaPoison = s.metaPoison := rfl
@[simp] theorem State.modCore_l2 (s : State) (k : Nat) (f : Core → Core) : (s.modCore k f).l2 = s.l2 := rfl
@[simp] theorem State.modCore_lineErrs (s : State) (k : Nat) (f : Core → Core) : (s.modCore k f).lineErrs = s.lineErrs := rfl
@[simp] theorem State.modCore_lostLines (s : State) (k : Nat) (f : Core → Core) : (s.modCore k f).lostLines = s.lostLines := rfl
@[simp] theorem State.modCore_lostChannels (s : State) (k : Nat) (f : Core → Core) : (s.modCore k f).lostChannels = s.lostChannels := rfl
@[simp] theorem State.modCore_coresLost (s : State) (k : Nat) (f : Core → Core) : (s.modCore k f).coresLost = s.coresLost := rfl
@[simp] theorem State.modCore_frames (s : State) (k : Nat) (f : Core → Core) : (s.modCore k f).frames = s.frames := rfl
@[simp] theorem State.modCore_side (s : State) (k : Nat) (f : Core → Core) : (s.modCore k f).side = s.side := rfl
@[simp] theorem State.modCore_keys (s : State) (k : Nat) (f : Core → Core) : (s.modCore k f).keys = s.keys := rfl
@[simp] theorem State.modCore_totalCut (s : State) (k : Nat) (f : Core → Core) : (s.modCore k f).totalCut = s.totalCut := rfl
@[simp] theorem State.modCore_repl (s : State) (k : Nat) (f : Core → Core) : (s.modCore k f).repl = s.repl := rfl
@[simp] theorem State.modCore_worlds (s : State) (k : Nat) (f : Core → Core) : (s.modCore k f).worlds = s.worlds := rfl
@[simp] theorem State.modCore_sliceBase (s : State) (k : Nat) (f : Core → Core) : (s.modCore k f).sliceBase = s.sliceBase := rfl
@[simp] theorem State.modCore_pool (s : State) (k : Nat) (f : Core → Core) : (s.modCore k f).pool = s.pool := rfl
@[simp] theorem State.modCore_launches (s : State) (k : Nat) (f : Core → Core) : (s.modCore k f).launches = s.launches := rfl
@[simp] theorem State.modCore_accepted (s : State) (k : Nat) (f : Core → Core) : (s.modCore k f).accepted = s.accepted := rfl
@[simp] theorem State.modCore_clusters (s : State) (k : Nat) (f : Core → Core) : (s.modCore k f).clusters = s.clusters := rfl
@[simp] theorem State.modCore_parts (s : State) (k : Nat) (f : Core → Core) : (s.modCore k f).parts = s.parts := rfl
@[simp] theorem State.modCore_formes (s : State) (k : Nat) (f : Core → Core) : (s.modCore k f).formes = s.formes := rfl
@[simp] theorem State.modCore_ports (s : State) (k : Nat) (f : Core → Core) : (s.modCore k f).ports = s.ports := rfl
@[simp] theorem State.modCore_telemetry (s : State) (k : Nat) (f : Core → Core) : (s.modCore k f).telemetry = s.telemetry := rfl
@[simp] theorem State.modCore_irqs (s : State) (k : Nat) (f : Core → Core) : (s.modCore k f).irqs = s.irqs := rfl
@[simp] theorem State.modCore_boot (s : State) (k : Nat) (f : Core → Core) : (s.modCore k f).boot = s.boot := rfl
@[simp] theorem State.modCore_held (s : State) (k : Nat) (f : Core → Core) : (s.modCore k f).held = s.held := rfl
@[simp] theorem State.modCore_pfRing (s : State) (k : Nat) (f : Core → Core) : (s.modCore k f).pfRing = s.pfRing := rfl
@[simp] theorem State.modCore_agenda (s : State) (k : Nat) (f : Core → Core) : (s.modCore k f).agenda = s.agenda := rfl
@[simp] theorem State.modCore_deadlines (s : State) (k : Nat) (f : Core → Core) : (s.modCore k f).deadlines = s.deadlines := rfl
@[simp] theorem State.modCore_cur (s : State) (k : Nat) (f : Core → Core) : (s.modCore k f).cur = s.cur := rfl
@[simp] theorem State.modCore_ev (s : State) (k : Nat) (f : Core → Core) : (s.modCore k f).ev = s.ev := rfl
@[simp] theorem State.modCore_fresh (s : State) (k : Nat) (f : Core → Core) : (s.modCore k f).fresh = s.fresh := rfl

/-! ## `State.modCluster` -/

@[simp] theorem State.modCluster_power (s : State) (k : Nat) (f : Cluster → Cluster) : (s.modCluster k f).power = s.power := rfl
@[simp] theorem State.modCluster_cyc (s : State) (k : Nat) (f : Cluster → Cluster) : (s.modCluster k f).cyc = s.cyc := rfl
@[simp] theorem State.modCluster_ptpNow (s : State) (k : Nat) (f : Cluster → Cluster) : (s.modCluster k f).ptpNow = s.ptpNow := rfl
@[simp] theorem State.modCluster_ptp (s : State) (k : Nat) (f : Cluster → Cluster) : (s.modCluster k f).ptp = s.ptp := rfl
@[simp] theorem State.modCluster_root (s : State) (k : Nat) (f : Cluster → Cluster) : (s.modCluster k f).root = s.root := rfl
@[simp] theorem State.modCluster_roots (s : State) (k : Nat) (f : Cluster → Cluster) : (s.modCluster k f).roots = s.roots := rfl
@[simp] theorem State.modCluster_fwTables (s : State) (k : Nat) (f : Cluster → Cluster) : (s.modCluster k f).fwTables = s.fwTables := rfl
@[simp] theorem State.modCluster_dram (s : State) (k : Nat) (f : Cluster → Cluster) : (s.modCluster k f).dram = s.dram := rfl
@[simp] theorem State.modCluster_lineGen (s : State) (k : Nat) (f : Cluster → Cluster) : (s.modCluster k f).lineGen = s.lineGen := rfl
@[simp] theorem State.modCluster_poison (s : State) (k : Nat) (f : Cluster → Cluster) : (s.modCluster k f).poison = s.poison := rfl
@[simp] theorem State.modCluster_metaPoison (s : State) (k : Nat) (f : Cluster → Cluster) : (s.modCluster k f).metaPoison = s.metaPoison := rfl
@[simp] theorem State.modCluster_l2 (s : State) (k : Nat) (f : Cluster → Cluster) : (s.modCluster k f).l2 = s.l2 := rfl
@[simp] theorem State.modCluster_lineErrs (s : State) (k : Nat) (f : Cluster → Cluster) : (s.modCluster k f).lineErrs = s.lineErrs := rfl
@[simp] theorem State.modCluster_lostLines (s : State) (k : Nat) (f : Cluster → Cluster) : (s.modCluster k f).lostLines = s.lostLines := rfl
@[simp] theorem State.modCluster_lostChannels (s : State) (k : Nat) (f : Cluster → Cluster) : (s.modCluster k f).lostChannels = s.lostChannels := rfl
@[simp] theorem State.modCluster_coresLost (s : State) (k : Nat) (f : Cluster → Cluster) : (s.modCluster k f).coresLost = s.coresLost := rfl
@[simp] theorem State.modCluster_frames (s : State) (k : Nat) (f : Cluster → Cluster) : (s.modCluster k f).frames = s.frames := rfl
@[simp] theorem State.modCluster_side (s : State) (k : Nat) (f : Cluster → Cluster) : (s.modCluster k f).side = s.side := rfl
@[simp] theorem State.modCluster_keys (s : State) (k : Nat) (f : Cluster → Cluster) : (s.modCluster k f).keys = s.keys := rfl
@[simp] theorem State.modCluster_totalCut (s : State) (k : Nat) (f : Cluster → Cluster) : (s.modCluster k f).totalCut = s.totalCut := rfl
@[simp] theorem State.modCluster_repl (s : State) (k : Nat) (f : Cluster → Cluster) : (s.modCluster k f).repl = s.repl := rfl
@[simp] theorem State.modCluster_worlds (s : State) (k : Nat) (f : Cluster → Cluster) : (s.modCluster k f).worlds = s.worlds := rfl
@[simp] theorem State.modCluster_sliceBase (s : State) (k : Nat) (f : Cluster → Cluster) : (s.modCluster k f).sliceBase = s.sliceBase := rfl
@[simp] theorem State.modCluster_pool (s : State) (k : Nat) (f : Cluster → Cluster) : (s.modCluster k f).pool = s.pool := rfl
@[simp] theorem State.modCluster_launches (s : State) (k : Nat) (f : Cluster → Cluster) : (s.modCluster k f).launches = s.launches := rfl
@[simp] theorem State.modCluster_accepted (s : State) (k : Nat) (f : Cluster → Cluster) : (s.modCluster k f).accepted = s.accepted := rfl
@[simp] theorem State.modCluster_cores (s : State) (k : Nat) (f : Cluster → Cluster) : (s.modCluster k f).cores = s.cores := rfl
@[simp] theorem State.modCluster_parts (s : State) (k : Nat) (f : Cluster → Cluster) : (s.modCluster k f).parts = s.parts := rfl
@[simp] theorem State.modCluster_formes (s : State) (k : Nat) (f : Cluster → Cluster) : (s.modCluster k f).formes = s.formes := rfl
@[simp] theorem State.modCluster_ports (s : State) (k : Nat) (f : Cluster → Cluster) : (s.modCluster k f).ports = s.ports := rfl
@[simp] theorem State.modCluster_telemetry (s : State) (k : Nat) (f : Cluster → Cluster) : (s.modCluster k f).telemetry = s.telemetry := rfl
@[simp] theorem State.modCluster_irqs (s : State) (k : Nat) (f : Cluster → Cluster) : (s.modCluster k f).irqs = s.irqs := rfl
@[simp] theorem State.modCluster_boot (s : State) (k : Nat) (f : Cluster → Cluster) : (s.modCluster k f).boot = s.boot := rfl
@[simp] theorem State.modCluster_held (s : State) (k : Nat) (f : Cluster → Cluster) : (s.modCluster k f).held = s.held := rfl
@[simp] theorem State.modCluster_pfRing (s : State) (k : Nat) (f : Cluster → Cluster) : (s.modCluster k f).pfRing = s.pfRing := rfl
@[simp] theorem State.modCluster_agenda (s : State) (k : Nat) (f : Cluster → Cluster) : (s.modCluster k f).agenda = s.agenda := rfl
@[simp] theorem State.modCluster_deadlines (s : State) (k : Nat) (f : Cluster → Cluster) : (s.modCluster k f).deadlines = s.deadlines := rfl
@[simp] theorem State.modCluster_cur (s : State) (k : Nat) (f : Cluster → Cluster) : (s.modCluster k f).cur = s.cur := rfl
@[simp] theorem State.modCluster_ev (s : State) (k : Nat) (f : Cluster → Cluster) : (s.modCluster k f).ev = s.ev := rfl
@[simp] theorem State.modCluster_fresh (s : State) (k : Nat) (f : Cluster → Cluster) : (s.modCluster k f).fresh = s.fresh := rfl

/-! ## `State.modPart` -/

@[simp] theorem State.modPart_power (s : State) (k : Nat) (f : Partition → Partition) : (s.modPart k f).power = s.power := rfl
@[simp] theorem State.modPart_cyc (s : State) (k : Nat) (f : Partition → Partition) : (s.modPart k f).cyc = s.cyc := rfl
@[simp] theorem State.modPart_ptpNow (s : State) (k : Nat) (f : Partition → Partition) : (s.modPart k f).ptpNow = s.ptpNow := rfl
@[simp] theorem State.modPart_ptp (s : State) (k : Nat) (f : Partition → Partition) : (s.modPart k f).ptp = s.ptp := rfl
@[simp] theorem State.modPart_root (s : State) (k : Nat) (f : Partition → Partition) : (s.modPart k f).root = s.root := rfl
@[simp] theorem State.modPart_roots (s : State) (k : Nat) (f : Partition → Partition) : (s.modPart k f).roots = s.roots := rfl
@[simp] theorem State.modPart_fwTables (s : State) (k : Nat) (f : Partition → Partition) : (s.modPart k f).fwTables = s.fwTables := rfl
@[simp] theorem State.modPart_dram (s : State) (k : Nat) (f : Partition → Partition) : (s.modPart k f).dram = s.dram := rfl
@[simp] theorem State.modPart_lineGen (s : State) (k : Nat) (f : Partition → Partition) : (s.modPart k f).lineGen = s.lineGen := rfl
@[simp] theorem State.modPart_poison (s : State) (k : Nat) (f : Partition → Partition) : (s.modPart k f).poison = s.poison := rfl
@[simp] theorem State.modPart_metaPoison (s : State) (k : Nat) (f : Partition → Partition) : (s.modPart k f).metaPoison = s.metaPoison := rfl
@[simp] theorem State.modPart_l2 (s : State) (k : Nat) (f : Partition → Partition) : (s.modPart k f).l2 = s.l2 := rfl
@[simp] theorem State.modPart_lineErrs (s : State) (k : Nat) (f : Partition → Partition) : (s.modPart k f).lineErrs = s.lineErrs := rfl
@[simp] theorem State.modPart_lostLines (s : State) (k : Nat) (f : Partition → Partition) : (s.modPart k f).lostLines = s.lostLines := rfl
@[simp] theorem State.modPart_lostChannels (s : State) (k : Nat) (f : Partition → Partition) : (s.modPart k f).lostChannels = s.lostChannels := rfl
@[simp] theorem State.modPart_coresLost (s : State) (k : Nat) (f : Partition → Partition) : (s.modPart k f).coresLost = s.coresLost := rfl
@[simp] theorem State.modPart_frames (s : State) (k : Nat) (f : Partition → Partition) : (s.modPart k f).frames = s.frames := rfl
@[simp] theorem State.modPart_side (s : State) (k : Nat) (f : Partition → Partition) : (s.modPart k f).side = s.side := rfl
@[simp] theorem State.modPart_keys (s : State) (k : Nat) (f : Partition → Partition) : (s.modPart k f).keys = s.keys := rfl
@[simp] theorem State.modPart_totalCut (s : State) (k : Nat) (f : Partition → Partition) : (s.modPart k f).totalCut = s.totalCut := rfl
@[simp] theorem State.modPart_repl (s : State) (k : Nat) (f : Partition → Partition) : (s.modPart k f).repl = s.repl := rfl
@[simp] theorem State.modPart_worlds (s : State) (k : Nat) (f : Partition → Partition) : (s.modPart k f).worlds = s.worlds := rfl
@[simp] theorem State.modPart_sliceBase (s : State) (k : Nat) (f : Partition → Partition) : (s.modPart k f).sliceBase = s.sliceBase := rfl
@[simp] theorem State.modPart_pool (s : State) (k : Nat) (f : Partition → Partition) : (s.modPart k f).pool = s.pool := rfl
@[simp] theorem State.modPart_launches (s : State) (k : Nat) (f : Partition → Partition) : (s.modPart k f).launches = s.launches := rfl
@[simp] theorem State.modPart_accepted (s : State) (k : Nat) (f : Partition → Partition) : (s.modPart k f).accepted = s.accepted := rfl
@[simp] theorem State.modPart_clusters (s : State) (k : Nat) (f : Partition → Partition) : (s.modPart k f).clusters = s.clusters := rfl
@[simp] theorem State.modPart_cores (s : State) (k : Nat) (f : Partition → Partition) : (s.modPart k f).cores = s.cores := rfl
@[simp] theorem State.modPart_formes (s : State) (k : Nat) (f : Partition → Partition) : (s.modPart k f).formes = s.formes := rfl
@[simp] theorem State.modPart_ports (s : State) (k : Nat) (f : Partition → Partition) : (s.modPart k f).ports = s.ports := rfl
@[simp] theorem State.modPart_telemetry (s : State) (k : Nat) (f : Partition → Partition) : (s.modPart k f).telemetry = s.telemetry := rfl
@[simp] theorem State.modPart_irqs (s : State) (k : Nat) (f : Partition → Partition) : (s.modPart k f).irqs = s.irqs := rfl
@[simp] theorem State.modPart_boot (s : State) (k : Nat) (f : Partition → Partition) : (s.modPart k f).boot = s.boot := rfl
@[simp] theorem State.modPart_held (s : State) (k : Nat) (f : Partition → Partition) : (s.modPart k f).held = s.held := rfl
@[simp] theorem State.modPart_pfRing (s : State) (k : Nat) (f : Partition → Partition) : (s.modPart k f).pfRing = s.pfRing := rfl
@[simp] theorem State.modPart_agenda (s : State) (k : Nat) (f : Partition → Partition) : (s.modPart k f).agenda = s.agenda := rfl
@[simp] theorem State.modPart_deadlines (s : State) (k : Nat) (f : Partition → Partition) : (s.modPart k f).deadlines = s.deadlines := rfl
@[simp] theorem State.modPart_cur (s : State) (k : Nat) (f : Partition → Partition) : (s.modPart k f).cur = s.cur := rfl
@[simp] theorem State.modPart_ev (s : State) (k : Nat) (f : Partition → Partition) : (s.modPart k f).ev = s.ev := rfl
@[simp] theorem State.modPart_fresh (s : State) (k : Nat) (f : Partition → Partition) : (s.modPart k f).fresh = s.fresh := rfl

/-! ## `State.modQueue` -/

@[simp] theorem State.modQueue_power (s : State) (k q : Nat) (f : HostQueue → HostQueue) : (s.modQueue k q f).power = s.power := rfl
@[simp] theorem State.modQueue_cyc (s : State) (k q : Nat) (f : HostQueue → HostQueue) : (s.modQueue k q f).cyc = s.cyc := rfl
@[simp] theorem State.modQueue_ptpNow (s : State) (k q : Nat) (f : HostQueue → HostQueue) : (s.modQueue k q f).ptpNow = s.ptpNow := rfl
@[simp] theorem State.modQueue_ptp (s : State) (k q : Nat) (f : HostQueue → HostQueue) : (s.modQueue k q f).ptp = s.ptp := rfl
@[simp] theorem State.modQueue_root (s : State) (k q : Nat) (f : HostQueue → HostQueue) : (s.modQueue k q f).root = s.root := rfl
@[simp] theorem State.modQueue_roots (s : State) (k q : Nat) (f : HostQueue → HostQueue) : (s.modQueue k q f).roots = s.roots := rfl
@[simp] theorem State.modQueue_fwTables (s : State) (k q : Nat) (f : HostQueue → HostQueue) : (s.modQueue k q f).fwTables = s.fwTables := rfl
@[simp] theorem State.modQueue_dram (s : State) (k q : Nat) (f : HostQueue → HostQueue) : (s.modQueue k q f).dram = s.dram := rfl
@[simp] theorem State.modQueue_lineGen (s : State) (k q : Nat) (f : HostQueue → HostQueue) : (s.modQueue k q f).lineGen = s.lineGen := rfl
@[simp] theorem State.modQueue_poison (s : State) (k q : Nat) (f : HostQueue → HostQueue) : (s.modQueue k q f).poison = s.poison := rfl
@[simp] theorem State.modQueue_metaPoison (s : State) (k q : Nat) (f : HostQueue → HostQueue) : (s.modQueue k q f).metaPoison = s.metaPoison := rfl
@[simp] theorem State.modQueue_l2 (s : State) (k q : Nat) (f : HostQueue → HostQueue) : (s.modQueue k q f).l2 = s.l2 := rfl
@[simp] theorem State.modQueue_lineErrs (s : State) (k q : Nat) (f : HostQueue → HostQueue) : (s.modQueue k q f).lineErrs = s.lineErrs := rfl
@[simp] theorem State.modQueue_lostLines (s : State) (k q : Nat) (f : HostQueue → HostQueue) : (s.modQueue k q f).lostLines = s.lostLines := rfl
@[simp] theorem State.modQueue_lostChannels (s : State) (k q : Nat) (f : HostQueue → HostQueue) : (s.modQueue k q f).lostChannels = s.lostChannels := rfl
@[simp] theorem State.modQueue_coresLost (s : State) (k q : Nat) (f : HostQueue → HostQueue) : (s.modQueue k q f).coresLost = s.coresLost := rfl
@[simp] theorem State.modQueue_frames (s : State) (k q : Nat) (f : HostQueue → HostQueue) : (s.modQueue k q f).frames = s.frames := rfl
@[simp] theorem State.modQueue_side (s : State) (k q : Nat) (f : HostQueue → HostQueue) : (s.modQueue k q f).side = s.side := rfl
@[simp] theorem State.modQueue_keys (s : State) (k q : Nat) (f : HostQueue → HostQueue) : (s.modQueue k q f).keys = s.keys := rfl
@[simp] theorem State.modQueue_totalCut (s : State) (k q : Nat) (f : HostQueue → HostQueue) : (s.modQueue k q f).totalCut = s.totalCut := rfl
@[simp] theorem State.modQueue_repl (s : State) (k q : Nat) (f : HostQueue → HostQueue) : (s.modQueue k q f).repl = s.repl := rfl
@[simp] theorem State.modQueue_worlds (s : State) (k q : Nat) (f : HostQueue → HostQueue) : (s.modQueue k q f).worlds = s.worlds := rfl
@[simp] theorem State.modQueue_sliceBase (s : State) (k q : Nat) (f : HostQueue → HostQueue) : (s.modQueue k q f).sliceBase = s.sliceBase := rfl
@[simp] theorem State.modQueue_pool (s : State) (k q : Nat) (f : HostQueue → HostQueue) : (s.modQueue k q f).pool = s.pool := rfl
@[simp] theorem State.modQueue_launches (s : State) (k q : Nat) (f : HostQueue → HostQueue) : (s.modQueue k q f).launches = s.launches := rfl
@[simp] theorem State.modQueue_accepted (s : State) (k q : Nat) (f : HostQueue → HostQueue) : (s.modQueue k q f).accepted = s.accepted := rfl
@[simp] theorem State.modQueue_clusters (s : State) (k q : Nat) (f : HostQueue → HostQueue) : (s.modQueue k q f).clusters = s.clusters := rfl
@[simp] theorem State.modQueue_cores (s : State) (k q : Nat) (f : HostQueue → HostQueue) : (s.modQueue k q f).cores = s.cores := rfl
@[simp] theorem State.modQueue_formes (s : State) (k q : Nat) (f : HostQueue → HostQueue) : (s.modQueue k q f).formes = s.formes := rfl
@[simp] theorem State.modQueue_ports (s : State) (k q : Nat) (f : HostQueue → HostQueue) : (s.modQueue k q f).ports = s.ports := rfl
@[simp] theorem State.modQueue_telemetry (s : State) (k q : Nat) (f : HostQueue → HostQueue) : (s.modQueue k q f).telemetry = s.telemetry := rfl
@[simp] theorem State.modQueue_irqs (s : State) (k q : Nat) (f : HostQueue → HostQueue) : (s.modQueue k q f).irqs = s.irqs := rfl
@[simp] theorem State.modQueue_boot (s : State) (k q : Nat) (f : HostQueue → HostQueue) : (s.modQueue k q f).boot = s.boot := rfl
@[simp] theorem State.modQueue_held (s : State) (k q : Nat) (f : HostQueue → HostQueue) : (s.modQueue k q f).held = s.held := rfl
@[simp] theorem State.modQueue_pfRing (s : State) (k q : Nat) (f : HostQueue → HostQueue) : (s.modQueue k q f).pfRing = s.pfRing := rfl
@[simp] theorem State.modQueue_agenda (s : State) (k q : Nat) (f : HostQueue → HostQueue) : (s.modQueue k q f).agenda = s.agenda := rfl
@[simp] theorem State.modQueue_deadlines (s : State) (k q : Nat) (f : HostQueue → HostQueue) : (s.modQueue k q f).deadlines = s.deadlines := rfl
@[simp] theorem State.modQueue_cur (s : State) (k q : Nat) (f : HostQueue → HostQueue) : (s.modQueue k q f).cur = s.cur := rfl
@[simp] theorem State.modQueue_ev (s : State) (k q : Nat) (f : HostQueue → HostQueue) : (s.modQueue k q f).ev = s.ev := rfl
@[simp] theorem State.modQueue_fresh (s : State) (k q : Nat) (f : HostQueue → HostQueue) : (s.modQueue k q f).fresh = s.fresh := rfl

/-! ## `State.modLaunch` -/

@[simp] theorem State.modLaunch_power (s : State) (k : Nat) (f : Launch → Launch) : (s.modLaunch k f).power = s.power := rfl
@[simp] theorem State.modLaunch_cyc (s : State) (k : Nat) (f : Launch → Launch) : (s.modLaunch k f).cyc = s.cyc := rfl
@[simp] theorem State.modLaunch_ptpNow (s : State) (k : Nat) (f : Launch → Launch) : (s.modLaunch k f).ptpNow = s.ptpNow := rfl
@[simp] theorem State.modLaunch_ptp (s : State) (k : Nat) (f : Launch → Launch) : (s.modLaunch k f).ptp = s.ptp := rfl
@[simp] theorem State.modLaunch_root (s : State) (k : Nat) (f : Launch → Launch) : (s.modLaunch k f).root = s.root := rfl
@[simp] theorem State.modLaunch_roots (s : State) (k : Nat) (f : Launch → Launch) : (s.modLaunch k f).roots = s.roots := rfl
@[simp] theorem State.modLaunch_fwTables (s : State) (k : Nat) (f : Launch → Launch) : (s.modLaunch k f).fwTables = s.fwTables := rfl
@[simp] theorem State.modLaunch_dram (s : State) (k : Nat) (f : Launch → Launch) : (s.modLaunch k f).dram = s.dram := rfl
@[simp] theorem State.modLaunch_lineGen (s : State) (k : Nat) (f : Launch → Launch) : (s.modLaunch k f).lineGen = s.lineGen := rfl
@[simp] theorem State.modLaunch_poison (s : State) (k : Nat) (f : Launch → Launch) : (s.modLaunch k f).poison = s.poison := rfl
@[simp] theorem State.modLaunch_metaPoison (s : State) (k : Nat) (f : Launch → Launch) : (s.modLaunch k f).metaPoison = s.metaPoison := rfl
@[simp] theorem State.modLaunch_l2 (s : State) (k : Nat) (f : Launch → Launch) : (s.modLaunch k f).l2 = s.l2 := rfl
@[simp] theorem State.modLaunch_lineErrs (s : State) (k : Nat) (f : Launch → Launch) : (s.modLaunch k f).lineErrs = s.lineErrs := rfl
@[simp] theorem State.modLaunch_lostLines (s : State) (k : Nat) (f : Launch → Launch) : (s.modLaunch k f).lostLines = s.lostLines := rfl
@[simp] theorem State.modLaunch_lostChannels (s : State) (k : Nat) (f : Launch → Launch) : (s.modLaunch k f).lostChannels = s.lostChannels := rfl
@[simp] theorem State.modLaunch_coresLost (s : State) (k : Nat) (f : Launch → Launch) : (s.modLaunch k f).coresLost = s.coresLost := rfl
@[simp] theorem State.modLaunch_frames (s : State) (k : Nat) (f : Launch → Launch) : (s.modLaunch k f).frames = s.frames := rfl
@[simp] theorem State.modLaunch_side (s : State) (k : Nat) (f : Launch → Launch) : (s.modLaunch k f).side = s.side := rfl
@[simp] theorem State.modLaunch_keys (s : State) (k : Nat) (f : Launch → Launch) : (s.modLaunch k f).keys = s.keys := rfl
@[simp] theorem State.modLaunch_totalCut (s : State) (k : Nat) (f : Launch → Launch) : (s.modLaunch k f).totalCut = s.totalCut := rfl
@[simp] theorem State.modLaunch_repl (s : State) (k : Nat) (f : Launch → Launch) : (s.modLaunch k f).repl = s.repl := rfl
@[simp] theorem State.modLaunch_worlds (s : State) (k : Nat) (f : Launch → Launch) : (s.modLaunch k f).worlds = s.worlds := rfl
@[simp] theorem State.modLaunch_sliceBase (s : State) (k : Nat) (f : Launch → Launch) : (s.modLaunch k f).sliceBase = s.sliceBase := rfl
@[simp] theorem State.modLaunch_pool (s : State) (k : Nat) (f : Launch → Launch) : (s.modLaunch k f).pool = s.pool := rfl
@[simp] theorem State.modLaunch_accepted (s : State) (k : Nat) (f : Launch → Launch) : (s.modLaunch k f).accepted = s.accepted := rfl
@[simp] theorem State.modLaunch_clusters (s : State) (k : Nat) (f : Launch → Launch) : (s.modLaunch k f).clusters = s.clusters := rfl
@[simp] theorem State.modLaunch_cores (s : State) (k : Nat) (f : Launch → Launch) : (s.modLaunch k f).cores = s.cores := rfl
@[simp] theorem State.modLaunch_parts (s : State) (k : Nat) (f : Launch → Launch) : (s.modLaunch k f).parts = s.parts := rfl
@[simp] theorem State.modLaunch_formes (s : State) (k : Nat) (f : Launch → Launch) : (s.modLaunch k f).formes = s.formes := rfl
@[simp] theorem State.modLaunch_ports (s : State) (k : Nat) (f : Launch → Launch) : (s.modLaunch k f).ports = s.ports := rfl
@[simp] theorem State.modLaunch_telemetry (s : State) (k : Nat) (f : Launch → Launch) : (s.modLaunch k f).telemetry = s.telemetry := rfl
@[simp] theorem State.modLaunch_irqs (s : State) (k : Nat) (f : Launch → Launch) : (s.modLaunch k f).irqs = s.irqs := rfl
@[simp] theorem State.modLaunch_boot (s : State) (k : Nat) (f : Launch → Launch) : (s.modLaunch k f).boot = s.boot := rfl
@[simp] theorem State.modLaunch_held (s : State) (k : Nat) (f : Launch → Launch) : (s.modLaunch k f).held = s.held := rfl
@[simp] theorem State.modLaunch_pfRing (s : State) (k : Nat) (f : Launch → Launch) : (s.modLaunch k f).pfRing = s.pfRing := rfl
@[simp] theorem State.modLaunch_agenda (s : State) (k : Nat) (f : Launch → Launch) : (s.modLaunch k f).agenda = s.agenda := rfl
@[simp] theorem State.modLaunch_deadlines (s : State) (k : Nat) (f : Launch → Launch) : (s.modLaunch k f).deadlines = s.deadlines := rfl
@[simp] theorem State.modLaunch_cur (s : State) (k : Nat) (f : Launch → Launch) : (s.modLaunch k f).cur = s.cur := rfl
@[simp] theorem State.modLaunch_ev (s : State) (k : Nat) (f : Launch → Launch) : (s.modLaunch k f).ev = s.ev := rfl
@[simp] theorem State.modLaunch_fresh (s : State) (k : Nat) (f : Launch → Launch) : (s.modLaunch k f).fresh = s.fresh := rfl

/-! ## `State.push` -/

@[simp] theorem State.push_power (s : State) (i : Instr) (a : EvArgs) : (s.push i a).power = s.power := rfl
@[simp] theorem State.push_cyc (s : State) (i : Instr) (a : EvArgs) : (s.push i a).cyc = s.cyc := rfl
@[simp] theorem State.push_ptpNow (s : State) (i : Instr) (a : EvArgs) : (s.push i a).ptpNow = s.ptpNow := rfl
@[simp] theorem State.push_ptp (s : State) (i : Instr) (a : EvArgs) : (s.push i a).ptp = s.ptp := rfl
@[simp] theorem State.push_root (s : State) (i : Instr) (a : EvArgs) : (s.push i a).root = s.root := rfl
@[simp] theorem State.push_roots (s : State) (i : Instr) (a : EvArgs) : (s.push i a).roots = s.roots := rfl
@[simp] theorem State.push_fwTables (s : State) (i : Instr) (a : EvArgs) : (s.push i a).fwTables = s.fwTables := rfl
@[simp] theorem State.push_dram (s : State) (i : Instr) (a : EvArgs) : (s.push i a).dram = s.dram := rfl
@[simp] theorem State.push_lineGen (s : State) (i : Instr) (a : EvArgs) : (s.push i a).lineGen = s.lineGen := rfl
@[simp] theorem State.push_poison (s : State) (i : Instr) (a : EvArgs) : (s.push i a).poison = s.poison := rfl
@[simp] theorem State.push_metaPoison (s : State) (i : Instr) (a : EvArgs) : (s.push i a).metaPoison = s.metaPoison := rfl
@[simp] theorem State.push_l2 (s : State) (i : Instr) (a : EvArgs) : (s.push i a).l2 = s.l2 := rfl
@[simp] theorem State.push_lineErrs (s : State) (i : Instr) (a : EvArgs) : (s.push i a).lineErrs = s.lineErrs := rfl
@[simp] theorem State.push_lostLines (s : State) (i : Instr) (a : EvArgs) : (s.push i a).lostLines = s.lostLines := rfl
@[simp] theorem State.push_lostChannels (s : State) (i : Instr) (a : EvArgs) : (s.push i a).lostChannels = s.lostChannels := rfl
@[simp] theorem State.push_coresLost (s : State) (i : Instr) (a : EvArgs) : (s.push i a).coresLost = s.coresLost := rfl
@[simp] theorem State.push_frames (s : State) (i : Instr) (a : EvArgs) : (s.push i a).frames = s.frames := rfl
@[simp] theorem State.push_side (s : State) (i : Instr) (a : EvArgs) : (s.push i a).side = s.side := rfl
@[simp] theorem State.push_keys (s : State) (i : Instr) (a : EvArgs) : (s.push i a).keys = s.keys := rfl
@[simp] theorem State.push_totalCut (s : State) (i : Instr) (a : EvArgs) : (s.push i a).totalCut = s.totalCut := rfl
@[simp] theorem State.push_repl (s : State) (i : Instr) (a : EvArgs) : (s.push i a).repl = s.repl := rfl
@[simp] theorem State.push_worlds (s : State) (i : Instr) (a : EvArgs) : (s.push i a).worlds = s.worlds := rfl
@[simp] theorem State.push_sliceBase (s : State) (i : Instr) (a : EvArgs) : (s.push i a).sliceBase = s.sliceBase := rfl
@[simp] theorem State.push_pool (s : State) (i : Instr) (a : EvArgs) : (s.push i a).pool = s.pool := rfl
@[simp] theorem State.push_launches (s : State) (i : Instr) (a : EvArgs) : (s.push i a).launches = s.launches := rfl
@[simp] theorem State.push_accepted (s : State) (i : Instr) (a : EvArgs) : (s.push i a).accepted = s.accepted := rfl
@[simp] theorem State.push_clusters (s : State) (i : Instr) (a : EvArgs) : (s.push i a).clusters = s.clusters := rfl
@[simp] theorem State.push_cores (s : State) (i : Instr) (a : EvArgs) : (s.push i a).cores = s.cores := rfl
@[simp] theorem State.push_parts (s : State) (i : Instr) (a : EvArgs) : (s.push i a).parts = s.parts := rfl
@[simp] theorem State.push_formes (s : State) (i : Instr) (a : EvArgs) : (s.push i a).formes = s.formes := rfl
@[simp] theorem State.push_ports (s : State) (i : Instr) (a : EvArgs) : (s.push i a).ports = s.ports := rfl
@[simp] theorem State.push_telemetry (s : State) (i : Instr) (a : EvArgs) : (s.push i a).telemetry = s.telemetry := rfl
@[simp] theorem State.push_irqs (s : State) (i : Instr) (a : EvArgs) : (s.push i a).irqs = s.irqs := rfl
@[simp] theorem State.push_boot (s : State) (i : Instr) (a : EvArgs) : (s.push i a).boot = s.boot := rfl
@[simp] theorem State.push_held (s : State) (i : Instr) (a : EvArgs) : (s.push i a).held = s.held := rfl
@[simp] theorem State.push_pfRing (s : State) (i : Instr) (a : EvArgs) : (s.push i a).pfRing = s.pfRing := rfl
@[simp] theorem State.push_deadlines (s : State) (i : Instr) (a : EvArgs) : (s.push i a).deadlines = s.deadlines := rfl
@[simp] theorem State.push_cur (s : State) (i : Instr) (a : EvArgs) : (s.push i a).cur = s.cur := rfl
@[simp] theorem State.push_ev (s : State) (i : Instr) (a : EvArgs) : (s.push i a).ev = s.ev := rfl
@[simp] theorem State.push_fresh (s : State) (i : Instr) (a : EvArgs) : (s.push i a).fresh = s.fresh := rfl

/-! ## `State.tookFree` -/

@[simp] theorem State.tookFree_power (s : State) : s.tookFree.power = s.power := rfl
@[simp] theorem State.tookFree_cyc (s : State) : s.tookFree.cyc = s.cyc := rfl
@[simp] theorem State.tookFree_ptpNow (s : State) : s.tookFree.ptpNow = s.ptpNow := rfl
@[simp] theorem State.tookFree_ptp (s : State) : s.tookFree.ptp = s.ptp := rfl
@[simp] theorem State.tookFree_root (s : State) : s.tookFree.root = s.root := rfl
@[simp] theorem State.tookFree_roots (s : State) : s.tookFree.roots = s.roots := rfl
@[simp] theorem State.tookFree_fwTables (s : State) : s.tookFree.fwTables = s.fwTables := rfl
@[simp] theorem State.tookFree_dram (s : State) : s.tookFree.dram = s.dram := rfl
@[simp] theorem State.tookFree_lineGen (s : State) : s.tookFree.lineGen = s.lineGen := rfl
@[simp] theorem State.tookFree_poison (s : State) : s.tookFree.poison = s.poison := rfl
@[simp] theorem State.tookFree_metaPoison (s : State) : s.tookFree.metaPoison = s.metaPoison := rfl
@[simp] theorem State.tookFree_l2 (s : State) : s.tookFree.l2 = s.l2 := rfl
@[simp] theorem State.tookFree_lineErrs (s : State) : s.tookFree.lineErrs = s.lineErrs := rfl
@[simp] theorem State.tookFree_lostLines (s : State) : s.tookFree.lostLines = s.lostLines := rfl
@[simp] theorem State.tookFree_lostChannels (s : State) : s.tookFree.lostChannels = s.lostChannels := rfl
@[simp] theorem State.tookFree_coresLost (s : State) : s.tookFree.coresLost = s.coresLost := rfl
@[simp] theorem State.tookFree_frames (s : State) : s.tookFree.frames = s.frames := rfl
@[simp] theorem State.tookFree_side (s : State) : s.tookFree.side = s.side := rfl
@[simp] theorem State.tookFree_keys (s : State) : s.tookFree.keys = s.keys := rfl
@[simp] theorem State.tookFree_totalCut (s : State) : s.tookFree.totalCut = s.totalCut := rfl
@[simp] theorem State.tookFree_repl (s : State) : s.tookFree.repl = s.repl := rfl
@[simp] theorem State.tookFree_worlds (s : State) : s.tookFree.worlds = s.worlds := rfl
@[simp] theorem State.tookFree_sliceBase (s : State) : s.tookFree.sliceBase = s.sliceBase := rfl
@[simp] theorem State.tookFree_pool (s : State) : s.tookFree.pool = s.pool := rfl
@[simp] theorem State.tookFree_launches (s : State) : s.tookFree.launches = s.launches := rfl
@[simp] theorem State.tookFree_accepted (s : State) : s.tookFree.accepted = s.accepted := rfl
@[simp] theorem State.tookFree_clusters (s : State) : s.tookFree.clusters = s.clusters := rfl
@[simp] theorem State.tookFree_cores (s : State) : s.tookFree.cores = s.cores := rfl
@[simp] theorem State.tookFree_parts (s : State) : s.tookFree.parts = s.parts := rfl
@[simp] theorem State.tookFree_formes (s : State) : s.tookFree.formes = s.formes := rfl
@[simp] theorem State.tookFree_ports (s : State) : s.tookFree.ports = s.ports := rfl
@[simp] theorem State.tookFree_telemetry (s : State) : s.tookFree.telemetry = s.telemetry := rfl
@[simp] theorem State.tookFree_irqs (s : State) : s.tookFree.irqs = s.irqs := rfl
@[simp] theorem State.tookFree_boot (s : State) : s.tookFree.boot = s.boot := rfl
@[simp] theorem State.tookFree_held (s : State) : s.tookFree.held = s.held := rfl
@[simp] theorem State.tookFree_pfRing (s : State) : s.tookFree.pfRing = s.pfRing := rfl
@[simp] theorem State.tookFree_agenda (s : State) : s.tookFree.agenda = s.agenda := rfl
@[simp] theorem State.tookFree_deadlines (s : State) : s.tookFree.deadlines = s.deadlines := rfl
@[simp] theorem State.tookFree_cur (s : State) : s.tookFree.cur = s.cur := rfl
@[simp] theorem State.tookFree_ev (s : State) : s.tookFree.ev = s.ev := rfl

/-! ## Updates of the issuing slug -/

@[simp] theorem State.modCur_power (s : State) (f : Slug → Slug) : (s.modCur f).power = s.power := by unfold State.modCur; split <;> rfl
@[simp] theorem State.modCur_cyc (s : State) (f : Slug → Slug) : (s.modCur f).cyc = s.cyc := by unfold State.modCur; split <;> rfl
@[simp] theorem State.modCur_ptpNow (s : State) (f : Slug → Slug) : (s.modCur f).ptpNow = s.ptpNow := by unfold State.modCur; split <;> rfl
@[simp] theorem State.modCur_ptp (s : State) (f : Slug → Slug) : (s.modCur f).ptp = s.ptp := by unfold State.modCur; split <;> rfl
@[simp] theorem State.modCur_root (s : State) (f : Slug → Slug) : (s.modCur f).root = s.root := by unfold State.modCur; split <;> rfl
@[simp] theorem State.modCur_roots (s : State) (f : Slug → Slug) : (s.modCur f).roots = s.roots := by unfold State.modCur; split <;> rfl
@[simp] theorem State.modCur_fwTables (s : State) (f : Slug → Slug) : (s.modCur f).fwTables = s.fwTables := by unfold State.modCur; split <;> rfl
@[simp] theorem State.modCur_dram (s : State) (f : Slug → Slug) : (s.modCur f).dram = s.dram := by unfold State.modCur; split <;> rfl
@[simp] theorem State.modCur_lineGen (s : State) (f : Slug → Slug) : (s.modCur f).lineGen = s.lineGen := by unfold State.modCur; split <;> rfl
@[simp] theorem State.modCur_poison (s : State) (f : Slug → Slug) : (s.modCur f).poison = s.poison := by unfold State.modCur; split <;> rfl
@[simp] theorem State.modCur_metaPoison (s : State) (f : Slug → Slug) : (s.modCur f).metaPoison = s.metaPoison := by unfold State.modCur; split <;> rfl
@[simp] theorem State.modCur_l2 (s : State) (f : Slug → Slug) : (s.modCur f).l2 = s.l2 := by unfold State.modCur; split <;> rfl
@[simp] theorem State.modCur_lineErrs (s : State) (f : Slug → Slug) : (s.modCur f).lineErrs = s.lineErrs := by unfold State.modCur; split <;> rfl
@[simp] theorem State.modCur_lostLines (s : State) (f : Slug → Slug) : (s.modCur f).lostLines = s.lostLines := by unfold State.modCur; split <;> rfl
@[simp] theorem State.modCur_lostChannels (s : State) (f : Slug → Slug) : (s.modCur f).lostChannels = s.lostChannels := by unfold State.modCur; split <;> rfl
@[simp] theorem State.modCur_coresLost (s : State) (f : Slug → Slug) : (s.modCur f).coresLost = s.coresLost := by unfold State.modCur; split <;> rfl
@[simp] theorem State.modCur_frames (s : State) (f : Slug → Slug) : (s.modCur f).frames = s.frames := by unfold State.modCur; split <;> rfl
@[simp] theorem State.modCur_side (s : State) (f : Slug → Slug) : (s.modCur f).side = s.side := by unfold State.modCur; split <;> rfl
@[simp] theorem State.modCur_keys (s : State) (f : Slug → Slug) : (s.modCur f).keys = s.keys := by unfold State.modCur; split <;> rfl
@[simp] theorem State.modCur_totalCut (s : State) (f : Slug → Slug) : (s.modCur f).totalCut = s.totalCut := by unfold State.modCur; split <;> rfl
@[simp] theorem State.modCur_repl (s : State) (f : Slug → Slug) : (s.modCur f).repl = s.repl := by unfold State.modCur; split <;> rfl
@[simp] theorem State.modCur_worlds (s : State) (f : Slug → Slug) : (s.modCur f).worlds = s.worlds := by unfold State.modCur; split <;> rfl
@[simp] theorem State.modCur_sliceBase (s : State) (f : Slug → Slug) : (s.modCur f).sliceBase = s.sliceBase := by unfold State.modCur; split <;> rfl
@[simp] theorem State.modCur_pool (s : State) (f : Slug → Slug) : (s.modCur f).pool = s.pool := by unfold State.modCur; split <;> rfl
@[simp] theorem State.modCur_launches (s : State) (f : Slug → Slug) : (s.modCur f).launches = s.launches := by unfold State.modCur; split <;> rfl
@[simp] theorem State.modCur_accepted (s : State) (f : Slug → Slug) : (s.modCur f).accepted = s.accepted := by unfold State.modCur; split <;> rfl
@[simp] theorem State.modCur_clusters (s : State) (f : Slug → Slug) : (s.modCur f).clusters = s.clusters := by unfold State.modCur; split <;> rfl
@[simp] theorem State.modCur_cores (s : State) (f : Slug → Slug) : (s.modCur f).cores = s.cores := by unfold State.modCur; split <;> rfl
@[simp] theorem State.modCur_parts (s : State) (f : Slug → Slug) : (s.modCur f).parts = s.parts := by unfold State.modCur; split <;> rfl
@[simp] theorem State.modCur_ports (s : State) (f : Slug → Slug) : (s.modCur f).ports = s.ports := by unfold State.modCur; split <;> rfl
@[simp] theorem State.modCur_telemetry (s : State) (f : Slug → Slug) : (s.modCur f).telemetry = s.telemetry := by unfold State.modCur; split <;> rfl
@[simp] theorem State.modCur_irqs (s : State) (f : Slug → Slug) : (s.modCur f).irqs = s.irqs := by unfold State.modCur; split <;> rfl
@[simp] theorem State.modCur_boot (s : State) (f : Slug → Slug) : (s.modCur f).boot = s.boot := by unfold State.modCur; split <;> rfl
@[simp] theorem State.modCur_held (s : State) (f : Slug → Slug) : (s.modCur f).held = s.held := by unfold State.modCur; split <;> rfl
@[simp] theorem State.modCur_pfRing (s : State) (f : Slug → Slug) : (s.modCur f).pfRing = s.pfRing := by unfold State.modCur; split <;> rfl
@[simp] theorem State.modCur_agenda (s : State) (f : Slug → Slug) : (s.modCur f).agenda = s.agenda := by unfold State.modCur; split <;> rfl
@[simp] theorem State.modCur_deadlines (s : State) (f : Slug → Slug) : (s.modCur f).deadlines = s.deadlines := by unfold State.modCur; split <;> rfl
@[simp] theorem State.modCur_cur (s : State) (f : Slug → Slug) : (s.modCur f).cur = s.cur := by unfold State.modCur; split <;> rfl
@[simp] theorem State.modCur_ev (s : State) (f : Slug → Slug) : (s.modCur f).ev = s.ev := by unfold State.modCur; split <;> rfl
@[simp] theorem State.modCur_fresh (s : State) (f : Slug → Slug) : (s.modCur f).fresh = s.fresh := by unfold State.modCur; split <;> rfl

@[simp] theorem State.retireTo_power (s : State) (pc : Addr) : (s.retireTo pc).power = s.power := by unfold State.retireTo; split <;> rfl
@[simp] theorem State.retireTo_cyc (s : State) (pc : Addr) : (s.retireTo pc).cyc = s.cyc := by unfold State.retireTo; split <;> rfl
@[simp] theorem State.retireTo_ptpNow (s : State) (pc : Addr) : (s.retireTo pc).ptpNow = s.ptpNow := by unfold State.retireTo; split <;> rfl
@[simp] theorem State.retireTo_ptp (s : State) (pc : Addr) : (s.retireTo pc).ptp = s.ptp := by unfold State.retireTo; split <;> rfl
@[simp] theorem State.retireTo_root (s : State) (pc : Addr) : (s.retireTo pc).root = s.root := by unfold State.retireTo; split <;> rfl
@[simp] theorem State.retireTo_roots (s : State) (pc : Addr) : (s.retireTo pc).roots = s.roots := by unfold State.retireTo; split <;> rfl
@[simp] theorem State.retireTo_fwTables (s : State) (pc : Addr) : (s.retireTo pc).fwTables = s.fwTables := by unfold State.retireTo; split <;> rfl
@[simp] theorem State.retireTo_dram (s : State) (pc : Addr) : (s.retireTo pc).dram = s.dram := by unfold State.retireTo; split <;> rfl
@[simp] theorem State.retireTo_lineGen (s : State) (pc : Addr) : (s.retireTo pc).lineGen = s.lineGen := by unfold State.retireTo; split <;> rfl
@[simp] theorem State.retireTo_poison (s : State) (pc : Addr) : (s.retireTo pc).poison = s.poison := by unfold State.retireTo; split <;> rfl
@[simp] theorem State.retireTo_metaPoison (s : State) (pc : Addr) : (s.retireTo pc).metaPoison = s.metaPoison := by unfold State.retireTo; split <;> rfl
@[simp] theorem State.retireTo_l2 (s : State) (pc : Addr) : (s.retireTo pc).l2 = s.l2 := by unfold State.retireTo; split <;> rfl
@[simp] theorem State.retireTo_lineErrs (s : State) (pc : Addr) : (s.retireTo pc).lineErrs = s.lineErrs := by unfold State.retireTo; split <;> rfl
@[simp] theorem State.retireTo_lostLines (s : State) (pc : Addr) : (s.retireTo pc).lostLines = s.lostLines := by unfold State.retireTo; split <;> rfl
@[simp] theorem State.retireTo_lostChannels (s : State) (pc : Addr) : (s.retireTo pc).lostChannels = s.lostChannels := by unfold State.retireTo; split <;> rfl
@[simp] theorem State.retireTo_coresLost (s : State) (pc : Addr) : (s.retireTo pc).coresLost = s.coresLost := by unfold State.retireTo; split <;> rfl
@[simp] theorem State.retireTo_frames (s : State) (pc : Addr) : (s.retireTo pc).frames = s.frames := by unfold State.retireTo; split <;> rfl
@[simp] theorem State.retireTo_side (s : State) (pc : Addr) : (s.retireTo pc).side = s.side := by unfold State.retireTo; split <;> rfl
@[simp] theorem State.retireTo_keys (s : State) (pc : Addr) : (s.retireTo pc).keys = s.keys := by unfold State.retireTo; split <;> rfl
@[simp] theorem State.retireTo_totalCut (s : State) (pc : Addr) : (s.retireTo pc).totalCut = s.totalCut := by unfold State.retireTo; split <;> rfl
@[simp] theorem State.retireTo_repl (s : State) (pc : Addr) : (s.retireTo pc).repl = s.repl := by unfold State.retireTo; split <;> rfl
@[simp] theorem State.retireTo_worlds (s : State) (pc : Addr) : (s.retireTo pc).worlds = s.worlds := by unfold State.retireTo; split <;> rfl
@[simp] theorem State.retireTo_sliceBase (s : State) (pc : Addr) : (s.retireTo pc).sliceBase = s.sliceBase := by unfold State.retireTo; split <;> rfl
@[simp] theorem State.retireTo_pool (s : State) (pc : Addr) : (s.retireTo pc).pool = s.pool := by unfold State.retireTo; split <;> rfl
@[simp] theorem State.retireTo_launches (s : State) (pc : Addr) : (s.retireTo pc).launches = s.launches := by unfold State.retireTo; split <;> rfl
@[simp] theorem State.retireTo_accepted (s : State) (pc : Addr) : (s.retireTo pc).accepted = s.accepted := by unfold State.retireTo; split <;> rfl
@[simp] theorem State.retireTo_clusters (s : State) (pc : Addr) : (s.retireTo pc).clusters = s.clusters := by unfold State.retireTo; split <;> rfl
@[simp] theorem State.retireTo_cores (s : State) (pc : Addr) : (s.retireTo pc).cores = s.cores := by unfold State.retireTo; split <;> rfl
@[simp] theorem State.retireTo_parts (s : State) (pc : Addr) : (s.retireTo pc).parts = s.parts := by unfold State.retireTo; split <;> rfl
@[simp] theorem State.retireTo_ports (s : State) (pc : Addr) : (s.retireTo pc).ports = s.ports := by unfold State.retireTo; split <;> rfl
@[simp] theorem State.retireTo_telemetry (s : State) (pc : Addr) : (s.retireTo pc).telemetry = s.telemetry := by unfold State.retireTo; split <;> rfl
@[simp] theorem State.retireTo_irqs (s : State) (pc : Addr) : (s.retireTo pc).irqs = s.irqs := by unfold State.retireTo; split <;> rfl
@[simp] theorem State.retireTo_boot (s : State) (pc : Addr) : (s.retireTo pc).boot = s.boot := by unfold State.retireTo; split <;> rfl
@[simp] theorem State.retireTo_held (s : State) (pc : Addr) : (s.retireTo pc).held = s.held := by unfold State.retireTo; split <;> rfl
@[simp] theorem State.retireTo_pfRing (s : State) (pc : Addr) : (s.retireTo pc).pfRing = s.pfRing := by unfold State.retireTo; split <;> rfl
@[simp] theorem State.retireTo_agenda (s : State) (pc : Addr) : (s.retireTo pc).agenda = s.agenda := by unfold State.retireTo; split <;> rfl
@[simp] theorem State.retireTo_deadlines (s : State) (pc : Addr) : (s.retireTo pc).deadlines = s.deadlines := by unfold State.retireTo; split <;> rfl
@[simp] theorem State.retireTo_cur (s : State) (pc : Addr) : (s.retireTo pc).cur = s.cur := by unfold State.retireTo; split <;> rfl
@[simp] theorem State.retireTo_ev (s : State) (pc : Addr) : (s.retireTo pc).ev = s.ev := by unfold State.retireTo; split <;> rfl
@[simp] theorem State.retireTo_fresh (s : State) (pc : Addr) : (s.retireTo pc).fresh = s.fresh := by unfold State.retireTo; split <;> rfl

@[simp] theorem State.retire_power (s : State) (c : Ctx) : (s.retire c).power = s.power := State.retireTo_power s _
@[simp] theorem State.retire_cyc (s : State) (c : Ctx) : (s.retire c).cyc = s.cyc := State.retireTo_cyc s _
@[simp] theorem State.retire_ptpNow (s : State) (c : Ctx) : (s.retire c).ptpNow = s.ptpNow := State.retireTo_ptpNow s _
@[simp] theorem State.retire_ptp (s : State) (c : Ctx) : (s.retire c).ptp = s.ptp := State.retireTo_ptp s _
@[simp] theorem State.retire_root (s : State) (c : Ctx) : (s.retire c).root = s.root := State.retireTo_root s _
@[simp] theorem State.retire_roots (s : State) (c : Ctx) : (s.retire c).roots = s.roots := State.retireTo_roots s _
@[simp] theorem State.retire_fwTables (s : State) (c : Ctx) : (s.retire c).fwTables = s.fwTables := State.retireTo_fwTables s _
@[simp] theorem State.retire_dram (s : State) (c : Ctx) : (s.retire c).dram = s.dram := State.retireTo_dram s _
@[simp] theorem State.retire_lineGen (s : State) (c : Ctx) : (s.retire c).lineGen = s.lineGen := State.retireTo_lineGen s _
@[simp] theorem State.retire_poison (s : State) (c : Ctx) : (s.retire c).poison = s.poison := State.retireTo_poison s _
@[simp] theorem State.retire_metaPoison (s : State) (c : Ctx) : (s.retire c).metaPoison = s.metaPoison := State.retireTo_metaPoison s _
@[simp] theorem State.retire_l2 (s : State) (c : Ctx) : (s.retire c).l2 = s.l2 := State.retireTo_l2 s _
@[simp] theorem State.retire_lineErrs (s : State) (c : Ctx) : (s.retire c).lineErrs = s.lineErrs := State.retireTo_lineErrs s _
@[simp] theorem State.retire_lostLines (s : State) (c : Ctx) : (s.retire c).lostLines = s.lostLines := State.retireTo_lostLines s _
@[simp] theorem State.retire_lostChannels (s : State) (c : Ctx) : (s.retire c).lostChannels = s.lostChannels := State.retireTo_lostChannels s _
@[simp] theorem State.retire_coresLost (s : State) (c : Ctx) : (s.retire c).coresLost = s.coresLost := State.retireTo_coresLost s _
@[simp] theorem State.retire_frames (s : State) (c : Ctx) : (s.retire c).frames = s.frames := State.retireTo_frames s _
@[simp] theorem State.retire_side (s : State) (c : Ctx) : (s.retire c).side = s.side := State.retireTo_side s _
@[simp] theorem State.retire_keys (s : State) (c : Ctx) : (s.retire c).keys = s.keys := State.retireTo_keys s _
@[simp] theorem State.retire_totalCut (s : State) (c : Ctx) : (s.retire c).totalCut = s.totalCut := State.retireTo_totalCut s _
@[simp] theorem State.retire_repl (s : State) (c : Ctx) : (s.retire c).repl = s.repl := State.retireTo_repl s _
@[simp] theorem State.retire_worlds (s : State) (c : Ctx) : (s.retire c).worlds = s.worlds := State.retireTo_worlds s _
@[simp] theorem State.retire_sliceBase (s : State) (c : Ctx) : (s.retire c).sliceBase = s.sliceBase := State.retireTo_sliceBase s _
@[simp] theorem State.retire_pool (s : State) (c : Ctx) : (s.retire c).pool = s.pool := State.retireTo_pool s _
@[simp] theorem State.retire_launches (s : State) (c : Ctx) : (s.retire c).launches = s.launches := State.retireTo_launches s _
@[simp] theorem State.retire_accepted (s : State) (c : Ctx) : (s.retire c).accepted = s.accepted := State.retireTo_accepted s _
@[simp] theorem State.retire_clusters (s : State) (c : Ctx) : (s.retire c).clusters = s.clusters := State.retireTo_clusters s _
@[simp] theorem State.retire_cores (s : State) (c : Ctx) : (s.retire c).cores = s.cores := State.retireTo_cores s _
@[simp] theorem State.retire_parts (s : State) (c : Ctx) : (s.retire c).parts = s.parts := State.retireTo_parts s _
@[simp] theorem State.retire_ports (s : State) (c : Ctx) : (s.retire c).ports = s.ports := State.retireTo_ports s _
@[simp] theorem State.retire_telemetry (s : State) (c : Ctx) : (s.retire c).telemetry = s.telemetry := State.retireTo_telemetry s _
@[simp] theorem State.retire_irqs (s : State) (c : Ctx) : (s.retire c).irqs = s.irqs := State.retireTo_irqs s _
@[simp] theorem State.retire_boot (s : State) (c : Ctx) : (s.retire c).boot = s.boot := State.retireTo_boot s _
@[simp] theorem State.retire_held (s : State) (c : Ctx) : (s.retire c).held = s.held := State.retireTo_held s _
@[simp] theorem State.retire_pfRing (s : State) (c : Ctx) : (s.retire c).pfRing = s.pfRing := State.retireTo_pfRing s _
@[simp] theorem State.retire_agenda (s : State) (c : Ctx) : (s.retire c).agenda = s.agenda := State.retireTo_agenda s _
@[simp] theorem State.retire_deadlines (s : State) (c : Ctx) : (s.retire c).deadlines = s.deadlines := State.retireTo_deadlines s _
@[simp] theorem State.retire_cur (s : State) (c : Ctx) : (s.retire c).cur = s.cur := State.retireTo_cur s _
@[simp] theorem State.retire_ev (s : State) (c : Ctx) : (s.retire c).ev = s.ev := State.retireTo_ev s _
@[simp] theorem State.retire_fresh (s : State) (c : Ctx) : (s.retire c).fresh = s.fresh := State.retireTo_fresh s _

/-! ## `Forme.modSlug` -/

@[simp] theorem Forme.modSlug_place (m : Forme) (j : Nat) (f : Slug → Slug) : (m.modSlug j f).place = m.place := rfl
@[simp] theorem Forme.modSlug_launch (m : Forme) (j : Nat) (f : Slug → Slug) : (m.modSlug j f).launch = m.launch := rfl
@[simp] theorem Forme.modSlug_fidx (m : Forme) (j : Nat) (f : Slug → Slug) : (m.modSlug j f).fidx = m.fidx := rfl
@[simp] theorem Forme.modSlug_pidx (m : Forme) (j : Nat) (f : Slug → Slug) : (m.modSlug j f).pidx = m.pidx := rfl
@[simp] theorem Forme.modSlug_x0 (m : Forme) (j : Nat) (f : Slug → Slug) : (m.modSlug j f).x0 = m.x0 := rfl
@[simp] theorem Forme.modSlug_y0 (m : Forme) (j : Nat) (f : Slug → Slug) : (m.modSlug j f).y0 = m.y0 := rfl
@[simp] theorem Forme.modSlug_pw (m : Forme) (j : Nat) (f : Slug → Slug) : (m.modSlug j f).pw = m.pw := rfl
@[simp] theorem Forme.modSlug_ph (m : Forme) (j : Nat) (f : Slug → Slug) : (m.modSlug j f).ph = m.ph := rfl
@[simp] theorem Forme.modSlug_core (m : Forme) (j : Nat) (f : Slug → Slug) : (m.modSlug j f).core = m.core := rfl
@[simp] theorem Forme.modSlug_bind (m : Forme) (j : Nat) (f : Slug → Slug) : (m.modSlug j f).bind = m.bind := rfl
@[simp] theorem Forme.modSlug_remap (m : Forme) (j : Nat) (f : Slug → Slug) : (m.modSlug j f).remap = m.remap := rfl
@[simp] theorem Forme.modSlug_scratch (m : Forme) (j : Nat) (f : Slug → Slug) : (m.modSlug j f).scratch = m.scratch := rfl
@[simp] theorem Forme.modSlug_acc (m : Forme) (j : Nat) (f : Slug → Slug) : (m.modSlug j f).acc = m.acc := rfl
@[simp] theorem Forme.modSlug_tiles (m : Forme) (j : Nat) (f : Slug → Slug) : (m.modSlug j f).tiles = m.tiles := rfl
@[simp] theorem Forme.modSlug_cptag (m : Forme) (j : Nat) (f : Slug → Slug) : (m.modSlug j f).cptag = m.cptag := rfl
@[simp] theorem Forme.modSlug_tagStat (m : Forme) (j : Nat) (f : Slug → Slug) : (m.modSlug j f).tagStat = m.tagStat := rfl
@[simp] theorem Forme.modSlug_inFlight (m : Forme) (j : Nat) (f : Slug → Slug) : (m.modSlug j f).inFlight = m.inFlight := rfl
@[simp] theorem Forme.modSlug_rowprog (m : Forme) (j : Nat) (f : Slug → Slug) : (m.modSlug j f).rowprog = m.rowprog := rfl
@[simp] theorem Forme.modSlug_mq (m : Forme) (j : Nat) (f : Slug → Slug) : (m.modSlug j f).mq = m.mq := rfl
@[simp] theorem Forme.modSlug_follow (m : Forme) (j : Nat) (f : Slug → Slug) : (m.modSlug j f).follow = m.follow := rfl
@[simp] theorem Forme.modSlug_transit (m : Forme) (j : Nat) (f : Slug → Slug) : (m.modSlug j f).transit = m.transit := rfl
@[simp] theorem Forme.modSlug_issued (m : Forme) (j : Nat) (f : Slug → Slug) : (m.modSlug j f).issued = m.issued := rfl
@[simp] theorem Forme.modSlug_gathers (m : Forme) (j : Nat) (f : Slug → Slug) : (m.modSlug j f).gathers = m.gathers := rfl
@[simp] theorem Forme.modSlug_drain (m : Forme) (j : Nat) (f : Slug → Slug) : (m.modSlug j f).drain = m.drain := rfl
@[simp] theorem Forme.modSlug_goes (m : Forme) (j : Nat) (f : Slug → Slug) : (m.modSlug j f).goes = m.goes := rfl
@[simp] theorem Forme.modSlug_restored (m : Forme) (j : Nat) (f : Slug → Slug) : (m.modSlug j f).restored = m.restored := rfl

/-! ## Updates of a slug -/

@[simp] theorem Slug.putSlot_live (m : Slug) (b : Bool) (x : Slot) : (m.putSlot b x).live = m.live := by unfold Slug.putSlot; split <;> rfl
@[simp] theorem Slug.putSlot_h (m : Slug) (b : Bool) (x : Slot) : (m.putSlot b x).h = m.h := by unfold Slug.putSlot; split <;> rfl
@[simp] theorem Slug.putSlot_vb (m : Slug) (b : Bool) (x : Slot) : (m.putSlot b x).vb = m.vb := by unfold Slug.putSlot; split <;> rfl
@[simp] theorem Slug.putSlot_g (m : Slug) (b : Bool) (x : Slot) : (m.putSlot b x).g = m.g := by unfold Slug.putSlot; split <;> rfl
@[simp] theorem Slug.putSlot_v (m : Slug) (b : Bool) (x : Slot) : (m.putSlot b x).v = m.v := by unfold Slug.putSlot; split <;> rfl
@[simp] theorem Slug.putSlot_p (m : Slug) (b : Bool) (x : Slot) : (m.putSlot b x).p = m.p := by unfold Slug.putSlot; split <;> rfl
@[simp] theorem Slug.putSlot_xa (m : Slug) (b : Bool) (x : Slot) : (m.putSlot b x).xa = m.xa := by unfold Slug.putSlot; split <;> rfl
@[simp] theorem Slug.putSlot_stack (m : Slug) (b : Bool) (x : Slot) : (m.putSlot b x).stack = m.stack := by unfold Slug.putSlot; split <;> rfl
@[simp] theorem Slug.putSlot_strict (m : Slug) (b : Bool) (x : Slot) : (m.putSlot b x).strict = m.strict := by unfold Slug.putSlot; split <;> rfl
@[simp] theorem Slug.putSlot_owner (m : Slug) (b : Bool) (x : Slot) : (m.putSlot b x).owner = m.owner := by unfold Slug.putSlot; split <;> rfl
@[simp] theorem Slug.putSlot_alloc (m : Slug) (b : Bool) (x : Slot) : (m.putSlot b x).alloc = m.alloc := by unfold Slug.putSlot; split <;> rfl
@[simp] theorem Slug.putSlot_srg (m : Slug) (b : Bool) (x : Slot) : (m.putSlot b x).srg = m.srg := by unfold Slug.putSlot; split <;> rfl
@[simp] theorem Slug.putSlot_abtcode (m : Slug) (b : Bool) (x : Slot) : (m.putSlot b x).abtcode = m.abtcode := by unfold Slug.putSlot; split <;> rfl
@[simp] theorem Slug.putSlot_cause (m : Slug) (b : Bool) (x : Slot) : (m.putSlot b x).cause = m.cause := by unfold Slug.putSlot; split <;> rfl
@[simp] theorem Slug.putSlot_tx (m : Slug) (b : Bool) (x : Slot) : (m.putSlot b x).tx = m.tx := by unfold Slug.putSlot; split <;> rfl
@[simp] theorem Slug.putSlot_stamp (m : Slug) (b : Bool) (x : Slot) : (m.putSlot b x).stamp = m.stamp := by unfold Slug.putSlot; split <;> rfl
@[simp] theorem Slug.putSlot_wake (m : Slug) (b : Bool) (x : Slot) : (m.putSlot b x).wake = m.wake := by unfold Slug.putSlot; split <;> rfl
@[simp] theorem Slug.putSlot_hnd (m : Slug) (b : Bool) (x : Slot) : (m.putSlot b x).hnd = m.hnd := by unfold Slug.putSlot; split <;> rfl
@[simp] theorem Slug.putSlot_gathering (m : Slug) (b : Bool) (x : Slot) : (m.putSlot b x).gathering = m.gathering := by unfold Slug.putSlot; split <;> rfl
@[simp] theorem Slug.putSlot_pendingG (m : Slug) (b : Bool) (x : Slot) : (m.putSlot b x).pendingG = m.pendingG := by unfold Slug.putSlot; split <;> rfl
@[simp] theorem Slug.putSlot_busy (m : Slug) (b : Bool) (x : Slot) : (m.putSlot b x).busy = m.busy := by unfold Slug.putSlot; split <;> rfl
@[simp] theorem Slug.putSlot_arrived (m : Slug) (b : Bool) (x : Slot) : (m.putSlot b x).arrived = m.arrived := by unfold Slug.putSlot; split <;> rfl
@[simp] theorem Slug.putSlot_ended (m : Slug) (b : Bool) (x : Slot) : (m.putSlot b x).ended = m.ended := by unfold Slug.putSlot; split <;> rfl
@[simp] theorem Slug.putSlot_failed (m : Slug) (b : Bool) (x : Slot) : (m.putSlot b x).failed = m.failed := by unfold Slug.putSlot; split <;> rfl

@[simp] theorem Slug.modSlot_live (m : Slug) (b : Bool) (f : Slot → Slot) : (m.modSlot b f).live = m.live := Slug.putSlot_live m b _
@[simp] theorem Slug.modSlot_h (m : Slug) (b : Bool) (f : Slot → Slot) : (m.modSlot b f).h = m.h := Slug.putSlot_h m b _
@[simp] theorem Slug.modSlot_vb (m : Slug) (b : Bool) (f : Slot → Slot) : (m.modSlot b f).vb = m.vb := Slug.putSlot_vb m b _
@[simp] theorem Slug.modSlot_g (m : Slug) (b : Bool) (f : Slot → Slot) : (m.modSlot b f).g = m.g := Slug.putSlot_g m b _
@[simp] theorem Slug.modSlot_v (m : Slug) (b : Bool) (f : Slot → Slot) : (m.modSlot b f).v = m.v := Slug.putSlot_v m b _
@[simp] theorem Slug.modSlot_p (m : Slug) (b : Bool) (f : Slot → Slot) : (m.modSlot b f).p = m.p := Slug.putSlot_p m b _
@[simp] theorem Slug.modSlot_xa (m : Slug) (b : Bool) (f : Slot → Slot) : (m.modSlot b f).xa = m.xa := Slug.putSlot_xa m b _
@[simp] theorem Slug.modSlot_stack (m : Slug) (b : Bool) (f : Slot → Slot) : (m.modSlot b f).stack = m.stack := Slug.putSlot_stack m b _
@[simp] theorem Slug.modSlot_strict (m : Slug) (b : Bool) (f : Slot → Slot) : (m.modSlot b f).strict = m.strict := Slug.putSlot_strict m b _
@[simp] theorem Slug.modSlot_owner (m : Slug) (b : Bool) (f : Slot → Slot) : (m.modSlot b f).owner = m.owner := Slug.putSlot_owner m b _
@[simp] theorem Slug.modSlot_alloc (m : Slug) (b : Bool) (f : Slot → Slot) : (m.modSlot b f).alloc = m.alloc := Slug.putSlot_alloc m b _
@[simp] theorem Slug.modSlot_srg (m : Slug) (b : Bool) (f : Slot → Slot) : (m.modSlot b f).srg = m.srg := Slug.putSlot_srg m b _
@[simp] theorem Slug.modSlot_abtcode (m : Slug) (b : Bool) (f : Slot → Slot) : (m.modSlot b f).abtcode = m.abtcode := Slug.putSlot_abtcode m b _
@[simp] theorem Slug.modSlot_cause (m : Slug) (b : Bool) (f : Slot → Slot) : (m.modSlot b f).cause = m.cause := Slug.putSlot_cause m b _
@[simp] theorem Slug.modSlot_tx (m : Slug) (b : Bool) (f : Slot → Slot) : (m.modSlot b f).tx = m.tx := Slug.putSlot_tx m b _
@[simp] theorem Slug.modSlot_stamp (m : Slug) (b : Bool) (f : Slot → Slot) : (m.modSlot b f).stamp = m.stamp := Slug.putSlot_stamp m b _
@[simp] theorem Slug.modSlot_wake (m : Slug) (b : Bool) (f : Slot → Slot) : (m.modSlot b f).wake = m.wake := Slug.putSlot_wake m b _
@[simp] theorem Slug.modSlot_hnd (m : Slug) (b : Bool) (f : Slot → Slot) : (m.modSlot b f).hnd = m.hnd := Slug.putSlot_hnd m b _
@[simp] theorem Slug.modSlot_gathering (m : Slug) (b : Bool) (f : Slot → Slot) : (m.modSlot b f).gathering = m.gathering := Slug.putSlot_gathering m b _
@[simp] theorem Slug.modSlot_pendingG (m : Slug) (b : Bool) (f : Slot → Slot) : (m.modSlot b f).pendingG = m.pendingG := Slug.putSlot_pendingG m b _
@[simp] theorem Slug.modSlot_busy (m : Slug) (b : Bool) (f : Slot → Slot) : (m.modSlot b f).busy = m.busy := Slug.putSlot_busy m b _
@[simp] theorem Slug.modSlot_arrived (m : Slug) (b : Bool) (f : Slot → Slot) : (m.modSlot b f).arrived = m.arrived := Slug.putSlot_arrived m b _
@[simp] theorem Slug.modSlot_ended (m : Slug) (b : Bool) (f : Slot → Slot) : (m.modSlot b f).ended = m.ended := Slug.putSlot_ended m b _
@[simp] theorem Slug.modSlot_failed (m : Slug) (b : Bool) (f : Slot → Slot) : (m.modSlot b f).failed = m.failed := Slug.putSlot_failed m b _

@[simp] theorem Slug.writeG_live (m : Slug) (n : Nat) (x : Word) : (m.writeG n x).live = m.live := by unfold Slug.writeG; split <;> rfl
@[simp] theorem Slug.writeG_h (m : Slug) (n : Nat) (x : Word) : (m.writeG n x).h = m.h := by unfold Slug.writeG; split <;> rfl
@[simp] theorem Slug.writeG_vb (m : Slug) (n : Nat) (x : Word) : (m.writeG n x).vb = m.vb := by unfold Slug.writeG; split <;> rfl
@[simp] theorem Slug.writeG_v (m : Slug) (n : Nat) (x : Word) : (m.writeG n x).v = m.v := by unfold Slug.writeG; split <;> rfl
@[simp] theorem Slug.writeG_p (m : Slug) (n : Nat) (x : Word) : (m.writeG n x).p = m.p := by unfold Slug.writeG; split <;> rfl
@[simp] theorem Slug.writeG_xa (m : Slug) (n : Nat) (x : Word) : (m.writeG n x).xa = m.xa := by unfold Slug.writeG; split <;> rfl
@[simp] theorem Slug.writeG_a (m : Slug) (n : Nat) (x : Word) : (m.writeG n x).a = m.a := by unfold Slug.writeG; split <;> rfl
@[simp] theorem Slug.writeG_b (m : Slug) (n : Nat) (x : Word) : (m.writeG n x).b = m.b := by unfold Slug.writeG; split <;> rfl
@[simp] theorem Slug.writeG_stack (m : Slug) (n : Nat) (x : Word) : (m.writeG n x).stack = m.stack := by unfold Slug.writeG; split <;> rfl
@[simp] theorem Slug.writeG_strict (m : Slug) (n : Nat) (x : Word) : (m.writeG n x).strict = m.strict := by unfold Slug.writeG; split <;> rfl
@[simp] theorem Slug.writeG_owner (m : Slug) (n : Nat) (x : Word) : (m.writeG n x).owner = m.owner := by unfold Slug.writeG; split <;> rfl
@[simp] theorem Slug.writeG_alloc (m : Slug) (n : Nat) (x : Word) : (m.writeG n x).alloc = m.alloc := by unfold Slug.writeG; split <;> rfl
@[simp] theorem Slug.writeG_srg (m : Slug) (n : Nat) (x : Word) : (m.writeG n x).srg = m.srg := by unfold Slug.writeG; split <;> rfl
@[simp] theorem Slug.writeG_abtcode (m : Slug) (n : Nat) (x : Word) : (m.writeG n x).abtcode = m.abtcode := by unfold Slug.writeG; split <;> rfl
@[simp] theorem Slug.writeG_cause (m : Slug) (n : Nat) (x : Word) : (m.writeG n x).cause = m.cause := by unfold Slug.writeG; split <;> rfl
@[simp] theorem Slug.writeG_tx (m : Slug) (n : Nat) (x : Word) : (m.writeG n x).tx = m.tx := by unfold Slug.writeG; split <;> rfl
@[simp] theorem Slug.writeG_stamp (m : Slug) (n : Nat) (x : Word) : (m.writeG n x).stamp = m.stamp := by unfold Slug.writeG; split <;> rfl
@[simp] theorem Slug.writeG_wake (m : Slug) (n : Nat) (x : Word) : (m.writeG n x).wake = m.wake := by unfold Slug.writeG; split <;> rfl
@[simp] theorem Slug.writeG_hnd (m : Slug) (n : Nat) (x : Word) : (m.writeG n x).hnd = m.hnd := by unfold Slug.writeG; split <;> rfl
@[simp] theorem Slug.writeG_gathering (m : Slug) (n : Nat) (x : Word) : (m.writeG n x).gathering = m.gathering := by unfold Slug.writeG; split <;> rfl
@[simp] theorem Slug.writeG_pendingG (m : Slug) (n : Nat) (x : Word) : (m.writeG n x).pendingG = m.pendingG := by unfold Slug.writeG; split <;> rfl
@[simp] theorem Slug.writeG_busy (m : Slug) (n : Nat) (x : Word) : (m.writeG n x).busy = m.busy := by unfold Slug.writeG; split <;> rfl
@[simp] theorem Slug.writeG_arrived (m : Slug) (n : Nat) (x : Word) : (m.writeG n x).arrived = m.arrived := by unfold Slug.writeG; split <;> rfl
@[simp] theorem Slug.writeG_ended (m : Slug) (n : Nat) (x : Word) : (m.writeG n x).ended = m.ended := by unfold Slug.writeG; split <;> rfl
@[simp] theorem Slug.writeG_failed (m : Slug) (n : Nat) (x : Word) : (m.writeG n x).failed = m.failed := by unfold Slug.writeG; split <;> rfl

@[simp] theorem Slug.writeP_live (m : Slug) (n : Nat) (k x : Mask) : (m.writeP n k x).live = m.live := by unfold Slug.writeP; split <;> rfl
@[simp] theorem Slug.writeP_h (m : Slug) (n : Nat) (k x : Mask) : (m.writeP n k x).h = m.h := by unfold Slug.writeP; split <;> rfl
@[simp] theorem Slug.writeP_vb (m : Slug) (n : Nat) (k x : Mask) : (m.writeP n k x).vb = m.vb := by unfold Slug.writeP; split <;> rfl
@[simp] theorem Slug.writeP_g (m : Slug) (n : Nat) (k x : Mask) : (m.writeP n k x).g = m.g := by unfold Slug.writeP; split <;> rfl
@[simp] theorem Slug.writeP_v (m : Slug) (n : Nat) (k x : Mask) : (m.writeP n k x).v = m.v := by unfold Slug.writeP; split <;> rfl
@[simp] theorem Slug.writeP_xa (m : Slug) (n : Nat) (k x : Mask) : (m.writeP n k x).xa = m.xa := by unfold Slug.writeP; split <;> rfl
@[simp] theorem Slug.writeP_a (m : Slug) (n : Nat) (k x : Mask) : (m.writeP n k x).a = m.a := by unfold Slug.writeP; split <;> rfl
@[simp] theorem Slug.writeP_b (m : Slug) (n : Nat) (k x : Mask) : (m.writeP n k x).b = m.b := by unfold Slug.writeP; split <;> rfl
@[simp] theorem Slug.writeP_stack (m : Slug) (n : Nat) (k x : Mask) : (m.writeP n k x).stack = m.stack := by unfold Slug.writeP; split <;> rfl
@[simp] theorem Slug.writeP_strict (m : Slug) (n : Nat) (k x : Mask) : (m.writeP n k x).strict = m.strict := by unfold Slug.writeP; split <;> rfl
@[simp] theorem Slug.writeP_owner (m : Slug) (n : Nat) (k x : Mask) : (m.writeP n k x).owner = m.owner := by unfold Slug.writeP; split <;> rfl
@[simp] theorem Slug.writeP_alloc (m : Slug) (n : Nat) (k x : Mask) : (m.writeP n k x).alloc = m.alloc := by unfold Slug.writeP; split <;> rfl
@[simp] theorem Slug.writeP_srg (m : Slug) (n : Nat) (k x : Mask) : (m.writeP n k x).srg = m.srg := by unfold Slug.writeP; split <;> rfl
@[simp] theorem Slug.writeP_abtcode (m : Slug) (n : Nat) (k x : Mask) : (m.writeP n k x).abtcode = m.abtcode := by unfold Slug.writeP; split <;> rfl
@[simp] theorem Slug.writeP_cause (m : Slug) (n : Nat) (k x : Mask) : (m.writeP n k x).cause = m.cause := by unfold Slug.writeP; split <;> rfl
@[simp] theorem Slug.writeP_tx (m : Slug) (n : Nat) (k x : Mask) : (m.writeP n k x).tx = m.tx := by unfold Slug.writeP; split <;> rfl
@[simp] theorem Slug.writeP_stamp (m : Slug) (n : Nat) (k x : Mask) : (m.writeP n k x).stamp = m.stamp := by unfold Slug.writeP; split <;> rfl
@[simp] theorem Slug.writeP_wake (m : Slug) (n : Nat) (k x : Mask) : (m.writeP n k x).wake = m.wake := by unfold Slug.writeP; split <;> rfl
@[simp] theorem Slug.writeP_hnd (m : Slug) (n : Nat) (k x : Mask) : (m.writeP n k x).hnd = m.hnd := by unfold Slug.writeP; split <;> rfl
@[simp] theorem Slug.writeP_gathering (m : Slug) (n : Nat) (k x : Mask) : (m.writeP n k x).gathering = m.gathering := by unfold Slug.writeP; split <;> rfl
@[simp] theorem Slug.writeP_pendingG (m : Slug) (n : Nat) (k x : Mask) : (m.writeP n k x).pendingG = m.pendingG := by unfold Slug.writeP; split <;> rfl
@[simp] theorem Slug.writeP_busy (m : Slug) (n : Nat) (k x : Mask) : (m.writeP n k x).busy = m.busy := by unfold Slug.writeP; split <;> rfl
@[simp] theorem Slug.writeP_arrived (m : Slug) (n : Nat) (k x : Mask) : (m.writeP n k x).arrived = m.arrived := by unfold Slug.writeP; split <;> rfl
@[simp] theorem Slug.writeP_ended (m : Slug) (n : Nat) (k x : Mask) : (m.writeP n k x).ended = m.ended := by unfold Slug.writeP; split <;> rfl
@[simp] theorem Slug.writeP_failed (m : Slug) (n : Nat) (k x : Mask) : (m.writeP n k x).failed = m.failed := by unfold Slug.writeP; split <;> rfl

@[simp] theorem Slug.writeV_live (m : Slug) (n : Nat) (k : Mask) (f : Fin 32 → Lane) : (m.writeV n k f).live = m.live := by simp [Slug.writeV]
@[simp] theorem Slug.writeV_h (m : Slug) (n : Nat) (k : Mask) (f : Fin 32 → Lane) : (m.writeV n k f).h = m.h := by simp [Slug.writeV]
@[simp] theorem Slug.writeV_vb (m : Slug) (n : Nat) (k : Mask) (f : Fin 32 → Lane) : (m.writeV n k f).vb = m.vb := by simp [Slug.writeV]
@[simp] theorem Slug.writeV_g (m : Slug) (n : Nat) (k : Mask) (f : Fin 32 → Lane) : (m.writeV n k f).g = m.g := by simp [Slug.writeV]
@[simp] theorem Slug.writeV_p (m : Slug) (n : Nat) (k : Mask) (f : Fin 32 → Lane) : (m.writeV n k f).p = m.p := by simp [Slug.writeV]
@[simp] theorem Slug.writeV_xa (m : Slug) (n : Nat) (k : Mask) (f : Fin 32 → Lane) : (m.writeV n k f).xa = m.xa := by simp [Slug.writeV]
@[simp] theorem Slug.writeV_a (m : Slug) (n : Nat) (k : Mask) (f : Fin 32 → Lane) : (m.writeV n k f).a = m.a := by simp [Slug.writeV]
@[simp] theorem Slug.writeV_b (m : Slug) (n : Nat) (k : Mask) (f : Fin 32 → Lane) : (m.writeV n k f).b = m.b := by simp [Slug.writeV]
@[simp] theorem Slug.writeV_stack (m : Slug) (n : Nat) (k : Mask) (f : Fin 32 → Lane) : (m.writeV n k f).stack = m.stack := by simp [Slug.writeV]
@[simp] theorem Slug.writeV_strict (m : Slug) (n : Nat) (k : Mask) (f : Fin 32 → Lane) : (m.writeV n k f).strict = m.strict := by simp [Slug.writeV]
@[simp] theorem Slug.writeV_owner (m : Slug) (n : Nat) (k : Mask) (f : Fin 32 → Lane) : (m.writeV n k f).owner = m.owner := by simp [Slug.writeV]
@[simp] theorem Slug.writeV_alloc (m : Slug) (n : Nat) (k : Mask) (f : Fin 32 → Lane) : (m.writeV n k f).alloc = m.alloc := by simp [Slug.writeV]
@[simp] theorem Slug.writeV_srg (m : Slug) (n : Nat) (k : Mask) (f : Fin 32 → Lane) : (m.writeV n k f).srg = m.srg := by simp [Slug.writeV]
@[simp] theorem Slug.writeV_abtcode (m : Slug) (n : Nat) (k : Mask) (f : Fin 32 → Lane) : (m.writeV n k f).abtcode = m.abtcode := by simp [Slug.writeV]
@[simp] theorem Slug.writeV_cause (m : Slug) (n : Nat) (k : Mask) (f : Fin 32 → Lane) : (m.writeV n k f).cause = m.cause := by simp [Slug.writeV]
@[simp] theorem Slug.writeV_tx (m : Slug) (n : Nat) (k : Mask) (f : Fin 32 → Lane) : (m.writeV n k f).tx = m.tx := by simp [Slug.writeV]
@[simp] theorem Slug.writeV_stamp (m : Slug) (n : Nat) (k : Mask) (f : Fin 32 → Lane) : (m.writeV n k f).stamp = m.stamp := by simp [Slug.writeV]
@[simp] theorem Slug.writeV_wake (m : Slug) (n : Nat) (k : Mask) (f : Fin 32 → Lane) : (m.writeV n k f).wake = m.wake := by simp [Slug.writeV]
@[simp] theorem Slug.writeV_hnd (m : Slug) (n : Nat) (k : Mask) (f : Fin 32 → Lane) : (m.writeV n k f).hnd = m.hnd := by simp [Slug.writeV]
@[simp] theorem Slug.writeV_gathering (m : Slug) (n : Nat) (k : Mask) (f : Fin 32 → Lane) : (m.writeV n k f).gathering = m.gathering := by simp [Slug.writeV]
@[simp] theorem Slug.writeV_pendingG (m : Slug) (n : Nat) (k : Mask) (f : Fin 32 → Lane) : (m.writeV n k f).pendingG = m.pendingG := by simp [Slug.writeV]
@[simp] theorem Slug.writeV_busy (m : Slug) (n : Nat) (k : Mask) (f : Fin 32 → Lane) : (m.writeV n k f).busy = m.busy := by simp [Slug.writeV]
@[simp] theorem Slug.writeV_arrived (m : Slug) (n : Nat) (k : Mask) (f : Fin 32 → Lane) : (m.writeV n k f).arrived = m.arrived := by simp [Slug.writeV]
@[simp] theorem Slug.writeV_ended (m : Slug) (n : Nat) (k : Mask) (f : Fin 32 → Lane) : (m.writeV n k f).ended = m.ended := by simp [Slug.writeV]
@[simp] theorem Slug.writeV_failed (m : Slug) (n : Nat) (k : Mask) (f : Fin 32 → Lane) : (m.writeV n k f).failed = m.failed := by simp [Slug.writeV]

@[simp] theorem Slug.writeX_live (m : Slug) (n : Nat) (x : XAcc) : (m.writeX n x).live = m.live := by simp [Slug.writeX]
@[simp] theorem Slug.writeX_h (m : Slug) (n : Nat) (x : XAcc) : (m.writeX n x).h = m.h := by simp [Slug.writeX]
@[simp] theorem Slug.writeX_vb (m : Slug) (n : Nat) (x : XAcc) : (m.writeX n x).vb = m.vb := by simp [Slug.writeX]
@[simp] theorem Slug.writeX_g (m : Slug) (n : Nat) (x : XAcc) : (m.writeX n x).g = m.g := by simp [Slug.writeX]
@[simp] theorem Slug.writeX_v (m : Slug) (n : Nat) (x : XAcc) : (m.writeX n x).v = m.v := by simp [Slug.writeX]
@[simp] theorem Slug.writeX_p (m : Slug) (n : Nat) (x : XAcc) : (m.writeX n x).p = m.p := by simp [Slug.writeX]
@[simp] theorem Slug.writeX_a (m : Slug) (n : Nat) (x : XAcc) : (m.writeX n x).a = m.a := by simp [Slug.writeX]
@[simp] theorem Slug.writeX_b (m : Slug) (n : Nat) (x : XAcc) : (m.writeX n x).b = m.b := by simp [Slug.writeX]
@[simp] theorem Slug.writeX_stack (m : Slug) (n : Nat) (x : XAcc) : (m.writeX n x).stack = m.stack := by simp [Slug.writeX]
@[simp] theorem Slug.writeX_strict (m : Slug) (n : Nat) (x : XAcc) : (m.writeX n x).strict = m.strict := by simp [Slug.writeX]
@[simp] theorem Slug.writeX_owner (m : Slug) (n : Nat) (x : XAcc) : (m.writeX n x).owner = m.owner := by simp [Slug.writeX]
@[simp] theorem Slug.writeX_alloc (m : Slug) (n : Nat) (x : XAcc) : (m.writeX n x).alloc = m.alloc := by simp [Slug.writeX]
@[simp] theorem Slug.writeX_srg (m : Slug) (n : Nat) (x : XAcc) : (m.writeX n x).srg = m.srg := by simp [Slug.writeX]
@[simp] theorem Slug.writeX_abtcode (m : Slug) (n : Nat) (x : XAcc) : (m.writeX n x).abtcode = m.abtcode := by simp [Slug.writeX]
@[simp] theorem Slug.writeX_cause (m : Slug) (n : Nat) (x : XAcc) : (m.writeX n x).cause = m.cause := by simp [Slug.writeX]
@[simp] theorem Slug.writeX_tx (m : Slug) (n : Nat) (x : XAcc) : (m.writeX n x).tx = m.tx := by simp [Slug.writeX]
@[simp] theorem Slug.writeX_stamp (m : Slug) (n : Nat) (x : XAcc) : (m.writeX n x).stamp = m.stamp := by simp [Slug.writeX]
@[simp] theorem Slug.writeX_wake (m : Slug) (n : Nat) (x : XAcc) : (m.writeX n x).wake = m.wake := by simp [Slug.writeX]
@[simp] theorem Slug.writeX_hnd (m : Slug) (n : Nat) (x : XAcc) : (m.writeX n x).hnd = m.hnd := by simp [Slug.writeX]
@[simp] theorem Slug.writeX_gathering (m : Slug) (n : Nat) (x : XAcc) : (m.writeX n x).gathering = m.gathering := by simp [Slug.writeX]
@[simp] theorem Slug.writeX_pendingG (m : Slug) (n : Nat) (x : XAcc) : (m.writeX n x).pendingG = m.pendingG := by simp [Slug.writeX]
@[simp] theorem Slug.writeX_busy (m : Slug) (n : Nat) (x : XAcc) : (m.writeX n x).busy = m.busy := by simp [Slug.writeX]
@[simp] theorem Slug.writeX_arrived (m : Slug) (n : Nat) (x : XAcc) : (m.writeX n x).arrived = m.arrived := by simp [Slug.writeX]
@[simp] theorem Slug.writeX_ended (m : Slug) (n : Nat) (x : XAcc) : (m.writeX n x).ended = m.ended := by simp [Slug.writeX]
@[simp] theorem Slug.writeX_failed (m : Slug) (n : Nat) (x : XAcc) : (m.writeX n x).failed = m.failed := by simp [Slug.writeX]

/-! ## Reading what was written -/

@[simp] theorem State.forme_modForme (s : State) (k : Nat) (f : Forme → Forme) : (s.modForme k f).forme k = f (s.forme k) :=
  Sparse.look_upd_self _ _ _

theorem State.forme_modForme_ne (s : State) {k j : Nat} (f : Forme → Forme) (h : j ≠ k) :
    (s.modForme k f).forme j = s.forme j := Sparse.look_upd_ne _ _ h

@[simp] theorem Forme.look_modSlug (m : Forme) (j : Nat) (f : Slug → Slug) :
    (m.modSlug j f).slugs.look j = f (m.slugs.look j) := Sparse.look_upd_self _ _ _

theorem Forme.look_modSlug_ne (m : Forme) {j i : Nat} (f : Slug → Slug) (h : i ≠ j) :
    (m.modSlug j f).slugs.look i = m.slugs.look i := Sparse.look_upd_ne _ _ h

@[simp] theorem State.slug_modSlug (s : State) (k j : Nat) (f : Slug → Slug) :
    (s.modSlug k j f).slug k j = f (s.slug k j) := by simp [State.slug, State.modSlug]

@[simp] theorem State.forme_modSlug (s : State) (k j : Nat) (f : Slug → Slug) :
    (s.modSlug k j f).forme k = (s.forme k).modSlug j f := State.forme_modForme _ _ _

theorem State.forme_modSlug_ne (s : State) {k i : Nat} (j : Nat) (f : Slug → Slug) (h : i ≠ k) :
    (s.modSlug k j f).forme i = s.forme i := State.forme_modForme_ne _ _ h

theorem State.slug_modSlug_ne (s : State) (k : Nat) {j i : Nat} (f : Slug → Slug) (h : i ≠ j) :
    (s.modSlug k j f).slug k i = s.slug k i := by
  simp [State.slug, Forme.look_modSlug_ne _ _ h]

@[simp] theorem State.core_modCore (s : State) (k : Nat) (f : Core → Core) : (s.modCore k f).core k = f (s.core k) :=
  Sparse.look_upd_self _ _ _

theorem State.core_modCore_ne (s : State) {k j : Nat} (f : Core → Core) (h : j ≠ k) :
    (s.modCore k f).core j = s.core j := Sparse.look_upd_ne _ _ h

@[simp] theorem State.part_modPart (s : State) (k : Nat) (f : Partition → Partition) : (s.modPart k f).part k = f (s.part k) :=
  Sparse.look_upd_self _ _ _

theorem State.part_modPart_ne (s : State) {k j : Nat} (f : Partition → Partition) (h : j ≠ k) :
    (s.modPart k f).part j = s.part j := Sparse.look_upd_ne _ _ h

@[simp] theorem State.launch_modLaunch (s : State) (k : Nat) (f : Launch → Launch) :
    (s.modLaunch k f).launch k = f (s.launch k) := Sparse.look_upd_self _ _ _

theorem State.launch_modLaunch_ne (s : State) {k j : Nat} (f : Launch → Launch) (h : j ≠ k) :
    (s.modLaunch k f).launch j = s.launch j := Sparse.look_upd_ne _ _ h

@[simp] theorem State.cluster_modCluster (s : State) (k : Nat) (f : Cluster → Cluster) :
    (s.modCluster k f).cluster k = f (s.cluster k) := Sparse.look_upd_self _ _ _

theorem State.cluster_modCluster_ne (s : State) {k j : Nat} (f : Cluster → Cluster) (h : j ≠ k) :
    (s.modCluster k f).cluster j = s.cluster j := Sparse.look_upd_ne _ _ h

@[simp] theorem Slug.slot_putSlot (m : Slug) (b : Bool) (x : Slot) : (m.putSlot b x).slot b = x := by
  cases b <;> rfl

@[simp] theorem Slug.slot_putSlot_not (m : Slug) (b : Bool) (x : Slot) : (m.putSlot b x).slot (!b) = m.slot (!b) := by
  cases b <;> rfl

@[simp] theorem Slug.slot_modSlot (m : Slug) (b : Bool) (f : Slot → Slot) : (m.modSlot b f).slot b = f (m.slot b) := by
  simp [Slug.modSlot]

@[simp] theorem Slug.slot_modSlot_not (m : Slug) (b : Bool) (f : Slot → Slot) : (m.modSlot b f).slot (!b) = m.slot (!b) := by
  simp [Slug.modSlot]

@[simp] theorem Slug.readG_zero (m : Slug) : m.readG 0 = 0 := rfl

@[simp] theorem Slug.readP_zero (m : Slug) : m.readP 0 = 0xFFFFFFFF := rfl

theorem Slug.readG_writeG (m : Slug) (n k : Nat) (x : Word) :
    (m.writeG n x).readG k = if k = n ∧ n ≠ 0 then x else m.readG k := by
  unfold Slug.writeG Slug.readG
  by_cases hk : k = 0 <;> by_cases hn : n = 0 <;> simp [hk, hn, Sparse.look_put]
  intro h; exact absurd h.symm hn

theorem Slug.readP_writeP (m : Slug) (n k : Nat) (act x : Mask) :
    (m.writeP n act x).readP k = if k = n ∧ n ≠ 0 then (m.readP n &&& ~~~act) ||| (x &&& act) else m.readP k := by
  unfold Slug.writeP Slug.readP
  by_cases hk : k = 0 <;> by_cases hn : n = 0 <;> simp [hk, hn, Sparse.look_put]
  intro h; exact absurd h.symm hn

theorem Slug.readV_writeV (m : Slug) (n k : Nat) (act : Mask) (f : Fin 32 → Lane) :
    (m.writeV n act f).readV k
      = if k = n then Vector.ofFn (fun i => if act.getLsbD i.val then f i else (m.readV n)[i]) else m.readV k := by
  simp [Slug.writeV, Slug.readV, Sparse.look_put]

theorem Slug.readX_writeX (m : Slug) (n k : Nat) (x : XAcc) :
    (m.writeX n x).readX k = if k = n then x else m.readX k := by
  simp [Slug.writeX, Slug.readX, Sparse.look_put]

end Sys2Proof.Machine
end

