-- ==== Sys2Proof/Safety.lean ====
section
/-!
DEFINITION. What a claim about a run says: a run of `k` steps that ends in a state, and a state from which no run stops; and
the words in which claims about one instruction are stated: which path issues it, what it may write, what it leaves alone.
-/

namespace Sys2Proof.Machine

/-- A run of `k` steps from a state ends in another. -/
def State.runs (s : State) (k : Nat) (t : State) : Prop := Sys2Proof.core.run k s = .next t

/-- No run from the state stops: neither a fault of the model nor a missing meaning. -/
def State.safe (s : State) : Prop := ∀ k, ∃ t, s.runs k t

/-! ## What a word may write in its slug -/

/-- A register of a slug. -/
inductive Loc where
  | g (n : Nat)
  | p (n : Nat)
  | v (n : Nat)
  | xa (n : Nat)
  | srg
  deriving DecidableEq, Repr

/-- The registers of two slugs read alike but for those of a list. -/
structure Slug.RegsBut (m m' : Slug) (ws : List Loc) : Prop where
  g : ∀ n, Loc.g n ∉ ws → m'.readG n = m.readG n
  p : ∀ n, Loc.p n ∉ ws → m'.readP n = m.readP n
  v : ∀ n, Loc.v n ∉ ws → m'.readV n = m.readV n
  xa : ∀ n, Loc.xa n ∉ ws → m'.readX n = m.readX n
  srg : Loc.srg ∉ ws → m'.srg = m.srg

/-- Two slugs agree in everything but registers and PC slot `b`: the divergence stack, the control word, the transaction, the
handler, the other PC slot. -/
structure Slug.RestAs (m m' : Slug) (b : Bool) : Prop where
  rest : { m' with g := m.g, p := m.p, v := m.v, xa := m.xa, srg := m.srg, a := m.a, b := m.b } = m
  slot : m'.slot (!b) = m.slot (!b)

/-! ## What a word leaves alone outside its slug -/

/-- Every byte of memory reads alike in two states: DRAM, and the scratchpad and accumulator memory of every forme. -/
structure State.BytesAs (s t : State) : Prop where
  dram : ∀ a, t.dram.look a = s.dram.look a
  scratch : ∀ k a, (t.forme k).scratch.look a = (s.forme k).scratch.look a
  acc : ∀ k a, (t.forme k).acc.look a = (s.forme k).acc.look a

/-- Every slug but one reads alike in two states. -/
def State.SlugsAs (s t : State) (fk sl : Nat) : Prop := ∀ k j, ¬(k = fk ∧ j = sl) → t.slug k j = s.slug k j

/-- Two states differ in one slug at most. -/
structure State.OutsideAs (s t : State) (fk sl : Nat) : Prop where
  device : { t with formes := s.formes } = s
  formes : ∀ k, { t.forme k with slugs := (s.forme k).slugs } = s.forme k
  slugs : s.SlugsAs t fk sl
  bytes : s.BytesAs t

/-! ## Completion -/

/-- The PC slot of a word that has completed, its path going on at `pc`: the next word waits for the port cycles and the STALL
of this one (spec/03 R86). -/
def Ctx.slotAt (c : Ctx) (now : Nat) (pc : Addr) : Slot :=
  { c.slot with
    path := some { c.path with pc := pc }
    readyAt := now + c.iss.occ + c.iss.stall
    lastIssue := now
    pend := c.iss.pend
    part := none }

/-- The issuing slug of a word that has completed: its path goes on at `pc`, and of the slug nothing but the listed registers may
have changed. -/
structure State.Moved (s t : State) (c : Ctx) (pc : Addr) (ws : List Loc) : Prop where
  regs : c.m.RegsBut (t.slug c.iss.fk c.iss.sl) ws
  rest : c.m.RestAs (t.slug c.iss.fk c.iss.sl) c.iss.b
  slot : (t.slug c.iss.fk c.iss.sl).slot c.iss.b = c.slotAt s.cyc pc

/-- A word that acts on its slug alone has completed: its path goes on at `pc`, and nothing of the machine but the listed
registers may have changed. -/
structure State.Done (s t : State) (c : Ctx) (pc : Addr) (ws : List Loc) : Prop where
  outside : s.OutsideAs t c.iss.fk c.iss.sl
  moved : s.Moved t c pc ws

/-- The slug that issues, after a word. -/
def Ctx.slugIn (c : Ctx) (t : State) : Slug := t.slug c.iss.fk c.iss.sl

end Sys2Proof.Machine
end

