-- ==== Sys2Proof/Laws/Words.lean ====
section
/-!
SUPPORT. What the operations that every word shares can do, said once: the context a word issues in, its completion, the write of
a scalar, predicate or vector register.
-/

namespace Sys2Proof.Machine

/-! ## The context -/

/-- What a context holds is read from the state. -/
theorem State.ctx_eq {s : State} {h : Hdr} {c : Ctx} (hc : s.ctx h = some c) :
    s.cur = some c.iss ∧ c.f = s.forme c.iss.fk ∧ c.m = s.slug c.iss.fk c.iss.sl ∧ c.slot = c.m.slot c.iss.b
      ∧ c.slot.path = some c.path ∧ c.act = activeLanes c.m c.slot c.path h := by
  unfold State.ctx at hc
  split at hc
  · cases hc
  · simp only at hc
    split at hc
    · cases hc
    · rename_i hp
      cases hc
      exact ⟨by assumption, rfl, rfl, rfl, hp, rfl⟩

theorem State.ctx_cur {s : State} {h : Hdr} {c : Ctx} (hc : s.ctx h = some c) : s.cur = some c.iss := (State.ctx_eq hc).1

theorem State.ctx_slug {s : State} {h : Hdr} {c : Ctx} (hc : s.ctx h = some c) : s.slug c.iss.fk c.iss.sl = c.m :=
  (State.ctx_eq hc).2.2.1.symm

theorem State.ctx_forme {s : State} {h : Hdr} {c : Ctx} (hc : s.ctx h = some c) : s.forme c.iss.fk = c.f :=
  (State.ctx_eq hc).2.1.symm

theorem State.ctx_slot {s : State} {h : Hdr} {c : Ctx} (hc : s.ctx h = some c) : c.m.slot c.iss.b = c.slot :=
  (State.ctx_eq hc).2.2.2.1.symm

theorem State.ctx_path {s : State} {h : Hdr} {c : Ctx} (hc : s.ctx h = some c) : c.slot.path = some c.path :=
  (State.ctx_eq hc).2.2.2.2.1

/-! ## Changing one slug -/

theorem State.slugsAs_modSlug (s : State) (fk sl : Nat) (f : Slug → Slug) : s.SlugsAs (s.modSlug fk sl f) fk sl := by
  intro k j hk
  by_cases hf : k = fk
  · subst hf
    exact State.slug_modSlug_ne s k f (fun h => hk ⟨rfl, h⟩)
  · rw [State.slug, State.forme_modSlug_ne s sl f hf, State.slug]

/-- A change of one slug leaves everything outside it alone. -/
theorem State.outsideAs_modSlug (s : State) (fk sl : Nat) (f : Slug → Slug) : s.OutsideAs (s.modSlug fk sl f) fk sl where
  device := rfl
  formes k := by
    by_cases hk : k = fk
    · subst hk
      rw [State.forme_modSlug]
      rfl
    · rw [State.forme_modSlug_ne s sl f hk]
  slugs := State.slugsAs_modSlug s fk sl f
  bytes := by
    refine ⟨fun a => rfl, fun k a => ?_, fun k a => ?_⟩ <;>
    · by_cases hk : k = fk
      · subst hk; simp
      · rw [State.forme_modSlug_ne s sl f hk]

theorem Sparse.drop_insert {α : Type} (m : Sparse α) (i : Nat) (v : α) :
    Sparse.drop (Sparse.insert (Sparse.drop m i) i v) i = Sparse.drop m i := by
  have key : ∀ l : Sparse α, (∀ e ∈ l, e.1 ≠ i) → Sparse.drop (Sparse.insert l i v) i = l := by
    intro l hl
    induction l with
    | nil => simp [Sparse.insert, Sparse.drop]
    | cons e r ih =>
      have he : e.1 ≠ i := hl e (by simp)
      have hr : ∀ x ∈ r, x.1 ≠ i := fun x hx => hl x (by simp [hx])
      obtain ⟨k, w⟩ := e
      rw [Sparse.insert]
      split
      · have hf : r.filter (fun e => e.1 != i) = r := List.filter_eq_self.2 (fun x hx => by simpa using hr x hx)
        have hk : k ≠ i := he
        simp [Sparse.drop, hk, hf]
      · have := ih hr
        have hk : k ≠ i := he
        simp only [Sparse.drop] at this ⊢
        simp [hk, this]
  exact key _ (fun e he => by simpa [Sparse.drop] using (List.mem_filter.1 he).2)

theorem Sparse.drop_drop {α : Type} (m : Sparse α) (i : Nat) : Sparse.drop (Sparse.drop m i) i = Sparse.drop m i := by
  simp [Sparse.drop]

theorem Sparse.put_put {α : Type} [Inhabited α] [DecidableEq α] (m : Sparse α) (i : Nat) (v w : α) :
    Sparse.put (Sparse.put m i v) i w = Sparse.put m i w := by
  have h : Sparse.drop (Sparse.put m i v) i = Sparse.drop m i := by
    unfold Sparse.put
    split
    · exact Sparse.drop_drop m i
    · exact Sparse.drop_insert m i v
  show (if w = default then Sparse.drop (Sparse.put m i v) i else Sparse.insert (Sparse.drop (Sparse.put m i v) i) i w) = _
  rw [h]
  rfl

/-- Two changes of one table entry are one. -/
theorem Sparse.upd_upd {α : Type} [Inhabited α] [DecidableEq α] (m : Sparse α) (i : Nat) (f g : α → α) :
    Sparse.upd (Sparse.upd m i f) i g = Sparse.upd m i (fun x => g (f x)) := by
  simp [Sparse.upd, Sparse.put_put]

/-- Two changes of one slug are one. -/
theorem State.modSlug_modSlug (s : State) (fk sl : Nat) (f g : Slug → Slug) :
    (s.modSlug fk sl f).modSlug fk sl g = s.modSlug fk sl (fun m => g (f m)) := by
  simp only [State.modSlug, State.modForme, Sparse.upd_upd, Forme.modSlug]

/-! ## Completion -/

/-- The change of a slug by which a word completes. -/
def Ctx.finish (c : Ctx) (now : Nat) (pc : Addr) (m : Slug) : Slug :=
  m.modSlot c.iss.b (fun x =>
    { x with
      path := x.path.map (fun p => { p with pc := pc })
      readyAt := now + c.iss.occ + c.iss.stall
      lastIssue := now
      pend := c.iss.pend
      part := none })

theorem State.modCur_eq {s : State} {i : Issuer} (h : s.cur = some i) (f : Slug → Slug) : s.modCur f = s.modSlug i.fk i.sl f := by
  simp [State.modCur, h]

theorem State.retireTo_eq {s : State} {c : Ctx} (h : s.cur = some c.iss) (pc : Addr) :
    s.retireTo pc = s.modSlug c.iss.fk c.iss.sl (c.finish s.cyc pc) := by
  simp [State.retireTo, h]
  rfl

/-- A word that changes its slug by `f` and completes is one change of its slug. -/
theorem State.modCur_retireTo {s : State} {c : Ctx} (h : s.cur = some c.iss) (f : Slug → Slug) (pc : Addr) :
    (s.modCur f).retireTo pc = s.modSlug c.iss.fk c.iss.sl (fun m => c.finish s.cyc pc (f m)) := by
  have h2 : (s.modCur f).cur = some c.iss := by simp [h]
  rw [State.retireTo_eq h2, State.modCur_eq h, State.modSlug_modSlug]
  rfl

theorem Ctx.finish_slot {c : Ctx} {m : Slug} (hp : c.slot.path = some c.path) (hs : m.slot c.iss.b = c.slot) (now : Nat)
    (pc : Addr) : (c.finish now pc m).slot c.iss.b = c.slotAt now pc := by
  simp [Ctx.finish, hs, hp, Ctx.slotAt]

/-- A slug changed in its registers and in the slot it issues from only. -/
theorem State.done_of {s : State} {h : Hdr} {c : Ctx} (hc : s.ctx h = some c) (f : Slug → Slug) (pc : Addr) (ws : List Loc)
    (hr : c.m.RegsBut (f c.m) ws) (hb : c.m.RestAs (f c.m) c.iss.b) (hs : (f c.m).slot c.iss.b = c.m.slot c.iss.b) :
    s.Done ((s.modCur f).retireTo pc) c pc ws
      ∧ c.slugIn ((s.modCur f).retireTo pc) = c.finish s.cyc pc (f c.m) := by
  obtain ⟨h1, h2, h3, h4, h5, h6⟩ := State.ctx_eq hc
  have hslug : s.slug c.iss.fk c.iss.sl = c.m := h3.symm
  rw [State.modCur_retireTo h1]
  have hs' : (f c.m).slot c.iss.b = c.slot := hs.trans h4.symm
  refine ⟨⟨State.outsideAs_modSlug _ _ _ _, ⟨?_, ?_, ?_⟩⟩, ?_⟩
  · rw [State.slug_modSlug, hslug]
    exact ⟨fun n hn => by simpa [Ctx.finish, Slug.readG] using hr.g n hn,
      fun n hn => by simpa [Ctx.finish, Slug.readP] using hr.p n hn,
      fun n hn => by simpa [Ctx.finish, Slug.readV] using hr.v n hn,
      fun n hn => by simpa [Ctx.finish, Slug.readX] using hr.xa n hn,
      fun hn => by simpa [Ctx.finish] using hr.srg hn⟩
  · rw [State.slug_modSlug, hslug]
    refine ⟨?_, by simpa [Ctx.finish] using hb.slot⟩
    have := hb.rest
    cases hbb : c.iss.b <;> simpa [Ctx.finish, Slug.modSlot, Slug.putSlot, Slug.slot, hbb] using this
  · rw [State.slug_modSlug, hslug]
    exact Ctx.finish_slot h5 hs' _ _
  · rw [Ctx.slugIn, State.slug_modSlug, hslug]

/-! ## Register writes -/

theorem Slug.regsBut_refl (m : Slug) (ws : List Loc) : m.RegsBut m ws :=
  ⟨fun _ _ => rfl, fun _ _ => rfl, fun _ _ => rfl, fun _ _ => rfl, fun _ => rfl⟩

theorem Slug.restAs_refl (m : Slug) (b : Bool) : m.RestAs m b := ⟨rfl, rfl⟩

theorem Slug.regsBut_writeG (m : Slug) (n : Nat) (x : Word) : m.RegsBut (m.writeG n x) [.g n] where
  g k hk := by
    have : k ≠ n := fun h => hk (by simp [h])
    simp [Slug.readG_writeG, this]
  p k _ := by simp [Slug.readP]
  v k _ := by simp [Slug.readV]
  xa k _ := by simp [Slug.readX]
  srg _ := by simp

theorem Slug.regsBut_writeP (m : Slug) (n : Nat) (act x : Mask) : m.RegsBut (m.writeP n act x) [.p n] where
  g k _ := by simp [Slug.readG]
  p k hk := by
    have : k ≠ n := fun h => hk (by simp [h])
    simp [Slug.readP_writeP, this]
  v k _ := by simp [Slug.readV]
  xa k _ := by simp [Slug.readX]
  srg _ := by simp

theorem Slug.regsBut_writeV (m : Slug) (n : Nat) (act : Mask) (f : Fin 32 → Lane) : m.RegsBut (m.writeV n act f) [.v n] where
  g k _ := by simp [Slug.readG]
  p k _ := by simp [Slug.readP]
  v k hk := by
    have : k ≠ n := fun h => hk (by simp [h])
    simp [Slug.readV_writeV, this]
  xa k _ := by simp [Slug.readX]
  srg _ := by simp

theorem Slug.regsBut_writeX (m : Slug) (n : Nat) (x : XAcc) : m.RegsBut (m.writeX n x) [.xa n] where
  g k _ := by simp [Slug.readG]
  p k _ := by simp [Slug.readP]
  v k _ := by simp [Slug.readV]
  xa k hk := by
    have : k ≠ n := fun h => hk (by simp [h])
    simp [Slug.readX_writeX, this]
  srg _ := by simp

theorem Slug.restAs_writeG (m : Slug) (n : Nat) (x : Word) (b : Bool) : m.RestAs (m.writeG n x) b := by
  unfold Slug.writeG
  split
  · exact Slug.restAs_refl m b
  · exact ⟨rfl, by cases b <;> rfl⟩

theorem Slug.restAs_writeP (m : Slug) (n : Nat) (act x : Mask) (b : Bool) : m.RestAs (m.writeP n act x) b := by
  unfold Slug.writeP
  split
  · exact Slug.restAs_refl m b
  · exact ⟨rfl, by cases b <;> rfl⟩

theorem Slug.restAs_writeV (m : Slug) (n : Nat) (act : Mask) (f : Fin 32 → Lane) (b : Bool) : m.RestAs (m.writeV n act f) b :=
  ⟨by simp [Slug.writeV], by simp [Slug.slot]⟩

theorem Slug.restAs_writeX (m : Slug) (n : Nat) (x : XAcc) (b : Bool) : m.RestAs (m.writeX n x) b :=
  ⟨rfl, by cases b <;> rfl⟩

@[simp] theorem Slug.slot_writeG (m : Slug) (n : Nat) (x : Word) (b : Bool) : (m.writeG n x).slot b = m.slot b := by
  simp [Slug.slot]

@[simp] theorem Slug.slot_writeP (m : Slug) (n : Nat) (act x : Mask) (b : Bool) : (m.writeP n act x).slot b = m.slot b := by
  simp [Slug.slot]

@[simp] theorem Slug.slot_writeV (m : Slug) (n : Nat) (act : Mask) (f : Fin 32 → Lane) (b : Bool) :
    (m.writeV n act f).slot b = m.slot b := by
  simp [Slug.slot]

@[simp] theorem Slug.slot_writeX (m : Slug) (n : Nat) (x : XAcc) (b : Bool) : (m.writeX n x).slot b = m.slot b := by
  simp [Slug.slot]

@[simp] theorem Ctx.finish_readG (c : Ctx) (now : Nat) (pc : Addr) (m : Slug) (n : Nat) :
    (c.finish now pc m).readG n = m.readG n := by simp [Ctx.finish, Slug.readG]

@[simp] theorem Ctx.finish_readP (c : Ctx) (now : Nat) (pc : Addr) (m : Slug) (n : Nat) :
    (c.finish now pc m).readP n = m.readP n := by simp [Ctx.finish, Slug.readP]

@[simp] theorem Ctx.finish_readV (c : Ctx) (now : Nat) (pc : Addr) (m : Slug) (n : Nat) :
    (c.finish now pc m).readV n = m.readV n := by simp [Ctx.finish, Slug.readV]

@[simp] theorem Ctx.finish_readX (c : Ctx) (now : Nat) (pc : Addr) (m : Slug) (n : Nat) :
    (c.finish now pc m).readX n = m.readX n := by simp [Ctx.finish, Slug.readX]

end Sys2Proof.Machine
end

