-- ==== Sys2Proof/Certificates/Slice0/Obligations.lean ====
section
/-!
DEFINITION. The statements for the provers, family by family: each says what instructions or events of spec/opcode_table.json do, and
that they complete. A statement of several claims is their conjunction; the claims stand before it, with the rules of spec/ that they
formalise. A context `c` with `s.ctx w.h = some c` is a path that issues the word; `s.Done t c pc ws` says that the word has completed, its
path at `pc`, and that nothing but the registers `ws` may have changed.
-/

set_option autoImplicit false

open Sys2Proof Sys2Proof.Machine

/-! ## Scalar and vector integer instructions (spec/05 R142 to R149, spec/04 R122) -/

namespace Sys2Proof

/-- The instruction of a scalar integer operation. -/
def SOp.instr (o : SOp) (w : Ops) (m : AluMod) : Instr :=
  match o with
  | .add => .add w m | .sub => .sub w m | .mul => .mul w m | .mulh => .mulh w m | .shl => .shl w m | .shr => .shr w m
  | .sar => .sar w m | .rol => .rol w m | .ror => .ror w m | .and => .and w m | .or => .or w m | .xor => .xor w m
  | .andn => .andn w m | .not => .not w m | .min => .min w m | .max => .max w m | .abs => .abs w m | .neg => .neg w m
  | .div => .div w m | .rem => .rem w m | .clz => .clz w m | .ctz => .ctz w m | .popc => .popc w m | .brev => .brev w m
  | .cmp => .cmp w m | .bfx => .bfx w m | .bfi => .bfi w m | .mov => .mov w m

/-- A condition code of R144 on two values of `n` bits. -/
def condHolds {n : Nat} (sg : Bool) (cc : BitVec 3) (a b : BitVec n) : Bool :=
  let lt (x y : BitVec n) := if sg then x.slt y else x.ult y
  match cc.toNat with
  | 0 => a == b
  | 1 => a != b
  | 2 => lt a b
  | 3 => !lt b a
  | 4 => lt b a
  | _ => !lt a b

/-- Bit `i` of a value, for each `i` below its width. -/
def bitsOf {n : Nat} (f : Nat → Bool) : BitVec n := BitVec.ofFnLE (fun i : Fin n => f i.val)

/-- The number of `true` values of `f` below `n`. -/
def countBits (n : Nat) (f : Nat → Bool) : Nat := ((List.range n).filter f).length

/-- The result y of R143 (R122 for the two divisions) at width `n`: `d` is the destination as it stood. -/
def SOp.result {n : Nat} (o : SOp) (sg : Bool) (imm : BitVec 14) (d a b : BitVec n) : BitVec n :=
  let k := b.toNat % n
  let pos := (imm.extractLsb' 8 6).toNat
  let len := (imm.extractLsb' 0 7).toNat
  match o with
  | .add => a + b
  | .sub => a - b
  | .mul => a * b
  | .mulh => ((if sg then a.signExtend (2 * n) * b.signExtend (2 * n) else a.zeroExtend (2 * n) * b.zeroExtend (2 * n))).extractLsb' n n
  | .shl => a <<< k
  | .shr => a >>> k
  | .sar => a.sshiftRight k
  | .rol => a.rotateLeft k
  | .ror => a.rotateRight k
  | .and => a &&& b
  | .or => a ||| b
  | .xor => a ^^^ b
  | .andn => a &&& ~~~b
  | .not => ~~~a
  | .min => if (if sg then b.slt a else b.ult a) then b else a
  | .max => if (if sg then a.slt b else a.ult b) then b else a
  | .abs => if a.msb then -a else a
  | .neg => -a
  | .div => if b = 0 then BitVec.allOnes n else if sg then a.sdiv b else a.udiv b
  | .rem => if b = 0 then a else if sg then a.srem b else a.umod b
  | .clz => BitVec.ofNat n (countBits n (fun i => decide (a.toNat < 2 ^ (n - 1 - i))))
  | .ctz => BitVec.ofNat n (countBits n (fun i => decide (a.toNat % 2 ^ (i + 1) = 0)))
  | .popc => BitVec.ofNat n (countBits n a.getLsbD)
  | .brev => bitsOf (fun i => a.getLsbD (n - 1 - i))
  | .cmp => if condHolds sg (imm.extractLsb' 0 3) a b then 1 else 0
  | .bfx => if sg then (a.extractLsb' pos len).signExtend n else (a.extractLsb' pos len).zeroExtend n
  | .bfi => bitsOf (fun i => if pos ≤ i ∧ i < pos + len then a.getLsbD (i - pos) else d.getLsbD i)
  | .mov => a

/-- A scalar integer result as R142 puts it into a 64-bit register. -/
def SOp.value (o : SOp) (t : Ty) (imm : BitVec 14) (d a b : Word) : Word :=
  match t with
  | .i32 => (o.result true imm (d.extractLsb' 0 32) (a.extractLsb' 0 32) (b.extractLsb' 0 32)).signExtend 64
  | .n32 => (o.result false imm (d.extractLsb' 0 32) (a.extractLsb' 0 32) (b.extractLsb' 0 32)).zeroExtend 64
  | .i64 => o.result true imm d a b
  | _ => o.result false imm d a b

/-- The operands that R144 and R146 allow: a type of 32 or 64 bits, a signed one for `ABS` and `NEG`, a field within the width. -/
def SOp.operandsOk (o : SOp) (t : Ty) (imm : BitVec 14) : Prop :=
  (t = .i32 ∨ t = .n32 ∨ t = .i64 ∨ t = .n64)
    ∧ (o = .abs ∨ o = .neg → t = .i32 ∨ t = .i64)
    ∧ (o = .bfx ∨ o = .bfi → 1 ≤ (imm.extractLsb' 0 7).toNat
        ∧ (imm.extractLsb' 8 6).toNat + (imm.extractLsb' 0 7).toNat ≤ t.bits)

end Sys2Proof

/-- R142 to R146, R122: a scalar integer instruction with an active lane writes y to its destination and to nothing else, and
completes; `g0` and `p0` keep their constants (spec/02 R52, R54); without an active lane it changes nothing. R417: where another
path of the slug holds a pinned register to its value, the write of another value takes `CHK_TYPE` (its `d0` names the register: log entry
6). Completion: `exec` answers a next state for `ADD`, `SUB`, `MUL`, `MULH`, `SHL`, `SHR`, `SAR`, `ROL`, `ROR`, `AND`, `OR`, `XOR`,
`ANDN`, `NOT`, `MIN`, `MAX`, `ABS`, `NEG`, `DIV`, `REM`, `CLZ`, `CTZ`, `POPC`, `BREV`, `CMP`, `BFX`, `BFI`, `MOV`. -/
def Obligations.ScalarIntegerResult : Prop :=
  ∀ (o : SOp) (w : Ops) (m : AluMod) (s : State) (c : Ctx), s.ctx w.h = some c →
    (c.act = 0 → ∃ t, exec (o.instr w m) s = .next t ∧ s.Done t c c.nextPc [])
    ∧ ∀ y : Word, c.act ≠ 0 → o.operandsOk m.ty m.imm →
      y = o.value m.ty m.imm (c.m.srcG w m.imm w.d) (c.m.srcG w m.imm w.a) (c.m.srcG w m.imm w.b) →
      (∀ n, w.d = .g n → s.pinBlocks c n.toNat y = false →
        ∃ t, exec (o.instr w m) s = .next t ∧ s.Done t c c.nextPc [.g n.toNat]
          ∧ (c.slugIn t).readG n.toNat = if n = 0 then 0 else y)
      ∧ (∀ n, w.d = .g n → s.pinBlocks c n.toNat y = true →
          exec (o.instr w m) s = .next (s.trap c { flt := { code := 0x0A, d0 := 0x80 + n.toNat, d1 := y }, mask := c.act }))
      ∧ (∀ n, w.d = .p n →
        ∃ t, exec (o.instr w m) s = .next t ∧ s.Done t c c.nextPc [.p n.toNat]
          ∧ (c.slugIn t).readP n.toNat = if n = 0 then 0xFFFFFFFF else y.extractLsb' 0 32)

namespace Sys2Proof

/-- The instruction of a vector integer operation. -/
def VIOp.instr (o : VIOp) (w : Ops) (m : AluMod) : Instr :=
  match o with
  | .add => .vaddInt w m | .sub => .vsubInt w m | .mul => .vmulInt w m | .cmp => .vcmpInt w m | .mulh => .vmulh w m
  | .mad => .vmad w m | .shl => .vshl w m | .shr => .vshr w m | .sar => .vsar w m | .and => .vand w m | .or => .vor w m
  | .xor => .vxor w m | .andn => .vandn w m | .not => .vnot w m | .min => .vminInt w m | .max => .vmaxInt w m
  | .abs => .vabsInt w m | .neg => .vnegInt w m | .adds => .vadds w m | .subs => .vsubs w m | .div => .vdivInt w m
  | .rem => .vrem w m | .clz => .vclz w m | .popc => .vpopc w m | .brev => .vbrev w m | .sel => .vselInt w m
  | .bfx => .vbfx w m | .bfi => .vbfi w m | .mov => .vmovInt w m | .sad => .vsad w m

/-- A 32-bit sum of a wider value clamped to the range of a type (R147). -/
def clamped (sg : Bool) (x : BitVec 34) : Lane :=
  if sg then
    (if x.slt (-2147483648) then 0x80000000 else if (2147483647 : BitVec 34).slt x then 0x7FFFFFFF else x.extractLsb' 0 32)
  else
    (if x.slt 0 then 0 else if (4294967295 : BitVec 34).slt x then 0xFFFFFFFF else x.extractLsb' 0 32)

/-- The absolute difference of two bytes, as a lane. -/
def byteGap (a b : Byte) : Lane := (if a.ult b then b - a else a - b).zeroExtend 32

/-- The result y of R147 in a lane: `d` is the destination lane as it stood, `q` the lane's bit of the predicate of `VSEL`. -/
def VIOp.result (o : VIOp) (sg q : Bool) (imm : BitVec 14) (d a b : Lane) : Lane :=
  let wide (x : Lane) : BitVec 34 := if sg then x.signExtend 34 else x.zeroExtend 34
  let scalar (o : SOp) : Lane := o.result sg imm d a b
  match o with
  | .add => scalar .add | .sub => scalar .sub | .mul => scalar .mul | .mulh => scalar .mulh | .mad => a * b + d
  | .shl => scalar .shl | .shr => scalar .shr | .sar => scalar .sar | .and => scalar .and | .or => scalar .or
  | .xor => scalar .xor | .andn => scalar .andn | .not => scalar .not | .min => scalar .min | .max => scalar .max
  | .abs => scalar .abs | .neg => scalar .neg
  | .adds => clamped sg (wide a + wide b)
  | .subs => clamped sg (wide a - wide b)
  | .div => scalar .div | .rem => scalar .rem | .clz => scalar .clz | .popc => scalar .popc | .brev => scalar .brev
  | .sel => if q then a else b
  | .bfx => scalar .bfx | .bfi => scalar .bfi
  | .mov => a
  | .sad => d + byteGap (a.extractLsb' 0 8) (b.extractLsb' 0 8) + byteGap (a.extractLsb' 8 8) (b.extractLsb' 8 8)
      + byteGap (a.extractLsb' 16 8) (b.extractLsb' 16 8) + byteGap (a.extractLsb' 24 8) (b.extractLsb' 24 8)
  | .cmp => 0

/-- The operands that R148 and R149 allow. -/
def VIOp.operandsOk (o : VIOp) (t : Ty) (imm : BitVec 14) : Prop :=
  (t = .i32 ∨ t = .n32)
    ∧ (o = .abs ∨ o = .neg → t = .i32)
    ∧ (o = .bfx ∨ o = .bfi → 1 ≤ (imm.extractLsb' 0 7).toNat
        ∧ (imm.extractLsb' 8 6).toNat + (imm.extractLsb' 0 7).toNat ≤ 32)

end Sys2Proof

namespace Sys2Proof.Machine

/-- A vector register after a word: the active lanes hold `f`, the others what they held. -/
def Ctx.lanesAre (c : Ctx) (t : State) (n : Nat) (f : Fin 32 → Lane) : Prop :=
  ∀ i : Fin 32, ((c.slugIn t).readV n)[i] = if c.act.getLsbD i.val then f i else (c.m.readV n)[i]

end Sys2Proof.Machine

/-- R147, R148, R122: a vector integer instruction writes y to the active lanes of its destination and to nothing else, and
completes. -/
def Sys2Proof.Claim.VectorIntegerResult : Prop :=
  ∀ (o : VIOp) (w : Ops) (m : AluMod) (s : State) (c : Ctx) (n : BitVec 7),
    s.ctx w.h = some c → o ≠ .cmp → o.operandsOk m.ty m.imm → w.d = .v n →
    ∃ t, exec (o.instr w m) s = .next t ∧ s.Done t c c.nextPc [.v n.toNat]
      ∧ c.lanesAre t n.toNat (fun i =>
          o.result (decide (m.ty = .i32)) ((c.m.readP (m.imm.extractLsb' 0 4).toNat).getLsbD i.val) m.imm
            (c.m.readV n.toNat)[i] (c.m.srcV w m.imm m.ty w.a i) (c.m.srcV w m.imm m.ty w.b i))

/-- R148, R144: an integer `VCMP` sets the active lanes' bits of its predicate to the outcome of the condition and completes; every
other bit, and `p0` whole, stays. -/
def Sys2Proof.Claim.VectorIntegerCompareResult : Prop :=
  ∀ (w : Ops) (m : AluMod) (s : State) (c : Ctx) (n : BitVec 4),
    s.ctx w.h = some c → (m.ty = .i32 ∨ m.ty = .n32) → w.d = .p n →
    ∃ t, exec (.vcmpInt w m) s = .next t ∧ s.Done t c c.nextPc [.p n.toNat]
      ∧ ∀ i : Fin 32, ((c.slugIn t).readP n.toNat).getLsbD i.val
          = if n = 0 ∨ c.act.getLsbD i.val = false then (c.m.readP n.toNat).getLsbD i.val
            else condHolds (decide (m.ty = .i32)) (m.imm.extractLsb' 0 3)
              (c.m.srcV w m.imm m.ty w.a i) (c.m.srcV w m.imm m.ty w.b i)

/-- The claims `VectorIntegerResult`, `VectorIntegerCompareResult` together. Completion: `exec` answers a next state for `VADD_INT`,
`VSUB_INT`, `VMUL_INT`, `VMULH`, `VMAD`, `VSHL`, `VSHR`, `VSAR`, `VAND`, `VOR`, `VXOR`, `VANDN`, `VNOT`, `VMIN_INT`, `VMAX_INT`,
`VABS_INT`, `VNEG_INT`, `VADDS`, `VSUBS`, `VDIV_INT`, `VREM`, `VCLZ`, `VPOPC`, `VBREV`, `VSEL_INT`, `VBFX`, `VBFI`, `VMOV_INT`, `VSAD`,
`VCMP_INT`. -/
def Obligations.VectorIntegerResults : Prop :=
  Claim.VectorIntegerResult
  ∧ Claim.VectorIntegerCompareResult

/-! ## Float instructions (spec/04 R116 to R118, spec/05 R150 to R156) -/

namespace Sys2Proof

/-- The instruction of a vector float operation. -/
def VFOp.instr (o : VFOp) (w : Ops) (m : AluMod) : Instr :=
  match o with
  | .add => .vaddFloat w m | .sub => .vsubFloat w m | .mul => .vmulFloat w m | .fma => .vfma w m | .cmp => .vcmpFloat w m
  | .fms => .vfms w m | .fnma => .vfnma w m | .fnms => .vfnms w m | .min => .vminFloat w m | .max => .vmaxFloat w m
  | .minn => .vminn w m | .maxn => .vmaxn w m | .minm => .vminm w m | .maxm => .vmaxm w m | .abs => .vabsFloat w m
  | .neg => .vnegFloat w m | .cpsgn => .vcpsgn w m | .div => .vdivFloat w m | .sel => .vselFloat w m | .mov => .vmovFloat w m
  | .dot2 => .vdot2 w m | .clamp => .vclamp w m | .abd => .vabd w m | .lerp => .vlerp w m

/-- The instruction of a special function. -/
def SFOp.instr (o : SFOp) (w : Ops) (m : AluMod) : Instr :=
  match o with
  | .rcp => .vrcp w m | .rsq => .vrsq w m | .sqrt => .vsqrt w m | .exp2 => .vexp2 w m | .log2 => .vlog2 w m
  | .sin => .vsin w m | .cos => .vcos w m | .tanh => .vtanh w m | .sigm => .vsigm w m

/-- The rational number of a finite value. -/
def FVal.rat (x : FVal) : Option ℚ :=
  match x with
  | .fin s m e => some ((if s then -1 else 1) * m * (2 : ℚ) ^ e)
  | _ => none

/-- The rational number that a code of a format stands for, when it is finite. -/
def FFmt.rat (f : FFmt) (code : Nat) : Option ℚ := (FVal.decode f code).rat

/-- The largest finite value of a format. -/
def FFmt.greatest (f : FFmt) : ℚ := (f.rat (2 ^ f.pad * f.maxCode)).getD 0

/-- `code` is the value of the format that R116 chooses for an exact `x` no larger than the largest finite value: of the finite
values `z` of the format none lies better. -/
def FFmt.Rounds (f : FFmt) (mode : RM) (x : ℚ) (code : Nat) : Prop :=
  ∃ v, f.rat code = some v
    ∧ (x < 0 → (FVal.decode f code).sign = true) ∧ (0 < x → (FVal.decode f code).sign = false)
    ∧ ∀ k z, f.rat k = some z →
      match mode with
      | .rne => |v - x| ≤ |z - x| ∧ (z ≠ v → |z - x| = |v - x| → code / 2 ^ f.pad % 2 = 0)
      | .rna => |v - x| ≤ |z - x| ∧ (|z - x| = |v - x| → |z| ≤ |v|)
      | .rtz | .sr => |v| ≤ |x| ∧ (|z| ≤ |x| → |z| ≤ |v|)
      | .rdn => v ≤ x ∧ (z ≤ x → z ≤ v)
      | .rup => x ≤ v ∧ (x ≤ z → v ≤ z)

/-- The expression of a rounding form of R151 on rational numbers. -/
def VFOp.expr (o : VFOp) (d a b : ℚ) : Option ℚ :=
  match o with
  | .add => some (a + b)
  | .sub => some (a - b)
  | .mul => some (a * b)
  | .fma => some (a * b + d)
  | .fms => some (a * b - d)
  | .fnma => some (-(a * b) + d)
  | .fnms => some (-(a * b) - d)
  | .div => if b = 0 then none else some (a / b)
  | .abd => some |a - b|
  | .lerp => some (d + a * (b - d))
  | _ => none

/-- The element formats of the vector unit (R115). -/
def laneFmts : List FFmt := [.f32, .f16, .bf16]

/-- Every element format of R107. -/
def allFmts : List FFmt := [.f32, .e8m10, .bf16, .f16, .e5m2, .e4m3, .e3m4, .e3m2, .e2m3, .e2m1]

end Sys2Proof

/-- R150 to R152, R148: a vector float instruction writes each active lane of its destination, element by element, and nothing
else, and completes. What an element's result is, the statements below say of `vfElem` and `dot2Lane`. -/
def Sys2Proof.Claim.VectorFloatResult : Prop :=
  ∀ (o : VFOp) (w : Ops) (m : AluMod) (s : State) (c : Ctx) (n : BitVec 7),
    s.ctx w.h = some c → o ≠ .cmp → w.d = .v n →
    ∃ t, exec (o.instr w m) s = .next t ∧ s.Done t c c.nextPc [.v n.toNat]
      ∧ c.lanesAre t n.toNat (fun i =>
          let d := (c.m.readV n.toNat)[i]
          let a := c.m.srcV w m.imm m.ty w.a i
          let b := c.m.srcV w m.imm m.ty w.b i
          match o with
          | .mov => a
          | .sel => if (c.m.readP (m.imm.extractLsb' 0 4).toNat).getLsbD i.val then a else b
          | .dot2 => BitVec.ofNat 32 (dot2Lane m.ty m.rm d.toNat a.toNat b.toNat)
          | o =>
            if m.ty = .f16x2 ∨ m.ty = .bf16x2 then
              BitVec.ofNat 16 (vfElem o m.rm m.ty.ffmt (d.extractLsb' 16 16).toNat (a.extractLsb' 16 16).toNat (b.extractLsb' 16 16).toNat)
                ++ BitVec.ofNat 16 (vfElem o m.rm m.ty.ffmt (d.extractLsb' 0 16).toNat (a.extractLsb' 0 16).toNat (b.extractLsb' 0 16).toNat)
            else BitVec.ofNat 32 (vfElem o m.rm .f32 d.toNat a.toNat b.toNat))

/-- R153: a float `VCMP` sets the active lanes' bits of its predicate from the order of the compared elements, where `.un` and
`.ne` hold on a NaN, `.or` is the complement of `.un` and every other condition is false; and completes. -/
def Sys2Proof.Claim.VectorFloatCompareResult : Prop :=
  ∀ (w : Ops) (m : AluMod) (s : State) (c : Ctx) (n : BitVec 4),
    s.ctx w.h = some c → w.d = .p n →
    ∃ t, exec (.vcmpFloat w m) s = .next t ∧ s.Done t c c.nextPc [.p n.toNat]
      ∧ ∀ i : Fin 32, ((c.slugIn t).readP n.toNat).getLsbD i.val
          = if n = 0 ∨ c.act.getLsbD i.val = false then (c.m.readP n.toNat).getLsbD i.val
            else
              let o := FVal.cmp (cmpElem m.ty (m.imm.getLsbD 3) (c.m.srcV w m.imm m.ty w.a i))
                (cmpElem m.ty (m.imm.getLsbD 3) (c.m.srcV w m.imm m.ty w.b i))
              match (m.imm.extractLsb' 0 3).toNat with
              | 0 => o == some .eq
              | 1 => o != some .eq
              | 2 => o == some .lt
              | 3 => o == some .lt || o == some .eq
              | 4 => o == some .gt
              | 5 => o == some .gt || o == some .eq
              | 6 => o == none
              | _ => o != none

/-- R153: the order that the comparisons use is that of the numbers; +0 equals −0, infinities lie outside every finite value, and a
NaN has no order; ELT picks the element of a packed type. -/
def Sys2Proof.Claim.FloatOrderIsThatOfNumbers : Prop :=
  (∀ x y a b, FVal.rat x = some a → FVal.rat y = some b → FVal.cmp x y = some (compare a b))
  ∧ (∀ x a, FVal.rat x = some a → FVal.cmp x (.inf false) = some .lt ∧ FVal.cmp x (.inf true) = some .gt
      ∧ FVal.cmp (.inf false) x = some .gt ∧ FVal.cmp (.inf true) x = some .lt)
  ∧ (∀ p q, FVal.cmp (.inf p) (.inf q) = some (if p = q then .eq else if p then .lt else .gt))
  ∧ (∀ x, FVal.cmp x .nan = none ∧ FVal.cmp .nan x = none)
  ∧ (∀ (elt : Bool) (x : Lane), cmpElem .f32 elt x = FVal.decode .f32 x.toNat
      ∧ ∀ t, t = .f16x2 ∨ t = .bf16x2 →
          cmpElem t elt x = FVal.decode t.ffmt (if elt then x.extractLsb' 16 16 else x.extractLsb' 0 16).toNat)

/-- The claims `VectorFloatCompareResult`, `FloatOrderIsThatOfNumbers` together. Completion: `exec` answers a next state for `VCMP_FLOAT`. -/
def Obligations.FloatComparison : Prop :=
  Claim.VectorFloatCompareResult
  ∧ Claim.FloatOrderIsThatOfNumbers

/-- R116: rounding into any element format picks, of the format's values, the one the mode names, for every exact value no larger
than the format's largest. -/
def Sys2Proof.Claim.RoundingPicksTheNamedNeighbour : Prop :=
  ∀ (f : FFmt) (mode : RM) (sat s : Bool) (m : Nat) (e : Int) (x : ℚ),
    f ∈ allFmts → mode ≠ .sr → FVal.rat (.fin s m e) = some x → |x| ≤ f.greatest →
    f.Rounds mode x (FVal.round f mode sat (.fin s m e))

/-- R117: what a value of at least twice the largest finite one rounds to, an infinity, and a NaN. -/
def Sys2Proof.Claim.RoundingBeyondTheFormat : Prop :=
  ∀ (f : FFmt) (mode : RM) (sat s : Bool) (m : Nat) (e : Int) (x : ℚ),
    f ∈ allFmts → FVal.rat (.fin s m e) = some x → 2 * f.greatest ≤ |x| →
    let code (mag : Nat) : Nat := 2 ^ f.pad * ((if s then f.signBit else 0) + mag)
    let toInf : Bool := match mode with
      | .rne | .rna | .sr => true
      | .rtz => false
      | .rdn => s
      | .rup => !s
    FVal.round f mode sat (.fin s m e) = code (if toInf && !sat && f.sp == .ieee then f.infCode else f.maxCode)
      ∧ FVal.round f mode sat (.inf s) = code (if f.sp == .ieee && !sat then f.infCode else f.maxCode)
      ∧ FVal.round f mode sat .nan = 2 ^ f.pad * f.nanCode

/-- The claims `RoundingPicksTheNamedNeighbour`, `RoundingBeyondTheFormat` together. -/
def Obligations.Rounding : Prop :=
  Claim.RoundingPicksTheNamedNeighbour
  ∧ Claim.RoundingBeyondTheFormat

/-- R150, R151, R155: an element of a rounding form on finite operands is the expression's exact value rounded once in the mode of
the word, for every value within the format's range; `VRCP` is the same of 1 / x. -/
def Sys2Proof.Claim.FloatElementIsTheExpressionRoundedOnce : Prop :=
  (∀ (o : VFOp) (rm : RM) (f : FFmt) (d a b : Nat) (vd va vb x : ℚ),
    f ∈ laneFmts → rm ≠ .sr → f.rat d = some vd → f.rat a = some va → f.rat b = some vb →
    o.expr vd va vb = some x → |x| ≤ f.greatest → f.Rounds rm x (vfElem o rm f d a b))
  ∧ (∀ (t : Ty) (rm : RM) (d a b : Nat) (vd a0 a1 b0 b1 : ℚ),
    (t = .f16x2 ∨ t = .bf16x2) → rm ≠ .sr → FFmt.f32.rat d = some vd →
    t.ffmt.rat (a % 2 ^ 16) = some a0 → t.ffmt.rat (a / 2 ^ 16 % 2 ^ 16) = some a1 →
    t.ffmt.rat (b % 2 ^ 16) = some b0 → t.ffmt.rat (b / 2 ^ 16 % 2 ^ 16) = some b1 →
    |vd + a0 * b0 + a1 * b1| ≤ FFmt.f32.greatest →
    FFmt.f32.Rounds rm (vd + a0 * b0 + a1 * b1) (dot2Lane t rm d a b))
  ∧ (∀ (rm : RM) (f : FFmt) (a : Nat) (va : ℚ),
    f ∈ laneFmts → rm ≠ .sr → f.rat a = some va → va ≠ 0 → |1 / va| ≤ f.greatest → f.Rounds rm (1 / va) (sfElem .rcp rm f a))

/-- R150, R118: an invalid expression gives the canonical NaN: any NaN operand, ∞ − ∞, 0 × ∞, 0 / 0 and ∞ / ∞; a non-zero finite
value divided by zero gives an infinity of the product of the signs. -/
def Sys2Proof.Claim.InvalidFloatExpressions : Prop :=
  ∀ (f : FFmt) (rm : RM) (d a b : Nat), f ∈ laneFmts →
    let D := FVal.decode f d
    let A := FVal.decode f a
    let B := FVal.decode f b
    ((A = .nan ∨ B = .nan) → ∀ o, o ∈ ([.add, .sub, .mul, .fma, .fms, .fnma, .fnms, .div, .abd, .lerp, .min, .max, .minm, .maxm, .cpsgn] : List VFOp) →
        vfElem o rm f d a b = f.nanCode)
    ∧ (D = .nan → ∀ o, o ∈ ([.fma, .fms, .fnma, .fnms, .lerp] : List VFOp) → vfElem o rm f d a b = f.nanCode)
    ∧ (A = .nan → vfElem .abs rm f d a b = f.nanCode ∧ vfElem .neg rm f d a b = f.nanCode)
    ∧ (∀ p, A = .inf p → B = .inf !p → vfElem .add rm f d a b = f.nanCode)
    ∧ (∀ p, A = .inf p → B = .inf p → vfElem .sub rm f d a b = f.nanCode ∧ vfElem .div rm f d a b = f.nanCode)
    ∧ (∀ p, A = .inf p → B.isZero = true →
        vfElem .mul rm f d a b = f.nanCode ∧ vfElem .mul rm f d b a = f.nanCode ∧ vfElem .fma rm f d a b = f.nanCode)
    ∧ (A.isZero = true → B.isZero = true → vfElem .div rm f d a b = f.nanCode)
    ∧ (∀ q, A.rat = some q → q ≠ 0 → B.isZero = true →
        vfElem .div rm f d a b = (if A.sign != B.sign then f.signBit else 0) + f.infCode)

/-- R152, R151: the minimum and maximum forms deliver an operand's bits: no operand lies beyond it in their order, where −0 is below
+0; a single NaN counts as absent in `VMINN` and `VMAXN`; and the sign forms change the sign bit alone. -/
def Sys2Proof.Claim.FloatMinimumMaximumAndSign : Prop :=
  ∀ (f : FFmt) (rm : RM) (d a b : Nat), f ∈ laneFmts → a < 2 * f.signBit → b < 2 * f.signBit →
    let A := FVal.decode f a
    let B := FVal.decode f b
    -- `x` is at most `y`, −0 below +0
    let le (x y : FVal) : Prop := FVal.cmp x y = some .lt ∨ (FVal.cmp x y = some .eq ∧ (x.isZero = true → y.sign = true → x.sign = true))
    (A ≠ .nan → B ≠ .nan →
      (∃ r, (r = a ∨ r = b) ∧ vfElem .min rm f d a b = r ∧ vfElem .minn rm f d a b = r
          ∧ le (FVal.decode f r) A ∧ le (FVal.decode f r) B)
      ∧ (∃ r, (r = a ∨ r = b) ∧ vfElem .max rm f d a b = r ∧ vfElem .maxn rm f d a b = r
          ∧ le A (FVal.decode f r) ∧ le B (FVal.decode f r))
      ∧ (FVal.cmp A.abs B.abs = some .lt → vfElem .minm rm f d a b = a ∧ vfElem .maxm rm f d a b = b)
      ∧ (FVal.cmp A.abs B.abs = some .gt → vfElem .minm rm f d a b = b ∧ vfElem .maxm rm f d a b = a)
      ∧ (FVal.cmp A.abs B.abs = some .eq →
          vfElem .minm rm f d a b = vfElem .min rm f d a b ∧ vfElem .maxm rm f d a b = vfElem .max rm f d a b))
    ∧ (A = .nan → B ≠ .nan → vfElem .minn rm f d a b = b ∧ vfElem .maxn rm f d a b = b
        ∧ vfElem .minn rm f d b a = b ∧ vfElem .maxn rm f d b a = b)
    ∧ (A = .nan → B = .nan → vfElem .minn rm f d a b = f.nanCode ∧ vfElem .maxn rm f d a b = f.nanCode)
    ∧ vfElem .clamp rm f d a b = vfElem .minn rm f 0 (vfElem .maxn rm f 0 d a) b
    ∧ (A ≠ .nan → vfElem .abs rm f d a b = a % f.signBit
        ∧ vfElem .neg rm f d a b = (if a < f.signBit then a + f.signBit else a - f.signBit)
        ∧ (B ≠ .nan → vfElem .cpsgn rm f d a b = a % f.signBit + b / f.signBit * f.signBit))

/-- The claims `VectorFloatResult`, `FloatElementIsTheExpressionRoundedOnce`, `InvalidFloatExpressions`, `FloatMinimumMaximumAndSign`
together. Completion: `exec` answers a next state for `VADD_FLOAT`, `VSUB_FLOAT`, `VMUL_FLOAT`, `VFMA`, `VFMS`, `VFNMA`, `VFNMS`,
`VMIN_FLOAT`, `VMAX_FLOAT`, `VMINN`, `VMAXN`, `VMINM`, `VMAXM`, `VABS_FLOAT`, `VNEG_FLOAT`, `VCPSGN`, `VDIV_FLOAT`, `VSEL_FLOAT`,
`VMOV_FLOAT`, `VDOT2`, `VCLAMP`, `VABD`, `VLERP`. -/
def Obligations.VectorFloatForms : Prop :=
  Claim.VectorFloatResult
  ∧ Claim.FloatElementIsTheExpressionRoundedOnce
  ∧ Claim.InvalidFloatExpressions
  ∧ Claim.FloatMinimumMaximumAndSign

/-- R155, R54: a special-function instruction writes each active lane of its destination, element by element, and nothing else, and
completes. -/
def Sys2Proof.Claim.SpecialFunctionResult : Prop :=
  ∀ (o : SFOp) (w : Ops) (m : AluMod) (s : State) (c : Ctx) (n : BitVec 7),
    s.ctx w.h = some c → w.d = .v n →
    ∃ t, exec (o.instr w m) s = .next t ∧ s.Done t c c.nextPc [.v n.toNat]
      ∧ c.lanesAre t n.toNat (fun i =>
          let a := c.m.srcV w m.imm m.ty w.a i
          if m.ty = .f16x2 ∨ m.ty = .bf16x2 then
            BitVec.ofNat 16 (sfElem o m.rm m.ty.ffmt (a.extractLsb' 16 16).toNat)
              ++ BitVec.ofNat 16 (sfElem o m.rm m.ty.ffmt (a.extractLsb' 0 16).toNat)
          else BitVec.ofNat 32 (sfElem o m.rm .f32 a.toNat))

/-- R156: the values that the special functions deliver exactly, on every input that the table names. -/
def Sys2Proof.Claim.SpecialFunctionExactPoints : Prop :=
  ∀ (f : FFmt) (x : Nat), f ∈ laneFmts →
    let e (o : SFOp) : Nat := sfElem o .rne f x
    let nan := f.nanCode
    let inf := f.infCode
    let sg := f.signBit
    let one := FVal.round f .rne false (.fin false 1 0)
    (FVal.decode f x = .nan → ∀ o, e o = nan)
    ∧ (FVal.decode f x = .inf true → e .rcp = sg ∧ e .rsq = nan ∧ e .sqrt = nan ∧ e .exp2 = 0 ∧ e .log2 = nan ∧ e .sin = nan
        ∧ e .cos = nan ∧ e .tanh = sg + one ∧ e .sigm = 0)
    ∧ (FVal.decode f x = .inf false → e .rcp = 0 ∧ e .rsq = 0 ∧ e .sqrt = inf ∧ e .exp2 = inf ∧ e .log2 = inf ∧ e .sin = nan
        ∧ e .cos = nan ∧ e .tanh = one ∧ e .sigm = one)
    ∧ (∀ s k, FVal.decode f x = .fin s 0 k →
        let z := if s then sg else 0
        e .rcp = z + inf ∧ e .rsq = z + inf ∧ e .sqrt = z ∧ e .exp2 = one ∧ e .log2 = sg + inf ∧ e .sin = z ∧ e .cos = one
          ∧ e .tanh = z ∧ e .sigm = FVal.round f .rne false (.fin false 1 (-1)))
    ∧ (∀ q, f.rat x = some q → q < 0 → e .rsq = nan ∧ e .sqrt = nan ∧ e .log2 = nan)
    ∧ (∀ k : Int, f.rat x = some ((4 : ℚ) ^ k) → f.rat (e .rsq) = some ((2 : ℚ) ^ (-k)))
    ∧ (∀ k : Int, f.rat x = some ((2 : ℚ) ^ k) → f.rat (e .log2) = some (k : ℚ) ∧ (k = 0 → e .log2 = 0))
    ∧ (∀ k : Int, f.rat x = some (k : ℚ) → e .exp2 = FVal.round f .rne false (.fin false 1 k))
    ∧ (∀ k : Int, f.rat x = some ((k : ℚ) / 4) → k ≠ 0 →
        f.rat (e .sin) = some (if k % 4 = 1 then 1 else if k % 4 = 3 then -1 else 0)
        ∧ f.rat (e .cos) = some (if k % 4 = 0 then 1 else if k % 4 = 2 then -1 else 0)
        ∧ e .sin ≠ sg ∧ e .cos ≠ sg)
    ∧ (∀ o rm, (FVal.decode f x = .nan ∨ (∃ p, FVal.decode f x = .inf p) ∨ (FVal.decode f x).isZero = true) → sfElem o rm f x = e o)
    ∧ (∀ q rm, f.rat x = some q → q < 0 → sfElem .sqrt rm f x = nan)

/-- The claims `SpecialFunctionResult`, `SpecialFunctionExactPoints` together. Completion: `exec` answers a next state for `VRCP`, `VRSQ`,
`VSQRT`, `VEXP2`, `VLOG2`, `VSIN`, `VCOS`, `VTANH`, `VSIGM`. -/
def Obligations.SpecialFunctions : Prop :=
  Claim.SpecialFunctionResult
  ∧ Claim.SpecialFunctionExactPoints

/-! ## Conversions (spec/04 R123 to R131) -/

namespace Sys2Proof

/-- `k` is the integer that a mode chooses for x (R126, R130). -/
def RoundsToInt (mode : RM) (x : ℚ) (k : Int) : Prop :=
  match mode with
  | .rne => |(k : ℚ) - x| ≤ 1 / 2 ∧ (|(k : ℚ) - x| = 1 / 2 → k % 2 = 0)
  | .rna => |(k : ℚ) - x| ≤ 1 / 2 ∧ (|(k : ℚ) - x| = 1 / 2 → |x| ≤ |(k : ℚ)|)
  | .rtz | .sr => |(k : ℚ)| ≤ |x| ∧ |x| < |(k : ℚ)| + 1 ∧ 0 ≤ k * x
  | .rdn => (k : ℚ) ≤ x ∧ x < k + 1
  | .rup => x ≤ (k : ℚ) ∧ (k : ℚ) < x + 1

/-- The type of a conversion form of one element type (R124). -/
def elementTy (df : BitVec 5) : Ty := if df = 3 then .f16x2 else if df = 2 then .bf16x2 else .f32

/-- A lane from a function on its elements (R115). -/
def eachElement (t : Ty) (f : FFmt → Nat → Nat → Nat) (a b : Lane) : Lane :=
  if t = .f16x2 ∨ t = .bf16x2 then
    BitVec.ofNat 16 (f t.ffmt (a.extractLsb' 16 16).toNat (b.extractLsb' 16 16).toNat)
      ++ BitVec.ofNat 16 (f t.ffmt (a.extractLsb' 0 16).toNat (b.extractLsb' 0 16).toNat)
  else BitVec.ofNat 32 (f .f32 a.toNat b.toNat)

end Sys2Proof

/-- R126, R125, R120, R121: `CVT` converts the field of each active lane, the lanes drawing from `%srg` in ascending plane, writes the
destination's field (of a register pair for a 64-bit type) and nothing else, and completes. -/
def Sys2Proof.Claim.ConvertInstructionResult : Prop :=
  ∀ (w : Ops) (m : CnvMod) (s : State) (c : Ctx) (n : BitVec 7) (df sf : CTy),
    s.ctx w.h = some c → w.d = .v n → CTy.ofCode m.df = some df → CTy.ofCode m.sf = some sf →
    ∃ (t : State) (g : Nat → Word), exec (.cvt w m) s = .next t
      ∧ s.Done t c c.nextPc (.v n.toNat :: .srg :: if df.width = 64 then [.v (n.toNat + 1)] else [])
      ∧ g 0 = c.m.srg ∧ (c.slugIn t).srg = g 32
      ∧ (∀ i : Fin 32, c.act.getLsbD i.val = false → g (i.val + 1) = g i.val)
      ∧ (∀ i : Fin 32, c.act.getLsbD i.val = true →
          let x := fieldVal sf (m.pos.extractLsb' 2 2).toNat (c.m.srcC w sf w.a i)
          g (i.val + 1) = (convert df m.rm m.sat (g i.val) x).2
          ∧ ((c.slugIn t).readV n.toNat)[i] = BitVec.ofNat 32 (writeField df.width (m.pos.extractLsb' 4 2).toNat
              (c.m.readV n.toNat)[i].toNat (convert df m.rm m.sat (g i.val) x).1)
          ∧ (df.width = 64 → ((c.slugIn t).readV (n.toNat + 1))[i]
              = BitVec.ofNat 32 ((convert df m.rm m.sat (g i.val) x).1 / 2 ^ 32)))
      ∧ (∀ i : Fin 32, c.act.getLsbD i.val = false → ((c.slugIn t).readV n.toNat)[i] = (c.m.readV n.toNat)[i]
          ∧ ((c.slugIn t).readV (n.toNat + 1))[i] = (c.m.readV (n.toNat + 1))[i])

/-- R125: the field that a position chooses: what is written there is read back, and no other byte of the lane changes; of a field of
6, 4 or 2 bits the byte's other bits become zero. -/
def Sys2Proof.Claim.LaneFieldsReadBack : Prop :=
  ∀ (w p old y : Nat), ((w = 32 ∧ p = 0) ∨ (w = 16 ∧ p < 2) ∨ (w ∈ [8, 6, 4, 2] ∧ p < 4)) → old < 2 ^ 32 → y < 2 ^ w →
    let lo := if w = 32 then 0 else if w = 16 then 16 * p else 8 * p
    let n := if w = 32 then 32 else if w = 16 then 16 else 8
    readField w p (writeField w p old y) = y ∧ writeField w p old y < 2 ^ 32
      ∧ ∀ j, (writeField w p old y).testBit j
          = if lo ≤ j ∧ j < lo + w then y.testBit (j - lo) else if lo ≤ j ∧ j < lo + n then false else old.testBit j

/-- R126, R127: the value a conversion delivers, but for stochastic rounding: a float type rounds the value, a NaN gives the
canonical NaN or zero; a float made an integer is rounded to integral and always saturates; an integer made an integer keeps its low
bits, or saturates. -/
def Sys2Proof.Claim.ConvertedValue : Prop :=
  ∀ (df : CTy) (rm : RM) (sat : Bool) (g : Word), rm ≠ .sr →
    (∀ x, (convert df rm sat g x).2 = g)
    ∧ (df.isFloat = true →
        (∀ v, (convert df rm sat g (.flt v)).1 = FVal.round df.ffmt rm sat v)
        ∧ (∀ i : Int, |(i : ℚ)| ≤ df.ffmt.greatest → df.ffmt.Rounds rm i (convert df rm sat g (.int i)).1))
    ∧ (df.isFloat = false →
        let val (b : Nat) : CVal := df.value b
        (convert df rm sat g (.flt .nan)).1 = 0
        ∧ (∀ p, val (convert df rm sat g (.flt (.inf p))).1 = .int (if p then df.least else df.greatest))
        ∧ (∀ p m e x k, FVal.rat (.fin p m e) = some x → RoundsToInt rm x k →
            val (convert df rm sat g (.flt (.fin p m e))).1 = .int (max df.least (min df.greatest k)))
        ∧ (∀ i, sat = true → val (convert df rm sat g (.int i)).1 = .int (max df.least (min df.greatest i)))
        ∧ (∀ i, sat = false → ((convert df rm sat g (.int i)).1 : Int) = i % 2 ^ df.width))

/-- The claims `ConvertInstructionResult`, `LaneFieldsReadBack`, `ConvertedValue` together. Completion: `exec` answers a next state for
`CVT`. -/
def Obligations.ConversionForms : Prop :=
  Claim.ConvertInstructionResult
  ∧ Claim.LaneFieldsReadBack
  ∧ Claim.ConvertedValue

/-- R127 to R131: each of the other conversion instructions writes the active lanes of its destination and nothing else, and
completes. -/
def Sys2Proof.Claim.OtherConversionsResult : Prop :=
  ∀ (w : Ops) (m : CnvMod) (s : State) (c : Ctx) (n : BitVec 7), s.ctx w.h = some c → w.d = .v n →
    let writes (i : Instr) (f : Fin 32 → Lane) : Prop :=
      ∃ t, exec i s = .next t ∧ s.Done t c c.nextPc [.v n.toNat] ∧ c.lanesAre t n.toNat f
    let t := elementTy m.df
    let a (i : Fin 32) : Lane := c.m.srcV w 0 t w.a i
    let z : Lane := 0
    (∀ df sf, CTy.ofCode m.df = some df → CTy.ofCode m.sf = some sf → df.width ∈ [16, 8, 4, 2] →
      2 * df.width * ((m.pos.extractLsb' 3 3).toNat + 1) ≤ 32 →
      writes (.pack w m) (fun i =>
        let k := (m.pos.extractLsb' 3 3).toNat
        let y (o : Opnd) : Lane := BitVec.ofNat 32 (convert df m.rm m.sat 0 (fieldVal sf 0 (c.m.srcC w sf o i))).1
        let hole : Lane := (BitVec.ofNat 32 (2 ^ (2 * df.width) - 1)) <<< (2 * df.width * k)
        ((c.m.readV n.toNat)[i] &&& ~~~hole)
          ||| (((y w.a ||| (y w.b <<< df.width)) <<< (2 * df.width * k)) &&& hole)))
    ∧ (∀ df sf, CTy.ofCode m.df = some df → CTy.ofCode m.sf = some sf →
      writes (.unpack w m) (fun i =>
        let e := (m.pos.extractLsb' 2 4).toNat
        let x := (c.m.srcV w 0 .n32 w.a i).toNat / 2 ^ (sf.width * e) % 2 ^ sf.width
        BitVec.ofNat 32 (convert df .rne false 0 (sf.value x)).1))
    ∧ writes (.scaleb w m) (fun i => eachElement t (fun f x k => scalebElem m.rm f x k) (a i) (c.m.srcExp w t w.b i))
    ∧ writes (.rint w m) (fun i => eachElement t (fun f x _ => rintElem m.rm f x) (a i) z)
    ∧ writes (.fcls w m) (fun i => eachElement t (fun f x _ => fclsElem f x) (a i) z)
    ∧ writes (.getexp w m) (fun i => eachElement t (fun f x _ => getexpElem f x) (a i) z)
    ∧ writes (.mxscl w m) (fun i =>
        BitVec.ofNat 32 (mxsclByte m.df.toNat (m.pos.getLsbD 5) (FVal.decode .f32 (c.m.srcV w 0 .f32 w.a i).toNat)))

/-- R129 to R131: what `SCALEB`, `RINT`, `FCLS`, `GETEXP` and `MXSCL` compute of one element. -/
def Sys2Proof.Claim.ElementFormsOfConversion : Prop :=
  ∀ (f : FFmt) (rm : RM) (x : Nat), f ∈ laneFmts → rm ≠ .sr → x < 2 * f.signBit →
    let X := FVal.decode f x
    let wd := if f.mbits = 23 then 32 else 16
    (∀ (k : Nat) (r : ℚ), k < 2 ^ wd → f.rat x = some r →
        |r * (2 : ℚ) ^ (BitVec.ofNat wd k).toInt| ≤ f.greatest →
        f.Rounds rm (r * (2 : ℚ) ^ (BitVec.ofNat wd k).toInt) (scalebElem rm f x k))
    ∧ (∀ r, f.rat x = some r → ∃ k : Int, f.rat (rintElem rm f x) = some (k : ℚ) ∧ RoundsToInt rm r k
        ∧ (FVal.decode f (rintElem rm f x)).sign = X.sign)
    ∧ (X = .nan → rintElem rm f x = f.nanCode ∧ ∀ k, scalebElem rm f x k = f.nanCode)
    ∧ (∀ p, X = .inf p → rintElem rm f x = x ∧ ∀ k, scalebElem rm f x k = x)
    ∧ fclsElem f x = 2 ^ (match X with
        | .inf p => if p then 0 else 7
        | .nan => if x.testBit (f.mbits - 1) then 9 else 8
        | .fin p m _ =>
          if m = 0 then (if p then 3 else 4)
          else if x % f.signBit < 2 ^ f.mbits then (if p then 2 else 5) else (if p then 1 else 6))
    ∧ (∀ r, f.rat x = some r → r ≠ 0 →
        let k := (BitVec.ofNat wd (getexpElem f x)).toInt
        (2 : ℚ) ^ k ≤ |r| ∧ |r| < (2 : ℚ) ^ (k + 1))
    ∧ (X.isZero = true → (BitVec.ofNat wd (getexpElem f x)).toInt = -2 ^ (wd - 1))
    ∧ (X.rat = none → (BitVec.ofNat wd (getexpElem f x)).toInt = 2 ^ (wd - 1) - 1)

/-- R131, R110: the scale byte of `MXSCL` for a non-zero finite magnitude, and for the special ones. -/
def Sys2Proof.Claim.BlockScaleByte : Prop :=
  ∀ (fmt emax : Nat) (top : ℚ) (x : FVal),
    (fmt, emax, top) ∈ ([(17, 8, 448), (18, 15, 57344), (19, 4, 28), (20, 2, 15 / 2), (21, 2, 6), (22, 2, 6), (23, 0, 127 / 64)] : List (Nat × Nat × ℚ)) →
    (x = .nan → mxsclByte fmt false x = 0xFF ∧ mxsclByte fmt true x = 0x7F)
    ∧ (∀ p, x = .inf p → mxsclByte fmt false x = 0xFE ∧ mxsclByte fmt true x = 0x7E)
    ∧ (x.isZero = true → mxsclByte fmt false x = 0 ∧ mxsclByte fmt true x = 0)
    ∧ (∀ r (k : Int), x.rat = some r → r ≠ 0 → (2 : ℚ) ^ k ≤ |r| → |r| < (2 : ℚ) ^ (k + 1) →
        (mxsclByte fmt false x : Int) = max 0 (min 254 (k - emax + 127)))
    ∧ (∀ r, x.rat = some r → r ≠ 0 → |r| / top ≤ 448 → FFmt.e4m3.Rounds .rup (|r| / top) (mxsclByte fmt true x))
    ∧ (∀ r, x.rat = some r → 448 < |r| / top → mxsclByte fmt true x = 0x7E)

/-- The claims `OtherConversionsResult`, `ElementFormsOfConversion`, `BlockScaleByte` together. Completion: `exec` answers a next state
for `PACK`, `UNPACK`, `SCALEB`, `RINT`, `FCLS`, `GETEXP`, `MXSCL`. -/
def Obligations.ElementConversionForms : Prop :=
  Claim.OtherConversionsResult
  ∧ Claim.ElementFormsOfConversion
  ∧ Claim.BlockScaleByte

/-! ## Cross-lane instructions (spec/05 R159 to R163) -/

namespace Sys2Proof.Machine

/-- A word completes with `y` in the scalar register `n`, and changes nothing else; `g0` keeps zero. -/
def State.GivesG (s : State) (c : Ctx) (i : Instr) (n : BitVec 6) (y : Word) : Prop :=
  ∃ t, exec i s = .next t ∧ s.Done t c c.nextPc [.g n.toNat] ∧ (c.slugIn t).readG n.toNat = if n = 0 then 0 else y

/-- A word completes with `f` in the active lanes of the vector register `n`, and changes nothing else. -/
def State.GivesV (s : State) (c : Ctx) (i : Instr) (n : BitVec 7) (f : Fin 32 → Lane) : Prop :=
  ∃ t, exec i s = .next t ∧ s.Done t c c.nextPc [.v n.toNat] ∧ c.lanesAre t n.toNat f

/-- A word completes with `f` in the active lanes' bits of the predicate register `n`, and changes nothing else; `p0` keeps all
ones. -/
def State.GivesP (s : State) (c : Ctx) (i : Instr) (n : BitVec 4) (f : Fin 32 → Bool) : Prop :=
  ∃ t, exec i s = .next t ∧ s.Done t c c.nextPc [.p n.toNat]
    ∧ ∀ k : Fin 32, ((c.slugIn t).readP n.toNat).getLsbD k.val
        = if n = 0 ∨ c.act.getLsbD k.val = false then (c.m.readP n.toNat).getLsbD k.val else f k

/-- The register of the lane that stands at a slug and plane of the forme; a constant source is the same in every lane. -/
def Ctx.sourceAt (c : Ctx) (o : Opnd) (own : Lane) (l : Nat × Nat) : Lane :=
  match o with
  | .v k => ((c.f.slugs.look l.1).readV k.toNat).toList.getD l.2 0
  | _ => own

/-- A 32-bit value in a scalar register, extended as the type says (R162, R163). -/
def extendTo (t : Ty) (y : Lane) : Word := if t = .i32 then y.signExtend 64 else y.zeroExtend 64

end Sys2Proof.Machine

/-- R161: a lane is reachable when its id lies in the galley's slugs, it has not exited, and it stands in the issuing slug or the form
has forme scope; it stands where the remap table says. -/
def Sys2Proof.Claim.ReachableLanes : Prop :=
  ∀ (s : State) (c : Ctx) (fs : Bool) (v : Nat) (l : Nat × Nat),
    s.reach c fs v = some l ↔
      v < 32 * (s.launchOf c).extent 1 ∧ (c.f.remap.look v).dead = false ∧ (c.f.slugs.look l.1).live = true
        ∧ (fs = true ∨ l.1 = c.iss.sl)
        ∧ l = match (c.f.remap.look v).moved with
          | some (a, b) => (a.toNat, b.toNat)
          | none => (v / 32, v % 32)

/-- R162: `SHFL` and `BCAST` give each active lane the source lane's register, or its own where the source is not reachable; `LRD` the
source lane's, or zero; `LWR` writes the one lane it names if that is active. No lane of a regroup under way is read by any of
them (R45). -/
def Sys2Proof.Claim.LaneReadsAndWrites : Prop :=
  ∀ (w : Ops) (m : XlMod) (s : State) (c : Ctx), s.ctx w.h = some c → (m.fs = true → ∀ v, c.f.moving v = false) →
    (∀ n, w.d = .v n →
      let own (i : Fin 32) : Lane := c.m.srcV w 0 .n32 w.a i
      let from' (v : Option Nat) (i : Fin 32) : Lane :=
        match v.bind (s.reach c m.fs) with
        | some l => c.sourceAt w.a (own i) l
        | none => own i
      s.GivesV c (.shfl w m) n (fun i =>
        let u := c.vlid i.val
        from' (if m.mode = 0 then some (c.m.srcV w 0 .n32 w.b i).toNat
               else if m.mode = 1 then some (u ^^^ m.arg.toNat)
               else if m.mode = 2 then (if m.arg.toNat ≤ u then some (u - m.arg.toNat) else none)
               else some (u + m.arg.toNat)) i)
      ∧ s.GivesV c (.bcast w m) n (fun i => from' (some (c.m.srcG w 0 w.b).toNat) i)
      ∧ ∃ t, exec (.lwr w m) s = .next t ∧ s.Done t c c.nextPc [.v n.toNat]
          ∧ ∀ i : Fin 32, ((c.slugIn t).readV n.toNat)[i]
              = if c.act.getLsbD i.val ∧ c.vlid i.val = (c.m.srcG w 0 w.b).toNat then (c.m.srcG w 0 w.a).extractLsb' 0 32
                else (c.m.readV n.toNat)[i])
    ∧ (∀ (n : BitVec 6) (k : BitVec 7) (y : Word), w.d = .g n → w.a = .v k → c.act ≠ 0 →
        y = (match s.reach c m.fs (c.m.srcG w 0 w.b).toNat with
          | some l => extendTo m.ty (c.sourceAt w.a 0 l)
          | none => 0) →
        s.pinBlocks c n.toNat y = false → s.GivesG c (.lrd w m) n y)

/-- The claims `ReachableLanes`, `LaneReadsAndWrites` together. Completion: `exec` answers a next state for `SHFL`, `BCAST`, `LRD`, `LWR`. -/
def Obligations.LaneExchanges : Prop :=
  Claim.ReachableLanes
  ∧ Claim.LaneReadsAndWrites

/-- R163: the operations over the active lanes of a path, in ascending virtual lane id. -/
def Sys2Proof.Claim.ActiveLaneOperations : Prop :=
  ∀ (w : Ops) (m : XlMod) (s : State) (c : Ctx), s.ctx w.h = some c →
    let lanes := c.byVlid
    let op := scanOp m.ty m.mode.toNat
    let one := scanIdentity m.ty m.mode.toNat
    let val (p : Nat) : Lane := c.m.srcV w 0 m.ty w.a (Fin.ofNat 32 p)
    let bit (i : Fin 32) : Bool := (c.m.readP w.a.num).getLsbD i.val
    let act (i : Fin 32) : Bool := c.act.getLsbD i.val
    (lanes.Pairwise (fun a b => c.vlid a ≤ c.vlid b) ∧ lanes.Nodup ∧ ∀ p, p ∈ lanes ↔ p < 32 ∧ c.act.getLsbD p = true)
    ∧ (∀ n, w.d = .p n → m.mode = 0 → s.GivesP c (.vote w m) n (fun _ => decide (∀ i, act i → bit i)))
    ∧ (∀ n, w.d = .p n → m.mode = 1 → s.GivesP c (.vote w m) n (fun _ => decide (∃ i, act i ∧ bit i)))
    ∧ (∀ n, w.d = .p n → m.mode = 2 → s.GivesP c (.vote w m) n (fun _ => decide (∀ i j, act i → act j → bit i = bit j)))
    ∧ (∀ n, w.d = .g n → m.mode = 3 → s.pinBlocks c n.toNat ((c.m.readP w.a.num &&& c.act).zeroExtend 64) = false →
        s.GivesG c (.vote w m) n ((c.m.readP w.a.num &&& c.act).zeroExtend 64))
    ∧ (∀ n, w.d = .v n → ∃ f, s.GivesV c (.pscan w m) n f ∧
        ∀ k (h : k < lanes.length), f (Fin.ofNat 32 lanes[k])
          = ((lanes.take (if m.arg.getLsbD 0 then k else k + 1)).map val).foldl op one)
    ∧ (∀ n, w.d = .v n → ∃ f, s.GivesV c (.matchLanes w m) n f ∧
        ∀ i k : Fin 32, act i → (f i).getLsbD k.val = (act k && c.m.srcV w 0 .n32 w.a k == c.m.srcV w 0 .n32 w.a i))
    ∧ (c.act ≠ 0 →
        (∀ n, w.d = .g n → ∀ y, y = extendTo m.ty ((lanes.map val).foldl op one) → s.pinBlocks c n.toNat y = false →
          s.GivesG c (.redl w m) n y)
        ∧ (∀ n, w.d = .g n → ∀ y, y = BitVec.ofNat 64 ((List.finRange 32).filter (fun i => act i && bit i)).length →
            s.pinBlocks c n.toNat y = false → s.GivesG c (.pcnt w m) n y)
        ∧ ∃ p : Fin 32, act p ∧ (∀ q, act q → c.vlid p.val ≤ c.vlid q.val)
          ∧ (∀ n, w.d = .g n → m.mode = 0 → s.pinBlocks c n.toNat (BitVec.ofNat 64 (c.vlid p.val)) = false →
              s.GivesG c (.elect w m) n (BitVec.ofNat 64 (c.vlid p.val)))
          ∧ (∀ n, w.d = .p n → m.mode = 1 → s.GivesP c (.elect w m) n (fun i => decide (i = p))))

/-- R163: what the scan operations compute on two lanes, and their identities: integer add wraps, the orders are those of the type, a
float minimum or maximum follows `VMIN` and `VMAX` (R152). -/
def Sys2Proof.Claim.ScanOperations : Prop :=
  ∀ x y : Lane,
    (∀ t, t = .i32 ∨ t = .n32 →
      scanOp t 0 x y = x + y ∧ scanOp t 3 x y = x &&& y ∧ scanOp t 4 x y = x ||| y ∧ scanOp t 5 x y = x ^^^ y
      ∧ (∀ op, op < 6 → scanOp t op (scanIdentity t op) x = x))
    ∧ scanOp .i32 1 x y = (if y.slt x then y else x) ∧ scanOp .i32 2 x y = (if x.slt y then y else x)
    ∧ scanOp .n32 1 x y = (if y.ult x then y else x) ∧ scanOp .n32 2 x y = (if x.ult y then y else x)
    ∧ (∀ op, op = 1 ∨ op = 2 → FVal.decode .f32 x.toNat ≠ .nan → scanOp .f32 op (scanIdentity .f32 op) x = x)
    ∧ scanOp .f32 1 x y = BitVec.ofNat 32 (vfElem .min .rne .f32 0 x.toNat y.toNat)
    ∧ scanOp .f32 2 x y = BitVec.ofNat 32 (vfElem .max .rne .f32 0 x.toNat y.toNat)

/-- The claims `ActiveLaneOperations`, `ScanOperations` together. Completion: `exec` answers a next state for `VOTE`, `PSCAN`, `MATCH`,
`REDL`, `ELECT`, `PCNT`. -/
def Obligations.LaneReductions : Prop :=
  Claim.ActiveLaneOperations
  ∧ Claim.ScanOperations

/-! ## Exact sums (spec/05 R167 to R173) -/

namespace Sys2Proof.Machine

/-- A word completes with `x` in the exact accumulator `n`, and changes nothing else. -/
def State.GivesX (s : State) (c : Ctx) (i : Instr) (n : Nat) (x : XAcc) : Prop :=
  ∃ t, exec i s = .next t ∧ s.Done t c c.nextPc [.xa n] ∧ (c.slugIn t).readX n = x

/-- The elements of a lane at a type, element 0 first (spec/04 R115). -/
def elementsOf (t : Ty) (x : Lane) : List FVal :=
  if t = .f16x2 ∨ t = .bf16x2 then
    [FVal.decode t.ffmt (x.extractLsb' 0 16).toNat, FVal.decode t.ffmt (x.extractLsb' 16 16).toNat]
  else [FVal.decode .f32 x.toNat]

/-- The active planes, ascending. -/
def Ctx.active (c : Ctx) : List (Fin 32) := (List.finRange 32).filter (fun i => c.act.getLsbD i.val)

/-- The sum of finite values. -/
def ratSum (l : List FVal) : ℚ := (l.map (fun v => v.rat.getD 0)).sum

end Sys2Proof.Machine

/-- R168, R169, R171: `XCLR`, `XADD`, `XSUB`, `XDOT` and `XMRG` change the accumulator they name and nothing else, and complete: the
active lanes' elements, or their products, are added one by one. -/
def Sys2Proof.Claim.ExactSumInstructions : Prop :=
  ∀ (w : Ops) (m : XsMod) (s : State) (c : Ctx), s.ctx w.h = some c →
    let d := m.xd.toNat
    let elems (o : Opnd) (i : Fin 32) : List FVal := elementsOf m.ty (c.m.srcV w 0 m.ty o i)
    let sum (f : Fin 32 → List FVal) : XAcc := (c.active.flatMap f).foldl XAcc.add (c.m.readX d)
    s.GivesX c (.xadd w m) d (sum (elems w.a))
    ∧ s.GivesX c (.xsub w m) d (sum (fun i => (elems w.a i).map FVal.neg))
    ∧ s.GivesX c (.xdot w m) d (sum (fun i => List.zipWith FVal.mul (elems w.a i) (elems w.b i)))
    ∧ (c.act ≠ 0 →
        s.GivesX c (.xclr w m) d {}
        ∧ s.GivesX c (.xmrg w m) d
            { nan := (c.m.readX d).nan || (c.m.readX m.xs.toNat).nan
              pinf := (c.m.readX d).pinf || (c.m.readX m.xs.toNat).pinf
              ninf := (c.m.readX d).ninf || (c.m.readX m.xs.toNat).ninf
              s := (c.m.readX d).s + (c.m.readX m.xs.toNat).s })

/-- R170: `XRND` delivers the sum rounded once, into a scalar register or into the active lane of least plane, changes nothing else,
and completes. -/
def Sys2Proof.Claim.ExactSumRoundInstruction : Prop :=
  ∀ (w : Ops) (m : XsMod) (s : State) (c : Ctx), s.ctx w.h = some c → c.act ≠ 0 →
    let x := c.m.readX m.xd.toNat
    ∃ y : Lane,
      ((x.nan = true ∨ (x.pinf = true ∧ x.ninf = true)) → y = 0x7FC00000)
      ∧ (x.nan = false → x.pinf = true → x.ninf = false → y = 0x7F800000)
      ∧ (x.nan = false → x.pinf = false → x.ninf = true → y = 0xFF800000)
      ∧ (x.nan = false → x.pinf = false → x.ninf = false →
          (x.s = 0 → y = if m.rm = .rdn then 0x80000000 else 0)
          ∧ (x.s ≠ 0 → m.rm ≠ .sr → |(x.s.toInt : ℚ) * (2 : ℚ) ^ (-298 : Int)| ≤ FFmt.f32.greatest →
              FFmt.f32.Rounds m.rm ((x.s.toInt : ℚ) * (2 : ℚ) ^ (-298 : Int)) y.toNat))
      ∧ (∀ n, w.d = .g n → s.pinBlocks c n.toNat (y.zeroExtend 64) = false → s.GivesG c (.xrnd w m) n (y.zeroExtend 64))
      ∧ (∀ n, w.d = .v n → ∃ t, exec (.xrnd w m) s = .next t ∧ s.Done t c c.nextPc [.v n.toNat]
          ∧ ∀ i : Fin 32, ((c.slugIn t).readV n.toNat)[i]
              = if c.act.getLsbD i.val ∧ (∀ k : Fin 32, k < i → c.act.getLsbD k.val = false) then y else (c.m.readV n.toNat)[i])

/-- The claims `ExactSumInstructions`, `ExactSumRoundInstruction` together. Completion: `exec` answers a next state for `XCLR`, `XADD`,
`XSUB`, `XDOT`, `XRND`, `XMRG`. -/
def Obligations.ExactSumForms : Prop :=
  Claim.ExactSumInstructions
  ∧ Claim.ExactSumRoundInstruction

/-- R172: the raw state after adding a list of terms does not depend on their order; and while the finite terms are few, the state
is their exact sum. -/
def Obligations.ExactSumIsExactAndOrderFree : Prop :=
  (∀ (x : XAcc) (l l' : List FVal), l.Perm l' → l.foldl XAcc.add x = l'.foldl XAcc.add x)
  ∧ (∀ l : List FVal, (∀ v ∈ l, ∃ s m e, v = .fin s m e ∧ -298 ≤ e ∧ (m : ℚ) * (2 : ℚ) ^ e < (2 : ℚ) ^ (256 : Int)) →
      l.length < 2 ^ 204 →
      let x := l.foldl XAcc.add {}
      x.nan = false ∧ x.pinf = false ∧ x.ninf = false ∧ (x.s.toInt : ℚ) * (2 : ℚ) ^ (-298 : Int) = ratSum l)
  ∧ (∀ v : FVal, XAcc.add {} .nan = { nan := true } ∧ XAcc.add {} (.inf false) = { pinf := true }
      ∧ XAcc.add {} (.inf true) = { ninf := true } ∧ (FVal.mul (.inf false) v = .nan ↔ v.isZero = true ∨ v = .nan))

/-! ## Scratchpad (spec/07 R235, spec/09 R271 to R275) -/

namespace Sys2Proof.Machine

/-- No transaction is open on the device and no slug sleeps, so that no access waits, conflicts or wakes a slug. -/
def State.Undisturbed (s : State) : Prop := s.txs = [] ∧ ∀ k j, (s.slug k j).wake = none

/-- The number that `n` little-endian bytes hold, as 128 bits. -/
def valueOf (bs : List Byte) : BitVec 128 := BitVec.ofNat 128 (natOf bs)

/-- A loaded element of `n` bytes in a scalar register (R272). -/
def loadedWord (sx : Bool) (n : Nat) (bs : List Byte) : Word :=
  if sx then ((valueOf bs).extractLsb' 0 (8 * n)).signExtend 64 else ((valueOf bs).extractLsb' 0 (8 * n)).zeroExtend 64

/-- Word `k` of a loaded element of `n` bytes in a lane (R272). -/
def loadedLane (sx : Bool) (n k : Nat) (bs : List Byte) : Lane :=
  if n < 4 then (if sx then ((valueOf bs).extractLsb' 0 (8 * n)).signExtend 32 else ((valueOf bs).extractLsb' 0 (8 * n)).zeroExtend 32)
  else (valueOf bs).extractLsb' (32 * k) 32

/-- The registers of an element of `n` bytes. -/
def loadRegs (r n : Nat) : List Loc := (List.range (max 1 (n / 4))).map (fun k => .v (r + k))

/-- The lanes of a loaded element's registers: `f` gives the bytes of each active lane, the others keep what they held. -/
def Ctx.loaded (c : Ctx) (t : State) (r n : Nat) (sx : Bool) (f : Fin 32 → List Byte) : Prop :=
  ∀ k, k < max 1 (n / 4) → ∀ i : Fin 32, ((c.slugIn t).readV (r + k))[i]
    = if c.act.getLsbD i.val then loadedLane sx n k (f i) else (c.m.readV (r + k))[i]

/-- Byte `j` of a store's data in a lane (R272, R273). -/
def Ctx.dataByte (c : Ctx) (o : Opnd) (i : Fin 32) (j : Nat) : Byte :=
  match o with
  | .v r => ((c.m.readV (r.toNat + j / 4))[i]).extractLsb' (8 * (j % 4)) 8
  | .g r => (c.m.readG r.toNat).extractLsb' (8 * j) 8
  | .const k => (k.signExtend 64).extractLsb' (8 * j) 8
  | _ => 0

/-- A store's data is one that R273 admits for the element's width. -/
def dataOk (o : Opnd) (n : Nat) : Prop :=
  match o with
  | .v _ => True
  | .g _ | .const _ => n ≤ 8
  | _ => False

/-- A pitch-window address (R235): the forme of the pitch that holds the part, and the offset in it, where the access of `n` bytes lies
within the part. -/
def State.InWindow (s : State) (fk a n k o : Nat) : Prop :=
  let f := s.forme fk
  a < 2 ^ 26 ∧ a / 2 ^ 21 < f.pw * f.ph ∧ k = fk - f.pidx + a / 2 ^ 21 ∧ o = a % 2 ^ 21 ∧ o + n ≤ s.spadSize k

/-- The mark of a memory form asks for no L1 action: none, or of the forme's own core alone (spec/07 R228). -/
def MarkLocal (m : MemMod) : Prop := m.mark = 0 ∨ beyondF m.obs = false

/-- The instruction of each vector load with its address of a lane, a pitch-window address where the form has one (R274). -/
def windowLoads (w : Ops) (m : MemMod) : List (Instr × (Ctx → Nat → Word)) :=
  [(.vldp w m, fun c l => c.m.srcG w 0 w.a + c.m.srcG w 0 w.b + BitVec.ofNat 64 (l * m.bytes)),
   (.vldxp w m, fun c l => c.m.srcG w 0 w.a + ((c.m.laneAt w.b l).zeroExtend 64 <<< m.sc.toNat))]

/-- The same of the vector stores to the pitch window. -/
def windowStores (w : Ops) (m : MemMod) : List (Instr × (Ctx → Nat → Word)) :=
  [(.vstp w m, fun c l => c.m.srcG w 0 w.a + c.m.srcG w 0 w.b + BitVec.ofNat 64 (l * m.bytes)),
   (.vstxp w m, fun c l => c.m.srcG w 0 w.a + ((c.m.laneAt w.b l).zeroExtend 64 <<< m.sc.toNat))]

/-- Two states differ in nothing but the issuing slug and scratchpad bytes. -/
structure State.ScratchOnly (s t : State) (fk sl : Nat) : Prop where
  device : { t with formes := s.formes } = s
  formes : ∀ k, { t.forme k with slugs := (s.forme k).slugs, scratch := (s.forme k).scratch } = s.forme k
  slugs : s.SlugsAs t fk sl

end Sys2Proof.Machine

/-- R235, R272 to R275: `LDP` reads, and `STP` writes, the bytes of the scratchpad part that its pitch-window address names; the load
changes its register alone, the store those bytes alone, and both complete. -/
def Sys2Proof.Claim.ScratchpadScalarForms : Prop :=
  ∀ (w : Ops) (m : MemMod) (s : State) (c : Ctx) (k o : Nat),
    s.ctx w.h = some c → c.act ≠ 0 → s.Undisturbed → MarkLocal m → m.w.toNat ≤ 3 →
    s.InWindow c.iss.fk (c.m.srcG w 0 w.a + c.m.srcG w 0 w.b).toNat m.bytes k o →
    (∀ n, w.d = .g n → ∀ y, y = loadedWord m.sx m.bytes (s.spadRead k o m.bytes) → s.pinBlocks c n.toNat y = false →
      s.GivesG c (.ldp w m) n y)
    ∧ (dataOk w.d m.bytes → (∀ r, w.d ≠ .v r) →
        ∃ t, exec (.stp w m) s = .next t ∧ s.Moved t c c.nextPc [] ∧ s.ScratchOnly t c.iss.fk c.iss.sl
          ∧ (∀ a, t.dram.look a = s.dram.look a)
          ∧ ∀ f a, (t.forme f).scratch.look a
              = if f = k ∧ o ≤ a ∧ a < o + m.bytes then c.dataByte w.d 0 (a - o) else (s.forme f).scratch.look a)

/-- R235, R272 to R275: a vector load from the pitch window fills each active lane of its registers from the part its address names,
and changes nothing else. -/
def Sys2Proof.Claim.ScratchpadVectorLoads : Prop :=
  ∀ (w : Ops) (m : MemMod) (s : State) (c : Ctx) (n : BitVec 7) (part : Fin 32 → Nat × Nat),
    s.ctx w.h = some c → s.Undisturbed → MarkLocal m → m.w.toNat ≤ 4 → w.d = .v n →
    ∀ x ∈ windowLoads w m,
      (∀ i : Fin 32, c.act.getLsbD i.val → s.InWindow c.iss.fk (x.2 c i.val).toNat m.bytes (part i).1 (part i).2) →
      ∃ t, exec x.1 s = .next t ∧ s.Done t c c.nextPc (loadRegs n.toNat m.bytes)
        ∧ c.loaded t n.toNat m.bytes m.sx (fun i => s.spadRead (part i).1 (part i).2 m.bytes)

/-- R235, R245, R272 to R275: a vector store to the pitch window writes each active lane's bytes to the part its address names, the
lane of greatest virtual lane id last, and no other byte of memory. -/
def Sys2Proof.Claim.ScratchpadVectorStores : Prop :=
  ∀ (w : Ops) (m : MemMod) (s : State) (c : Ctx) (part : Fin 32 → Nat × Nat),
    s.ctx w.h = some c → s.Undisturbed → MarkLocal m → m.w.toNat ≤ 4 → dataOk w.d m.bytes →
    ∀ x ∈ windowStores w m,
      (∀ i : Fin 32, c.act.getLsbD i.val → s.InWindow c.iss.fk (x.2 c i.val).toNat m.bytes (part i).1 (part i).2) →
      let covers (i : Fin 32) (f a : Nat) : Prop := c.act.getLsbD i.val ∧ f = (part i).1 ∧ (part i).2 ≤ a ∧ a < (part i).2 + m.bytes
      ∃ t, exec x.1 s = .next t ∧ s.Moved t c c.nextPc [] ∧ s.ScratchOnly t c.iss.fk c.iss.sl
        ∧ (∀ f a, (∀ i, ¬ covers i f a) → (t.forme f).scratch.look a = (s.forme f).scratch.look a)
        ∧ (∀ i f a, covers i f a → (∀ j, covers j f a → j ≠ i → c.vlid j.val < c.vlid i.val) →
            (t.forme f).scratch.look a = c.dataByte w.d i (a - (part i).2))

/-- R235: an address outside the issuing pitch's parts faults `CHK_BOUNDS` and the scalar access has no other effect than the fault's;
its record's detail holds the address. -/
def Sys2Proof.Claim.WindowAddressOutsideFaults : Prop :=
  ∀ (w : Ops) (m : MemMod) (s : State) (c : Ctx),
    s.ctx w.h = some c → c.act ≠ 0 → c.m.tx = none →
    let a := c.m.srcG w 0 w.a + c.m.srcG w 0 w.b
    (∀ k o, ¬ s.InWindow c.iss.fk a.toNat m.bytes k o) →
    let t := s.trap c
      { flt := { code := 0x03, d1 := a, win := a.toNat % 2 ^ 54 }, mask := c.act, mem := true, scalar := true }
    exec (.ldp w m) s = .next t ∧ exec (.stp w m) s = .next t

/-! ## Device memory (spec/07 R215 to R232, spec/09 R271 to R277) -/

namespace Sys2Proof.Machine

/-- The bytes of an access lie on one page whose translation the core holds, in ordinary memory, allowed, granted to the issuing
partition and not poisoned: the access passes every check of R275. -/
structure State.Mapped (s : State) (c : Ctx) (need : Need) (va n pa : Nat) (l : Leaf) : Prop where
  canonical : va < 2 ^ 54
  held : tlbLook (s.core c.core).tlb va = some l
  place : pa = l.frame + (va - l.base)
  page : va % 2 ^ 18 + n ≤ 2 ^ 18
  normal : l.mt = 0
  allowed : l.allows need = true
  clean : s.poisoned pa n = none
  owned : (s.frames.look (frameOf pa)).owner = some (s.partOf c)

/-- The core holds a whole copy of the line of a byte range, of the page's kind, and no partial of it. -/
structure State.Cached (s : State) (core pa n : Nat) (k : LineKind) : Prop where
  line : pa % 128 + n ≤ 128
  data : (s.l1Line core (lineOf pa)).data.length = 128
  kind : (s.l1Line core (lineOf pa)).kind = k
  valid : (s.l1Line core (lineOf pa)).valid = true
  noPartial : ((s.core core).partials.look (lineOf pa)).cells = []

/-- The bytes a core's copy holds. -/
def State.l1Bytes (s : State) (core pa n : Nat) : List Byte := ((s.l1Line core (lineOf pa)).data.drop (pa % 128)).take n

/-- No core holds a partial of the line, and the core has nothing of it to write back. -/
def State.QuietLine (s : State) (core line : Nat) : Prop :=
  (∀ k, ((s.core k).partials.look line).cells = []) ∧ (s.l1Line core line).dirty = 0

/-- The vector loads and stores of device memory, each with its address of a lane (R274). -/
def memoryLoads (w : Ops) (m : MemMod) : List (Instr × (Ctx → Nat → Word)) :=
  let base (c : Ctx) : Word := c.m.srcG w 0 w.a
  let packed (c : Ctx) (k : Nat) : Word := base c + BitVec.ofNat 64 (k * m.bytes)
  [(.vld w m, fun c l => c.m.srcG w 0 w.b + packed c l),
   (.vldx w m, fun c l => base c + ((c.m.laneAt w.b l).zeroExtend 64 <<< m.sc.toNat)),
   (.vlds w m, fun c l => base c + BitVec.ofNat 64 l * c.m.srcG w 0 w.b),
   (.vldc w m, fun c l => packed c ((c.active.filter (fun i => decide (i.val < l))).length))]

def memoryStores (w : Ops) (m : MemMod) : List (Instr × (Ctx → Nat → Word)) :=
  let base (c : Ctx) : Word := c.m.srcG w 0 w.a
  let packed (c : Ctx) (k : Nat) : Word := base c + BitVec.ofNat 64 (k * m.bytes)
  [(.vst w m, fun c l => c.m.srcG w 0 w.b + packed c l),
   (.vstx w m, fun c l => base c + ((c.m.laneAt w.b l).zeroExtend 64 <<< m.sc.toNat)),
   (.vsts w m, fun c l => base c + BitVec.ofNat 64 l * c.m.srcG w 0 w.b),
   (.vstc w m, fun c l => packed c ((c.active.filter (fun i => decide (i.val < l))).length))]

/-- Two states differ in nothing but the issuing slug, and one core's L1 lines. -/
structure State.L1Only (s t : State) (fk sl core : Nat) : Prop where
  device : { t with formes := s.formes, cores := s.cores } = s
  formes : ∀ k, { t.forme k with slugs := (s.forme k).slugs } = s.forme k
  slugs : s.SlugsAs t fk sl
  cores : ∀ k, k ≠ core → t.core k = s.core k
  core : { t.core core with l1 := (s.core core).l1 } = s.core core

/-- A byte of a core's L1, and whether it is dirty. -/
def State.l1Byte (s : State) (core a : Nat) : Byte × Bool :=
  ((s.l1Line core (lineOf a)).data.getD (a % 128) 0, (s.l1Line core (lineOf a)).dirty.getLsbD (a % 128))

end Sys2Proof.Machine

/-- R272 to R275, R228: `LD` of mapped memory reads through its core's L1 and writes its register; the line's own copy in the core
changes nothing at all. -/
def Sys2Proof.Claim.LoadWord : Prop :=
  ∀ (w : Ops) (m : MemMod) (s : State) (c : Ctx) (pa : Nat) (l : Leaf) (n : BitVec 6) (y : Word),
    s.ctx w.h = some c → c.act ≠ 0 → s.Undisturbed → m.w.toNat ≤ 3 → w.d = .g n → MarkLocal m → (m.mark ≠ 0 → l.kind ≠ .uo) →
    let a := c.m.srcG w 0 w.a + c.m.srcG w 0 w.b
    s.Mapped c .read a.toNat m.bytes pa l → lineOf pa = lineOf (pa + m.bytes - 1) →
    let r := s.l1Read c.core pa m.bytes l.kind (s.hotInfo c a.toNat l)
    y = loadedWord m.sx m.bytes r.2 → s.pinBlocks c n.toNat y = false →
    (∃ t, exec (.ld w m) s = .next t ∧ r.1.Done t c c.nextPc [.g n.toNat] ∧ (c.slugIn t).readG n.toNat = if n = 0 then 0 else y)
    ∧ (s.Cached c.core pa m.bytes l.kind → r.1 = s ∧ r.2 = s.l1Bytes c.core pa m.bytes)

/-- R272 to R275, R228: the vector loads of mapped memory whose lines the core holds fill each active lane of their registers with the
bytes at its address, and change nothing else; `VLDU` fills every active lane with one element. -/
def Sys2Proof.Claim.VectorLoads : Prop :=
  ∀ (w : Ops) (m : MemMod) (s : State) (c : Ctx) (n : BitVec 7),
    s.ctx w.h = some c → s.Undisturbed → MarkLocal m → m.w.toNat ≤ 4 → w.d = .v n → c.slot.part = none →
    (∀ (place : Fin 32 → Nat × Leaf), ∀ x ∈ memoryLoads w m,
      (∀ i : Fin 32, c.act.getLsbD i.val → s.Mapped c .read (x.2 c i.val).toNat m.bytes (place i).1 (place i).2
        ∧ s.Cached c.core (place i).1 m.bytes (place i).2.kind ∧ (m.mark ≠ 0 → (place i).2.kind ≠ .uo)) →
      ∃ t, exec x.1 s = .next t ∧ s.Done t c c.nextPc (loadRegs n.toNat m.bytes)
        ∧ c.loaded t n.toNat m.bytes m.sx (fun i => s.l1Bytes c.core (place i).1 m.bytes))
    ∧ (∀ (pa : Nat) (l : Leaf), s.Mapped c .read (c.m.srcG w 0 w.a + c.m.srcG w 0 w.b).toNat m.bytes pa l →
      s.Cached c.core pa m.bytes l.kind → (m.mark ≠ 0 → l.kind ≠ .uo) →
      ∃ t, exec (.vldu w m) s = .next t ∧ s.Done t c c.nextPc (loadRegs n.toNat m.bytes)
        ∧ c.loaded t n.toNat m.bytes m.sx (fun _ => s.l1Bytes c.core pa m.bytes))

/-- R272 to R275, R228, R229: a store to a page of kind RC or UO whose lines the core holds writes its bytes into the core's L1, marks
them dirty, and changes no byte of memory and nothing else; of two lanes that write one byte the one of greater virtual lane id
wins. -/
def Sys2Proof.Claim.StoresIntoL1 : Prop :=
  ∀ (w : Ops) (m : MemMod) (s : State) (c : Ctx),
    s.ctx w.h = some c → s.Undisturbed → MarkLocal m → m.w.toNat ≤ 4 → dataOk w.d m.bytes → c.slot.part = none →
    let ok (va pa : Nat) (l : Leaf) : Prop :=
      s.Mapped c .write va m.bytes pa l ∧ s.Cached c.core pa m.bytes l.kind ∧ l.kind ≠ .so ∧ (m.mark ≠ 0 → l.kind ≠ .uo)
    (∀ (place : Fin 32 → Nat × Leaf), ∀ x ∈ memoryStores w m,
      (∀ i : Fin 32, c.act.getLsbD i.val → ok (x.2 c i.val).toNat (place i).1 (place i).2) →
      let covers (i : Fin 32) (a : Nat) : Prop := c.act.getLsbD i.val ∧ (place i).1 ≤ a ∧ a < (place i).1 + m.bytes
      ∃ t, exec x.1 s = .next t ∧ s.Moved t c c.nextPc [] ∧ s.L1Only t c.iss.fk c.iss.sl c.core ∧ s.BytesAs t
        ∧ (∀ a, (∀ i, ¬ covers i a) → t.l1Byte c.core a = s.l1Byte c.core a)
        ∧ (∀ i a, covers i a → (∀ j, covers j a → j ≠ i → c.vlid j.val < c.vlid i.val) →
            t.l1Byte c.core a = (c.dataByte w.d i (a - (place i).1), true)))
    ∧ (∀ (pa : Nat) (l : Leaf), c.act ≠ 0 → m.w.toNat ≤ 3 → (∀ r, w.d ≠ .v r) →
      ok (c.m.srcG w 0 w.a + c.m.srcG w 0 w.b).toNat pa l →
      ∃ t, exec (.st w m) s = .next t ∧ s.Moved t c c.nextPc [] ∧ s.L1Only t c.iss.fk c.iss.sl c.core ∧ s.BytesAs t
        ∧ ∀ a, t.l1Byte c.core a
            = if pa ≤ a ∧ a < pa + m.bytes then (c.dataByte w.d 0 (a - pa), true) else s.l1Byte c.core a)

/-- R272 to R275, R227, R228, R237: a store to a page of kind SO is performed at the home: its bytes, and no other byte of memory, change
there, and the word completes; of two lanes that write one byte the one of greater virtual lane id wins. -/
def Sys2Proof.Claim.StoresAtTheHome : Prop :=
  ∀ (w : Ops) (m : MemMod) (s : State) (c : Ctx),
    s.ctx w.h = some c → s.Undisturbed → MarkLocal m → m.w.toNat ≤ 4 → dataOk w.d m.bytes → c.slot.part = none →
    let ok (va pa : Nat) (l : Leaf) : Prop :=
      s.Mapped c .write va m.bytes pa l ∧ l.kind = .so ∧ pa % 128 + m.bytes ≤ 128 ∧ s.QuietLine c.core (lineOf pa)
    let kept (t : State) : Prop := (∀ k a, (t.forme k).scratch.look a = (s.forme k).scratch.look a)
      ∧ (∀ k a, (t.forme k).acc.look a = (s.forme k).acc.look a) ∧ s.SlugsAs t c.iss.fk c.iss.sl ∧ t.frames = s.frames
    (∀ (place : Fin 32 → Nat × Leaf), ∀ x ∈ memoryStores w m,
      (∀ i : Fin 32, c.act.getLsbD i.val → ok (x.2 c i.val).toNat (place i).1 (place i).2) →
      let covers (i : Fin 32) (a : Nat) : Prop := c.act.getLsbD i.val ∧ (place i).1 ≤ a ∧ a < (place i).1 + m.bytes
      ∃ t, exec x.1 s = .next t ∧ s.Moved t c c.nextPc [] ∧ kept t
        ∧ (∀ a, (∀ i, ¬ covers i a) → t.physByte a = s.physByte a)
        ∧ (∀ i a, covers i a → (∀ j, covers j a → j ≠ i → c.vlid j.val < c.vlid i.val) →
            t.physByte a = c.dataByte w.d i (a - (place i).1)))
    ∧ (∀ (pa : Nat) (l : Leaf), c.act ≠ 0 → m.w.toNat ≤ 3 → (∀ r, w.d ≠ .v r) →
      ok (c.m.srcG w 0 w.a + c.m.srcG w 0 w.b).toNat pa l →
      ∃ t, exec (.st w m) s = .next t ∧ s.Moved t c c.nextPc [] ∧ kept t
        ∧ ∀ a, t.physByte a = if pa ≤ a ∧ a < pa + m.bytes then c.dataByte w.d 0 (a - pa) else s.physByte a)

/-- The claims `StoresIntoL1`, `StoresAtTheHome` together. Completion: `exec` answers a next state for `ST`, `VST`, `VSTX`, `VSTS`,
`VSTC`. -/
def Obligations.GlobalStores : Prop :=
  Claim.StoresIntoL1
  ∧ Claim.StoresAtTheHome

/-- R228, R237, R245, R246: a read after a write through the homes: whatever an SO store of one core wrote, a core without a stale copy
reads next, other bytes as they stood; and what a core stores into its own L1 it reads back. -/
def Obligations.ReadAfterWrite : Prop :=
  ∀ (s : State) (core other pa : Nat) (bs : List Byte) (h h' : HotInfo),
    s.Undisturbed → 0 < bs.length → pa % 128 + bs.length ≤ 128 →
    (∀ k, ((s.core k).partials.look (lineOf pa)).cells = []) →
    ((∀ k, (s.l1Line k (lineOf pa)).kind = .so ∧ (s.l1Line k (lineOf pa)).dirty = 0) →
      ((s.l1Write core pa bs .so h).l1Read other pa bs.length .so h').2 = bs)
    ∧ (∀ k, k ≠ .so → (s.l1Line core (lineOf pa)).data.length = 128 → (s.l1Line core (lineOf pa)).kind = k →
      ((s.l1Write core pa bs k h).l1Read core pa bs.length k h').2 = bs)

/-- R215 to R221: an address of bit 54 or above, or without a leaf, or on a page without the right, faults as the table says; the
word traps and does nothing else. -/
def Sys2Proof.Claim.UnmappedOrForbiddenAccessFaults : Prop :=
  ∀ (w : Ops) (m : MemMod) (s : State) (c : Ctx),
    s.ctx w.h = some c → c.act ≠ 0 → c.m.tx = none → m.mark = 0 →
    let a := c.m.srcG w 0 w.a + c.m.srcG w 0 w.b
    let faults (i : Instr) (f : Flt) : Prop :=
      exec i s = .next (s.trap c { flt := f, mask := c.act, mem := true, scalar := true })
    a.toNat % 2 ^ 18 + m.bytes ≤ 2 ^ 18 →
    (2 ^ 54 ≤ a.toNat → faults (.ld w m) { code := 0x10, reason := 0x02, va := a.toNat % 2 ^ 54 }
        ∧ faults (.st w m) { code := 0x10, reason := 0x02, va := a.toNat % 2 ^ 54 })
    ∧ (∀ l, a.toNat < 2 ^ 54 → tlbLook (s.core c.core).tlb a.toNat = some l → l.mt = 0 →
        s.poisoned (l.frame + (a.toNat - l.base)) m.bytes = none →
        let own := (s.frames.look (frameOf (l.frame + (a.toNat - l.base)))).owner
        (own ≠ some (s.partOf c) → faults (.ld w m) { code := 0x11, reason := 0x06, va := a.toNat, d1 := l.hi }
          ∧ faults (.st w m) { code := 0x11, reason := 0x06, va := a.toNat, d1 := l.hi })
        ∧ (own = some (s.partOf c) →
            (l.r = false → faults (.ld w m) { code := 0x11, reason := 0x0B, va := a.toNat, d1 := l.hi })
            ∧ (l.w = false → faults (.st w m) { code := 0x11, reason := 0x0B, va := a.toNat, d1 := l.hi })))
    ∧ (a.toNat < 2 ^ 54 → tlbLook (s.core c.core).tlb a.toNat = none → tlbLook (s.cluster (clusterOf c.core)).tlb a.toNat = none →
        s.walk a.toNat = none → s.absentReason a.toNat = 0x01 →
        faults (.ld w m) { code := 0x10, reason := 0x01, va := a.toNat }
          ∧ faults (.st w m) { code := 0x10, reason := 0x01, va := a.toNat })

/-- R215 to R217: the walk indexes the four tables by bits [53:45], [44:36], [35:27] and [26:18] of the address and ends at the first
present leaf, whose page its level sizes. -/
def Sys2Proof.Claim.WalkIndexesFourTables : Prop :=
  ∀ (s : State) (va t2 t1 t0 : Nat), va < 2 ^ 54 →
    let e3 := s.entry s.root (va / 2 ^ 45)
    let e2 := s.entry t2 (va / 2 ^ 36 % 512)
    let e1 := s.entry t1 (va / 2 ^ 27 % 512)
    let e0 := s.entry t0 (va / 2 ^ 18 % 512)
    let leaf (e : Word × Word) : Prop := e.1.getLsbD 0 = true ∧ e.1.getLsbD 1 = true
    let part := (e3.2.extractLsb' 0 6).toNat
    let found (e : Word × Word) (lv : Nat) : Option Leaf :=
      some { lo := e.1, hi := e.2, level := lv, part := part, base := va / 2 ^ (18 + 9 * lv) * 2 ^ (18 + 9 * lv) }
    (nextTable e3.1 e3.2 true = none → s.walk va = none)
    ∧ (nextTable e3.1 e3.2 true = some t2 →
        (leaf e2 → s.walk va = found e2 2)
        ∧ (¬ leaf e2 → nextTable e2.1 e2.2 false = none → s.walk va = none)
        ∧ (¬ leaf e2 → nextTable e2.1 e2.2 false = some t1 →
            (leaf e1 → s.walk va = found e1 1)
            ∧ (¬ leaf e1 → nextTable e1.1 e1.2 false = none → s.walk va = none)
            ∧ (¬ leaf e1 → nextTable e1.1 e1.2 false = some t0 →
                (leaf e0 → s.walk va = found e0 0) ∧ (¬ leaf e0 → s.walk va = none))))

/-- The claims `UnmappedOrForbiddenAccessFaults`, `WalkIndexesFourTables` together. -/
def Obligations.TranslationAndItsFaults : Prop :=
  Claim.UnmappedOrForbiddenAccessFaults
  ∧ Claim.WalkIndexesFourTables

/-- R277, R228, R229: `PF` and `PFX` bring lines into the core's L1 and change no register and no byte of memory when no core holds a
partial and the L1 has room; `LWB` writes a mapped line's dirty bytes at its home, `LINV` does so and drops the line; a line that is
not mapped is left alone. All complete. -/
def Sys2Proof.Claim.LineForms : Prop :=
  ∀ (w : Ops) (m : MemMod) (s : State) (c : Ctx), s.ctx w.h = some c → s.Undisturbed →
    let room (u : State) : Prop := ∀ k, (u.core k).l1.length + (u.core k).partials.length + 32 < (u.core k).l1Lines
    let kept (t : State) : Prop := s.Moved t c c.nextPc [] ∧ s.SlugsAs t c.iss.fk c.iss.sl
    ((∀ k line, ((s.core k).partials.look line).cells = []) → room s →
        (∃ t, exec (.pfx w m) s = .next t ∧ kept t ∧ s.BytesAs t)
        ∧ (c.act ≠ 0 → ∃ t, exec (.pf w m) s = .next t ∧ kept t ∧ s.BytesAs t))
    ∧ (c.act ≠ 0 → ∀ pa l,
        let a := c.m.srcG w 0 w.a
        s.Mapped c .read a.toNat 1 pa l →
        (∀ k, ((s.core k).partials.look (lineOf pa)).cells = []) →
        let L := s.l1Line c.core (lineOf pa)
        let home (t : State) : Prop := ∀ b, t.physByte b
          = if lineOf b = lineOf pa ∧ L.dirty.getLsbD (b % 128) then L.data.getD (b % 128) 0 else s.physByte b
        (∃ t, exec (.lwb w m) s = .next t ∧ kept t ∧ home t ∧ (t.l1Line c.core (lineOf pa)).dirty = 0)
        ∧ (∃ t, exec (.linv w m) s = .next t ∧ kept t ∧ home t ∧ t.l1Line c.core (lineOf pa) = {}))
    ∧ (c.act ≠ 0 → 2 ^ 54 ≤ (c.m.srcG w 0 w.a).toNat →
        (∃ t, exec (.lwb w m) s = .next t ∧ s.Done t c c.nextPc [])
        ∧ (∃ t, exec (.linv w m) s = .next t ∧ s.Done t c c.nextPc []))

/-- The claims `LoadWord`, `VectorLoads`, `LineForms` together. Completion: `exec` answers a next state for `LD`, `VLD`, `VLDX`, `VLDS`,
`VLDU`, `VLDC`, `PF`, `PFX`, `LWB`, `LINV`. -/
def Obligations.GlobalLoads : Prop :=
  Claim.LoadWord
  ∧ Claim.VectorLoads
  ∧ Claim.LineForms

/-! ## Formatted elements and accumulators in memory (spec/09 R276, spec/05 R171) -/

namespace Sys2Proof.Machine

/-- `bs` are the `n` bytes at an address that passes its checks: in the pitch window, or in mapped memory whose line the core
holds. -/
def State.Readable (s : State) (c : Ctx) (win : Bool) (va n : Nat) (bs : List Byte) : Prop :=
  if win then ∃ k o, s.InWindow c.iss.fk va n k o ∧ bs = s.spadRead k o n
  else ∃ pa l, s.Mapped c .read va n pa l ∧ s.Cached c.core pa n l.kind ∧ bs = s.l1Bytes c.core pa n

/-- Element number `k` of the tensor at `a`, of width `b` bits, that stands in region `r` (R276). -/
def formattedElem (c : Ctx) (i : Fin 32) (a : Word) (b k : Nat) (r : Region) : FElem :=
  { lane := i.val, vlid := c.vlid i.val, va := (a + BitVec.ofNat 64 (k * b / 8)).toNat, shift := k * b % 8, reg := r }

end Sys2Proof.Machine

/-- R276, R111, R112: `VLDF` and `VLDFP` fill each active lane with the element its index names, of the width that the attribute at the
tensor's first byte gives, decoded by the attribute of the page or segment that holds it, with its block's scale; they change nothing
else. -/
def Sys2Proof.Claim.FormattedLoads : Prop :=
  ∀ (w : Ops) (m : MemMod) (s : State) (c : Ctx) (n v : BitVec 7) (first : Region) (reg : Fin 32 → Region)
      (data scale : Fin 32 → List Byte),
    s.ctx w.h = some c → s.Undisturbed → MarkLocal m → w.d = .v n → w.b = .v v →
    ∀ x ∈ ([(.vldf w m, false), (.vldfp w m, true)] : List (Instr × Bool)),
      let a := c.m.srcG w 0 w.a
      s.regionAt c x.2 a.toNat = some first →
      let e (i : Fin 32) : FElem := formattedElem c i a (fmtWidth first.fmt) ((c.m.readV v.toNat)[i]).toNat (reg i)
      (∀ i : Fin 32, c.act.getLsbD i.val →
        s.regionAt c x.2 (e i).va = some (reg i) ∧ (e i).past = false ∧ s.Readable c x.2 (e i).va (e i).n (data i)
          ∧ (hasBlocks (reg i).fmt = true → (e i).scaleAt ≠ (e i).va ∧ s.Readable c x.2 (e i).scaleAt 2 (scale i))
          ∧ (m.mark ≠ 0 → x.2 = false → ∀ va l, va = (e i).va ∨ va = (e i).scaleAt →
              tlbLook (s.core c.core).tlb va = some l → l.kind ≠ .uo)) →
      ∃ t, exec x.1 s = .next t ∧ s.Done t c c.nextPc [.v n.toNat]
        ∧ c.lanesAre t n.toNat (fun i => (e i).value (data i) (if hasBlocks (reg i).fmt then scale i else []))

/-- R276, R107, R109: what a formatted load delivers of an element's bits: an unscaled float exactly, an integer extended as its kind
says, a scaled float the product with its scale rounded once to F32. -/
def Sys2Proof.Claim.FormattedElementValue : Prop :=
  ∀ (e : FElem) (data scale : List Byte),
    let bits := natOf data / 2 ^ e.shift % 2 ^ fmtWidth e.reg.fmt
    (e.reg.fmt ≤ 9 → ∀ r, (fmtTy e.reg.fmt).ffmt.rat bits = some r → FFmt.f32.rat (e.value data scale).toNat = some r)
    ∧ (11 ≤ e.reg.fmt → e.reg.fmt ≤ 16 →
        e.value data scale = BitVec.ofInt 32 (if (fmtTy e.reg.fmt).signed
          then (BitVec.ofNat (fmtWidth e.reg.fmt) bits).toInt else bits))
    ∧ (17 ≤ e.reg.fmt → e.reg.fmt ≤ 21 → e.reg.geo.getLsbD 2 = false →
        ∀ r, (fmtTy e.reg.fmt).ffmt.rat bits = some r →
          let sb := (scale.getD 0 0).toNat
          (sb = 255 → (e.value data scale).toNat = FFmt.f32.nanCode)
          ∧ (sb ≠ 255 → |r * (2 : ℚ) ^ ((sb : Int) - 127)| ≤ FFmt.f32.greatest →
              FFmt.f32.Rounds .rne (r * (2 : ℚ) ^ ((sb : Int) - 127)) (e.value data scale).toNat))

/-- R276: `VSTF` encodes each active lane into its element and stores the element's bytes: to RC and UO pages whose lines the core holds
into its L1, changing no other byte; a page of a format it does not write faults `FORMAT_PAIR` with no element performed. -/
def Sys2Proof.Claim.FormattedStore : Prop :=
  ∀ (w : Ops) (m : MemMod) (s : State) (c : Ctx) (d v : BitVec 7) (first : Region) (place : Fin 32 → Nat × Leaf),
    s.ctx w.h = some c → s.Undisturbed → MarkLocal m → w.d = .v d → w.b = .v v →
    let a := c.m.srcG w 0 w.a
    s.regionAt c false a.toNat = some first →
    let e (i : Fin 32) : FElem := formattedElem c i a (fmtWidth first.fmt) ((c.m.readV v.toNat)[i]).toNat first
    let inPlace (i : Fin 32) : Prop := s.regionAt c false (e i).va = some first
      ∧ s.Mapped c .write (e i).va (e i).n (place i).1 (place i).2
      ∧ s.Cached c.core (place i).1 (e i).n (place i).2.kind ∧ (place i).2.kind ≠ .so ∧ (m.mark ≠ 0 → (place i).2.kind ≠ .uo)
    (∀ i : Fin 32, c.act.getLsbD i.val → inPlace i) →
    let covers (i : Fin 32) (b : Nat) : Prop := c.act.getLsbD i.val ∧ (place i).1 ≤ b ∧ b < (place i).1 + (e i).n
    (storable first.fmt = true →
      ∃ t, exec (.vstf w m) s = .next t ∧ s.Moved t c c.nextPc [] ∧ s.L1Only t c.iss.fk c.iss.sl c.core ∧ s.BytesAs t
        ∧ (∀ b, (∀ i, ¬ covers i b) → t.l1Byte c.core b = s.l1Byte c.core b)
        ∧ (∀ i b, covers i b → (∀ j, covers j b → j ≠ i → c.vlid j.val < c.vlid i.val) →
            t.l1Byte c.core b = (BitVec.ofNat 8 (storedElem first.fmt (c.m.readV d.toNat)[i] / 256 ^ (b - (place i).1)), true)))
    ∧ (storable first.fmt = false → ∀ i : Fin 32, c.act.getLsbD i.val →
        (∀ j : Fin 32, c.act.getLsbD j.val → j ≠ i → c.vlid i.val < c.vlid j.val) →
        exec (.vstf w m) s = .next (s.trap c
          { flt := { code := 0x08, va := (e i).va % 2 ^ 54 }, mask := c.act, mem := true, scalar := false, part := some c.act }))

/-- The claims `FormattedLoads`, `FormattedElementValue`, `FormattedStore` together. Completion: `exec` answers a next state for `VLDF`,
`VLDFP`, `VSTF`. -/
def Obligations.FormattedForms : Prop :=
  Claim.FormattedLoads
  ∧ Claim.FormattedElementValue
  ∧ Claim.FormattedStore

/-- R171, R167: `XLD` reads the 96 bytes of an accumulator at an aligned address, and `XST` writes them: S little-endian in bytes 0 to 94,
the flags in byte 95. -/
def Sys2Proof.Claim.AccumulatorLoadAndStore : Prop :=
  ∀ (w : Ops) (m : XsMod) (s : State) (c : Ctx), s.ctx w.h = some c → c.act ≠ 0 → s.Undisturbed →
    let a := c.m.srcG w 0 w.a
    let x := c.m.readX m.xd.toNat
    let raw (k : Nat) : Byte := if k < 95 then x.s.extractLsb' (8 * k) 8
      else BitVec.ofBool x.nan ++ BitVec.ofBool x.pinf ++ BitVec.ofBool x.ninf ++ 0#5
    a.toNat % 8 = 0 →
    (∀ bytes : List Byte, bytes.length = 96 →
      (∀ k, k < 12 → s.Readable c m.sp (a + BitVec.ofNat 64 (8 * k)).toNat 8 ((bytes.drop (8 * k)).take 8)) →
      s.GivesX c (.xld w m) m.xd.toNat
        { nan := (bytes.getD 95 0).getLsbD 7, pinf := (bytes.getD 95 0).getLsbD 6, ninf := (bytes.getD 95 0).getLsbD 5
          s := BitVec.ofNat 760 (natOf bytes) })
    ∧ (∀ k o, m.sp = true → s.InWindow c.iss.fk a.toNat 96 k o →
        ∃ t, exec (.xst w m) s = .next t ∧ s.Moved t c c.nextPc [] ∧ s.ScratchOnly t c.iss.fk c.iss.sl
          ∧ (∀ b, t.dram.look b = s.dram.look b)
          ∧ ∀ f b, (t.forme f).scratch.look b = if f = k ∧ o ≤ b ∧ b < o + 96 then raw (b - o) else (s.forme f).scratch.look b)
    ∧ (∀ pa l, m.sp = false → l.kind ≠ .so →
        (∀ k, k < 12 → s.Mapped c .write (a + BitVec.ofNat 64 (8 * k)).toNat 8 (pa + 8 * k) l
          ∧ s.Cached c.core (pa + 8 * k) 8 l.kind) →
        ∃ t, exec (.xst w m) s = .next t ∧ s.Moved t c c.nextPc [] ∧ s.L1Only t c.iss.fk c.iss.sl c.core ∧ s.BytesAs t
          ∧ ∀ b, t.l1Byte c.core b = if pa ≤ b ∧ b < pa + 96 then (raw (b - pa), true) else s.l1Byte c.core b)

/-- The claims `ScratchpadScalarForms`, `ScratchpadVectorLoads`, `ScratchpadVectorStores`, `WindowAddressOutsideFaults`,
`AccumulatorLoadAndStore` together. Completion: `exec` answers a next state for `LDP`, `STP`, `VLDP`, `VSTP`, `VLDXP`, `VSTXP`, `XLD`,
`XST`. -/
def Obligations.WindowForms : Prop :=
  Claim.ScratchpadScalarForms
  ∧ Claim.ScratchpadVectorLoads
  ∧ Claim.ScratchpadVectorStores
  ∧ Claim.WindowAddressOutsideFaults
  ∧ Claim.AccumulatorLoadAndStore

/-! ## Atomics, reductions and fences (spec/09 R279 to R287, spec/07 R228 to R231) -/

namespace Sys2Proof.Machine

/-- A location of an atomic access in memory: mapped, aligned, not on a UO page, in a line that is quiet. -/
structure State.Located (s : State) (c : Ctx) (need : Need) (va n pa : Nat) (l : Leaf) : Prop where
  mapped : s.Mapped c need va n pa l
  notUo : l.kind ≠ .uo
  alignedVa : va % n = 0
  aligned : pa % n = 0
  quiet : s.QuietLine c.core (lineOf pa)

/-- The mark of an atomic form asks for no L1 action. -/
def AtMarkLocal (m : AtMod) : Prop := m.mark = 0 ∨ beyondF m.obs = false

/-- The number that the bytes of a location hold. -/
def State.numberAt (s : State) (pa n : Nat) : Nat := natOf (s.physBytes pa n)

/-- Memory after one location was given a number: its bytes, and no other. -/
def State.Stored (s t : State) (pa n x : Nat) : Prop :=
  ∀ a, t.physByte a = if pa ≤ a ∧ a < pa + n then BitVec.ofNat 8 (x / 256 ^ (a - pa)) else s.physByte a

/-- What an access performed at a home leaves alone: scratchpad, accumulators, every other slug. -/
structure State.HomeOnly (s t : State) (fk sl : Nat) : Prop where
  scratch : ∀ k a, (t.forme k).scratch.look a = (s.forme k).scratch.look a
  acc : ∀ k a, (t.forme k).acc.look a = (s.forme k).acc.look a
  slugs : s.SlugsAs t fk sl
  frames : t.frames = s.frames

/-- The active lanes whose place is `p`, in ascending virtual lane id. -/
def Ctx.lanesAt (c : Ctx) (place : Fin 32 → Nat × Nat) (p : Nat × Nat) : List (Fin 32) :=
  (c.byVlid.map (Fin.ofNat 32)).filter (fun i => place i = p)

/-- What lane `i` finds at its place: the starting number, changed by the lanes of lower virtual lane id at the same place. -/
def Ctx.found (c : Ctx) (place : Fin 32 → Nat × Nat) (f : Fin 32 → Nat → Nat) (start : Nat) (i : Fin 32) : Nat :=
  ((c.lanesAt place (place i)).takeWhile (· ≠ i)).foldl (fun x j => f j x) start

/-- What a place holds after every lane there. -/
def Ctx.leaves (c : Ctx) (place : Fin 32 → Nat × Nat) (f : Fin 32 → Nat → Nat) (start : Nat) (p : Nat × Nat) : Nat :=
  (c.lanesAt place p).foldl (fun x j => f j x) start

/-- The operand of a type that a lane of a register, or of the register pair of a 64-bit type, holds. -/
def Ctx.operand (c : Ctx) (t : Ty) (r : Nat) (i : Fin 32) : Nat :=
  if t.bytes = 8 then ((c.m.readV (r + 1))[i] ++ (c.m.readV r)[i]).toNat else ((c.m.readV r)[i]).toNat

/-- The same of an operand that may also be a scalar register or a small constant, alike in every lane (R280): a constant as its element
type reads it (R74). -/
def Ctx.operandOf (c : Ctx) (t : Ty) (o : Opnd) (i : Fin 32) : Nat :=
  match o with
  | .v r => c.operand t r.toNat i
  | .g r => (c.m.readG r.toNat).toNat % 2 ^ (8 * t.bytes)
  | .const k => if t.flt then (constLane t k).toNat else (k.signExtend 64).toNat % 2 ^ (8 * t.bytes)
  | _ => 0

/-- An operand is a scalar register or a small constant. -/
def ScalarSource (o : Opnd) : Prop := (∃ r, o = .g r) ∨ (∃ k, o = .const k)

/-- An operand is a register or a small constant. -/
def LaneSource (o : Opnd) : Prop := (∃ r, o = .v r) ∨ ScalarSource o

/-- The element address of an indexed form (R280). -/
def Ctx.indexAt (c : Ctx) (w : Ops) (m : AtMod) (i : Fin 32) : Nat :=
  (c.m.srcG w 0 w.a + ((c.m.laneAt w.b i.val).zeroExtend 64 <<< m.sc.toNat)).toNat

end Sys2Proof.Machine

/-- R281: what each operation makes of the old value and the operand: integer add wraps, the logical operations are bitwise, minimum and
maximum follow the type's order, exchange takes the operand; a float add is rounded to nearest, a float minimum or maximum is that
of `VMINN` and `VMAXN`, element by element. -/
def Sys2Proof.Claim.AtomicOperations : Prop :=
  (∀ (n : Nat) (sg : Bool) (t : Ty) (x y : BitVec n), (t, n, sg) ∈ ([(.i32, 32, true), (.n32, 32, false), (.i64, 64, true), (.n64, 64, false)] : List (Ty × Nat × Bool)) →
    amo 0 t x.toNat y.toNat = (x + y).toNat ∧ amo 1 t x.toNat y.toNat = (x &&& y).toNat ∧ amo 2 t x.toNat y.toNat = (x ||| y).toNat
    ∧ amo 3 t x.toNat y.toNat = (x ^^^ y).toNat
    ∧ amo 4 t x.toNat y.toNat = (if (if sg then y.slt x else y.ult x) then y else x).toNat
    ∧ amo 5 t x.toNat y.toNat = (if (if sg then x.slt y else x.ult y) then y else x).toNat
    ∧ amo 6 t x.toNat y.toNat = y.toNat)
  ∧ (∀ (x y : Lane) (t : Ty), t = .f32 ∨ t = .f16x2 ∨ t = .bf16x2 →
      let each (o : VFOp) : Nat := (eachElement t (fun f a b => vfElem o .rne f 0 a b) x y).toNat
      amo 0 t x.toNat y.toNat = each .add ∧ amo 4 t x.toNat y.toNat = each .minn ∧ amo 5 t x.toNat y.toNat = each .maxn
        ∧ amo 6 t x.toNat y.toNat = y.toNat)

/-- R280, R281, R255, R256: a scalar atomic in memory returns the old value of its location and changes the location in one step; it
changes no other byte and no other register, and completes. -/
def Sys2Proof.Claim.ScalarAtomics : Prop :=
  ∀ (w : Ops) (m : AtMod) (s : State) (c : Ctx) (n : BitVec 6) (pa : Nat) (l : Leaf),
    s.ctx w.h = some c → c.act ≠ 0 → s.Undisturbed → AtMarkLocal m → w.d = .g n → ScalarSource w.b →
    s.Located c .both (c.m.srcG w 0 w.a).toNat m.ty.bytes pa l →
    let old := s.numberAt pa m.ty.bytes
    let b := c.operandOf m.ty w.b 0
    let y : Word := if m.ty.signed then (BitVec.ofNat (8 * m.ty.bytes) old).signExtend 64 else BitVec.ofNat 64 old
    s.pinBlocks c n.toNat y = false →
    let gives (i : Instr) (new : Nat) : Prop := ∃ t, exec i s = .next t ∧ s.Moved t c c.nextPc [.g n.toNat]
      ∧ (c.slugIn t).readG n.toNat = (if n = 0 then 0 else y) ∧ s.Stored t pa m.ty.bytes new ∧ s.HomeOnly t c.iss.fk c.iss.sl
    gives (.amo w m) (amo m.op.toNat m.ty old b)
      ∧ gives (.cas w m) (if old = c.operandOf m.ty w.d 0 then b else old)

/-- R280, R281: `CAS2` compares 16 bytes with its register pair, swaps them if equal, and returns the old bytes to the pair. -/
def Sys2Proof.Claim.CompareAndSwapPair : Prop :=
  ∀ (w : Ops) (m : AtMod) (s : State) (c : Ctx) (n k : BitVec 6) (pa : Nat) (l : Leaf),
    s.ctx w.h = some c → c.act ≠ 0 → s.Undisturbed → AtMarkLocal m → w.d = .g n → w.b = .g k → n.toNat + 1 < 64 →
    s.Located c .both (c.m.srcG w 0 w.a).toNat 16 pa l →
    let old := s.numberAt pa 16
    let lo : Word := BitVec.ofNat 64 old
    let hi : Word := BitVec.ofNat 64 (old / 2 ^ 64)
    let pair (r : Nat) : Nat := (c.m.readG r).toNat + 2 ^ 64 * (c.m.readG (r + 1)).toNat
    s.pinBlocks c n.toNat lo = false → s.pinBlocks c (n.toNat + 1) hi = false →
    ∃ t, exec (.cas2 w m) s = .next t ∧ s.Moved t c c.nextPc [.g n.toNat, .g (n.toNat + 1)]
      ∧ (c.slugIn t).readG n.toNat = (if n = 0 then 0 else lo) ∧ (c.slugIn t).readG (n.toNat + 1) = hi
      ∧ s.Stored t pa 16 (if old = pair n.toNat then pair k.toNat else old) ∧ s.HomeOnly t c.iss.fk c.iss.sl

/-- The claims `AtomicOperations`, `ScalarAtomics`, `CompareAndSwapPair` together. Completion: `exec` answers a next state for `AMO`,
`CAS`, `CAS2`. -/
def Obligations.AtomicForms : Prop :=
  Claim.AtomicOperations
  ∧ Claim.ScalarAtomics
  ∧ Claim.CompareAndSwapPair

/-- R235, R280 to R282: the atomics of the pitch window, scalar and vector: each lane returns what it found, lanes that name one place
following each other in ascending virtual lane id, and the place holds what the last of them left. -/
def Sys2Proof.Claim.WindowAtomics : Prop :=
  ∀ (w : Ops) (m : AtMod) (s : State) (c : Ctx), s.ctx w.h = some c → s.Undisturbed → AtMarkLocal m →
    let n := m.ty.bytes
    (∀ (d : BitVec 6) (k o : Nat), c.act ≠ 0 → w.d = .g d → ScalarSource w.b → (c.m.srcG w 0 w.a).toNat % n = 0 →
      s.InWindow c.iss.fk (c.m.srcG w 0 w.a).toNat n k o →
      let old := natOf (s.spadRead k o n)
      let y : Word := if m.ty.signed then (BitVec.ofNat (8 * n) old).signExtend 64 else BitVec.ofNat 64 old
      let new := amo m.op.toNat m.ty old (c.operandOf m.ty w.b 0)
      s.pinBlocks c d.toNat y = false →
      ∃ t, exec (.amop w m) s = .next t ∧ s.Moved t c c.nextPc [.g d.toNat] ∧ s.ScratchOnly t c.iss.fk c.iss.sl
        ∧ (c.slugIn t).readG d.toNat = (if d = 0 then 0 else y)
        ∧ ∀ f a, (t.forme f).scratch.look a
            = if f = k ∧ o ≤ a ∧ a < o + n then BitVec.ofNat 8 (new / 256 ^ (a - o)) else (s.forme f).scratch.look a)
    ∧ (∀ (place : Fin 32 → Nat × Nat), LaneSource w.d →
      (∀ i : Fin 32, c.act.getLsbD i.val → c.indexAt w m i % n = 0 ∧ s.InWindow c.iss.fk (c.indexAt w m i) n (place i).1 (place i).2) →
      let start (p : Nat × Nat) : Nat := natOf (s.spadRead p.1 p.2 n)
      let f (i : Fin 32) (x : Nat) : Nat := amo m.op.toNat m.ty x (c.operandOf m.ty w.d i)
      let after (t : State) : Prop := (∀ k a, (∀ i : Fin 32, c.act.getLsbD i.val → ¬(k = (place i).1 ∧ (place i).2 ≤ a ∧ a < (place i).2 + n)) →
            (t.forme k).scratch.look a = (s.forme k).scratch.look a)
          ∧ ∀ i : Fin 32, c.act.getLsbD i.val → natOf (t.spadRead (place i).1 (place i).2 n) = c.leaves place f (start (place i)) (place i)
      (∀ d : BitVec 7, w.d = .v d → ∃ t, exec (.vamop w m) s = .next t ∧ s.Moved t c c.nextPc (loadRegs d.toNat n) ∧ s.ScratchOnly t c.iss.fk c.iss.sl
        ∧ c.loaded t d.toNat n false (fun i => bytesOf n (c.found place f (start (place i)) i)) ∧ after t)
      ∧ (∃ t, exec (.vredp w m) s = .next t ∧ s.Moved t c c.nextPc [] ∧ s.ScratchOnly t c.iss.fk c.iss.sl ∧ after t))

/-- R280 to R282, R255: the vector atomics of memory: each lane returns what it found, lanes of one location following each other in
ascending virtual lane id, and the location holds what the last of them left; no other byte changes. -/
def Sys2Proof.Claim.VectorAtomics : Prop :=
  ∀ (w : Ops) (m : AtMod) (s : State) (c : Ctx) (d : BitVec 7) (place : Fin 32 → Nat × Nat) (leaf : Fin 32 → Leaf),
    s.ctx w.h = some c → s.Undisturbed → AtMarkLocal m → w.d = .v d →
    let n := m.ty.bytes
    (∀ i : Fin 32, c.act.getLsbD i.val → (place i).1 = 0 ∧ s.Located c .both (c.indexAt w m i) n (place i).2 (leaf i)) →
    let start (p : Nat × Nat) : Nat := s.numberAt p.2 n
    let gives (i : Instr) (f : Fin 32 → Nat → Nat) : Prop :=
      ∃ t, exec i s = .next t ∧ s.Moved t c c.nextPc (loadRegs d.toNat n) ∧ s.HomeOnly t c.iss.fk c.iss.sl
        ∧ c.loaded t d.toNat n false (fun i => bytesOf n (c.found place f (start (place i)) i))
        ∧ (∀ a, (∀ i : Fin 32, c.act.getLsbD i.val → ¬((place i).2 ≤ a ∧ a < (place i).2 + n)) → t.physByte a = s.physByte a)
        ∧ ∀ i : Fin 32, c.act.getLsbD i.val → t.numberAt (place i).2 n = c.leaves place f (start (place i)) (place i)
    gives (.vamo w m) (fun i x => amo m.op.toNat m.ty x (c.operand m.ty d.toNat i))
      ∧ gives (.vcas w m) (fun i x =>
          if x = c.operand m.ty d.toNat i then c.operand m.ty (d.toNat + n / 4) i else x)

/-- The claims `WindowAtomics`, `VectorAtomics` together. Completion: `exec` answers a next state for `VAMO`, `VCAS`, `AMOP`, `VAMOP`,
`VREDP`. -/
def Obligations.VectorAndWindowAtomics : Prop :=
  Claim.WindowAtomics
  ∧ Claim.VectorAtomics

/-- R283, R230, R284: a reduction is performed at the home on an SO page, and enters the core's partial of its line on an RC page,
starting from the operation's identity, where the core has a partial of that operation and type or room for a new one; it writes no
register and completes. -/
def Sys2Proof.Claim.Reductions : Prop :=
  ∀ (w : Ops) (m : AtMod) (s : State) (c : Ctx), s.ctx w.h = some c → s.Undisturbed → AtMarkLocal m →
    let n := m.ty.bytes
    let op := m.op.toNat
    let room : Prop := (s.core c.core).l1.length + (s.core c.core).partials.length + 32 ≤ (s.core c.core).l1Lines
    let partialOk (pa : Nat) : Prop :=
      let p := (s.core c.core).partials.look (lineOf pa)
      (p.cells = [] ∧ room) ∨ (p.cells ≠ [] ∧ p.op = op ∧ p.ty = m.ty)
    let cell (u : State) (pa : Nat) : Nat :=
      ((((u.core c.core).partials.look (lineOf pa)).cells.look pa).getD (BitVec.ofNat 64 (redIdentity op m.ty))).toNat
    (∀ pa l, c.act ≠ 0 → ScalarSource w.b →
      let b := c.operandOf m.ty w.b 0
      s.Mapped c .write (c.m.srcG w 0 w.a).toNat n pa l → (c.m.srcG w 0 w.a).toNat % n = 0 → pa % n = 0 → (s.l1Line c.core (lineOf pa)).dirty = 0 →
      (l.kind = .so → s.QuietLine c.core (lineOf pa) →
        ∃ t, exec (.red w m) s = .next t ∧ s.Moved t c c.nextPc [] ∧ s.HomeOnly t c.iss.fk c.iss.sl
          ∧ s.Stored t pa n (amo op m.ty (s.numberAt pa n) b))
      ∧ (l.kind = .rc → partialOk pa →
        ∃ t, exec (.red w m) s = .next t ∧ s.Moved t c c.nextPc [] ∧ s.HomeOnly t c.iss.fk c.iss.sl ∧ s.BytesAs t
          ∧ cell t pa = amo op m.ty (cell s pa) b))
    ∧ (∀ (place : Fin 32 → Nat × Nat) (leaf : Fin 32 → Leaf), LaneSource w.d →
      (∀ i : Fin 32, c.act.getLsbD i.val → (place i).1 = 0 ∧ s.Mapped c .write (c.indexAt w m i) n (place i).2 (leaf i)
        ∧ c.indexAt w m i % n = 0 ∧ (place i).2 % n = 0 ∧ (s.l1Line c.core (lineOf (place i).2)).dirty = 0) →
      let f (i : Fin 32) (x : Nat) : Nat := amo op m.ty x (c.operandOf m.ty w.d i)
      ((∀ i : Fin 32, c.act.getLsbD i.val → (leaf i).kind = .so ∧ s.QuietLine c.core (lineOf (place i).2)) →
        ∃ t, exec (.vred w m) s = .next t ∧ s.Moved t c c.nextPc [] ∧ s.HomeOnly t c.iss.fk c.iss.sl
          ∧ (∀ a, (∀ i : Fin 32, c.act.getLsbD i.val → ¬((place i).2 ≤ a ∧ a < (place i).2 + n)) → t.physByte a = s.physByte a)
          ∧ ∀ i : Fin 32, c.act.getLsbD i.val → t.numberAt (place i).2 n = c.leaves place f (s.numberAt (place i).2 n) (place i))
      ∧ ((∀ i : Fin 32, c.act.getLsbD i.val → (leaf i).kind = .rc ∧ partialOk (place i).2) →
        ∃ t, exec (.vred w m) s = .next t ∧ s.Moved t c c.nextPc [] ∧ s.HomeOnly t c.iss.fk c.iss.sl ∧ s.BytesAs t
          ∧ ∀ i : Fin 32, c.act.getLsbD i.val → cell t (place i).2 = c.leaves place f (cell s (place i).2) (place i)))

/-- R286, R287, R253, R228: a fence with an observer beyond its forme's core leaves its core no RC or UO line and no partial, one with no
such observer changes nothing; `FENCEX` waits while a command of its classes is not over; `FLUSHU` sends the core's partials home,
where each is applied. -/
def Sys2Proof.Claim.Fences : Prop :=
  ∀ (w : Ops) (m : FnMod) (s : State) (c : Ctx), s.ctx w.h = some c → c.act ≠ 0 → s.Undisturbed →
    Sparse.wf (s.core c.core).l1 = true →
    let mask := if m.lve then (s.launchOf c).scope m.lv.toNat else m.obs
    let wide : Bool := decide (mask &&& 0x7E ≠ 0)
    let ordered (i : Instr) : Prop := ∃ t, exec i s = .next t ∧ s.Moved t c c.nextPc [] ∧ s.HomeOnly t c.iss.fk c.iss.sl
      ∧ (wide = true → ∀ line, (t.l1Line c.core line).kind = .so ∧ ((t.core c.core).partials.look line).cells = [])
      ∧ (wide = false → s.Done t c c.nextPc [])
    ordered (.fence w m)
    ∧ (s.commandsLeft c.iss.fk c.iss.sl mask = false → ordered (.fencex w m))
    ∧ (s.commandsLeft c.iss.fk c.iss.sl mask = true → exec (.fencex w m) s = .next s.hold)
    ∧ (∃ t, exec (.flushu w m) s = .next t ∧ s.Moved t c c.nextPc [] ∧ s.HomeOnly t c.iss.fk c.iss.sl
        ∧ (∀ line, ((t.core c.core).partials.look line).cells = [])
        ∧ ∀ pa v p, (s.core c.core).partials = [(lineOf pa, p)] → p.cells = [(pa, some v)] → pa % p.ty.bytes = 0 →
            s.Stored t pa p.ty.bytes (amo p.op p.ty (s.numberAt pa p.ty.bytes) v.toNat))

/-- The claims `Reductions`, `Fences` together. Completion: `exec` answers a next state for `RED`, `VRED`, `FENCE`, `FENCEX`, `FLUSHU`. -/
def Obligations.ReductionsAndFences : Prop :=
  Claim.Reductions
  ∧ Claim.Fences

/-! ## Control instructions (spec/05 R136 to R141, spec/01 R34 to R46) -/

namespace Sys2Proof.Machine

/-- A branch target (R137): the word's address plus eight times its signed offset field of `n` bits, or plus the signed extension word. -/
def jumpTarget (a : Addr) (w : Ops) (n : Nat) (imm : BitVec 14) : Addr :=
  match w.x with
  | none => BitVec.ofInt 54 (a.toNat + 8 * (imm.extractLsb' 0 n).toInt)
  | some x => BitVec.ofInt 54 (a.toNat + x.toInt)

/-- The conditions of `BRC` on a signed value (R136). -/
def branchHolds (cc : BitVec 3) (x : Int) : Bool :=
  match cc.toNat with
  | 0 => x == 0
  | 1 => x != 0
  | 2 => decide (x < 0)
  | 3 => decide (0 ≤ x)
  | 4 => decide (0 < x)
  | _ => decide (x ≤ 0)

/-- A word completes, its path goes on at `pc`, and nothing else changes. -/
def State.Goes (s : State) (c : Ctx) (i : Instr) (pc : Addr) : Prop := ∃ t, exec i s = .next t ∧ s.Done t c pc []

/-- A slug with one path, in the slot of the issuing path, that is not parked. -/
structure Ctx.Alone (c : Ctx) : Prop where
  other : (c.m.slot (!c.iss.b)).path = none
  stack : c.m.stack = []
  running : c.path.pk = false

/-- The two paths of a slug after a split of a slug with one path: the one with the smaller PC keeps the slot, the other takes the
free one; both wait for the word's port cycles and STALL. -/
def State.SplitInto (s : State) (c : Ctx) (i : Instr) (lo hi : Path) : Prop :=
  ∃ t, exec i s = .next t ∧ s.OutsideAs t c.iss.fk c.iss.sl ∧ c.m.RegsBut (c.slugIn t) []
    ∧ (c.slugIn t).stack = c.m.stack ∧ (c.slugIn t).tx = c.m.tx ∧ (c.slugIn t).hnd = c.m.hnd
    ∧ (c.slugIn t).slot c.iss.b = { c.slotAt s.cyc 0 with path := some lo }
    ∧ (c.slugIn t).slot (!c.iss.b)
        = { c.slotAt s.cyc 0 with path := some hi, lastIssue := (c.m.slot (!c.iss.b)).lastIssue }

/-- The lanes of a mask that have exited stand in the remap table as exited, and no other entry of it changes (spec/02 R67). -/
def Forme.ExitedAs (f f' : Forme) (sl : Nat) (gone : Mask) : Prop :=
  ∀ v, f'.remap.look v
    = if v ∈ ((List.range 32).filter gone.getLsbD).map (f.vlidAt sl) then { f.remap.look v with dead := true } else f.remap.look v

end Sys2Proof.Machine

/-- R137, R138, R86: where the branches with an active lane send their path; they change nothing else, but for the link register of
`CALL`, which receives the address of the next word. -/
def Sys2Proof.Claim.ControlTransfers : Prop :=
  ∀ (w : Ops) (m : AluMod) (s : State) (c : Ctx), s.ctx w.h = some c → c.act ≠ 0 →
    let reg : Word := c.m.srcG w 0 w.a
    s.Goes c (.nop w m) c.nextPc
    ∧ s.Goes c (.bra w m) (jumpTarget c.path.pc w 14 m.imm)
    ∧ s.Goes c (.brc w m) (if branchHolds (m.imm.extractLsb' 11 3) (c.m.srcG w m.imm w.a).toInt
        then jumpTarget c.path.pc w 11 m.imm else c.nextPc)
    ∧ (∀ n, w.a = .g n → s.Goes c (.ret w m) (reg.extractLsb' 0 54))
    ∧ (∀ n, w.a = .g n →
        s.Goes c (.jmpt w m) (c.path.pc + 8 + 8 * BitVec.ofNat 54 (min reg.toNat (m.imm.extractLsb' 0 8).toNat)))
    ∧ (∀ n, w.d = .g n → s.pinBlocks c n.toNat (c.nextPc.zeroExtend 64) = false →
        ∃ t, exec (.call w m) s = .next t ∧ s.Done t c
            (if m.imm.getLsbD 13 then reg.extractLsb' 0 54 else jumpTarget c.path.pc w 13 m.imm) [.g n.toNat]
          ∧ (c.slugIn t).readG n.toNat = if n = 0 then 0 else c.nextPc.zeroExtend 64)

/-- R54, R138: a scalar control word without an active lane moves its path to the next word and changes nothing else. -/
def Sys2Proof.Claim.ControlWithoutActiveLane : Prop :=
  ∀ (w : Ops) (m : AluMod) (s : State) (c : Ctx), s.ctx w.h = some c → c.act = 0 →
    ∀ i ∈ ([.nop w m, .bra w m, .brc w m, .call w m, .ret w m, .jmpt w m, .yield w m, .launch w m] : List Instr), s.Goes c i c.nextPc

/-- R34, R35, R139: `BRV` in a slug with one path: with no taken lane it falls through, with no other lane (or the target next) it jumps,
otherwise the path splits, the smaller PC keeping the slot; a split in a transaction faults. -/
def Sys2Proof.Claim.VectorBranchSplits : Prop :=
  ∀ (w : Ops) (m : AluMod) (s : State) (c : Ctx) (n : BitVec 4), s.ctx w.h = some c → c.Alone → w.a = .p n →
    let taken : Mask := c.act &&& (if m.imm.getLsbD 13 then ~~~(c.m.readP n.toNat) else c.m.readP n.toNat)
    let rest : Mask := c.path.mask &&& ~~~taken
    let pc := jumpTarget c.path.pc w 13 m.imm
    (taken = 0 → s.Goes c (.brv w m) c.nextPc)
    ∧ (taken ≠ 0 → (rest = 0 ∨ pc = c.nextPc) → s.Goes c (.brv w m) pc)
    ∧ (taken ≠ 0 → rest ≠ 0 → pc ≠ c.nextPc → c.m.tx = none →
        (pc.toNat < c.nextPc.toNat → s.SplitInto c (.brv w m) { pc := pc, mask := taken } { pc := c.nextPc, mask := rest })
        ∧ (c.nextPc.toNat < pc.toNat → s.SplitInto c (.brv w m) { pc := c.nextPc, mask := rest } { pc := pc, mask := taken }))
    ∧ (taken ≠ 0 → rest ≠ 0 → pc ≠ c.nextPc → c.m.tx ≠ none → exec (.brv w m) s = .next (s.trapCode c 0x32))

/-- R34, R35, R38, R39: a split whose other slot is taken pushes the path with the larger PC onto the stack, and faults `DIV_DEPTH` with
no other effect once the stack holds 64 entries; the entry stands in the first 1 KiB of the slug's private memory, written through the L1 of
the slug's core. -/
def Sys2Proof.Claim.DivergenceStackPush : Prop :=
  ∀ (w : Ops) (m : AluMod) (s : State) (c : Ctx) (n : BitVec 4) (q : Path), s.ctx w.h = some c → w.a = .p n →
    (c.m.slot (!c.iss.b)).path = some q → q.pk = false → (∀ e ∈ c.m.stack, e.pk = false) → s.Undisturbed →
    let taken : Mask := c.act &&& (if m.imm.getLsbD 13 then ~~~(c.m.readP n.toNat) else c.m.readP n.toNat)
    let rest : Mask := c.path.mask &&& ~~~taken
    let pc := jumpTarget c.path.pc w 13 m.imm
    taken ≠ 0 → rest ≠ 0 → pc ≠ c.nextPc →
    let t1 : Path := { pc := pc, mask := taken }
    let t2 : Path := { pc := c.nextPc, mask := rest }
    let pushed : Path := if pc.toNat < c.nextPc.toNat then t2 else t1
    let entry (k : Nat) : Byte := BitVec.ofNat 8 ((pushed.mask.toNat * 2 ^ 96 + pushed.pc.toNat / 8 * 8) / 256 ^ k)
    let place (k : Nat) : Nat := s.privBase c.iss.fk c.iss.sl + 16 * k
    (c.m.stack.length < 64 →
      ∃ t, exec (.brv w m) s = .next t ∧ s.SlugsAs t c.iss.fk c.iss.sl ∧ c.m.RegsBut (c.slugIn t) []
        ∧ ((∀ k, k < c.m.stack.length → ∃ pa l, s.Mapped c .read (place k) 16 pa l ∧ s.Cached c.core pa 16 l.kind) →
            ∀ pa l, s.Mapped c .write (place c.m.stack.length) 16 pa l → s.Cached c.core pa 16 l.kind → l.kind ≠ .so →
              s.L1Only t c.iss.fk c.iss.sl c.core ∧ s.BytesAs t
              ∧ ∀ b, t.l1Byte c.core b = if pa ≤ b ∧ b < pa + 16 then (entry (b - pa), true) else s.l1Byte c.core b)
        ∧ (c.slugIn t).slot (!c.iss.b) = c.m.slot (!c.iss.b)
        ∧ (c.slugIn t).slot c.iss.b = { c.slotAt s.cyc 0 with path := some (if pc.toNat < c.nextPc.toNat then t1 else t2) }
        ∧ (c.slugIn t).stack = c.m.stack ++ [pushed])
    ∧ (64 ≤ c.m.stack.length → exec (.brv w m) s = .next (s.trapCode c 0x06))

/-- R36: `JOIN` in a slug with one path: the whole path goes on at J + 8; lanes that the predicate disables leave as a path of their own
at J + 8 while the enabled ones park at J; where the other slot's path is parked at J, the two become one path there. That a `JOIN` which
leaves lanes behind faults inside a transaction is the model's reading (log entry 44). -/
def Sys2Proof.Claim.JoinParksAndMerges : Prop :=
  ∀ (w : Ops) (m : AluMod) (s : State) (c : Ctx), s.ctx w.h = some c → c.m.stack = [] → c.path.pk = false → c.path.mask ≠ 0 →
    c.iss.occ = 1 →
    let rest : Mask := c.path.mask &&& ~~~c.act
    let ready := max (s.cyc + c.iss.occ + c.iss.stall) (c.m.landed s.cyc)
    let joined (t : State) (b : Bool) (k : Mask) : Prop :=
      ((c.slugIn t).slot b).path = some { pk := false, pc := c.path.pc + 8, mask := k }
        ∧ ((c.slugIn t).slot b).readyAt = ready ∧ ((c.slugIn t).slot b).pend = [] ∧ ((c.slugIn t).slot (!b)).path = none
        ∧ (c.slugIn t).stack = []
    (∀ y, (c.m.slot (!c.iss.b)).path = y → c.act ≠ 0 → rest = 0 →
      (y = none → ∃ t, exec (.join w m) s = .next t ∧ s.OutsideAs t c.iss.fk c.iss.sl ∧ c.m.RegsBut (c.slugIn t) []
        ∧ joined t c.iss.b c.act)
      ∧ (∀ k, y = some { pk := true, pc := c.path.pc, mask := k } →
        ∃ t, exec (.join w m) s = .next t ∧ s.OutsideAs t c.iss.fk c.iss.sl ∧ c.m.RegsBut (c.slugIn t) []
          ∧ joined t false (c.act ||| k)))
    ∧ (c.Alone → c.act = 0 → s.Goes c (.join w m) c.nextPc)
    ∧ (c.Alone → c.act ≠ 0 → rest ≠ 0 → c.m.tx ≠ none → exec (.join w m) s = .next (s.trapCode c 0x32))
    ∧ (c.Alone → c.act ≠ 0 → rest ≠ 0 → c.m.tx = none →
        s.SplitInto c (.join w m) { pk := true, pc := c.path.pc, mask := c.act } { pc := c.nextPc, mask := rest })

/-- R36: after the steps of R36 none of them applies any more, and no lane of the slug has come or gone: no two paths are parked at one
point; a free slot leaves no running path on the stack, nor does a parked slot; and not every path is parked. -/
def Sys2Proof.Claim.PathsSettled : Prop :=
  ∀ (m : Slug) (ready : Path → Nat), m.stack.length ≤ 64 →
    let u := m.settle ready 512
    let stackParked : Prop := ∀ e ∈ u.stack, e.pk = true
    u.liveLanes = m.liveLanes
    ∧ (u.allPaths.filter (·.pk)).Pairwise (fun p q => p.pc ≠ q.pc)
    ∧ ((u.a.path = none ∨ u.b.path = none) → stackParked)
    ∧ (∀ b p, (u.slot b).path = some p → p.pk = true → stackParked)
    ∧ (u.allPaths = [] ∨ ∃ p ∈ u.allPaths, p.pk = false)
    ∧ u.stack.length ≤ m.stack.length

/-- The claims `VectorBranchSplits`, `DivergenceStackPush`, `JoinParksAndMerges`, `PathsSettled` together. Completion: `exec` answers a
next state for `BRV`, `JOIN`. -/
def Obligations.Divergence : Prop :=
  Claim.VectorBranchSplits
  ∧ Claim.DivergenceStackPush
  ∧ Claim.JoinParksAndMerges
  ∧ Claim.PathsSettled

/-- R34 to R37, R39: `BRV`, `JOIN` and `EXIT` complete in every slug, whatever paths it holds, where no split faults (and `EXIT` leaves a
lane): the word's own split, parking or retiring comes first, then the steps of R36, which `PathsSettled` describes; no register and no
other slug changes. -/
def Sys2Proof.Claim.PathFormsInEverySlug : Prop :=
  ∀ (w : Ops) (m : AluMod) (s : State) (c : Ctx), s.ctx w.h = some c → s.Undisturbed →
    let b := c.iss.b
    let becomes (i : Instr) (u : Slug) : Prop :=
      ∃ t, exec i s = .next t ∧ c.slugIn t = u.settle (c.readyFor c.m s.cyc) 512 ∧ s.SlugsAs t c.iss.fk c.iss.sl
    let at' (pc : Addr) : Slug := c.m.putSlot b (c.slotAt s.cyc pc)
    let with' (u : Slug) (p : Path) : Slug := u.putSlot b { c.slotAt s.cyc 0 with path := some p }
    let splits (i : Instr) (lo hi : Path) : Prop :=
      ((c.m.slot (!b)).path = none →
        becomes i ((with' c.m lo).putSlot (!b) { c.slotAt s.cyc 0 with path := some hi, lastIssue := (c.m.slot (!b)).lastIssue }))
      ∧ ((c.m.slot (!b)).path ≠ none → c.m.stack.length < 64 → becomes i { with' c.m lo with stack := c.m.stack ++ [hi] })
    (∀ n : BitVec 4, w.a = .p n →
      let taken : Mask := c.act &&& (if m.imm.getLsbD 13 then ~~~(c.m.readP n.toNat) else c.m.readP n.toNat)
      let rest : Mask := c.path.mask &&& ~~~taken
      let pc := jumpTarget c.path.pc w 13 m.imm
      (taken = 0 → becomes (.brv w m) (at' c.nextPc))
      ∧ (taken ≠ 0 → (rest = 0 ∨ pc = c.nextPc) → becomes (.brv w m) (at' pc))
      ∧ (taken ≠ 0 → rest ≠ 0 → pc.toNat < c.nextPc.toNat →
          splits (.brv w m) { pc := pc, mask := taken } { pc := c.nextPc, mask := rest })
      ∧ (taken ≠ 0 → rest ≠ 0 → c.nextPc.toNat < pc.toNat →
          splits (.brv w m) { pc := c.nextPc, mask := rest } { pc := pc, mask := taken }))
    ∧ (let rest : Mask := c.path.mask &&& ~~~c.act
      let here : Path := { pk := true, pc := c.path.pc, mask := c.act }
      (c.act = 0 → becomes (.join w m) (at' c.nextPc))
      ∧ (c.act ≠ 0 → rest = 0 → becomes (.join w m) (with' c.m here))
      ∧ (c.act ≠ 0 → rest ≠ 0 → splits (.join w m) here { pc := c.nextPc, mask := rest })
      ∧ (c.act ≠ 0 → c.act ≠ c.m.liveLanes → c.f.gathers = [] →
          (rest = 0 → becomes (.exit w m)
            (c.m.putSlot b { c.slotAt s.cyc 0 with path := none, pend := [], yielding := none }))
          ∧ (rest ≠ 0 → becomes (.exit w m) (with' c.m { pc := c.nextPc, mask := rest }))))

/-- R37, R67, R57: `EXIT` retires its enabled lanes: the remap table marks them, the others go on at the next word; with the slug's last
lane the slug ends, its slot becomes free, and with the forme's last slug the forme ends. -/
def Sys2Proof.Claim.ExitRetiresLanes : Prop :=
  ∀ (w : Ops) (m : AluMod) (s : State) (c : Ctx), s.ctx w.h = some c → c.m.tx = none → c.f.gathers = [] → s.Undisturbed →
    c.f.slugs.wf = true →
    let k := c.iss.fk
    (c.act = 0 → s.Goes c (.exit w m) c.nextPc)
    ∧ (c.Alone → c.act ≠ 0 → c.act ≠ c.path.mask → c.act &&& c.path.mask = c.act →
        ∃ t, exec (.exit w m) s = .next t
          ∧ (c.slugIn t).slot c.iss.b
              = { c.slotAt s.cyc 0 with path := some { pc := c.nextPc, mask := c.path.mask &&& ~~~c.act } }
          ∧ c.m.RegsBut (c.slugIn t) [] ∧ c.m.RestAs (c.slugIn t) c.iss.b
          ∧ c.f.ExitedAs (t.forme k) c.iss.sl c.act ∧ s.SlugsAs t k c.iss.sl ∧ s.BytesAs t
          ∧ { t with formes := s.formes } = s
          ∧ { t.forme k with slugs := c.f.slugs, remap := c.f.remap } = c.f)
    ∧ (c.act ≠ 0 → c.act = c.m.liveLanes → (c.m.owner = false ∨ s.engineBusy k true = false) →
        ∃ t, exec (.exit w m) s = .next t ∧ (c.slugIn t).live = false ∧ (c.slugIn t).ended = true
          ∧ c.f.ExitedAs (t.forme k) c.iss.sl c.act ∧ s.SlugsAs t k c.iss.sl ∧ (∀ a, t.dram.look a = s.dram.look a)
          ∧ (t.core c.f.core).slots.look c.m.h = none
          ∧ (∀ h, h ≠ c.m.h → (t.core c.f.core).slots.look h = (s.core c.f.core).slots.look h)
          ∧ ((∃ j, j ≠ c.iss.sl ∧ (s.slug k j).live = true) → (t.forme k).place = c.f.place)
          ∧ ((∀ j, j ≠ c.iss.sl → (s.slug k j).live = false) → (t.forme k).place = .ended))
    ∧ (c.act ≠ 0 → c.act = c.m.liveLanes → c.m.owner = true → s.engineBusy k true = true → exec (.exit w m) s = .next s.hold)

/-- R40, R41, R42: `RECAST` of a path that is not eligible completes without waiting; an eligible slug that is the only one its gathering
can expect goes on at once with its lanes; otherwise it stops and the gathering opens with its hold. -/
def Sys2Proof.Claim.RecastGathers : Prop :=
  ∀ (w : Ops) (m : AluMod) (s : State) (c : Ctx), s.ctx w.h = some c →
    let eligible : Prop := c.m.paths = 1 ∧ c.m.tx = none ∧ c.m.hnd = none ∧ c.path.mask ≠ 0xFFFFFFFF
    let other (j : Nat) : Prop := j ≠ c.iss.sl ∧ (s.slug c.iss.fk j).live = true ∧ (s.slug c.iss.fk j).liveLanes ≠ 0xFFFFFFFF
    let outside (t : State) : Prop := s.SlugsAs t c.iss.fk c.iss.sl ∧ { t with formes := s.formes } = s ∧ s.BytesAs t
    (¬ eligible → s.Goes c (.recast w m) c.nextPc)
    ∧ (eligible → c.f.gathers = [] → c.f.slugs.wf = true → c.path.mask ≠ 0 → (¬ ∃ j, other j) →
        ∃ t, exec (.recast w m) s = .next t ∧ outside t ∧ c.m.RegsBut (c.slugIn t) [] ∧ (c.slugIn t).gathering = none
          ∧ (t.forme c.iss.fk).gathers = []
          ∧ (c.slugIn t).allPaths = [{ pk := false, pc := c.path.pc + 8, mask := c.path.mask }])
    ∧ (eligible → c.f.gathers = [] → (∃ j, other j) →
        ∃ t, exec (.recast w m) s = .next t ∧ outside t ∧ c.m.RegsBut (c.slugIn t) []
          ∧ (c.slugIn t).gathering = some c.path.pc ∧ ((c.slugIn t).slot c.iss.b).path = some c.path
          ∧ (t.forme c.iss.fk).gathers
              = [{ pc := c.path.pc, slugs := [c.iss.sl], close := s.cyc + 16 * (m.imm.extractLsb' 0 8).toNat }])

/-- The claims `PathFormsInEverySlug`, `ExitRetiresLanes`, `RecastGathers` together. Completion: `exec` answers a next state for `BRV`,
`JOIN`, `EXIT`, `RECAST`. -/
def Obligations.PathsEndAndRegroup : Prop :=
  Claim.PathFormsInEverySlug
  ∧ Claim.ExitRetiresLanes
  ∧ Claim.RecastGathers

/-- R139, R140: `YIELD` keeps its path from issuing for its count of cycles after the STALL, and changes nothing else; `LAUNCH` reads the
record of a child, submits it for its checks with a depth one greater, and goes on while its destination waits. -/
def Sys2Proof.Claim.YieldAndLaunch : Prop :=
  ∀ (w : Ops) (m : AluMod) (s : State) (c : Ctx), s.ctx w.h = some c → c.act ≠ 0 →
    (∃ t, exec (.yield w m) s = .next t ∧ s.OutsideAs t c.iss.fk c.iss.sl ∧ c.m.RegsBut (c.slugIn t) []
      ∧ c.m.RestAs (c.slugIn t) c.iss.b
      ∧ (c.slugIn t).slot c.iss.b = { c.slotAt s.cyc c.nextPc with
          yielding := some (s.cyc + c.iss.occ + c.iss.stall + (m.imm.extractLsb' 0 10).toNat) })
    ∧ (∀ (n a : BitVec 6) (pa : Nat) (l : Leaf), w.d = .g n → w.a = .g a → s.Undisturbed → Sparse.wf (s.core c.core).l1 = true →
        s.Mapped c .read (c.m.readG a.toNat).toNat 512 pa l → (c.m.readG a.toNat).toNat % 64 = 0 →
        (∀ j, j < 4 → s.Cached c.core (pa + 128 * j) 128 l.kind) → pa % 128 = 0 →
        ∃ t k, exec (.launch w m) s = .next t ∧ 16384 ≤ k ∧ (s.launch k).st = .none
          ∧ (t.launch k).st = .checking ∧ (t.launch k).depth = (s.launchOf c).depth + 1 ∧ (t.launch k).part = (s.launchOf c).part
          ∧ (t.launch k).origin = .device c.iss.fk c.iss.sl (BitVec.ofNat 8 n.toNat) c.iss.b c.path.pc c.act
          ∧ (∀ j, j ≠ k → t.launch j = s.launch j)
          ∧ c.m.RegsBut (c.slugIn t) [] ∧ (c.slugIn t).pendingG = c.m.pendingG ++ [BitVec.ofNat 8 (0x80 + n.toNat)]
          ∧ (c.slugIn t).slot c.iss.b = c.slotAt s.cyc c.nextPc)

/-- The claims `ControlTransfers`, `ControlWithoutActiveLane`, `YieldAndLaunch` together. Completion: `exec` answers a next state for
`NOP`, `BRA`, `BRC`, `CALL`, `RET`, `JMPT`, `YIELD`, `LAUNCH`. -/
def Obligations.ControlFlowForms : Prop :=
  Claim.ControlTransfers
  ∧ Claim.ControlWithoutActiveLane
  ∧ Claim.YieldAndLaunch

/-! ## Exceptions, the handler, special registers (spec/18 R448 to R466, spec/02 R58 to R66, spec/15 R417) -/

namespace Sys2Proof.Machine

/-- The state outside the formes, memory with its L2, poison and free choices, the launches' galleys and the agenda is unchanged. -/
def State.DeviceAs (s t : State) : Prop :=
  { t with formes := s.formes, dram := s.dram, lineGen := s.lineGen, l2 := s.l2, poison := s.poison, fresh := s.fresh,
           launches := s.launches, cores := s.cores, agenda := s.agenda } = s

/-- What `HRET` does after a fault, by its code (R448). -/
def returnKind (code : Nat) : Resume :=
  if code ∈ [0x02] then .reissue else if code ∈ [0x0C] then .continue else if code ∈ [0x10] then .replay else .fail

/-- The codes after which `HSKIP` may skip a memory or atomic form (R448). -/
def skipCodes : List Nat := [0x03, 0x04, 0x05, 0x08, 0x09, 0x0A, 0x0B, 0x10, 0x11, 0x13]

/-- The handler's entry for a partition (R455, R456): firmware's default handler, or the partition's object at its entry. -/
def Partition.EntryIs (q : Partition) (pc : Addr) (firmware : Bool) : Prop :=
  (q.hoh = none → pc = 0 ∧ firmware = true)
    ∧ ∀ oh, q.hoh = some oh → pc = BitVec.ofNat 54 (oh * 2 ^ 32 + q.hentryUsed) ∧ firmware = false

/-- A slug after the handler was entered for a fault of its path in slot `b` (R454). -/
structure Slug.HandlerEntered (m u : Slug) (b : Bool) (i : TrapInfo) (record : List Word) (q : Partition) (now : Nat) : Prop where
  regs : m.RegsBut u []
  other : u.slot (!b) = m.slot (!b)
  stack : u.stack = m.stack
  tx : u.tx = none
  handling : ∃ h pc, u.hnd = some h ∧ q.EntryIs pc h.firmware
    ∧ u.slot b = { path := some { pk := false, pc := pc, mask := i.mask }, readyAt := now + 1 }
    ∧ h.slotB = b ∧ h.saved = { m.slot b with part := i.part, pend := [] }
    ∧ (∀ n, h.stashG.look n = m.g.look n) ∧ (∀ n, h.stashP.look n = m.p.look n)
    ∧ h.record = record ∧ h.inTx = none ∧ h.resume = returnKind i.flt.code.toNat
    ∧ h.skip = (i.mem && decide (i.flt.code.toNat ∈ skipCodes)) ∧ h.size = i.size ∧ h.scalar = i.scalar
    ∧ h.unfinished = i.part.getD i.mask

/-- A slug after the handler was left (R462): `g` and `p` are back from the stash, HND is clear, the faulting path is back in its slot
at `pc` with replay mask `part`, and no path carries a pending distance (R89). -/
structure Slug.HandlerLeft (m u : Slug) (h : Handling) (pc : Option Addr) (part : Option Mask) : Prop where
  g : u.g = h.stashG
  p : u.p = h.stashP
  v : ∀ n, u.readV n = m.readV n
  xa : ∀ n, u.readX n = m.readX n
  srg : u.srg = m.srg
  hnd : u.hnd = none
  tx : u.tx = h.inTx
  path : (u.slot h.slotB).path = h.saved.path.map (fun p => { p with pc := pc.getD p.pc })
  part : (u.slot h.slotB).part = part
  other : { u.slot (!h.slotB) with readyAt := (m.slot (!h.slotB)).readyAt, pend := (m.slot (!h.slotB)).pend } = m.slot (!h.slotB)
  pend : ∀ b, (u.slot b).pend = []
  stack : u.stack = m.stack

/-- The slot of a launch's galley that the next record goes to lies at `pa`, on a page it may write (R451). -/
structure State.GalleySlot (s : State) (n pa : Nat) : Prop where
  mapped : ∃ l, s.translate none (s.launch n).part
    ((s.launch n).galley + 64 * ((s.launch n).seq % 2 ^ (s.launch n).glog)) 64 .write = (s, .ok (pa, l)) ∧ l.mt = 0
  aligned : pa % 64 = 0
  quiet : ∀ k, ((s.core k).partials.look (lineOf pa)).cells = []

/-- The bytes of a record's eight words. -/
def galleyBytes (ws : List Word) : List Byte := ws.flatMap (fun w => (List.range 8).map (fun i => w.extractLsb' (8 * i) 8))

/-- Two slugs read alike at a register. -/
def Slug.SameAt (m u : Slug) (r : Loc) : Prop :=
  match r with
  | .g n => u.readG n = m.readG n
  | .p n => u.readP n = m.readP n
  | .v n => u.readV n = m.readV n
  | .xa n => u.readX n = m.readX n
  | .srg => u.srg = m.srg

/-- No core holds an update-only partial, so that no home has a copy to recall. -/
def State.NoPartials (s : State) : Prop := ∀ e ∈ s.cores, ∀ l, (e.2.partials.look l).cells = []

/-- The instructions that run only in the handler (R458). -/
def handlerOnly (w : Ops) (m : SysMod) : List Instr :=
  [.hret w m, .fltrd w m, .mapf w m, .hskip w m, .hfail w m, .mapq w m, .unmapf w m]

end Sys2Proof.Machine

namespace Sys2Proof

/-- A full-form instruction has the effect of a half (R83, R85): its operands, its modifiers. -/
def Half.FormIs (x : Half) (hd : Hdr) (i : Instr) : Prop :=
  let w : Ops := { h := hd, d := x.d, a := if x.op.twoSource then x.d else x.s, b := if x.op.twoSource then x.s else .none, x := none }
  match x.op with
  | .nop => False
  | .si o t => i = o.instr w { rm := .rne, ty := t, imm := 0 }
  | .vi o t => i = o.instr w { rm := .rne, ty := t, imm := 0 }
  | .vf o t r => i = o.instr w { rm := r, ty := t, imm := 0 }
  | .sf o t r => i = o.instr w { rm := r, ty := t, imm := 0 }
  | .scaleb t r => ∃ m : CnvMod, i = .scaleb w m ∧ m.rm = r ∧ cnvTy m.df = t
  | .cvt k => ∃ m : CnvMod, i = .cvt w m ∧ CTy.ofCode m.df = some (halfConv k).1 ∧ CTy.ofCode m.sf = some (halfConv k).2.1
      ∧ m.rm = (halfConv k).2.2.1 ∧ m.sat = false ∧ (m.pos.extractLsb' 4 2).toNat = (halfConv k).2.2.2.1
      ∧ (m.pos.extractLsb' 2 2).toNat = (halfConv k).2.2.2.2
  | .shfl down lg => i = .shfl w { ty := .n32, fs := false, mode := if down then 3 else 1, arg := BitVec.ofNat 10 (2 ^ lg.toNat) }
  | .vote mode => i = .vote w { ty := .n32, fs := false, mode := mode.zeroExtend 3, arg := 0 }

/-- The register a half writes. -/
def Half.writes (x : Half) : List Loc :=
  match x.op, x.d with
  | .nop, _ => []
  | _, .g n => [.g n.toNat]
  | _, .p n => [.p n.toNat]
  | _, .v n => [.v n.toNat]
  | _, _ => []

end Sys2Proof

/-- R448, R454, R455, R461, R91: `TRAP` and a word that is no instruction take their exception, and every exception of a slug outside a
transaction is taken alike: registers keep their values and are stashed, the record is kept, every other path is held, and the
handler starts in the faulting path's slot at its entry with the fault's mask. -/
def Sys2Proof.Claim.ExceptionEntry : Prop :=
  ∀ (s : State) (hd : Hdr) (c : Ctx), s.ctx hd = some c → c.m.hnd = none → c.m.tx = none → s.Undisturbed → s.NoPartials →
    s.held = [] →
    (∀ info : TrapInfo,
      let t := s.trap c info
      let r := s.record { launch := c.f.launch, fidx := c.f.fidx, slug := c.iss.sl, path := if c.iss.b then 1 else 0, pc := c.path.pc,
                          mask := info.mask, core := some c.f.core } info.flt
      c.m.HandlerEntered (c.slugIn t) c.iss.b { info with size := 8 * c.iss.occ } r (s.part (s.launchOf c).part) s.cyc
        ∧ s.SlugsAs t c.iss.fk c.iss.sl ∧ s.DeviceAs t)
    ∧ (∀ (w : Ops) (m : SysMod), w.h = hd → c.act ≠ 0 →
        exec (.trap w m) s = .next (s.trap c { flt := { code := 0x0C, d0 := m.n.toNat }, mask := c.act }))
    ∧ (∀ x : Word, hd = default → exec (.illegalWord x) s = .next (s.trap c { flt := { code := 0x01, d1 := x }, mask := c.path.mask }))

/-- R457: a fault of the handler's own path is a double fault: the slug issues nothing more and its launch is to end with the fault's
code. -/
def Sys2Proof.Claim.DoubleFaultEndsTheLaunch : Prop :=
  ∀ (s : State) (hd : Hdr) (c : Ctx) (info : TrapInfo), s.ctx hd = some c → c.m.hnd ≠ none → (s.launchOf c).st = .active →
    s.Undisturbed →
    let t := s.trap c info
    (c.slugIn t).failed = true ∧ c.m.RegsBut (c.slugIn t) [] ∧ (t.launchOf c).st = .failing
      ∧ (t.launchOf c).failCode = some info.flt.code
      ∧ .event .launchEndByFailure { index := c.f.launch } ∈ t.agenda ∧ s.SlugsAs t c.iss.fk c.iss.sl

/-- The claims `ExceptionEntry`, `DoubleFaultEndsTheLaunch` together. Completion: `exec` answers a next state for `TRAP`, `ILLEGAL_WORD`. -/
def Obligations.ExceptionEntries : Prop :=
  Claim.ExceptionEntry
  ∧ Claim.DoubleFaultEndsTheLaunch

/-- R449, R451, R463: a record's fields stand where the layout puts them; it is written to the galley's next slot, and no other byte
of memory changes, where that slot is free, and is dropped and counted where it is not; `GNOTE` writes such a record and goes on. -/
def Sys2Proof.Claim.RecordsAndNotes : Prop :=
  (∀ (s : State) (r : RecInfo) (f : Flt), r.slug < 32 → r.path < 3 → f.va < 2 ^ 54 →
    let l := s.launch r.launch
    let ws := s.record r f
    let word (n : Nat) : Word := ws.getD n 0
    ws.length = 8 ∧ (word 0).extractLsb' 56 8 = f.code ∧ (word 0).extractLsb' 48 8 = 0
      ∧ (word 0).extractLsb' 32 12 = BitVec.ofNat 12 l.world ∧ (word 0).extractLsb' 16 16 = BitVec.ofNat 16 (l.seq + 1)
      ∧ ((word 0).extractLsb' 0 16).toNat = min l.drops 0xFFFF ∧ (word 1).extractLsb' 0 48 = BitVec.ofNat 48 r.fidx
      ∧ ((word 2).extractLsb' 59 5).toNat = r.slug ∧ ((word 2).extractLsb' 57 2).toNat = r.path ∧ (word 2).extractLsb' 0 54 = r.pc
      ∧ (word 3).extractLsb' 32 32 = r.mask ∧ (word 3).getLsbD 22 = r.inh ∧ (word 3).getLsbD 21 = r.txa
      ∧ (word 3).getLsbD 20 = r.deff ∧ (word 3).getLsbD 19 = r.core.isSome ∧ (word 3).extractLsb' 0 19 = 0
      ∧ (word 4).toNat = f.va ∧ (word 5).extractLsb' 48 8 = f.reason ∧ (word 5).extractLsb' 56 8 = f.sub ∧ word 6 = f.d1
      ∧ word 7 = BitVec.ofNat 64 s.ptpNow)
  ∧ (∀ (s : State) (r : RecInfo) (f : Flt) (pa : Nat), s.Undisturbed → s.GalleySlot r.launch pa →
    let t := s.report r f
    let l := s.launch r.launch
    (s.physByte (pa + 7) = 0 → (t.launch r.launch).seq = l.seq + 1 ∧ (t.launch r.launch).drops = 0
      ∧ ∀ a, t.physByte a = if pa ≤ a ∧ a < pa + 64 then (galleyBytes (s.record r f)).getD (a - pa) 0 else s.physByte a)
    ∧ (s.physByte (pa + 7) ≠ 0 → t = s.modLaunch r.launch (fun l => { l with drops := l.drops + 1 })))
  ∧ (∀ (w : Ops) (m : SysMod) (s : State) (c : Ctx), s.ctx w.h = some c → c.act ≠ 0 → s.Undisturbed →
    let a := c.m.srcG w 0 w.a
    let noted := s.report { launch := c.f.launch, fidx := c.f.fidx, slug := c.iss.sl, path := if c.iss.b then 1 else 0, pc := c.path.pc,
                            mask := c.act, core := some c.f.core, inh := c.m.hnd.isSome }
                   { code := 0x7E, sub := a.extractLsb' 56 8, reason := a.extractLsb' 48 8, d0 := a.toNat % 2 ^ 48, d1 := c.m.srcG w 0 w.b }
    ∃ t, exec (.gnote w m) s = .next t ∧ noted.OutsideAs t c.iss.fk c.iss.sl ∧ s.Moved t c c.nextPc [] ∧ s.SlugsAs t c.iss.fk c.iss.sl)

/-- R457, R458: outside the handler the decoder makes an illegal word of a form that only the handler has, and inside it of `TRAP`. -/
def Sys2Proof.Claim.HandlerFormsOutsideTheHandler : Prop :=
  ∀ (f : Fetched) (l : Launch) (alloc : Nat) (w : Ops) (m : SysMod) (i : Instr), decode f.w f.x = .ok i →
    (i ∈ handlerOnly w m → instrAt f l alloc false = .illegalWord f.w)
    ∧ (i = .trap w m → instrAt f l alloc true = .illegalWord f.w)

/-- R462: what the handler's own forms do: `FLTRD` reads a word of the pending record; `HRET` replays, re-issues or goes on after the
word as the fault's class says, or ends the launch; `HSKIP` goes on without the named lanes; `HFAIL` ends the launch. -/
def Sys2Proof.Claim.HandlerOwnForms : Prop :=
  ∀ (w : Ops) (m : SysMod) (s : State) (c : Ctx) (h : Handling), s.ctx w.h = some c → c.act ≠ 0 → c.m.hnd = some h → h.inTx = none →
    s.held = [] →
    let left (i : Instr) (pc : Option Addr) (part : Option Mask) : Prop :=
      ∃ t, exec i s = .next t ∧ c.m.HandlerLeft (c.slugIn t) h pc part ∧ s.OutsideAs t c.iss.fk c.iss.sl
    let failed (i : Instr) : Prop := (s.launchOf c).st = .active →
      ∃ t, exec i s = .next t ∧ (c.slugIn t).failed = true ∧ (t.launchOf c).st = .failing
        ∧ (t.launchOf c).failCode = some ((h.record.getD 0 0).extractLsb' 56 8) ∧ s.SlugsAs t c.iss.fk c.iss.sl
    let after := h.saved.path.map (fun p => p.pc + BitVec.ofNat 54 h.size)
    let skip := (c.m.srcG w 0 w.a).extractLsb' 0 32
    (∀ n, w.d = .g n → s.GivesG c (.fltrd w m) n (h.record.getD (m.n.toNat % 8) 0))
    ∧ (h.resume = .replay → left (.hret w m) none h.saved.part) ∧ (h.resume = .reissue → left (.hret w m) none none)
    ∧ (h.resume = .continue → left (.hret w m) after none) ∧ (h.resume = .fail → failed (.hret w m))
    ∧ (h.resume = .deferred → ∃ t, exec (.hret w m) s = .next t ∧ c.m.HandlerLeft (c.slugIn t) h none h.saved.part
        ∧ s.SlugsAs t c.iss.fk c.iss.sl)
    ∧ (h.skip = false → failed (.hskip w m))
    ∧ (h.skip = true → h.scalar = false →
        (h.unfinished &&& ~~~skip = 0 → left (.hskip w m) after none)
        ∧ (h.unfinished &&& ~~~skip ≠ 0 → left (.hskip w m) none (some (h.unfinished &&& ~~~skip))))
    ∧ (h.skip = true → h.scalar = true →
        (skip &&& h.unfinished ≠ 0 → left (.hskip w m) after none)
        ∧ (skip &&& h.unfinished = 0 → h.unfinished ≠ 0 → left (.hskip w m) none (some h.unfinished)))
    ∧ failed (.hfail w m)

/-- The claims `RecordsAndNotes`, `HandlerFormsOutsideTheHandler`, `HandlerOwnForms` together. Completion: `exec` answers a next state for
`GNOTE`, `FLTRD`, `HRET`, `HSKIP`, `HFAIL`. -/
def Obligations.HandlerForms : Prop :=
  Claim.RecordsAndNotes
  ∧ Claim.HandlerFormsOutsideTheHandler
  ∧ Claim.HandlerOwnForms

/-- R58 to R66, R459, R460: `MOVS` reads a special register, in every active lane where it is a lane register, and `QFEAT` a feature
word under the partition's mask; they write their destination alone. -/
def Sys2Proof.Claim.SystemReads : Prop :=
  ∀ (w : Ops) (m : SysMod) (s : State) (c : Ctx), s.ctx w.h = some c →
    let reads (k : Nat) (y : Word) : Prop := ∀ n, w.d = .g n → c.act ≠ 0 → m.n.toNat = k → s.pinBlocks c n.toNat y = false →
      s.GivesG c (.movs w m) n y
    let num (x : Nat) : Word := BitVec.ofNat 64 x
    let l := s.launchOf c
    let pcReg (x : Slot) : Word := match x.path with
      | some p => num (2 ^ 63 + (if p.pk then 2 ^ 62 else 0) + p.pc.toNat / 8 * 8)
      | none => 0
    let vlid (i : Fin 32) : Nat := c.f.vlidAt c.iss.sl i.val
    (∀ n, w.d = .v n → (m.n = 0 → s.GivesV c (.movs w m) n (fun i => BitVec.ofNat 32 (vlid i)))
      ∧ (m.n = 1 → s.GivesV c (.movs w m) n (fun i => BitVec.ofNat 32 i.val))
      ∧ (m.n = 8 → s.GivesV c (.movs w m) n (fun i => BitVec.ofNat 32 (vlid i % 32)))
      ∧ (m.n = 9 → s.GivesV c (.movs w m) n (fun i => BitVec.ofNat 32 (vlid i / 32))))
    ∧ reads 0x02 (num c.iss.sl) ∧ reads 0x03 (num c.f.pidx) ∧ reads 0x05 (num c.f.core) ∧ reads 0x10 (num l.world)
    ∧ (c.f.x0 < 16 → c.f.y0 < 16 → c.f.pw < 16 → c.f.ph < 16 →
        reads 0x04 (num (c.f.x0 * 2 ^ 12 + c.f.y0 * 2 ^ 8 + c.f.pw * 2 ^ 4 + c.f.ph)))
    ∧ (∀ k, 2 ≤ k → k < 8 → reads (8 + k) (num (l.coord c.f.fidx k)))
    ∧ reads 0x11 c.f.cptag ∧ reads 0x12 (c.f.rowprog.zeroExtend 64)
    ∧ (c.m.depth < 8 → reads 0x13 (num (c.m.abtcode.toNat * 2 ^ 16 + c.m.cause.toNat * 2 ^ 8 + c.m.depth)))
    ∧ reads 0x14 (pcReg c.m.a) ∧ reads 0x15 (pcReg c.m.b)
    ∧ reads 0x16 (match c.m.a.path with | some p => p.mask.zeroExtend 64 | none => 0)
    ∧ reads 0x17 (match c.m.b.path with | some p => p.mask.zeroExtend 64 | none => 0)
    ∧ (c.m.stack.length ≤ 64 → c.m.alloc < 32 →
        reads 0x18 (num ((if c.m.strict then 2 ^ 31 else 0) + (if c.m.owner then 2 ^ 30 else 0) + (if c.m.hnd.isSome then 2 ^ 29 else 0)
          + c.m.stack.length * 2 ^ 16 + c.m.alloc * 2 ^ 8)))
    ∧ reads 0x19 c.m.srg ∧ reads 0x1A (num l.args) ∧ reads 0x1B (num (l.priv + (c.f.fidx * l.ext 1 + c.iss.sl) * 2 ^ l.psz))
    ∧ reads 0x1C (num s.cyc) ∧ reads 0x1D (num s.ptpNow)
    ∧ (∀ k, k < 16 → reads (0x20 + k) (num (l.zbase k)) ∧ reads (0x30 + k) (num (l.zlen k)))
    ∧ (∀ n y, w.d = .g n → c.act ≠ 0 →
        let leaf := if m.n.getLsbD 6 then (c.m.srcG w 0 w.a).toNat else m.n.toNat % 64
        y = (if leaf < 6 then s.featureWord l.part leaf &&& ~~~((s.part l.part).masks.look leaf) else 0) →
        s.pinBlocks c n.toNat y = false → s.GivesG c (.qfeat w m) n y)

/-- R464 to R466: `MAPF` maps a first-touch page, and `UNMAPF` takes it away, answering as the rules say; `MAPQ` reads the leaf. Where
every table of the walk stands, `MAPF` takes one frame of the pool and writes the leaf; the page then has that leaf. Completion: `exec`
answers a next state for `MAPF`, `MAPQ`, `UNMAPF`. -/
def Obligations.FirstTouchForms : Prop :=
  ∀ (w : Ops) (m : SysMod) (s : State) (c : Ctx) (h : Handling) (n : BitVec 6),
    s.ctx w.h = some c → c.act ≠ 0 → c.m.hnd = some h → w.d = .g n → s.Undisturbed →
    s.held = [] →
    let p := s.partOf c
    let q := s.part p
    let ga := c.m.srcG w 0 w.a
    let va := ga.toNat / 2 ^ 18 * 2 ^ 18
    (2 ^ 54 ≤ ga.toNat ∨ s.rootPart va ≠ some p ∨ q.ftRange va = none → s.GivesG c (.mapf w m) n 3)
    ∧ (∀ r, ga.toNat < 2 ^ 54 → s.rootPart va = some p → q.ftRange va = some r →
        let tier := (r.tmpl.extractLsb' 26 2).toNat
        let pool := if tier = 0 then q.pool1 else if tier = 1 then q.pool2 else []
        (s.presentLeaf va ≠ none → s.GivesG c (.mapf w m) n (BitVec.ofNat 64 (pool.length * 2 ^ 32 + 1)))
        ∧ (s.presentLeaf va = none → pool = [] → s.GivesG c (.mapf w m) n (BitVec.ofNat 64 2))
        ∧ (∀ slot fr rest, s.presentLeaf va = none → pool = fr :: rest → s.slotAt va 0 = .ok slot → slot % 16 = 0 →
            (∀ k, ((s.core k).partials.look (lineOf slot)).cells = []) →
            ∃ t, exec (.mapf w m) s = .next t ∧ s.SlugsAs t c.iss.fk c.iss.sl ∧ c.m.RegsBut (c.slugIn t) [.g n.toNat]
              ∧ (n ≠ 0 → (c.slugIn t).readG n.toNat = BitVec.ofNat 64 (rest.length * 2 ^ 32))
              ∧ t.physBytes slot 16 = bytesOf 8 (fr * 2 ^ 18 + 3) ++ bytesOf 8 r.tmpl.toNat
              ∧ (∀ a, a < slot ∨ slot + 16 ≤ a → t.physByte a = s.physByte a)
              ∧ (t.frames.look fr).firstTouch = true
              ∧ (t.part p).ftPool tier = rest))
    ∧ s.GivesG c (.mapq w m) n
        (if ga.toNat < 2 ^ 54 ∧ s.rootPart ga.toNat = some p then
          (match s.presentLeaf ga.toNat with | some l => l.hi ||| 0x8000000000000000 | none => 0) else 0)
    ∧ (s.presentLeaf ga.toNat = none → s.GivesG c (.unmapf w m) n 1)
    ∧ (∀ l, s.presentLeaf ga.toNat = some l →
        let fr := l.frame / 2 ^ 18
        ((s.frames.look fr).firstTouch = false → s.GivesG c (.unmapf w m) n 3)
        ∧ (l.level = 0 → (l.mt = 0 ∨ l.mt = 1) → l.tier < 2 → (s.frames.look fr).firstTouch = true → (s.frames.look fr).owner = some p →
          ∃ t, exec (.unmapf w m) s = .next t ∧ s.SlugsAs t c.iss.fk c.iss.sl ∧ c.m.RegsBut (c.slugIn t) [.g n.toNat]
            ∧ (n ≠ 0 → (c.slugIn t).readG n.toNat = 0) ∧ (t.frames.look fr).firstTouch = false
            ∧ (t.frames.look fr).gen = (s.frames.look fr).gen + 1
            ∧ (t.part p).ftPool l.tier = q.ftPool l.tier ++ [fr]))

/-- R82, R83: a paired word gives each half's destination what the half's full form would give it from the same registers, both halves
reading before either writes, and changes nothing else; a NOP half writes nothing. -/
def Sys2Proof.Claim.PairedWordHalves : Prop :=
  ∀ (hd : Hdr) (hi lo : Half) (s : State) (c : Ctx), s.ctx hd = some c → (Instr.pairedWord hd hi lo).wf = true →
    (c.m.paths ≤ 1 ∨ c.m.hnd ≠ none ∨ (s.launchOf c).pinG = 0) →
    ∃ t, exec (.pairedWord hd hi lo) s = .next t ∧ s.Done t c c.nextPc (hi.writes ++ lo.writes)
      ∧ (∀ x, x = hi ∨ x = lo → ∀ i u, x.FormIs hd i → exec i s = .next u → ∀ r ∈ x.writes, (c.slugIn u).SameAt (c.slugIn t) r)

/-- The claims `SystemReads`, `PairedWordHalves` together. Completion: `exec` answers a next state for `MOVS`, `QFEAT`, `PAIRED_WORD`. -/
def Obligations.SystemForms : Prop :=
  Claim.SystemReads
  ∧ Claim.PairedWordHalves

/-! ## Checks, transactions, queues, barriers, tag waits (spec/15 R424 to R427, spec/11 R340 to R372) -/

namespace Sys2Proof.Machine

/-- A check passes exactly where `ok` holds: its path then goes on with no other effect; elsewhere it faults with a code, its
record naming the failing value. -/
def State.ChecksThat (s : State) (c : Ctx) (i : Instr) (ok : Prop) (code : BitVec 8) (x : Word) : Prop :=
  (ok → s.Goes c i c.nextPc) ∧ (¬ ok → exec i s = .next (s.trap c { flt := { code := code, d1 := x }, mask := c.act }))

/-- A core has nothing of its own to send home, and its table of L1 lines is in canonical form. -/
def State.CoreClean (s : State) (core : Nat) : Prop :=
  Sparse.wf (s.core core).l1 = true ∧ ∀ l, (s.l1Line core l).dirty = 0

/-- A slug whose registers are those of a checkpoint, its only path at an address with the checkpoint's mask. -/
structure Slug.BackAt (u : Slug) (ck : Checkpoint) (pc : Addr) : Prop where
  g : ∀ n, u.readG n = if n = 0 then 0 else ck.g.look n
  p : ∀ n, u.readP n = if n = 0 then 0xFFFFFFFF else ck.p.look n
  v : ∀ n, u.readV n = ck.v.look n
  xa : ∀ n, u.readX n = ck.xa.look n
  srg : u.srg = ck.srg
  paths : u.allPaths = [{ pk := false, pc := pc, mask := ck.mask }]

/-- Where an operation on a transaction leaves the rest of the issuing slug. -/
structure State.TxDone (s t : State) (c : Ctx) (x : Option Tx) : Prop where
  regs : c.m.RegsBut (c.slugIn t) []
  slot : (c.slugIn t).slot c.iss.b = c.slotAt s.cyc c.nextPc
  tx : (c.slugIn t).tx = x
  slugs : s.SlugsAs t c.iss.fk c.iss.sl
  bytes : s.BytesAs t

/-- The value a transaction's buffer leaves at a byte: the last one written there, else what stands there. -/
def bufferedAt (bs : List TxByte) (sp : Bool) (k a : Nat) (old : Byte) : Byte :=
  (((bs.filter (fun b => b.sp == sp && (!sp || b.fk == k) && b.addr == a)).getLast?).map (·.val)).getD old

/-- A queue's ring as the scratchpad holds it: entry `e` of the queue table, set, its control line's CAP the table's, HEAD and the number
of entries. -/
structure State.Ring (s : State) (c : Ctx) (q : Nat) (e : QEntry) (head len : Nat) : Prop where
  entry : s.queueOf c q = e
  set : e.set = true
  aligned : e.off % 128 = 0
  front : natOf (s.spadRead e.fk e.off 8) = head
  cap : natOf (s.spadRead e.fk (e.off + 16) 2) = e.cap
  range : 1 ≤ e.cap ∧ e.cap ≤ 256
  back : natOf (s.spadRead e.fk (e.off + 8) 8) = (head + len) % 2 ^ 64
  bound : len ≤ e.cap

/-- A blocking form may run: outside a transaction, in a slug with one path, on a device without transactions or sleepers. -/
structure State.MayBlock (s : State) (c : Ctx) : Prop where
  quiet : s.Undisturbed
  alone : c.m.paths = 1
  clean : s.CoreClean c.core
  noPartials : s.NoPartials
  held : s.held = []

/-- A blocking form has returned as a transaction of its own: its path goes on, its transaction and stamp are gone, of the slug nothing
but the listed registers has changed. -/
structure State.BlockDone (s t : State) (c : Ctx) (ws : List Loc) : Prop where
  regs : c.m.RegsBut (c.slugIn t) ws
  slot : (c.slugIn t).slot c.iss.b = c.slotAt s.cyc c.nextPc
  other : (c.slugIn t).slot (!c.iss.b) = c.m.slot (!c.iss.b)
  stack : (c.slugIn t).stack = c.m.stack
  ended : (c.slugIn t).tx = none ∧ (c.slugIn t).stamp = none ∧ (c.slugIn t).wake = none
  kept : (c.slugIn t).hnd = c.m.hnd ∧ (c.slugIn t).cause = c.m.cause ∧ (c.slugIn t).abtcode = c.m.abtcode
  slugs : s.SlugsAs t c.iss.fk c.iss.sl

/-- Scratchpad bytes of one forme changed to given ones at some offsets, no other byte of memory anywhere. -/
def State.ScratchSet (s t : State) (k : Nat) (new : List (Nat × List Byte)) : Prop :=
  (∀ a, t.dram.look a = s.dram.look a) ∧ (∀ f a, (t.forme f).acc.look a = (s.forme f).acc.look a)
    ∧ ∀ f a, (t.forme f).scratch.look a
        = if f = k then (match new.find? (fun e => decide (e.1 ≤ a ∧ a < e.1 + e.2.length)) with
            | some e => e.2.getD (a - e.1) 0
            | none => (s.forme f).scratch.look a) else (s.forme f).scratch.look a

/-- The issuing slug sleeps: its path is still at the word, nothing else of it has changed, it holds a wake entry. -/
def State.Sleeps (s t : State) (c : Ctx) (w : Wake → Prop) : Prop :=
  (∃ k, (c.slugIn t).wake = some k ∧ k.fired = false ∧ w k) ∧ (c.slugIn t).tx = none ∧ c.m.RegsBut (c.slugIn t) []
    ∧ ((c.slugIn t).slot c.iss.b).path = some c.path ∧ s.SlugsAs t c.iss.fk c.iss.sl ∧ s.BytesAs t

end Sys2Proof.Machine

/-- R425, R426: each check passes exactly where its condition holds, with no effect but the path's advance, and faults with its code
elsewhere; values are unsigned but for `CHKR`, sums exact. Completion: `exec` answers a next state for `CHKB`, `CHKN`, `CHKA`, `CHKI`,
`CHKL`, `CHKT`, `CHKR`, `CHKP`. -/
def Obligations.ChecksPassOrFault : Prop :=
  ∀ (w : Ops) (m : ChkMod) (s : State) (c : Ctx), s.ctx w.h = some c →
    let a := c.m.srcG w 0 w.a
    let len := (c.m.srcG w m.imm w.b).toNat
    let l := s.launchOf c
    let z := m.z.toNat
    let priv := l.priv + (c.f.fidx * l.ext 1 + c.iss.sl) * 2 ^ l.psz
    (c.act ≠ 0 →
      s.ChecksThat c (.chkb w m) (l.zbase z ≤ a.toNat ∧ a.toNat + len ≤ l.zbase z + l.zlen z) 0x03 a
      ∧ s.ChecksThat c (.chkn w m) (a ≠ 0) 0x04 a
      ∧ s.ChecksThat c (.chka w m) (a.toNat % 2 ^ z = 0) 0x05 a
      ∧ ((∀ r, w.a ≠ .v r) → s.ChecksThat c (.chki w m) (a.toNat ≤ len) 0x03 a)
      ∧ (a = 0 → exec (.chkt w m) s = .next (s.trap c { flt := { code := 0x04, d1 := a }, mask := c.act }))
      ∧ (a ≠ 0 → s.ChecksThat c (.chkt w m) (s.isGate c.f.launch a = true) 0x0A a)
      ∧ s.ChecksThat c (.chkr w m) (a.toInt - (c.m.srcG w 0 w.b).toInt ≤ m.imm.toInt) 0x03 a
      ∧ s.ChecksThat c (.chkp w m) (priv + 1024 ≤ a.toNat ∧ a.toNat + len ≤ priv + 2 ^ l.psz) 0x03 a
      ∧ (∀ pa k, s.Undisturbed → s.CoreClean c.core →
          s.Mapped c .read (l.zbase (s.guardZone c z)) 8 pa k → s.Cached c.core pa 8 k.kind → k.kind ≠ .uo →
          let x := natOf (s.l1Bytes c.core pa 8)
          (x = priv → ∃ t, exec (.chkl w m) s = .next t ∧ s.Moved t c c.nextPc [] ∧ s.SlugsAs t c.iss.fk c.iss.sl ∧ s.BytesAs t)
          ∧ (x ≠ priv → ∃ u, s.BytesAs u ∧ s.SlugsAs u c.iss.fk c.iss.sl ∧ c.slugIn u = c.m
              ∧ exec (.chkl w m) s = .next (u.trap c { flt := { code := 0x0B, d1 := BitVec.ofNat 64 x }, mask := c.act }))))
    ∧ (∀ r, w.a = .v r →
        let bad (i : Fin 32) : Prop := c.path.mask.getLsbD i.val = true ∧ len < ((c.m.readV r.toNat)[i]).toNat
        ((∀ i, ¬ bad i) → s.Goes c (.chki w m) c.nextPc)
        ∧ ((∃ i, bad i) → ∃ x mask, exec (.chki w m) s = .next (s.trap c { flt := { code := 0x03, d1 := x }, mask := mask })
            ∧ ∀ i : Fin 32, mask.getLsbD i.val = true ↔ bad i))

/-- R343, R341, R353: how transactions open, nest and merge: `TXB` opens one with a checkpoint that continues at the next word, or a level
of it; `TXELSE` a level with an alternative; an inner `TXE` merges its level into the one below; a fifth level, a second path, or no
transaction faults. -/
def Sys2Proof.Claim.TransactionLevels : Prop :=
  ∀ (w : Ops) (m : TxMod) (s : State) (c : Ctx), s.ctx w.h = some c → c.act ≠ 0 → c.m.pendingG = [] →
    let ck : Checkpoint := { g := c.m.g, v := c.m.v, p := c.m.p, xa := c.m.xa, srg := c.m.srg, pc := c.nextPc, mask := c.path.mask }
    let target := jumpTarget c.path.pc w 14 m.imm
    let faults (i : Instr) (code : BitVec 8) : Prop := exec i s = .next (s.trap c { flt := { code := code }, mask := c.act })
    (c.m.tx = none → c.m.paths = 1 → s.CoreClean c.core →
      ∃ t, exec (.txb w m) s = .next t ∧ (c.slugIn t).cause = 0 ∧ (c.slugIn t).abtcode = 0
        ∧ s.TxDone t c (some { levels := [{ ck := ck }], stampCyc := s.cyc, stampCore := c.f.core, stampSlot := c.m.h, target := target }))
    ∧ (∀ x, c.m.tx = some x → c.m.paths = 1 → x.levels.length < 4 →
        (∃ t, exec (.txb w m) s = .next t ∧ s.TxDone t c (some { x with levels := { ck := ck } :: x.levels }))
        ∧ (∃ t, exec (.txelse w m) s = .next t
            ∧ s.TxDone t c (some { x with levels := { alt := some target, ck := ck } :: x.levels })))
    ∧ (∀ x, c.m.tx = some x → x.levels.length = 4 → faults (.txb w m) 0x31 ∧ faults (.txelse w m) 0x31)
    ∧ (c.m.tx = none → 1 < c.m.paths → faults (.txb w m) 0x32)
    ∧ (c.m.tx = none → faults (.txe w m) 0x33 ∧ faults (.txelse w m) 0x33 ∧ faults (.retry w m) 0x33 ∧ faults (.txabt w m) 0x33)
    ∧ (∀ x a b r, c.m.tx = some x → x.levels = a :: b :: r →
        ∃ t y l, exec (.txe w m) s = .next t ∧ s.TxDone t c (some y) ∧ y = { x with levels := l :: r } ∧ l.ck = b.ck ∧ l.alt = b.alt
          ∧ (∀ k, k ∈ l.reads ↔ k ∈ a.reads ∨ k ∈ b.reads) ∧ (∀ k, k ∈ l.retained ↔ k ∈ a.retained ∨ k ∈ b.retained)
          ∧ (∀ k, k ∈ l.writes ↔ k ∈ a.writes ∨ k ∈ b.writes) ∧ ∀ sp k n, y.byte sp k n = x.byte sp k n)

/-- R347, R348, R349, R351: how transactions end: the outermost `TXE` performs the buffered bytes and no others; `TXABT` puts the
outermost checkpoint back at the abort target and performs nothing; `RETRY` goes to the innermost alternative, or puts the slug to
sleep at the checkpoint; `TXWATCH` adds a line to the read set. -/
def Sys2Proof.Claim.TransactionEnds : Prop :=
  ∀ (w : Ops) (m : TxMod) (s : State) (c : Ctx) (x : Tx),
    s.ctx w.h = some c → c.act ≠ 0 → c.m.tx = some x → s.txs = [(c.iss.fk, c.iss.sl, x)] → s.held = [] → s.CoreClean c.core →
    s.NoPartials → c.m.paths = 1 →
    (∀ l, x.levels = [l] →
      ∃ t, exec (.txe w m) s = .next t ∧ (c.slugIn t).tx = none ∧ c.m.RegsBut (c.slugIn t) []
        ∧ (c.slugIn t).slot c.iss.b = c.slotAt s.cyc c.nextPc
        ∧ (∀ a, t.physByte a = bufferedAt l.buf false 0 a (s.physByte a))
        ∧ (∀ k a, (t.forme k).scratch.look a = bufferedAt l.buf true k a ((s.forme k).scratch.look a)))
    ∧ (∃ t, exec (.txabt w m) s = .next t ∧ (c.slugIn t).BackAt x.outer.ck x.target ∧ (c.slugIn t).tx = none
        ∧ (c.slugIn t).cause = 0x02 ∧ (c.slugIn t).abtcode = m.imm.extractLsb' 0 8 ∧ s.SlugsAs t c.iss.fk c.iss.sl ∧ s.BytesAs t)
    ∧ (∀ up l b r alt, x.levels = up ++ l :: b :: r → (∀ u ∈ up, u.alt = none) → l.alt = some alt →
        ∃ t y k, exec (.retry w m) s = .next t ∧ (c.slugIn t).BackAt l.ck alt ∧ (c.slugIn t).tx = some y
          ∧ y = { x with levels := { b with retained := k } :: r }
          ∧ (∀ e, e ∈ k ↔ e ∈ b.retained ∨ ∃ u ∈ up ++ [l], e ∈ u.retained ∨ e ∈ u.reads)
          ∧ s.SlugsAs t c.iss.fk c.iss.sl ∧ s.BytesAs t)
    ∧ ((∀ u ∈ x.levels, u.alt = none) → x.levels ≠ [] →
        ∃ t k, exec (.retry w m) s = .next t ∧ (c.slugIn t).BackAt x.outer.ck x.outer.ck.pc ∧ (c.slugIn t).tx = none
          ∧ (c.slugIn t).wake = some k ∧ k.lines = x.seen.take 64 ∧ k.cpt = x.cpt ∧ k.tx = some x.again
          ∧ s.SlugsAs t c.iss.fk c.iss.sl ∧ s.BytesAs t)
    ∧ (∀ a pa l, a = (c.m.srcG w 0 w.a + c.m.srcG w 0 w.b).toNat → s.Mapped c .read a 8 pa l → pa % 128 + 8 ≤ 128 → x.levels ≠ [] →
        (x.note { line := lineOf pa } false).tooBig = false →
        ∃ t, exec (.txwatch w m) s = .next t ∧ s.TxDone t c (some (x.note { line := lineOf pa } false))
          ∧ (x.note { line := lineOf pa } false).readsLine { line := lineOf pa } = true)

/-- The claims `TransactionLevels`, `TransactionEnds` together. Completion: `exec` answers a next state for `TXB`, `TXE`, `TXELSE`,
`TXABT`, `RETRY`, `TXWATCH`. -/
def Obligations.Transactions : Prop :=
  Claim.TransactionLevels
  ∧ Claim.TransactionEnds

/-- R351: outside a transaction `TXWATCH` has no effect. R360, R361, R348: SLUG_WAKE lets a slug whose entry has fired go on, a `RETRY`
with its transaction open again, and leaves any other asleep. -/
def Sys2Proof.Claim.WatchAndWake : Prop :=
  (∀ (w : Ops) (m : TxMod) (s : State) (c : Ctx), s.ctx w.h = some c → c.act ≠ 0 → c.m.tx = none → s.Goes c (.txwatch w m) c.nextPc)
  ∧ (∀ (s : State) (k : Wake), let m := s.slug s.ev.forme s.ev.slug
    m.wake = some k → s.held = [] →
    (k.fired = false → ∃ t, exec .slugWake s = .next t ∧ s.OutsideAs t s.ev.forme s.ev.slug ∧ t.slug s.ev.forme s.ev.slug = m)
    ∧ (k.fired = true → ∃ t, exec .slugWake s = .next t ∧ s.OutsideAs t s.ev.forme s.ev.slug
        ∧ (let u := t.slug s.ev.forme s.ev.slug
           u.wake = none ∧ m.RegsBut u [] ∧ u.a.path = m.a.path ∧ u.b.path = m.b.path
            ∧ (∀ x, k.tx = some x → u.tx = some x ∧ u.cause = 0) ∧ (k.tx = none → u.tx = m.tx ∧ u.cause = m.cause))))

/-- R362 to R366: the queue forms outside a transaction: `QINIT` writes the control line and the table entry; `QPUSH` puts its source
at TAIL and takes one of the forme's allowance, `QPOP` takes the entry at HEAD, `QALLOW` grants sends, `QLEN` counts; a push without
allowance or room and a pop of an empty queue put the slug to sleep; an unset queue faults. No other byte of memory changes. Completion:
`exec` answers a next state for `QINIT`, `QPUSH`, `QPOP`, `QALLOW`, `QLEN`. -/
def Obligations.QueueForms : Prop :=
  ∀ (w : Ops) (m : QMod) (s : State) (c : Ctx), s.ctx w.h = some c → c.act ≠ 0 → s.MayBlock c →
    let q := m.q.toNat
    let a := c.m.srcG w m.imm w.a
    let b := (c.m.srcG w m.imm w.b).toNat
    let fault : State := s.trap c { flt := { code := 0x50, d0 := q }, mask := c.act }
    let completes (i : Instr) (ws : List Loc) (k : Nat) (new : List (Nat × List Byte)) (f : Slug → Prop) : Prop :=
      ∃ t, exec i s = .next t ∧ s.BlockDone t c ws ∧ s.ScratchSet t k new ∧ f (c.slugIn t)
    let sleeps (i : Instr) : Prop := ∃ t, exec i s = .next t ∧ s.Sleeps t c (fun k => k.lines ≠ [])
    (∀ k o, 1 ≤ b → b ≤ 256 → a.toNat % 128 = 0 → s.InWindow c.iss.fk a.toNat (128 + 8 * b) k o →
      ∃ t, exec (.qinit w m) s = .next t ∧ s.Moved t c c.nextPc [] ∧ s.SlugsAs t c.iss.fk c.iss.sl
        ∧ s.ScratchSet t k [(o, bytesOf 16 0 ++ bytesOf 2 b ++ bytesOf 110 0)]
        ∧ t.queueOf c q = { set := true, fk := k, off := o, cap := b })
    ∧ (b = 0 ∨ 256 < b → exec (.qinit w m) s = .next fault)
    ∧ (∀ e head len, s.Ring c q e head len →
        let alw (i : Nat) := natOf (s.spadRead e.fk (e.off + 32 + 4 * i) 4)
        let at' (j : Nat) := e.off + 128 + 8 * (j % e.cap)
        (alw c.f.pidx ≠ 0 → len < e.cap → c.f.pidx < 24 →
          completes (.qpush w m) [] e.fk
            [(at' ((head + len) % 2 ^ 64), bytesOf 8 a.toNat), (e.off + 8, bytesOf 8 (head + len + 1)),
             (e.off + 32 + 4 * c.f.pidx, bytesOf 4 (alw c.f.pidx - 1))] (fun _ => True))
        ∧ (alw c.f.pidx = 0 ∨ len = e.cap → sleeps (.qpush w m))
        ∧ (∀ n, w.d = .g n → 0 < len → completes (.qpop w m) [.g n.toNat] e.fk [(e.off, bytesOf 8 (head + 1))] (fun u =>
            u.readG n.toNat = if n = 0 then 0 else BitVec.ofNat 64 (natOf (s.spadRead e.fk (at' head) 8))))
        ∧ (len = 0 → sleeps (.qpop w m))
        ∧ (a.toNat < c.f.pw * c.f.ph → a.toNat < 24 → completes (.qallow w m) [] e.fk
            [(e.off + 32 + 4 * a.toNat, bytesOf 4 (min (alw a.toNat + b % 2 ^ 32) 0xFFFFFFFF))] (fun _ => True))
        ∧ (∀ n, w.d = .g n → completes (.qlen w m) [.g n.toNat] e.fk [] (fun u =>
            u.readG n.toNat = if n = 0 then 0 else BitVec.ofNat 64 len)))
    ∧ ((s.queueOf c q).set = false → ∀ i ∈ ([.qpush w m, .qpop w m, .qallow w m, .qlen w m] : List Instr), ∃ u, s.BytesAs u
        ∧ s.SlugsAs u c.iss.fk c.iss.sl ∧ c.m.RegsBut (c.slugIn u) [] ∧ (c.slugIn u).tx = none
        ∧ exec i s = .next (u.trap c { flt := { code := 0x50, d0 := q }, mask := c.act }))

/-- R369, R370: `BARA` arrives and reads the generation it arrived at; the last arrival of a unit completes the generation; `BARW`
goes on once the generation has completed and sleeps until then; `BAR` arrives and waits; arriving twice waits. Completion: `exec` answers
a next state for `BAR`, `BARA`, `BARW`. -/
def Obligations.BarrierForms : Prop :=
  ∀ (w : Ops) (m : BarMod) (s : State) (c : Ctx), s.ctx w.h = some c → c.act ≠ 0 → s.MayBlock c → c.m.live = true →
    s.formes.wf = true → c.f.slugs.wf = true →
    let gl := m.gl.toNat
    let n := c.f.launch
    let key := (s.launchOf c).guyKey c.f.fidx gl
    let g := (s.launchOf c).guys.look key
    let me := (c.iss.fk, c.iss.sl)
    let last : Prop := ∀ e ∈ s.unitSlugs n c.f.fidx gl, e = me ∨ e ∈ g.arrived
    let arrived (t : State) : Prop :=
      (last → (t.launch n).guys.look key = { gen := g.gen + 1, arrived := [] })
        ∧ (¬ last → (t.launch n).guys.look key = { gen := g.gen, arrived := g.arrived ++ [me] })
        ∧ ∀ k, k ≠ key → (t.launch n).guys.look k = (s.launch n).guys.look k
    let passedBy (x : BitVec 32) : Prop := 1 ≤ (g.gen - x).toNat ∧ (g.gen - x).toNat ≤ 2 ^ 31
    (me ∉ g.arrived → ∀ d, w.d = .g d → ∃ t, exec (.bara w m) s = .next t ∧ s.Moved t c c.nextPc [.g d.toNat]
        ∧ (c.slugIn t).readG d.toNat = (if d = 0 then 0 else g.gen.zeroExtend 64) ∧ arrived t ∧ s.SlugsAs t c.iss.fk c.iss.sl
        ∧ s.BytesAs t)
    ∧ (me ∈ g.arrived → exec (.bara w m) s = .next s.hold)
    ∧ (∀ k, w.a = .g k →
        let x := (c.m.readG k.toNat).extractLsb' 0 32
        (passedBy x → ∃ t, exec (.barw w m) s = .next t ∧ s.BlockDone t c [] ∧ s.BytesAs t)
        ∧ (¬ passedBy x → ∃ t, exec (.barw w m) s = .next t ∧ s.Sleeps t c (fun k => k.gwait.look gl = some x)))
    ∧ (c.m.arrived.look gl = none → me ∉ g.arrived → (c.m.owner = false ∨ s.engineBusy c.iss.fk false = false) →
        (last → ∃ t, exec (.bar w m) s = .next t ∧ arrived t ∧ s.BlockDone t c [] ∧ (c.slugIn t).arrived.look gl = none
          ∧ s.BytesAs t)
        ∧ (¬ last → ∃ t, exec (.bar w m) s = .next t ∧ arrived t ∧ s.Sleeps t c (fun k => k.gwait.look gl = some g.gen)
          ∧ (c.slugIn t).arrived.look gl = some g.gen))
    ∧ (∀ x, c.m.arrived.look gl = some x → passedBy x →
        ∃ t, exec (.bar w m) s = .next t ∧ s.BlockDone t c [] ∧ (c.slugIn t).arrived.look gl = none ∧ s.BytesAs t)

/-- R295, R372, R292: `CWANY` returns the set tags it waits for and `CWALL` goes on once all are set; both sleep on the forme's tags
otherwise; `CFFR` reads a tag's status word. -/
def Sys2Proof.Claim.TagWaits : Prop :=
  ∀ (w : Ops) (m : CpyMod) (s : State) (c : Ctx) (k : BitVec 6), s.ctx w.h = some c → c.act ≠ 0 → w.a = .g k →
    let x := c.m.readG k.toNat
    let tags := c.f.cptag
    (s.MayBlock c →
      (∀ n, w.d = .g n → (x = 0 ∨ x &&& tags ≠ 0) → ∃ t, exec (.cwany w m) s = .next t ∧ s.BlockDone t c [.g n.toNat]
          ∧ (c.slugIn t).readG n.toNat = (if n = 0 then 0 else x &&& tags) ∧ s.BytesAs t)
      ∧ (x ≠ 0 → x &&& tags = 0 → ∃ t, exec (.cwany w m) s = .next t ∧ s.Sleeps t c (fun k => k.cpt = true))
      ∧ (x &&& tags = x → ∃ t, exec (.cwall w m) s = .next t ∧ s.BlockDone t c [] ∧ s.BytesAs t)
      ∧ (x &&& tags ≠ x → ∃ t, exec (.cwall w m) s = .next t ∧ s.Sleeps t c (fun k => k.cpt = true)))
    ∧ (∀ n y, w.d = .g n → y = c.f.tagStat.look (x.toNat % 64) → s.pinBlocks c n.toNat y = false → s.GivesG c (.cffr w m) n y)

/-- The claims `WatchAndWake`, `TagWaits` together. Completion: `exec` answers a next state for `CWANY`, `CWALL`, `CFFR`, `TXWATCH`,
`SLUG_WAKE`. -/
def Obligations.WaitForms : Prop :=
  Claim.WatchAndWake
  ∧ Claim.TagWaits

/-! ## Copies and collectives (spec/09 R288 to R303, spec/06 R212, spec/18 R472) -/

namespace Sys2Proof.Machine

/-- A command of a tag has been issued for a forme (R291, R292): its bit is clear, its status word says in flight, no other tag's has
changed. -/
def Forme.TagStarted (f f' : Forme) (tag : BitVec 6) : Prop :=
  f'.cptag = f.cptag &&& ~~~(1#64 <<< tag.toNat) ∧ f'.tagStat.look tag.toNat = 0xFE00000000000000
    ∧ f'.inFlight.look tag.toNat = f.inFlight.look tag.toNat + 1
    ∧ ∀ k, k ≠ tag.toNat → f'.tagStat.look k = f.tagStat.look k ∧ f'.inFlight.look k = f.inFlight.look k

/-- The only command of a tag is over with a status word (R292): its bit is set. -/
def Forme.TagOver (f f' : Forme) (tag : BitVec 6) (st : Word) : Prop :=
  f'.cptag = f.cptag ||| (1#64 <<< tag.toNat) ∧ f'.tagStat.look tag.toNat = st ∧ f'.inFlight.look tag.toNat = 0
    ∧ ∀ k, k ≠ tag.toNat → f'.tagStat.look k = f.tagStat.look k ∧ f'.inFlight.look k = f.inFlight.look k

/-- A word that hands a command to the issuing core's copy unit completes. -/
def State.HandsCopy (s : State) (c : Ctx) (i : Instr) (q : Copy) : Prop :=
  ∃ t, exec i s = .next t ∧ s.Moved t c c.nextPc [] ∧ c.f.TagStarted (t.forme c.iss.fk) q.tag
    ∧ (t.core c.core).copies = (s.core c.core).copies ++ [q] ∧ (∀ k, k ≠ c.core → t.core k = s.core k)
    ∧ s.SlugsAs t c.iss.fk c.iss.sl ∧ s.BytesAs t

/-- Where bytes lie: in device memory, or in a forme's scratchpad part. -/
inductive BytePlace where
  | mem (pa : Nat)
  | pad (fk o : Nat)

/-- Byte `i` from a place on. -/
def State.byteAt (s : State) (p : BytePlace) (i : Nat) : Byte :=
  match p with
  | .mem pa => s.physByte (pa + i)
  | .pad k o => (s.forme k).scratch.look (o + i)

/-- Byte `i` of `n` from a place on is one that starts at another place. -/
def BytePlace.Meets (p q : BytePlace) (n : Nat) (i : Nat) : Prop :=
  match p, q with
  | .mem a, .mem b => a ≤ b + i ∧ b + i < a + n
  | .pad k a, .pad j b => k = j ∧ a ≤ b + i ∧ b + i < a + n
  | _, _ => False

/-- `n` bytes at an address that a copy unit reaches: within a scratchpad part, or on one NORMAL page whose translation its core holds. -/
def State.CopyAt (s : State) (fk core part : Nat) (win write : Bool) (va n : Nat) (p : BytePlace) : Prop :=
  match p with
  | .pad k o => win = true ∧ s.InWindow fk va n k o
  | .mem pa => win = false ∧ va < 2 ^ 54 ∧ va % 2 ^ 18 + n ≤ 2 ^ 18 ∧ ∃ l, tlbLook (s.core core).tlb va = some l
      ∧ (∀ i, i < n → tlbLook (s.core core).tlb (va + i) = some l) ∧ pa = l.frame + (va - l.base) ∧ l.base ≤ va ∧ l.mt = 0
      ∧ l.allows (if write then .write else .read) = true ∧ s.poisoned pa n = none
      ∧ pa % 2 ^ 18 + n ≤ 2 ^ 18 ∧ (s.frames.look (frameOf pa)).owner = some part

/-- Two ranges of bytes share none. -/
def Apart (p : BytePlace) (n : Nat) (q : BytePlace) (m : Nat) : Prop := ∀ i, i < m → ¬ p.Meets q n i

/-- The command that the event COPY_COMPLETE performs: `ev` names its core and its place in the copy unit's queue. -/
structure State.Command (s : State) (q : Copy) : Prop where
  device : s.ev.tenant = false
  there : (s.core s.ev.core).copies[s.ev.index]? = some q
  only : (s.forme q.fk).inFlight.look q.tag.toNat = 1
  running : (s.forme q.fk).tagStat.look q.tag.toNat = 0xFE00000000000000
  quiet : s.Undisturbed
  noPartials : s.NoPartials

/-- A 64-bit word of a descriptor. -/
def State.descWord (s : State) (core pa i : Nat) : Word := BitVec.ofNat 64 (natOf (s.l1Bytes core (pa + 8 * i) 8))

/-- The ranges of a group descriptor (R299). -/
def GroupOk (w : Nat → Word) : Prop :=
  let size := ((w 0).extractLsb' 38 10).toNat
  1 ≤ size ∧ size ≤ 512 ∧ ((w 0).extractLsb' 29 9).toNat < size ∧ (w 0).extractLsb' 0 29 = 0 ∧ (w 1).extractLsb' 54 10 = 0
    ∧ (w 2).extractLsb' 32 32 = 0 ∧ w 3 = 0 ∧ w 4 = 0 ∧ w 5 = 0 ∧ w 6 = 0 ∧ w 7 = 0

/-- The ranges of a collective descriptor (R300, R302), for a formed group of a size. -/
def CollOk (w : Nat → Word) (size : Nat) : Prop :=
  let op := ((w 0).extractLsb' 44 4).toNat
  let red := ((w 0).extractLsb' 40 4).toNat
  let ty := ((w 0).extractLsb' 37 3).toNat
  op ≤ 6 ∧ red ≤ 5 ∧ ty ≠ 7 ∧ ((w 0).getLsbD 36 = true → red = 0 ∧ ty = 4 ∧ (op = 0 ∨ op = 1 ∨ op = 4))
    ∧ (op = 3 ∨ op = 4 → ((w 1).extractLsb' 0 9).toNat < size)
    ∧ (w 0).extractLsb' 0 36 = 0 ∧ (w 1).extractLsb' 9 23 = 0 ∧ (w 2).extractLsb' 54 10 = 0 ∧ (w 3).extractLsb' 54 10 = 0
    ∧ w 4 = 0 ∧ w 5 = 0 ∧ w 6 = 0 ∧ w 7 = 0

end Sys2Proof.Machine

/-- R288 to R293, R304: the copy forms hand their command, with the registers they name as they stand, to the core's copy unit, start
their tag and go on; they wait while 16 commands are queued, and fault in a transaction; `CPYM` is the matrix owner's alone. Completion:
`exec` answers a next state for `CPY`, `CPY2D`, `CPYM`, `CPYS`, `CFILL`. -/
def Obligations.CopyForms : Prop :=
  ∀ (w : Ops) (m : CpyMod) (k : CpmMod) (s : State) (c : Ctx) (d a : BitVec 6), s.ctx w.h = some c → c.act ≠ 0 → w.d = .g d → w.a = .g a →
    let room := (s.core c.core).copies.length < 16
    let x := w.x.getD 0
    let q : Copy :=
      { fk := c.iss.fk, slug := c.iss.sl, slotB := c.iss.b, pc := c.path.pc, mask := c.act, dst := c.m.readG d.toNat,
        src := c.m.readG a.toNat, len := c.m.srcG w 0 w.b, dw := m.dw, sw := m.sw, tag := m.tag }
    (c.m.tx = none → room →
      s.HandsCopy c (.cpy w m) { q with opc := 0x1A0 } ∧ s.HandsCopy c (.cpys w m) { q with opc := 0x1A3 }
      ∧ s.HandsCopy c (.cfill w m) { q with opc := 0x1A8 }
      ∧ s.HandsCopy c (.cpy2d w m) { q with opc := 0x1A1
                                            rows := BitVec.ofNat 64 ((x.extractLsb' 48 16).toNat + 1)
                                            dstr := (x.extractLsb' 24 24).zeroExtend 64
                                            sstr := (x.extractLsb' 0 24).zeroExtend 64 })
    ∧ (∀ i ∈ ([.cpy w m, .cpys w m, .cfill w m, .cpy2d w m] : List Instr),
        (c.m.tx = none → ¬ room → exec i s = .next s.hold) ∧ (c.m.tx ≠ none → exec i s = .next (s.trapCode c 0x33)))
    ∧ (c.m.owner = false → exec (.cpym w k) s = .next (s.trapCode c 0x07))
    ∧ (c.m.owner = true → c.m.tx ≠ none → exec (.cpym w k) s = .next (s.trapCode c 0x33))
    ∧ (c.m.owner = true → c.m.tx = none → ¬ room → exec (.cpym w k) s = .next s.hold)
    ∧ (∀ b, w.b = .g b → c.m.owner = true → c.m.tx = none → room →
        let rows := if k.role then 16 * (x.extractLsb' 14 6).toNat else 8 * ((x.extractLsb' 20 6).toNat + 1)
        let stride := 8 * (if k.role then (x.extractLsb' 26 19).toNat else (x.extractLsb' 45 19).toNat)
        ∃ t p e, exec (.cpym w k) s = .next t ∧ s.Moved t c c.nextPc [] ∧ (t.core c.core).copies = (s.core c.core).copies ++ [p]
          ∧ p.opc = 0x1A2 ∧ p.dst = c.m.readG d.toNat ∧ p.src = c.m.readG a.toNat ∧ p.len = BitVec.ofNat 64 (rows * stride) ∧ p.sw = false
          ∧ p.dw = (if k.role then k.bw else k.aw) ∧ p.tag = 2 * k.tp.zeroExtend 6 ∧ p.follow = some e
          ∧ e.opc = (if k.sp then 0x128 else 0x126) ∧ e.tile = k.tile.toNat ∧ e.x = x ∧ e.tag = some (2 * k.tp.zeroExtend 6 + 1)
          ∧ e.a = (if k.role then c.m.readG b.toNat else c.m.readG d.toNat)
          ∧ e.b = (if k.role then c.m.readG d.toNat else c.m.readG b.toNat)
          ∧ (t.forme c.iss.fk).tagStat.look p.tag.toNat = 0xFE00000000000000
          ∧ (t.forme c.iss.fk).tagStat.look (p.tag.toNat + 1) = 0xFE00000000000000
          ∧ s.SlugsAs t c.iss.fk c.iss.sl ∧ s.BytesAs t)

/-- R291 to R293, R212: COPY_COMPLETE performs a command: `CPY` and `CPY2D` give each destination byte its source byte, `CFILL` the
pattern's byte, no other byte changes, the tag's bit is set with status 0, and the command leaves the queue; a `CPYM` hands its
follow-on on; a copy of 2^40 bytes, or with rows longer than their stride, fails `CHK_BOUNDS` in its status word. -/
def Sys2Proof.Claim.CopiesMoveBytes : Prop :=
  ∀ (s : State) (q : Copy) (pd ps : BytePlace), s.Command q →
    let k := s.ev.core
    let part := (s.launch (s.forme q.fk).launch).part
    let n := q.len.toNat
    let rows := if q.opc = 0x1A1 then q.rows.toNat else 1
    let ds := if q.opc = 0x1A1 then q.dstr.toNat else 0
    let ss := if q.opc = 0x1A1 then q.sstr.toNat else 0
    let dlen := (rows - 1) * ds + n
    let slen := (rows - 1) * ss + n
    let writes (f : Nat → Nat → Byte) : Prop := ∃ t, exec .copyComplete s = .next t
      ∧ (∀ r i, r < rows → i < n → t.byteAt pd (r * ds + i) = f r i)
      ∧ (∀ p : BytePlace, (∀ r i, r < rows → i < n → ¬ p.Meets pd 1 (r * ds + i)) → t.byteAt p 0 = s.byteAt p 0)
      ∧ (s.forme q.fk).TagOver (t.forme q.fk) q.tag 0 ∧ (t.core k).copies = (s.core k).copies.eraseIdx s.ev.index
      ∧ (t.forme q.fk).follow = (s.forme q.fk).follow ++ q.follow.toList
    (s.CopyAt q.fk k part q.dw true q.dst.toNat dlen pd → 1 ≤ n → 1 ≤ rows → (q.opc = 0x1A1 → n ≤ ds ∨ (rows = 1 ∧ ds = 0)) → dlen < 2 ^ 40 →
      rows * ds < 2 ^ 40 →
      (q.opc = 0x1A8 → writes (fun _ i => q.src.extractLsb' (8 * (i % 8)) 8))
      ∧ (q.opc ∈ [0x1A0, 0x1A1, 0x1A2] → s.CopyAt q.fk k part q.sw false q.src.toNat slen ps → Apart ps slen pd dlen →
          writes (fun r i => s.byteAt ps (r * ss + i))))
    ∧ (2 ^ 40 ≤ n ∨ (q.opc = 0x1A1 ∧ q.dstr ≠ 0 ∧ q.dstr.toNat < n) → q.follow = none → ∃ t, exec .copyComplete s = .next t
        ∧ (s.forme q.fk).TagOver (t.forme q.fk) q.tag (0x03#8 ++ 0#2 ++ q.dst.extractLsb' 0 54)
        ∧ (t.core k).copies = (s.core k).copies.eraseIdx s.ev.index)

/-- R294: a `CPYS` whose addresses or length are no multiples of 4,096 fails `CHK_ALIGN`; one of a unit between two SEALED pages of one
key copies the unit's bytes and its side-table entry, of different keys fails `SEALED_KEY`, from or to a page that is not SEALED
fails `SEALED_READ` or `SEALED_WRITE`. -/
def Sys2Proof.Claim.SealedCopies : Prop :=
  ∀ (s : State) (q : Copy), s.Command q → q.opc = 0x1A3 → q.dw = false → q.sw = false → q.len.toNat < 2 ^ 40 → q.follow = none →
    let part := (s.launch (s.forme q.fk).launch).part
    let ends (code : BitVec 8) (va : Nat) : Prop := ∃ t, exec .copyComplete s = .next t
      ∧ (s.forme q.fk).TagOver (t.forme q.fk) q.tag (code ++ 0#2 ++ BitVec.ofNat 54 va)
    let reached (va : Nat) (write : Bool) (pa : Nat) (l : Leaf) : Prop :=
      s.translate (some s.ev.core) part va 4096 (if write then .write else .read) = (s, .ok (pa, l)) ∧ pa % 4096 = 0
    (q.dst.toNat % 4096 ≠ 0 ∨ q.src.toNat % 4096 ≠ 0 ∨ q.len.toNat % 4096 ≠ 0 → ends 0x05 q.dst.toNat)
    ∧ (∀ ps pd ls ld, q.dst.toNat % 4096 = 0 → q.src.toNat % 4096 = 0 → q.len = 4096 → reached q.src.toNat false ps ls →
        reached q.dst.toNat true pd ld →
        (ls.mt ≠ 1 → ends 0x20 q.src.toNat) ∧ (ls.mt = 1 → ld.mt ≠ 1 → ends 0x21 q.dst.toNat)
        ∧ (ls.mt = 1 → ld.mt = 1 → ls.key ≠ ld.key → ends 0x23 q.src.toNat)
        ∧ (ls.mt = 1 → ld.mt = 1 → ls.key = ld.key → ps ≠ pd → ∃ t, exec .copyComplete s = .next t
            ∧ (s.forme q.fk).TagOver (t.forme q.fk) q.tag 0
            ∧ t.side.look (pd / 4096) = s.side.look (ps / 4096) ∧ (∀ u, u ≠ pd / 4096 → t.side.look u = s.side.look u)
            ∧ ∀ a, t.physByte a = if pd ≤ a ∧ a < pd + 4096 then s.physByte (ps + (a - pd)) else s.physByte a))

/-- The claims `CopiesMoveBytes`, `SealedCopies` together. Completion: `exec` answers a next state for `COPY_COMPLETE`. -/
def Obligations.CopiesComplete : Prop :=
  Claim.CopiesMoveBytes
  ∧ Claim.SealedCopies

/-- R298 to R300, R302: `CGRP` and `COLL` read their descriptor and answer 1 for a malformed one, 2 for a group in the wrong state, 3
without a collective engine, with no effect; otherwise 0, the group forming or the collective queued on one of the partition's engines
(where no collective waits that could start), and the tag started. Completion: `exec` answers a next state for `COLL`, `CGRP`. -/
def Obligations.CollectiveForms : Prop :=
  ∀ (w : Ops) (m : CpyMod) (s : State) (c : Ctx) (d a : BitVec 6) (pa : Nat) (l : Leaf),
    s.ctx w.h = some c → c.act ≠ 0 → w.d = .g d → w.a = .g a → s.Undisturbed → c.m.paths = 1 →
    s.Mapped c .read (c.m.readG a.toNat).toNat 64 pa l → s.Cached c.core pa 64 l.kind →
    let p := s.partOf c
    let q := s.part p
    let word := s.descWord c.core pa
    let gid := ((word 0).extractLsb' 48 16).toNat
    let g := q.groups.look gid
    let full : Prop := 64 ≤ (q.groups.filter (fun e => e.2.used)).length
    let refuses (i : Instr) (code : Nat) : Prop := s.GivesG c i d (BitVec.ofNat 64 code)
    let accepts (i : Instr) (f : Partition → Prop) : Prop := ∃ t, exec i s = .next t ∧ s.Moved t c c.nextPc [.g d.toNat]
      ∧ (c.slugIn t).readG d.toNat = 0 ∧ c.f.TagStarted (t.forme c.iss.fk) m.tag ∧ s.SlugsAs t c.iss.fk c.iss.sl ∧ s.BytesAs t ∧ f (t.part p)
    (¬ GroupOk word → refuses (.cgrp w m) 1)
    ∧ (GroupOk word → g.used = true ∨ full → refuses (.cgrp w m) 2)
    ∧ (GroupOk word → g.used = false → ¬ full → q.engines = 0 → refuses (.cgrp w m) 3)
    ∧ (GroupOk word → g.used = false → ¬ full → q.engines ≠ 0 → accepts (.cgrp w m) (fun q' =>
        let us := ((word 2).extractLsb' 0 32).toNat
        let h := q'.groups.look gid
        h.used = true ∧ h.formed = false ∧ h.size = ((word 0).extractLsb' 38 10).toNat ∧ h.self = ((word 0).extractLsb' 29 9).toNat
          ∧ h.table = (word 1).toNat ∧ h.timeout = (if us = 0 then 100000 else us) ∧ h.fk = c.iss.fk ∧ h.tag = m.tag ∧ h.since = s.cyc
          ∧ ∀ k, k ≠ gid → q'.groups.look k = q.groups.look k))
    ∧ (g.used = true → g.formed = true → ¬ CollOk word g.size → refuses (.coll w m) 1)
    ∧ ((g.used = false ∨ g.formed = false) → CollOk word 512 → refuses (.coll w m) 2)
    ∧ (g.used = true → g.formed = true → CollOk word g.size → q.engines = 0 → refuses (.coll w m) 3)
    ∧ (g.used = true → g.formed = true → CollOk word g.size → q.engines ≠ 0 → startColls q.colls = q.colls → accepts (.coll w m) (fun q' =>
        ∃ x, q'.colls = q.colls ++ [x] ∧ x.gid = gid ∧ x.desc = (List.range 8).map word ∧ x.tag = m.tag ∧ x.fk = c.iss.fk
          ∧ x.engine < q.engines ∧ x.since = s.cyc
          ∧ (x.started = true ↔ (q.colls.filter (fun y => y.engine == x.engine && y.started)).length < 32)))

/-- R301, R302: what a member of a collective receives: the reduction of all members' blocks for an integer add, the one sum rounded once
for an exact float sum whatever the order of the members, the members' blocks in order for all-gather and all-to-all, the root's
block for broadcast, nothing for a barrier. -/
def Sys2Proof.Claim.CollectiveResults : Prop :=
  (∀ (d : CollDesc) (fresh : Nat) (xs : List Nat), d.exact' = false → d.red = 0 → (collTy d.ty = .i32 ∨ collTy d.ty = .n32) → xs ≠ [] →
    (∀ x ∈ xs, x < 2 ^ 32) → collElem d fresh xs = xs.sum % 2 ^ 32)
  ∧ (∀ (d : CollDesc) (fresh : Nat) (xs : List Nat), d.exact' = false → (collTy d.ty = .n32) → xs ≠ [] → (∀ x ∈ xs, x < 2 ^ 32) →
    (d.red = 1 → collElem d fresh xs ∈ xs ∧ ∀ x ∈ xs, collElem d fresh xs ≤ x)
    ∧ (d.red = 2 → collElem d fresh xs ∈ xs ∧ ∀ x ∈ xs, x ≤ collElem d fresh xs)
    ∧ (d.red = 3 → ∀ i, (collElem d fresh xs).testBit i = xs.all (·.testBit i))
    ∧ (d.red = 4 → ∀ i, (collElem d fresh xs).testBit i = xs.any (·.testBit i)))
  ∧ (∀ (d : CollDesc) (f1 f2 : Nat) (xs ys : List Nat), d.exact' = true → xs.Perm ys → collElem d f1 xs = collElem d f2 ys)
  ∧ (∀ (d : CollDesc) (g : Group) (fresh : Nat) (own rest : List Byte),
    let w := (collTy d.ty).bytes
    let len := d.count * w
    let block (j : Nat) : List Byte := if j = g.self then own.take len else (rest.drop (len * (if j < g.self then j else j - 1))).take len
    own.length = w * d.sends g → rest.length = len * (g.size - 1) → g.self < g.size → d.root < g.size →
    (d.op = 2 → d.result g fresh own rest = ((List.range g.size).map block).flatten)
    ∧ (d.op = 5 → d.result g fresh own rest
        = ((List.range g.size).map (fun j => if j = g.self then (own.drop (len * g.self)).take len else block j)).flatten)
    ∧ (d.op = 3 → d.result g fresh own rest = block d.root)
    ∧ (d.op = 6 → d.result g fresh own rest = []))

/-- R299, R301, R472: the events of groups and collectives: a group forms with its member table, or is dropped with `MEMBER_CHANGED`; a
barrier completes by its tag alone; mismatched descriptors and a timeout abort with `COLL_ABORT`; a member that attests again aborts
its group's collectives, and with another measurement ends the group. Before TIMEOUT nothing happens. -/
def Sys2Proof.Claim.CollectiveEvents : Prop :=
  ∀ (s : State), s.Undisturbed → s.NoPartials →
    let p := s.ev.part
    let q := s.part p
    let status (code : BitVec 8) : Word := code ++ 0#56
    let only (fk : Nat) (tag : BitVec 6) : Prop := (s.forme fk).inFlight.look tag.toNat = 1
      ∧ (s.forme fk).tagStat.look tag.toNat = 0xFE00000000000000
    (let g := q.groups.look s.ev.index
     g.used = true → g.formed = false → only g.fk g.tag →
      (g.table % 2 ^ 18 + 64 * g.size ≤ 2 ^ 18 → 1 ≤ g.size →
        ∀ pa l, s.translate none p g.table (64 * g.size) .read = (s, .ok (pa, l)) → l.mt = 0 →
        ∃ t, exec .groupFormed s = .next t
          ∧ (s.ev.flag = true → (s.forme g.fk).TagOver (t.forme g.fk) g.tag 0
            ∧ (t.part p).groups.look s.ev.index = { g with formed := true, members := s.physBytes pa (64 * g.size) })
          ∧ (s.ev.flag = false → (s.forme g.fk).TagOver (t.forme g.fk) g.tag (status 0x61)
            ∧ ((t.part p).groups.look s.ev.index).used = false))
      ∧ (s.ev.tenant = false → s.cyc < g.since + 1600 * g.timeout → exec .collectiveTimeout s = .next s)
      ∧ (s.ev.tenant = false → g.since + 1600 * g.timeout ≤ s.cyc → ∃ t, exec .collectiveTimeout s = .next t
          ∧ (s.forme g.fk).TagOver (t.forme g.fk) g.tag (status 0x60) ∧ ((t.part p).groups.look s.ev.index).used = false))
    ∧ (∀ x, q.colls[s.ev.index]? = some x → only x.fk x.tag →
        let g := q.groups.look x.gid
        let rest := q.colls.eraseIdx s.ev.index
        let gone (t : State) : Prop := (t.part p).colls.map (fun y => (y.gid, y.tag, y.fk, y.desc)) = rest.map (fun y => (y.gid, y.tag, y.fk, y.desc))
        (x.started = false → exec .collectiveComplete s = .next s)
        ∧ (x.started = true → s.ev.flag = true → (collDesc x.desc).op = 6 → ∃ t, exec .collectiveComplete s = .next t
            ∧ (s.forme x.fk).TagOver (t.forme x.fk) x.tag 0 ∧ gone t ∧ s.BytesAs t)
        ∧ (x.started = true → s.ev.flag = false → ∃ t, exec .collectiveComplete s = .next t
            ∧ (s.forme x.fk).TagOver (t.forme x.fk) x.tag (status 0x60) ∧ gone t)
        ∧ (s.ev.tenant = true → s.cyc < x.since + 1600 * g.timeout → g.lost = none → exec .collectiveTimeout s = .next s)
        ∧ (s.ev.tenant = true → x.since + 1600 * g.timeout ≤ s.cyc → ∃ t, exec .collectiveTimeout s = .next t
            ∧ (s.forme x.fk).TagOver (t.forme x.fk) x.tag (status 0x60) ∧ gone t))
    ∧ (let gid := s.ev.index
       let g := q.groups.look gid
       g.used = true → g.formed = true → ∃ t, exec .memberReattest s = .next t ∧ (∀ x ∈ (t.part p).colls, x.gid ≠ gid)
        ∧ (t.part p).colls.map (fun y => (y.gid, y.tag, y.fk, y.desc))
            = (q.colls.filter (fun x => x.gid != gid)).map (fun y => (y.gid, y.tag, y.fk, y.desc))
        ∧ (s.ev.flag = true → (t.part p).groups.look gid = { g with lost := none })
        ∧ (s.ev.flag = false → ((t.part p).groups.look gid).used = false))

/-- The claims `CollectiveResults`, `CollectiveEvents` together. Completion: `exec` answers a next state for `GROUP_FORMED`,
`COLLECTIVE_COMPLETE`, `COLLECTIVE_TIMEOUT`, `MEMBER_REATTEST`. -/
def Obligations.CollectivesComplete : Prop :=
  Claim.CollectiveResults
  ∧ Claim.CollectiveEvents

/-! ## The matrix engine (spec/06 R175 to R212) -/

namespace Sys2Proof.Machine

/-- Engine forms with what each puts into its queue entry (R180, R183 to R185): MMAP and MMASP apart. -/
def engineForms (c : Ctx) (w : Ops) (m : MxMod) : List (Instr × MqEntry) :=
  let e (opc : Nat) : MqEntry :=
    { opc := opc, issuer := c.iss.fk, slug := c.iss.sl, slotB := c.iss.b, pc := c.path.pc, plane := c.plane, mod := m.bits,
      x := w.x.getD 0 }
  let d := w.d.num
  let a := w.a.num
  let ga := c.m.readG a
  let gb := c.m.readG w.b.num
  [(.tcfg w m, { e 0x120 with tile := d }), (.tzero w m, { e 0x121 with tile := d }), (.tld w m, { e 0x122 with tile := d, a := ga }),
   (.tst w m, { e 0x123 with tile := a, b := gb }), (.tlds w m, { e 0x124 with tile := d, a := ga }),
   (.tsts w m, { e 0x125 with tile := a, b := gb }), (.mma w m, { e 0x126 with tile := d, a := ga, b := gb }),
   (.mmas w m, { e 0x128 with tile := d, a := ga, b := gb, lanes := c.metadata m.mbk }),
   (.tmov w m, { e 0x12C with tile := d, tile2 := a }), (.tadd w m, { e 0x12D with tile := d, tile2 := a }),
   (.tscal w m, { e 0x12E with tile := d, a := ga }), (.tstq w m, { e 0x130 with tile := a, b := gb })]

/-- An entry has joined the issuing forme's queue, last, under the next number and the next arrival of its core; no tile, no other forme's
queue and no memory has changed. -/
structure State.Queued (s t : State) (c : Ctx) (e : MqEntry) : Prop where
  queue : (t.forme c.iss.fk).mq = c.f.mq ++ [{ e with id := c.f.issued + 1, arrival := (s.core c.core).arrivals }]
  number : (t.forme c.iss.fk).issued = c.f.issued + 1
  arrival : (t.core c.core).arrivals = (s.core c.core).arrivals + 1
  others : ∀ k, k ≠ c.iss.fk → (t.forme k).mq = (s.forme k).mq
  tiles : ∀ k, (t.forme k).tiles = (s.forme k).tiles ∧ (t.forme k).rowprog = (s.forme k).rowprog
  slugs : s.SlugsAs t c.iss.fk c.iss.sl
  bytes : s.BytesAs t

/-- The bits of an element of a tile, zero outside it. -/
def Forme.posBits (f : Forme) (l : Layout) (r k : Nat) : Nat :=
  if l.valid = true ∧ r < l.rows ∧ k < l.cols then f.elem l r k else 0

/-- Row and column of element `h` that slice `n` has in lane `i` (R178): 32 elements a slice, or 64, two of them a lane. -/
def slicePos (l : Layout) (col : Bool) (n i h : Nat) : Nat × Nat :=
  let q := if l.esize = 4 then 32 else 64
  let per := ((if col then l.rows else l.cols) + q - 1) / q
  let x := q * (n % per) + (if l.esize = 4 then i else 2 * i + h)
  if col then (x, n / per) else (n / per, x)

/-- States that differ in the accumulator memory of one forme at most. -/
structure State.AccOnly (s u : State) (fk : Nat) : Prop where
  device : { u with formes := s.formes } = s
  formes : ∀ k, { u.forme k with acc := (s.forme k).acc } = s.forme k
  others : ∀ k, k ≠ fk → u.forme k = s.forme k

/-- The engine of core `ev.core` has an entry at the head of a forme's queue to run, and comes from no fault of it. -/
structure State.Head (s : State) (fk : Nat) (e : MqEntry) (rest : List MqEntry) : Prop where
  next : s.nextHead s.ev.core = some (fk, e)
  queue : (s.forme fk).mq = e :: rest
  fresh : e.done = 0 ∧ e.tag = none ∧ e.part = none

/-- The engine that serves a forme. -/
def State.engine (s : State) (fk : Nat) : Eng :=
  let l := s.launch (s.forme fk).launch
  { fk := fk, core := s.ev.core, part := l.part, world := l.world }

/-- An entry has completed: the queue goes on behind it, `%rowprog` counts its blocks where it works in blocks, every slug and the layouts
keep. -/
structure State.Ran (s t : State) (fk : Nat) (rest : List MqEntry) (blocks : Option Nat) : Prop where
  queue : (t.forme fk).mq = rest
  rowprog : (t.forme fk).rowprog = match blocks with
    | some n => BitVec.ofNat 16 n
    | none => (s.forme fk).rowprog
  slugs : ∀ k j, t.slug k j = s.slug k j
  dram : ∀ a, t.dram.look a = s.dram.look a
  others : ∀ k, k ≠ fk → (t.forme k).acc = (s.forme k).acc ∧ (t.forme k).tiles = (s.forme k).tiles

/-- An entry has stopped at a fault before its first block (R201, R202): it stays at the head with the fault, nothing else has changed. -/
def State.StoppedAt (s t : State) (fk : Nat) (e : MqEntry) (rest : List MqEntry) (code : BitVec 8) (op : Nat) : Prop :=
  (t.forme fk).mq = { e with stop := some (code, 0, 0, op), delivered := false, told := true } :: rest ∧ s.BytesAs t
    ∧ (∀ k j, t.slug k j = s.slug k j) ∧ ∀ k, (t.forme k).tiles = (s.forme k).tiles

/-- Elements of a tile, row below `m`, column below `n`, have new bits; no other byte of the forme's accumulator memory has changed. -/
def Forme.TilePut (f f' : Forme) (l : Layout) (m n : Nat) (x : Nat → Nat → Nat) : Prop :=
  (∀ r k, r < m → k < n → f'.elem l r k = x r k % 2 ^ (8 * l.esize))
    ∧ ∀ a, (∀ r k, r < m → k < n → ¬(l.at r k ≤ a ∧ a < l.at r k + l.esize)) → f'.acc.look a = f.acc.look a

/-- The conversion of R194 on a finite exact value that came from floats or not. -/
def Drained (ty : CTy) (rm : RM) (sat flt : Bool) (x : ℚ) (bits : Nat) : Prop :=
  (ty.isFloat = true → |x| ≤ ty.ffmt.greatest → ty.ffmt.Rounds rm x bits)
    ∧ (ty.isFloat = false → ∀ k : Int, RoundsToInt rm x k →
        (bits : Int) = (if flt = true ∨ sat = true then max ty.least (min ty.greatest k) else k) % 2 ^ ty.width)

/-- The pairs of formats that form chains, with the accumulator formats of each (R190); block-scaled pairs have equal block lengths. -/
def PairListed (fa : Nat) (ga : BitVec 3) (fb : Nat) (gb : BitVec 3) (af : Nat) : Prop :=
  let low : List Nat := [4, 5, 6, 7, 8]
  let flt : List Nat := [0, 2, 3]
  let scaled := [17, 18, 19, 20]
  let kb := ga.extractLsb' 0 2 = gb.extractLsb' 0 2
  (fa = fb ∧ (fa = 0 ∨ fa = 1) ∧ af = 0)
    ∨ (fa = fb ∧ (fa = 2 ∨ fa = 3) ∧ af ∈ flt)
    ∨ (fa ∈ low ∧ fb ∈ low ++ [9, 10] ∧ af ∈ flt)
    ∨ ((fa = 9 ∨ fa = 10) ∧ fb ∈ low ++ [9, 10] ∧ af ∈ flt)
    ∨ (fa = fb ∧ (fa = 11 ∨ fa = 16) ∧ af = 1)
    ∨ (12 ≤ fa ∧ fa ≤ 15 ∧ 12 ≤ fb ∧ fb ≤ 15 ∧ af = 1)
    ∨ (fa ∈ scaled ∧ fb ∈ scaled ++ [21, 22] ∧ kb ∧ af ∈ flt)
    ∨ ((fa = 21 ∨ fa = 22) ∧ fb ∈ scaled ++ [21, 22] ∧ kb ∧ af ∈ flt)
    ∨ (fa = 23 ∧ fb = 23 ∧ kb ∧ af ∈ flt)

end Sys2Proof.Machine

/-- R179, R180, R182, R200, R210: each engine form enters its forme's queue with the registers it names as they stand, and goes on;
`MMAP` and `MMASP` send their parts to the pitch's other formes as well; a slug that is not the owner, a pitch form outside the
leader and a transaction fault, and a full queue makes the word wait. -/
def Sys2Proof.Claim.EngineFormsEnterTheQueue : Prop :=
  ∀ (w : Ops) (m : MxMod) (s : State) (c : Ctx), s.ctx w.h = some c → c.act ≠ 0 →
    let free : Prop := c.m.owner = true ∧ c.m.tx = none ∧ c.f.mq.length < 8
    let joins (i : Instr) (e : MqEntry) : Prop := ∃ t, exec i s = .next t ∧ s.Moved t c c.nextPc [] ∧ s.Queued t c e
    let noFollow : Prop := c.f.follow = [] ∧ ∀ q ∈ (s.core c.core).copies, q.fk = c.iss.fk → q.follow = none
    let all : List Instr := (engineForms c w m).map (·.1) ++ [.tamax w m, .mmap w m, .mmasp w m]
    (∀ x ∈ engineForms c w m, free → (x.1 ≠ .tcfg w m ∨ noFollow) → joins x.1 x.2)
    ∧ (free → ¬ noFollow → exec (.tcfg w m) s = .next s.hold)
    ∧ (∀ d a, w.d = .g d → w.a = .a a → free → ∃ t e, exec (.tamax w m) s = .next t ∧ s.Queued t c e
        ∧ e = { opc := 0x12F, issuer := c.iss.fk, slug := c.iss.sl, slotB := c.iss.b, pc := c.path.pc, plane := c.plane,
                mod := m.bits, x := w.x.getD 0, tile := a.toNat, tile2 := d.toNat }
        ∧ c.m.RegsBut (c.slugIn t) [] ∧ (c.slugIn t).slot c.iss.b = c.slotAt s.cyc c.nextPc
        ∧ (c.slugIn t).pendingG = if d = 0 then c.m.pendingG else c.m.pendingG ++ [BitVec.ofNat 8 (0x80 + d.toNat)])
    ∧ (∀ x ∈ ([(.mmap w m, 0x127, []), (.mmasp w m, 0x129, c.metadata m.mbk)] : List (Instr × Nat × Sparse VReg)), free → c.f.pidx = 0 →
        ∃ t e, exec x.1 s = .next t ∧ s.Moved t c c.nextPc [] ∧ s.Queued t c e
          ∧ e = { opc := x.2.1, issuer := c.iss.fk, slug := c.iss.sl, slotB := c.iss.b, pc := c.path.pc, plane := c.plane,
                  mod := m.bits, x := w.x.getD 0, tile := w.d.num, a := c.m.readG w.a.num, b := c.m.readG w.b.num, lanes := x.2.2,
                  part := some 0 }
          ∧ ∀ i, 0 < i → i < c.f.pw * c.f.ph → (t.forme (c.iss.fk + i)).transit = (s.forme (c.iss.fk + i)).transit ++
              (if 128 * (i / c.f.pw) < 8 * (((w.x.getD 0).extractLsb' 20 6).toNat + 1)
                  ∧ 192 * (i % c.f.pw) < 16 * ((w.x.getD 0).extractLsb' 14 6).toNat
                then [{ e with part := some i, id := c.f.issued + 1, lanes := [] }] else []))
    ∧ ∀ i ∈ all,
        (c.m.owner = false → exec i s = .next (s.trapCode c 0x07))
        ∧ (c.m.owner = true → c.m.tx ≠ none → exec i s = .next (s.trapCode c 0x33))
        ∧ (c.m.owner = true → c.m.tx = none → 8 ≤ c.f.mq.length → exec i s = .next s.hold)
        ∧ (free → c.f.pidx ≠ 0 → i = .mmap w m ∨ i = .mmasp w m → exec i s = .next (s.trapCode c 0x07))

/-- R178, R181, R182, R210: `TRD` reads and `TWR` writes the active lanes' positions of a tile slice, a position outside the tile reading
zero and taking no write; `TINFO` reads the layout word; they wait for the owner's engine instructions on the tile. Completion: `exec`
answers a next state for `TRD`, `TWR`, `TINFO`. -/
def Obligations.TileSlices : Prop :=
  ∀ (w : Ops) (m : SliceMod) (k : MxMod) (s : State) (c : Ctx), s.ctx w.h = some c →
    let l := c.f.layout m.tile.toNat
    let n := (c.m.readG m.idx.toNat + m.off.signExtend 64).toNat
    let pos (i : Fin 32) (h : Nat) : Nat × Nat := slicePos l m.col n i.val h
    let halves := if l.esize = 4 then 1 else 2
    (s.tileBusy c m.tile.toNat = true → exec (.trd w m) s = .next s.hold ∧ (c.m.tx = none → exec (.twr w m) s = .next s.hold))
    ∧ (s.tileBusy c m.tile.toNat = false → ∀ d, w.d = .v d → s.GivesV c (.trd w m) d (fun i =>
        let x (h : Nat) : Nat := c.f.posBits l (pos i h).1 (pos i h).2
        if l.esize = 4 then BitVec.ofNat 32 (x 0) else BitVec.ofNat 16 (x 1) ++ BitVec.ofNat 16 (x 0)))
    ∧ (c.m.tx ≠ none → exec (.twr w m) s = .next (s.trapCode c 0x33))
    ∧ (s.tileBusy c m.tile.toNat = false → c.m.tx = none → ∀ a, w.a = .v a →
        let names (i : Fin 32) (h : Nat) (r q : Nat) : Prop :=
          c.act.getLsbD i.val ∧ h < halves ∧ pos i h = (r, q) ∧ l.valid = true ∧ r < l.rows ∧ q < l.cols
        ∃ t, exec (.twr w m) s = .next t ∧ s.Moved t c c.nextPc [] ∧ s.SlugsAs t c.iss.fk c.iss.sl
          ∧ (∀ i h r q, names i h r q → (t.forme c.iss.fk).elem l r q
              = ((c.m.readV a.toNat)[i].toNat / 2 ^ (16 * h)) % 2 ^ (8 * l.esize))
          ∧ (∀ b, (∀ i h r q, names i h r q → ¬(l.at r q ≤ b ∧ b < l.at r q + l.esize)) →
              (t.forme c.iss.fk).acc.look b = c.f.acc.look b)
          ∧ (∀ j, j ≠ c.iss.fk → (t.forme j).acc = (s.forme j).acc) ∧ (∀ b, t.dram.look b = s.dram.look b)
          ∧ ∀ j, (t.forme j).scratch = (s.forme j).scratch)
    ∧ (c.act ≠ 0 → ∀ d a, w.d = .g d → w.a = .a a →
        (s.tileBusy c a.toNat = true → exec (.tinfo w k) s = .next s.hold)
        ∧ (s.tileBusy c a.toNat = false → s.pinBlocks c d.toNat (c.f.layout a.toNat) = false →
            s.GivesG c (.tinfo w k) d (c.f.layout a.toNat)))

/-- R187 to R194, R196, R197, R201: the engine runs `MMA` and `MMAS` over operands it can read: each element of the result is the tile's
old value or zero, plus the scales times the exact sum of the products, converted once; no other byte of accumulator memory changes,
and `%rowprog` counts the blocks. A tile too small, a pair of formats outside the table, a breach of the K rule and rows longer than
their stride stop it before its first block. -/
def Sys2Proof.Claim.EngineMultiplication : Prop :=
  ∀ (s : State) (fk : Nat) (e : MqEntry) (rest : List MqEntry) (ra rb : Region) (A B : Nat → Row),
    s.Head fk e rest → (e.opc = 0x126 ∨ e.opc = 0x128) → e.sel ≤ 2 → e.rm ≠ .sr →
    let f := s.forme fk
    let l := f.layout e.tile
    let M := 8 * ((e.x.extractLsb' 20 6).toNat + 1)
    let N := 16 * (e.x.extractLsb' 14 6).toNat
    let K := 48 * (e.x.extractLsb' 7 7).toNat
    let sa := 8 * (e.x.extractLsb' 45 19).toNat
    let sb := 8 * (e.x.extractLsb' 26 19).toNat
    let na := if e.opc = 0x126 then K else if e.sel = 0 then 24 else 12
    let fits : Prop := l.valid = true ∧ M ≤ l.rows ∧ N ≤ l.cols
    let pair : Prop := PairListed ra.fmt ra.geo rb.fmt rb.geo l.af
    let kRule : Prop := isScaled ra.fmt = true → e.opc = 0x126 ∧ K = blockLen ra.fmt ra.geo
    let g := s.engine fk
    let oa : Operand := { win := e.aw, op := 1 }
    let ob : Operand := { win := e.bw, op := 2 }
    let regions : Prop := s.engRegion g oa e.a.toNat = (s, .ok ra) ∧ s.engRegion g ob e.b.toNat = (s, .ok rb)
    let stops (code : BitVec 8) (op : Nat) : Prop := ∃ t, exec .matrixQueueExecute s = .next t ∧ s.StoppedAt t fk e rest code op
    (¬ fits → stops 0x09 4)
    ∧ (fits → regions →
        (¬ (pair ∧ kRule) → stops 0x08 1)
        ∧ (pair → kRule → sa < rowBytes ra.fmt na → stops 0x03 1)
        ∧ (pair → kRule → rowBytes ra.fmt na ≤ sa → sb < rowBytes rb.fmt K → stops 0x03 2)
        ∧ (pair → kRule → rowBytes ra.fmt na ≤ sa → rowBytes rb.fmt K ≤ sb → 0 < N →
            (∀ u r, s.AccOnly u fk → r < M → u.engReadRow g oa true ra.fmt ra.geo ((e.a.toNat + r * sa) % 2 ^ 64) na = (u, .ok (A r))) →
            (∀ k, k < N → s.engReadRow g ob true rb.fmt rb.geo ((e.b.toNat + k * sb) % 2 ^ 64) K = (s, .ok (B k))) →
            let av (r i : Nat) : FVal := (A r).vals.getD i .zero
            let bv (r k i : Nat) : FVal :=
              (B k).vals.getD (if e.opc = 0x126 then i else (positions e.sel e.lanes r).getD i 0) .zero
            let acc := e.x.getLsbD 6
            ∃ t out, exec .matrixQueueExecute s = .next t ∧ s.Ran t fk rest (some (M / 8)) ∧ f.TilePut (t.forme fk) l M N out
              ∧ ∀ r k, r < M → k < N →
                (∀ c p q (x y : Nat → ℚ), (if acc then f.tileVal l r k else .zero).rat = some c →
                    (A r).scale.rat = some p → (B k).scale.rat = some q →
                    (∀ i, i < na → (av r i).rat = some (x i) ∧ (bv r k i).rat = some (y i)) →
                    Drained l.ty e.rm e.sat (fmtFloat ra.fmt) (c + p * q * ((List.range na).map (fun i => x i * y i)).sum) (out r k))
                ∧ (((A r).scale.isNan = true ∨ (B k).scale.isNan = true) →
                    out r k = conv l.ty .nan e.rm e.sat (fmtFloat ra.fmt))
                ∧ ((∃ i, i < na ∧ (FVal.mul (av r i) (bv r k i)).isNan = true) → (A r).scale.isZero = false → (B k).scale.isZero = false →
                    out r k = conv l.ty .nan e.rm e.sat (fmtFloat ra.fmt))))

/-- R188, R189, R106, R111 to R113: a row of a pitch-window operand is the elements its bytes hold: the format of the segment, the special
value of a block, the scale of the first block; a row in a segment of another format, a row start off its alignment and a row that
reaches the scale region fault. -/
def Sys2Proof.Claim.OperandRows : Prop :=
  ∀ (s : State) (g : Eng) (op : Nat) (fmt : Nat) (geo : BitVec 3) (a n k o : Nat) (r : Region),
    0 < n → 0 < fmtWidth fmt → s.InWindow g.fk a (rowBytes fmt n) k o →
    (∀ i, i < rowBytes fmt n → (s.launch (s.forme k).launch).segAt (o + i) = r) → r.base ≤ o → o + rowBytes fmt n ≤ r.base + r.size →
    r.base + r.size ≤ s.spadSize k → r.base + r.size ≤ 2 ^ 21 → r.size % 1024 = 0 → r.base % 1024 = 0 →
    let read := s.engReadRow g { win := true, op := op } true fmt geo a n
    let off := o - r.base
    let aligned : Prop := off % 8 = 0 ∧ (fmtWidth fmt = 6 → off % 3 = 0)
      ∧ (hasBlocks fmt = true → off % (blockLen fmt geo * fmtWidth fmt / 8) = 0)
    let code (i : Nat) : Nat := natOf (s.spadRead k o (rowBytes fmt n)) / 2 ^ (fmtWidth fmt * i) % 2 ^ fmtWidth fmt
    let entry (j : Nat) : Nat := r.base + 7 * r.size / 8 + 2 * (off / (blockLen fmt geo * fmtWidth fmt / 8) + j)
    let stops (code : BitVec 8) (reason : BitVec 8) : Prop := read = (s, .error { code := code, reason := reason, op := op })
    ((r.fmt ≠ fmt ∨ r.geo ≠ geo) → stops 0x08 0)
    ∧ (r.fmt = fmt → r.geo = geo →
        (¬ aligned → stops 0x05 0)
        ∧ (aligned → hasBlocks fmt = true → 7 * r.size < 8 * off + n * fmtWidth fmt → stops 0x11 0x09)
        ∧ (aligned → (hasBlocks fmt = true → 8 * off + n * fmtWidth fmt ≤ 7 * r.size
              ∧ entry ((n + blockLen fmt geo - 1) / blockLen fmt geo) ≤ r.base + r.size) →
            ∃ row, read = (s, .ok row) ∧ row.vals.length = n
              ∧ ∀ i, i < n → row.raw.getD i 0 = code i
                ∧ row.vals.getD i .zero = elemVal fmt (code i)
                    (if hasBlocks fmt then ((s.forme k).scratch.look (entry (i / blockLen fmt geo) + 1)).toNat else 0)
                ∧ row.scale = scaleVal fmt geo (if hasBlocks fmt then ((s.forme k).scratch.look (entry 0)).toNat else 0)))

/-- The claims `EngineMultiplication`, `OperandRows` together. Completion: `exec` answers a next state for `MATRIX_QUEUE_EXECUTE`. -/
def Obligations.EngineProducts : Prop :=
  Claim.EngineMultiplication
  ∧ Claim.OperandRows

/-- R175 to R177, R206, R209, R210: the engine runs the forms that act on tiles alone: `TCFG` sets the layout, `TZERO` clears the tile,
`TMOV`, `TADD` and `TSCAL` compute their region element by element, exactly and converted once; a tile without a layout stops them.
Completion: `exec` answers a next state for `MATRIX_QUEUE_EXECUTE`. -/
def Obligations.EngineTileArithmetic : Prop :=
  ∀ (s : State) (fk : Nat) (e : MqEntry) (rest : List MqEntry), s.Head fk e rest → e.rm ≠ .sr →
    let f := s.forme fk
    let l := f.layout e.tile
    let z := f.layout e.tile2
    let bytesIn (l : Layout) (a : Nat) : Prop := l.at 0 0 ≤ a ∧ a < l.at 0 0 + l.rows * l.cols * l.esize
    let apart : Prop := e.tile = e.tile2 ∨ ∀ a, ¬(bytesIn l a ∧ bytesIn z a)
    let runs (t : State) (b : Option Nat) : Prop := exec .matrixQueueExecute s = .next t ∧ s.Ran t fk rest b
    let keeps (t : State) : Prop := ∀ k, (t.forme k).tiles = (s.forme k).tiles
    (e.opc = 0x120 → ∃ t, runs t none ∧ (∀ k, (t.forme fk).tiles.look k = if k = e.tile then e.x else f.tiles.look k) ∧ s.BytesAs t)
    ∧ (e.opc = 0x121 → l.valid = true → ∃ t, runs t none ∧ keeps t ∧ f.TilePut (t.forme fk) l l.rows l.cols (fun _ _ => 0))
    ∧ (e.opc = 0x12E → l.valid = true → l.rows % 8 = 0 →
        ∃ t out, runs t (some (l.rows / 8)) ∧ keeps t ∧ f.TilePut (t.forme fk) l l.rows l.cols out
          ∧ ∀ r k x y, r < l.rows → k < l.cols → (f.tileVal l r k).rat = some x → FFmt.f32.rat (e.a.toNat % 2 ^ 32) = some y →
              Drained l.ty e.rm e.sat true (x * y) (out r k))
    ∧ (l.valid = true → z.valid = true → apart → l.rows % 8 = 0 → z.rows % 8 = 0 →
        (e.opc = 0x12C → ∃ t out, runs t (some (min l.rows z.rows / 8)) ∧ keeps t
            ∧ f.TilePut (t.forme fk) l (min l.rows z.rows) (min l.cols z.cols) out
            ∧ ∀ r k, r < min l.rows z.rows → k < min l.cols z.cols →
                (l.af = z.af → out r k = f.elem z r k)
                ∧ (l.af ≠ z.af → ∀ x, (f.tileVal z r k).rat = some x → Drained l.ty e.rm e.sat z.flt x (out r k)))
        ∧ (e.opc = 0x12D → ∃ t out, runs t (some (min l.rows z.rows / 8)) ∧ keeps t
            ∧ f.TilePut (t.forme fk) l (min l.rows z.rows) (min l.cols z.cols) out
            ∧ ∀ r k x y, r < min l.rows z.rows → k < min l.cols z.cols → (f.tileVal l r k).rat = some x → (f.tileVal z r k).rat = some y →
                Drained l.ty e.rm e.sat (l.flt || z.flt) (x + y) (out r k)))
    ∧ ((e.opc = 0x121 ∨ e.opc = 0x12E ∨ e.opc = 0x12F) → l.valid = false → ∃ t, exec .matrixQueueExecute s = .next t
        ∧ s.StoppedAt t fk e rest 0x09 4)
    ∧ ((e.opc = 0x12C ∨ e.opc = 0x12D) → l.valid = false ∨ z.valid = false → ∃ t, exec .matrixQueueExecute s = .next t
        ∧ s.StoppedAt t fk e rest 0x09 4)

/-- R206 to R208, R210, R131: `TLDS` and `TLD` put the rows they read into their tile, `TSTS` writes the tile's elements in the
segment's format, `TSTQ` writes blocks with the scale byte of their largest magnitude and their elements divided by that scale, and
`TAMAX` delivers the tile's largest magnitude, rounded up, to its issuer. Completion: `exec` answers a next state for
`MATRIX_QUEUE_EXECUTE`. -/
def Obligations.EngineTileMoves : Prop :=
  ∀ (s : State) (fk : Nat) (e : MqEntry) (rest : List MqEntry) (q : Region), s.Head fk e rest → e.rm ≠ .sr →
    let f := s.forme fk
    let l := f.layout e.tile
    let M := 8 * ((e.x.extractLsb' 20 6).toNat + 1)
    let N := 16 * (e.x.extractLsb' 14 6).toNat
    let st := 8 * (e.x.extractLsb' 45 19).toNat
    let g := s.engine fk
    let w := fmtWidth q.fmt
    let moves : Prop := q.fmt = 0 ∧ l.esize = 4
    let ready (win : Bool) (op : Nat) (a : Word) : Prop :=
      l.valid = true ∧ M ≤ l.rows ∧ N ≤ l.cols ∧ s.engRegion g { win := win, op := op } a.toNat = (s, .ok q) ∧ rowBytes q.fmt N ≤ st
    let runs (t : State) (b : Option Nat) : Prop := exec .matrixQueueExecute s = .next t ∧ s.Ran t fk rest b
    let dest (g : Region) (k o : Nat) : Prop := s.InWindow fk e.b.toNat (M * st) k o ∧ q = { g with base := e.b.toNat - o + g.base }
      ∧ g.base ≤ o ∧ o + M * st ≤ g.base + g.size ∧ g.base + g.size ≤ s.spadSize k ∧ g.base + g.size ≤ 2 ^ 21
      ∧ g.base % 1024 = 0 ∧ g.size % 1024 = 0 ∧ ∀ i, i < g.size → (s.launch (s.forme k).launch).segAt (g.base + i) = g
    let bitsOut (t : State) (k o r i : Nat) : Nat := natOf (t.spadRead k (o + r * st) (rowBytes q.fmt N)) / 2 ^ (w * i) % 2 ^ w
    (∀ (rows : Nat → Row), (e.opc = 0x122 ∨ e.opc = 0x124) → ready (e.opc == 0x124) 1 e.a → q.fmt ≤ 16 →
        (∀ u r, s.AccOnly u fk → r < M →
          u.engReadRow g { win := e.opc == 0x124, op := 1 } false q.fmt q.geo ((e.a.toNat + r * st) % 2 ^ 64) N = (u, .ok (rows r))) →
        ∃ t out, runs t (some (M / 8)) ∧ f.TilePut (t.forme fk) l M N out ∧ ∀ r k, r < M → k < N →
          (moves → out r k = (rows r).raw.getD k 0)
          ∧ (¬ moves → ∀ x, ((rows r).vals.getD k .zero).rat = some x → Drained l.ty e.rm e.sat (fmtFloat q.fmt) x (out r k)))
    ∧ (∀ h k o, e.opc = 0x125 → ready true 4 e.b → s.Undisturbed → q.fmt ≤ 16 → q.fmt ≠ 10 → dest h k o → 0 < N →
        (∀ r, r < M → (o + r * st - h.base) % 8 = 0 ∧ (w = 6 → (o + r * st - h.base) % 3 = 0)) →
        ∃ t, runs t (some (M / 8)) ∧ (∀ j, (t.forme j).acc = (s.forme j).acc)
          ∧ (∀ r i, r < M → i < N →
              (moves → bitsOut t k o r i = f.elem l r i)
              ∧ (¬ moves → ∀ x, (f.tileVal l r i).rat = some x → Drained (fmtTy q.fmt) e.rm e.sat l.flt x (bitsOut t k o r i)))
          ∧ ∀ j a, (j = k → ∀ r, r < M → ¬(o + r * st ≤ a ∧ a < o + r * st + rowBytes q.fmt N)) →
              (t.forme j).scratch.look a = (s.forme j).scratch.look a)
    ∧ (∀ h k o, e.opc = 0x130 → e.aw = true → ready true 4 e.b → s.Undisturbed → dest h k o → 0 < N →
        (q.fmt = 23 ∨ (17 ≤ q.fmt ∧ q.fmt ≤ 21)) → N % blockLen q.fmt q.geo = 0 →
        let kb := blockLen q.fmt q.geo
        let off (r : Nat) : Nat := o + r * st - h.base
        let entry (r j : Nat) : Nat := h.base + 7 * h.size / 8 + 2 * (off r / (kb * w / 8) + j)
        let block (r j : Nat) : List FVal := (List.range kb).map (fun i => f.tileVal l r (kb * j + i))
        let byte (r j : Nat) : Nat := mxsclByte q.fmt (q.geo.getLsbD 2) (maxAbs (block r j))
        (∀ r, r < M → off r % 8 = 0 ∧ (w = 6 → off r % 3 = 0) ∧ off r % (kb * w / 8) = 0 ∧ 8 * off r + N * w ≤ 7 * h.size ∧ entry r (N / kb) ≤ h.base + h.size) →
        ∃ t, runs t (some (M / 8)) ∧ (∀ j, (t.forme j).acc = (s.forme j).acc)
          ∧ (∀ r i, r < M → i < N → bitsOut t k o r i
              = quantElem q.fmt e.rm (scaleVal q.fmt q.geo (byte r (i / kb))) (f.tileVal l r i))
          ∧ (∀ r j, r < M → j < N / kb → (t.forme k).scratch.look (entry r j) = BitVec.ofNat 8 (byte r j)
              ∧ (t.forme k).scratch.look (entry r j + 1) = 0)
          ∧ ∀ j a, (j = k → ∀ r, r < M → ¬(o + r * st ≤ a ∧ a < o + r * st + rowBytes q.fmt N) ∧ ¬(entry r 0 ≤ a ∧ a < entry r (N / kb))) →
              (t.forme j).scratch.look a = (s.forme j).scratch.look a)
    ∧ (∀ d, e.opc = 0x12F → l.valid = true → 0 < l.rows → 0 < l.cols → d = e.tile2 → 0 < d →
        let m := s.slug e.issuer e.slug
        ∀ code : Nat, code = f.tileMax l → s.pinHolds e.issuer e.slug d (BitVec.ofNat 64 code) = false →
          (∃ t, exec .matrixQueueExecute s = .next t ∧ (t.forme fk).mq = rest ∧ s.BytesAs t ∧ s.SlugsAs t e.issuer e.slug
            ∧ (let u := t.slug e.issuer e.slug
               (m.hnd = none → u.readG d = BitVec.ofNat 64 code ∧ m.RegsBut u [.g d])
               ∧ (∀ h, m.hnd = some h → m.RegsBut u [] ∧ u.hnd = some { h with stashG := h.stashG.put d (BitVec.ofNat 64 code) })
               ∧ BitVec.ofNat 8 (0x80 + d) ∉ u.pendingG))
          ∧ ((∃ r k, r < l.rows ∧ k < l.cols ∧ (f.tileVal l r k).isNan = true) → code = 0x7FC00000)
          ∧ (∀ x : Nat → Nat → ℚ, (∀ r k, r < l.rows → k < l.cols → (f.tileVal l r k).rat = some (x r k)) →
              ∃ r k, r < l.rows ∧ k < l.cols ∧ (∀ i j, i < l.rows → j < l.cols → |x i j| ≤ |x r k|)
                ∧ FFmt.f32.Rounds .rup |x r k| code))
    ∧ (∀ (v : List FVal) (a : ℚ), (∀ x ∈ v, ∃ y, x.rat = some y ∧ |y| ≤ a) → (∃ x ∈ v, ∃ y, x.rat = some y ∧ |y| = a) →
        (maxAbs v).rat = some a)
    ∧ (∀ (fmt : Nat) (rm : RM) (sc v : FVal) (p x : ℚ), quantFmt fmt = true → rm ≠ .sr → sc.rat = some p → v.rat = some x →
        (p = 0 → quantElem fmt rm sc v = 0)
        ∧ (p ≠ 0 → fmt ≠ 23 → |x / p| ≤ (fmtTy fmt).ffmt.greatest → (fmtTy fmt).ffmt.Rounds rm (x / p) (quantElem fmt rm sc v))
        ∧ (p ≠ 0 → fmt = 23 → ∀ k : Int, RoundsToInt rm (x / (p / 64)) k →
            (quantElem fmt rm sc v : Int) = max (-128) (min 127 k) % 256))

/-- R199, R200, R202, R212: a part under way, and the follow-on of a landed copy, enter their forme's queue when it has room, with the
next arrival of their core; a stopped instruction's issuer takes one deferred trap, its handler waiting for the plane that issued it. -/
def Sys2Proof.Claim.EngineQueueEvents : Prop :=
  ∀ (s : State),
    let fk := s.ev.forme
    let f := s.forme fk
    let n := (s.core f.core).arrivals
    let joins (t : State) (e : MqEntry) : Prop :=
      (t.forme fk).mq = f.mq ++ [{ e with arrival := n }] ∧ (t.core f.core).arrivals = n + 1 ∧ (∀ k j, t.slug k j = s.slug k j)
        ∧ s.BytesAs t
    (∀ e r j u, f.transit = e :: r → f.mq.length < 8 → f.slugs.find? (fun m => m.2.owner) = some (j, u) →
        ∃ t lanes, exec .pitchPartStart s = .next t ∧ joins t { e with lanes := lanes } ∧ (t.forme fk).transit = r
          ∧ (¬(e.opc = 0x129 ∧ e.issuer ≠ fk) → lanes = e.lanes)
          ∧ (e.opc = 0x129 → e.issuer ≠ fk → ∀ k, k < 8 → lanes.look k = u.readV (8 * (e.mod.extractLsb' 12 4).toNat + k)))
    ∧ (∀ e r, f.follow = e :: r → f.mq.length < 8 →
        ∃ t, exec .cpymFollowOnEnqueue s = .next t ∧ joins t e ∧ (t.forme fk).follow = r)
    ∧ (8 ≤ f.mq.length → exec .pitchPartStart s = .next s ∧ exec .cpymFollowOnEnqueue s = .next s)
    ∧ (∀ k e, s.stoppedOf fk s.ev.slug = some (k, e) → s.formes.wf = true → s.Undisturbed → s.NoPartials → s.held = [] →
        let m := s.slug fk s.ev.slug
        let b := if (m.slot e.slotB).path.isSome then e.slotB else !e.slotB
        e.issuer = fk → e.slug = s.ev.slug →
        (m.hnd = none → m.tx = none → m.gathering = none → m.live = true → m.failed = false →
          ∃ t h, exec .deferredEngineTrap s = .next t ∧ m.RegsBut (t.slug fk s.ev.slug) [] ∧ s.SlugsAs t fk s.ev.slug
            ∧ (t.slug fk s.ev.slug).hnd = some h ∧ h.slotB = b ∧ h.mq = e.id ∧ h.unfinished = 1#32 <<< e.plane
            ∧ (∀ i, h.stashG.look i = m.g.look i) ∧ (∀ i, h.stashP.look i = m.p.look i) ∧ h.saved.path = (m.slot b).path
            ∧ (∃ p, ((t.slug fk s.ev.slug).slot b).path = some p ∧ p.mask = 1#32 <<< e.plane)
            ∧ h.record = s.record { s.recInfo fk s.ev.slug e.slotB e.pc (1#32 <<< e.plane) with
                eng := 2, core := some (s.forme k).core, deff := true } (s.stopFlt k e)
            ∧ (t.forme k).mq.head?.map (·.delivered) = some true)
        ∧ (∀ h, m.hnd = some h → h.mq ≠ e.id → exec .deferredEngineTrap s = .next s))

/-- The claims `EngineFormsEnterTheQueue`, `EngineQueueEvents` together. Completion: `exec` answers a next state for `TCFG`, `TZERO`,
`TLD`, `TST`, `TLDS`, `TSTS`, `MMA`, `MMAP`, `MMAS`, `MMASP`, `TMOV`, `TADD`, `TSCAL`, `TAMAX`, `TSTQ`, `PITCH_PART_START`,
`DEFERRED_ENGINE_TRAP`, `CPYM_FOLLOW_ON_ENQUEUE`. -/
def Obligations.EngineQueues : Prop :=
  Claim.EngineFormsEnterTheQueue
  ∧ Claim.EngineQueueEvents

/-! ## Device registers, host queues, packets, mailbox (spec/10 R307 to R317, R330 to R335, spec/14 R382, R391, spec/20 R484 to R488) -/

namespace Sys2Proof.Machine

/-- Two states differ in one partition alone. -/
structure State.PartOnly (s t : State) (p : Nat) (q : Partition) : Prop where
  device : { t with parts := s.parts } = s
  this : t.part p = q
  others : ∀ k, k ≠ p → t.part k = s.part k

/-- Two states differ in one host queue alone. -/
structure State.QueueOnly (s t : State) (p n : Nat) (k : HostQueue) : Prop where
  device : { t with parts := s.parts } = s
  partition : { t.part p with queues := (s.part p).queues } = s.part p
  this : t.queue p n = k
  queues : ∀ j, j ≠ n → t.queue p j = s.queue p j
  others : ∀ j, j ≠ p → t.part j = s.part j

/-- The queue stops with an error code (R315). -/
def HostQueue.failed (k : HostQueue) (code : BitVec 8) : HostQueue := { k with st := 5, err := code, head := none, deficit := 0 }

/-- Nothing on the device answers a write at a home: no transaction, no sleeper, no update-only copy, no held write. -/
def State.Calm (s : State) : Prop := s.Undisturbed ∧ s.NoPartials ∧ s.held = []

/-- Firmware reaches `n` bytes of a NORMAL page of a partition. -/
def State.FwMapped (s : State) (p va n : Nat) (need : Need) (pa : Nat) : Prop :=
  ∃ l, (s.translate none p va n need).2 = .ok (pa, l) ∧ l.mt = 0

/-- A signal has had a completion or an abort (R307): −1 is added, or the least of it and −1 is taken; no signal stands at 0. -/
def State.Signalled (s t : State) (p va : Nat) (abort : Bool) : Prop :=
  (va = 0 → ∀ a, t.physByte a = s.physByte a)
    ∧ ∀ pa, va ≠ 0 → va % 8 = 0 → s.FwMapped p va 8 .write pa → pa % 8 = 0 →
        let x := BitVec.ofNat 64 (s.numberAt pa 8)
        s.Stored t pa 8 (if abort then (if x.slt 0xFFFFFFFFFFFFFFFF then x else 0xFFFFFFFFFFFFFFFF) else x - 1).toNat

/-- The partition's only queue waits for its only started packet, with nothing behind it in the ring. -/
structure State.QueueWaits (s : State) (p n : Nat) (k : HostQueue) (x : Packet) : Prop where
  queues : (s.part p).queues = [(n, k)]
  waits : k.en = true ∧ k.st = 4 ∧ k.head = none ∧ k.running = [x] ∧ k.qrd = k.qwr
  packet : x.detached = false ∧ x.irq = false ∧ x.type ≠ 1 ∧ x.read = 0 ∧ x.low = false ∧ x.high = false ∧ x.first = false
  calm : s.Calm
  args : s.ev.part = p ∧ s.ev.index = n ∧ s.ev.size = x.id

/-- The waiting packet has ended (R313, R315): its signal is updated, the queue is IDLE. -/
def State.PacketOver (s t : State) (p n : Nat) (k : HostQueue) (x : Packet) (abort : Bool) : Prop :=
  t.queue p n = { k with st := 1, deficit := 0, running := [], aborts := if abort then k.aborts + 1 else k.aborts }
    ∧ s.Signalled t p x.csig abort

end Sys2Proof.Machine

/-- R242, R240, R486, R464, R332, R484, R402: a register write of a partition's own or the host's takes its value where its condition
holds, and is discarded elsewhere; nothing else changes; a locked interface refuses a foreign write to a protected register and
enters ERROR, and one in ERROR the tenant's own. -/
def Sys2Proof.Claim.PartitionRegisterWrites : Prop :=
  ∀ (s : State),
    let p := s.ev.part
    let q := s.part p
    let v := s.ev.value
    let writes (i : Instr) (ok : Prop) (q' : Partition) : Prop :=
      (ok → ∃ t, exec i s = .next t ∧ s.PartOnly t p q') ∧ (¬ ok → exec i s = .next s)
    let range (i : Instr) (ok : Prop) (r : FtRange) : Prop :=
      (ok → ∃ t, exec i s = .next t ∧ s.PartOnly t p { q with ft := (t.part p).ft }
        ∧ ∀ k, (t.part p).ft.look k = if k = s.ev.index then r else q.ft.look k) ∧ (¬ ok → exec i s = .next s)
    let ft := q.ft.look s.ev.index
    (q.exist = true → q.tdisp = .unlocked →
      writes .hsbaseWrite (v.toNat % 4096 = 0) { q with hsbase := v }
      ∧ writes .hssizeWrite (12 ≤ v.toNat ∧ v.toNat ≤ 26) { q with hssize := v }
      ∧ writes .hsrdWrite True { q with hsrd := v }
      ∧ writes .hskWrite (v = 0 ∨ (6 ≤ v.toNat ∧ v.toNat ≤ 20)) { q with hsk := v, hsCount := [] }
      ∧ writes .hentryWrite ((v.extractLsb' 0 32).toNat % 8 = 0) { q with hentry := v.extractLsb' 0 32 }
      ∧ range .ftbaseWrite (v.toNat % 2 ^ 18 = 0) { ft with base := v }
      ∧ range .ftlenWrite (v.toNat % 2 ^ 18 = 0) { ft with len := v }
      ∧ range .fttmplWrite (templateOk v = true) { ft with tmpl := v }
      ∧ (∃ t, exec .hobjWrite s = .next t ∧ s.PartOnly t p { q with hobj := (v.extractLsb' 0 54).zeroExtend 64, hst := 1, hlerr := 0 })
      ∧ (s.ev.index < 0x400 → s.shows p 3 = false → exec .ttEntryWrite s = .next s)
      ∧ (s.ev.index < 0x400 → s.shows p 3 = true → ∃ t, exec .ttEntryWrite s = .next t
          ∧ s.PartOnly t p { q with tt := (t.part p).tt }
          ∧ (∀ k, k ≠ s.ev.index / 4 → (t.part p).tt.look k = q.tt.look k)
          ∧ (let e := q.tt.look (s.ev.index / 4)
             let k := s.ev.index % 4
             let period := v.extractLsb' 0 48
             let discards : Prop := k = 3 ∨ k = 1 ∧ (v.extractLsb' 48 15 ≠ 0 ∨ 1 ≤ period.toNat ∧ period.toNat < 10000)
               ∨ k = 2 ∧ v.extractLsb' 54 10 ≠ 0
             (t.part p).tt.look (s.ev.index / 4) =
               if discards then e
               else if e.en then (if k = 1 ∧ v.getLsbD 63 = false then { e with en := false } else e)
               else if k = 0 then { e with next := v }
               else if k = 1 then { e with en := v.getLsbD 63, period := period }
               else { e with record := v.extractLsb' 0 54 }))
      ∧ (0x4000 ≤ s.ev.index → s.ev.index < 0x4040 → ∃ t, exec .barRegisterWrite s = .next t
          ∧ s.PartOnly t p { q with mboxReq := (t.part p).mboxReq }
          ∧ ∀ k, (t.part p).mboxReq.look k = if k = (s.ev.index - 0x4000) / 8 then v else q.mboxReq.look k)
      ∧ (0x8000 ≤ s.ev.index → s.ev.index < 0x9000 → q.msixPending = 0 → ∃ t, exec .barRegisterWrite s = .next t
          ∧ s.PartOnly t p { q with msixTable := (t.part p).msixTable }
          ∧ ∀ k, (t.part p).msixTable.look k = if k = (s.ev.index - 0x8000) / 8 then v else q.msixTable.look k))
    ∧ (q.exist = true → (q.tdisp = .locked ∨ q.tdisp = .run) → s.ev.tenant = false → s.ev.index < q.queuesHeld → s.ev.index < 128 →
        s.shows p 3 = true →
        let enters (t : State) : Prop := { t with parts := s.parts, agenda := s.agenda } = s
          ∧ t.agenda = .event .preemptRequest { part := p } :: s.agenda ∧ ∀ k, k ≠ p → t.part k = s.part k
        (∀ i ∈ ([.hsbaseWrite, .hssizeWrite, .hsrdWrite, .hskWrite, .hentryWrite, .hobjWrite, .ttEntryWrite,
          .queueBaseWrite, .queuePolicyWrite, .queueEnable, .queueDisable] : List Instr),
          ∃ t, exec i s = .next t ∧ enters t ∧ t.part p = { q with tdisp := .error })
        ∧ (∃ t, exec .mailboxDoorbell s = .next t ∧ enters t ∧ t.part p = { q with tdisp := .error, mboxRsp := (t.part p).mboxRsp }
          ∧ ∀ k, (t.part p).mboxRsp.look k = if q.mboxBusy ≠ none then q.mboxRsp.look k
              else if k = 0 then (q.mboxReq.look 0).extractLsb' 56 8 ++ 0x05#8 ++ (q.mboxReq.look 0).extractLsb' 32 16 ++ 0#32 else 0))
    ∧ (q.exist = true → q.tdisp = .error → s.ev.tenant = true → ∀ i ∈ ([.hsbaseWrite, .hentryWrite, .ftbaseWrite, .kick] : List Instr),
        exec i s = .next s)
    ∧ (q.exist = false → ∀ i ∈ ([.hsbaseWrite, .hentryWrite, .ftbaseWrite, .kick, .queueEnable, .barRegisterWrite] : List Instr),
        exec i s = .next s)

/-- R335, R330, R460, R391, R393: the physical function's registers: a drain budget of 10 to 10,000 µs, a slice base of 100 to 100,000
µs, a feature mask, a bandwidth record whose floors stay within 1,024 in all; a world's rates are its limits over the points that
hold its work. -/
def Sys2Proof.Claim.PhysicalFunctionRegisters : Prop :=
  ∀ (s : State),
    let p := s.ev.part
    let v := s.ev.value
    let n := s.ev.index
    (10 ≤ v.toNat ∧ v.toNat ≤ 10000 → ∃ t, exec .drainBudgetWrite s = .next t ∧ s.PartOnly t p { s.part p with drainUs := v })
    ∧ (¬(10 ≤ v.toNat ∧ v.toNat ≤ 10000) → exec .drainBudgetWrite s = .next s)
    ∧ (100 ≤ v.toNat ∧ v.toNat ≤ 100000 → exec .sliceBaseWrite s = .next { s with sliceBase := v })
    ∧ (¬(100 ≤ v.toNat ∧ v.toNat ≤ 100000) → exec .sliceBaseWrite s = .next s)
    ∧ (n < 6 → ∃ t, exec .featureMaskWrite s = .next t ∧ s.PartOnly t p { s.part p with masks := (t.part p).masks }
        ∧ ∀ k, t.featureMask p k = if k = n then v else s.featureMask p k)
    ∧ (let w := s.worlds.look n
       let w' : World := if s.ev.flag then { w with mlim := v.extractLsb' 32 32, mflr := v.extractLsb' 0 11 }
         else { w with flim := v.extractLsb' 32 32, fflr := v.extractLsb' 0 11 }
       let ok : Prop := 1 ≤ n ∧ n ≤ 4095 ∧ v.extractLsb' 11 21 = 0
         ∧ ((s.worlds.put n w').map (fun e => (if s.ev.flag then e.2.mflr else e.2.fflr).toNat)).sum ≤ 1024
       (ok → ∃ t, exec .bandwidthRecordWrite s = .next t ∧ { t with worlds := s.worlds } = s
          ∧ ∀ k, t.worlds.look k = if k = n then w' else s.worlds.look k)
       ∧ (¬ ok → exec .bandwidthRecordWrite s = .next s))
    ∧ (∃ t, exec .tokenRateRecompute s = .next t ∧ { t with worlds := s.worlds } = s
        ∧ ∀ k, t.worlds.look k = if k = n then
            { s.worlds.look n with memRate := (s.worlds.look n).mlim.toNat / max 1 s.ev.size
                                   fabRate := (s.worlds.look n).flim.toNat / max 1 s.ev.size } else s.worlds.look k)

/-- The claims `PartitionRegisterWrites`, `PhysicalFunctionRegisters` together. Completion: `exec` answers a next state for
`HSBASE_WRITE`, `HSSIZE_WRITE`, `HSRD_WRITE`, `HSK_WRITE`, `HENTRY_WRITE`, `HOBJ_WRITE`, `FTBASE_WRITE`, `FTLEN_WRITE`, `FTTMPL_WRITE`,
`TT_ENTRY_WRITE`, `BAR_REGISTER_WRITE`, `DRAIN_BUDGET_WRITE`, `SLICE_BASE_WRITE`, `FEATURE_MASK_WRITE`, `BANDWIDTH_RECORD_WRITE`,
`TOKEN_RATE_RECOMPUTE`. -/
def Obligations.FunctionRegisters : Prop :=
  Claim.PartitionRegisterWrites
  ∧ Claim.PhysicalFunctionRegisters

/-- R309, R310, R314, R315: writes of a host queue's block: a block past the held ones discards them; a base and a policy change only while EN is 0; a write with a Rsvd bit sends
the queue to ERROR with code 2; enabling sets QRD to QWR; disabling turns it OFF; a kick sets QWR, an overrun is error 4, and an
idle queue reads its next packet, a malformed one with its error code. Completion: `exec` answers a next state for `QUEUE_BASE_WRITE`,
`QUEUE_POLICY_WRITE`, `QUEUE_ENABLE`, `QUEUE_DISABLE`, `KICK`. -/
def Obligations.HostQueueRegisters : Prop :=
  ∀ (s : State),
    let p := s.ev.part
    let n := s.ev.index
    let v := s.ev.value
    let k := s.queue p n
    let gives (i : Instr) (k' : HostQueue) : Prop := ∃ t, exec i s = .next t ∧ s.QueueOnly t p n k'
    (s.part p).exist = true → (s.part p).tdisp = .unlocked → n < 256 →
    ((s.part p).queuesHeld ≤ n → ∀ i ∈ ([.queueBaseWrite, .queuePolicyWrite, .queueEnable, .queueDisable, .kick] : List Instr),
        exec i s = .next s)
    ∧ (n < (s.part p).queuesHeld →
    (let bad : Prop := v.extractLsb' 54 10 ≠ 0 ∨ v.extractLsb' 0 6 ≠ 0
     (bad → gives .queueBaseWrite (k.failed 0x02))
     ∧ (¬ bad → k.en = true → exec .queueBaseWrite s = .next s)
     ∧ (¬ bad → k.en = false → gives .queueBaseWrite { k with qbase := v.extractLsb' 6 48 }))
    ∧ (let lg := v.extractLsb' 0 5
       let bad : Prop := v.extractLsb' 32 32 ≠ 0 ∨ v.extractLsb' 5 15 ≠ 0
       let fit : Prop := 4 ≤ lg.toNat ∧ lg.toNat ≤ 16
       let k' : HostQueue := { k with prio := v.extractLsb' 28 3, weight := v.extractLsb' 20 8, log2n := lg }
       (k.en = true → gives .queueDisable { k with en := false, st := 0, head := none, aborts := 0, deficit := 0
                                                   running := k.running.map (fun x => { x with detached := true }) })
       ∧ (k.en = true → exec .queueEnable s = .next s ∧ exec .queuePolicyWrite s = .next s)
       ∧ ∀ i ∈ ([.queueEnable, .queuePolicyWrite, .queueDisable] : List Instr), k.en = false →
           (bad → gives i (k.failed 0x02))
           ∧ (¬ bad → ¬ fit → exec i s = .next s)
           ∧ (¬ bad → fit → v.getLsbD 31 = false → gives i { k' with st := if k.st = 5 then 0 else k.st })
           ∧ (¬ bad → fit → v.getLsbD 31 = true → k.st ≠ 5 →
               gives i { k' with en := true, qrd := k.qwr, st := 1, head := none, aborts := 0, deficit := 0 }))
    ∧ (let w := v.extractLsb' 0 32
       let kw : HostQueue := { k with qwr := w }
       (v.extractLsb' 32 32 ≠ 0 → gives .kick (k.failed 0x02))
       ∧ (v.extractLsb' 32 32 = 0 → (k.st = 0 ∨ k.st = 5) → gives .kick kw)
       ∧ (v.extractLsb' 32 32 = 0 → k.st ≠ 0 → k.st ≠ 5 → 2 ^ k.log2n.toNat < (w - k.qrd).toNat → gives .kick (kw.failed 0x04))
       ∧ (v.extractLsb' 32 32 = 0 → k.st = 1 → w = k.qrd → gives .kick { kw with st := 1, deficit := 0 })
       ∧ (v.extractLsb' 32 32 = 0 → 2 ≤ k.st.toNat → k.st ≠ 5 → (w - k.qrd).toNat ≤ 2 ^ k.log2n.toNat → gives .kick kw)
       ∧ (∀ pa, v.extractLsb' 32 32 = 0 → k.st = 1 → w ≠ k.qrd → (w - k.qrd).toNat ≤ 2 ^ k.log2n.toNat → s.NoPartials →
           s.FwMapped p ((k.qbase.toNat + k.qrd.toNat % 2 ^ k.log2n.toNat) * 64) 64 .read pa →
           let x : Packet := { words := (List.range 8).map (fun i => BitVec.ofNat 64 (natOf (s.physBytes (pa + 8 * i) 8))) }
           let reads (k' : HostQueue) : Prop :=
             ∃ t, exec .kick s = .next t ∧ s.QueueOnly { t with l2 := s.l2, fresh := s.fresh } p n k'
           (x.malformed = none → reads { kw with qrd := k.qrd + 1, st := 3, head := some x })
           ∧ ∀ e, x.malformed = some e → reads ({ kw with qrd := k.qrd + 1 }.failed e))))

/-- R313, R315, R316, R331, R378, R307: of a partition's queues one of the highest priority starts its packet: NOP and SIGNAL complete
at once, a COPY is handed to the copy units, a LAUNCH is submitted, a TIMED packet waits; a waiting BARRIER completes once every
signal is at 0 or below, aborted if one is below (it reads them one by one, in no indivisible snapshot), a TIMED packet at its time, and a
timeout aborts; each end updates CSIG. Completion: `exec` answers a next state for `PACKET_START`, `BARRIER_PASS`, `BARRIER_TIMEOUT`,
`TIMED_EXPIRY`. -/
def Obligations.PacketsStartAndEnd : Prop :=
  (∀ (s : State) (n : Nat) (k : HostQueue) (h : Packet),
    let p := s.ev.part
    (s.part p).queues = [(n, k)] → k.en = true → k.st = 3 → k.head = some h → k.running = [] → k.qrd = k.qwr → k.aborts = 0 →
    (s.part p).tdisp ≠ .error → s.power = .on → s.Calm → h.irq = false → h.detached = false → h.ah = false →
    let x : Packet := { h with id := (s.part p).serial, since := s.cyc, first := false }
    let idle (r : List Packet) : HostQueue := { k with st := 1, head := none, deficit := 0, running := r }
    let starts (f : State → Prop) : Prop := ∃ t, exec .packetStart s = .next t ∧ (t.part p).serial = (s.part p).serial + 1 ∧ f t
    (h.type = 0 → starts (fun t => t.queue p n = idle [] ∧ s.Signalled t p h.csig false))
    ∧ (h.type = 2 → starts (fun t => t.queue p n = idle [x] ∧ s.BytesAs t ∧ (t.part p).copies = (s.part p).copies ++
        [{ q := n, id := x.id, src := (h.word 2).toNat, dst := (h.word 3).toNat, len := (h.word 4).toNat }]))
    ∧ (h.type = 1 → s.activeCount p < s.launchLimit p → starts (fun t => t.queue p n = idle [x] ∧ s.BytesAs t
        ∧ t.accepted = s.accepted + 1 ∧ t.launch (s.freeLaunch 16384) = { part := p, origin := .packet n x.id, recAddr := (h.word 2).toNat
                                                                          st := .checking, order := s.accepted }))
    ∧ (∀ pa, h.type = 4 → h.csig = 0 → (h.word 2).toNat % 8 = 0 → s.FwMapped p (h.word 2).toNat 8 .write pa → pa % 8 = 0 →
        let y := BitVec.ofNat 64 (s.numberAt pa 8)
        starts (fun t => t.queue p n = idle [] ∧ s.Stored t pa 8
          (if h.word 4 = 0 then y + h.word 3 else if h.word 4 = 1 then h.word 3 else if y.slt (h.word 3) then y else h.word 3).toNat))
    ∧ (h.type = 5 → s.ptpNow < (h.word 2).toNat →
        starts (fun t => t.queue p n = { idle [x] with st := 4, deficit := k.quantum - 1 } ∨ t.queue p n = { idle [x] with st := 4, deficit := k.deficit - 1 })))
  ∧ (∀ (s u : State) (p n : Nat), s.pickQueue p = some (n, u) →
      s.canStart p n = true ∧ ∀ j, s.canStart p j = true → (s.queue p j).prio.toNat ≤ (s.queue p n).prio.toNat)
  ∧ (∀ (s : State) (p n : Nat) (k : HostQueue) (x : Packet), s.QueueWaits p n k x →
      let ends (i : Instr) (abort : Bool) : Prop := ∃ t, exec i s = .next t ∧ s.PacketOver t p n k x abort
      (x.type = 5 → (x.word 2).toNat ≤ s.ptpNow → ends .timedExpiry false)
      ∧ (x.type = 5 → s.ptpNow < (x.word 2).toNat → exec .timedExpiry s = .next s)
      ∧ (x.type = 3 → x.word 7 ≠ 0 → x.since + 1600 * (x.word 7).toNat ≤ s.cyc → ends .barrierTimeout true)
      ∧ (∀ sig : Nat → Int, x.type = 3 → s.ev.flag = true →
          (∀ i, 2 ≤ i → i ≤ 6 → x.word i ≠ 0 → (x.word i).toNat % 8 = 0
            ∧ ∃ pa, s.FwMapped p (x.word i).toNat 8 .read pa ∧ sig i = (BitVec.ofNat 64 (s.numberAt pa 8)).toInt) →
          ((∀ i, 2 ≤ i → i ≤ 6 → x.word i ≠ 0 → sig i = 0) → ends .barrierPass false)
          ∧ ((∀ i, 2 ≤ i → i ≤ 6 → x.word i ≠ 0 → sig i ≤ 0) → (∃ i, 2 ≤ i ∧ i ≤ 6 ∧ x.word i ≠ 0 ∧ sig i < 0) → ends .barrierPass true)
          ∧ ((∃ i, 2 ≤ i ∧ i ≤ 6 ∧ x.word i ≠ 0 ∧ 0 < sig i) →
              ∃ t, exec .barrierPass s = .next t ∧ t.queue p n = k ∧ s.BytesAs t))
      ∧ (∀ pa, x.type = 3 → s.ev.flag = false → x.word 2 ≠ 0 → (x.word 2).toNat % 8 = 0 → s.FwMapped p (x.word 2).toNat 8 .read pa →
          let sig := (BitVec.ofNat 64 (s.numberAt pa 8)).toInt
          ∃ t, exec .barrierPass s = .next t ∧ s.BytesAs t
            ∧ t.queue p n = { k with running := [{ x with read := 1, low := decide (sig < 0), high := decide (0 < sig) }] }))

/-- R382, R381, R383, R394: the doorbell hands the request of a partition to the physical function unless one is outstanding; a
refusal, and a request that nobody took up within a second, are answered `REFUSED`; a forward has firmware perform the request,
once a leaf that it changes has no access left to perform; a tenant's request in the state ERROR is answered 0x05;
WORLD_ALLOC, WORLD_FREE, ROOT_REQ and PEER_GRANT as the tables say; the response repeats OP and SEQ. Completion: `exec` answers a next
state for `MAILBOX_DOORBELL`, `PF_FORWARD`, `PF_REFUSE`, `MAILBOX_TIMEOUT`. -/
def Obligations.MailboxRequests : Prop :=
  ∀ (s : State),
    let p := s.ev.part
    let q := s.part p
    let r (w : Word) (st : BitVec 8) : Word := w.extractLsb' 56 8 ++ st ++ w.extractLsb' 32 16 ++ 0#32
    let answered (i : Instr) (st : BitVec 8) (w1 : Word) (f : State → Prop) : Prop :=
      ∃ t, exec i s = .next t ∧ (t.part p).mboxBusy = none ∧ t.pfRing = s.pfRing.erase p
        ∧ (∀ k, (t.part p).mboxRsp.look k = if k = 0 then r (q.mboxTaken.look 0) st else if k = 1 then w1 else 0) ∧ f t
    let w (i : Nat) : Word := q.mboxTaken.look i
    let op := ((w 0).extractLsb' 56 8).toNat
    let plain (op' : Nat) : Prop := q.mboxBusy ≠ none ∧ op = op' ∧ (w 0).extractLsb' 0 32 = 0
    let others (t : State) : Prop := ∀ k, k ≠ p → t.part k = s.part k
    (q.exist = true → q.tdisp = .unlocked →
      (q.mboxBusy = none → ∃ t, exec .mailboxDoorbell s = .next t ∧ (t.part p).mboxBusy = some s.cyc ∧ (t.part p).mboxTaken = q.mboxReq ∧ (t.part p).mboxTenant = s.ev.tenant
        ∧ t.pfRing = s.pfRing ++ [p] ∧ (t.part p).mboxRsp.look 0 = r (q.mboxReq.look 0) 0xFF ∧ others t)
      ∧ (q.mboxBusy ≠ none → exec .mailboxDoorbell s = .next s))
    ∧ (q.mboxBusy ≠ none → answered .pfRefuse 0x04 0 others)
    ∧ (q.mboxBusy = none → exec .pfRefuse s = .next s ∧ exec .pfForward s = .next s)
    ∧ (∀ c, q.mboxBusy = some c → (c + 1600000000 ≤ s.cyc → answered .mailboxTimeout 0x04 0 others)
        ∧ (s.cyc < c + 1600000000 → exec .mailboxTimeout s = .next s))
    ∧ (q.mboxBusy ≠ none → s.serveWaits p = true → exec .pfForward s = .next s)
    ∧ (q.mboxBusy ≠ none → q.tdisp = .error → q.mboxTenant = true → s.serveWaits p = false → answered .pfForward 0x05 0 others)
    ∧ (s.serveWaits p = false → (q.tdisp ≠ .error ∨ q.mboxTenant = false) →
    (q.mboxBusy ≠ none → op = 0 ∨ 7 < op → answered .pfForward 0x01 0 others)
    ∧ (q.mboxBusy ≠ none → 1 ≤ op → op ≤ 7 → (w 0).extractLsb' 0 32 ≠ 0 → answered .pfForward 0x02 0 others)
    ∧ (plain 1 → (q.worlds ≤ (s.worldsOf p).length → answered .pfForward 0x03 0 others)
        ∧ ∀ n, 1 ≤ n → n ≤ 4095 → (s.worldsOf p).length < q.worlds → s.worldFree n = true → (∀ m, 1 ≤ m → m < n → s.worldFree m = false) →
          answered .pfForward 0x00 (BitVec.ofNat 64 n) (fun t => ∀ k, t.worlds.look k = if k = n then { part := some p } else s.worlds.look k))
    ∧ (plain 2 → let n := (w 1).toNat
        ((s.worlds.look n).part ≠ some p ∨ s.worldBusy n = true → answered .pfForward 0x03 0 others)
        ∧ ((s.worlds.look n).part = some p → s.worldBusy n = false →
            answered .pfForward 0x00 0 (fun t => ∀ k, t.worlds.look k = if k = n then {} else s.worlds.look k)))
    ∧ (plain 3 → ((∀ n, n < 512 → s.roots.look n ≠ none) → answered .pfForward 0x03 0 others)
        ∧ ∀ n, n < 512 → s.roots.look n = none → (∀ m, m < n → s.roots.look m ≠ none) →
          answered .pfForward 0x00 (BitVec.ofNat 64 n) (fun t => ∀ k, t.roots.look k = if k = n then some p else s.roots.look k))
    ∧ (plain 7 → let d := (w 1).toNat
        let z := (w 2).toNat
        let v := (w 3).toNat
        (512 ≤ d ∨ 64 ≤ z ∨ 2 ≤ v → answered .pfForward 0x02 0 others)
        ∧ (d < 512 → z < 64 → v = 1 → q.peers.length < 64 →
            answered .pfForward 0x00 0 (fun t => ∀ e, e ∈ (t.part p).peers ↔ e = (d, z) ∨ e ∈ q.peers))
        ∧ (d < 512 → z < 64 → v = 0 → answered .pfForward 0x00 0 (fun t => ∀ e, e ∈ (t.part p).peers ↔ e ≠ (d, z) ∧ e ∈ q.peers))))

/-! ## Launches, placement, pre-emption, gatherings (spec/01 R19 to R49, spec/10 R318 to R336, spec/18 R468, R469) -/

namespace Sys2Proof.Machine

/-- A message on its way over a link, sent or still waiting for a permit. -/
def Cluster.onWay (c : Cluster) (down : Bool) (m : LinkMsg) : Prop :=
  m ∈ (if down then c.toLeaf ++ c.waitDown else c.toSched ++ c.waitUp)

/-- The slug that launched has its answer: its register has the value, no other register of it and no other slug has changed; a pinned
register of a diverged slug would take a trap instead (spec/15 R417). -/
def State.Told (s t : State) (fk sl : Nat) (g : BitVec 8) (x : Word) : Prop :=
  (s.slug fk sl).live = true → (s.slug fk sl).hnd = none → 0 < g.toNat → s.pinHolds fk sl g.toNat x = false →
    (t.slug fk sl).readG g.toNat = x ∧ (s.slug fk sl).RegsBut (t.slug fk sl) [.g g.toNat] ∧ s.SlugsAs t fk sl

/-- A forme that is a unit of placement by itself. -/
def State.OwnUnit (s : State) (fk : Nat) : Prop :=
  let f := s.forme fk
  (s.launch f.launch).unitSize = 1 ∧ formeKey f.launch f.fidx = fk ∧ f.fidx < 2 ^ 48

end Sys2Proof.Machine

/-- R320, R321, R308, R313, R322, R333, R468: LAUNCH_CHECKS_FINISH refuses a launch with the code of the first check it fails, and
accepts it with the entry its code was loaded at; LAUNCH_COMPLETE signals the completion, LAUNCH_END_BY_FAILURE the abort, and both
remove the launch and its formes; an occurrence of the time-triggered table is submitted or skipped, and moves by its period. Completion:
`exec` answers a next state for `LAUNCH_CHECKS_FINISH`, `LAUNCH_COMPLETE`, `LAUNCH_END_BY_FAILURE`, `TT_OCCURRENCE`. -/
def Obligations.LaunchesAreCheckedAndEnd : Prop :=
  (∀ (s : State) (k fk sl : Nat) (g : BitVec 8) (b : Bool) (pc : Addr) (mask : Mask),
    let l := s.launch k
    s.ev.index = k → 16384 ≤ k → l.st = .checking → l.origin = .device fk sl g b pc mask →
    (let refused (code : BitVec 8) : Prop :=
       ∃ t, exec .launchChecksFinish s = .next t ∧ (t.launch k).st = .none ∧ s.Told t fk sl g (code.zeroExtend 64)
     let ok1 : Prop := l.recAddr % 64 = 0 ∧ l.recordOk = true
     let ok2 : Prop := l.shapeOk = true ∧ (l.formeCount = 0 ∨ l.gangLevel = 2)
     s.rootPart l.galley ≠ some l.part → l.signal = 0 → (s.part l.part).queues = [] → s.launches.wf = true →
       (l.far = true → refused 0x81)
       ∧ (l.far = false → s.launchesFull l.part = true → refused 0x87)
       ∧ (l.far = false → s.launchesFull l.part = false →
         (¬ ok1 → refused 0x81)
         ∧ (ok1 → l.shapeOk = false → refused 0x82)
         ∧ (ok1 → ok2 → l.segsOk = false → refused 0x83)
         ∧ (ok1 → ok2 → l.segsOk = true → s.worldsOk l = false → refused 0x84)))
    ∧ (∀ u x, l.far = false → (s.modLaunch k (fun _ => l)).checkLaunch l = (u, .ok x) → u.launch k = l → u.freeLaunch 0 < k →
        let n := u.freeLaunch 0
        ∃ t, exec .launchChecksFinish s = .next t ∧ (t.launch k).st = .none ∧ u.Told t fk sl g 0
          ∧ t.launch n = { l with st := .active, order := u.cyc * 2 ^ 64 + l.order, oh := x.oh, entry := x.entry, pinG := x.pinG }))
  ∧ (∀ (s : State) (n : Nat), s.ev.index = n → s.Calm → (∀ c, s.CoreClean c) →
      let l := s.launch n
      let gone (t : State) (abort : Bool) : Prop :=
        t.launch n = {} ∧ s.Signalled t l.part l.signal abort ∧ ∀ k, (t.forme k).launch = n → t.forme k = {}
      (s.part l.part).queues = [] →
      (s.launchDone n = true → ∃ t, exec .launchComplete s = .next t ∧ gone t false)
      ∧ (s.launchDone n = false → exec .launchComplete s = .next s)
      ∧ (s.failDue n = true → s.launchCopying n = false → s.messagesLeft n = false → (s.part l.part).colls = [] →
          ∃ t, exec .launchEndByFailure s = .next t ∧ gone t true)
      ∧ (s.failDue n = true → (s.launchCopying n = true ∨ s.messagesLeft n = true) →
          ∃ t, exec .launchEndByFailure s = .next t ∧ t.launch n = { l with st := .failing } ∧ s.BytesAs t
            ∧ ∀ k, { t.forme k with slugs := (s.forme k).slugs } = s.forme k ∧ ∀ j, t.slug k j = s.slug k j)
      ∧ (s.failDue n = false → exec .launchEndByFailure s = .next s))
  ∧ (∀ (s : State),
      let p := s.ev.part
      let i := s.ev.index
      let e := (s.part p).tt.look i
      let skip : Prop := e.busy = true ∨ 5000 < s.ptpNow - e.next.toNat ∨ s.launchLimit p ≤ s.activeCount p
      let entryIs (t : State) (x : TtEntry) : Prop := ∀ k, (t.part p).tt.look k = if k = i then x else (s.part p).tt.look k
      let moved : TtEntry := { e with next := e.next + e.period.zeroExtend 64, en := e.period != 0 }
      (e.en = true → e.next.toNat ≤ s.ptpNow →
        (skip → ∃ t, exec .ttOccurrence s = .next t ∧ entryIs t { moved with skips := e.skips + 1 } ∧ t.accepted = s.accepted)
        ∧ (¬ skip → ∃ t, exec .ttOccurrence s = .next t ∧ entryIs t { moved with runs := e.runs + 1, busy := true }
            ∧ t.accepted = s.accepted + 1 ∧ t.launch (s.freeLaunch 16384) =
              { part := p, origin := .timed i, recAddr := e.record.toNat, st := .checking, order := s.accepted }))
      ∧ (e.en = false ∨ s.ptpNow < e.next.toNat → exec .ttOccurrence s = .next s))

/-- R25 to R28, R49, R57, R323 to R328, R336: the scheduler sends PLACE, RESERVE or RESTORE for the head of a partition, one unit at a time, to
the clusters the search finds: for a single forme the first cluster that can hold it and there the core with the most free slots,
for a pitch a rectangle of one die; a leaf binds every forme of its order, or none, and answers BOUND; a unit stands once all have
answered, and is unbound once one has refused; GO and
FORME_DISPATCH start it, every slug at ENTRY with its slot, a restored one as it was saved; granules that are cleared are free.
Completion: `exec` answers a next state for `PLACE`, `RESERVE`, `RESTORE`, `BOUND`, `GO`, `DONE`, `FORME_DISPATCH`, `GRANULE_CLEARED`. -/
def Obligations.FormesArePlacedAndStart : Prop :=
  (∀ (x y : Placing) (cs : List Nat) (n : Need') (i : Nat), (∀ c ∈ cs, c < 16) → x.forme cs n i = some y →
    ∃ q pre post, y.done = x.done ++ [q] ∧ q.fidx = i ∧ cs = pre ++ clusterOf q.core :: post ∧ 0 < x.records (clusterOf q.core)
      ∧ (x.room q.core).fits n = some q.base
      ∧ (∀ c ∈ clusterCores (clusterOf q.core), (x.room c).fits n ≠ none → (x.room c).slots < (x.room q.core).slots
          ∨ ((x.room c).slots = (x.room q.core).slots ∧ q.core ≤ c))
      ∧ ∀ cl ∈ pre, x.records cl = 0 ∨ ∀ c ∈ clusterCores cl, (x.room c).fits n = none)
  ∧ (∀ (x y : Placing) (cs : List Nat) (one : Bool) (pw ph first : Nat) (need : Nat → Need'), x.pitch cs one pw ph need first = some y →
      ∃ die x0 y0 new, die < 4 ∧ x0 + pw ≤ 8 ∧ y0 + ph ≤ 8 ∧ y.done = x.done ++ new
        ∧ new.map (·.core) = rectCores die x0 y0 pw ph ∧ new.map (·.fidx) = (List.range (pw * ph)).map (· + first))
  ∧ (∀ (s : State) (n first : Nat) (back : Bool) (x : Placing),
      let p := s.ev.part
      let l := s.launch n
      let ev : Instr := if back then .linkRestore else if l.unitSize = 1 then .linkPlace else .linkReserve
      let type : BitVec 8 := if back then 0x05 else if 1 < l.unitSize then 0x02 else 0x01
      let new := s.toBind n back x
      s.ev.flag = false → s.headUnit p = some (n, first, back) →
      ((s.part p).order ≠ none ∨ (back = false ∧ s.saveRoom l = false) → exec ev s = .next s)
      ∧ ((s.part p).order = none → (back = true ∨ s.saveRoom l = true) →
        (l.placeAt (s.needOf n l back) first (s.openClusters p) (s.placing p l) = none → exec ev s = .next s)
        ∧ (l.placeAt (s.needOf n l back) first (s.openClusters p) (s.placing p l) = some x →
          ∃ t, exec ev s = .next t
            ∧ (t.part l.part).order = some { launch := n, first := first, restore := back, formes := new.map (·.fidx)
                                             waits := placedClusters new, bound := x.bound }
            ∧ (back = false → (t.part l.part).saveUsed = (s.part l.part).saveUsed + l.unitSize * l.saveBytes)
            ∧ ∀ cl ∈ placedClusters new, ∃ m, (t.cluster cl).onWay true m ∧ m.type = type ∧ m.launch = n
                ∧ m.formes = (new.filter (fun q => clusterOf q.core == cl)).map (fun q => (n, q.fidx)))))
  ∧ (∀ (s : State) (m : LinkMsg) (r : List LinkMsg) (ev : Instr),
      let cl := s.ev.core
      let l := s.launch m.launch
      let n := m.launch
      let back := m.type == 0x05
      s.ev.flag = true → s.ev.tenant = false → (s.cluster cl).toLeaf = m :: r →
      (ev, m.type) ∈ ([(.linkPlace, 0x01), (.linkReserve, 0x02), (.linkRestore, 0x05)] : List (Instr × BitVec 8)) →
      let answer (ok : Bool) : LinkMsg := { type := 0x81, launch := n, formes := m.formes, ok := ok }
      (s.leafFinds cl m = none → ∃ t, exec ev s = .next t ∧ t.formes = s.formes ∧ (t.cluster cl).onWay false (answer false))
      ∧ (∀ x, s.leafFinds cl m = some x → s.Calm → (x.done.map (·.fidx)).Nodup → (∀ q ∈ x.done, q.fidx < 2 ^ 48) →
        ∃ t, exec ev s = .next t ∧ (t.cluster cl).onWay false (answer true)
          ∧ (∀ q ∈ x.done, let fk := formeKey n q.fidx
              (t.forme fk).place = .bound ∧ (t.forme fk).core = q.core ∧ ((t.forme fk).goes = true ↔ m.cores = [])
              ∧ (back = true → ∀ j, { t.slug fk j with vb := 0 } = { s.slug fk j with vb := 0 })
              ∧ (back = false → (t.forme fk).launch = n ∧ (t.forme fk).fidx = q.fidx
                  ∧ ∀ j, j < l.ext 1 → { t.slug fk j with vb := 0 } = l.freshSlug q.fidx j))
          ∧ (∀ q, x.done = [q] → back = false →
              let fk := formeKey n q.fidx
              let k := t.core q.core
              let b := (t.cluster (clusterOf q.core)).binds.look (t.forme fk).bind
              b.v = true ∧ b.launch = n ∧ b.fidx = q.fidx ∧ b.core = coreInCluster q.core ∧ (b.reserved = true ↔ m.cores ≠ [])
              ∧ (∀ i, i < l.ext 1 * l.alloc → (k.regs.look (q.base.1 + i)).holder = some fk ∧ (k.regs.look (q.base.1 + i)).world = l.world)
              ∧ (∀ i, i < l.spad → (k.spad.look (q.base.2.1 + i)).holder = some fk)
              ∧ (∀ i, i < l.accNeed → (k.accs.look (q.base.2.2 + i)).holder = some fk))))
  ∧ (∀ (s : State) (m : LinkMsg) (r : List LinkMsg), let cl := s.ev.core
      ((s.cluster cl).toLeaf = m :: r → m.type = 0x03 → ∃ t, exec .linkGo s = .next t
        ∧ ∀ e ∈ m.formes, (s.forme (formeKey e.1 e.2)).place = .bound → (t.forme (formeKey e.1 e.2)).goes = true
            ∧ (t.forme (formeKey e.1 e.2)).place = .bound)
      ∧ ((s.cluster cl).toSched = m :: r → m.type = 0x82 → ∃ t, exec .linkDone s = .next t
          ∧ (t.launch m.launch).ended = (s.launch m.launch).ended + m.formes.length)
      ∧ (∀ o, let p := (s.launch m.launch).part
          let n := m.launch
          (s.cluster cl).toSched = m :: r → m.type = 0x81 → (s.part p).order = some o → o.launch = n →
          let bad : Prop := o.refused = true ∨ m.ok = false ∨ (s.launch n).st ≠ .active
          (o.waits.erase cl ≠ [] → ∃ t, exec .linkBound s = .next t
            ∧ (t.part p).order = some { o with waits := o.waits.erase cl, refused := o.refused || !m.ok || (s.launch n).st != .active })
          ∧ (o.waits.erase cl = [] → bad → ∃ t, exec .linkBound s = .next t ∧ (t.part p).order = none
              ∧ ∀ i ∈ o.formes, (s.forme (formeKey n i)).place = .bound →
                  if o.restore then (t.forme (formeKey n i)).place = .saved else t.forme (formeKey n i) = {})
          ∧ (o.waits.erase cl = [] → ¬ bad → ∃ t, exec .linkBound s = .next t ∧ (t.part p).order = none
              ∧ (t.launch n).boundTo = o.bound
              ∧ (o.restore = true → (t.part p).savedUnits = (s.part p).savedUnits.erase (n, o.first))
              ∧ (o.restore = false → (t.launch n).next = (if o.first = (s.launch n).next then o.first + (s.launch n).unitSize
                  else (s.launch n).next))
              ∧ (1 < (s.launch n).unitSize → ∀ i ∈ o.formes,
                  ∃ g, (t.cluster (clusterOf (s.forme (formeKey n i)).core)).onWay true g ∧ g.type = 0x03 ∧ (n, i) ∈ g.formes))))
  ∧ (∀ (s : State), let fk := s.ev.forme
      let f := s.forme fk
      s.OwnUnit fk → f.place = .bound → s.Calm →
      (f.goes = false ∨ s.granulesReady fk = false ∨ s.mayNotStart fk = true → exec .formeDispatch s = .next s)
      ∧ (f.goes = true → s.granulesReady fk = true → s.mayNotStart fk = false → (s.core f.core).slots = [] → f.slugs.wf = true →
          (f.slugs.filter (fun m => m.2.live)).length ≤ 64 →
          ∃ t, exec .formeDispatch s = .next t ∧ (t.forme fk).place = .running
            ∧ ∀ j, (s.slug fk j).live = true → (s.slug fk j).RegsBut (t.slug fk j) [] ∧ (t.slug fk j).a.path = (s.slug fk j).a.path
                ∧ (t.slug fk j).h < 64 ∧ (t.core f.core).slots.look (t.slug fk j).h = some (fk, j)))
  ∧ (∀ (s : State), let k := s.ev.core
      let free (g : Granule) : Granule := if g.holder = none ∧ g.freeAt ≤ s.cyc then {} else g
      s.Calm → (s.core k).spad.wf = true →
      ∃ t, exec .granuleCleared s = .next t ∧ ∀ i,
        (t.core k).regs.look i = free ((s.core k).regs.look i) ∧ (t.core k).spad.look i = free ((s.core k).spad.look i)
        ∧ (t.core k).accs.look i = free ((s.core k).accs.look i)
        ∧ ((∀ j, free ((s.core k).spad.look j) = {}) → (t.core k).p = 1))

/-- R330, R334, R335, R323, R336: a pre-emption asked for by the physical function reaches the leaf of every cluster its formes stand on;
the leaf lets a forme drain, or saves it once it is at rest; at the end of its budget it is saved as it is; the scheduler puts a
unit that is saved whole among those to restore; a slice of the shared pool goes to the next partition in index order. -/
def Sys2Proof.Claim.PreemptionSavesFormes : Prop :=
  (∀ (s : State) (fk : Nat),
    let f := s.forme fk
    let p := (s.launch f.launch).part
    (s.formes.map (·.1)).contains fk = true → s.formes.wf = true → f.place.resident = true → s.OwnUnit fk →
    (s.ev.flag = true ∧ s.ev.part = p ∨ s.ev.flag = false ∧ s.ev.index = f.launch) →
    ∃ t m, exec .preemptRequest s = .next t ∧ (t.cluster (clusterOf f.core)).onWay true m ∧ m.type = 0x04
      ∧ (fk / 2 ^ 48, fk % 2 ^ 48) ∈ m.formes)
  ∧ (∀ (s : State) (n i : Nat) (r : List LinkMsg),
      let fk := formeKey n i
      (s.cluster s.ev.core).toLeaf = { type := 0x04, formes := [(n, i)] } :: r → (s.forme fk).place = .running → s.OwnUnit fk → i < 2 ^ 48 →
      (s.atRest fk = false → ∃ t d, exec .linkPreempt s = .next t ∧ (t.forme fk).place = .draining ∧ (t.forme fk).drain = some d)
      ∧ (s.atRest fk = true → s.copying fk = true ∨ s.saveWaits fk = true →
          ∃ t, exec .linkPreempt s = .next t ∧ (t.forme fk).place = .saving ∧ ∀ j, t.slug fk j = s.slug fk j)
      ∧ (s.atRest fk = true → s.copying fk = false → s.saveWaits fk = false → ∃ t, exec .linkPreempt s = .next t ∧ (t.forme fk).place = .saved
          ∧ (t.cluster (clusterOf (s.forme fk).core)).onWay false { type := 0x83, launch := n, formes := [(n, i)] }))
  ∧ (∀ (s : State) (d : Nat), let fk := s.ev.forme
      let f := s.forme fk
      f.place = .draining → f.drain = some d → s.OwnUnit fk →
      (s.cyc < d → exec .drainBudgetExpiry s = .next s)
      ∧ (d ≤ s.cyc → s.Calm → s.copying fk = false → (∀ g ∈ f.gathers, g.closed = false) → ∃ t, exec .drainBudgetExpiry s = .next t ∧ (t.forme fk).place = .saved
          ∧ (t.cluster (clusterOf f.core)).onWay false { type := 0x83, launch := f.launch, formes := [(f.launch, f.fidx)] })
      ∧ (d ≤ s.cyc → s.Calm → s.copying fk = true ∨ (∃ g ∈ f.gathers, g.closed = true) → ∃ t, exec .drainBudgetExpiry s = .next t ∧ (t.forme fk).place = .saving
          ∧ ∀ j, t.slug fk j = s.slug fk j))
  ∧ (∀ (s : State) (n i : Nat) (r : List LinkMsg),
      let fk := formeKey n i
      let p := (s.launch n).part
      (s.ev.flag = true → (s.cluster s.ev.core).toSched = { type := 0x83, launch := n, formes := [(n, i)] } :: r →
        (s.launch n).unitSize = 1 → (s.forme fk).place = .saved → (s.launch n).st = .active → (n, i) ∉ (s.part p).savedUnits →
        ∃ t, exec .linkSaved s = .next t ∧ (t.part p).savedUnits = (s.part p).savedUnits ++ [(n, i)])
      ∧ (s.ev.flag = false → s.ev.forme = fk → (s.forme fk).launch = n → (s.forme fk).fidx = i → s.OwnUnit fk →
          s.copying fk = false → s.saveWaits fk = false → ((s.forme fk).place = .saving ∨ (s.forme fk).place = .draining ∧ s.atRest fk = true) →
          ∃ t, exec .linkSaved s = .next t ∧ (t.forme fk).place = .saved))
  ∧ (∀ (s : State),
      (s.sliceOver = false → exec .sliceEnd s = .next s)
      ∧ (s.sliceOver = true → ∃ t, exec .sliceEnd s = .next t ∧ t.pool.part = s.nextSlice
          ∧ ∀ p, s.nextSlice = some p → t.pool.sliceEnd = s.cyc + 1600 * ((s.part p).poolWeight * s.sliceBase.toNat)
              ∧ s.wantsPool p = true ∧ p < 64
              ∧ (s.pool.part = none → ∀ j, j < p → s.wantsPool j = false)
              ∧ ∀ o, s.pool.part = some o → o < 64 → ∀ i, 1 ≤ i → (o + i) % 64 ≠ p → (∀ j, 1 ≤ j → j ≤ i → (o + j) % 64 ≠ p) →
                  s.wantsPool ((o + i) % 64) = false))

/-- R41 to R45, R139: a yield ends at its cycle; a gathering whose hold is over lets its slugs go on when no slug can be spared, and
begins a regroup otherwise; a regroup moves each lane it planned, registers, predicates and lane id with it, and ends the slugs
that are left without lanes. -/
def Sys2Proof.Claim.GatheringsRegroup : Prop :=
  ∀ (s : State),
    let fk := s.ev.forme
    let f := s.forme fk
    let pc : Addr := s.ev.addr.extractLsb' 0 54
    (let m := s.slug fk s.ev.slug
     let x := m.slot (!s.ev.flag)
     ∃ t, exec .yieldExpiry s = .next t ∧ s.OutsideAs t fk s.ev.slug ∧ m.RegsBut (t.slug fk s.ev.slug) []
      ∧ m.RestAs (t.slug fk s.ev.slug) (!s.ev.flag)
      ∧ (t.slug fk s.ev.slug).slot (!s.ev.flag)
          = { x with yielding := x.yielding.filter (fun n => decide (s.cyc < n)) })
    ∧ (∀ g, f.gathers = [g] → g.pc = pc → g.closed = false → g.slugs.Nodup → (∀ j ∈ g.slugs, (s.slug fk j).paths = 1) →
        (s.cyc < g.close → exec .recastHoldExpiry s = .next s)
        ∧ (g.close ≤ s.cyc → (f.lanesOf g.slugs).length + 31 < 32 * (g.slugs.length + 1) ∧ 32 * g.slugs.length ≤ (f.lanesOf g.slugs).length + 31 →
            ∃ t, exec .recastHoldExpiry s = .next t ∧ (t.forme fk).gathers = [] ∧ ∀ j ∈ g.slugs,
              (s.slug fk j).RegsBut (t.slug fk j) [] ∧ (t.slug fk j).gathering = none
              ∧ (t.slug fk j).allPaths = [{ pk := false, pc := pc + 8, mask := (s.slug fk j).liveLanes }])
        ∧ (g.close ≤ s.cyc → (f.lanesOf g.slugs).length + 31 < 32 * g.slugs.length →
            ∃ t, exec .recastHoldExpiry s = .next t ∧ (t.forme fk).gathers = [{ g with closed := true
                                                                                       done := s.cyc + 24 + ((f.plan g).length * 8 * (s.launch f.launch).alloc + 63) / 64 }]
              ∧ ∀ j, t.slug fk j = s.slug fk j))
    ∧ (∀ g, f.gathers = [g] → g.pc = pc → g.closed = true → g.slugs.Nodup → g.slugs ≠ [] → s.Undisturbed →
        ((f.lanesOf g.slugs).map (·.1)).Nodup →
        (∀ j ∈ g.slugs, (s.slug fk j).live = true ∧ j < 32 ∧ (s.slug fk j).v.wf = true ∧ (s.slug fk j).liveLanes ≠ 0) →
        (s.cyc < g.done → exec .regroupComplete s = .next s)
        ∧ (g.done ≤ s.cyc →
            ∃ t, exec .regroupComplete s = .next t ∧ (t.forme fk).gathers = []
              ∧ (∀ v j q j' q', ((v, j, q), (j', q')) ∈ f.plan g →
                  (∀ n, ((t.slug fk j').readV n).toList.getD q' 0 = ((s.slug fk j).readV n).toList.getD q 0)
                  ∧ (∀ n, ((t.slug fk j').readP n).getLsbD q' = ((s.slug fk j).readP n).getLsbD q ∨ 16 ≤ n)
                  ∧ ((t.forme fk).remap.look v).moved = some (BitVec.ofNat 5 j', BitVec.ofNat 5 q')
                  ∧ (t.slug fk j').liveLanes.getLsbD q' = true)
              ∧ (∀ j ∈ g.slugs, j ∉ f.receivers (f.needed g) g.slugs → (t.slug fk j).live = false)
              ∧ ∀ j ∈ f.receivers (f.needed g) g.slugs, (t.slug fk j).live = true ∧ (t.slug fk j).gathering = none
                  ∧ ∀ n q, q < 32 → (s.slug fk j).liveLanes.getLsbD q = true →
                      ((t.slug fk j).readV n).toList.getD q 0 = ((s.slug fk j).readV n).toList.getD q 0))

/-- The claims `PreemptionSavesFormes`, `GatheringsRegroup` together. Completion: `exec` answers a next state for `PREEMPT_REQUEST`,
`PREEMPT`, `DRAIN_BUDGET_EXPIRY`, `SAVED`, `SLICE_END`, `YIELD_EXPIRY`, `RECAST_HOLD_EXPIRY`, `REGROUP_COMPLETE`. -/
def Obligations.UnitsMoveAndRegroup : Prop :=
  Claim.PreemptionSavesFormes
  ∧ Claim.GatheringsRegroup

/-! ## Partitions, keys, interfaces, code loading (spec/14 R380 to R403, spec/15 R437, spec/18 R455, spec/20 R486) -/

namespace Sys2Proof.Machine

/-- No line of a frame carries a generation that the frame is still to have before its next scrub (R238, R239). -/
def State.Aged (s : State) (f : Nat) : Prop :=
  ∀ i, i < 2048 → (s.lineGen.look (f * 2048 + i) - (s.frames.look f).scrub).toNat ≤ ((s.frames.look f).gen - (s.frames.look f).scrub).toNat

/-- No resize of the partition is in progress or waits, save the one in progress that `mine` names (R387). -/
def State.MayResize (s : State) (p : Nat) (mine : Bool) : Prop := (s.resizing p = false ∨ mine = true) ∧ (s.part p).resizes = []

/-- A resize request waits for those before it, and says so in the status of the last one (R387, R389). -/
def State.Waits (s t : State) (p : Nat) (i : Instr) : Prop :=
  s.PartOnly t p { s.part p with resizes := (s.part p).resizes ++ [(i, s.ev)], resizeStatus := 0xFF }

/-- Every byte of a frame reads zero. -/
def State.FrameZero (s : State) (f : Nat) : Prop := ∀ a, a / 2 ^ 18 = f → s.physByte a = 0

end Sys2Proof.Machine

/-- R380, R384 to R390, R238, R335, R336: a partition comes into existence with the amounts asked for, or not at all; it grows by a kind, one resize
at a time in the order of arrival and a refused one with status 3; a
cluster begins to leave it and is free once it is empty; frames leave with their leaves and read zero afterwards; a Function Level
Reset ends its launches and keeps its holdings, with every frame zero, its keys and worlds gone; its destruction returns them. Completion:
`exec` answers a next state for `PARTITION_CREATE`, `PARTITION_GROW`, `POOL_COUNT_WRITE`, `CLUSTER_SHRINK`, `FRAME_WITHDRAW`,
`FUNCTION_LEVEL_RESET`, `PARTITION_DESTROY`. -/
def Obligations.PartitionsComeAndGo : Prop :=
  ∀ (s : State),
    let p := s.ev.part
    let q := s.part p
    let n (k : Nat) : Nat := natOf ((s.ev.bytes.drop (8 * (k - 1))).take 8)
    let c := s.ev.core
    let fs := (List.range s.ev.size).map (· + s.ev.index)
    let v := s.ev.value.toNat
    let tidy : Prop := s.frames.wf = true ∧ s.launches.wf = true ∧ s.keys.wf = true ∧ s.parts.wf = true
    (s.power = .on → p < 64 → q.exist = false → tidy →
      let can : Prop := ∀ k ∈ kinds, s.canGrant p k (n k) (s.ev.startOf k) = true
      (can → ∃ t, exec .partitionCreate s = .next t
        ∧ t.part p = { exist := true, ways := n 5, engines := n 7, binds := n 8, worlds := n 9, memFloor := n 10, fabFloor := n 11
                       keyIds := n 12, launches := n 13, queuesHeld := n 14 }
        ∧ (∀ x, t.cluster x = if x ∈ (s.freeClusters c).take (n 1) then { s.cluster x with holder := .part p } else s.cluster x)
        ∧ ∀ f, (f ∈ s.freeFrames 0 s.ev.index (n 3 / 2 ^ 18) ∨ f ∈ s.freeFrames 1 s.ev.size (n 4 / 2 ^ 18) → (t.frames.look f).owner = some p)
            ∧ (¬(f ∈ s.freeFrames 0 s.ev.index (n 3 / 2 ^ 18) ∨ f ∈ s.freeFrames 1 s.ev.size (n 4 / 2 ^ 18)) → t.frames.look f = s.frames.look f))
      ∧ (¬ can → exec .partitionCreate s = .next s))
    ∧ (q.exist = true → exec .partitionCreate s = .next s)
    ∧ (q.exist = false → exec .partitionGrow s = .next s)
    ∧ (q.exist = true →
        let k := s.ev.index
        let can : Prop := s.canGrant p k v c = true
        (s.resizing p = true → ∃ t, exec .partitionGrow s = .next t ∧ s.Waits t p .partitionGrow)
        ∧ (s.MayResize p false →
          (¬ can → ∃ t, exec .partitionGrow s = .next t ∧ s.PartOnly t p { q with resizeStatus := 0x03 })
          ∧ (can → k = 9 → ∃ t, exec .partitionGrow s = .next t ∧ s.PartOnly t p { q with worlds := q.worlds + v, resizeStatus := 0x00 })
          ∧ (can → k = 13 → ∃ t, exec .partitionGrow s = .next t ∧ s.PartOnly t p { q with launches := q.launches + v, resizeStatus := 0x00 })
          ∧ (can → k = 1 → ∃ t, exec .partitionGrow s = .next t ∧ (t.part p).resizeStatus = 0x00
              ∧ ∀ x, t.cluster x = if x ∈ (s.freeClusters c).take v then { s.cluster x with holder := .part p } else s.cluster x)))
    ∧ (q.exist = true → s.ev.index = 2 → q.saveFrames.length ≤ v →
        ∃ t, exec .poolCountWrite s = .next t ∧ (t.part p).saveFrames = (q.saveFrames ++ (s.spareFrames p 0).take (v - q.saveFrames.length)).take v
          ∧ ∀ f ∈ (s.spareFrames p 0).take (v - q.saveFrames.length), s.Aged f → t.FrameZero f)
    ∧ (q.exist = true → s.ev.index = 2 → v < q.saveFrames.length → exec .poolCountWrite s = .next s)
    ∧ (s.resizing p = true → s.shrinking p c = false → ∃ t, exec .clusterShrink s = .next t ∧ s.Waits t p .clusterShrink)
    ∧ (s.MayResize p (s.shrinking p c) → s.mayShrink p c = false →
        ∃ t, exec .clusterShrink s = .next t ∧ s.PartOnly t p { q with resizeStatus := 0x03 })
    ∧ (c < 16 → (s.cluster c).holder = .part p → s.MayResize p (s.shrinking p c) →
        (s.clusterEmpty c = true → (s.cluster c).doomed = false → ∃ t, exec .clusterShrink s = .next t ∧ (t.cluster c).holder = .free
          ∧ (t.part p).resizeStatus = 0x00 ∧ (t.cluster c).tlb = [] ∧ ∀ k ∈ clusterCores c, (t.core k).tlb = [])
        ∧ (s.clusterEmpty c = false → s.shrinking p c = true → exec .clusterShrink s = .next s)
        ∧ (s.clusterEmpty c = false → s.shrinking p c = false → ∃ t, exec .clusterShrink s = .next t ∧ (t.cluster c).holder = .part p
            ∧ (t.part p).resizeStatus = 0xFF ∧ t.shrinking p c = true))
    ∧ (let mine := (s.withdrawing p).contains fs
       (s.resizing p = true → mine = false → ∃ t, exec .frameWithdraw s = .next t ∧ s.Waits t p .frameWithdraw)
       ∧ (s.MayResize p mine → s.mayWithdraw p fs = false → mine = false →
          ∃ t, exec .frameWithdraw s = .next t ∧ s.PartOnly t p { q with resizeStatus := 0x03 })
       ∧ (s.MayResize p mine → s.mayWithdraw p fs = true → s.withdrawReady p fs = true →
          ∃ t, exec .frameWithdraw s = .next t ∧ (t.part p).resizeStatus = 0x00
            ∧ ∀ f ∈ fs, (t.frames.look f).owner = none ∧ (t.frames.look f).key = 0 ∧ (s.Aged f → t.FrameZero f))
       ∧ (s.MayResize p mine → s.mayWithdraw p fs = true → s.withdrawReady p fs = false →
          ∃ t, exec .frameWithdraw s = .next t ∧ t.frames = s.frames ∧ (mine = true → t = s)
            ∧ (mine = false → (t.part p).resizeStatus = 0xFF ∧ (t.withdrawing p).contains fs = true)))
    ∧ (q.exist = true → tidy → ∃ t, exec .functionLevelReset s = .next t
        ∧ (∀ j, (s.launch j).part = p → (t.launch j).st = .none)
        ∧ (∀ f, f ∈ s.framesHeld p 0 ∨ f ∈ s.framesHeld p 1 → (t.frames.look f).owner = some p ∧ (t.frames.look f).key = 0
            ∧ (s.Aged f → t.FrameZero f))
        ∧ (∀ k, (t.keys.look k).holder ≠ some p) ∧ (∀ w, (s.worlds.look w).part = some p → t.worlds.look w = {})
        ∧ (∀ j, (t.queue p j).en = false ∧ (t.queue p j).running = [])
        ∧ (t.part p).exist = true ∧ (t.part p).worlds = q.worlds ∧ (t.part p).queuesHeld = q.queuesHeld
        ∧ (t.part p).hoh = none ∧ (t.part p).objs = [] ∧ (t.part p).savedUnits = [])
    ∧ (q.exist = true → tidy → ∃ t, exec .partitionDestroy s = .next t ∧ t.part p = {}
        ∧ (∀ f, f ∈ s.framesHeld p 0 ∨ f ∈ s.framesHeld p 1 → (t.frames.look f).owner = none)
        ∧ (∀ r, t.roots.look r ≠ some p) ∧ (∀ x, x < 16 → (t.cluster x).holder ≠ .part p))
    ∧ (q.exist = false → exec .functionLevelReset s = .next s ∧ exec .partitionDestroy s = .next s)

/-- R395, R397, R402, R403: keys are set and cleared only in the partition's session, within its allowance, and not under frames recorded
under the id; an interface goes from UNLOCKED by a lock to LOCKED, by a start to RUN, and by a stop back with the steps of a reset;
a port whose tag check failed drops its groups and contains the launches it served until its session has new keys. Completion: `exec`
answers a next state for `KEY_SET`, `KEY_CLEAR`, `SPDM_SESSION_SETUP`, `PORT_SESSION_REKEY`, `FABRIC_REKEY`, `PORT_TAG_FAILURE`,
`LOCK_INTERFACE_REQUEST`, `START_INTERFACE_REQUEST`, `STOP_INTERFACE_REQUEST`. -/
def Obligations.KeysInterfacesPorts : Prop :=
  ∀ (s : State),
    let p := s.ev.part
    let q := s.part p
    let n := s.ev.index
    let x := s.keys.look n
    let allowed : Prop := q.keysOpen = true ∧ 1 ≤ n ∧ n ≤ 239 ∧ s.ev.bytes.length = 32
      ∧ (x.holder = none ∧ (s.keysOf p).length < q.keyIds ∨ x.holder = some p ∧ s.keyRecorded p n = false)
    let keyIs (t : State) (y : KeySlot) : Prop := { t with keys := s.keys } = s ∧ ∀ k, t.keys.look k = if k = n then y else s.keys.look k
    let portIs (t : State) (y : FabPort) : Prop := { t with ports := s.ports } = s ∧ ∀ k, t.ports.look k = if k = n then y else s.ports.look k
    let port := s.ports.look n
    (allowed → ∃ t, exec .keySet s = .next t ∧ keyIs t { holder := some p, key := BitVec.ofNat 256 (natOf s.ev.bytes), installed := true })
    ∧ (¬ allowed → exec .keySet s = .next s)
    ∧ (q.keysOpen = true ∧ x.holder = some p → ∃ t, exec .keyClear s = .next t ∧ keyIs t {})
    ∧ (¬(q.keysOpen = true ∧ x.holder = some p) → exec .keyClear s = .next s)
    ∧ (s.ev.flag = true → ∃ t, exec .spdmSessionSetup s = .next t ∧ s.PartOnly t p { q with keysOpen := q.exist })
    ∧ (s.ev.flag = false → port.enabled = true → ∃ t, exec .spdmSessionSetup s = .next t ∧ portIs t { port with keyNo := 1, groups := 0 })
    ∧ (n < 32 → ∃ t, exec .portSessionRekey s = .next t ∧ portIs t { port with dropping := false, keyNo := port.keyNo + 1, groups := 0 })
    ∧ (port.enabled = true → ∃ t, exec .fabricRekey s = .next t ∧ portIs t { port with keyNo := port.keyNo + 1, groups := 0 })
    ∧ (n < 32 → ∃ t, exec .portTagFailure s = .next t ∧ (t.ports.look n).dropping = true
        ∧ ∀ j ∈ s.ev.launches, (s.launch j).st = .active → (t.launch j).st = .failing ∧ (t.launch j).failCode = some 0x41)
    ∧ (32 ≤ n → exec .portSessionRekey s = .next s ∧ exec .portTagFailure s = .next s)
    ∧ (∃ t, exec .lockInterfaceRequest s = .next t ∧ s.PartOnly t p { q with tdisp := if q.tdisp = .unlocked then .locked else q.tdisp })
    ∧ (∃ t, exec .startInterfaceRequest s = .next t ∧ s.PartOnly t p { q with tdisp := if q.tdisp = .locked then .run else q.tdisp })
    ∧ (q.tdisp = .run ∨ q.tdisp = .error → ∃ t, exec .stopInterfaceRequest s = .next t ∧ (t.part p).tdisp = .unlocked)
    ∧ (q.tdisp = .unlocked ∨ q.tdisp = .locked → exec .stopInterfaceRequest s = .next s)

/-- R455, R486: a handler's load ends with the object in service, or refused with its code and no handler in service. R437, R352: `SEALREQ`
reads the text and its blob as the slug's own loads, and delivers 0 or the code value of a new sealed object; a text that is not
aligned, a blob outside every readable zone, and a transaction fault. Completion: `exec` answers a next state for `HANDLER_LOAD_DONE`,
`SEALREQ`. -/
def Obligations.CodeIsLoadedAndSealed : Prop :=
  (∀ (s u : State),
    let p := s.ev.part
    let q := s.part p
    let load := s.loadCode p {} true 128 (q.hobj.toNat % 2 ^ 54) q.hentry.toNat
    (q.hst ≠ 1 → exec .handlerLoadDone s = .next s)
    ∧ (∀ x, q.hst = 1 → load = (u, .ok x) → ∃ t, exec .handlerLoadDone s = .next t
        ∧ u.PartOnly t p { u.part p with hst := 2, hlerr := 0, hoh := some x.oh, hentryUsed := x.entry.toNat % 2 ^ 32 })
    ∧ (∀ r, q.hst = 1 → load = (u, .error r) → ∃ t, exec .handlerLoadDone s = .next t
        ∧ u.PartOnly t p { u.part p with hst := 3, hlerr := r.code, hoh := none }))
  ∧ (∀ (w : Ops) (m : SysMod) (s : State) (c : Ctx) (d a b : BitVec 6), s.ctx w.h = some c → c.act ≠ 0 → w.d = .g d → w.a = .g a → w.b = .g b →
      let ga := c.m.readG a.toNat
      let gb := c.m.readG b.toNat
      let l := s.launchOf c
      let locks := ((s.part l.part).objs.look (c.path.pc.toNat / 2 ^ 32)).locks
      (c.m.tx ≠ none → exec (.sealreq w m) s = .next (s.trapCode c 0x33))
      ∧ (c.m.tx = none → ga.toNat % 4096 ≠ 0 → exec (.sealreq w m) s = .next (s.trap c { flt := { code := 0x05, va := ga.toNat }, mask := c.act }))
      ∧ (∀ text head, c.m.tx = none → ga.toNat % 4096 = 0 → s.ownLoad c ga 4096 = (s, some text) → s.ownLoad c gb 8 = (s, some head) →
          let inZone := l.readZone locks gb.toNat
          let bounds := s.trap c { flt := { code := 0x03, va := gb.toNat, d1 := gb }, mask := c.act }
          let hw := wordOf head
          let heads := List.replicate (hw.extractLsb' 48 16).toNat 0 ++ List.replicate (hw.extractLsb' 32 16).toNat 8
          (∀ n, s.blobEnd c inZone bounds gb heads 8 = (s, some n) → inZone n = false → exec (.sealreq w m) s = .next bounds)
          ∧ (∀ t, s.blobEnd c inZone bounds gb heads 8 = (t, none) → exec (.sealreq w m) s = .next t)
          ∧ (∀ n blob u x note, s.blobEnd c inZone bounds gb heads 8 = (s, some n) → inZone n = true →
              s.ownLoad c gb n = (s, some blob) → s.sealChunk c text blob = (u, x, note) → u.pinBlocks c d.toNat x = false → s.Calm →
              ∃ t, exec (.sealreq w m) s = .next t ∧ c.m.RegsBut (c.slugIn t) [.g d.toNat]
                ∧ (c.slugIn t).readG d.toNat = (if d = 0 then 0 else x) ∧ (c.slugIn t).slot c.iss.b = c.slotAt s.cyc c.nextPc
                ∧ s.SlugsAs t c.iss.fk c.iss.sl
                ∧ (x ≠ 0 → note = none ∧ ∃ oh, x = BitVec.ofNat 64 (oh * 2 ^ 32)
                    ∧ ((∃ o, (s.part l.part).findObj 3 (idOf text) 0 0 = some (oh, o))
                      ∨ ((u.part l.part).objs.look oh).used = true ∧ ((u.part l.part).objs.look oh).made = true
                        ∧ ((u.part l.part).objs.look oh).chunks = [idOf text])))))

/-! ## Links, caches, degraded operation, power and time (spec/07 R229, R240 to R242, spec/08 R260, R261, spec/14 R394, R400, spec/18 R470 to
R481, spec/20 R490 to R493) -/

/-- R260, R261, R394, R400, R470: the host and a peer read and write device memory at the homes where the firewall lets them, and
nothing happens elsewhere; a peer's atomic applies its operation once, its compare-and-swap writes only where the bytes match. -/
def Sys2Proof.Claim.OutsideAccesses : Prop :=
  ∀ (s : State), s.Calm →
    let pa := s.ev.addr.toNat
    let bs := s.ev.bytes
    let n := bs.length
    let put (t : State) (bs : List Byte) : Prop :=
      ∀ a, t.physByte a = if pa ≤ a ∧ a < pa + bs.length then bs.getD (a - pa) 0 else s.physByte a
    let same (t : State) : Prop := ∀ a, t.physByte a = s.physByte a
    let port := s.ports.look s.ev.forme
    let linked : Prop := s.power = .on ∧ port.enabled = true ∧ port.up = true ∧ port.dropping = false
    let may (n : Nat) (f : Frame → Bool) : Prop := s.reachable pa n f = true
    (s.power = .on → may n s.hostFrame → ∃ t, exec .hostMemoryWrite s = .next t ∧ put t bs)
    ∧ (¬(s.power = .on ∧ may n s.hostFrame) → exec .hostMemoryWrite s = .next s)
    ∧ (s.power = .on → may s.ev.size s.hostFrame → ∃ t, exec .hostMemoryRead s = .next t ∧ same t)
    ∧ (¬(s.power = .on ∧ may s.ev.size s.hostFrame) → exec .hostMemoryRead s = .next s)
    ∧ (¬ linked → exec .peerRequest s = .next s)
    ∧ (linked → ¬ may s.ev.peerLen s.peerFrame → ∃ t, exec .peerRequest s = .next t ∧ { t with ports := s.ports } = s)
    ∧ (linked → may s.ev.peerLen s.peerFrame →
        (s.ev.size = 0 → ∃ t, exec .peerRequest s = .next t ∧ put t bs)
        ∧ (s.ev.size ≠ 0 → s.ev.size ≠ 2 ^ 20 → s.ev.size ≠ 2 ^ 20 + 1 → ∃ t, exec .peerRequest s = .next t ∧ same t)
        ∧ (s.ev.size = 2 ^ 20 → n = (peerTy s.ev.slug).bytes → pa % n = 0 → ∃ t, exec .peerRequest s = .next t
            ∧ s.Stored t pa n (amo s.ev.core (peerTy s.ev.slug) (s.numberAt pa n) (natOf bs)))
        ∧ (s.ev.size = 2 ^ 20 + 1 → (n / 2 = 4 ∨ n / 2 = 8 ∨ n / 2 = 16) → n = 2 * (n / 2) → pa % (n / 2) = 0 →
            (s.physBytes pa (n / 2) = bs.take (n / 2) → ∃ t, exec .peerRequest s = .next t ∧ put t (bs.drop (n / 2)))
            ∧ (s.physBytes pa (n / 2) ≠ bs.take (n / 2) → ∃ t, exec .peerRequest s = .next t ∧ same t)))

/-- R229: an evicted line's dirty bytes, and no other byte, go home, and the core holds it no more; or some of its dirty bytes do, those
of one atomic access together, and the line stays. R241, R242: the first record kept goes to
the ring's next place, or is counted as dropped when the ring is full, has no size, or cannot be written. -/
def Sys2Proof.Claim.EvictionAndSampling : Prop :=
  (∀ (s : State), s.Calm →
    let k := s.ev.core
    let line := s.ev.index
    let x := s.l1Line k line
    (s.ev.flag = true → ∃ t, exec .l1Eviction s = .next t ∧ (t.l1Line k line).data = [] ∧ (t.l1Line k line).dirty = 0
      ∧ ∀ a, t.physByte a = if a / 128 = line ∧ x.dirty.getLsbD (a % 128) = true then x.data.getD (a % 128) 0 else s.physByte a)
    ∧ (s.ev.flag = false → x.kind ≠ .so →
        let asked := BitVec.ofNat 128 (natOf s.ev.bytes)
        ∃ t mask, exec .l1Eviction s = .next t ∧ asked &&& mask = asked
          ∧ (∀ i, i < 127 → x.glue.getLsbD i = true → mask.getLsbD i = mask.getLsbD (i + 1))
          ∧ (t.l1Line k line).data = x.data ∧ (t.l1Line k line).dirty = x.dirty &&& ~~~mask
          ∧ ∀ a, t.physByte a = if a / 128 = line ∧ (x.dirty &&& mask).getLsbD (a % 128) = true then x.data.getD (a % 128) 0
              else s.physByte a))
  ∧ (∀ (s : State), s.Calm →
    let p := s.ev.part
    let q := s.part p
    let e := 2 ^ q.hssize.toNat / 32
    let va := q.hsbase.toNat + q.hswr.toNat % e * 32
    (q.hsPending = [] → exec .hotnessSample s = .next s)
    ∧ (∀ r rest, q.hsPending = r :: rest → r.length = 32 →
      let drop : Prop := ∃ t, exec .hotnessSample s = .next t ∧ s.PartOnly t p { q with hsdrop := q.hsdrop + 1, hsPending := rest }
      (q.hssize = 0 ∨ (q.hswr - q.hsrd).toNat = e → drop)
      ∧ (q.hssize ≠ 0 → (q.hswr - q.hsrd).toNat ≠ e →
        (∀ pa, s.FwMapped p va 32 .write pa → ∃ t, exec .hotnessSample s = .next t ∧ (t.part p).hswr = q.hswr + 1
          ∧ (t.part p).hsPending = rest
          ∧ ∀ a, t.physByte a = if pa ≤ a ∧ a < pa + 32 then r.getD (a - pa) 0 else s.physByte a)
        ∧ ((¬ ∃ pa, s.FwMapped p va 32 .write pa) → drop))))

/-- The claims `OutsideAccesses`, `EvictionAndSampling` together. Completion: `exec` answers a next state for `HOST_MEMORY_WRITE`,
`HOST_MEMORY_READ`, `PEER_REQUEST`, `L1_EVICTION`, `HOTNESS_SAMPLE`. -/
def Obligations.OutsideAccessesAndEvictions : Prop :=
  Claim.OutsideAccesses
  ∧ Claim.EvictionAndSampling

/-- R470, R476 to R481: an uncorrectable line is poisoned, no copy of it stays, the launch that was to have it is contained; the fourth
corrected error of a line within 24 hours retires it; a frame with a retired line moves to a spare frame with its contents and its
holder, or a replacement is asked for; a channel and a core are retired, and the totals fall; of a
seventeenth core the whole cluster goes out of service. Completion: `exec` answers a next state for `POISON_DETECT`, `LINE_RETIRE`,
`FRAME_MOVE`, `CHANNEL_RETIRE`, `CORE_RETIRE`. -/
def Obligations.DegradedOperation : Prop :=
  ∀ (s : State),
    let n := s.ev.index
    let listed (t : State) : Prop := if s.ev.tenant then n ∈ t.metaPoison else n ∈ t.poison
    let poisoned (t : State) : Prop := listed t ∧ ∀ k, t.l1Line k n = {} ∧ (t.core k).partials.look n = {}
    let recent := (s.lineErrs.look n).filter (fun x => decide (s.cyc < x + 86400 * 1600000000))
    ((s.launch s.ev.size).st ≠ .active → ∃ t, exec .poisonDetect s = .next t ∧ poisoned t)
    ∧ ((s.launch s.ev.size).st = .active → s.lineFresh n = true → ∃ t, exec .poisonDetect s = .next t ∧ listed t
        ∧ (t.launch s.ev.size).st = .failing ∧ (t.launch s.ev.size).failCode = some 0x41)
    ∧ (s.ev.flag = true → ∃ t, exec .lineRetire s = .next t ∧ poisoned t ∧ n ∈ t.lostLines)
    ∧ (s.ev.flag = false → recent.length < 3 → ∃ t, exec .lineRetire s = .next t ∧ t.lostLines = s.lostLines
        ∧ t.lineErrs.look n = recent ++ [s.cyc])
    ∧ (s.ev.flag = false → 3 ≤ recent.length → ∃ t, exec .lineRetire s = .next t ∧ n ∈ t.lostLines ∧ t.lineErrs.look n = [])
    ∧ (s.mustMove n = false → exec .frameMove s = .next s)
    ∧ (s.mustMove n = true → (s.frames.look n).owner = none → (s.frames.look n).firmware = false →
        ∃ t, exec .frameMove s = .next t ∧ (t.frames.look n).retired = true
          ∧ t.totalCut.look (3 + frameTier n) = s.totalCut.look (3 + frameTier n) + 2 ^ 18)
    ∧ (∀ p, s.mustMove n = true → (s.frames.look n).owner = some p → s.freeFrames (frameTier n) 0 1 = [] →
        ∃ t, exec .frameMove s = .next t ∧ (3 + frameTier n, 255) ∈ t.repl ∧ (3 + frameTier n, p) ∈ t.repl
          ∧ t.frames = s.frames)
    ∧ (∀ p m r, s.mustMove n = true → (s.frames.look n).owner = some p → s.freeFrames (frameTier n) 0 1 = m :: r → s.movable p n = true →
        m ≠ n → s.Undisturbed → ∃ t, exec .frameMove s = .next t ∧ (t.frames.look m).owner = some p ∧ (t.frames.look m).key = (s.frames.look n).key
          ∧ (t.frames.look n).retired = true ∧ (t.frames.look n).owner = none
          ∧ (s.Calm → (∀ k, s.CoreClean k) → s.Aged m → m ∉ s.tableFrames p →
              s.root % 8192 = 0 → s.root / 2 ^ 18 ≠ m → (s.leavesOf p).filter (fun l => l.mapsAny [n]) = [] →
              s.dram.wf = true → ∀ i, i < 2 ^ 18 → t.physByte (m * 2 ^ 18 + i) = s.physByte (n * 2 ^ 18 + i)))
    ∧ (let worn : Prop := n < 192 ∧ n ∉ s.lostChannels ∧ (s.ev.flag = true ∨ s.channelWorn n = true)
       (¬ worn → exec .channelRetire s = .next s)
       ∧ (worn → (s.freeFrames 1 0 channelFrames).length < channelFrames → ∃ t, exec .channelRetire s = .next t
          ∧ (4, 255) ∈ t.repl ∧ { t with repl := s.repl } = s)
       ∧ (worn → (s.freeFrames 1 0 channelFrames).length = channelFrames → ∃ t, exec .channelRetire s = .next t
          ∧ n ∈ t.lostChannels ∧ (4, 255) ∈ t.repl ∧ t.totalCut.look 4 = s.totalCut.look 4 + 2 ^ 33
          ∧ (∀ l, l ∈ t.lostLines ↔ l ∈ s.lostLines ∧ onChannel n l = false)
          ∧ ∀ f ∈ s.freeFrames 1 0 channelFrames, (t.frames.look f).retired = true))
    ∧ (let c := s.ev.core
       c < 256 → (s.core c).retired = false → (s.cluster (clusterOf c)).doomed = false →
         (∀ e ∈ s.formes, e.2.place.resident = true → e.2.core ≠ c) →
         (s.coresLost < 16 → ∃ t, exec .coreRetire s = .next t ∧ (t.core c).retired = true ∧ (t.core c).tlb = [] ∧ (2, 255) ∈ t.repl
           ∧ t.coresLost = s.coresLost + 1 ∧ t.totalCut.look 2 = s.totalCut.look 2 + 1)
         ∧ (16 ≤ s.coresLost → ∃ t, exec .coreRetire s = .next t ∧ (t.cluster (clusterOf c)).doomed = true
           ∧ t.coresLost = s.coresLost))
    ∧ (256 ≤ s.ev.core ∨ (s.core s.ev.core).retired = true ∨ (s.cluster (clusterOf s.ev.core)).doomed = true → exec .coreRetire s = .next s)

/-- R490 to R493: a device without power boots from a record no older than the last accepted one, with empty memory, its table root in a
firmware frame, and its retired units still retired, or goes into recovery; time steps forward when it is more than 10 ms behind and
is slewed otherwise; telemetry, the alarm, the shutdown, D3hot and the return from it. Completion: `exec` answers a next state for
`POWER_UP_BOOT`, `PTP_DISCIPLINE`, `TELEMETRY_REFRESH`, `THERMAL_ALARM`, `THERMAL_SHUTDOWN`, `D3HOT_ENTRY`, `D0_RETURN`. -/
def Obligations.PowerAndTime : Prop :=
  ∀ (s : State),
    let root := s.ev.addr.toNat
    let v := s.ev.value
    let record (o k : Nat) : Nat := natOf ((s.ev.bytes.drop o).take k)
    let cold : Prop := s.power ≠ .on ∧ s.power ≠ .d3hot ∧ tablePlace root = true ∧ record 7 2 ≤ 512
    let empty (t : State) : Prop := t.dram = [] ∧ t.launches = [] ∧ t.formes = [] ∧ t.parts = [] ∧ t.keys = [] ∧ t.roots = []
      ∧ (∀ k, (t.core k).retired = (s.core k).retired) ∧ t.lostLines = s.lostLines
    (cold → s.ev.flag = true → s.boot.accepted ≤ record 0 4 → ∃ t, exec .powerUpBoot s = .next t ∧ t.power = .on ∧ t.root = root
      ∧ empty t ∧ (t.frames.look (root / 2 ^ 18)).firmware = true ∧ t.boot.version = record 0 4 ∧ t.boot.accepted = record 0 4
      ∧ ∀ i, i < 32 → (t.ports.look i).enabled = (record 9 4).testBit i)
    ∧ (cold → s.ev.flag = true → record 0 4 < s.boot.accepted → ∃ t, exec .powerUpBoot s = .next t ∧ t.power = .recovery 2 ∧ empty t)
    ∧ (cold → s.ev.flag = false → ∃ t, exec .powerUpBoot s = .next t ∧ t.power = .recovery s.ev.size ∧ empty t)
    ∧ (¬ cold → exec .powerUpBoot s = .next s)
    ∧ (let off := v.toInt
       ∃ t, exec .ptpDiscipline s = .next t ∧ { t with ptp := s.ptp, ptpNow := s.ptpNow } = s ∧ t.ptp.measured = true ∧ t.ptp.offset = v
         ∧ (off < -10000000 → t.ptpNow = s.ptpNow + off.natAbs ∧ t.ptp.left = 0 ∧ t.ptp.steps = s.ptp.steps + 1)
         ∧ (-10000000 ≤ off → t.ptpNow = s.ptpNow ∧ t.ptp.left = 40000 * off ∧ t.ptp.steps = s.ptp.steps))
    ∧ (∃ t, exec .telemetryRefresh s = .next t ∧ { t with telemetry := s.telemetry } = s ∧ t.telemetry.power = v
        ∧ t.telemetry.alarm = s.telemetry.alarm ∧ (∀ i, i < s.ev.bytes.length → t.telemetry.junction.look i = (s.ev.bytes.getD i 0).zeroExtend 64)
        ∧ (s.ports.wf = true → ∀ k, k < 64 → (t.telemetry.portsDown.getLsbD k = true ↔ (s.ports.look k).enabled = true ∧ (s.ports.look k).up = false)))
    ∧ (s.telemetry.alarm = false → exec .thermalAlarm s = .next { s with telemetry := { s.telemetry with alarm := true }, irqs := s.irqs ++ [(0, 0, 0)] })
    ∧ (s.telemetry.alarm = true → exec .thermalAlarm s = .next s)
    ∧ (∃ t, exec .thermalShutdown s = .next t ∧ t.power = .shut ∧ empty t)
    ∧ (s.power = .on → ∃ t, exec .d3hotEntry s = .next t ∧ t.power = .d3hot
        ∧ ∀ p ∈ s.existing, ∃ d ∈ (t.part p).draining, d.hold = true ∧ d.cluster = none ∧ d.frames = [])
    ∧ (s.power ≠ .on → exec .d3hotEntry s = .next s)
    ∧ (s.power = .d3hot → ∃ t, exec .d0Return s = .next t ∧ t.power = .on
        ∧ ∀ p ∈ s.existing, ∀ d ∈ (t.part p).draining, d.hold = true → d.cluster ≠ none ∨ d.frames ≠ [] ∨ (s.part p).tdisp = .error)
    ∧ (s.power ≠ .d3hot → exec .d0Return s = .next s)

/-- A step with a port at the agenda's head, where one slug alone may issue there and the words at its path decode to an instruction that
is one in that slug (R29 to R32, R69 to R91): `exec` of that instruction, between noting the issuer and freeing the port. What a port does
otherwise, and the other turns. -/
def Obligations.StepRunsTheDecodedWord : Prop :=
  (∀ (s : State) (r : List Turn) (core port h fk sl : Nat) (b : Bool) (p : Path) (i : Instr),
    let u : State := { s with agenda := r }
    let m := u.slug fk sl
    let f := u.forme fk
    let x := u.fetch f m p.pc
    let o : Offer := { fk := fk, sl := sl, b := b, i := i, short := none }
    s.agenda = .port core port :: r → u.rootOk = true →
    ((u.core core).port port).age = [h] → ((u.core core).port port).freeAt ≤ u.cyc → u.cyc % 2 = port % 2 →
    (u.core core).slots.look h = some (fk, sl) → u.slugRuns fk sl = true → m.strict = false →
    (m.slot b).path = some p → m.slotRuns b u.cyc = true → m.slotRuns (!b) u.cyc = false →
    x.marked = true → decode x.w x.x = .ok i → (x.last = false ∨ isWideWord x.w = false) →
    i.resRule (u.launch f.launch) m.alloc = none → i.whereOk m.hnd.isSome = true →
    m.waits i u.cyc = false → u.owes fk sl b = false → (∀ q ∈ i.pipes (m.h % 2), (u.core f.core).pipeFree q.1 ≤ u.cyc) →
    step s = match exec i (u.beginWord o) with
      | .next t => .next (t.endWord o)
      | .fault e => .fault e
      | .refused e => .refused e)
  ∧ (∀ (s : State) (r : List Turn) (core port : Nat), s.agenda = .port core port :: r →
      let u : State := { s with agenda := r }
      (u.rootOk = false → step s = .fault .rootHole)
      ∧ (u.rootOk = true → u.portPick core port = none → step s = .next u)
      ∧ ∀ o q, u.rootOk = true → u.portPick core port = some o → o.short = some q → step s = .next (u.shortTrap o q))
  ∧ (∀ (s : State) (o : Offer), (s.slug o.fk o.sl).tx = none → ∃ c, s.beginWord o = { s with cur := some c }
      ∧ c.fk = o.fk ∧ c.sl = o.sl ∧ c.b = o.b ∧ c.occ = o.i.size / 8 ∧ c.stall = o.i.hdr.stall.toNat)
  ∧ (∀ (t : State) (o : Offer), t.cur = none → t.endWord o = t)
  ∧ (∀ (t : State) (o : Offer) (c : Issuer), t.cur = some c →
      let m := t.slug c.fk c.sl
      let k := (t.forme c.fk).core
      let q := ((t.endWord o).core k).port (m.h % 2)
      let q0 := (t.core k).port (m.h % 2)
      (t.endWord o).cur = none ∧ q.freeAt = t.cyc + c.occ ∧ (m.h ∈ q0.age → q.age = q0.age.erase m.h ++ [m.h])
      ∧ ∀ w ∈ o.i.writeRegs, 0 < w.2 → (w.1, t.cyc + w.2) ∈ ((t.endWord o).slug c.fk c.sl).busy)
  ∧ (∀ (s : State) (r : List Turn) (i : Instr) (a : EvArgs), s.agenda = .event i a :: r →
      step s = exec i { s with agenda := r, ev := a })
  ∧ (∀ (s : State) (r : List Turn), s.agenda = .tick :: r → step s = .next ({ s with agenda := r } : State).promise.tick)
  ∧ (∀ (s : State), s.agenda = [] → step s = runTurn s.freeTurn (s.tookTurn s.freeTurn) ∧ (s.freeTurn ∈ s.candidates ∨ s.freeTurn = .tick))

/-- R69 to R85, R92, R93: words written out from the encoding decode to the instructions they stand for: `ADD.n32 g3, g1, g2` under
`!p5` with STALL 2; `ADD.i64 g3, g1, 0x100000000` wide; `VADD.i32 v7, v4, -1` with a small constant; `VFMA.f32`; the paired word
`VMUL.f32 | NOP`; `EXIT`; and an opcode with no form. -/
def Obligations.WordsDecodeAsEncoded : Prop :=
  let hdr (st : BitVec 3) (n : Bool) (p : BitVec 4) : Hdr := { stall := st, neg := n, pred := p }
  decode (0b00#2 ++ 2#3 ++ 1#1 ++ 5#4 ++ 0x040#10 ++ 0x83#8 ++ 0x81#8 ++ 0x82#8 ++ 0b000#3 ++ 0b001#3 ++ 0#14) 0
      = .ok (.add { h := hdr 2 true 5, d := .g 3, a := .g 1, b := .g 2, x := none } { rm := .rne, ty := .n32, imm := 0 })
  ∧ decode (0b10#2 ++ 0#3 ++ 0#1 ++ 0#4 ++ 0x040#10 ++ 0x83#8 ++ 0x81#8 ++ 0xE1#8 ++ 0b000#3 ++ 0b010#3 ++ 0#14) 0x100000000
      = .ok (.add { h := hdr 0 false 0, d := .g 3, a := .g 1, b := .ext, x := some 0x100000000 }
          { rm := .rne, ty := .i64, imm := 0 })
  ∧ decode (0b00#2 ++ 0#3 ++ 0#1 ++ 0#4 ++ 0x060#10 ++ 0x07#8 ++ 0x04#8 ++ 0xFF#8 ++ 0b000#3 ++ 0b000#3 ++ 0#14) 0
      = .ok (.vaddInt { h := hdr 0 false 0, d := .v 7, a := .v 4, b := .const 15, x := none } { rm := .rne, ty := .i32, imm := 0 })
  ∧ decode (0b00#2 ++ 0#3 ++ 0#1 ++ 0#4 ++ 0x083#10 ++ 0x01#8 ++ 0x02#8 ++ 0x03#8 ++ 0b001#3 ++ 0b100#3 ++ 0#14) 0
      = .ok (.vfma { h := hdr 0 false 0, d := .v 1, a := .v 2, b := .v 3, x := none } { rm := .rtz, ty := .f32, imm := 0 })
  ∧ decode (0b01#2 ++ 0#3 ++ 0#1 ++ 0#4 ++ (0x42#7 ++ 0x01#8 ++ 0x02#8 ++ 0b0000#4) ++ 0#27) 0
      = .ok (.pairedWord (hdr 0 false 0) { op := .vf .mul .f32 .rne, d := .v 1, s := .v 2 } { op := .nop, d := .none, s := .none })
  ∧ decode (0b00#2 ++ 0#3 ++ 0#1 ++ 0#4 ++ 0x02B#10 ++ 0#24 ++ 0#20) 0
      = .ok (.exit { h := hdr 0 false 0, d := .none, a := .none, b := .none, x := none } { rm := .rne, ty := .i32, imm := 0 })
  ∧ decode 0 0 = .error .enc01

/-- R69 to R93: a well-formed instruction is the one the decoder reads back from the words the encoder gives, wide words with their
extension word and no other; an event has no words; and words that decode are the words of the instruction they decode to. -/
def Obligations.DecodeAndEncodeAgree : Prop :=
  (∀ (i : Instr) (x : Word), i.wf = true →
    (∃ w, encode i = [w] ∧ isWideWord w = false ∧ decode w x = .ok i)
      ∨ (∃ w e, encode i = [w, e] ∧ isWideWord w = true ∧ decode w e = .ok i))
  ∧ (∀ (w x : Word) (i : Instr), decode w x = .ok i → i.wf = true ∧ encode i = if isWideWord w then [w, x] else [w])

/-- Memory keeps its canonical form in every step: device memory and its tags, and every forme's scratchpad and accumulator memory,
list their addresses rising and nothing that reads as an unlisted address does. -/
def Obligations.StepKeepsMemoryCanonical : Prop :=
  ∀ (s t : State), Memory.wf s = true → (∀ k, Sparse.wf (s.forme k).scratch = true ∧ Sparse.wf (s.forme k).acc = true) →
    step s = .next t → Memory.wf t = true ∧ ∀ k, Sparse.wf (t.forme k).scratch = true ∧ Sparse.wf (t.forme k).acc = true

/-- The machine at reset (R491; log entries 1, 2, 4, 10, 20): without power, no partition, launch, forme or key, every byte of memory
zero, memory in its canonical form; until POWER_UP_BOOT comes, time passes and nothing else is due. -/
def Obligations.ResetIsPoweredOff : Prop :=
  State.reset.power = .off ∧ State.reset.cyc = 0 ∧ Memory.wf State.reset = true
  ∧ (∀ a, State.reset.physByte a = 0) ∧ (∀ p, (State.reset.part p).exist = false) ∧ (∀ n, (State.reset.launch n).st = .none)
  ∧ (∀ k, (State.reset.forme k).scratch = [] ∧ (State.reset.forme k).acc = [] ∧ (State.reset.forme k).place ≠ .running)
  ∧ (∀ k, State.reset.keys.look k = default) ∧ State.reset.agenda = []
  ∧ step State.reset = .next State.reset.tookFree.tick
end

