-- ==== Sys2Proof/Laws/Memory.lean ====
section
/-!
SUPPORT. Every operation over memory keeps the canonical form: device memory and its lines' tags, and every forme's scratchpad and
accumulator memory, list their addresses rising and nothing that reads as an unlisted address does.
-/

namespace Sys2Proof.Machine

/-- Memory in its canonical form. -/
def State.Canon (s : State) : Prop :=
  Memory.wf s = true ∧ ∀ k, Sparse.wf (s.forme k).scratch = true ∧ Sparse.wf (s.forme k).acc = true

/-- Memory is canonical at reset. -/
theorem State.canon_reset : State.reset.Canon := ⟨rfl, fun _ => ⟨rfl, rfl⟩⟩

theorem Memory.wf_iff (s : State) : Memory.wf s = true ↔ Sparse.wf s.dram = true ∧ Sparse.wf s.lineGen = true := by
  simp [Memory.wf]

/-- The canonical form is about three parts of the state alone. -/
theorem State.Canon.of_same {s t : State} (h : s.Canon) (hd : t.dram = s.dram) (hg : t.lineGen = s.lineGen) (hf : t.formes = s.formes) : t.Canon := by
  refine ⟨?_, fun k => ?_⟩
  · rw [Memory.wf, hd, hg]; exact h.1
  · rw [State.forme, hf]; exact h.2 k

/-- What every step of a fold keeps, the fold keeps. -/
theorem State.Canon.foldl {α : Type} {g : State → α → State} (hg : ∀ s a, s.Canon → (g s a).Canon) (l : List α) {s : State} (h : s.Canon) :
    (l.foldl g s).Canon := by
  induction l generalizing s with
  | nil => exact h
  | cons a r ih => exact ih (hg s a h)

/-- A forme changes but for its memories. -/
theorem State.Canon.modForme {s : State} (h : s.Canon) (fk : Nat) (f : Forme → Forme)
    (hf : ∀ x : Forme, Sparse.wf x.scratch = true → Sparse.wf x.acc = true → Sparse.wf (f x).scratch = true ∧ Sparse.wf (f x).acc = true) :
    (s.modForme fk f).Canon := by
  refine ⟨h.1, fun k => ?_⟩
  rw [State.forme, State.modForme, Sparse.look_upd]
  split
  · exact hf _ (h.2 fk).1 (h.2 fk).2
  · exact h.2 k

theorem State.Canon.modSlug {s : State} (h : s.Canon) (fk sl : Nat) (f : Slug → Slug) : (s.modSlug fk sl f).Canon :=
  h.modForme fk _ (fun _ a b => ⟨a, b⟩)

theorem State.Canon.modCore {s : State} (h : s.Canon) (c : Nat) (f : Core → Core) : (s.modCore c f).Canon := h.of_same rfl rfl rfl

theorem State.Canon.putL1 {s : State} (h : s.Canon) (c l : Nat) (x : L1Line) : (s.putL1 c l x).Canon := h.modCore c _

/-! ## Physical memory -/

theorem State.Canon.physPut {s : State} (h : s.Canon) (pa : Nat) (b : Byte) : (s.physPut pa b).Canon := by
  obtain ⟨hd, hg⟩ := (Memory.wf_iff s).mp h.1
  unfold State.physPut
  dsimp only
  split
  · exact ⟨(Memory.wf_iff _).mpr ⟨Sparse.wf_put hd pa b, hg⟩, h.2⟩
  · exact ⟨(Memory.wf_iff _).mpr ⟨Sparse.wf_put (Sparse.wf_putBytes hd _ _) pa b, Sparse.wf_put hg _ _⟩, h.2⟩

theorem State.Canon.physWrite {s : State} (h : s.Canon) (pa : Nat) (bs : List Byte) : (s.physWrite pa bs).Canon := by
  induction bs generalizing s pa with
  | nil => exact h
  | cons b r ih => exact ih (h.physPut pa b) (pa + 1)

/-! ## Conflicts and sleepers -/

theorem State.Canon.conflictAbort {s : State} (h : s.Canon) (fk sl : Nat) : (s.conflictAbort fk sl).Canon := h.modSlug fk sl _

theorem State.Canon.abortTrackers {s : State} (h : s.Canon) (l : LineRef) : (s.abortTrackers l).Canon :=
  State.Canon.foldl (fun _ e hs => hs.conflictAbort e.1 e.2.1) _ h

theorem State.Canon.fireWhere {s : State} (h : s.Canon) (c : Nat → Forme → Nat → Wake → Bool) : (s.fireWhere c).Canon := by
  refine ⟨h.1, fun k => ?_⟩
  rw [State.forme, State.fireWhere, Sparse.look_mapVals (fun _ => rfl)]
  exact h.2 k

theorem State.Canon.fireLine {s : State} (h : s.Canon) (l : LineRef) : (s.fireLine l).Canon := h.fireWhere _

theorem State.Canon.dropSharers {s : State} (h : s.Canon) (l : Nat) : (s.dropSharers l).Canon := h.of_same rfl rfl rfl

theorem State.Canon.hot {s : State} (h : s.Canon) (x : HotInfo) (pa ty : Nat) : (s.hot x pa ty).Canon := by
  unfold State.hot
  dsimp only
  repeat' split
  all_goals exact h.of_same rfl rfl rfl

/-! ## Homes -/

theorem State.Canon.tookFree {s : State} (h : s.Canon) : s.tookFree.Canon := h.of_same rfl rfl rfl

theorem State.Canon.park {s : State} (h : s.Canon) (x : Held) : (s.park x).Canon := h.of_same rfl rfl rfl

theorem State.Canon.l2Fill {s : State} (h : s.Canon) (line : Nat) : (s.l2Fill line).Canon := by
  unfold State.l2Fill
  dsimp only
  repeat' split
  all_goals exact h.of_same rfl rfl rfl

theorem State.Canon.homeSet {s : State} (h : s.Canon) (pa : Nat) (bs : List Byte) : (s.homeSet pa bs).Canon :=
  ((((h.l2Fill _).abortTrackers _).physWrite pa bs).dropSharers _).fireLine _

theorem State.Canon.homeRed {s : State} (h : s.Canon) (pa op : Nat) (t : Ty) (v : Nat) (w : HeldBy) (x : HotInfo) (ty : Nat) :
    (s.homeRed pa op t v w x ty).Canon := by
  unfold State.homeRed
  dsimp only
  split
  · exact h.park _
  · exact (h.homeSet _ _).hot _ _ _

theorem State.Canon.sendPartial {s : State} (h : s.Canon) (core line : Nat) : (s.sendPartial core line).Canon := by
  unfold State.sendPartial
  dsimp only
  split
  · exact h
  · have hu := State.Canon.foldl (g := fun (u : State) (e : Nat × Option Word) => match e.2 with
        | some v => u.homeRed e.1 ((s.core core).partials.look line).op ((s.core core).partials.look line).ty v.toNat
        | none => u)
      (fun u e hu => by
        show State.Canon (match e.2 with | some v => u.homeRed e.1 _ _ v.toNat | none => u)
        cases e.2 with
        | none => exact hu
        | some v => exact hu.homeRed _ _ _ _ _ _ _) ((s.core core).partials.look line).cells
      (h.modCore core (fun c => { c with partials := c.partials.put line {} }))
    split
    · exact hu
    · exact hu.hot _ _ _

theorem State.Canon.recall {s : State} (h : s.Canon) (line : Nat) : (s.recall line).Canon := by
  unfold State.recall
  refine State.Canon.foldl (fun u e hu => ?_) _ h
  split
  · exact hu
  · exact hu.sendPartial _ _

theorem State.Canon.homePut {s : State} (h : s.Canon) (pa : Nat) (bs : List Byte) (w : HeldBy) (x : HotInfo) (ty : Nat) :
    (s.homePut pa bs w x ty).Canon := by
  unfold State.homePut
  dsimp only
  split
  · exact h.park _
  · exact ((h.recall _).homeSet _ _).hot _ _ _

theorem State.Canon.homeLook {s : State} (h : s.Canon) (line pa n : Nat) (w : HeldBy) (x : HotInfo) (ty : Nat) :
    (s.homeLook line pa n w x ty).Canon := by
  unfold State.homeLook
  dsimp only
  split
  · exact h.park _
  · exact ((h.recall _).l2Fill _).hot _ _ _

theorem State.Canon.homeRead {s : State} (h : s.Canon) (pa n : Nat) (x : HotInfo) (ty : Nat) (w : HeldBy) :
    (s.homeRead pa n x ty w).1.Canon := State.Canon.foldl (fun _ _ hu => hu.homeLook _ _ _ _ _ _) _ h

theorem State.Canon.homeWrite {s : State} (h : s.Canon) (pa : Nat) (bs : List Byte) (w : HeldBy) (x : HotInfo) (ty : Nat) :
    (s.homeWrite pa bs w x ty).Canon := State.Canon.foldl (fun _ _ hu => hu.homePut _ _ _ _ _) _ h

/-! ## L1 -/

theorem State.Canon.writeBackOf {s : State} (h : s.Canon) (core line : Nat) (mask : BitVec 128) : (s.writeBackOf core line mask).Canon := by
  unfold State.writeBackOf
  dsimp only
  split
  · exact h
  · refine State.Canon.foldl (fun u i hu => ?_) _ (((h.putL1 _ _ _).recall _).hot _ _ _)
    split
    · exact hu.homeSet _ _
    · exact hu

theorem State.Canon.writeBack {s : State} (h : s.Canon) (core line : Nat) : (s.writeBack core line).Canon := h.writeBackOf _ _ _

theorem State.Canon.evict {s : State} (h : s.Canon) (core line : Nat) : (s.evict core line).Canon := (h.writeBack core line).putL1 _ _ _

theorem State.Canon.sweep {s : State} (h : s.Canon) (core : Nat) (p : Nat → L1Line → Bool) (drop : Bool) : (s.sweep core p drop).Canon := by
  unfold State.sweep
  refine State.Canon.foldl (fun u e hu => ?_) _ h
  repeat' split
  · exact hu.evict _ _
  · exact hu.writeBack _ _
  · exact hu

theorem State.Canon.flushOf {s : State} (h : s.Canon) (core : Nat) (p : Nat → Bool) : (s.flushOf core p).Canon := by
  unfold State.flushOf
  refine State.Canon.foldl (fun u e hu => ?_) _ h
  split
  · exact hu.sendPartial core e.1
  · exact hu

theorem State.Canon.flushU {s : State} (h : s.Canon) (core : Nat) : (s.flushU core).Canon := h.flushOf core _

theorem State.Canon.acquire {s : State} (h : s.Canon) (core : Nat) (m : BitVec 7) : (s.acquire core m).Canon := by
  unfold State.acquire
  split
  · exact h.sweep _ _ _
  · exact h

theorem State.Canon.release {s : State} (h : s.Canon) (core : Nat) (m : BitVec 7) : (s.release core m).Canon := by
  unfold State.release State.releaseOf
  split
  · exact (h.sweep _ _ _).flushOf _ _
  · exact h

theorem State.Canon.fence {s : State} (h : s.Canon) (core : Nat) (m : BitVec 7) : (s.fence core m).Canon := by
  unfold State.fence State.dropUo
  split
  · exact ((h.sweep _ _ _).release _ _).acquire _ _
  · exact h

theorem State.Canon.makeRoom {s : State} (h : s.Canon) (core : Nat) : (s.makeRoom core).1.Canon := by
  unfold State.makeRoom
  dsimp only
  repeat' split
  · exact h
  · exact h
  · exact (h.tookFree.sendPartial _ _).evict _ _

theorem State.Canon.install {s : State} (h : s.Canon) (core line : Nat) (x : L1Line) : (s.install core line x).Canon := by
  unfold State.install
  split
  · exact h.putL1 _ _ _
  · have hm := h.makeRoom core
    split
    · rename_i t heq; rw [heq] at hm; exact hm.putL1 _ _ _
    · rename_i t heq; rw [heq] at hm; exact hm

theorem State.Canon.fill {s : State} (h : s.Canon) (core line : Nat) (k : LineKind) (x : HotInfo) : (s.fill core line k x).1.Canon :=
  (h.homeRead _ _ _ _ _).install _ _ _

theorem State.Canon.l1Ready {s : State} (h : s.Canon) (core line : Nat) (k : LineKind) : (s.l1Ready core line k).Canon := by
  unfold State.l1Ready
  dsimp only
  repeat' split
  · exact h.evict _ _
  · exact h
  · exact (h.sendPartial _ _).evict _ _
  · exact h.sendPartial _ _

theorem State.Canon.l1Read {s : State} (h : s.Canon) (core pa n : Nat) (k : LineKind) (x : HotInfo) : (s.l1Read core pa n k x).1.Canon := by
  unfold State.l1Read
  dsimp only
  split
  · exact h.l1Ready _ _ _
  · exact (h.l1Ready _ _ _).fill _ _ _ _

theorem State.Canon.l1Write {s : State} (h : s.Canon) (core pa : Nat) (bs : List Byte) (k : LineKind) (x : HotInfo) (w : HeldBy) :
    (s.l1Write core pa bs k x w).Canon := by
  have hu := h.l1Ready core (lineOf pa) k
  have hm := hu.makeRoom core
  unfold State.l1Write
  dsimp only
  generalize s.l1Ready core (lineOf pa) k = u at hu hm ⊢
  split
  · exact (hu.evict _ _).homePut _ _ _ _ _
  · split
    · exact hu.putL1 _ _ _
    · split
      · rename_i t heq; rw [heq] at hm; exact hm.putL1 _ _ _
      · rename_i t heq; rw [heq] at hm; exact hm.homePut _ _ _ _ _

theorem State.Canon.uReady {s : State} (h : s.Canon) (core line op : Nat) (t : Ty) : (s.uReady core line op t).Canon := by
  unfold State.uReady
  dsimp only
  split
  · exact h.evict _ _
  · exact (h.evict _ _).sendPartial _ _

theorem State.Canon.enterU {s : State} (h : s.Canon) (core pa op : Nat) (t : Ty) (v : Nat) (x : HotInfo) (w : HeldBy) :
    (s.enterU core pa op t v x w).Canon := by
  have hu := h.uReady core (lineOf pa) op t
  have hm := hu.makeRoom core
  unfold State.enterU
  dsimp only
  generalize s.uReady core (lineOf pa) op t = u at hu hm ⊢
  split
  · exact hu.modCore core _
  · split
    · rename_i r heq; rw [heq] at hm; exact hm.modCore core _
    · rename_i r heq; rw [heq] at hm; exact hm.homeRed _ _ _ _ _ _ _

/-! ## Scratchpad, held accesses, generations -/

theorem State.Canon.spadSet {s : State} (h : s.Canon) (l : LineRef) (o : Nat) (bs : List Byte) : (s.spadSet l o bs).Canon := by
  unfold State.spadSet
  apply State.Canon.fireLine
  apply State.Canon.modForme (h.abortTrackers l)
  intro y a b
  exact ⟨Sparse.wf_putBytes a _ _, b⟩

theorem State.Canon.spadPut {s : State} (h : s.Canon) (l : LineRef) (o : Nat) (bs : List Byte) (w : HeldBy) : (s.spadPut l o bs w).Canon := by
  unfold State.spadPut
  split
  · exact h.park _
  · exact h.spadSet l o bs

theorem State.Canon.spadWrite {s : State} (h : s.Canon) (fk o : Nat) (bs : List Byte) (w : HeldBy) : (s.spadWrite fk o bs w).Canon :=
  State.Canon.foldl (fun _ l hu => hu.spadPut l _ _ w) _ h

theorem State.Canon.spadRed {s : State} (h : s.Canon) (fk o op : Nat) (t : Ty) (v : Nat) (w : HeldBy) : (s.spadRed fk o op t v w).Canon := by
  unfold State.spadRed
  dsimp only
  split
  · exact h.park _
  · exact h.spadSet _ _ _

theorem State.Canon.homeAmo {s : State} (h : s.Canon) (pa n : Nat) (f : Nat → Nat) (x : HotInfo) (ty : Nat) : (s.homeAmo pa n f x ty).Canon :=
  ((h.recall _).hot _ _ _).homeSet _ _

theorem State.Canon.perform {s : State} (h : s.Canon) (x : Held) : (s.perform x).Canon := by
  unfold State.perform
  dsimp only
  repeat' split
  · exact h.park _
  · exact h.spadSet _ _ _
  · exact h.homePut _ _ _ _ _
  · exact h.spadRed _ _ _ _ _ _
  · exact h.homeRed _ _ _ _ _ _ _
  · exact h.homeAmo _ _ _ _ _
  · exact h.homeAmo _ _ _ _ _
  · exact h.homeLook _ _ _ _ _ _

theorem State.Canon.drainAll {s : State} (h : s.Canon) : s.drainAll.Canon :=
  State.Canon.foldl (fun _ x hu => hu.perform x) _ (h.of_same rfl rfl rfl)

theorem State.Canon.dropFrame {s : State} (h : s.Canon) (fr : Nat) : (s.dropFrame fr).Canon := by
  unfold State.dropFrame
  apply State.Canon.drainAll
  exact State.Canon.of_same
    (State.Canon.foldl (g := fun (u : State) (e : Nat × Nat × Tx) => u.conflictAbort e.1 e.2.1) (fun _ e hu => hu.conflictAbort e.1 e.2.1) _ h)
    rfl rfl rfl

theorem Sparse.above_filter {α : Type} [Inhabited α] [DecidableEq α] {b : Nat} {m : Sparse α} (p : Nat × α → Bool)
    (h : Sparse.above b m = true) : Sparse.above b (m.filter p) = true := by
  induction m generalizing b with
  | nil => rfl
  | cons e r ih =>
    obtain ⟨k, v⟩ := e
    simp only [Sparse.above, Bool.and_eq_true, decide_eq_true_eq] at h
    rw [List.filter_cons]
    split
    · simp only [Sparse.above, Bool.and_eq_true, decide_eq_true_eq]
      exact ⟨h.1, ih h.2⟩
    · exact ih (Sparse.above_mono (by omega) h.2)

theorem Sparse.wf_filter {α : Type} [Inhabited α] [DecidableEq α] {m : Sparse α} (p : Nat × α → Bool) (h : Sparse.wf m = true) :
    Sparse.wf (m.filter p) = true := by
  cases m with
  | nil => rfl
  | cons e r =>
    obtain ⟨k, v⟩ := e
    simp only [Sparse.wf, Bool.and_eq_true, decide_eq_true_eq] at h
    rw [List.filter_cons]
    split
    · simp only [Sparse.wf, Bool.and_eq_true, decide_eq_true_eq]
      exact ⟨h.1, Sparse.above_filter p h.2⟩
    · exact Sparse.wf_of_above (Sparse.above_filter p h.2)

theorem State.Canon.advanceGen {s : State} (h : s.Canon) (fr : Nat) : (s.advanceGen fr).Canon := by
  unfold State.advanceGen
  dsimp only
  apply State.Canon.fireWhere
  split
  · obtain ⟨hd, hg⟩ := (Memory.wf_iff s).mp h.1
    have hl : ∀ (l : List Nat) (m : Sparse (BitVec 6)) (g : BitVec 6), Sparse.wf m = true →
        Sparse.wf (l.foldl (fun t i => t.put (fr * 2048 + i) g) m) = true := by
      intro l
      induction l with
      | nil => exact fun _ _ hm => hm
      | cons a r ih => exact fun m g hm => ih _ g (Sparse.wf_put hm _ _)
    generalize List.range 2048 = l
    refine ⟨(Memory.wf_iff _).mpr ⟨?_, ?_⟩, h.2⟩
    · exact Sparse.wf_filter _ hd
    · exact hl l _ _ hg
  · exact h.of_same rfl rfl rfl

end Sys2Proof.Machine
end

