-- ==== Sys2Proof/Tests/Slice0.lean ====
section
/-!
SUPPORT. Tests of the model on small states, with results worked out from the tables of spec/ by hand: words written out bit by bit
decode to the instruction they stand for, each check of a word refuses an ill-formed one, single words on a small state. After
them the witnesses: states and operands that meet the hypotheses of the statements of Certificates/Slice0/Obligations.lean.
-/

set_option autoImplicit false
set_option Elab.async false

open Sys2Proof Sys2Proof.Machine

namespace Sys2Proof.Tests

/-! ## Small terms and states -/

/-- No STALL, no predicate. -/
def hd : Hdr := { stall := 0, neg := false, pred := 0 }

/-- The operands of a full word. -/
def ops (d a b : Opnd) : Ops := { h := hd, d := d, a := a, b := b, x := none }

/-- The operands of a wide word. -/
def wide (d a b : Opnd) (x : Word) : Ops := { h := hd, d := d, a := a, b := b, x := some x }

def alu (t : Ty) (imm : BitVec 14) : AluMod := { rm := .rne, ty := t, imm := imm }

/-- A full word of the layout of spec/03 R72 without STALL and predicate. -/
def full (opc : BitVec 10) (d a b : BitVec 8) (mod : BitVec 20) : Word := 0#2 ++ 0#3 ++ 0#1 ++ 0#4 ++ opc ++ d ++ a ++ b ++ mod

/-- A wide word's first word (spec/03 R79). -/
def wideW (opc : BitVec 10) (d a b : BitVec 8) (mod : BitVec 20) : Word := 2#2 ++ 0#3 ++ 0#1 ++ 0#4 ++ opc ++ d ++ a ++ b ++ mod

/-- A running slug of a forme on core 0, its path at the first word of object 0, every lane live, issuing; its launch declares one
slug a forme, one granule of scratchpad and the largest accumulator need. -/
def base : State :=
  let s := State.reset.withFetchWord 64 0
  { s with
    agenda := []
    cur := some {}
    launches := s.launches.upd 0 (fun l => { l with words := [(1, 2 ^ 45 + 2 ^ 46), (9, 2 ^ 32 + 2 ^ 23)] }) }

/-- The same with the slug changed. -/
def slugIs (f : Slug → Slug) : State := base.modSlug 0 0 f

/-- The context of the issuing path. -/
def cx (s : State) : Ctx := (s.ctx hd).getD default

/-- The next state of a word, the state itself where there is none. -/
def after (i : Instr) (s : State) : State :=
  match exec i s with
  | .next t => t
  | _ => s

/-- The issuing slug after a word. -/
def slugAfter (i : Instr) (s : State) : Slug := (after i s).slug 0 0

/-- A scalar register after a word. -/
def gAfter (i : Instr) (s : State) (n : Nat) : Word := (slugAfter i s).readG n

/-- A lane of a vector register after a word. -/
def vAfter (i : Instr) (s : State) (n : Nat) (l : Fin 32) : Lane := ((slugAfter i s).readV n)[l]

/-- A slug with scalar registers. -/
def withG (l : List (Nat × Word)) : State := slugIs (fun m => l.foldl (fun m e => m.writeG e.1 e.2) m)

/-- A slug with vector registers that hold one value in every lane. -/
def withV (l : List (Nat × Lane)) : State :=
  slugIs (fun m => l.foldl (fun m e => m.writeV e.1 0xFFFFFFFF (fun _ => e.2)) m)

/-! ## Words decode as spec/03 to spec/18 encode them -/

/-- Control (R136 to R138): `BRA` two words back; `BRC.ge g7` with the condition in IMM14[13:11]; `CALL g9, [g8]`; `YIELD 5`. -/
theorem test_decode_control :
    decode (full 0x021 0 0 0 (0#6 ++ 0x3FFE#14)) 0 = .ok (.bra (ops .none .none .none) (alu .i32 0x3FFE))
    ∧ decode (full 0x022 0 0x87 0 (0#6 ++ 3#3 ++ 4#11)) 0 = .ok (.brc (ops .none (.g 7) .none) (alu .i32 0x1804))
    ∧ decode (full 0x025 0x89 0x88 0 (0#6 ++ 1#1 ++ 0#13)) 0 = .ok (.call (ops (.g 9) (.g 8) .none) (alu .i32 0x2000))
    ∧ decode (full 0x029 0 0 0 5) 0 = .ok (.yield (ops .none .none .none) (alu .i32 5)) := by decide +kernel

/-- Scalar integer (R143): `BFX.n32 g1, g2, 8, 4` with POS in IMM14[13:8] and LEN in IMM14[6:0]; `MOV.i64 g5, -3` with IMM14. -/
theorem test_decode_scalar_integer :
    decode (full 0x059 0x81 0x82 0 (0#3 ++ 1#3 ++ 8#6 ++ 0#1 ++ 4#7)) 0 = .ok (.bfx (ops (.g 1) (.g 2) .none) (alu .n32 0x804))
    ∧ decode (full 0x05B 0x85 0xE2 0 (0#3 ++ 2#3 ++ 0x3FFD#14)) 0 = .ok (.mov (ops (.g 5) .short .none) (alu .i64 0x3FFD)) := by
  decide +kernel

/-- Vector integer (R147, R148): `VCMP.n32.lt p3, v1, g2`; `VSAD.n32 v9, v8, v7`; `VADD.i32 v1, v2, 100000` wide. -/
theorem test_decode_vector_integer :
    decode (full 0x063 0xD3 0x01 0x82 (0#3 ++ 1#3 ++ 2#14)) 0 = .ok (.vcmpInt (ops (.p 3) (.v 1) (.g 2)) (alu .n32 2))
    ∧ decode (full 0x07D 0x09 0x08 0x07 (0#3 ++ 1#3 ++ 0#14)) 0 = .ok (.vsad (ops (.v 9) (.v 8) (.v 7)) (alu .n32 0))
    ∧ decode (wideW 0x060 0x01 0x02 0xE1 0) 100000 = .ok (.vaddInt (wide (.v 1) (.v 2) .ext 100000) (alu .i32 0)) := by decide +kernel

/-- Vector float and special functions (R151, R155): `VDOT2.bf16x2.rup v1, v2, v3`; `VRCP.f16x2 v4, v5`. -/
theorem test_decode_vector_float :
    decode (full 0x094 0x01 0x02 0x03 (3#3 ++ 6#3 ++ 0#14)) 0
      = .ok (.vdot2 (ops (.v 1) (.v 2) (.v 3)) { rm := .rup, ty := .bf16x2, imm := 0 })
    ∧ decode (full 0x0A0 0x04 0x05 0 (0#3 ++ 5#3 ++ 0#14)) 0 = .ok (.vrcp (ops (.v 4) (.v 5) .none) (alu .f16x2 0)) := by
  decide +kernel

/-- Conversion (R124): `CVT.e4m3.f32.sat.d2 v1, v2`; `MXSCL.mx17.e4 v3, v4`. -/
theorem test_decode_conversion :
    decode (full 0x0C0 0x01 0x02 0 (0#3 ++ 5#5 ++ 0#5 ++ 1#1 ++ 2#2 ++ 0#2 ++ 0#2)) 0
      = .ok (.cvt (ops (.v 1) (.v 2) .none) { rm := .rne, df := 5, sf := 0, sat := true, pos := 0x20 })
    ∧ decode (full 0x0C7 0x03 0x04 0 (0#3 ++ 17#5 ++ 0#5 ++ 0#1 ++ 1#1 ++ 0#5)) 0
      = .ok (.mxscl (ops (.v 3) (.v 4) .none) { rm := .rne, df := 17, sf := 0, sat := false, pos := 0x20 }) := by decide +kernel

/-- Cross-lane (R159, R160): `SHFL.up.fm v1, v2, 4`; `VOTE.ballot g3, p4`; `PSCAN.f32.max.excl v5, v6`. -/
theorem test_decode_cross_lane :
    decode (full 0x0E0 0x01 0x02 0 (0#3 ++ 0#3 ++ 1#1 ++ 2#3 ++ 4#10)) 0
      = .ok (.shfl (ops (.v 1) (.v 2) .none) { ty := .i32, fs := true, mode := 2, arg := 4 })
    ∧ decode (full 0x0E2 0x83 0xD4 0 (0#3 ++ 0#3 ++ 0#1 ++ 3#3 ++ 0#10)) 0
      = .ok (.vote (ops (.g 3) (.p 4) .none) { ty := .i32, fs := false, mode := 3, arg := 0 })
    ∧ decode (full 0x0E3 0x05 0x06 0 (0#3 ++ 4#3 ++ 0#1 ++ 2#3 ++ 1#10)) 0
      = .ok (.pscan (ops (.v 5) (.v 6) .none) { ty := .f32, fs := false, mode := 2, arg := 1 }) := by decide +kernel

/-- Exact sums (R168): `XADD.f16x2 xa2, v7`; `XRND.f32.rdn g4, xa3`; `XMRG xa1, xa2`. -/
theorem test_decode_exact_sum :
    decode (full 0x101 0 0x07 0 (0#3 ++ 5#3 ++ 2#2 ++ 0#2 ++ 0#1 ++ 0#9)) 0
      = .ok (.xadd (ops .none (.v 7) .none) { rm := .rne, ty := .f16x2, xd := 2, xs := 0, sp := false })
    ∧ decode (full 0x104 0x84 0 0 (2#3 ++ 4#3 ++ 3#2 ++ 0#2 ++ 0#1 ++ 0#9)) 0
      = .ok (.xrnd (ops (.g 4) .none .none) { rm := .rdn, ty := .f32, xd := 3, xs := 0, sp := false })
    ∧ decode (full 0x107 0 0 0 (0#3 ++ 0#3 ++ 1#2 ++ 2#2 ++ 0#1 ++ 0#9)) 0
      = .ok (.xmrg (ops .none .none .none) { rm := .rne, ty := .i32, xd := 1, xs := 2, sp := false }) := by decide +kernel

/-- Matrix (R183 to R185, R78): `MMA.sat.aw a1, g2, g3` with SA = SB = 48 and M8, N16, K48; `TRD v5, a6.col[g7-1]`;
`TMOV.rtz a1, a2`. -/
theorem test_decode_matrix :
    decode (wideW 0x126 0xC1 0x82 0x83 (1#1 ++ 0#1 ++ 0#2 ++ 0#4 ++ 0#3 ++ 1#1 ++ 0#8))
        (48#19 ++ 48#19 ++ 1#6 ++ 1#6 ++ 1#7 ++ 1#1 ++ 0#6)
      = .ok (.mma (wide (.a 1) (.g 2) (.g 3) (48#19 ++ 48#19 ++ 1#6 ++ 1#6 ++ 1#7 ++ 1#1 ++ 0#6))
          { aw := true, bw := false, sel := 0, mbk := 0, rm := .rne, sat := true })
    ∧ decode (full 0x12A 0x05 0xE0 0 (0#2 ++ 1#1 ++ 7#6 ++ 0x7F#7 ++ 6#4)) 0
      = .ok (.trd (ops (.v 5) .slice .none) { col := true, idx := 7, off := 0x7F, tile := 6 })
    ∧ decode (full 0x12C 0xC1 0xC2 0 (0#8 ++ 1#3 ++ 0#1 ++ 0#8)) 0
      = .ok (.tmov (ops (.a 1) (.a 2) .none) { aw := false, bw := false, sel := 0, mbk := 0, rm := .rtz, sat := false }) := by
  decide +kernel

/-- Memory (R271, R274): `LD.i16.acq.obs=FC g1, g2, 8` wide; `VSTX.n64.x8 g3, v4, v6`; `VLDF v1, g2, v3`. -/
theorem test_decode_memory :
    decode (wideW 0x140 0x81 0x82 0xE1 (1#3 ++ 1#1 ++ 1#2 ++ 3#7 ++ 0#3 ++ 0#4)) 8
      = .ok (.ld (wide (.g 1) (.g 2) .ext 8) { w := 1, sx := true, mark := 1, obs := 3, sc := 0 })
    ∧ decode (full 0x145 0x06 0x83 0x04 (3#3 ++ 0#1 ++ 0#2 ++ 0#7 ++ 3#3 ++ 0#4)) 0
      = .ok (.vstx (ops (.v 6) (.g 3) (.v 4)) { w := 3, sx := false, mark := 0, obs := 0, sc := 3 })
    ∧ decode (full 0x155 0x01 0x82 0x03 (2#3 ++ 0#17)) 0
      = .ok (.vldf (ops (.v 1) (.g 2) (.v 3)) { w := 2, sx := false, mark := 0, obs := 0, sc := 0 }) := by decide +kernel

/-- Atomics and fences (R279, R280, R286): `AMO.max.i64 g1, g2, g3`; `VCAS.n32.x4 v2, g4, v6`; `FENCE.obs=FCX`; `FENCEX.lvl3`. -/
theorem test_decode_atomics :
    decode (full 0x160 0x81 0x82 0x83 (5#4 ++ 0#2 ++ 0#7 ++ 2#3 ++ 0#1 ++ 0#3)) 0
      = .ok (.amo (ops (.g 1) (.g 2) (.g 3)) { op := 5, mark := 0, obs := 0, ty := .i64, sc := 0 })
    ∧ decode (full 0x165 0x02 0x84 0x06 (0#4 ++ 0#2 ++ 0#7 ++ 1#3 ++ 0#1 ++ 2#3)) 0
      = .ok (.vcas (ops (.v 2) (.g 4) (.v 6)) { op := 0, mark := 0, obs := 0, ty := .n32, sc := 2 })
    ∧ decode (full 0x180 0 0 0 (0#6 ++ 7#7 ++ 0#1 ++ 0#3 ++ 0#3)) 0
      = .ok (.fence (ops .none .none .none) { obs := 7, lve := false, lv := 0 })
    ∧ decode (full 0x181 0 0 0 (0#6 ++ 0#7 ++ 1#1 ++ 3#3 ++ 0#3)) 0
      = .ok (.fencex (ops .none .none .none) { obs := 0, lve := true, lv := 3 }) := by decide +kernel

/-- Copies and collectives (R288, R289): `CPY.dw g1, g2, g3, t9`; `CWALL g4`; `COLL g5, g6, t63`. -/
theorem test_decode_copies :
    decode (full 0x1A0 0x81 0x82 0x83 (1#1 ++ 0#1 ++ 0#12 ++ 9#6)) 0
      = .ok (.cpy (ops (.g 1) (.g 2) (.g 3)) { dw := true, sw := false, tag := 9 })
    ∧ decode (full 0x1A5 0 0x84 0 0) 0 = .ok (.cwall (ops .none (.g 4) .none) { dw := false, sw := false, tag := 0 })
    ∧ decode (full 0x1A7 0x85 0x86 0 63) 0 = .ok (.coll (ops (.g 5) (.g 6) .none) { dw := false, sw := false, tag := 63 }) := by
  decide +kernel

/-- The words that R364, R369 and R458 give as examples: `QPOP g6, q1`, `BAR gl2`, `MOVS g4, %zbase.0`, `HRET`. -/
theorem test_decode_examples_of_the_spec :
    decode 0x001C286000010000 0 = .ok (.qpop (ops (.g 6) .none .none) { q := 1, imm := 0 })
    ∧ decode 0x001E000000000002 0 = .ok (.bar (ops .none .none .none) { gl := 2 })
    ∧ decode 0x0024684000000020 0 = .ok (.movs (ops (.g 4) .none .none) { n := 0x20 })
    ∧ decode 0x0024200000000000 0 = .ok (.hret (ops .none .none .none) { n := 0 }) := by decide +kernel

/-- Transactions, checks, system (R341, R424, R458): `TXABT 7`; `CHKB g1, 64, z2`; `TRAP 9`; `QFEAT g1, 4`. -/
theorem test_decode_transactions_checks_system :
    decode (full 0x204 0 0 0 7) 0 = .ok (.txabt (ops .none .none .none) { imm := 7 })
    ∧ decode (full 0x220 0 0x81 0xE2 (2#4 ++ 0#2 ++ 64#14)) 0 = .ok (.chkb (ops .none (.g 1) .short) { z := 2, imm := 64 })
    ∧ decode (full 0x241 0 0 0 9) 0 = .ok (.trap (ops .none .none .none) { n := 9 })
    ∧ decode (full 0x240 0x81 0 0 4) 0 = .ok (.qfeat (ops (.g 1) .none .none) { n := 4 }) := by decide +kernel

/-- A paired word (R82, R93): `VADD.i32 v1, v2` beside `SHL.n64 g3, 5`, where PO is 0x20 and 0x05 and M4 names the types. -/
theorem test_decode_pair :
    decode (1#2 ++ 0#3 ++ 0#1 ++ 0#4 ++ (0x20#7 ++ 0x01#8 ++ 0x02#8 ++ 0#4) ++ (0x05#7 ++ 0x83#8 ++ 0xF5#8 ++ 0xC#4)) 0
      = .ok (.pairedWord hd { op := .vi .add .i32, d := .v 1, s := .v 2 } { op := .si .shl .n64, d := .g 3, s := .const 5 }) := by
  decide +kernel

/-! ## A word that breaks a rule of spec/03 R90 is refused by the rule's name -/

/-- Every word of a list breaks the rule named beside it. -/
def refused (l : List (Instr × Enc)) : Bool := l.all (fun e => e.1.broken == some e.2)

/-- FORM, operands, predicate, `p0` (R71, R72, R75, R79, R81, spec/02 R53): a wide word of a full form, operands of other classes, two
short operands, 0xE1 without an extension word, an extension word that no operand takes, `!p0`, a predicate on `BAR`, `p0` written. -/
theorem test_refuses_operands : refused [
    (.nop (wide .none .none .none 0) (alu .i32 0), .enc05),
    (.tzero { ops (.a 1) .none .none with x := some 0 } default, .enc05),
    (.tld (ops (.a 1) (.g 1) .none) default, .enc05),
    (.add (ops (.v 1) (.g 1) (.g 2)) (alu .i32 0), .enc03),
    (.add (ops (.g 1) (.v 1) (.g 2)) (alu .i32 0), .enc03),
    (.add (ops (.g 1) (.g 1) (.v 2)) (alu .i32 0), .enc03),
    (.add (ops (.g 1) (.g 1) .none) (alu .i32 0), .enc03),
    (.trd (ops .slice .slice .none) default, .enc03),
    (.add (wide (.g 1) .ext .short 0) (alu .i32 0), .enc03),
    (.add (ops (.g 1) (.g 1) .ext) (alu .i32 0), .enc03),
    (.add (wide (.g 1) (.g 1) (.g 2) 0) (alu .i32 0), .enc05),
    (.add { ops (.g 1) (.g 1) (.g 2) with h := { hd with neg := true } } (alu .i32 0), .enc06),
    (.bar { ops .none .none .none with h := { hd with pred := 1 } } { gl := 0 }, .enc06),
    (.vcmpInt (ops (.p 0) (.v 1) (.v 2)) (alu .i32 0), .typ03)] = true := by decide +kernel

/-- Control (R135 to R141). -/
theorem test_refuses_control : refused [
    (.nop (ops .none .none .none) (alu .n32 0), .enc07),
    (.nop (ops .none .none .none) { rm := .rtz, ty := .i32, imm := 0 }, .enc07),
    (.nop (ops .none .none .none) (alu .i32 1), .enc02),
    (.bra (wide .none .none .ext 8) (alu .i32 1), .enc02),
    (.bra (wide .none .none .ext 4) (alu .i32 0), .enc02),
    (.brc (ops .none (.g 1) .none) (alu .i32 0x3000), .enc07),
    (.brc (wide .none (.g 1) .ext 8) (alu .i32 1), .enc02),
    (.brv (wide .none (.p 1) .ext 8) (alu .i32 1), .enc02),
    (.call (ops (.g 1) .none .none) (alu .i32 0x2000), .enc03),
    (.call (ops (.g 1) (.g 2) .none) (alu .i32 0), .enc02),
    (.call (ops (.g 1) (.g 2) .none) (alu .i32 0x2001), .enc02),
    (.jmpt (ops .none (.g 1) .none) (alu .i32 0x100), .enc02),
    (.recast (ops .none .none .none) (alu .i32 0x100), .enc02),
    (.yield (ops .none .none .none) (alu .i32 0x400), .enc02)] = true := by decide +kernel

/-- Scalar and vector integers (R144, R146, R148, R149). -/
theorem test_refuses_integers : refused [
    (.add (ops (.g 1) (.g 2) (.g 3)) (alu .f32 0), .enc07),
    (.add (ops (.g 1) (.g 2) (.g 3)) { rm := .rtz, ty := .i32, imm := 0 }, .enc07),
    (.add (ops (.g 1) (.g 2) (.g 3)) (alu .i32 1), .enc02),
    (.abs (ops (.g 1) (.g 2) .none) (alu .n32 0), .enc07),
    (.abs (ops (.g 1) (.g 2) .none) (alu .i32 1), .enc02),
    (.cmp (ops (.g 1) (.g 2) (.g 3)) (alu .i32 8), .enc02),
    (.cmp (ops (.g 1) (.g 2) (.g 3)) (alu .i32 6), .enc07),
    (.bfx (ops (.g 1) (.g 2) .none) (alu .i32 0x81), .enc02),
    (.bfx (ops (.g 1) (.g 2) .none) (alu .i32 0), .enc07),
    (.bfi (ops (.g 1) (.g 2) .none) (alu .i32 0x101F), .enc07),
    (.and (ops (.p 1) (.p 2) (.p 3)) (alu .i32 0), .enc03),
    (.and (ops (.g 1) (.g 2) (.g 3)) (alu .i32 1), .enc02),
    (.vaddInt (ops (.v 1) (.v 2) (.v 3)) (alu .i64 0), .enc07),
    (.vaddInt (ops (.v 1) (.v 2) (.v 3)) { rm := .rup, ty := .i32, imm := 0 }, .enc07),
    (.vaddInt (wide (.v 1) (.v 2) .ext 0x100000000) (alu .i32 0), .enc02),
    (.vaddInt (ops (.v 1) (.v 2) (.v 3)) (alu .i32 1), .enc02),
    (.vabsInt (ops (.v 1) (.v 2) .none) (alu .n32 0), .enc07),
    (.vsad (ops (.v 1) (.v 2) (.v 3)) (alu .i32 0), .enc07),
    (.vcmpInt (ops (.p 1) (.v 2) (.v 3)) (alu .i32 8), .enc02),
    (.vcmpInt (ops (.p 1) (.v 2) (.v 3)) (alu .i32 7), .enc07),
    (.vselInt (ops (.v 1) (.v 2) (.v 3)) (alu .i32 16), .enc02),
    (.vbfx (ops (.v 1) (.v 2) .none) (alu .i32 0x1F02), .enc07)] = true := by decide +kernel

/-- Vector floats, special functions, conversions (R133, R154, R158). -/
theorem test_refuses_floats : refused [
    (.vaddFloat (ops (.v 1) (.v 2) (.v 3)) (alu .i32 0), .enc07),
    (.vaddFloat (ops (.v 1) (.v 2) (.v 3)) { rm := .sr, ty := .f32, imm := 0 }, .enc07),
    (.vminFloat (ops (.v 1) (.v 2) (.v 3)) { rm := .rtz, ty := .f32, imm := 0 }, .enc07),
    (.vaddFloat (wide (.v 1) (.v 2) .ext 0x100000000) (alu .f32 0), .enc02),
    (.vaddFloat (ops (.v 1) (.v 2) (.v 3)) (alu .f32 1), .enc02),
    (.vcmpFloat (ops (.p 1) (.v 2) (.v 3)) (alu .f32 8), .enc07),
    (.vcmpFloat (ops (.p 1) (.v 2) (.v 3)) (alu .f16x2 16), .enc02),
    (.vselFloat (ops (.v 1) (.v 2) (.v 3)) (alu .f32 16), .enc02),
    (.vdot2 (ops (.v 1) (.v 2) (.v 3)) (alu .f32 0), .enc07),
    (.vdot2 (ops (.v 1) (.v 2) (.v 3)) (alu .f16x2 1), .enc02),
    (.vexp2 (ops (.v 1) (.v 2) .none) { rm := .rtz, ty := .f32, imm := 0 }, .enc07),
    (.vrcp (ops (.v 1) (.v 2) .none) (alu .f32 1), .enc02),
    (.cvt (ops (.v 1) (.v 2) .none) { rm := .rne, df := 0, sf := 0, sat := false, pos := 0 }, .enc07),
    (.cvt (ops (.v 1) (.v 2) .none) { rm := .rne, df := 10, sf := 0, sat := false, pos := 0 }, .enc07),
    (.cvt (ops (.v 1) (.v 2) .none) { rm := .rne, df := 5, sf := 0, sat := false, pos := 1 }, .enc02),
    (.cvt (ops (.v 1) (.v 2) .none) { rm := .rne, df := 3, sf := 0, sat := false, pos := 0x20 }, .enc07),
    (.cvt (ops (.v 1) (.v 2) .none) { rm := .sr, df := 0, sf := 3, sat := false, pos := 0 }, .enc07),
    (.cvt (ops (.v 1) (.v 2) .none) { rm := .rne, df := 17, sf := 0, sat := true, pos := 0 }, .enc02),
    (.cvt (ops (.v 1) (.v 2) .none) { rm := .rne, df := 19, sf := 0, sat := false, pos := 0 }, .enc03),
    (.pack (ops (.v 1) (.v 2) (.v 3)) { rm := .rne, df := 5, sf := 3, sat := false, pos := 0 }, .enc07),
    (.pack (ops (.v 1) (.v 2) (.v 3)) { rm := .rne, df := 0, sf := 17, sat := false, pos := 0 }, .enc07),
    (.pack (ops (.v 1) (.v 2) (.v 3)) { rm := .rne, df := 5, sf := 0, sat := false, pos := 1 }, .enc02),
    (.pack (ops (.v 1) (.v 2) (.v 3)) { rm := .rne, df := 5, sf := 0, sat := false, pos := 0x10 }, .enc07),
    (.pack (ops (.v 1) (.v 2) (.v 3)) { rm := .sr, df := 5, sf := 0, sat := false, pos := 0 }, .enc07),
    (.unpack (ops (.v 1) (.v 2) .none) { rm := .rne, df := 0, sf := 0, sat := false, pos := 0 }, .enc07),
    (.unpack (ops (.v 1) (.v 2) .none) { rm := .rne, df := 18, sf := 12, sat := false, pos := 0 }, .enc07),
    (.unpack (ops (.v 1) (.v 2) .none) { rm := .rne, df := 0, sf := 5, sat := false, pos := 0x10 }, .enc07),
    (.unpack (ops (.v 1) (.v 2) .none) { rm := .rne, df := 0, sf := 5, sat := true, pos := 0 }, .enc02),
    (.rint (ops (.v 1) (.v 2) .none) { rm := .rne, df := 1, sf := 0, sat := false, pos := 0 }, .enc07),
    (.fcls (ops (.v 1) (.v 2) .none) { rm := .rtz, df := 0, sf := 0, sat := false, pos := 0 }, .enc07),
    (.getexp (ops (.v 1) (.v 2) .none) { rm := .rne, df := 0, sf := 1, sat := false, pos := 0 }, .enc02),
    (.mxscl (ops (.v 1) (.v 2) .none) { rm := .rne, df := 16, sf := 0, sat := false, pos := 0 }, .enc07),
    (.mxscl (ops (.v 1) (.v 2) .none) { rm := .rne, df := 17, sf := 0, sat := false, pos := 1 }, .enc02)] = true := by decide +kernel

/-- Cross-lane and exact sums (R166, R174). -/
theorem test_refuses_lanes : refused [
    (.pscan (ops (.v 1) (.v 2) .none) { ty := .i64, fs := false, mode := 0, arg := 0 }, .enc07),
    (.pscan (ops (.v 1) (.v 2) .none) { ty := .i32, fs := false, mode := 6, arg := 0 }, .enc07),
    (.pscan (ops (.v 1) (.v 2) .none) { ty := .f32, fs := false, mode := 0, arg := 0 }, .enc07),
    (.pscan (ops (.v 1) (.v 2) .none) { ty := .i32, fs := true, mode := 0, arg := 0 }, .enc07),
    (.pscan (ops (.v 1) (.v 2) .none) { ty := .i32, fs := false, mode := 0, arg := 2 }, .enc02),
    (.redl (ops (.g 1) (.v 2) .none) { ty := .i32, fs := false, mode := 0, arg := 1 }, .enc07),
    (.bcast (ops (.v 1) (.v 2) (.g 3)) { ty := .i32, fs := false, mode := 1, arg := 0 }, .enc07),
    (.matchLanes (ops (.v 1) (.v 2) .none) { ty := .i32, fs := true, mode := 0, arg := 0 }, .enc07),
    (.shfl (ops (.v 1) (.v 2) .none) { ty := .i32, fs := false, mode := 4, arg := 0 }, .enc07),
    (.shfl (ops (.v 1) (.v 2) (.v 3)) { ty := .i32, fs := false, mode := 0, arg := 1 }, .enc07),
    (.vote (ops (.g 1) (.p 2) .none) { ty := .i32, fs := false, mode := 0, arg := 0 }, .enc03),
    (.vote (ops (.p 1) (.p 2) .none) { ty := .i32, fs := false, mode := 4, arg := 0 }, .enc07),
    (.elect (ops (.p 1) .none .none) { ty := .i32, fs := false, mode := 0, arg := 0 }, .enc03),
    (.elect (ops (.p 1) .none .none) { ty := .i32, fs := false, mode := 2, arg := 0 }, .enc07),
    (.lrd (ops (.g 1) (.v 2) (.g 3)) { ty := .f32, fs := false, mode := 0, arg := 0 }, .enc07),
    (.xclr (ops .none .none .none) { rm := .rne, ty := .f32, xd := 0, xs := 0, sp := false }, .enc07),
    (.xadd (ops .none (.v 1) .none) { rm := .rtz, ty := .f32, xd := 0, xs := 0, sp := false }, .enc07),
    (.xadd (ops .none (.v 1) .none) { rm := .rne, ty := .f32, xd := 0, xs := 0, sp := true }, .enc07),
    (.xadd (ops .none (.v 1) .none) { rm := .rne, ty := .f32, xd := 0, xs := 1, sp := false }, .enc02)] = true := by decide +kernel

/-- Matrix forms (R175, R184, R186): layout words, descriptors, modifiers. -/
theorem test_refuses_matrix : refused [
    (.tcfg (wide (.a 1) .ext .none 0x20000000000) default, .enc02),
    (.tcfg (wide (.a 1) .ext .none (0#23 ++ 384#9 ++ 8#8 ++ 16#8 ++ 0#13 ++ 1#3)) default, .enc07),
    (.tcfg (wide (.a 1) .ext .none (0#23 ++ 0#9 ++ 9#8 ++ 16#8 ++ 0#13 ++ 1#3)) default, .enc07),
    (.tcfg (wide (.a 1) .ext .none (0#23 ++ 0#9 ++ 8#8 ++ 200#8 ++ 0#13 ++ 1#3)) default, .enc07),
    (.tcfg (wide (.a 1) .ext .none 0x10000) default, .enc02),
    (.mma (wide (.a 1) (.g 2) (.g 3) (48#19 ++ 48#19 ++ 1#6 ++ 1#6 ++ 1#7 ++ 0#1 ++ 1#6)) default, .enc02),
    (.mma (wide (.a 1) (.g 2) (.g 3) (0#19 ++ 48#19 ++ 1#6 ++ 1#6 ++ 1#7 ++ 0#1 ++ 0#6)) default, .enc07),
    (.mma (wide (.a 1) (.g 2) (.g 3) (48#19 ++ 48#19 ++ 16#6 ++ 1#6 ++ 1#7 ++ 0#1 ++ 0#6)) default, .enc07),
    (.mma (wide (.a 1) (.g 2) (.g 3) (48#19 ++ 48#19 ++ 1#6 ++ 13#6 ++ 1#7 ++ 0#1 ++ 0#6)) default, .enc07),
    (.mma (wide (.a 1) (.g 2) (.g 3) (48#19 ++ 48#19 ++ 1#6 ++ 1#6 ++ 65#7 ++ 0#1 ++ 0#6)) default, .enc07),
    (.mmas (wide (.a 1) (.g 2) (.g 3) (48#19 ++ 48#19 ++ 1#6 ++ 1#6 ++ 2#7 ++ 0#1 ++ 0#6)) default, .enc07),
    (.mmas (wide (.a 1) (.g 2) (.g 3) (48#19 ++ 48#19 ++ 1#6 ++ 1#6 ++ 1#7 ++ 0#1 ++ 0#6)) { (default : MxMod) with sel := 3 }, .enc07),
    (.mma (wide (.a 1) (.g 2) (.g 3) (48#19 ++ 48#19 ++ 1#6 ++ 1#6 ++ 1#7 ++ 0#1 ++ 0#6)) { (default : MxMod) with mbk := 1 }, .enc07),
    (.tld (wide (.a 1) (.g 2) .none (48#19 ++ 1#19 ++ 1#6 ++ 1#6 ++ 0#7 ++ 0#1 ++ 0#6)) default, .enc02),
    (.tzero (ops (.a 1) .none .none) { (default : MxMod) with sat := true }, .enc02),
    (.tzero (ops (.a 1) .none .none) { (default : MxMod) with rm := .rtz }, .enc02),
    (.tmov (ops (.a 1) (.a 2) .none) { (default : MxMod) with rm := .sr }, .enc07),
    (.cpym (wide (.g 1) (.g 2) (.g 3) (48#19 ++ 48#19 ++ 1#6 ++ 1#6 ++ 1#7 ++ 0#1 ++ 0#6)) { (default : CpmMod) with mbk := 1 }, .enc02),
    (.cpym (wide (.g 1) (.g 2) (.g 3) (48#19 ++ 48#19 ++ 1#6 ++ 1#6 ++ 1#7 ++ 0#1 ++ 0#6)) { (default : CpmMod) with sel := 3 }, .enc07)]
    = true := by decide +kernel

/-- Memory, atomics, fences, copies (R278, R285, R286, R288). -/
theorem test_refuses_memory : refused [
    (.ld (ops (.g 1) (.g 2) (.g 3)) { w := 4, sx := false, mark := 0, obs := 0, sc := 0 }, .enc07),
    (.ld (ops (.g 1) (.g 2) (.g 3)) { w := 3, sx := true, mark := 0, obs := 0, sc := 0 }, .enc07),
    (.ld (ops (.g 1) (.g 2) (.g 3)) { w := 3, sx := false, mark := 2, obs := 1, sc := 0 }, .enc07),
    (.ld (ops (.g 1) (.g 2) (.g 3)) { w := 3, sx := false, mark := 3, obs := 1, sc := 0 }, .enc07),
    (.ld (ops (.g 1) (.g 2) (.g 3)) { w := 3, sx := false, mark := 1, obs := 0, sc := 0 }, .enc07),
    (.ld (ops (.g 1) (.g 2) (.g 3)) { w := 3, sx := false, mark := 0, obs := 1, sc := 0 }, .enc02),
    (.ld (ops (.g 1) (.g 2) (.g 3)) { w := 3, sx := false, mark := 0, obs := 0, sc := 1 }, .enc02),
    (.vldx (ops (.v 2) (.g 2) (.v 3)) { w := 2, sx := false, mark := 0, obs := 0, sc := 5 }, .enc07),
    (.vld (ops (.v 1) (.g 2) (.g 3)) { w := 3, sx := false, mark := 0, obs := 0, sc := 0 }, .enc03),
    (.vld (ops (.v 2) (.g 2) (.g 3)) { w := 4, sx := false, mark := 0, obs := 0, sc := 0 }, .enc03),
    (.vst (ops (.g 2) (.g 2) (.g 3)) { w := 4, sx := false, mark := 0, obs := 0, sc := 0 }, .enc03),
    (.vldf (ops (.v 1) (.g 2) (.v 3)) { w := 3, sx := false, mark := 0, obs := 0, sc := 0 }, .enc07),
    (.lwb (ops .none (.g 2) .none) { w := 1, sx := false, mark := 0, obs := 0, sc := 0 }, .enc02),
    (.amo (ops (.g 1) (.g 2) (.g 3)) { op := 7, mark := 0, obs := 0, ty := .i32, sc := 0 }, .enc07),
    (.amo (ops (.g 1) (.g 2) (.g 3)) { op := 1, mark := 0, obs := 0, ty := .f32, sc := 0 }, .enc07),
    (.amo (ops (.g 1) (.g 2) (.g 3)) { op := 0, mark := 0, obs := 0, ty := .i32, sc := 1 }, .enc02),
    (.red (ops .none (.g 2) (.g 3)) { op := 6, mark := 0, obs := 0, ty := .i32, sc := 0 }, .enc07),
    (.red (ops .none (.g 2) (.g 3)) { op := 0, mark := 1, obs := 1, ty := .i32, sc := 0 }, .enc07),
    (.cas (ops (.g 1) (.g 2) (.g 3)) { op := 1, mark := 0, obs := 0, ty := .i32, sc := 0 }, .enc07),
    (.cas2 (ops (.g 1) (.g 2) (.g 4)) { op := 0, mark := 0, obs := 0, ty := .i64, sc := 0 }, .enc03),
    (.cas2 (ops (.g 2) (.g 2) (.g 4)) { op := 0, mark := 0, obs := 0, ty := .i32, sc := 0 }, .enc07),
    (.vcas (ops (.v 2) (.g 2) (.v 4)) { op := 0, mark := 0, obs := 0, ty := .i64, sc := 0 }, .enc03),
    (.vredp (ops (.v 1) (.g 2) (.v 4)) { op := 0, mark := 2, obs := 1, ty := .i32, sc := 0 }, .enc02),
    (.fence (ops .none .none .none) { obs := 0, lve := false, lv := 0 }, .enc07),
    (.fence (ops .none .none .none) { obs := 1, lve := true, lv := 0 }, .enc07),
    (.fence (ops .none .none .none) { obs := 1, lve := false, lv := 1 }, .enc02),
    (.flushu (ops .none .none .none) { obs := 1, lve := false, lv := 0 }, .enc02),
    (.cfill (ops (.g 1) (.g 2) (.g 3)) { dw := false, sw := true, tag := 0 }, .enc02),
    (.coll (ops (.g 1) (.g 2) .none) { dw := true, sw := false, tag := 0 }, .enc02),
    (.cwall (ops .none (.g 2) .none) { dw := false, sw := false, tag := 1 }, .enc02)] = true := by decide +kernel

/-- Queues, transactions, checks, system forms (R342, R364, R426, R458, spec/02 R58). -/
theorem test_refuses_system : refused [
    (.qinit (ops .none (.g 1) .short) { q := 0, imm := 300 }, .enc07),
    (.qinit (ops .none (.g 1) (.g 2)) { q := 0, imm := 1 }, .enc02),
    (.qlen (ops (.g 1) .none .none) { q := 0, imm := 1 }, .enc02),
    (.txe (ops .none .none .none) { imm := 1 }, .enc02),
    (.txabt (ops .none .none .none) { imm := 0x100 }, .enc02),
    (.txb (wide .none .none .ext 4) { imm := 0 }, .enc02),
    (.chkb (ops .none (.g 1) (.const 15)) { z := 0, imm := 0 }, .enc07),
    (.chkp (ops .none (.g 1) (.g 2)) { z := 1, imm := 0 }, .enc02),
    (.chkn (ops .none (.g 1) .none) { z := 1, imm := 0 }, .enc02),
    (.chka (ops .none (.g 1) .none) { z := 13, imm := 0 }, .enc07),
    (.chkl (ops .none .none .none) { z := 1, imm := 1 }, .enc02),
    (.chkr (ops .none (.g 1) (.g 2)) { z := 1, imm := 0 }, .enc02),
    (.qfeat (ops (.g 1) .none .none) { n := 0x40 }, .enc03),
    (.qfeat (ops (.g 1) (.g 2) .none) { n := 1 }, .enc02),
    (.qfeat (ops (.g 1) (.g 2) .none) { n := 0x41 }, .enc02),
    (.fltrd (ops (.g 1) .none .none) { n := 8 }, .enc02),
    (.movs (ops (.g 1) .none .none) { n := 6 }, .enc03),
    (.movs (ops (.g 1) .none .none) { n := 0 }, .typ04),
    (.hret (ops .none .none .none) { n := 1 }, .enc02)] = true := by decide +kernel

/-- Paired words (R82 to R85): a NOP half with an operand, a form that does not pair, a type outside its group, five vector registers or
two of one bank, two halves of one group, one destination twice. -/
theorem test_refuses_pairs : refused [
    (.pairedWord { hd with neg := true } { op := .nop, d := .none, s := .none } { op := .nop, d := .none, s := .none }, .enc06),
    (.pairedWord hd { op := .nop, d := .v 1, s := .none } { op := .nop, d := .none, s := .none }, .enc02),
    (.pairedWord hd { op := .vi .mad .i32, d := .v 1, s := .v 2 } { op := .nop, d := .none, s := .none }, .enc01),
    (.pairedWord hd { op := .vi .add .i64, d := .v 1, s := .v 2 } { op := .nop, d := .none, s := .none }, .enc07),
    (.pairedWord hd { op := .vf .add .f32 .rna, d := .v 1, s := .v 2 } { op := .nop, d := .none, s := .none }, .enc07),
    (.pairedWord hd { op := .shfl true 5, d := .v 1, s := .v 2 } { op := .nop, d := .none, s := .none }, .enc07),
    (.pairedWord hd { op := .vi .add .i32, d := .g 1, s := .v 2 } { op := .nop, d := .none, s := .none }, .enc03),
    (.pairedWord hd { op := .vi .add .i32, d := .v 1, s := .short } { op := .nop, d := .none, s := .none }, .enc03),
    (.pairedWord hd { op := .vote 0, d := .p 0, s := .p 1 } { op := .nop, d := .none, s := .none }, .typ03),
    (.pairedWord hd { op := .vi .add .i32, d := .v 1, s := .v 5 } { op := .nop, d := .none, s := .none }, .enc04),
    (.pairedWord hd { op := .si .add .i32, d := .g 1, s := .g 5 } { op := .si .sub .i32, d := .g 2, s := .g 6 }, .enc04),
    (.pairedWord hd { op := .vi .mov .i32, d := .v 1, s := .v 2 } { op := .vf .mov .f32 .rne, d := .v 1, s := .v 3 }, .enc04),
    (.exit (ops .none .none .none) (alu .i32 1), .enc02),
    (.launchComplete, .enc01)] = true := by decide +kernel

/-! ## Single words on a small state, with results worked out by hand -/

/-- A 32-bit sum wraps and is sign-extended (R142): 0x7FFFFFFF + 1. -/
theorem test_add_wraps : gAfter (.add (ops (.g 3) (.g 1) (.const 1)) (alu .i32 0)) (withG [(1, 0x7FFFFFFF)]) 3 = 0xFFFFFFFF80000000 := by
  decide +kernel

/-- `g0` keeps zero (spec/02 R52). -/
theorem test_g0_stays_zero : gAfter (.mov (ops (.g 0) (.const 7) .none) (alu .i64 0)) base 0 = 0 := by decide +kernel

/-- The high half of −1 × −1 is 0 signed, and 2^64 − 2 unsigned (R143). -/
theorem test_mulh : gAfter (.mulh (ops (.g 3) (.g 1) (.g 1)) (alu .i64 0)) (withG [(1, 0xFFFFFFFFFFFFFFFF)]) 3 = 0
    ∧ gAfter (.mulh (ops (.g 3) (.g 1) (.g 1)) (alu .n64 0)) (withG [(1, 0xFFFFFFFFFFFFFFFF)]) 3 = 0xFFFFFFFFFFFFFFFE := by
  decide +kernel

/-- A division by zero gives all ones, the remainder the dividend; the least number by −1 gives itself and 0 (R122). -/
theorem test_division : gAfter (.div (ops (.g 3) (.g 1) (.g 0)) (alu .i32 0)) (withG [(1, 9)]) 3 = 0xFFFFFFFFFFFFFFFF
    ∧ gAfter (.rem (ops (.g 3) (.g 1) (.g 0)) (alu .i32 0)) (withG [(1, 9)]) 3 = 9
    ∧ gAfter (.div (ops (.g 3) (.g 1) (.const 15)) (alu .i32 0)) (withG [(1, 0x80000000)]) 3 = 0xFFFFFFFF80000000 := by decide +kernel

/-- `SHL` takes its distance modulo the width (R144): 33 is 1. -/
theorem test_shift_distance : gAfter (.shl (ops (.g 3) (.g 1) (.g 2)) (alu .n32 0)) (withG [(1, 1), (2, 33)]) 3 = 2 := by decide +kernel

/-- `CMP.n32.lt` and `CMP.i32.lt` of 1 and 0xFFFFFFFF (R144). -/
theorem test_compare_signedness : gAfter (.cmp (ops (.g 3) (.g 1) (.g 2)) (alu .n32 2)) (withG [(1, 1), (2, 0xFFFFFFFF)]) 3 = 1
    ∧ gAfter (.cmp (ops (.g 3) (.g 1) (.g 2)) (alu .i32 2)) (withG [(1, 1), (2, 0xFFFFFFFF)]) 3 = 0 := by decide +kernel

/-- `BFX.i32` of bits [11:8] = 1000 extends the sign; `BFI` puts them at [7:4] (R143). -/
theorem test_bit_fields : gAfter (.bfx (ops (.g 3) (.g 1) .none) (alu .i32 0x804)) (withG [(1, 0x800)]) 3 = 0xFFFFFFFFFFFFFFF8
    ∧ gAfter (.bfi (ops (.g 3) (.g 1) .none) (alu .n32 0x404)) (withG [(1, 0xA), (3, 0xFFF)]) 3 = 0xFAF := by decide +kernel

/-- `VADDS.i32` saturates, `VSAD.n32` adds byte distances (R147): |0x10 − 0x30| + |0xFF − 0| and 5. -/
theorem test_vector_integers : vAfter (.vadds (ops (.v 3) (.v 1) (.v 2)) (alu .i32 0)) (withV [(1, 0x7FFFFFFF), (2, 1)]) 3 31 = 0x7FFFFFFF
    ∧ vAfter (.vsad (ops (.v 3) (.v 1) (.v 2)) (alu .n32 0)) (withV [(1, 0x1000FF00), (2, 0x30000000), (3, 5)]) 3 0 = 0x20 + 0xFF + 5 := by
  decide +kernel

/-- `VFMA.f32` rounds once (R150): (1 + 2^-23)² − (1 + 2^-22) is 2^-46. -/
theorem test_fma_rounds_once :
    vAfter (.vfma (ops (.v 3) (.v 1) (.v 1)) (alu .f32 0)) (withV [(1, 0x3F800001), (3, 0xBF800002)]) 3 0 = 0x28800000 := by decide +kernel

/-- `VADD.f32` of +max and +max rounds to +∞ to nearest and to +max toward zero (R117). -/
theorem test_float_overflow :
    vAfter (.vaddFloat (ops (.v 3) (.v 1) (.v 1)) (alu .f32 0)) (withV [(1, 0x7F7FFFFF)]) 3 0 = 0x7F800000
    ∧ vAfter (.vaddFloat (ops (.v 3) (.v 1) (.v 1)) { rm := .rtz, ty := .f32, imm := 0 }) (withV [(1, 0x7F7FFFFF)]) 3 0 = 0x7F7FFFFF := by
  decide +kernel

/-- `VCMP.f32` on a NaN (R153): `.ne` and `.un` hold, `.lt` does not; −0 equals +0. -/
theorem test_float_compare :
    (slugAfter (.vcmpFloat (ops (.p 1) (.v 1) (.v 2)) (alu .f32 1)) (withV [(1, 0x7FC00000), (2, 0)])).readP 1 = 0xFFFFFFFF
    ∧ (slugAfter (.vcmpFloat (ops (.p 1) (.v 1) (.v 2)) (alu .f32 2)) (withV [(1, 0x7FC00000), (2, 0)])).readP 1 = 0
    ∧ (slugAfter (.vcmpFloat (ops (.p 1) (.v 1) (.v 2)) (alu .f32 0)) (withV [(1, 0x80000000), (2, 0)])).readP 1 = 0xFFFFFFFF := by
  decide +kernel

/-- `VRCP` of −0 is −∞, `VSIN` of 0.25 turns is 1, `VRSQ` of 4 is 0.5 (R156). -/
theorem test_special_points : vAfter (.vrcp (ops (.v 3) (.v 1) .none) (alu .f32 0)) (withV [(1, 0x80000000)]) 3 0 = 0xFF800000
    ∧ vAfter (.vsin (ops (.v 3) (.v 1) .none) (alu .f32 0)) (withV [(1, 0x3E800000)]) 3 0 = 0x3F800000
    ∧ vAfter (.vrsq (ops (.v 3) (.v 1) .none) (alu .f32 0)) (withV [(1, 0x40800000)]) 3 0 = 0x3F000000 := by decide +kernel

/-- `CVT.e4m3.f32.sat.d1`: 1000 saturates at 448, code 0x7E, in byte 1 (R107, R117, R125); `CVT.n8.f32` of −1.5 is 0 (R126). -/
theorem test_convert :
    vAfter (.cvt (ops (.v 3) (.v 1) .none) { rm := .rne, df := 5, sf := 0, sat := true, pos := 0x10 }) (withV [(1, 0x447A0000), (3, 0x11223344)]) 3 0
      = 0x11227E44
    ∧ vAfter (.cvt (ops (.v 3) (.v 1) .none) { rm := .rne, df := 13, sf := 0, sat := false, pos := 0 }) (withV [(1, 0xBFC00000), (3, 0x11223344)]) 3 0
      = 0x11223300 := by decide +kernel

/-- `SHFL.xor` by 1 swaps neighbours; `VOTE.ballot` gives the predicate; `REDL.i32.add` of 32 ones is 32 (R162, R163). -/
theorem test_cross_lane :
    vAfter (.shfl (ops (.v 3) (.v 1) .none) { ty := .i32, fs := false, mode := 1, arg := 1 })
      (slugIs (fun m => m.writeV 1 0xFFFFFFFF (fun i => BitVec.ofNat 32 i.val))) 3 4 = 5
    ∧ gAfter (.vote (ops (.g 3) (.p 2) .none) { ty := .i32, fs := false, mode := 3, arg := 0 })
      (slugIs (fun m => m.writeP 2 0xFFFFFFFF 0x80000001)) 3 = 0x80000001
    ∧ gAfter (.redl (ops (.g 3) (.v 1) .none) { ty := .i32, fs := false, mode := 0, arg := 0 }) (withV [(1, 1)]) 3 = 32 := by decide +kernel

/-- `XADD.f32` adds the 32 lanes exactly and `XRND` rounds once (R169, R170): 32 × 1.0. -/
theorem test_exact_sum :
    (let s := after (.xadd (ops .none (.v 1) .none) { rm := .rne, ty := .f32, xd := 1, xs := 0, sp := false }) (withV [(1, 0x3F800000)])
     gAfter (.xrnd (ops (.g 3) .none .none) { rm := .rne, ty := .f32, xd := 1, xs := 0, sp := false }) { s with cur := some {} } 3)
      = 0x42000000 := by decide +kernel

/-- `STP` then `LDP.i16` of the pitch window (R235, R272): 0xFFFE reads as −2. -/
theorem test_window_store_load :
    (let s := after (.stp (ops (.g 1) (.g 2) (.const 0)) { w := 1, sx := false, mark := 0, obs := 0, sc := 0 })
       (withG [(1, 0x1FFFE), (2, 64)])
     gAfter (.ldp (ops (.g 3) (.g 2) (.const 0)) { w := 1, sx := true, mark := 0, obs := 0, sc := 0 }) { s with cur := some {} } 3)
      = 0xFFFFFFFFFFFFFFFE := by decide +kernel

/-- A branch goes to its own address plus eight times its offset (R137); a taken `BRC.ne`. -/
theorem test_branches : ((slugAfter (.bra (ops .none .none .none) (alu .i32 3)) base).a.path.map (·.pc)) = some 24
    ∧ ((slugAfter (.brc (ops .none (.g 1) .none) (alu .i32 0x802)) (withG [(1, 5)])).a.path.map (·.pc)) = some 16 := by decide +kernel

/-- `BRV` splits the path by its predicate (R34, R35): the smaller PC keeps the slot. -/
theorem test_vector_branch :
    (let m := slugAfter (.brv (ops .none (.p 1) .none) (alu .i32 4)) (slugIs (fun m => m.writeP 1 0xFFFFFFFF 0x0000FFFF))
     (m.a.path, m.b.path)) = (some { pc := 8, mask := 0xFFFF0000 }, some { pc := 32, mask := 0x0000FFFF }) := by decide +kernel

/-- `MOVS` of `%plane` and `%core` (spec/02 R58). -/
theorem test_special_registers : vAfter (.movs (ops (.v 3) .none .none) { n := 1 }) base 3 17 = 17
    ∧ gAfter (.movs (ops (.g 3) .none .none) { n := 5 }) base 3 = 0 := by decide +kernel

/-- A failing `CHKN` enters the handler with HND set, at the default handler's entry (R425, R454, R456). -/
theorem test_check_traps : ((slugAfter (.chkn (ops .none (.g 1) .none) { z := 0, imm := 0 }) base).hnd.map (·.firmware)) = some true
    ∧ ((slugAfter (.chkn (ops .none (.g 1) .none) { z := 0, imm := 0 }) (withG [(1, 1)])).hnd) = none := by decide +kernel

/-- `TXB` opens a transaction and the outermost `TXE` ends it (R343, R347). -/
theorem test_transaction :
    (slugAfter (.txb (ops .none .none .none) { imm := 4 }) base).tx.isSome = true
    ∧ (let s := after (.txb (ops .none .none .none) { imm := 4 }) base
       (slugAfter (.txe (ops .none .none .none) { imm := 0 }) { s with cur := some {} }).tx) = none := by decide +kernel

/-- `BARA` of the only slug of its forme reads generation 0 and completes it (R370). -/
theorem test_barrier : gAfter (.bara (ops (.g 3) .none .none) { gl := 1 }) (withG [(3, 9)]) 3 = 0 := by decide +kernel

/-- A step fetches the word at the path, decodes it and runs it: `ADD.i32 g3, g0, 5` placed after reset (R69, log entry 8). -/
theorem test_step_runs_a_word :
    (match step (State.reset.withFetchWord 64 (full 0x040 0x83 0x80 0xF5 0).toNat) with
     | .next t => (t.slug 0 0).readG 3
     | _ => 0) = 5 := by decide +kernel

/-- The bytes of a word stand little-endian (R69): `EXIT`. -/
theorem test_bytes_little_endian :
    encodeBytes (.exit (ops .none .none .none) (alu .i32 0)) = [0, 0, 0, 0, 0, 0xB0, 0x02, 0] := by decide +kernel

/-! ## Witnesses: states and operands that meet the hypotheses of the statements -/

theorem wake_of (s : State) (h : s.formes = [(0, s.forme 0)] ∧ (s.forme 0).slugs = [(0, s.slug 0 0)] ∧ (s.slug 0 0).wake = none) (k j : Nat) :
    (s.slug k j).wake = none := by
  obtain ⟨hf, hm, hw⟩ := h
  by_cases hk : k = 0
  · subst hk
    by_cases hj : j = 0
    · subst hj; exact hw
    · rw [State.slug, hm]; simp [Sparse.look, Ne.symm hj]; rfl
  · have : s.forme k = default := by rw [State.forme, hf]; simp [Sparse.look, Ne.symm hk]
    rw [State.slug, this]; rfl

/-- One forme with one slug, awake, without a transaction: nothing disturbs an access. -/
theorem quiet_of (s : State)
    (h : s.txs = [] ∧ s.formes = [(0, s.forme 0)] ∧ (s.forme 0).slugs = [(0, s.slug 0 0)] ∧ (s.slug 0 0).wake = none) : s.Undisturbed :=
  ⟨h.1, wake_of s h.2⟩

theorem look_all {α : Type} [Inhabited α] (p : α → Prop) (hd : p default) (t : Sparse α) (h : ∀ e ∈ t, p e.2) (i : Nat) : p (t.look i) := by
  induction t with
  | nil => exact hd
  | cons e r ih =>
    rw [Sparse.look_cons]
    split
    · exact h e (by simp)
    · exact ih (fun x hx => h x (by simp [hx]))

theorem noPartials_of (s : State) (h : s.cores = [(0, s.core 0)] ∧ (s.core 0).partials = []) : s.NoPartials := by
  intro e he l
  rw [h.1, List.mem_singleton] at he
  rw [he]
  show ((s.core 0).partials.look l).cells = []
  rw [h.2]; rfl

/-- No core holds a partial of a line. -/
theorem noPartialAt (s : State) (h : s.NoPartials) (k n : Nat) : ((s.core k).partials.look n).cells = [] :=
  look_all (fun c : Core => (c.partials.look n).cells = []) rfl s.cores (fun e he => h e he n) k

/-- A TLB entry of page `va / 2^18` on a frame, readable and writable, of an ordering kind and a format. -/
def page (va frame : Nat) (ord fmt : Nat) : TlbEntry :=
  { base := va, lo := BitVec.ofNat 64 (frame * 2 ^ 18 + 3), hi := BitVec.ofNat 64 (fmt * 2 ^ 36 + ord * 2 ^ 31 + 0x300000), part := 0 }

/-- A line held whole and clean. -/
def line (k : LineKind) : L1Line := { kind := k, data := List.replicate 128 0, valid := true }

/-- The small state with memory: page 0 on frame 1, kind SO, page 0x40000 on frame 2, kind RC, page 0x80000 on frame 3, kind RC, format
E4M3; the core holds the first eight lines of each. -/
def mem : State := { base with
  frames := [(1, { owner := some 0 }), (2, { owner := some 0 }), (3, { owner := some 0 })]
  cores := base.cores.upd 0 (fun c => { c with
    tlb := [page 0 1 0 0, page 0x40000 2 1 0, page 0x80000 3 1 5]
    l1 := ((List.range 8).map (fun i => (2048 + i, line .so))) ++ ((List.range 8).map (fun i => (4096 + i, line .rc)))
      ++ ((List.range 8).map (fun i => (6144 + i, line .rc))) }) }

/-- The same with scalar registers. -/
def memG (l : List (Nat × Word)) : State := mem.modSlug 0 0 (fun m => l.foldl (fun m e => m.writeG e.1 e.2) m)

def so : Leaf := (tlbLook (mem.core 0).tlb 0).getD default
def rc : Leaf := (tlbLook (mem.core 0).tlb 0x40000).getD default
def fp : Leaf := (tlbLook (mem.core 0).tlb 0x80000).getD default

def mm (w : BitVec 3) : MemMod := { w := w, sx := false, mark := 0, obs := 0, sc := 0 }

/-- Where another path lives, `g3` pinned. -/
def pinned : State := { slugIs (fun m => { m with b := { m.a with path := some {} } }) with
  launches := base.launches.upd 0 (fun l => { l with pinG := 8 }) }

/-- No lane enabled: the predicate is `p1`, which holds zero. -/
def off : Hdr := { hd with pred := 1 }
def cxOff (s : State) : Ctx := (s.ctx off).getD default

theorem witness_ScalarIntegerResult :
    (base.ctx off = some (cxOff base) ∧ (cxOff base).act = 0)
    ∧ (base.ctx hd = some (cx base) ∧ (cx base).act ≠ 0 ∧ SOp.operandsOk .bfx .i64 0x3F01 ∧ base.pinBlocks (cx base) 3 7 = false)
    ∧ (pinned.ctx hd = some (cx pinned) ∧ (cx pinned).act ≠ 0 ∧ SOp.operandsOk .bfi .n32 0x20 ∧ pinned.pinBlocks (cx pinned) 3 7 = true) := by
  unfold SOp.operandsOk; decide +kernel

theorem witness_VectorIntegerResults :
    base.ctx hd = some (cx base) ∧ VIOp.operandsOk .bfi .n32 0x1F01 ∧ VIOp.operandsOk .abs .i32 0 := by
  unfold VIOp.operandsOk; decide +kernel

theorem witness_FloatComparison : FVal.rat (.fin true 0 0) = some 0 ∧ FVal.rat (.fin false 1 0) = some 1 := by
  simp [FVal.rat]

/-- The largest value of E2M1, 6, and twice it. -/
theorem witness_Rounding : FFmt.e2m1 ∈ allFmts ∧ FVal.rat (.fin true 6 0) = some (-6) ∧ |(-6 : ℚ)| ≤ FFmt.e2m1.greatest
    ∧ FVal.rat (.fin false 12 0) = some 12 ∧ 2 * FFmt.e2m1.greatest ≤ |(12 : ℚ)| := by
  have h : FFmt.e2m1.greatest = 6 := by decide +kernel
  rw [h]
  refine ⟨by decide, by norm_num [FVal.rat], by norm_num, by norm_num [FVal.rat], by norm_num⟩

/-- 1, 0 and −2 of F32; 1, 2 and their product's sum of F16; what `VRCP` takes; NaN, infinities and zeros. -/
theorem witness_VectorFloatForms :
    FFmt.f32 ∈ laneFmts ∧ FFmt.f32.rat 0x3F800000 = some 1 ∧ FFmt.f32.rat 0 = some 0 ∧ FFmt.f32.rat 0xC0000000 = some (-2)
    ∧ VFOp.expr .lerp 0 1 (-2) = some (-2) ∧ VFOp.expr .div 0 1 0 = none ∧ |(-2 : ℚ)| ≤ FFmt.f32.greatest
    ∧ FFmt.f16.rat 0x3C00 = some 1 ∧ |(0 : ℚ) + 1 * 1 + 1 * 1| ≤ FFmt.f32.greatest ∧ |1 / (-2 : ℚ)| ≤ FFmt.f32.greatest
    ∧ FVal.decode .f32 0x7FC00000 = .nan ∧ FVal.decode .f32 0x7F800000 = .inf false ∧ FVal.decode .f32 0xFF800000 = .inf true
    ∧ (FVal.decode .f32 0x80000000).isZero = true ∧ FVal.decode .f32 0x3F800000 ≠ .nan
    ∧ FVal.cmp (FVal.decode .f32 0x3F800000).abs (FVal.decode .f32 0xC0000000).abs = some .lt
    ∧ FVal.cmp (FVal.decode .f32 0x3F800000).abs (FVal.decode .f32 0xBF800000).abs = some .eq := by
  have h : (2 : ℚ) ≤ FFmt.f32.greatest := by decide +kernel
  have e : VFOp.expr .lerp 0 1 (-2) = some (-2) ∧ VFOp.expr .div 0 1 0 = none := by norm_num [VFOp.expr]
  refine ⟨by decide, by decide +kernel, by decide +kernel, by decide +kernel, e.1, e.2, ?_, by decide +kernel, ?_, ?_, ?_⟩
  · norm_num; exact h
  · norm_num; exact h
  · exact le_trans (by norm_num) h
  · decide +kernel

/-- The inputs that R156 names: −1; 4 = 4^1 = 2^2; 1 = 2^0; the integer −2; 1/4. -/
theorem witness_SpecialFunctions :
    FFmt.f32.rat 0xBF800000 = some (-1) ∧ FFmt.f32.rat 0x40800000 = some ((4 : ℚ) ^ (1 : Int)) ∧ FFmt.f32.rat 0x40800000 = some ((2 : ℚ) ^ (2 : Int))
    ∧ FFmt.f32.rat 0x3F800000 = some ((2 : ℚ) ^ (0 : Int)) ∧ FFmt.f32.rat 0xC0000000 = some ((-2 : Int) : ℚ)
    ∧ FFmt.f32.rat 0x3E800000 = some (((1 : Int) : ℚ) / 4)
    ∧ FVal.decode .f32 0x80000000 = .fin true 0 (-149) := by
  norm_num
  decide +kernel

theorem witness_ConversionForms :
    base.ctx hd = some (cx base) ∧ CTy.ofCode 19 = some .i64 ∧ CTy.ofCode 0 = some .f32
    ∧ (2 : Nat) ∈ [8, 6, 4, 2] ∧ CTy.isFloat .e4m3 = true ∧ CTy.isFloat .n8 = false ∧ |((448 : Int) : ℚ)| ≤ (CTy.ffmt .e4m3).greatest
    ∧ FVal.rat (.fin false 5 (-1)) = some (5 / 2) ∧ RoundsToInt .rne (5 / 2) 2 ∧ RoundsToInt .rna (5 / 2) 3 := by
  have h : (CTy.ffmt .e4m3).greatest = 448 := by decide +kernel
  rw [h]
  refine ⟨by decide +kernel, by decide, by decide, by decide, by decide, by decide, by norm_num, by norm_num [FVal.rat], ?_, ?_⟩
  · norm_num [RoundsToInt, abs_le, abs_eq]
  · norm_num [RoundsToInt, abs_le, abs_of_neg, abs_of_pos]

theorem witness_ElementConversionForms :
    base.ctx hd = some (cx base) ∧ (CTy.width .e4m3) ∈ [16, 8, 4, 2] ∧ 2 * CTy.width .e4m3 * (1 + 1) ≤ 32
    ∧ FFmt.f16 ∈ laneFmts ∧ FFmt.f16.rat 0x3C00 = some 1 ∧ |(1 : ℚ) * (2 : ℚ) ^ (BitVec.ofNat 16 3).toInt| ≤ FFmt.f16.greatest
    ∧ FVal.decode .f16 0x7E00 = .nan ∧ FVal.decode .f16 0x7C00 = .inf false ∧ (FVal.decode .f16 0x8000).isZero = true
    ∧ FVal.rat (.fin false 3 0) = some 3 ∧ (2 : ℚ) ^ (1 : Int) ≤ |(3 : ℚ)| ∧ |(3 : ℚ)| < (2 : ℚ) ^ ((1 : Int) + 1)
    ∧ |(3 : ℚ)| / 448 ≤ 448 ∧ (448 : ℚ) < |(1000 : ℚ)| / 2 := by
  have h : (8 : ℚ) ≤ FFmt.f16.greatest := by decide +kernel
  refine ⟨by decide +kernel, by decide, by decide, by decide, by decide +kernel, ?_, by decide +kernel, by decide +kernel, by decide +kernel,
    by norm_num [FVal.rat], by norm_num, by norm_num, by norm_num, by norm_num⟩
  have : (BitVec.ofNat 16 3).toInt = 3 := by decide
  rw [this]; norm_num; exact h

/-- A lane of another slug reached in forme scope, and one of the own slug; no regroup under way. -/
theorem witness_LaneExchanges :
    base.ctx hd = some (cx base) ∧ (cx base).act ≠ 0 ∧ base.reach (cx base) false 31 = some (0, 31) ∧ base.reach (cx base) false 32 = none
    ∧ (∀ v, (cx base).f.moving v = false) ∧ base.pinBlocks (cx base) 3 5 = false := by
  have hg : (cx base).f.gathers = [] := by decide +kernel
  refine ⟨?_, ?_, ?_, ?_, fun v => by simp [Forme.moving, hg], ?_⟩ <;> decide +kernel

theorem witness_LaneReductions :
    base.ctx hd = some (cx base) ∧ (cx base).act ≠ 0 ∧ base.pinBlocks (cx base) 3 32 = false ∧ FVal.decode .f32 0 ≠ .nan := by
  decide +kernel

theorem witness_ExactSumForms :
    base.ctx hd = some (cx base) ∧ (cx base).act ≠ 0 ∧ ((cx base).m.readX 0).s = 0 ∧ base.pinBlocks (cx base) 3 0 = false
    ∧ (∃ x : XAcc, x.s ≠ 0 ∧ |(x.s.toInt : ℚ) * (2 : ℚ) ^ (-298 : Int)| ≤ FFmt.f32.greatest) := by
  refine ⟨by decide +kernel, by decide +kernel, by decide +kernel, by decide +kernel, { s := 1 }, by decide +kernel, ?_⟩
  have h : (2 : ℚ) ≤ FFmt.f32.greatest := by decide +kernel
  have e : ((1 : BitVec 760).toInt : ℚ) = 1 := by decide +kernel
  rw [e]
  refine le_trans ?_ h
  rw [one_mul, abs_of_pos (by positivity)]
  calc (2 : ℚ) ^ (-298 : Int) ≤ 2 ^ (1 : Int) := zpow_le_zpow_right₀ (by norm_num) (by norm_num)
    _ = 2 := by norm_num

theorem witness_ExactSumIsExactAndOrderFree :
    ([.fin false 1 (-298), .fin true 3 0] : List FVal).Perm [.fin true 3 0, .fin false 1 (-298)]
    ∧ (∀ v ∈ ([.fin false 1 (-298), .fin true 3 0] : List FVal),
        ∃ s m e, v = .fin s m e ∧ -298 ≤ e ∧ (m : ℚ) * (2 : ℚ) ^ e < (2 : ℚ) ^ (256 : Int)) := by
  refine ⟨List.Perm.swap _ _ _, ?_⟩
  intro v hv
  simp only [List.mem_cons, List.not_mem_nil, or_false] at hv
  rcases hv with rfl | rfl
  · refine ⟨false, 1, -298, rfl, by norm_num, ?_⟩
    rw [Nat.cast_one, one_mul]
    exact zpow_lt_zpow_right₀ (by norm_num) (by norm_num)
  · exact ⟨true, 3, 0, rfl, by norm_num, by norm_num⟩

/-! ### Memory -/

theorem mapped_of {s : State} {c : Ctx} {need : Need} {va n pa : Nat} {l : Leaf}
    (h : va < 2 ^ 54 ∧ tlbLook (s.core c.core).tlb va = some l ∧ pa = l.frame + (va - l.base) ∧ va % 2 ^ 18 + n ≤ 2 ^ 18 ∧ l.mt = 0
      ∧ l.allows need = true ∧ s.poisoned pa n = none ∧ (s.frames.look (frameOf pa)).owner = some (s.partOf c)) :
    s.Mapped c need va n pa l := ⟨h.1, h.2.1, h.2.2.1, h.2.2.2.1, h.2.2.2.2.1, h.2.2.2.2.2.1, h.2.2.2.2.2.2.1, h.2.2.2.2.2.2.2⟩

theorem cached_of {s : State} {core pa n : Nat} {k : LineKind}
    (h : pa % 128 + n ≤ 128 ∧ (s.l1Line core (lineOf pa)).data.length = 128 ∧ (s.l1Line core (lineOf pa)).kind = k
      ∧ (s.l1Line core (lineOf pa)).valid = true ∧ ((s.core core).partials.look (lineOf pa)).cells = []) : s.Cached core pa n k :=
  ⟨h.1, h.2.1, h.2.2.1, h.2.2.2.1, h.2.2.2.2⟩

theorem mem_noPartials : mem.NoPartials := noPartials_of mem (by decide +kernel)

theorem noPartials_memG (l : List (Nat × Word)) : (memG l).NoPartials := mem_noPartials

/-- The last eight bytes of the scratchpad part; every lane's four bytes; the first address beyond the part. -/
def win : State := withG [(1, 0x3FFF8), (2, 0x40000)]

theorem win_quiet : win.Undisturbed := quiet_of win (by decide +kernel)

theorem witness_WindowForms :
    win.ctx hd = some (cx win) ∧ (cx win).act ≠ 0 ∧ win.Undisturbed ∧ MarkLocal (mm 3)
    ∧ win.InWindow 0 ((cx win).m.srcG (ops (.g 3) (.g 1) (.g 0)) 0 (.g 1) + (cx win).m.srcG (ops (.g 3) (.g 1) (.g 0)) 0 (.g 0)).toNat 8 0 0x3FFF8
    ∧ win.pinBlocks (cx win) 3 0 = false ∧ dataOk (.g 3) 8 ∧ dataOk (.v 3) 16
    ∧ (∀ x ∈ windowLoads (ops (.v 4) (.g 0) (.g 0)) (mm 2) ++ windowStores (ops (.v 4) (.g 0) (.g 0)) (mm 2), ∀ i : Fin 32,
        win.InWindow 0 (x.2 (cx win) i.val).toNat 4 0 (x.2 (cx win) i.val).toNat)
    ∧ (∀ k o, ¬ win.InWindow 0 ((cx win).m.srcG (ops (.g 3) (.g 2) (.g 0)) 0 (.g 2)
        + (cx win).m.srcG (ops (.g 3) (.g 2) (.g 0)) 0 (.g 0)).toNat 1 k o)
    ∧ win.InWindow 0 0 96 0 0 ∧ (cx win).m.tx = none
    ∧ (∀ k, k < 12 → win.Readable (cx win) true ((0 : Word) + BitVec.ofNat 64 (8 * k)).toNat 8 (((List.replicate 96 0).drop (8 * k)).take 8)) := by
  refine ⟨by decide +kernel, by decide +kernel, win_quiet, Or.inl rfl, by unfold State.InWindow; decide +kernel, by decide +kernel,
    by simp [dataOk], by simp [dataOk], by unfold State.InWindow; decide +kernel, ?_, by unfold State.InWindow; decide +kernel, by decide +kernel, ?_⟩
  · rintro k o ⟨-, -, hk, ho, h⟩
    have e : ((cx win).m.srcG (ops (.g 3) (.g 2) (.g 0)) 0 (.g 2) + (cx win).m.srcG (ops (.g 3) (.g 2) (.g 0)) 0 (.g 0)).toNat = 0x40000 := by
      decide +kernel
    rw [e] at hk ho
    subst ho
    have hz : (win.forme 0).pidx = 0 := by decide +kernel
    rw [hz] at hk
    norm_num at hk
    subst hk
    revert h
    decide +kernel
  · intro k hk
    unfold State.Readable
    refine ⟨0, 8 * k, ?_, ?_⟩ <;> (interval_cases k <;> first | (unfold State.InWindow; decide +kernel) | decide +kernel)

/-- The state of the global accesses: `g1` the last eight bytes of a line of kind SO, `g2` a page of kind RC, `g3` an E4M3 page. -/
def glob : State := memG [(1, 0x78), (2, 0x40000), (3, 0x80000), (4, 0x78)]

theorem glob_quiet : glob.Undisturbed := quiet_of glob (by decide +kernel)

theorem witness_GlobalLoads :
    glob.ctx hd = some (cx glob) ∧ (cx glob).act ≠ 0 ∧ glob.Undisturbed ∧ MarkLocal (mm 3) ∧ (cx glob).slot.part = none
    ∧ ((cx glob).m.srcG (ops (.g 3) (.g 1) (.g 0)) 0 (.g 1) + (cx glob).m.srcG (ops (.g 3) (.g 1) (.g 0)) 0 (.g 0)).toNat = 0x78
    ∧ glob.Mapped (cx glob) .read 0x78 8 0x40078 so ∧ glob.Cached 0 0x40078 8 .so ∧ so.kind = .so ∧ lineOf 0x40078 = lineOf (0x40078 + 8 - 1)
    ∧ glob.pinBlocks (cx glob) 3 0 = false
    ∧ (∀ x ∈ memoryLoads (ops (.v 4) (.g 2) (.g 0)) (mm 2), ∀ i : Fin 32, ∃ pa,
        glob.Mapped (cx glob) .read (x.2 (cx glob) i.val).toNat 4 pa rc ∧ glob.Cached 0 pa 4 .rc)
    ∧ glob.NoPartials ∧ (∀ k, (glob.core k).l1.length + 32 < (glob.core k).l1Lines)
    ∧ glob.Mapped (cx glob) .read 0x40000 1 0x80000 rc ∧ glob.poison.contains (lineOf 0x80000) = false
    ∧ (2 ^ 54 ≤ ((cx (withG [(1, 0x40000000000000)])).m.srcG (ops .none (.g 1) .none) 0 (.g 1)).toNat) := by
  refine ⟨by decide +kernel, by decide +kernel, glob_quiet, Or.inl rfl, by decide +kernel, by decide +kernel, mapped_of (by decide +kernel),
    cached_of (by decide +kernel), by decide +kernel, by decide +kernel, by decide +kernel, ?_, noPartials_memG _, ?_, mapped_of (by decide +kernel),
    by decide +kernel, by decide +kernel⟩
  · intro x hx i
    refine ⟨(x.2 (cx glob) i.val).toNat + 0x40000, mapped_of ?_, cached_of ?_⟩
    · revert i x; decide +kernel
    · revert i x; decide +kernel
  · intro k
    refine look_all (fun c : Core => c.l1.length + 32 < c.l1Lines) (by decide +kernel) glob.cores (by decide +kernel) k

theorem glob_quietLine (n : Nat) (h : (glob.l1Line 0 n).dirty = 0) : glob.QuietLine 0 n := ⟨fun k => noPartialAt _ (noPartials_memG _) k n, h⟩

theorem witness_GlobalStores :
    glob.ctx hd = some (cx glob) ∧ (cx glob).act ≠ 0 ∧ glob.Undisturbed ∧ (cx glob).slot.part = none ∧ dataOk (.v 4) 4 ∧ dataOk (.const 15) 8
    ∧ (∀ x ∈ memoryStores (ops (.v 4) (.g 2) (.g 0)) (mm 2), ∀ i : Fin 32, ∃ pa,
        glob.Mapped (cx glob) .write (x.2 (cx glob) i.val).toNat 4 pa rc ∧ glob.Cached 0 pa 4 .rc ∧ rc.kind ≠ .so)
    ∧ (∀ x ∈ memoryStores (ops (.v 4) (.g 0) (.g 0)) (mm 2), ∀ i : Fin 32, ∃ pa,
        glob.Mapped (cx glob) .write (x.2 (cx glob) i.val).toNat 4 pa so ∧ so.kind = .so ∧ pa % 128 + 4 ≤ 128 ∧ glob.QuietLine 0 (lineOf pa)) := by
  refine ⟨by decide +kernel, by decide +kernel, glob_quiet, by decide +kernel, trivial, by simp [dataOk], ?_, ?_⟩
  · intro x hx i
    refine ⟨(x.2 (cx glob) i.val).toNat + 0x40000, mapped_of ?_, cached_of ?_, by decide +kernel⟩
    · revert i x; decide +kernel
    · revert i x; decide +kernel
  · intro x hx i
    refine ⟨(x.2 (cx glob) i.val).toNat + 0x40000, mapped_of ?_, by decide +kernel, ?_, glob_quietLine _ ?_⟩
    · revert i x; decide +kernel
    · revert i x; decide +kernel
    · revert i x; decide +kernel

theorem glob_otherCore {p : L1Line → Prop} (hd : p {}) (n : Nat) (h : p (glob.l1Line 0 n)) (k : Nat) : p (glob.l1Line k n) := by
  by_cases hk : k = 0
  · subst hk; exact h
  · have hc : glob.cores = [(0, glob.core 0)] := by decide +kernel
    have : glob.core k = default := by rw [State.core, hc]; simp [Sparse.look, Ne.symm hk]
    rw [State.l1Line, this]; exact hd

theorem witness_ReadAfterWrite : glob.Undisturbed ∧ 0x40078 % 128 + 8 ≤ 128
    ∧ (∀ k, ((glob.core k).partials.look (lineOf 0x40078)).cells = [])
    ∧ (∀ k, (glob.l1Line k (lineOf 0x40078)).kind = .so ∧ (glob.l1Line k (lineOf 0x40078)).dirty = 0)
    ∧ (glob.l1Line 0 (lineOf 0x80000)).data.length = 128 ∧ (glob.l1Line 0 (lineOf 0x80000)).kind = .rc := by
  refine ⟨glob_quiet, by decide, fun k => noPartialAt _ (noPartials_memG _) k _, ?_, by decide +kernel, by decide +kernel⟩
  exact glob_otherCore (p := fun l => l.kind = .so ∧ l.dirty = 0) (by decide) _ (by decide +kernel)

/-- Page tables: the root at 0 names the table at 0x2000, which names 0x4000, which names 0x6000, whose first entry is a leaf. -/
def tables : State := { glob with
  dram := [(0, 1), (1, 0x20), (0x2000, 1), (0x2001, 0x40), (0x4000, 1), (0x4001, 0x60), (0x6000, 3), (0x6002, 4), (0x600A, 0x30)]
  cores := glob.cores.upd 0 (fun c => { c with tlb := [{ page 0 1 0 0 with hi := 0 }, page 0x40000 9 0 0] }) }

theorem witness_TranslationAndItsFaults :
    glob.ctx hd = some (cx glob) ∧ (cx glob).m.tx = none ∧ (0x3FFF8 % 2 ^ 18 + 8 ≤ 2 ^ 18)
    ∧ tlbLook (tables.core 0).tlb 0 = some { lo := 0x40003, hi := 0, level := 0, part := 0, base := 0 }
    ∧ (tables.frames.look 1).owner = some (tables.partOf (cx tables)) ∧ tables.poisoned 0x40000 8 = none
    ∧ (∃ l, tlbLook (tables.core 0).tlb 0x40000 = some l ∧ l.mt = 0 ∧ (tables.frames.look (frameOf l.frame)).owner ≠ some (tables.partOf (cx tables)))
    ∧ (tlbLook (tables.core 0).tlb 0x80000 = none ∧ tlbLook (tables.cluster 0).tlb 0x80000 = none ∧ tables.walk 0x80000 = none
        ∧ tables.absentReason 0x80000 = 1)
    ∧ nextTable (tables.entry 0 0).1 (tables.entry 0 0).2 true = some 0x2000 ∧ nextTable (tables.entry 0 1).1 (tables.entry 0 1).2 true = none
    ∧ nextTable (tables.entry 0x2000 0).1 (tables.entry 0x2000 0).2 false = some 0x4000
    ∧ nextTable (tables.entry 0x4000 0).1 (tables.entry 0x4000 0).2 false = some 0x6000
    ∧ ((tables.entry 0x6000 0).1.getLsbD 0 = true ∧ (tables.entry 0x6000 0).1.getLsbD 1 = true) := by
  refine ⟨?_, ?_, ?_, ?_, ?_, ?_, ⟨_, rfl, ?_, ?_⟩, ?_⟩ <;> decide +kernel

/-! ### Formatted elements, atomics -/

/-- `v2` holds the lane numbers, `g3` an E4M3 tensor, `g4` one of format 17, which has blocks. -/
def fmtS : State :=
  let s := glob.modSlug 0 0 (fun m => (m.writeV 2 0xFFFFFFFF (fun i => BitVec.ofNat 32 i.val)).writeG 4 0xC0000)
  { s with
    frames := s.frames ++ [(4, { owner := some 0 })]
    cores := s.cores.upd 0 (fun c => { c with
      tlb := c.tlb ++ [page 0xC0000 4 1 17]
      l1 := c.l1 ++ ((List.range 8).map (fun i => (8192 + i, line .rc))) }) }

theorem fmt_quiet : fmtS.Undisturbed := quiet_of fmtS (by decide +kernel)

def region (a : Nat) : Region := (fmtS.regionAt (cx fmtS) false a).getD default
def elem (a : Word) (i : Fin 32) : FElem := formattedElem (cx fmtS) i a 8 i.val (region a.toNat)

theorem witness_FormattedForms :
    fmtS.ctx hd = some (cx fmtS) ∧ fmtS.Undisturbed ∧ MarkLocal (mm 2) ∧ (cx fmtS).act ≠ 0
    ∧ fmtS.regionAt (cx fmtS) false 0x80000 = some (region 0x80000) ∧ fmtWidth (region 0x80000).fmt = 8 ∧ hasBlocks (region 0x80000).fmt = false
    ∧ storable (region 0x80000).fmt = true ∧ storable (region 0xC0000).fmt = false ∧ fmtWidth (region 0xC0000).fmt = 8
    ∧ fmtS.regionAt (cx fmtS) false 0xC0000 = some (region 0xC0000)
    ∧ (∀ i : Fin 32, ((cx fmtS).m.readV 2)[i].toNat = i.val ∧ fmtS.regionAt (cx fmtS) false (elem 0x80000 i).va = some (region 0x80000)
        ∧ (elem 0x80000 i).past = false
        ∧ fmtS.Readable (cx fmtS) false (elem 0x80000 i).va (elem 0x80000 i).n (fmtS.l1Bytes 0 ((elem 0x80000 i).va + 0x40000) (elem 0x80000 i).n)
        ∧ fmtS.Mapped (cx fmtS) .write (elem 0x80000 i).va (elem 0x80000 i).n ((elem 0x80000 i).va + 0x40000) fp
        ∧ fmtS.Cached 0 ((elem 0x80000 i).va + 0x40000) (elem 0x80000 i).n .rc ∧ fp.kind = .rc)
    ∧ (∀ i : Fin 32, fmtS.regionAt (cx fmtS) false (elem 0xC0000 i).va = some (region 0xC0000)
        ∧ ∃ l, fmtS.Mapped (cx fmtS) .write (elem 0xC0000 i).va (elem 0xC0000 i).n ((elem 0xC0000 i).va + 0x40000) l ∧ l.kind = .rc
          ∧ fmtS.Cached 0 ((elem 0xC0000 i).va + 0x40000) (elem 0xC0000 i).n .rc)
    ∧ ((fmtTy 5).ffmt.rat 0x38 = some 1) ∧ (fmtTy 17).ffmt.rat 0x38 = some 1 ∧ (region 0xC0000).geo.getLsbD 2 = false
    ∧ |(1 : ℚ) * (2 : ℚ) ^ ((127 : Int) - 127)| ≤ FFmt.f32.greatest := by
  have h : (1 : ℚ) ≤ FFmt.f32.greatest := by decide +kernel
  refine ⟨?_, fmt_quiet, Or.inl rfl, ?_, ?_, ?_, ?_, ?_, ?_, ?_, ?_, fun i => ?_, fun i => ?_, ?_, ?_, ?_, by norm_num; exact h⟩
  case refine_10 =>
    have k1 : ∀ i : Fin 32, ((cx fmtS).m.readV 2)[i].toNat = i.val ∧ fmtS.regionAt (cx fmtS) false (elem 0x80000 i).va = some (region 0x80000)
        ∧ (elem 0x80000 i).past = false := by decide +kernel
    have mr : ∀ i : Fin 32, _ := fun i => mapped_of (s := fmtS) (c := cx fmtS) (need := .read) (va := (elem 0x80000 i).va) (n := (elem 0x80000 i).n)
      (pa := (elem 0x80000 i).va + 0x40000) (l := fp) (by revert i; decide +kernel)
    have mw : ∀ i : Fin 32, _ := fun i => mapped_of (s := fmtS) (c := cx fmtS) (need := .write) (va := (elem 0x80000 i).va) (n := (elem 0x80000 i).n)
      (pa := (elem 0x80000 i).va + 0x40000) (l := fp) (by revert i; decide +kernel)
    have cc : ∀ i : Fin 32, _ := fun i => cached_of (s := fmtS) (core := 0) (pa := (elem 0x80000 i).va + 0x40000) (n := (elem 0x80000 i).n)
      (k := .rc) (by revert i; decide +kernel)
    have hk : fp.kind = .rc := by decide +kernel
    have hc : (cx fmtS).core = 0 := by decide +kernel
    refine ⟨(k1 i).1, (k1 i).2.1, (k1 i).2.2, ?_, mw i, cc i, hk⟩
    refine ⟨(elem 0x80000 i).va + 0x40000, fp, mr i, ?_, ?_⟩
    · rw [hc, hk]; exact cc i
    · rw [hc]
  case refine_11 =>
    refine ⟨by revert i; decide +kernel, (tlbLook (fmtS.core 0).tlb 0xC0000).getD default, mapped_of ?_, by decide +kernel, cached_of ?_⟩
    · revert i; decide +kernel
    · revert i; decide +kernel
  all_goals decide +kernel

def am (op : BitVec 4) (t : Ty) : AtMod := { op := op, mark := 0, obs := 0, ty := t, sc := 0 }

theorem located_of {s : State} {c : Ctx} {need : Need} {va n pa : Nat} {l : Leaf} (hm : s.Mapped c need va n pa l)
    (h : l.kind ≠ .uo ∧ va % n = 0 ∧ pa % n = 0) (hq : s.QuietLine c.core (lineOf pa)) : s.Located c need va n pa l :=
  ⟨hm, h.1, h.2.1, h.2.2, hq⟩

/-- The page of kind SO at `g1`, aligned to 8 and 16; `v2` is zero in every lane, so that all lanes name one place. -/
def atomS : State := memG [(1, 0x70), (2, 5)]

theorem atom_quiet : atomS.Undisturbed := quiet_of atomS (by decide +kernel)
theorem atom_line (n : Nat) (h : (atomS.l1Line 0 n).dirty = 0) : atomS.QuietLine (cx atomS).core n := by
  have : (cx atomS).core = 0 := by decide +kernel
  rw [this]; exact ⟨fun k => noPartialAt _ (noPartials_memG _) k n, h⟩

theorem witness_AtomicForms :
    atomS.ctx hd = some (cx atomS) ∧ (cx atomS).act ≠ 0 ∧ atomS.Undisturbed ∧ AtMarkLocal (am 0 .i64) ∧ ScalarSource (.g 2)
    ∧ ((cx atomS).m.srcG (ops (.g 4) (.g 1) (.g 2)) 0 (.g 1)).toNat = 0x70
    ∧ atomS.Located (cx atomS) .both 0x70 8 0x40070 so ∧ atomS.Located (cx atomS) .both 0x70 16 0x40070 so
    ∧ atomS.pinBlocks (cx atomS) 4 0 = false ∧ atomS.pinBlocks (cx atomS) 5 0 = false := by
  refine ⟨by decide +kernel, by decide +kernel, atom_quiet, Or.inl rfl, Or.inl ⟨2, rfl⟩, by decide +kernel,
    located_of (mapped_of (by decide +kernel)) (by decide +kernel) (atom_line _ (by decide +kernel)),
    located_of (mapped_of (by decide +kernel)) (by decide +kernel) (atom_line _ (by decide +kernel)), by decide +kernel, by decide +kernel⟩

theorem witness_VectorAndWindowAtomics :
    atomS.ctx hd = some (cx atomS) ∧ (cx atomS).act ≠ 0 ∧ atomS.Undisturbed ∧ LaneSource (.const 3)
    ∧ (∀ i : Fin 32, (cx atomS).indexAt (ops (.v 4) (.g 1) (.v 2)) (am 0 .i64) i = 0x70
        ∧ atomS.Located (cx atomS) .both ((cx atomS).indexAt (ops (.v 4) (.g 1) (.v 2)) (am 0 .i64) i) 8 0x40070 so)
    ∧ (∀ i : Fin 32, (cx atomS).indexAt (ops (.v 4) (.g 1) (.v 2)) (am 0 .i64) i % 8 = 0
        ∧ atomS.InWindow 0 ((cx atomS).indexAt (ops (.v 4) (.g 1) (.v 2)) (am 0 .i64) i) 8 0 0x70) := by
  have k : ∀ i : Fin 32, (cx atomS).indexAt (ops (.v 4) (.g 1) (.v 2)) (am 0 .i64) i = 0x70 := by decide +kernel
  refine ⟨by decide +kernel, by decide +kernel, atom_quiet, Or.inr (Or.inr ⟨3, rfl⟩), fun i => ⟨k i, ?_⟩, fun i => ⟨?_, ?_⟩⟩
  · rw [k i]
    exact located_of (mapped_of (by decide +kernel)) (by decide +kernel) (atom_line _ (by decide +kernel))
  · rw [k i]
  · rw [k i]; unfold State.InWindow; decide +kernel

/-- A partial of one cell, and the state without one; masks with and without an observer beyond the core. -/
def partialS : State := { memG [(1, 0x40000), (2, 5)] with
  cores := mem.cores.upd 0 (fun c => { c with partials := [(4096, { op := 0, ty := .i32, cells := [(0x80000, some 7)], hot := {} })] }) }

theorem witness_ReductionsAndFences :
    atomS.ctx hd = some (cx atomS) ∧ (cx atomS).act ≠ 0 ∧ atomS.Undisturbed ∧ ScalarSource (.const 2) ∧ LaneSource (.v 3)
    ∧ atomS.Mapped (cx atomS) .write 0x70 4 0x40070 so ∧ so.kind = .so ∧ atomS.QuietLine (cx atomS).core (lineOf 0x40070)
    ∧ (atomS.l1Line 0 (lineOf 0x40070)).dirty = 0
    ∧ partialS.ctx hd = some (cx partialS) ∧ partialS.Undisturbed ∧ partialS.Mapped (cx partialS) .write 0x40000 4 0x80000 rc ∧ rc.kind = .rc
    ∧ ((partialS.core 0).partials.look (lineOf 0x80000)).op = 0 ∧ ((partialS.core 0).partials.look (lineOf 0x80000)).ty = .i32
    ∧ (partialS.core 0).partials = [(lineOf 0x80000, { op := 0, ty := .i32, cells := [(0x80000, some 7)], hot := {} })]
    ∧ (0x03 : BitVec 7) &&& 0x7E ≠ 0 ∧ (0x01 : BitVec 7) &&& 0x7E = 0 ∧ atomS.commandsLeft 0 0 1 = false ∧ atomS.commandsLeft 0 0 4 = false
    ∧ ({ atomS with cores := atomS.cores.upd 0 (fun c => { c with copies := [{ (default : Copy) with fk := 0, slug := 0 }] }) } : State).commandsLeft 0 0 4 = true := by
  refine ⟨by decide +kernel, by decide +kernel, atom_quiet, Or.inr ⟨2, rfl⟩, Or.inl ⟨3, rfl⟩, mapped_of (by decide +kernel), by decide +kernel,
    atom_line _ (by decide +kernel), by decide +kernel, by decide +kernel, quiet_of _ (by decide +kernel), mapped_of (by decide +kernel), by decide +kernel, ?_⟩
  decide +kernel

/-! ### Control -/

/-- Half of the lanes in `p1`; a second path in the other slot; one parked there at the path's own address; a full stack. -/
def half : State := slugIs (fun m => (m.writeP 1 0xFFFFFFFF 0x0000FFFF).writeG 1 64)
def two : State := slugIs (fun m => { m.writeP 1 0xFFFFFFFF 0x0000FFFF with b := { m.b with path := some { pk := false, pc := 80, mask := 0 } } })
def parked : State := slugIs (fun m => { m with
  a := { m.a with path := some { pk := false, pc := 0, mask := 0x0000FFFF } }
  b := { m.b with path := some { pk := true, pc := 0, mask := 0xFFFF0000 } } })
def deep : State := two.modSlug 0 0 (fun m => { m with stack := List.replicate 64 { pk := false, pc := 8, mask := 0 } })
def onHalf : Hdr := { hd with pred := 1 }
def cxHalf (s : State) : Ctx := (s.ctx onHalf).getD default

theorem witness_ControlFlowForms :
    half.ctx hd = some (cx half) ∧ (cx half).act ≠ 0 ∧ half.pinBlocks (cx half) 2 8 = false ∧ branchHolds 3 64 = true
    ∧ base.ctx off = some (cxOff base) ∧ (cxOff base).act = 0
    ∧ (memG [(1, 0x40000)]).Mapped (cx (memG [(1, 0x40000)])) .read 0x40000 512 0x80000 rc
    ∧ (∀ j, j < 4 → (memG [(1, 0x40000)]).Cached 0 (0x80000 + 128 * j) 128 .rc) ∧ (memG [(1, 0x40000)]).Undisturbed := by
  refine ⟨?_, ?_, ?_, ?_, ?_, ?_, mapped_of ?_, fun j hj => ?_, quiet_of _ ?_⟩
  case refine_8 => interval_cases j <;> exact cached_of (by decide +kernel)
  all_goals decide +kernel

theorem alone_of {c : Ctx} (h : (c.m.slot (!c.iss.b)).path = none ∧ c.m.stack = [] ∧ c.path.pk = false) : c.Alone := ⟨h.1, h.2.1, h.2.2⟩

theorem witness_Divergence :
    (cx half).Alone ∧ ((cx half).act &&& (cx half).m.readP 1 ≠ 0) ∧ ((cx half).path.mask &&& ~~~((cx half).act &&& (cx half).m.readP 1) ≠ 0)
    ∧ jumpTarget 0 (ops .none (.p 1) .none) 13 4 ≠ (cx half).nextPc ∧ (cx half).m.tx = none
    ∧ (cx base).Alone ∧ (cx base).m.readP 1 = 0
    ∧ two.ctx hd = some (cx two) ∧ ((cx two).m.slot true).path = some { pk := false, pc := 80, mask := 0 } ∧ (cx two).m.stack.length < 64
    ∧ deep.ctx hd = some (cx deep) ∧ (cx deep).m.stack.length = 64 ∧ (∀ e ∈ (cx deep).m.stack, e.pk = false)
    ∧ half.ctx onHalf = some (cxHalf half) ∧ (cxHalf half).act ≠ 0 ∧ (cxHalf half).path.mask &&& ~~~(cxHalf half).act ≠ 0 ∧ (cxHalf half).iss.occ = 1
    ∧ parked.ctx hd = some (cx parked) ∧ ((cx parked).m.slot true).path = some { pk := true, pc := (cx parked).path.pc, mask := 0xFFFF0000 }
    ∧ (cx parked).act ≠ 0 ∧ (cx parked).path.mask &&& ~~~(cx parked).act = 0
    ∧ (deep.slug 0 0).stack.length ≤ 64
    ∧ ((slugAfter (.txb (ops .none .none .none) { imm := 4 }) half).tx ≠ none) := by
  refine ⟨alone_of ?_, ?_, ?_, ?_, ?_, alone_of ?_, ?_⟩ <;> decide +kernel

/-- Two slugs of one forme, both short of lanes. -/
def pair : State := { half with
  launches := half.launches.upd 0 (fun l => { l with words := [(1, 2 ^ 45 + 2 ^ 46), (9, 2 ^ 33 + 2 ^ 23)] })
  formes := half.formes.upd 0 (fun f => { f with slugs := [(0, { half.slug 0 0 with a := { (half.slug 0 0).a with path := some { pc := 0, mask := 0xFFFF } } }),
    (1, { half.slug 0 0 with h := 1, owner := false, a := { (half.slug 0 0).a with path := some { pc := 0, mask := 0xFF } } })] }) }
/-- One slug alone, short of lanes. -/
def short : State := slugIs (fun m => { m with a := { m.a with path := some { pc := 0, mask := 0xFFFF } } })

theorem witness_PathsEndAndRegroup :
    (half.ctx onHalf = some (cxHalf half) ∧ (cxHalf half).m.tx = none ∧ (cxHalf half).f.gathers = [] ∧ half.Undisturbed ∧ (cxHalf half).f.slugs.wf = true
      ∧ (cxHalf half).Alone ∧ (cxHalf half).act ≠ 0 ∧ (cxHalf half).act ≠ (cxHalf half).path.mask
      ∧ (cxHalf half).act &&& (cxHalf half).path.mask = (cxHalf half).act)
    ∧ ((cx half).act = (cx half).m.liveLanes ∧ (cx half).m.owner = true ∧ half.engineBusy 0 true = false
      ∧ ∀ j, j ≠ 0 → (half.slug 0 j).live = false)
    ∧ ((cx pair).act = (cx pair).m.liveLanes ∧ pair.engineBusy 0 true = false ∧ (pair.slug 0 1).live = true)
    ∧ ({ half with formes := half.formes.upd 0 (fun f => { f with mq := [default] }) } : State).engineBusy 0 true = true
    ∧ ¬ ((cx half).m.paths = 1 ∧ (cx half).m.tx = none ∧ (cx half).m.hnd = none ∧ (cx half).path.mask ≠ 0xFFFFFFFF)
    ∧ ((cx short).m.paths = 1 ∧ (cx short).m.tx = none ∧ (cx short).m.hnd = none ∧ (cx short).path.mask ≠ 0xFFFFFFFF ∧ (cx short).path.mask ≠ 0
      ∧ ¬ ∃ j, j ≠ 0 ∧ (short.slug 0 j).live = true)
    ∧ ((cx pair).m.paths = 1 ∧ (cx pair).m.tx = none ∧ (cx pair).m.hnd = none ∧ (cx pair).path.mask ≠ 0xFFFFFFFF ∧ (cx pair).f.gathers = []
      ∧ (pair.slug 0 1).live = true ∧ (pair.slug 0 1).liveLanes ≠ 0xFFFFFFFF) := by
  have lone (s : State) (h : (s.forme 0).slugs = [(0, s.slug 0 0)]) (j : Nat) (hj : j ≠ 0) : (s.slug 0 j).live = false := by
    rw [State.slug, h]; simp [Sparse.look, Ne.symm hj]; rfl
  have nobody : ¬ ∃ j, j ≠ 0 ∧ (short.slug 0 j).live = true := by
    rintro ⟨j, hj, hl⟩
    rw [lone short (by decide +kernel) j hj] at hl
    cases hl
  refine ⟨⟨?_, ?_, ?_, quiet_of _ ?_, ?_, alone_of ?_, ?_⟩, ⟨?_, ?_, ?_, lone half ?_⟩, ?_, ?_, ?_, ⟨?_, ?_, ?_, ?_, ?_, nobody⟩, ?_⟩ <;> decide +kernel

/-! ### Exceptions, the handler, special registers -/

/-- The launch active; in the handler; its galley at the first page, whose frame the device memory holds. -/
def active (s : State) : State := { s with launches := s.launches.upd 0 (fun l => { l with st := .active }) }
def handling (h : Handling) : State := active (slugIs (fun m => { m with hnd := some h }))
def entered : Handling := { saved := { path := some { pk := false, pc := 16, mask := 0xFF } }, skip := true, unfinished := 0xFF, firmware := true }

theorem base_noPartials : base.NoPartials := noPartials_of base (by decide +kernel)

theorem witness_ExceptionEntries :
    base.ctx hd = some (cx base) ∧ (cx base).m.hnd = none ∧ (cx base).m.tx = none ∧ base.Undisturbed ∧ base.NoPartials ∧ base.held = []
    ∧ (cx base).act ≠ 0 ∧ (default : Hdr) = { stall := 0, neg := false, pred := 0 }
    ∧ (handling entered).ctx hd = some (cx (handling entered)) ∧ (cx (handling entered)).m.hnd ≠ none
    ∧ ((handling entered).launchOf (cx (handling entered))).st = .active ∧ (handling entered).Undisturbed := by
  refine ⟨?_, ?_, ?_, quiet_of _ ?_, base_noPartials, ?_, ?_, ?_, ?_, ?_, ?_, quiet_of _ ?_⟩ <;> decide +kernel

/-- The first page's frame holds a record that has not been taken. -/
def full7 : State := { tables with dram := tables.dram.put 0x40007 1 }

def entry (r : Resume) (k z : Bool) : Handling := { entered with resume := r, skip := k, scalar := z }
def handled (r : Resume) (k z : Bool) : State := (handling (entry r k z)).modSlug 0 0 (fun m => m.writeG 1 0xFF)

theorem witness_HandlerForms :
    (tables.Undisturbed ∧ tables.GalleySlot 0 0x40000 ∧ tables.physByte (0x40000 + 7) = 0)
    ∧ (full7.Undisturbed ∧ full7.GalleySlot 0 0x40000 ∧ full7.physByte (0x40000 + 7) ≠ 0)
    ∧ tables.ctx hd = some (cx tables) ∧ (cx tables).act ≠ 0
    ∧ decode (full 0x241 0 0 0 0) 0 = .ok (.trap (ops .none .none .none) { n := 0 })
    ∧ decode (full 0x242 0 0 0 0) 0 = .ok (.hret (ops .none .none .none) { n := 0 })
    ∧ (∀ r ∈ ([.replay, .reissue, .continue, .fail] : List Resume), ∀ k ∈ [true, false], ∀ z ∈ [true, false],
        (handled r k z).ctx hd = some (cx (handled r k z)) ∧ (cx (handled r k z)).act ≠ 0 ∧ (cx (handled r k z)).m.hnd = some (entry r k z) ∧ (entry r k z).inTx = none ∧ ((handled r k z).launchOf (cx (handled r k z))).st = .active
          ∧ ((cx (handled r k z)).m.srcG (ops .none (.g 1) .none) 0 (.g 1)).extractLsb' 0 32 &&& (entry r k z).unfinished ≠ 0
          ∧ (entry r k z).unfinished &&& ~~~((cx (handled r k z)).m.srcG (ops .none (.g 1) .none) 0 (.g 1)).extractLsb' 0 32 = 0
          ∧ (entry r k z).unfinished &&& ~~~((cx (handled r k z)).m.srcG (ops .none (.g 2) .none) 0 (.g 2)).extractLsb' 0 32 ≠ 0) := by
  have hg (s : State) (h : (s.translate none (s.launch 0).part ((s.launch 0).galley + 64 * ((s.launch 0).seq % 2 ^ (s.launch 0).glog)) 64 .write)
      = (s, .ok (0x40000, { lo := 0x40003, hi := 0x300000, level := 0, part := 0, base := 0 }))
      ∧ s.cores = [(0, s.core 0)] ∧ (s.core 0).partials = []) : s.GalleySlot 0 0x40000 :=
    ⟨⟨_, h.1, by decide⟩, by decide, fun k => noPartialAt _ (noPartials_of s h.2) k _⟩
  refine ⟨⟨quiet_of _ (by decide +kernel), hg _ (by decide +kernel), by decide +kernel⟩,
    ⟨quiet_of _ (by decide +kernel), hg _ (by decide +kernel), by decide +kernel⟩, by decide +kernel, by decide +kernel, by decide +kernel,
    by decide +kernel, ?_⟩
  decide +kernel

theorem witness_SystemForms :
    base.ctx hd = some (cx base) ∧ (cx base).act ≠ 0 ∧ base.pinBlocks (cx base) 3 0 = false ∧ (cx base).f.x0 < 16 ∧ (cx base).f.y0 < 16
    ∧ (cx base).f.pw < 16 ∧ (cx base).f.ph < 16 ∧ (cx base).m.depth < 8 ∧ (cx base).m.stack.length ≤ 64 ∧ (cx base).m.alloc < 32
    ∧ (Instr.pairedWord hd { op := .si .add .i64, d := .g 1, s := .g 2 } { op := .vote 1, d := .p 2, s := .p 3 }).wf = true
    ∧ (cx base).m.paths ≤ 1 ∧ ({ op := .si .add .i64, d := .g 1, s := .g 2 } : Half).FormIs hd (.add (ops (.g 1) (.g 1) (.g 2)) (alu .i64 0)) := by
  unfold Half.FormIs
  decide +kernel

/-- A handler over the tables, the second page of the range 0 up to 2^19 absent. -/
def ft (pool : List Nat) : State := { tables with
  formes := (tables.modSlug 0 0 (fun m => (m.writeG 7 0x40000).writeG 8 0x80000 |> fun m => { m with hnd := some entered })).formes
  roots := [(0, some 0)]
  frames := tables.frames.upd 1 (fun f => { f with firstTouch := pool != [] })
  parts := tables.parts.upd 0 (fun q => { q with ft := [(0, { base := 0, len := 0x80000, tmpl := 0x300000 })], pool1 := pool }) }

theorem ft_noPartials (l : List Nat) (k n : Nat) : (((ft l).core k).partials.look n).cells = [] :=
  noPartialAt tables (noPartials_of tables (by decide +kernel)) k n

theorem witness_FirstTouchForms :
    (∀ l ∈ ([[], [5, 6]] : List (List Nat)),
      (ft l).ctx hd = some (cx (ft l)) ∧ (cx (ft l)).act ≠ 0 ∧ (cx (ft l)).m.hnd = some entered ∧ (ft l).partOf (cx (ft l)) = 0
        ∧ (ft l).rootPart 0x40000 = some 0 ∧ ((ft l).part 0).ftRange 0x40000 ≠ none ∧ ((ft l).part 0).ftRange 0x80000 = none
        ∧ (ft l).presentLeaf 0x40000 = none ∧ (ft l).presentLeaf 0 ≠ none ∧ (ft l).slotAt 0x40000 0 = .ok 0x6010 ∧ ((ft l).part 0).pool1 = l
        ∧ ((cx (ft l)).m.srcG (ops (.g 1) (.g 7) .none) 0 (.g 7)).toNat = 0x40000)
    ∧ (∀ l, (ft l).Undisturbed) ∧ (∀ l k n, (((ft l).core k).partials.look n).cells = [])
    ∧ (((ft []).frames.look 1).firstTouch = false)
    ∧ ((ft [5, 6]).presentLeaf 0 = some { lo := 0x40003, hi := 0x300000, level := 0, part := 0, base := 0 }
      ∧ ((ft [5, 6]).frames.look 1).firstTouch = true ∧ ((ft [5, 6]).frames.look 1).owner = some 0
      ∧ (({ lo := 0x40003, hi := 0x300000, level := 0, part := 0, base := 0 } : Leaf).level = 0)
      ∧ (({ lo := 0x40003, hi := 0x300000, level := 0, part := 0, base := 0 } : Leaf).mt = 0)
      ∧ (({ lo := 0x40003, hi := 0x300000, level := 0, part := 0, base := 0 } : Leaf).tier < 2)) := by
  refine ⟨by decide +kernel, fun l => quiet_of _ ?_, ft_noPartials, by decide +kernel, by decide +kernel⟩
  have h : (ft []).txs = [] ∧ (ft []).formes = [(0, (ft []).forme 0)] ∧ ((ft []).forme 0).slugs = [(0, (ft []).slug 0 0)]
      ∧ ((ft []).slug 0 0).wake = none := by decide +kernel
  exact h

/-! ### Checks, transactions, waits, queues, barriers -/

theorem clean_of (s : State)
    (h : s.cores = [(0, s.core 0)] ∧ Sparse.wf (s.core 0).l1 = true ∧ ∀ e ∈ (s.core 0).l1, e.2.dirty = 0) (k : Nat) : s.CoreClean k := by
  refine ⟨look_all (fun c : Core => Sparse.wf c.l1 = true) rfl s.cores (fun e he => ?_) k, fun l => ?_⟩
  · rw [h.1, List.mem_singleton] at he
    rw [he]; exact h.2.1
  by_cases hk : k = 0
  · subst hk
    exact look_all (fun e : L1Line => e.dirty = 0) rfl _ h.2.2 l
  · have : s.core k = default := by rw [State.core, h.1]; simp [Sparse.look, Ne.symm hk]
    rw [State.l1Line, this]; rfl

/-- Elements of `v1` beyond a length. -/
def checks : State := glob.modSlug 0 0 (fun m => m.writeV 1 0xFFFFFFFF (fun i => BitVec.ofNat 32 i.val))

theorem witness_ChecksPassOrFault :
    checks.ctx hd = some (cx checks) ∧ (cx checks).act ≠ 0 ∧ checks.Undisturbed ∧ checks.CoreClean (cx checks).core
    ∧ checks.Mapped (cx checks) .read ((checks.launchOf (cx checks)).zbase (checks.guardZone (cx checks) 0)) 8 0x40000 so
    ∧ checks.Cached (cx checks).core 0x40000 8 so.kind ∧ so.kind ≠ .uo
    ∧ (cx checks).m.srcG (ops .none (.g 0) .none) 0 (.g 0) = 0 ∧ (cx checks).m.srcG (ops .none (.g 1) .none) 0 (.g 1) ≠ 0
    ∧ (∃ i : Fin 32, (cx checks).path.mask.getLsbD i.val = true ∧ 30 < (((cx checks).m.readV 1)[i]).toNat)
    ∧ (∀ i : Fin 32, ¬ ((cx checks).path.mask.getLsbD i.val = true ∧ 31 < (((cx checks).m.readV 1)[i]).toNat)) := by
  refine ⟨by decide +kernel, by decide +kernel, quiet_of _ (by decide +kernel), ?_, mapped_of (by decide +kernel), cached_of (by decide +kernel), ?_⟩
  · exact clean_of _ (by decide +kernel) _
  · decide +kernel

/-- A slug whose transaction has levels without and with an alternative. -/
def lvl (alt : Option Addr) : TxLevel := { alt := alt, ck := { pc := 8, mask := 0xFF } }
def txWith (l : List TxLevel) : Tx := { levels := l, target := 80 }
def open' (l : List TxLevel) : State := glob.modSlug 0 0 (fun m => { m with tx := some (txWith l) })

theorem witness_Transactions :
    (glob.ctx hd = some (cx glob) ∧ (cx glob).act ≠ 0 ∧ (cx glob).m.pendingG = [] ∧ (cx glob).m.tx = none ∧ (cx glob).m.paths = 1
      ∧ glob.CoreClean (cx glob).core)
    ∧ (∀ l ∈ ([[lvl none], [lvl none, lvl none], [lvl none, lvl (some 40), lvl none], List.replicate 4 (lvl none)] : List (List TxLevel)),
        (open' l).ctx hd = some (cx (open' l)) ∧ (cx (open' l)).act ≠ 0 ∧ (cx (open' l)).m.tx = some (txWith l)
          ∧ (open' l).txs = [((cx (open' l)).iss.fk, (cx (open' l)).iss.sl, txWith l)] ∧ (open' l).held = [] ∧ (cx (open' l)).m.paths = 1)
    ∧ (∀ l, (open' l).CoreClean 0 ∧ (open' l).NoPartials)
    ∧ ((cx two).m.tx = none ∧ 1 < (cx two).m.paths ∧ (cx two).m.pendingG = [])
    ∧ ((cx (open' [lvl none])).m.srcG (ops .none (.g 2) (.g 0)) 0 (.g 2) + (cx (open' [lvl none])).m.srcG (ops .none (.g 2) (.g 0)) 0 (.g 0)).toNat
        = 0x40000
    ∧ (open' [lvl none]).Mapped (cx (open' [lvl none])) .read 0x40000 8 0x80000 rc
    ∧ ((txWith [lvl none]).note { line := lineOf 0x80000 } false).tooBig = false := by
  have hc (l : List TxLevel) : (open' l).cores = glob.cores := rfl
  refine ⟨⟨?_, ?_, ?_, ?_, ?_, clean_of _ ?_ _⟩, ?_, fun l => ⟨clean_of glob ?_ 0, noPartials_of glob ?_⟩, ?_, ?_, mapped_of ?_, ?_⟩ <;> decide +kernel

def asleep (f : Bool) (t : Option Tx) : State := glob.modSlug 0 0 (fun m => { m with wake := some { fired := f, tx := t } })

theorem mayBlock_of {s : State} {c : Ctx} (h : s.txs = [] ∧ s.formes = [(0, s.forme 0)] ∧ (s.forme 0).slugs = [(0, s.slug 0 0)] ∧ (s.slug 0 0).wake = none
    ∧ c.m.paths = 1 ∧ s.cores = [(0, s.core 0)] ∧ (Sparse.wf (s.core 0).l1 = true ∧ ∀ e ∈ (s.core 0).l1, e.2.dirty = 0) ∧ (s.core 0).partials = [] ∧ s.held = []) : s.MayBlock c :=
  ⟨quiet_of s ⟨h.1, h.2.1, h.2.2.1, h.2.2.2.1⟩, h.2.2.2.2.1, clean_of s ⟨h.2.2.2.2.2.1, h.2.2.2.2.2.2.1⟩ _,
    noPartials_of s ⟨h.2.2.2.2.2.1, h.2.2.2.2.2.2.2.1⟩, h.2.2.2.2.2.2.2.2⟩

/-- Tags 0 and 1 of the forme set, no other. -/
def tags : State := { glob with formes := (glob.modSlug 0 0 (fun m => (m.writeG 5 4).writeG 6 3)).formes.upd 0 (fun f => { f with cptag := 3 }) }

theorem witness_WaitForms :
    (cx glob).m.tx = none
    ∧ (∀ f ∈ [true, false], ∀ t ∈ [none, some (txWith [lvl none])],
        ((asleep f t).slug (asleep f t).ev.forme (asleep f t).ev.slug).wake = some { fired := f, tx := t })
    ∧ tags.ctx hd = some (cx tags) ∧ (cx tags).act ≠ 0 ∧ tags.MayBlock (cx tags)
    ∧ (cx tags).m.readG 0 = 0 ∧ (cx tags).m.readG 6 &&& (cx tags).f.cptag = (cx tags).m.readG 6 ∧ (cx tags).m.readG 5 ≠ 0
    ∧ (cx tags).m.readG 5 &&& (cx tags).f.cptag = 0 ∧ tags.pinBlocks (cx tags) 3 0 = false := by
  refine ⟨?_, ?_, ?_, ?_, mayBlock_of ?_, ?_⟩ <;> decide +kernel

/-- Queue 1 of CAP 4 at offset 0 with `n` of its entries filled; allowances of one send for the first place and none for the second. -/
def ring (n : Nat) : State := { glob with
  formes := (glob.modSlug 0 0 (fun m => (m.writeG 5 4).writeG 6 0x200)).formes.upd 0 (fun f => { f with
    scratch := (if n = 0 then [] else [(8, BitVec.ofNat 8 n)]) ++ [(16, 4), (32, 1), (128, 9)] })
  launches := glob.launches.upd 0 (fun l => { l with queues := l.queues.put ((cx glob).f.queueKey 1) { set := true, fk := 0, off := 0, cap := 4 } }) }

theorem witness_QueueForms :
    (∀ n ∈ [0, 1, 4], (ring n).ctx hd = some (cx (ring n)) ∧ (cx (ring n)).act ≠ 0 ∧ (ring n).MayBlock (cx (ring n))
      ∧ (ring n).Ring (cx (ring n)) 1 { set := true, fk := 0, off := 0, cap := 4 } 0 n
      ∧ natOf ((ring n).spadRead 0 (32 + 4 * (cx (ring n)).f.pidx) 4) ≠ 0 ∧ (cx (ring n)).f.pidx < 24)
    ∧ ((cx (ring 0)).m.srcG (ops .none (.g 6) (.g 5)) 0 (.g 5)).toNat = 4 ∧ ((cx (ring 0)).m.srcG (ops .none (.g 6) (.g 5)) 0 (.g 6)).toNat = 0x200
    ∧ (ring 0).InWindow (cx (ring 0)).iss.fk 0x200 (128 + 8 * 4) 0 0x200 ∧ ((cx (ring 0)).m.srcG (ops .none (.g 6) .none) 0 (.g 0)).toNat = 0
    ∧ (0 : Nat) < (cx (ring 0)).f.pw * (cx (ring 0)).f.ph ∧ ((ring 0).queueOf (cx (ring 0)) 2).set = false := by
  refine ⟨?_, by decide +kernel, by decide +kernel, by unfold State.InWindow; decide +kernel, by decide +kernel, by decide +kernel, by decide +kernel⟩
  intro n hn
  refine ⟨by revert n; decide +kernel, by revert n; decide +kernel, mayBlock_of (by revert n; decide +kernel), ?_, by revert n; decide +kernel,
    by revert n; decide +kernel⟩
  have h : ∀ n ∈ [0, 1, 4], (ring n).queueOf (cx (ring n)) 1 = { set := true, fk := 0, off := 0, cap := 4 }
    ∧ natOf ((ring n).spadRead 0 (0 + 0) 8) = 0 ∧ natOf ((ring n).spadRead 0 (0 + 16) 2) = 4
    ∧ natOf ((ring n).spadRead 0 (0 + 8) 8) = (0 + n) % 2 ^ 64 ∧ n ≤ 4 := by decide +kernel
  have k := h n hn
  exact ⟨k.1, rfl, rfl, k.2.1, k.2.2.1, by decide, k.2.2.2.1, k.2.2.2.2⟩

/-- Two live slugs of a forme; those that have arrived at guy line 0, and the generation the issuing one waits for. -/
def guys (others : List (Nat × Nat)) (two : Bool) (n : Nat) : State := { glob with
  formes := glob.formes.upd 0 (fun f => { f with slugs := [(0, { glob.slug 0 0 with arrived := if n = 0 then [] else [(0, some (BitVec.ofNat 32 (n - 1)))] })]
    ++ if two then [(1, { glob.slug 0 0 with h := 1 })] else [] })
  launches := glob.launches.upd 0 (fun l => { l with guys := [(l.guyKey 0 0, { gen := 1, arrived := others })] }) }

theorem quiet_all (s : State) (h : s.txs = [] ∧ ∀ e ∈ s.formes, ∀ m ∈ e.2.slugs, m.2.wake = none) : s.Undisturbed := by
  refine ⟨h.1, fun k j => ?_⟩
  have hf : ∀ j', ((s.formes.look k).slugs.look j').wake = none := by
    refine look_all (fun f : Forme => ∀ j', (f.slugs.look j').wake = none) (fun _ => rfl) s.formes ?_ k
    intro e he j'
    exact look_all (fun m : Slug => m.wake = none) rfl e.2.slugs (h.2 e he) j'
  exact hf j

theorem witness_BarrierForms :
    (∀ b ∈ [true, false], ∀ o ∈ ([[], [(0, 0)], [(0, 1)]] : List (List (Nat × Nat))), ∀ x ∈ [0, 1, 2],
        (guys o b x).MayBlock (cx (guys o b x)) ∧ (guys o b x).ctx hd = some (cx (guys o b x)) ∧ (cx (guys o b x)).act ≠ 0 ∧ (cx (guys o b x)).m.live = true ∧ (guys o b x).formes.wf = true
        ∧ (cx (guys o b x)).f.slugs.wf = true ∧ (cx (guys o b x)).m.paths = 1
        ∧ (guys o b x).unitSlugs 0 (cx (guys o b x)).f.fidx 0 = (if b then [(0, 0), (0, 1)] else [(0, 0)])
        ∧ ((guys o b x).launch 0).guys.look (((guys o b x).launch 0).guyKey (cx (guys o b x)).f.fidx 0) = { gen := 1, arrived := o }
        ∧ (guys o b x).engineBusy 0 false = false ∧ ((cx (guys o b x)).m.arrived.look 0).map BitVec.toNat = if x = 0 then none else some (x - 1))
    ∧ (1 ≤ ((1 : BitVec 32) - 0).toNat ∧ ((1 : BitVec 32) - 0).toNat ≤ 2 ^ 31) ∧ ¬ (1 ≤ ((1 : BitVec 32) - 1).toNat) := by
  refine ⟨fun b hb o ho x hx => ⟨⟨quiet_all _ ?_, ?_, clean_of glob (by decide +kernel) _,
    noPartials_of glob (by decide +kernel), rfl⟩, ?_⟩, by decide +kernel, by decide +kernel⟩
  · revert b o x; decide +kernel
  · revert b o x; decide +kernel
  · revert b o x; decide +kernel

/-! ### Copies and collectives -/

/-- The copy unit holds commands; `tx` puts a transaction around the slug, `own` takes the matrix right away. -/
def copying (n : Nat) (own : Bool) (tx : Bool) : State := { glob with
  formes := (glob.modSlug 0 0 (fun m => { m with owner := own, tx := if tx then some (txWith [lvl none]) else none })).formes
  cores := glob.cores.upd 0 (fun c => { c with copies := List.replicate n default }) }

theorem witness_CopyForms :
    ∀ n ∈ [0, 16], ∀ o ∈ [true, false], ∀ t ∈ [true, false],
      (copying n o t).ctx hd = some (cx (copying n o t)) ∧ (cx (copying n o t)).act ≠ 0 ∧ (cx (copying n o t)).m.owner = o
      ∧ (cx (copying n o t)).m.tx.isSome = t ∧ ((copying n o t).core (cx (copying n o t)).core).copies.length = n := by decide +kernel

/-- The copy unit's first command is `q`, the only one of its tag. -/
def oneCopy (s : State) (q : Copy) : State := { s with
  ev := { core := 0, index := 0 }
  formes := s.formes.upd 0 (fun f => { f with cptag := ~~~1, tagStat := [(0, 0xFE00000000000000)], inFlight := [(0, 1)] })
  cores := s.cores.upd 0 (fun c => { c with copies := [q] }) }

theorem command_of {s : State} {q : Copy} (h : s.ev.tenant = false ∧ (s.core s.ev.core).copies[s.ev.index]? = some q
    ∧ (s.forme q.fk).inFlight.look q.tag.toNat = 1 ∧ (s.forme q.fk).tagStat.look q.tag.toNat = 0xFE00000000000000
    ∧ s.txs = [] ∧ s.formes = [(0, s.forme 0)] ∧ (s.forme 0).slugs = [(0, s.slug 0 0)] ∧ (s.slug 0 0).wake = none
    ∧ s.cores = [(0, s.core 0)] ∧ (s.core 0).partials = []) : s.Command q :=
  ⟨h.1, h.2.1, h.2.2.1, h.2.2.2.1, quiet_of s ⟨h.2.2.2.2.1, h.2.2.2.2.2.1, h.2.2.2.2.2.2.1, h.2.2.2.2.2.2.2.1⟩,
    noPartials_of s h.2.2.2.2.2.2.2.2⟩

/-- Eight bytes from the page of kind SO to the scratchpad, and a fill; two rows of four bytes with a gap; a row longer than its stride. -/
def cpy : Copy := { opc := 0x1A0, dst := 0x40, dw := true, src := 0x10, len := 8 }
def fill : Copy := { cpy with opc := 0x1A8, src := 0x1122334455667788 }
def rows : Copy := { cpy with opc := 0x1A1, len := 4, rows := 2, dstr := 8, sstr := 4 }
def badRows : Copy := { rows with dstr := 3 }
def huge : Copy := { cpy with len := 0x10000000000 }

/-- Two SEALED pages of one key and one of another. -/
def sealedS : State := { glob with
  frames := glob.frames.mapVals (fun _ f => { f with key := 1 })
  cores := glob.cores.upd 0 (fun c => { c with l1 := [], tlb := [
    { page 0 1 0 0 with hi := 0x20010300000 }, { page 0x40000 2 0 0 with hi := 0x20010300000 }, { page 0x80000 3 0 0 with hi := 0x40010300000 },
    { page 0xC0000 3 0 0 with hi := 0x300000 }] }) }
def cpys : Copy := { opc := 0x1A3, dst := 0, src := 0x40000, len := 4096 }

theorem witness_CopiesComplete :
    (∀ q ∈ [cpy, fill, rows, badRows, huge], (oneCopy glob q).Command q)
    ∧ (∀ q ∈ [cpy, fill], (oneCopy glob q).CopyAt 0 0 0 true true 0x40 8 (.pad 0 0x40))
    ∧ (oneCopy glob cpy).CopyAt 0 0 0 false false 0x10 8 (.mem 0x40010) ∧ Apart (.mem 0x40010) 8 (.pad 0 0x40) 8
    ∧ (oneCopy glob rows).CopyAt 0 0 0 true true 0x40 12 (.pad 0 0x40) ∧ (oneCopy glob rows).CopyAt 0 0 0 false false 0x10 8 (.mem 0x40010)
    ∧ Apart (.mem 0x40010) 8 (.pad 0 0x40) 12 ∧ (4 : Nat) ≤ 8 ∧ badRows.dstr ≠ 0 ∧ badRows.dstr.toNat < badRows.len.toNat ∧ 2 ^ 40 ≤ huge.len.toNat
    ∧ (oneCopy sealedS cpys).Command cpys
    ∧ (∀ va ∈ [0, 0x40000, 0x80000, 0xC0000], ∀ n ∈ ([.read, .write] : List Need), ∃ pa l,
        (oneCopy sealedS cpys).translate (some 0) 0 va 4096 n = (oneCopy sealedS cpys, .ok (pa, l)) ∧ pa % 4096 = 0
        ∧ l.mt = (if va = 0xC0000 then 0 else 1) ∧ (l.key = 1 ↔ va ≤ 0x40000)) := by
  have hq : ∀ q ∈ [cpy, fill, rows, badRows, huge], (oneCopy glob q).Command q := fun q hq => command_of (by revert q; decide +kernel)
  have hp : ∀ q ∈ [cpy, fill, rows], ∀ n ∈ [8, 12], (oneCopy glob q).InWindow 0 0x40 n 0 0x40 := by unfold State.InWindow; decide +kernel
  have hm : ∀ q ∈ [cpy, rows], (oneCopy glob q).CopyAt 0 0 0 false false 0x10 8 (.mem 0x40010) := by
    intro q hq
    refine ⟨rfl, by norm_num, by norm_num, so, ?_⟩
    revert q; decide +kernel
  refine ⟨hq, ?_, hm cpy (by simp), ?_, ?_, hm rows (by simp), ?_, by decide, by decide, by decide, by decide, command_of (by decide +kernel), ?_⟩
  · intro q h
    exact ⟨rfl, hp q (by simp at h ⊢; tauto) 8 (by simp)⟩
  · intro i _ h; exact h
  · exact ⟨rfl, hp rows (by simp) 12 (by simp)⟩
  · intro i _ h; exact h
  · intro va hva n hn
    have k : ∀ va ∈ [0, 0x40000, 0x80000, 0xC0000], ∀ n ∈ ([.read, .write] : List Need), ∃ e ∈ (sealedS.core 0).tlb,
        (oneCopy sealedS cpys).translate (some 0) 0 va 4096 n
          = (oneCopy sealedS cpys, .ok (e.lo.toNat / 2 ^ 18 * 2 ^ 18, { lo := e.lo, hi := e.hi, level := 0, part := 0, base := va }))
        ∧ e.lo.toNat / 2 ^ 18 * 2 ^ 18 % 4096 = 0
        ∧ ({ lo := e.lo, hi := e.hi, level := 0, part := 0, base := va } : Leaf).mt = (if va = 0xC0000 then 0 else 1)
        ∧ (({ lo := e.lo, hi := e.hi, level := 0, part := 0, base := va } : Leaf).key = 1 ↔ va ≤ 0x40000) := by decide +kernel
    obtain ⟨e, -, h⟩ := k va hva n hn
    exact ⟨_, _, h⟩

/-- A descriptor of eight words at the start of the page of kind RC, and what stands of a group and of the partition's engines. -/
def desc (ws : List Word) (g : Group) (e : Nat) (n : Nat) : State := { glob with
  parts := glob.parts.upd 0 (fun q => { q with engines := e, groups := [(3, g)] ++ (List.range n).map (fun k => (k + 4, { used := true })) })
  cores := glob.cores.upd 0 (fun c => { c with
    l1 := c.l1.put 4096 { line .rc with data := ws.flatMap (fun w => bytesOf 8 w.toNat) ++ List.replicate 64 0 } }) }

/-- A group descriptor of group 3: size 2, own number 1; and one of size 0. -/
def grp : List Word := [3#16 ++ 2#10 ++ 1#9 ++ 0#29, 0, 0, 0, 0, 0, 0, 0]
def grpBad : List Word := [3#16 ++ 0#10 ++ 1#9 ++ 0#29, 0, 0, 0, 0, 0, 0, 0]
/-- A collective descriptor of group 3: an all-reduce of `n32`, and one with a reserved operation. -/
def red : List Word := [3#16 ++ 0#4 ++ 0#4 ++ 1#3 ++ 0#1 ++ 0#36, 2#32 ++ 0#32, 0x40000, 0x40100, 0, 0, 0, 0]
def redBad : List Word := [3#16 ++ 9#4 ++ 0#4 ++ 1#3 ++ 0#1 ++ 0#36, 0, 0, 0, 0, 0, 0, 0]
def formed : Group := { used := true, formed := true, size := 2, self := 1 }

theorem witness_CollectiveForms :
    (∀ ws ∈ [grp, grpBad, red, redBad], ∀ g ∈ [({} : Group), formed, { formed with formed := false }], ∀ e ∈ [0, 2], ∀ n ∈ [0, 64],
      (desc ws g e n).ctx hd = some (cx (desc ws g e n)) ∧ (cx (desc ws g e n)).act ≠ 0 ∧ (cx (desc ws g e n)).m.paths = 1
      ∧ ((cx (desc ws g e n)).m.readG 2).toNat = 0x40000 ∧ (desc ws g e n).Undisturbed
      ∧ (desc ws g e n).Mapped (cx (desc ws g e n)) .read 0x40000 64 0x80000 rc ∧ (desc ws g e n).Cached (cx (desc ws g e n)).core 0x80000 64 rc.kind
      ∧ ((desc ws g e n).part ((desc ws g e n).partOf (cx (desc ws g e n)))).engines = e
      ∧ (((desc ws g e n).part 0).groups.look ((((desc ws g e n).descWord 0 0x80000 0).extractLsb' 48 16)).toNat = g))
    ∧ (∀ e ∈ [0, 2], ∀ n ∈ [0, 64], GroupOk ((desc grp {} e n).descWord 0 0x80000) ∧ ¬ GroupOk ((desc grpBad {} e n).descWord 0 0x80000)
      ∧ CollOk ((desc red formed e n).descWord 0 0x80000) 2 ∧ CollOk ((desc red {} e n).descWord 0 0x80000) 512
      ∧ ¬ CollOk ((desc redBad formed e n).descWord 0 0x80000) 2)
    ∧ 64 ≤ (((desc grp {} 2 64).part 0).groups.filter (fun e => e.2.used)).length
    ∧ ¬ 64 ≤ (((desc grp {} 2 0).part 0).groups.filter (fun e => e.2.used)).length := by
  refine ⟨fun ws hw g hg e he n hn => ?_, ?_, by decide +kernel, by decide +kernel⟩
  · refine ⟨by revert ws g e n; decide +kernel, by revert ws g e n; decide +kernel, by revert ws g e n; decide +kernel, by revert ws g e n; decide +kernel,
      quiet_of _ (by revert ws g e n; decide +kernel), mapped_of (by revert ws g e n; decide +kernel), cached_of (by revert ws g e n; decide +kernel),
      by revert ws g e n; decide +kernel, by revert ws g e n; decide +kernel⟩
  · intro e he n hn
    refine ⟨?_, ?_, ?_, ?_, ?_⟩ <;> simp only [GroupOk, CollOk] <;> (revert e n; decide +kernel)

/-- A group and a collective in flight whose tags are the forme's; the member table lies in the first page. -/
def inFlightColl (g : Group) (x : Coll) (flag tenant : Bool) (cyc : Nat) : State := { tables with
  cyc := cyc
  ev := { part := 0, index := 0, flag := flag, tenant := tenant }
  formes := tables.formes.upd 0 (fun f => { f with cptag := ~~~1, tagStat := [(0, 0xFE00000000000000)], inFlight := [(0, 1)] })
  parts := tables.parts.upd 0 (fun q => { q with engines := 1, groups := [(0, g)], colls := [x] }) }

def barrier : Coll := { desc := [0#16 ++ 6#4 ++ 0#44, 0, 0, 0, 0, 0, 0, 0] }

theorem witness_CollectivesComplete :
    (∀ f ∈ [true, false], ∀ tn ∈ [true, false], ∀ cyc ∈ [0, 1600 * 100000], ∀ r ∈ [true, false], ∀ st ∈ [true, false], ∀ x : Coll,
      x = { barrier with started := st } → ∀ g : Group, g = { used := true, formed := r, size := 2, self := 1, timeout := 100000 } →
      (inFlightColl g x f tn cyc).Undisturbed ∧ (inFlightColl g x f tn cyc).NoPartials
      ∧ ((inFlightColl g x f tn cyc).part 0).groups.look 0 = g ∧ ((inFlightColl g x f tn cyc).part 0).colls[0]? = some x
      ∧ ((inFlightColl g x f tn cyc).forme 0).inFlight.look 0 = 1 ∧ ((inFlightColl g x f tn cyc).forme 0).tagStat.look 0 = 0xFE00000000000000
      ∧ (inFlightColl g x f tn cyc).ev.flag = f ∧ (inFlightColl g x f tn cyc).ev.tenant = tn ∧ (collDesc x.desc).op = 6
      ∧ (inFlightColl g x f tn cyc).translate none 0 0 128 .read
          = (inFlightColl g x f tn cyc, .ok (0x40000, { lo := 0x40003, hi := 0x300000, level := 0, part := 0, base := 0 })))
    ∧ ([5, 7] : List Nat).Perm [7, 5]
    ∧ (∃ (d : CollDesc) (g : Group), d.exact' = false ∧ d.red = 0 ∧ collTy d.ty = .n32 ∧ d.op = 2 ∧ g.self < g.size ∧ d.root < g.size
        ∧ ([0, 0, 0, 0] : List Byte).length = (collTy d.ty).bytes * d.sends g
        ∧ ([0, 0, 0, 0] : List Byte).length = d.count * (collTy d.ty).bytes * (g.size - 1)) := by
  refine ⟨fun f hf tn ht cyc hc r hr st hs x hx g hg => ?_, List.Perm.swap _ _ _, ?_⟩
  · subst hx hg
    refine ⟨quiet_of _ (by revert f tn cyc r st; decide +kernel), noPartials_of _ (by revert f tn cyc r st; decide +kernel), ?_⟩
    revert f tn cyc r st; decide +kernel
  · refine ⟨collDesc [0#16 ++ 2#4 ++ 0#4 ++ 1#3 ++ 0#37, 1#32 ++ 0#32, 0, 0, 0, 0, 0, 0], { size := 2 }, ?_⟩
    decide +kernel

/-! ### The matrix engine -/

section engine

variable {s u : State} {fk : Nat}

theorem accOnly_window (h : s.AccOnly u fk) (k a n : Nat) : u.window k a n = s.window k a n := by
  have hp := congrArg Forme.pidx (h.formes k)
  have hw := congrArg Forme.pw (h.formes k)
  have hh := congrArg Forme.ph (h.formes k)
  have hz (j : Nat) : u.spadSize j = s.spadSize j := by
    have hl := congrArg Forme.launch (h.formes j)
    have hL := congrArg State.launches h.device
    simp only at hl hL
    simp only [State.spadSize, State.launch, hl, hL]
  simp only at hp hw hh
  simp only [State.window, hp, hw, hh, hz]

theorem accOnly_seg (h : s.AccOnly u fk) (k : Nat) : u.launch (u.forme k).launch = s.launch (s.forme k).launch := by
  have hl := congrArg Forme.launch (h.formes k)
  have hL := congrArg State.launches h.device
  simp only at hl hL
  simp only [State.launch, hl, hL]

theorem accOnly_spad (h : s.AccOnly u fk) (k o n : Nat) : u.spadRead k o n = s.spadRead k o n := by
  have hs := congrArg Forme.scratch (h.formes k)
  simp only at hs
  simp only [State.spadRead, hs]

/-- The same answer in both states, which it does not change. -/
def Same {α : Type} (s u : State) (x y : MRes α) : Prop := ∃ r, x = (s, r) ∧ y = (u, r)

theorem Same.then {α β : Type} {x y : MRes α} {f g : State → α → MRes β} (h : Same s u x y) (k : ∀ a, Same s u (f s a) (g u a)) :
    Same s u (x.then f) (y.then g) := by
  obtain ⟨r, rfl, rfl⟩ := h
  cases r with
  | error e => exact ⟨.error e, rfl, rfl⟩
  | ok a => exact k a

theorem Same.each {α β : Type} {f g : State → α → MRes β} (h : ∀ a, Same s u (f s a) (g u a)) (l : List α) :
    Same s u (mEach f s l) (mEach g u l) := by
  induction l with
  | nil => exact ⟨_, rfl, rfl⟩
  | cons a r ih => exact (h a).then (fun b => ih.then (fun bs => ⟨_, rfl, rfl⟩))

theorem same_region (h : s.AccOnly u fk) (g : Eng) (n a : Nat) : Same s u (s.engRegion g ⟨true, n⟩ a) (u.engRegion g ⟨true, n⟩ a) := by
  simp only [State.engRegion, if_true, accOnly_window h]
  cases s.window g.fk a 1 with
  | error f => exact ⟨_, rfl, rfl⟩
  | ok p => simp only [accOnly_seg h]; exact ⟨_, rfl, rfl⟩

theorem same_read (h : s.AccOnly u fk) (g : Eng) (k : Nat) (b : Bool) (a n : Nat) :
    Same s u (s.engRead g ⟨true, k⟩ b a n) (u.engRead g ⟨true, k⟩ b a n) := by
  unfold State.engRead
  by_cases hn : n = 0
  · simp only [if_pos hn]; exact ⟨_, rfl, rfl⟩
  · simp only [if_neg hn, if_true, accOnly_window h]
    cases s.window g.fk a n with
    | error f => exact ⟨_, rfl, rfl⟩
    | ok p => simp only [accOnly_spad h]; exact ⟨_, rfl, rfl⟩

/-- A row of a pitch-window operand is the same in states that differ in accumulator memory. -/
theorem same_row (h : s.AccOnly u fk) (g : Eng) (k : Nat) (b : Bool) (fmt : Nat) (geo : BitVec 3) (a n : Nat) :
    Same s u (s.engReadRow g ⟨true, k⟩ b fmt geo a n) (u.engReadRow g ⟨true, k⟩ b fmt geo a n) := by
  unfold State.engReadRow State.engRow
  refine Same.then (Same.then (Same.each (fun x => (same_region h g k x).then (fun r => ?_)) _) (fun rs => ?_)) (fun r => ?_)
  · dsimp only; split <;> exact ⟨_, rfl, rfl⟩
  · dsimp only; split
    · exact ⟨_, rfl, rfl⟩
    · split <;> exact ⟨_, rfl, rfl⟩
  · exact (same_read h g k b a _).then (fun bs => (Same.each (fun x => same_read h g 5 b x 2) _).then (fun ss => ⟨_, rfl, rfl⟩))

theorem AccOnly_refl (s : State) (fk : Nat) : s.AccOnly s fk := ⟨rfl, fun _ => rfl, fun _ _ => rfl⟩

end engine

/-- A layout word (R175): `rows` by `cols` elements of an accumulator format from a KiB on. -/
def tileWord (kib rows cols af : Nat) : Layout := BitVec.ofNat 64 (kib * 2 ^ 32 + rows * 2 ^ 24 + cols * 2 ^ 16 + af * 2 + 1)

/-- A matrix descriptor: strides in units of 8 bytes, M in units of 8 less one, N in units of 16, K in units of 48. -/
def shape (sa sb : BitVec 19) (m n : BitVec 6) (k : BitVec 7) (acc : Bool) : Word :=
  sa ++ sb ++ m ++ n ++ k ++ BitVec.ofBool acc ++ 0#6

/-- A forme with one instruction in its queue, tiles 1 and 2 of F32, tile 4 of I32, an MX segment at 0 and an E4M3 segment at 1024 of the
scratchpad part; its slug is the owner. -/
def eng (e : MqEntry) : State := { active (slugIs (fun m => { m with owner := true })) with
  ev := { core := 0 }
  formes := (slugIs (fun m => { m with owner := true })).formes.upd 0 (fun f => { f with
    mq := [e], tiles := [(1, tileWord 0 8 48 0), (2, tileWord 2 8 48 0), (4, tileWord 4 8 48 1)], scratch := [(0x400, 0x38), (0x700, 0x38)] })
  launches := (active base).launches.upd 0 (fun l => { l with words := l.words
    ++ [(16, 17#29 ++ 0#3 ++ 1#1 ++ 0#9 ++ 1#11 ++ 0#11), (17, 5#29 ++ 0#3 ++ 1#1 ++ 0#9 ++ 1#11 ++ 1#11)] }) }

def entryOf (opc : Nat) (x : Word) : MqEntry := { opc := opc, tile := 1, tile2 := 2, x := x, mod := 3#2 ++ 0#18 }

theorem head_of {s : State} {e : MqEntry} {r : List MqEntry} (h : s.nextHead s.ev.core = some (0, e) ∧ (s.forme 0).mq = e :: r ∧ e.done = 0
    ∧ e.tag = none ∧ e.part = none) : s.Head 0 e r := ⟨h.1, h.2.1, h.2.2⟩

/-- Nothing queued, a part under way and a follow-on landed. -/
def pending : State := { eng {} with
  formes := (eng {}).formes.upd 0 (fun f => { f with mq := [], transit := [{ opc := 0x129, issuer := 5 }], follow := [default] }) }

theorem witness_EngineQueues :
    (∀ n ∈ [0, 8], ∀ o ∈ [true, false], ∀ tx ∈ [true, false], ∀ p ∈ [0, 1], ∀ s : State, s = { copying 0 o tx with
        formes := (copying 0 o tx).formes.upd 0 (fun f => { f with mq := List.replicate n default, pidx := p, pw := 2 }) } →
      s.ctx hd = some (cx s) ∧ (cx s).act ≠ 0 ∧ (cx s).m.owner = o ∧ (cx s).m.tx.isSome = tx ∧ (cx s).f.mq.length = n ∧ (cx s).f.pidx = p
        ∧ (cx s).f.follow = [] ∧ (s.core (cx s).core).copies = [])
    ∧ ({ copying 0 true false with formes := (copying 0 true false).formes.upd 0 (fun f => { f with follow := [default] }) } : State).ctx hd ≠ none
    ∧ (∀ s : State, s = pending →
        (s.forme s.ev.forme).transit = [{ opc := 0x129, issuer := 5 }] ∧ (s.forme s.ev.forme).follow = [default]
        ∧ (s.forme s.ev.forme).mq.length < 8
        ∧ (s.forme s.ev.forme).slugs.find? (fun m => m.2.owner) = some (0, s.slug 0 0))
    ∧ (∀ h ∈ ([none, some entered] : List (Option Handling)), ∀ s : State,
        s = (eng { id := 3, opc := 0x121, stop := some (9, 0, 0, 4) }).modSlug 0 0 (fun m => { m with hnd := h }) →
        s.stoppedOf s.ev.forme s.ev.slug = some (0, { id := 3, opc := 0x121, stop := some (9, 0, 0, 4) }) ∧ s.formes.wf = true
        ∧ s.Undisturbed ∧ s.NoPartials ∧ s.held = [] ∧ (s.slug 0 0).hnd = h ∧ (s.slug 0 0).tx = none ∧ (s.slug 0 0).gathering = none
        ∧ (s.slug 0 0).live = true ∧ (s.slug 0 0).failed = false ∧ entered.mq ≠ 3) := by
  refine ⟨fun n hn o ho tx ht p hp s hs => ?_, by decide +kernel, fun s hs => ?_, fun h hh s hs => ?_⟩
  · subst hs; revert n o tx p; decide +kernel
  · subst hs; decide +kernel
  · subst hs
    refine ⟨by revert h; decide +kernel, by revert h; decide +kernel, quiet_of _ (by revert h; decide +kernel), noPartials_of _ (by revert h; decide +kernel),
      ?_⟩
    revert h; decide +kernel

/-- A slice word's operands: tile 1, slice `g0 + 0`. -/
def sm : SliceMod := { col := false, idx := 0, off := 0, tile := 1 }

theorem witness_TileSlices :
    (∀ t ∈ [1, 2], (eng { entryOf 0x121 0 with tile := t, tile2 := 2, issuer := 0 }).ctx hd = some (cx (eng { entryOf 0x121 0 with tile := t }))
      ∧ (eng { entryOf 0x121 0 with tile := t }).tileBusy (cx (eng { entryOf 0x121 0 with tile := t })) sm.tile.toNat = decide (t = 1))
    ∧ (cx (eng (entryOf 0x121 0))).m.tx = none ∧ (cx (eng (entryOf 0x121 0))).act ≠ 0
    ∧ (eng (entryOf 0x121 0)).pinBlocks (cx (eng (entryOf 0x121 0))) 3 ((cx (eng (entryOf 0x121 0))).f.layout 1) = false
    ∧ slicePos ((cx (eng (entryOf 0x121 0))).f.layout 1) false 0 31 0 = (0, 31) ∧ slicePos ((cx (eng (entryOf 0x121 0))).f.layout 1) false 1 16 0 = (0, 48)
    ∧ (∃ x, (cx (open' x)).m.tx ≠ none) := by
  refine ⟨?_, ?_, ?_, ?_, ?_, ?_, [lvl none], ?_⟩ <;> decide +kernel

/-- A row that the engine reads. -/
def rowRead (s : State) (k : Nat) (b : Bool) (fmt a n : Nat) : Row :=
  match (s.engReadRow (s.engine 0) ⟨true, k⟩ b fmt 0 a n).2 with
  | .ok r => r
  | .error _ => {}

theorem row_of {s u : State} (h : s.AccOnly u 0) {k : Nat} {b : Bool} {fmt a n : Nat}
    (ok : (s.engReadRow (s.engine 0) ⟨true, k⟩ b fmt 0 a n).2.toBool = true) :
    u.engReadRow (s.engine 0) ⟨true, k⟩ b fmt 0 a n = (u, .ok (rowRead s k b fmt a n)) := by
  obtain ⟨r, h1, h2⟩ := same_row h (s.engine 0) k b fmt 0 a n
  rw [h2, rowRead, h1]
  rw [h1] at ok
  cases r with
  | error e => cases ok
  | ok x => rfl

/-- `MMA` of an 8 by 48 tile over F32 rows of 48 elements, from offsets 0x5000 and 0x8000; with a stride too short; in E4M3 by F32. -/
def product : MqEntry := { entryOf 0x126 (shape 24 24 0 3 1 true) with a := 0x5000, b := 0x8000 }
def plain : Region := { fmt := 0, geo := 0, base := 0, size := 0 }
def fp8 : Region := { fmt := 5, geo := 0, base := 0x400, size := 0x400 }
def mx : Region := { fmt := 17, geo := 0, base := 0, size := 0x400 }

theorem witness_EngineProducts :
    (∀ e ∈ [product, { product with tile := 3 }, { product with a := 0x400 }, { product with x := shape 0 24 0 3 1 true },
        { product with x := shape 24 0 0 3 1 true }], (eng e).Head 0 e [] ∧ e.sel ≤ 2 ∧ e.rm ≠ .sr)
    ∧ (((eng product).forme 0).layout 1).valid = true ∧ (((eng product).forme 0).layout 1).rows = 8 ∧ (((eng product).forme 0).layout 1).cols = 48
    ∧ (((eng product).forme 0).layout 3).valid = false
    ∧ (∀ e ∈ [product, { product with x := shape 0 24 0 3 1 true }, { product with x := shape 24 0 0 3 1 true }],
        (eng e).engRegion ((eng e).engine 0) ⟨true, 1⟩ 0x5000 = (eng e, .ok plain)
        ∧ (eng e).engRegion ((eng e).engine 0) ⟨true, 2⟩ 0x8000 = (eng e, .ok plain))
    ∧ PairListed 0 0 0 0 0 ∧ isScaled 0 = false ∧ ¬ PairListed 5 0 0 0 0
    ∧ (eng { product with a := 0x400 }).engRegion ((eng product).engine 0) ⟨true, 1⟩ 0x400 = (eng { product with a := 0x400 }, .ok fp8)
    ∧ rowBytes 0 48 = 8 * (24#19).toNat
    ∧ (∀ u r, (eng product).AccOnly u 0 → r < 8 → u.engReadRow ((eng product).engine 0) ⟨true, 1⟩ true 0 0 ((0x5000 + r * 192) % 2 ^ 64) 48
        = (u, .ok (rowRead (eng product) 1 true 0 ((0x5000 + r * 192) % 2 ^ 64) 48)))
    ∧ (∀ k, k < 48 → (eng product).engReadRow ((eng product).engine 0) ⟨true, 2⟩ true 0 0 ((0x8000 + k * 192) % 2 ^ 64) 48
        = (eng product, .ok (rowRead (eng product) 2 true 0 ((0x8000 + k * 192) % 2 ^ 64) 48)))
    ∧ (∀ o n, (o, n) ∈ [(0, 48), (8, 48), (0, 960)] → (eng product).InWindow 0 o (rowBytes 17 n) 0 o
        ∧ (∀ i, i < rowBytes 17 n → ((eng product).launch ((eng product).forme 0).launch).segAt (o + i) = mx))
    ∧ mx.base + mx.size ≤ (eng product).spadSize 0 := by
  refine ⟨fun e he => ⟨head_of (by revert e; decide +kernel), by revert e; decide +kernel⟩, by decide +kernel, by decide +kernel, by decide +kernel,
    by decide +kernel, by decide +kernel, by unfold PairListed; decide, by decide, by unfold PairListed; decide, by decide +kernel, by decide +kernel,
    ?_, ?_, ?_, by decide +kernel⟩
  · intro u r h hr
    refine row_of h ?_
    have : ∀ r, r < 8 → ((eng product).engReadRow ((eng product).engine 0) ⟨true, 1⟩ true 0 0 ((0x5000 + r * 192) % 2 ^ 64) 48).2.toBool = true := by
      decide +kernel
    exact this r hr
  · intro k hk
    refine row_of (AccOnly_refl _ _) ?_
    have : ∀ k, k < 48 → ((eng product).engReadRow ((eng product).engine 0) ⟨true, 2⟩ true 0 0 ((0x8000 + k * 192) % 2 ^ 64) 48).2.toBool = true := by
      decide +kernel
    exact this k hk
  · unfold State.InWindow
    intro o n h
    simp only [List.mem_cons, List.not_mem_nil, or_false, Prod.mk.injEq] at h
    rcases h with ⟨rfl, rfl⟩ | ⟨rfl, rfl⟩ | ⟨rfl, rfl⟩ <;> decide +kernel

theorem witness_EngineTileArithmetic :
    (∀ opc ∈ [0x120, 0x121, 0x12E, 0x12C, 0x12D, 0x12F], ∀ t ∈ [1, 3, 4], ∀ e : MqEntry, e = { entryOf opc 0 with tile := t, a := 0x3F800000 } →
      (eng e).Head 0 e [] ∧ e.rm ≠ .sr ∧ (((eng e).forme 0).layout e.tile).valid = decide (t ≠ 3)
      ∧ (t ≠ 3 → (((eng e).forme 0).layout t).rows = 8 ∧ (((eng e).forme 0).layout e.tile2).rows = 8 ∧ (((eng e).forme 0).layout e.tile2).valid = true)
      ∧ (t = 4 → (((eng e).forme 0).layout t).af ≠ (((eng e).forme 0).layout e.tile2).af)
      ∧ (t = 1 → (((eng e).forme 0).layout t).af = (((eng e).forme 0).layout e.tile2).af)
      ∧ (((eng e).forme 0).tileVal (((eng e).forme 0).layout 2) 0 0).rat = some 0 ∧ FFmt.f32.rat (e.a.toNat % 2 ^ 32) = some 1)
    ∧ (∀ k ∈ [0, 4], ∀ a, ¬ ((tileWord k 8 48 0).at 0 0 ≤ a ∧ a < (tileWord k 8 48 0).at 0 0 + 8 * 48 * 4
        ∧ (tileWord 2 8 48 0).at 0 0 ≤ a ∧ a < (tileWord 2 8 48 0).at 0 0 + 8 * 48 * 4)) := by
  refine ⟨fun opc ho t ht e he => ?_, ?_⟩
  · subst he
    refine ⟨head_of (by revert opc t; decide +kernel), ?_⟩
    revert opc t; decide +kernel
  · have h1 : (tileWord 0 8 48 0).at 0 0 = 0 := by decide +kernel
    have h2 : (tileWord 4 8 48 0).at 0 0 = 4096 := by decide +kernel
    have h3 : (tileWord 2 8 48 0).at 0 0 = 2048 := by decide +kernel
    intro k hk a
    simp only [List.mem_cons, List.not_mem_nil, or_false] at hk
    rcases hk with rfl | rfl
    · rw [h1, h3]; omega
    · rw [h2, h3]; omega

/-- Tile moves of 8 rows of 48 elements: from and to the E4M3 segment, with scales to the MX segment; the largest magnitude to `g3`. -/
def move (opc : Nat) (a : Word) : MqEntry := { entryOf opc (shape 6 0 0 3 0 false) with a := a, b := a, mod := 3#2 ++ 0#18 }
def greatest : MqEntry := { entryOf 0x12F 0 with tile2 := 3 }

theorem witness_EngineTileMoves :
    (∀ e ∈ [move 0x124 0x400, move 0x125 0x400, move 0x130 0, greatest], (eng e).Head 0 e [] ∧ e.rm ≠ .sr ∧ (eng e).Undisturbed)
    ∧ (∀ x, (x = (move 0x124 0x400, 1, fp8) ∨ x = (move 0x125 0x400, 4, fp8) ∨ x = (move 0x130 0, 4, mx)) →
        (eng x.1).engRegion ((eng x.1).engine 0) ⟨true, x.2.1⟩ x.1.a.toNat = (eng x.1, .ok x.2.2)
        ∧ (((eng x.1).forme 0).layout 1).valid = true ∧ (((eng x.1).forme 0).layout 1).rows = 8 ∧ (((eng x.1).forme 0).layout 1).cols = 48
        ∧ rowBytes x.2.2.fmt 48 ≤ 48)
    ∧ (∀ u r, (eng (move 0x124 0x400)).AccOnly u 0 → r < 8 →
        u.engReadRow ((eng (move 0x124 0x400)).engine 0) ⟨true, 1⟩ false 5 0 ((0x400 + r * 48) % 2 ^ 64) 48
          = (u, .ok (rowRead (eng (move 0x124 0x400)) 1 false 5 ((0x400 + r * 48) % 2 ^ 64) 48)))
    ∧ (∀ x, (x = (move 0x125 0x400, fp8) ∨ x = (move 0x130 0, mx)) →
        (eng x.1).InWindow 0 x.1.b.toNat (8 * 48) 0 x.1.b.toNat ∧ x.2 = { x.2 with base := x.1.b.toNat - x.1.b.toNat + x.2.base }
        ∧ x.2.base ≤ x.1.b.toNat ∧ x.1.b.toNat + 8 * 48 ≤ x.2.base + x.2.size ∧ x.2.base + x.2.size ≤ (eng x.1).spadSize 0
        ∧ (∀ i, i < x.2.size → ((eng x.1).launch ((eng x.1).forme 0).launch).segAt (x.2.base + i) = x.2))
    ∧ (∀ r, r < 8 → (0x400 + r * 48 - fp8.base) % 8 = 0)
    ∧ (∀ r, r < 8 → (0 + r * 48 - mx.base) % (48 * 8 / 8) = 0 ∧ 8 * (0 + r * 48 - mx.base) + 48 * 8 ≤ 7 * mx.size
        ∧ mx.base + 7 * mx.size / 8 + 2 * ((0 + r * 48 - mx.base) / (48 * 8 / 8) + 1) ≤ mx.base + mx.size)
    ∧ (∀ s : State, s = eng greatest ∨ s = { eng greatest with formes := (eng greatest).formes.upd 0 (fun f => { f with acc := [(2, 0xC0), (3, 0x7F)] }) } →
        s.Head 0 greatest [] ∧ s.pinHolds greatest.issuer greatest.slug 3 (BitVec.ofNat 64 ((s.forme 0).tileMax ((s.forme 0).layout 1))) = false)
    ∧ (∀ r, r < 8 → ∀ k, k < 48 → (((eng greatest).forme 0).tileVal (((eng greatest).forme 0).layout 1) r k).rat = some 0)
    ∧ (FVal.decode .f32 0x7FC00000).isNan = true
    ∧ (∀ x ∈ [FVal.fin true 3 0], ∃ y, x.rat = some y ∧ |y| ≤ 3) ∧ (∃ x ∈ [FVal.fin true 3 0], ∃ y, x.rat = some y ∧ |y| = 3)
    ∧ quantFmt 17 = true ∧ quantFmt 23 = true ∧ (FVal.fin false 1 0).rat = some 1 ∧ (FVal.fin false 0 0).rat = some 0
    ∧ |(1 : ℚ) / 1| ≤ (fmtTy 17).ffmt.greatest ∧ RoundsToInt .rne (1 / (1 / 64)) 64 := by
  have hg : (1 : ℚ) ≤ (fmtTy 17).ffmt.greatest := by decide +kernel
  refine ⟨fun e he => ⟨head_of (by revert e; decide +kernel), by revert e; decide +kernel, quiet_of _ (by revert e; decide +kernel)⟩, ?_, ?_, ?_, by decide,
    by decide, ?_, by decide +kernel, by decide +kernel, ?_, ?_, by decide, by decide, by norm_num [FVal.rat], by norm_num [FVal.rat], by norm_num; exact hg, ?_⟩
  · rintro x (rfl | rfl | rfl) <;> decide +kernel
  · intro u r h hr
    refine row_of h ?_
    have : ∀ r, r < 8 → ((eng (move 0x124 0x400)).engReadRow ((eng (move 0x124 0x400)).engine 0) ⟨true, 1⟩ false 5 0
        ((0x400 + r * 48) % 2 ^ 64) 48).2.toBool = true := by decide +kernel
    exact this r hr
  · unfold State.InWindow
    rintro x (rfl | rfl) <;> decide +kernel
  · rintro s (rfl | rfl) <;> exact ⟨head_of (by decide +kernel), by decide +kernel⟩
  · intro x hx
    simp only [List.mem_cons, List.not_mem_nil, or_false] at hx
    subst hx
    exact ⟨-3, by norm_num [FVal.rat], by norm_num⟩
  · exact ⟨.fin true 3 0, by simp, -3, by norm_num [FVal.rat], by norm_num⟩
  · norm_num [RoundsToInt]

/-! ### Registers of the functions, host queues, packets, mailbox -/

/-- A write of a register of partition 0's function, its interface in a state. -/
def host (td : Tdisp) (tenant : Bool) (idx : Nat) (v : Nat) : State := { tables with
  ev := { part := 0, index := idx, value := BitVec.ofNat 64 v, tenant := tenant, size := 2 }
  parts := tables.parts.upd 0 (fun q => { q with exist := true, tdisp := td, worlds := 8, launches := 4, queuesHeld := 128
                                                 tt := [(1, { en := true, period := 10000 })] }) }

theorem witness_FunctionRegisters :
    (∀ td ∈ ([.unlocked, .locked, .run, .error] : List Tdisp), ∀ tn ∈ [true, false], ∀ i ∈ [0, 1, 4, 5, 127, 0x4000, 0x403F, 0x8000, 0x8FFF],
      ∀ v ∈ [0, 12, 1, 0x300000, 0x8000000000002710],
        ((host td tn i v).part (host td tn i v).ev.part).exist = true ∧ ((host td tn i v).part 0).tdisp = td ∧ (host td tn i v).ev.tenant = tn
        ∧ ((host td tn i v).part 0).msixPending = 0 ∧ (((host td tn i v).part 0).tt.look (i / 4)).en = decide (i / 4 = 1)
        ∧ (host td tn i v).shows 0 3 = true ∧ (i < 128 → i < ((host td tn i v).part 0).queuesHeld) ∧ ((host td tn i v).part 0).mboxBusy = none)
    ∧ ((host .unlocked true 4 0).modPart 0 (fun q => { q with masks := q.masks.put 2 0xFFFFFFFFFFFFFFFF })).shows 0 3 = false
    ∧ (((host .locked false 0 0).modPart 0 (fun q => { q with mboxBusy := some 0 })).part 0).mboxBusy ≠ none
    ∧ (State.reset.part State.reset.ev.part).exist = false
    ∧ templateOk 0x300000 = true ∧ templateOk 1 = false ∧ (10 ≤ (12 : Word).toNat ∧ (12 : Word).toNat ≤ 10000) ∧ ¬ 10 ≤ (1 : Word).toNat
    ∧ (1 ≤ 1 ∧ (0x100 : Word).extractLsb' 11 21 = 0 ∧ (((host .unlocked true 1 0x100).worlds.put 1 { mflr := 0x100 }).map (fun e => e.2.mflr.toNat)).sum ≤ 1024)
    ∧ (0x800 : Word).extractLsb' 11 21 ≠ 0 := by
  decide +kernel

/-- Partition 0 has the one queue 2. -/
def withQueue (k : HostQueue) (v : Nat) : State := { tables with
  ev := { part := 0, index := 2, value := BitVec.ofNat 64 v }
  parts := tables.parts.upd 0 (fun q => { q with exist := true, launches := 4, queuesHeld := 8, queues := [(2, k)] }) }

/-- Queues that are off, idle at 3 over the first page, and with a packet at the head. -/
def off' : HostQueue := {}
def idle : HostQueue := { en := true, st := 1, log2n := 4, qwr := 3, qrd := 3 }
def held (ws : List Word) : HostQueue := { idle with st := 3, head := some { words := ws } }

theorem queue_noPartials (k : HostQueue) (v : Nat) : (withQueue k v).NoPartials := noPartials_of tables (by decide +kernel)

theorem fwMapped_of {s : State} {p va n pa : Nat} {need : Need}
    (h : (s.translate none p va n need).2 = .ok (pa, { lo := 0x40003, hi := 0x300000, level := 0, part := 0, base := 0 })) : s.FwMapped p va n need pa :=
  ⟨_, h, by decide⟩

theorem witness_HostQueueRegisters :
    (∀ k ∈ [off', { off' with st := 5 }, idle], ∀ v ∈ [0, 3, 0x80000004, 4, 0x24, 5, 0x100000000, 0x40, 20],
      ((withQueue k v).part (withQueue k v).ev.part).exist = true ∧ ((withQueue k v).part 0).tdisp = .unlocked ∧ (withQueue k v).queue 0 2 = k
      ∧ (withQueue k v).ev.index = 2 ∧ 2 < ((withQueue k v).part 0).queuesHeld)
    ∧ ((withQueue { idle with st := 3 } 3).queue 0 2).st = 3 ∧ ((withQueue idle 0).modPart 0 (fun q => { q with queuesHeld := 2 })).part 0 ≠ {}
    ∧ (((withQueue idle 0).modPart 0 (fun q => { q with queuesHeld := 2 })).part 0).queuesHeld ≤ 2
    ∧ ((0x24 : Word).extractLsb' 0 6 ≠ 0 ∧ (0x40 : Word).extractLsb' 0 6 = 0 ∧ (0x40 : Word).extractLsb' 54 10 = 0)
    ∧ ((0x24 : Word).extractLsb' 5 15 ≠ 0 ∧ (3 : Word).extractLsb' 5 15 = 0 ∧ ¬ 4 ≤ ((3 : Word).extractLsb' 0 5).toNat
      ∧ 4 ≤ ((0x80000004 : Word).extractLsb' 0 5).toNat ∧ (0x80000004 : Word).getLsbD 31 = true ∧ (4 : Word).getLsbD 31 = false)
    ∧ ((0x100000000 : Word).extractLsb' 32 32 ≠ 0 ∧ 2 ^ 4 < ((20 : Word).extractLsb' 0 32 - idle.qrd).toNat ∧ (3 : Word).extractLsb' 0 32 = idle.qrd
      ∧ (5 : Word).extractLsb' 0 32 ≠ idle.qrd ∧ ((5 : Word).extractLsb' 0 32 - idle.qrd).toNat ≤ 2 ^ 4)
    ∧ (∀ k v, (withQueue k v).NoPartials)
    ∧ (withQueue idle 5).FwMapped 0 ((idle.qbase.toNat + idle.qrd.toNat % 2 ^ idle.log2n.toNat) * 64) 64 .read 0x400C0
    ∧ ({ words := List.replicate 8 0 } : Packet).malformed = none ∧ (∃ e, ({ words := [9, 0, 0, 0, 0, 0, 0, 0] } : Packet).malformed = some e) := by
  refine ⟨?_, ?_, ?_, ?_, ?_, ?_, ?_, queue_noPartials, fwMapped_of (by decide +kernel), ?_, ?_⟩
  rotate_right
  · exact ⟨(({ words := [9, 0, 0, 0, 0, 0, 0, 0] } : Packet).malformed).getD 0, by decide +kernel⟩
  all_goals decide +kernel

/-- Packets: NOP and COPY with a signal at 8 where named, LAUNCH, BARRIER on one signal, SIGNAL and TIMED. -/
def nopP : List Word := [0, 8, 0, 0, 0, 0, 0, 0]
def copyP : List Word := [2, 8, 0x10, 0x20, 8, 0, 0, 0]
def launchP : List Word := [1, 0, 0x40, 0, 0, 0, 0, 0]
def barrierP : List Word := [3, 8, 0x10, 0, 0, 0, 0, 1]
def signalP (op : Word) : List Word := [4, 0, 0x10, 7, op, 0, 0, 0]
def timedP : List Word := [5, 8, 100, 0, 0, 0, 0, 0]

/-- The queue waits for a packet at a time, the signal at 0x10 holding a number. -/
def waiting (ws : List Word) (x : Nat) (t : Nat) : State :=
  let s := withQueue { idle with st := 4, running := [{ words := ws, id := 7 }] } 0
  { s with cyc := t, ptpNow := t, ev := { s.ev with size := 7 }, dram := s.dram ++ ((List.range 8).map (fun i => (0x40010 + i, BitVec.ofNat 8 (x / 256 ^ i)))) }

theorem waits_of {s : State} {x : Packet} (h : (s.part 0).queues = [(2, { idle with st := 4, running := [x] })]
    ∧ (x.detached = false ∧ x.irq = false ∧ x.type ≠ 1 ∧ x.read = 0 ∧ x.low = false ∧ x.high = false ∧ x.first = false) ∧ (s.txs = [] ∧ s.formes = [(0, s.forme 0)] ∧ (s.forme 0).slugs = [(0, s.slug 0 0)]
      ∧ (s.slug 0 0).wake = none) ∧ (s.cores = [(0, s.core 0)] ∧ (s.core 0).partials = []) ∧ s.held = []
    ∧ (s.ev.part = 0 ∧ s.ev.index = 2 ∧ s.ev.size = x.id)) : s.QueueWaits 0 2 { idle with st := 4, running := [x] } x :=
  ⟨h.1, ⟨rfl, rfl, rfl, rfl, rfl⟩, h.2.1, ⟨quiet_of s h.2.2.1, noPartials_of s h.2.2.2.1, h.2.2.2.2.1⟩, h.2.2.2.2.2⟩

theorem witness_PacketsStartAndEnd :
    (∀ ws ∈ [nopP, copyP, launchP, barrierP, signalP 0, signalP 1, signalP 2, timedP], ∃ s : State, s = withQueue (held ws) 0 ∧ (s.part 0).queues = [(2, held ws)]
      ∧ (held ws).head = some { words := ws } ∧ (s.part 0).tdisp ≠ .error ∧ s.power = .on ∧ s.Calm ∧ s.activeCount 0 < s.launchLimit 0
      ∧ s.ptpNow < 100 ∧ s.pickQueue 0 ≠ none ∧ ({ words := ws } : Packet).irq = false ∧ ({ words := ws } : Packet).ah = false)
    ∧ (∀ op ∈ [0, 1, 2], (withQueue (held (signalP (BitVec.ofNat 64 op))) 0).FwMapped 0 0x10 8 .write 0x40010)
    ∧ (∀ ws ∈ [barrierP, timedP], ∀ x ∈ [0, 0xFFFFFFFFFFFFFFFF, 1], ∀ t ∈ [0, 1600],
        (waiting ws x t).QueueWaits 0 2 { idle with st := 4, running := [{ words := ws, id := 7 }] } { words := ws, id := 7 }
        ∧ (waiting ws x t).FwMapped 0 0x10 8 .read 0x40010 ∧ (waiting ws x t).FwMapped 0 8 8 .write 0x40008
        ∧ (waiting ws x t).numberAt 0x40010 8 = x ∧ (waiting ws x t).cyc = t ∧ (waiting ws x t).ptpNow = t ∧ (waiting ws x t).ev.flag = true)
    ∧ (∀ f, ({ waiting barrierP 1 0 with ev := { part := 0, index := 2, size := 7, flag := f } } : State).QueueWaits 0 2
          { idle with st := 4, running := [{ words := barrierP, id := 7 }] } { words := barrierP, id := 7 })
    ∧ (∀ i, 2 ≤ i → i ≤ 6 → ({ words := barrierP } : Packet).word i ≠ 0 → ({ words := barrierP } : Packet).word i = 0x10) := by
  refine ⟨fun ws hw => ⟨_, rfl, ?_, rfl, by revert ws; decide +kernel, by revert ws; decide +kernel, ⟨?_, queue_noPartials _ _, by revert ws; decide +kernel⟩, ?_⟩,
    fun op h => fwMapped_of (by revert op; decide +kernel), fun ws hw x hx t ht => ⟨waits_of (by revert ws x t; decide +kernel), fwMapped_of (by revert ws x t; decide +kernel),
    fwMapped_of (by revert ws x t; decide +kernel), ?_⟩, fun f => waits_of (by revert f; decide +kernel), ?_⟩
  · revert ws; decide +kernel
  · exact quiet_of _ (by revert ws; decide +kernel)
  · revert ws; decide +kernel
  · revert ws x t; decide +kernel
  · intro i h1 h2
    interval_cases i <;> decide

/-- A request of partition 0, taken and forwarded or yet to be taken. -/
def mbox (busy : Option Nat) (ws : List Word) (cyc : Nat) (ww : List (Nat × World)) : State :=
  let s := host .unlocked true 0 0
  { s with cyc := cyc, worlds := ww, roots := [(0, some 0)],
           parts := s.parts.upd 0 (fun q => { q with mboxBusy := busy, mboxTaken := (List.range 8).zip (ws ++ List.replicate 5 0) }) }

/-- Every root entry granted. -/
def allRoots : Sparse (Option Nat) := (List.range 512).map (fun i => (i, some 0))

theorem allRoots_granted (n : Nat) (h : n < 512) : allRoots.look n ≠ none := by
  have k : ∀ l : List Nat, n ∈ l → (Sparse.look (l.map (fun i => (i, some 0))) n : Option Nat) ≠ none := by
    intro l
    induction l with
    | nil => intro h; cases h
    | cons a r ih =>
      intro h
      rw [List.map_cons, Sparse.look_cons]
      split
      · simp
      · rename_i hne
        rcases List.mem_cons.mp h with rfl | h
        · exact absurd rfl hne
        · exact ih h
  exact k _ (List.mem_range.mpr h)

theorem witness_MailboxRequests :
    (∀ b ∈ [none, some 0], ∀ c ∈ [0, 1600000000], ∀ ws ∈ ([[0x0000000000000000, 0, 0], [0x0900000000000000, 0, 0], [0x0100000000000001, 0, 0],
        [0x0100000000000000, 0, 0], [0x0200000000000000, 3, 0], [0x0200000000000000, 4, 0], [0x0300000000000000, 0, 0], [0x0700000000000000, 5, 6]] : List (List Word)),
      ((mbox b ws c [(3, { part := some 0 })]).part (mbox b ws c [(3, { part := some 0 })]).ev.part).exist = true
      ∧ ((mbox b ws c [(3, { part := some 0 })]).part 0).tdisp = .unlocked
      ∧ ((mbox b ws c [(3, { part := some 0 })]).part 0).mboxBusy = b ∧ (mbox b ws c [(3, { part := some 0 })]).cyc = c
      ∧ ((mbox b ws c [(3, { part := some 0 })]).part 0).mboxTaken.look 0 = ws.getD 0 0
      ∧ (mbox b ws c [(3, { part := some 0 })]).serveWaits 0 = false)
    ∧ ({ mbox (some 0) [0x0500000000000000, 0, 0] 0 [] with held := [{ line := { line := 0x800 }, addr := 0x40000 }] } : State).serveWaits 0 = true
    ∧ (((mbox (some 0) [0x0100000000000000, 0, 0] 0 []).modPart 0 (fun q => { q with tdisp := .error, mboxTenant := true })).part 0).tdisp = .error
    ∧ (((mbox (some 0) [0x0100000000000000, 0, 0] 0 []).modPart 0 (fun q => { q with tdisp := .error, mboxTenant := true })).part 0).mboxTenant = true
    ∧ ((mbox (some 0) [0x0100000000000000, 0, 0] 0 []).modPart 0 (fun q => { q with tdisp := .error, mboxTenant := true })).serveWaits 0 = false
    ∧ ((mbox none [] 0 [(3, { part := some 0 })]).worldsOf 0).length < ((mbox none [] 0 []).part 0).worlds
    ∧ ((mbox none [] 0 []).part 0).worlds ≤ ((mbox none [] 0 ((List.range 8).map (fun i => (i + 1, { part := some 0 })))).worldsOf 0).length
    ∧ (mbox none [] 0 [(3, { part := some 0 })]).worldFree 1 = true
    ∧ ((mbox none [] 0 [(3, { part := some 0 })]).worlds.look 3).part = some 0 ∧ (mbox none [] 0 [(3, { part := some 0 })]).worldBusy 3 = false
    ∧ ((mbox none [] 0 [(3, { part := some 0 })]).worlds.look 4).part ≠ some 0
    ∧ (mbox none [] 0 []).roots.look 1 = none ∧ (∀ m, m < 1 → (mbox none [] 0 []).roots.look m ≠ none)
    ∧ (∀ n, n < 512 → allRoots.look n ≠ none)
    ∧ ((mbox none [] 0 []).part 0).peers.length < 64 := by
  refine ⟨?_, ?_, ?_, ?_, ?_, ?_, ?_, ?_, ?_, ?_, ?_, ?_, ?_, allRoots_granted, ?_⟩ <;> decide +kernel

/-! ### Launches, placement, pre-emption, gatherings -/

/-- A launch record: one slug in one forme, world 1, a galley of 16 entries that the partition does not own; words 1, 8 and 16 and the world as given. -/
def record (w1 lvl0 seg world : Word) : Sparse Word :=
  [(1, 2 ^ 50 ||| w1), (4, 2 ^ 56 + 2 ^ 45), (6, 10 * 2 ^ 54), (7, world), (8, lvl0), (9, 2 ^ 32 + 2 ^ 23 + 2 ^ 16), (10, 2 ^ 32 + 2 ^ 23 + 2 ^ 16)]
    ++ if seg = 0 then [] else [(16, seg)]

/-- The level 0 of every launch. -/
def lvl0 : Word := 32 * 2 ^ 32 + 2 ^ 23 + 2 ^ 16

/-- One block that begins at word 0, of which nothing is said. -/
def blob1 : List Byte := [0, 0, 0, 0, 0, 0, 1, 0, 0, 0, 0, 0, 0, 0, 0, 0]

/-- Its digest with an empty gate record. -/
def digest1 : Nat := 99918794622448335096007495027699953119111209664160281645731952258832389112369

/-- Launch 16384 under check, from the slug; the object's header at 0x100 names the object that the table holds at 1, whose chunk has its verdict. -/
def checking (ws : Sparse Word) : State := { tables with
  ev := { index := 16384 }
  dram := ((tables.dram.put 0x40104 1).put 0x40107 3).put 0x40120 5
  launches := tables.launches ++ [(16384, { st := .checking, origin := .device 0 0 3 false 0 1, words := (0, 0x100) :: ws, parentWorld := 1, recAddr := 64 })]
  worlds := [(1, { part := some 0 })]
  parts := tables.parts.upd 0 (fun q => { q with exist := true, launches := 4, storeFrames := [5]
                                                 verdicts := [{ chunk := 7, digest := digest1, s := 1, gt := 1 }]
                                                 objs := q.objs.put 1 { used := true, root := 5, chunks := [7], blobs := [blob1], gate := [] }
                                                 chunks := q.chunks.put 7 { words := [full 0x02B 0 0 0 0], isSealed := true } }) }

def goodRec : Sparse Word := record 0 lvl0 0 1
/-- The launch under check, and what its checks answer. -/
def lc (s : State) : Launch := s.launch 16384
def ckd (s : State) : Ck Loaded := (s.modLaunch 16384 (fun _ => lc s)).checkLaunch (lc s)


theorem checked_ok {s : State} (h : (match ckd s with
      | (u, .ok _) => decide (u.launch 16384 = lc s) && decide (u.freeLaunch 0 < 16384)
      | _ => false) = true) :
    ∃ u x, (s.modLaunch 16384 (fun _ => lc s)).checkLaunch (lc s) = (u, .ok x) ∧ u.launch 16384 = lc s ∧ u.freeLaunch 0 < 16384 := by
  have hc : ckd s = ((ckd s).1, (ckd s).2) := rfl
  cases hr : (ckd s).2 with
  | error e => rw [hc, hr] at h; exact absurd h (by simp)
  | ok x =>
    rw [hr] at hc
    rw [hc] at h
    simp only [Bool.and_eq_true, decide_eq_true_eq] at h
    exact ⟨_, x, hc, h⟩

/-- Launch 0 in a state, with so many formes ended, a message of it on a link or not. -/
def ending (st : LaunchSt) (n : Nat) (msg : Bool) : State := { tables with
  ev := { index := 0 }
  launches := tables.launches.upd 0 (fun l => { l with st := st, next := 1, ended := n })
  clusters := if msg then [(0, { toLeaf := [{ type := 3, launch := 0, formes := [(0, 0)] }] })] else [] }

theorem ending_calm (st : LaunchSt) (n : Nat) (m : Bool) : (ending st n m).Calm ∧ ∀ c, (ending st n m).CoreClean c := by
  have hq : tables.Undisturbed := quiet_of tables (by decide +kernel)
  have hp : tables.NoPartials := noPartials_of tables (by decide +kernel)
  have hc : ∀ c, tables.CoreClean c := clean_of tables (by decide +kernel)
  exact ⟨⟨⟨hq.1, hq.2⟩, hp, rfl⟩, hc⟩

/-- Entry 1 of partition 0's time-triggered table. -/
def timed (e : TtEntry) (now : Nat) : State :=
  let s := host .unlocked true 1 0
  { s with ptpNow := now, parts := s.parts.upd 0 (fun q => { q with tt := [(1, e)] }) }

theorem witness_LaunchesAreCheckedAndEnd :
    (∀ ws ∈ [goodRec, record (2 ^ 54) lvl0 0 1, record 0 (lvl0 + 512) 0 1, record 0 lvl0 1 1, record 0 lvl0 0 2],
      (checking ws).ev.index = 16384 ∧ (lc (checking ws)).st = .checking ∧ (lc (checking ws)).origin = .device 0 0 3 false 0 1
      ∧ (lc (checking ws)).recAddr % 64 = 0 ∧ (checking ws).rootPart (lc (checking ws)).galley ≠ some (lc (checking ws)).part
      ∧ (lc (checking ws)).signal = 0 ∧ ((checking ws).part (lc (checking ws)).part).queues = []
      ∧ (checking ws).launchesFull (lc (checking ws)).part = false ∧ (lc (checking ws)).far = false ∧ (checking ws).launches.wf = true
      ∧ ((checking ws).slug 0 0).live = true ∧ ((checking ws).slug 0 0).hnd = none ∧ [0, 0x81, 0x82, 0x83, 0x84, 0x87].all (fun x => !(checking ws).pinHolds 0 0 3 x) = true)
    ∧ (∀ n, (lc ((checking goodRec).modLaunch 16384 (fun l => { l with far := n }))).far = n)
    ∧ (lc ((checking goodRec).modPart 0 (fun q => { q with launches := 0 }))).far = false
    ∧ ((checking goodRec).modPart 0 (fun q => { q with launches := 0 })).launchesFull 0 = true
    ∧ ((checking goodRec).modLaunch 16384 (fun l => { l with recAddr := 8 })).launchesFull 0 = false
    ∧ (lc ((checking goodRec).modLaunch 16384 (fun l => { l with recAddr := 8 }))).recAddr % 64 ≠ 0
    ∧ (lc (checking (record (2 ^ 54) lvl0 0 1))).recordOk = false
    ∧ ((lc (checking (record 0 (lvl0 + 512) 0 1))).recordOk = true ∧ (lc (checking (record 0 (lvl0 + 512) 0 1))).shapeOk = false)
    ∧ (∀ ws ∈ [record 0 lvl0 1 1, record 0 lvl0 0 2], (lc (checking ws)).recordOk = true ∧ (lc (checking ws)).shapeOk = true ∧ (lc (checking ws)).gangLevel = 2)
    ∧ (lc (checking (record 0 lvl0 1 1))).segsOk = false
    ∧ ((lc (checking (record 0 lvl0 0 2))).segsOk = true ∧ (checking (record 0 lvl0 0 2)).worldsOk (lc (checking (record 0 lvl0 0 2))) = false)
    ∧ (∃ u x, ((checking goodRec).modLaunch 16384 (fun _ => lc (checking goodRec))).checkLaunch (lc (checking goodRec)) = (u, .ok x)
        ∧ u.launch 16384 = lc (checking goodRec) ∧ u.freeLaunch 0 < 16384)
    ∧ (∀ st n m, (ending st n m).ev.index = 0 ∧ (ending st n m).Calm ∧ ∀ c, (ending st n m).CoreClean c)
    ∧ (((ending .active 1 false).part ((ending .active 1 false).launch 0).part).queues = [] ∧ (ending .active 1 false).launchDone 0 = true
        ∧ (ending .active 0 false).launchDone 0 = false)
    ∧ ((ending .failing 1 false).failDue 0 = true ∧ (ending .failing 1 false).launchCopying 0 = false ∧ (ending .failing 1 false).messagesLeft 0 = false
        ∧ ((ending .failing 1 false).part ((ending .failing 1 false).launch 0).part).colls = []
        ∧ (ending .failing 1 true).failDue 0 = true ∧ (ending .failing 1 true).messagesLeft 0 = true ∧ (ending .active 1 false).failDue 0 = false)
    ∧ (((timed { en := true, period := 10000 } 0).part 0).tt.look 1 = { en := true, period := 10000 } ∧ (timed { en := true, period := 10000 } 0).ev.part = 0
        ∧ (timed { en := true, period := 10000 } 0).ev.index = 1
        ∧ (0 : Word).toNat ≤ (timed { en := true, period := 10000 } 0).ptpNow ∧ 5000 < (timed { en := true, period := 10000 } 5001).ptpNow - 0
        ∧ ¬ (5000 < (timed { en := true, period := 10000 } 5000).ptpNow - 0)
        ∧ ¬ ((timed { en := true, period := 10000 } 0).launchLimit 0 ≤ (timed { en := true, period := 10000 } 0).activeCount 0)
        ∧ (timed { en := true, next := 7 } 6).ptpNow < 7) := by
  refine ⟨?_, ?_, ?_, ?_, ?_, ?_, ?_, ?_, ?_, ?_, ?_, checked_ok (by decide +kernel), fun st n m => ⟨rfl, ending_calm st n m⟩, ?_, ?_, ?_⟩
    <;> decide +kernel

/-- A launch of one slug a forme that takes 2, 1 and 1 granules; a pitch of 2 by 2. -/
def oneForme : Sparse Word := [(1, 2 ^ 50 + 2 ^ 46 + 2 ^ 42), (7, 1), (8, lvl0), (9, 2 ^ 32 + 2 ^ 23 + 2 ^ 16), (10, 2 ^ 32 + 2 ^ 23 + 2 ^ 16)]
def pitch4 : Sparse Word :=
  [(1, 2 ^ 50), (7, 1), (8, lvl0), (9, 2 ^ 32 + 2 ^ 23 + 2 ^ 16), (10, 4 * 2 ^ 32 + 2 ^ 23 + 2 ^ 16 + 0x22), (11, 2 ^ 32 + 2 ^ 23 + 3 * 2 ^ 16 + 2 ^ 8)]

/-- A saved forme of launch 0. -/
def savedForme : Forme := { place := .saved, slugs := [(0, { live := true, a := { path := some { pc := 8, mask := 1 } } })] }

/-- Launch 0 of partition 0, which has cluster 0 and a save pool, with nothing placed, or its first unit saved. -/
def placing0 (ws : Sparse Word) (back : Bool) : State := { State.reset with
  power := .on
  clusters := [(0, { holder := .part 0 })]
  parts := [(0, { exist := true, saveFrames := [5, 6], savedUnits := if back then [(0, 0)] else [] })]
  launches := [(0, { st := .active, words := ws })]
  formes := if back then [(0, savedForme)] else [] }

def placedAt (s : State) (back : Bool) : Placing :=
  ((s.launch 0).placeAt (s.needOf 0 (s.launch 0) back) 0 (s.openClusters 0) (s.placing 0 (s.launch 0))).getD {}

/-- Cluster 0's links with one message and a unit that is having bound; forme 0 bound on core 0. -/
def linked (d : List LinkMsg) (u : List LinkMsg) (g : Bool) (o : Option Order) (late : Bool) : State := { State.reset with
  clusters := [(0, { holder := .part 0, toLeaf := d, toSched := u })]
  launches := [(0, { st := .active, words := oneForme })]
  parts := [(0, { exist := true, order := o })]
  formes := [(0, { savedForme with place := .bound, goes := g })]
  cores := [(0, { regs := [(0, { holder := some 0, freeAt := if late then 1 else 0 }), (1, { freeAt := 1 })] })] }

/-- Orders that await cluster 0 alone, or another too. -/
def ord (ws : List Nat) (bad : Bool) : Order := { formes := [0], waits := ws, refused := bad }

theorem calm_of {s : State} (h : s.txs = [] ∧ (∀ e ∈ s.formes, ∀ m ∈ e.2.slugs, m.2.wake = none) ∧ (∀ e ∈ s.cores, e.2.partials = []) ∧ s.held = []) : s.Calm := by
  refine ⟨quiet_all s ⟨h.1, h.2.1⟩, fun e he l => ?_, h.2.2.2⟩
  rw [h.2.2.1 e he]; rfl

/-- The order of the head of partition 0 stands at the head of cluster 0's link; the cluster has room, or none of its cores is live. -/
def ordered (type : BitVec 8) (ws : Sparse Word) (room : Bool) : State :=
  let s := placing0 ws (type == 0x05)
  { s with
    clusters := [(0, { holder := .part 0, toLeaf := [{ type := type, formes := [(0, 0)], cores := if type = 0x02 then [(0, 0)] else [] }] })]
    cores := if room then [] else (clusterCores 0).map (fun c => (c, { retired := true })) }

theorem witness_FormesArePlacedAndStart :
    ((∀ c ∈ [0], c < 16) ∧ ((placing0 oneForme false).placing 0 {}).forme [0] {} 0 = some ((((placing0 oneForme false).placing 0 {}).forme [0] {} 0).getD {}))
    ∧ ((placing0 oneForme false).emptyDevice.pitch allClusters true 2 2 (fun _ => {}) 0).isSome = true
    ∧ (∀ b ∈ [false, true], ∀ ws ∈ [oneForme, pitch4],
        (placing0 ws b).headUnit (placing0 ws b).ev.part = some (0, 0, b) ∧ (placing0 ws b).saveRoom ((placing0 ws b).launch 0) = true
        ∧ (placing0 ws b).Calm
        ∧ ((placing0 ws b).launch 0).placeAt ((placing0 ws b).needOf 0 ((placing0 ws b).launch 0) b) 0 ((placing0 ws b).openClusters 0)
            ((placing0 ws b).placing 0 ((placing0 ws b).launch 0)) = some (placedAt (placing0 ws b) b)
        ∧ ((placedAt (placing0 ws b) b).done.map (·.fidx)).Nodup ∧ (∀ q ∈ (placedAt (placing0 ws b) b).done, q.fidx < 2 ^ 48))
    ∧ ((placing0 oneForme false).launch 0).unitSize = 1 ∧ ((placing0 pitch4 false).launch 0).unitSize = 4
    ∧ (placedAt (placing0 oneForme false) false).done = [{ fidx := 0, core := 0, base := (0, 0, 0) }]
    ∧ (((linked [{ type := 3, formes := [(0, 0)] }] [] true none false).cluster 0).toLeaf = [{ type := 3, formes := [(0, 0)] }]
        ∧ ((linked [{ type := 3, formes := [(0, 0)] }] [] true none false).forme (formeKey 0 0)).place = .bound)
    ∧ (((linked [] [{ type := 0x82, formes := [(0, 0)] }] true none false).cluster 0).toSched = [{ type := 0x82, formes := [(0, 0)] }])
    ∧ (∀ cs ∈ [[0], [0, 1]], ∀ b ∈ [true, false], ∀ ok ∈ [true, false],
        ((linked [] [{ type := 0x81, formes := [(0, 0)], ok := ok }] true (some (ord cs b)) false).cluster 0).toSched = [{ type := 0x81, formes := [(0, 0)], ok := ok }]
        ∧ ((linked [] [{ type := 0x81, formes := [(0, 0)], ok := ok }] true (some (ord cs b)) false).part 0).order = some (ord cs b)
        ∧ ((ord cs b).waits.erase 0 = [] ↔ cs = [0]) ∧ (ord cs b).refused = b)
    ∧ ((linked [] [] true (some (ord [0] false)) false).part 0).order ≠ none ∧ ((placing0 oneForme false).part 0).order = none
    ∧ (∀ x ∈ ([(0x01, oneForme), (0x02, pitch4), (0x05, oneForme)] : List (BitVec 8 × Sparse Word)),
        (ordered x.1 x.2 true).leafFinds 0 ((ordered x.1 x.2 true).cluster 0).toLeaf.head! ≠ none
        ∧ (ordered x.1 x.2 false).leafFinds 0 ((ordered x.1 x.2 false).cluster 0).toLeaf.head! = none
        ∧ (ordered x.1 x.2 true).Calm ∧ (ordered x.1 x.2 true).ev.flag = true ∧ (ordered x.1 x.2 true).ev.tenant = false)
    ∧ (∀ g ∈ [true, false], ∀ l ∈ [true, false], (linked [] [] g none l).OwnUnit (linked [] [] g none l).ev.forme ∧ ((linked [] [] g none l).forme 0).place = .bound
        ∧ (linked [] [] g none l).Calm
        ∧ ((linked [] [] g none l).forme 0).goes = g ∧ ((linked [] [] g none l).core 0).slots = [] ∧ ((linked [] [] g none l).forme 0).slugs.wf = true
        ∧ (((linked [] [] g none l).forme 0).slugs.filter (fun m => m.2.live)).length ≤ 64
        ∧ ((linked [] [] g none l).core 0).spad.wf = true ∧ (linked [] [] g none l).mayNotStart 0 = false)
    ∧ (linked [] [] true none true).granulesReady 0 = false ∧ (linked [] [] true none false).granulesReady 0 = true
    ∧ (linked [{ type := 4, formes := [(0, 0)] }] [] true none false).mayNotStart 0 = true := by
  refine ⟨?_, ?_, ?_, ?_, ?_, ?_, ?_, ?_, ?_, ?_, ?_, ?_, ?_, ?_, ?_, ?_⟩
  case refine_3 =>
    intro b hb ws hw
    refine ⟨?_, ?_, calm_of ?_, ?_, ?_⟩ <;> revert b ws <;> decide +kernel
  case refine_12 =>
    intro x hx
    refine ⟨?_, ?_, calm_of ?_, ?_⟩ <;> revert x <;> decide +kernel
  case refine_13 =>
    intro g hg l hl
    refine ⟨⟨?_, ?_, ?_⟩, ?_, calm_of ?_, ?_⟩ <;> revert g l <;> decide +kernel
  all_goals decide +kernel

/-- One forme of launch 0 on core 0 with a message to its leaf or to the scheduler, the slug asleep with a transaction or not. -/
def moving (pl : Place) (dr : Option Nat) (down up : List LinkMsg) (rest : Bool) (cp : Bool) (flag : Bool) (now : Nat) : State := { State.reset with
  cyc := now
  ev := { flag := flag }
  clusters := [(0, { holder := .part 0, toLeaf := down, toSched := up })]
  parts := [(0, { exist := true, saveFrames := [5, 6] })]
  launches := [(0, { st := .active, words := oneForme, next := 1 })]
  formes := [(0, { savedForme with place := pl, drain := dr, slugs := if rest then [] else savedForme.slugs })]
  cores := [(0, { copies := if cp then [{ fk := 0 }] else [] })] }

theorem moving_unit (pl : Place) (dr : Option Nat) (down up : List LinkMsg) (rest cp flag : Bool) (now : Nat) :
    (moving pl dr down up rest cp flag now).OwnUnit 0 := by
  have h : ((moving .running none [] [] false false false 0).launch 0).unitSize = 1 := by decide +kernel
  exact ⟨h, by show formeKey 0 0 = 0; decide, by show (0 : Nat) < 2 ^ 48; decide⟩

/-- An access of slug 0's first path stands delayed at a line; a gathering of the forme has closed. -/
def held1 (s : State) : State := { s with held := [{ src := .path 0 0 false }] }
def closing (s : State) : State :=
  { s with formes := s.formes.upd 0 (fun f => { f with gathers := [{ pc := 0, slugs := [0], close := 5, closed := true, done := 9 }] }) }

/-- The shared pool in the hands of partition 0 until 1600, partition 1 and its launch waiting for it. -/
def pooled (own : Option Nat) (now : Nat) : State := { State.reset with
  cyc := now
  pool := { part := own, sliceEnd := 1600 }
  parts := [(0, { exist := true, poolWeight := 2, saveFrames := [5, 6] }), (1, { exist := true, poolWeight := 1, saveFrames := [5, 6] })]
  launches := [(0, { st := .active, words := oneForme, part := 0 }), (1, { st := .active, words := oneForme, part := 1 })] }

/-- Slugs that stand in a gathering at address 0, open or closed. -/
def gathering (s : State) (slugs : List Nat) (closed : Bool) (now : Nat) : State := { s with
  cyc := now
  ev := {}
  formes := s.formes.upd 0 (fun f => { f with gathers := [{ pc := 0, slugs := slugs, close := 5, closed := closed, done := 9 }] }) }

theorem witness_UnitsMoveAndRegroup :
    (∀ b ∈ [true, false], ((moving .running none [] [] false false b 0).formes.map (·.1)).contains 0 = true ∧ (moving .running none [] [] false false b 0).formes.wf = true
      ∧ ((moving .running none [] [] false false b 0).forme 0).place.resident = true ∧ (moving .running none [] [] false false b 0).ev.flag = b
      ∧ (moving .running none [] [] false false b 0).ev.part = 0 ∧ (moving .running none [] [] false false b 0).ev.index = 0)
    ∧ (∀ pl dr down up rest cp flag now, (moving pl dr down up rest cp flag now).OwnUnit 0)
    ∧ (∀ r ∈ [true, false], ((moving .running none [{ type := 4, formes := [(0, 0)] }] [] r false true 0).cluster 0).toLeaf = [{ type := 4, formes := [(0, 0)] }]
        ∧ ((moving .running none [{ type := 4, formes := [(0, 0)] }] [] r false true 0).forme 0).place = .running
        ∧ (moving .running none [{ type := 4, formes := [(0, 0)] }] [] r false true 0).atRest 0 = r)
    ∧ (∀ c ∈ [true, false], ((moving .running none [{ type := 4, formes := [(0, 0)] }] [] true c true 0).cluster 0).toLeaf = [{ type := 4, formes := [(0, 0)] }]
        ∧ (moving .running none [{ type := 4, formes := [(0, 0)] }] [] true c true 0).atRest 0 = true
        ∧ (moving .running none [{ type := 4, formes := [(0, 0)] }] [] true c true 0).copying 0 = c
        ∧ (moving .running none [{ type := 4, formes := [(0, 0)] }] [] true c true 0).saveWaits 0 = false)
    ∧ (held1 (moving .running none [{ type := 4, formes := [(0, 0)] }] [] true false true 0)).saveWaits 0 = true
    ∧ (held1 (moving .running none [{ type := 4, formes := [(0, 0)] }] [] true false true 0)).atRest 0 = true
    ∧ (∀ c ∈ [true, false], ((moving .draining (some 5) [] [] false c true 5).forme 0).place = .draining ∧ ((moving .draining (some 5) [] [] false c true 5).forme 0).drain = some 5
        ∧ (moving .draining (some 5) [] [] false c true 5).cyc = 5 ∧ (moving .draining (some 5) [] [] false c true 5).copying 0 = c
        ∧ (moving .draining (some 5) [] [] false c true 5).Calm ∧ ((moving .draining (some 5) [] [] false c true 5).forme 0).gathers = [])
    ∧ ((closing (moving .draining (some 5) [] [] false false true 5)).Calm
        ∧ (((closing (moving .draining (some 5) [] [] false false true 5)).forme 0).gathers.any (·.closed)) = true)
    ∧ (moving .draining (some 5) [] [] false false true 4).cyc < 5
    ∧ (((moving .saved none [] [{ type := 0x83, formes := [(0, 0)] }] false false true 0).cluster 0).toSched = [{ type := 0x83, formes := [(0, 0)] }]
        ∧ ((moving .saved none [] [{ type := 0x83, formes := [(0, 0)] }] false false true 0).forme 0).place = .saved
        ∧ ((moving .saved none [] [{ type := 0x83, formes := [(0, 0)] }] false false true 0).launch 0).st = .active
        ∧ (0, 0) ∉ ((moving .saved none [] [{ type := 0x83, formes := [(0, 0)] }] false false true 0).part 0).savedUnits)
    ∧ (((moving .saving none [] [] false false false 0).forme 0).place = .saving ∧ (moving .saving none [] [] false false false 0).copying 0 = false
        ∧ (moving .saving none [] [] false false false 0).saveWaits 0 = false ∧ (moving .saving none [] [] false false false 0).ev.flag = false
        ∧ (moving .draining (some 5) [] [] true false false 0).saveWaits 0 = false
        ∧ ((moving .draining (some 5) [] [] true false false 0).forme 0).place = .draining ∧ (moving .draining (some 5) [] [] true false false 0).atRest 0 = true)
    ∧ ((pooled (some 0) 0).sliceOver = false ∧ State.reset.sliceOver = false ∧ (pooled none 0).sliceOver = true ∧ (pooled none 0).nextSlice = some 0
        ∧ (pooled (some 0) 1600).sliceOver = true ∧ (pooled (some 0) 1600).nextSlice = some 1)
    ∧ (∀ now ∈ [4, 5, 9], ∀ c ∈ [false, true], ∀ l ∈ [[0], [0, 1]], ((gathering pair l c now).forme 0).gathers = [{ pc := 0, slugs := l, close := 5, closed := c, done := 9 }]
        ∧ l.Nodup ∧ l ≠ [] ∧ (∀ j ∈ l, ((gathering pair l c now).slug 0 j).paths = 1) ∧ (gathering pair l c now).cyc = now
        ∧ ((((gathering pair l c now).forme 0).lanesOf l).map (·.1)).Nodup
        ∧ (∀ j ∈ l, ((gathering pair l c now).slug 0 j).live = true ∧ j < 32 ∧ ((gathering pair l c now).slug 0 j).v.wf = true
            ∧ ((gathering pair l c now).slug 0 j).liveLanes ≠ 0) ∧ (gathering pair l c now).Undisturbed)
    ∧ ((((gathering pair [0] false 5).forme 0).lanesOf [0]).length + 31 < 32 * 2 ∧ 32 * 1 ≤ (((gathering pair [0] false 5).forme 0).lanesOf [0]).length + 31)
    ∧ (((gathering pair [0, 1] false 5).forme 0).lanesOf [0, 1]).length + 31 < 32 * 2 := by
  refine ⟨?_, moving_unit, ?_, ?_, ?_, ?_, ?_, ⟨?_, ?_⟩, ?_, ?_, ?_, ?_, ?_, ?_, ?_⟩
  case refine_6 =>
    intro c hc
    refine ⟨?_, ?_, ?_, ?_, calm_of ?_, ?_⟩ <;> revert c <;> decide +kernel
  case refine_7 => exact calm_of (by decide +kernel)
  case refine_13 =>
    intro now hn c hc l hl
    refine ⟨?_, ?_, ?_, ?_, ?_, ?_, ?_, quiet_all _ ?_⟩ <;> revert now c l <;> decide +kernel
  all_goals decide +kernel

/-! ### Partitions, keys, interfaces, code -/

/-- The amounts of the fourteen kinds, `c` clusters and `n` frames of the first tier among them. -/
def amounts (c n : Nat) : List Byte := bytesOf 8 c ++ List.replicate 8 0 ++ bytesOf 8 (n * 2 ^ 18) ++ List.replicate 88 0

/-- A powered device with partition 0, which holds cluster 0 and frames 7 and 8, and with a kind, amount and cluster in the event. -/
def held0 (p : Nat) (a : List Byte) (k v c : Nat) (saved : List Nat) (busy leaving : Bool) : State := { State.reset with
  power := .on
  ev := { part := p, bytes := a, index := k, value := BitVec.ofNat 64 v, core := c, size := 1 }
  clusters := [(0, { holder := .part 0 })]
  frames := [(7, { owner := some 0 }), (8, { owner := some 0 })]
  parts := [(0, { exist := true, saveFrames := saved, draining := if leaving then [{ cluster := some 0, hold := true }] else [] })]
  formes := if busy then [(0, { savedForme with place := .running })] else [] }

/-- Partition 0 gives up frame 7, or has another cluster leave it, and no request waits. -/
def givingUp (d : Draining) : State :=
  let s := held0 0 [] 7 0 0 [] false false
  { s with parts := [(0, { exist := true, draining := [d] })] }

/-- Frame 1 of the partition, which the running forme's zone needs. -/
def inUse : State := { tables with
  ev := { part := 0, index := 1, size := 1 }
  roots := [(0, some 0)]
  dram := [(0, 1), (1, 0x20), (0x2000, 1), (0x2001, 0x40), (0x4000, 3), (0x400A, 0x30)]
  parts := tables.parts.upd 0 (fun q => { q with storeFrames := [9] })
  launches := tables.launches.upd 0 (fun l => { l with words := ((l.words.put 32 0).put 33 (2 ^ 51 + 2 ^ 48 + 0x1000)).put 4 0x10000000 }) }

/-- The one leaf of the partition. -/
def onlyLeaf : Leaf := { lo := 3, hi := 0x300000, level := 1, part := 0, base := 0 }
theorem inUse_leaves : inUse.leavesOf 0 = [onlyLeaf] := by decide +kernel

theorem inUse_held : inUse.mayWithdraw 0 [1] = true ∧ inUse.withdrawReady 0 [1] = false := by
  unfold State.mayWithdraw State.withdrawReady
  rw [inUse_leaves]
  decide +kernel

theorem aged_of {s : State} {f : Nat} (h : s.lineGen = [] ∧ (s.frames.look f).gen = 0 ∧ (s.frames.look f).scrub = 0) : s.Aged f := by
  intro i _
  rw [h.1, h.2.1, h.2.2]
  show ((0 : BitVec 6) - 0).toNat ≤ ((0 : BitVec 6) - 0).toNat
  decide

theorem witness_PartitionsComeAndGo :
    (∀ c ∈ [1, 17], (held0 1 (amounts c 1) 0 0 0 [] false false).power = .on ∧ ((held0 1 (amounts c 1) 0 0 0 [] false false).part 1).exist = false
      ∧ (held0 1 (amounts c 1) 0 0 0 [] false false).frames.wf = true ∧ (held0 1 (amounts c 1) 0 0 0 [] false false).launches.wf = true
      ∧ (held0 1 (amounts c 1) 0 0 0 [] false false).keys.wf = true ∧ (held0 1 (amounts c 1) 0 0 0 [] false false).parts.wf = true
      ∧ (kinds.all (fun k => (held0 1 (amounts c 1) 0 0 0 [] false false).canGrant 1 k
          (natOf (((amounts c 1).drop (8 * (k - 1))).take 8)) ((held0 1 (amounts c 1) 0 0 0 [] false false).ev.startOf k))) = (c == 1))
    ∧ (∀ k ∈ [1, 9, 13], ((held0 0 [] k 1 0 [] false false).part 0).exist = true ∧ (held0 0 [] k 1 0 [] false false).canGrant 0 k 1 0 = true)
    ∧ (held0 0 [] 1 17 0 [] false false).canGrant 0 1 17 0 = false
    ∧ (((held0 0 [] 2 1 0 [] false false).part 0).saveFrames.length ≤ 1 ∧ 1 < ((held0 0 [] 2 1 0 [7, 8] false false).part 0).saveFrames.length
        ∧ 7 ∈ ((held0 0 [] 2 1 0 [] false false).spareFrames 0 0).take 1)
    ∧ (held0 0 [] 2 1 0 [] false false).Aged 7
    ∧ (((held0 0 [] 7 0 0 [] false false).cluster 0).holder = .part 0 ∧ (held0 0 [] 7 0 0 [] false false).clusterEmpty 0 = true
        ∧ ((held0 0 [] 7 0 0 [] false false).cluster 0).doomed = false)
    ∧ (∀ b ∈ [true, false], (held0 0 [] 7 0 0 [] true b).clusterEmpty 0 = false ∧ (held0 0 [] 7 0 0 [] true b).shrinking 0 0 = b)
    ∧ (((held0 1 [] 1 1 0 [] false false).part 1).exist = false
        ∧ ∀ b ∈ [true, false], (held0 0 [] 7 0 1 [] true b).resizing 0 = b ∧ (held0 0 [] 7 0 1 [] true b).shrinking 0 1 = false
          ∧ (held0 0 [] 7 0 1 [] true b).mayShrink 0 1 = false ∧ ((held0 0 [] 7 0 1 [] true b).part 0).resizes = [])
    ∧ ((givingUp { frames := [7], hold := true }).resizing 0 = true ∧ ((givingUp { frames := [7], hold := true }).withdrawing 0).contains [7] = true
        ∧ ((givingUp { frames := [7], hold := true }).part 0).resizes = [] ∧ (givingUp { frames := [7], hold := true }).mayWithdraw 0 [7] = true
        ∧ (givingUp { cluster := some 0, hold := true }).resizing 0 = true ∧ ((givingUp { cluster := some 0, hold := true }).withdrawing 0).contains [7] = false)
    ∧ (inUse.mayWithdraw 0 [1] = true ∧ inUse.withdrawReady 0 [1] = false)
    ∧ (inUse.resizing 0 = false ∧ (inUse.part 0).resizes = []
        ∧ (List.range inUse.ev.size).map (· + inUse.ev.index) = [1])
    ∧ ((held0 0 [] 7 0 0 [7] false false).mayWithdraw 0 [7] = false ∧ (held0 0 [] 7 0 0 [] false false).mayWithdraw 0 [7] = true
        ∧ (held0 0 [] 7 0 0 [] false false).withdrawReady 0 [7] = true ∧ (List.range 1).map (· + 7) = [7])
    ∧ ((held0 0 [] 0 0 0 [] false false).frames.wf = true ∧ (held0 0 [] 0 0 0 [] false false).launches.wf = true
        ∧ (held0 0 [] 0 0 0 [] false false).keys.wf = true ∧ (held0 0 [] 0 0 0 [] false false).parts.wf = true) := by
  refine ⟨?_, ?_, ?_, ?_, aged_of ?_, ?_, ?_, ?_, ?_, inUse_held, ?_, ?_, ?_⟩ <;> decide +kernel

/-- Partition 0 with its session open or not, its interface in a state, key slot 5 and port 3 as given. -/
def keyed (sess : Bool) (td : Tdisp) (k : KeySlot) (p : FabPort) (i : Nat) (n : Nat) (rec flag : Bool) : State := { State.reset with
  power := .on
  ev := { part := 0, index := i, bytes := List.replicate n 9, flag := flag }
  keys := [(5, k)]
  ports := [(3, p)]
  launches := [(2, { st := .active })]
  frames := [(7, { owner := some 0, key := if rec then 5 else 0 })]
  parts := [(0, { exist := true, keysOpen := sess, keyIds := 1, tdisp := td })] }

theorem witness_KeysInterfacesPorts :
    ((keyed true .run {} { enabled := true } 5 32 false false).ev.bytes.length = 32 ∧ ((keyed true .run {} { enabled := true } 5 32 false false).part 0).keysOpen = true
        ∧ ((keyed true .run {} { enabled := true } 5 32 false false).keys.look 5).holder = none
        ∧ ((keyed true .run {} { enabled := true } 5 32 false false).keysOf 0).length < 1)
    ∧ (((keyed true .run { holder := some 0 } {} 5 32 false true).keys.look 5).holder = some 0 ∧ (keyed true .run { holder := some 0 } {} 5 32 false true).keyRecorded 0 5 = false
        ∧ (keyed true .run { holder := some 0 } {} 5 32 true true).keyRecorded 0 5 = true)
    ∧ ((keyed true .run {} {} 0 32 false true).ev.index < 1 ∧ 239 < (keyed true .run {} {} 240 32 false true).ev.index
        ∧ (keyed true .run {} {} 5 31 false true).ev.bytes.length ≠ 32 ∧ ((keyed false .run {} {} 5 32 false true).part 0).keysOpen = false)
    ∧ ((keyed true .run {} { enabled := true } 3 32 false false).ev.flag = false ∧ ((keyed true .run {} { enabled := true } 3 32 false false).ports.look 3).enabled = true)
    ∧ (((keyed true .run {} {} 3 32 false true).launch 2).st = .active ∧ 2 ∈ ({ bytes := [2, 0] } : EvArgs).launches)
    ∧ (∀ td ∈ ([.unlocked, .locked, .run, .error] : List Tdisp), ((keyed true td {} {} 3 32 false true).part 0).tdisp = td) := by
  refine ⟨?_, ?_, ?_, ?_, ?_, ?_⟩ <;> decide +kernel

/-- The handler object: its load, from the header at 0x100, with chunk 7 of the table; ENTRY in range or not. -/
def hload (st : BitVec 8) (e : BitVec 32) : State :=
  let s := checking goodRec
  { s with
    ev := { part := 0 }
    parts := s.parts.upd 0 (fun q => { q with hst := st, hobj := 0x100, hentry := e, verdicts := q.verdicts.map (fun v => { v with handler := true }),
                                              objs := q.objs.put 1 { used := true, handler := true, root := 5, chunks := [7], blobs := [blob1], gate := [] } }) }

/-- A page of text and a blob after it, in lines that the core holds; a zone over both, or over the text alone; `g1` and `g2` name them. -/
def sealing (ga : Nat) (n : Nat) (tx : Bool) : State :=
  let s := memG [(1, BitVec.ofNat 64 ga), (2, 0x41000)]
  { s with
    dram := tables.dram ++ [(0x6010, 3), (0x6012, 8), (0x601A, 0x30), (0x81006, 1)]
    formes := (s.modSlug 0 0 (fun m => { m with tx := if tx then some (txWith [lvl none]) else none })).formes
    launches := s.launches.upd 0 (fun l => { l with words := (l.words.put 32 0x40000).put 33 (2 ^ 51 + 2 ^ 48 + BitVec.ofNat 64 n) })
    cores := s.cores.upd 0 (fun c => { c with
      l1 := (List.range 32).map (fun i => (4096 + i, line .rc)) ++ [(4128, { line .rc with data := blob1 ++ List.replicate 112 0 })] }) }

theorem loaded_of {r : Ck Loaded} (h : (match r.2 with
      | .ok _ => true
      | .error _ => false) = true) : ∃ u x, r = (u, .ok x) := by
  cases hr : r.2 with
  | error e => rw [hr] at h; cases h
  | ok x => exact ⟨r.1, x, Prod.ext rfl hr⟩

theorem turnedDown_of {r : Ck Loaded} (h : (match r.2 with
      | .ok _ => true
      | .error _ => false) = false) : ∃ u x, r = (u, .error x) := by
  cases hr : r.2 with
  | ok e => rw [hr] at h; cases h
  | error x => exact ⟨r.1, x, Prod.ext rfl hr⟩

/-- The bytes of a range as the issuing slug loads them. -/
def loadedBytes (s : State) (va : Word) (n : Nat) : List Byte := (s.ownLoad (cx s) va n).2.getD []

theorem owned_of {s : State} {va : Word} {n : Nat} (h : (s.ownLoad (cx s) va n).1 = s) (k : (s.ownLoad (cx s) va n).2.isSome = true) :
    s.ownLoad (cx s) va n = (s, some (loadedBytes s va n)) := by
  unfold loadedBytes
  cases hr : (s.ownLoad (cx s) va n).2 with
  | none => rw [hr] at k; cases k
  | some bs => exact Prod.ext h hr

/-- Where the blob at 0x41000 ends, as `SEALREQ` reads it, and the answer where it lies outside the zone. -/
def sealEnd (s : State) : State × Option Nat :=
  s.blobEnd (cx s) ((s.launch 0).readZone [] 0x41000) (s.trap (cx s) { flt := { code := 0x03, va := 0x41000, d1 := 0x41000 }, mask := (cx s).act }) 0x41000 [0] 8

theorem sealEnd_of {s : State} {n : Nat} (h : (sealEnd s).1 = s) (k : (sealEnd s).2 = some n) : sealEnd s = (s, some n) := Prod.ext h k

theorem sealEnd_none {s : State} (h : (sealEnd s).2 = none) : ∃ u, sealEnd s = (u, none) := ⟨(sealEnd s).1, Prod.ext rfl h⟩

theorem witness_CodeIsLoadedAndSealed :
    (((hload 0 0).part 0).hst ≠ 1 ∧ ((hload 1 0).part 0).hst = 1 ∧ ((hload 1 4).part 0).hst = 1 ∧ ((hload 1 0).part 0).hobj = 0x100)
    ∧ (∃ u x, (hload 1 0).loadCode 0 {} true 128 0x100 0 = (u, .ok x)) ∧ (∃ u x, (hload 1 4).loadCode 0 {} true 128 0x100 4 = (u, .error x))
    ∧ (∀ ga ∈ [0x40000, 0x40001], ∀ n ∈ [0x1010, 0x1000], ∀ t ∈ [true, false], (sealing ga n t).ctx hd = some (cx (sealing ga n t)) ∧ (cx (sealing ga n t)).act ≠ 0
        ∧ (cx (sealing ga n t)).m.tx.isSome = t ∧ (cx (sealing ga n t)).m.readG 1 = BitVec.ofNat 64 ga ∧ (cx (sealing ga n t)).m.readG 2 = 0x41000)
    ∧ (∀ n ∈ [0x1010, 0x1000], (sealing 0x40000 n false).ownLoad (cx (sealing 0x40000 n false)) 0x40000 4096 = (sealing 0x40000 n false, some (loadedBytes (sealing 0x40000 n false) 0x40000 4096))
        ∧ (sealing 0x40000 n false).ownLoad (cx (sealing 0x40000 n false)) 0x41000 8 = (sealing 0x40000 n false, some (blob1.take 8)))
    ∧ (sealing 0x40000 0x1010 false).ownLoad (cx (sealing 0x40000 0x1010 false)) 0x41000 16 = (sealing 0x40000 0x1010 false, some blob1)
    ∧ (((sealing 0x40000 0x1010 false).part 0).objs.look 0).locks = [] ∧ sealEnd (sealing 0x40000 0x1010 false) = (sealing 0x40000 0x1010 false, some 16)
    ∧ (∃ u, sealEnd (sealing 0x40000 0x1000 false) = (u, none))
    ∧ List.replicate ((wordOf (blob1.take 8)).extractLsb' 48 16).toNat 0 ++ List.replicate ((wordOf (blob1.take 8)).extractLsb' 32 16).toNat 8 = [0]
    ∧ ((sealing 0x40000 0x1010 false).launch 0).readZone [] 0x41000 16 = true ∧ ((sealing 0x40000 0x1000 false).launch 0).readZone [] 0x41000 16 = false
    ∧ (∀ x, (sealing 0x40000 0x1010 false).pinBlocks (cx (sealing 0x40000 0x1010 false)) 3 x = false) ∧ (sealing 0x40000 0x1010 false).Calm := by
  refine ⟨?_, loaded_of ?_, turnedDown_of ?_, ?_, ?_, ?_, ?_, sealEnd_of ?_ ?_, sealEnd_none ?_, ?_, ?_, ?_,
    fun x => ?_, calm_of ?_⟩
  case refine_5 =>
    intro n hn
    refine ⟨owned_of ?_ ?_, Prod.ext ?_ ?_⟩ <;> revert n <;> decide +kernel
  case refine_6 => refine Prod.ext ?_ ?_ <;> decide +kernel
  case refine_14 =>
    have h : (((sealing 0x40000 0x1010 false).launchOf (cx (sealing 0x40000 0x1010 false))).pinG.getLsbD 3) = false := by decide +kernel
    rw [State.pinBlocks, h]
    simp
  all_goals decide +kernel

/-! ### Accesses from outside, evictions, degraded operation, power and time -/

/-- A request for frame 1, which partition 0 holds and grants to partition 4 of device 3, over port 2. -/
def outside (pow : Power) (sz n ty : Nat) (up granted : Bool) : State := { tables with
  power := pow
  ev := { addr := 0x40020, part := if granted then 4 else 5, index := 3, forme := 2, size := sz, slug := ty, bytes := (List.range n).map (BitVec.ofNat 8) }
  ports := [(2, { enabled := true, up := up })]
  parts := [(0, { exist := true, peers := [(3, 4)] }), (4, { exist := true })]
  dram := tables.dram ++ [(0x40021, 1), (0x40022, 2), (0x40023, 3)] }

/-- The host's own function. -/
def hostSide (pow : Power) (p n : Nat) : State :=
  let s := outside pow 8 n 0 true true
  { s with ev := { s.ev with part := p } }

theorem outside_calm (pow : Power) (sz n ty : Nat) (u g : Bool) : (outside pow sz n ty u g).Calm := by
  have h : (outside .on 0 0 0 true true).Calm := calm_of (by decide +kernel)
  exact ⟨⟨h.1.1, h.1.2⟩, h.2.1, rfl⟩

theorem witness_OutsideAccessesAndEvictions_accesses :
    (∀ pow sz n ty u g, (outside pow sz n ty u g).Calm) ∧ (∀ p n, (hostSide .on p n).Calm)
    ∧ ((hostSide .on 0 8).power = .on ∧ (hostSide .on 0 8).reachable 0x40020 8 (hostSide .on 0 8).hostFrame = true
        ∧ (hostSide .on 4 8).reachable 0x40020 8 (hostSide .on 4 8).hostFrame = false ∧ (hostSide .off 0 8).power ≠ .on)
    ∧ ((outside .on 0 8 0 false true).ports.look 2).up = false ∧ (outside .on 0 8 0 true false).reachable 0x40020 8 (outside .on 0 8 0 true false).peerFrame = false
    ∧ (∀ x ∈ [(0, 8), (16, 0), (2 ^ 20, 8), (2 ^ 20 + 1, 8), (2 ^ 20 + 1, 16), (2 ^ 20 + 1, 32)],
        (outside .on x.1 x.2 1 true true).power = .on ∧ ((outside .on x.1 x.2 1 true true).ports.look 2).enabled = true
        ∧ ((outside .on x.1 x.2 1 true true).ports.look 2).up = true ∧ ((outside .on x.1 x.2 1 true true).ports.look 2).dropping = false
        ∧ (outside .on x.1 x.2 1 true true).ev.bytes.length = x.2
        ∧ (outside .on x.1 x.2 1 true true).reachable 0x40020 (outside .on x.1 x.2 1 true true).ev.peerLen (outside .on x.1 x.2 1 true true).peerFrame = true)
    ∧ (peerTy 1).bytes = 8 ∧ 0x40020 % 16 = 0
    ∧ (outside .on (2 ^ 20 + 1) 8 1 true true).physBytes 0x40020 4 = (outside .on (2 ^ 20 + 1) 8 1 true true).ev.bytes.take 4
    ∧ (outside .on (2 ^ 20 + 1) 16 1 true true).physBytes 0x40020 8 ≠ (outside .on (2 ^ 20 + 1) 16 1 true true).ev.bytes.take 8 := by
  refine ⟨outside_calm, fun p n => ⟨⟨(outside_calm .on 8 n 0 true true).1.1, (outside_calm .on 8 n 0 true true).1.2⟩, (outside_calm .on 8 n 0 true true).2.1, rfl⟩, ?_⟩
  refine ⟨?_, ?_, ?_, ?_, ?_, ?_, ?_, ?_⟩ <;> decide +kernel

/-- A dirty line of core 0 on frame 1, and the hotness ring of partition 0 at the first page with a record that waits for it. -/
def sampling (k : LineKind) (some' : Bool) (sz : Nat) (wr rd : Nat) (pend : List (List Byte)) (base : Nat) : State := { tables with
  ev := { core := 0, index := 2048, flag := !some', bytes := [0, 2] }
  cores := tables.cores.upd 0 (fun c => { c with l1 := [(2048, { line k with dirty := 0x206, data := List.replicate 128 5 })] })
  parts := tables.parts.upd 0 (fun q => { q with
    exist := true, hsbase := BitVec.ofNat 64 base, hssize := BitVec.ofNat 64 sz, hswr := BitVec.ofNat 64 wr, hsrd := BitVec.ofNat 64 rd, hsk := 1, hsPending := pend }) }

/-- Two records. -/
def records : List (List Byte) := [List.replicate 32 7, List.replicate 32 9]

theorem witness_OutsideAccessesAndEvictions_evictions :
    (∀ k b sz wr rd ps base, (sampling k b sz wr rd ps base).Calm)
    ∧ (∀ b ∈ [true, false], (sampling .rc b 0 0 0 records 0).ev.flag = !b ∧ ((sampling .rc b 0 0 0 records 0).l1Line 0 2048).kind ≠ .so)
    ∧ ((sampling .so true 0 0 0 records 0).l1Line 0 2048).kind = .so
    ∧ ((sampling .so true 0 0 0 [] 0).part 0).hsPending = [] ∧ ((sampling .so true 0 0 0 records 0).part 0).hsPending = records ∧ (∀ r ∈ records, r.length = 32)
    ∧ ((sampling .so true 0 0 0 records 0).part 0).hssize = 0
    ∧ (((sampling .so true 12 128 0 records 0).part 0).hswr - ((sampling .so true 12 128 0 records 0).part 0).hsrd).toNat
        = 2 ^ ((sampling .so true 12 128 0 records 0).part 0).hssize.toNat / 32
    ∧ (((sampling .so true 12 3 1 records 0x1000).part 0).hssize ≠ 0
        ∧ (((sampling .so true 12 3 1 records 0x1000).part 0).hswr - ((sampling .so true 12 3 1 records 0x1000).part 0).hsrd).toNat
          ≠ 2 ^ ((sampling .so true 12 3 1 records 0x1000).part 0).hssize.toNat / 32)
    ∧ (sampling .so true 12 3 1 records 0x1000).FwMapped 0 (0x1000 + 3 % 128 * 32) 32 .write 0x41060
    ∧ ¬ ∃ pa, (sampling .so true 12 3 1 records 0x80000).FwMapped 0 (0x80000 + 3 % 128 * 32) 32 .write pa := by
  have hc (k : LineKind) (b : Bool) : (sampling k b 0 0 0 [] 0).Calm := by cases k <;> cases b <;> exact calm_of (by decide +kernel)
  refine ⟨fun k b sz wr rd ps base => ⟨⟨(hc k b).1.1, (hc k b).1.2⟩, (hc k b).2.1, rfl⟩, ?_, ?_, ?_, ?_, ?_, ?_, ?_, ?_, fwMapped_of ?_, ?_⟩
  rotate_right
  · rintro ⟨pa, l, h, -⟩
    have hn : (match ((sampling .so true 12 3 1 records 0x80000).translate none 0 (0x80000 + 3 % 128 * 32) 32 .write).2 with
        | .ok _ => true
        | .error _ => false) = false := by decide +kernel
    rw [h] at hn
    cases hn
  all_goals decide +kernel


/-- Line 16384 (of frame 8) with so many corrected errors; frame 8 held by partition 0, firmware's, or nobody's, with a retired line or not;
partition 0 maps nothing. -/
def worn (flag : Bool) (errs : List Nat) (lost : Bool) (own : Option Nat) (fw : Bool) (st : LaunchSt) (i : Nat) : State := { State.reset with
  power := .on
  root := 0x240000
  ev := { index := i, size := 2, flag := flag }
  lineErrs := [(16384, errs)]
  lostLines := if lost then [16384] else []
  frames := [(8, { owner := own, firmware := fw })]
  parts := [(0, { exist := true })]
  launches := if st = .none then [] else [(2, { st := st })] }

/-- Every frame of a tier held, which begins at a frame and has so many. -/
def allHeld (s : State) (a n : Nat) : State := { s with frames := (List.range' a n).map (fun i => (i, { owner := some 0 })) }
def full8 : State := allHeld (worn true [] true (some 0) false .none 8) 0 786432

/-- A channel that failed its training, or has so many lines retired; retired itself or not; a core that is retired or not. -/
def failing (lost : List Nat) (ret : Bool) (n : Nat) : State := { State.reset with
  ev := { index := 3, core := 9 }
  lostChannels := lost
  coresLost := n
  cores := if ret then [(9, { retired := true })] else [] }

theorem leftOut_full (k : Nat) : ∀ cur n, leftOut (cur + k) (List.range' cur k) cur n = [] := by
  induction k with
  | zero => intro cur n; simp [leftOut]
  | succ k ih =>
    intro cur n
    have h := ih (cur + 1) n
    rw [show cur + 1 + k = cur + (k + 1) by omega] at h
    simp [List.range'_succ, leftOut, h]

theorem allHeld_free (s : State) (a n k : Nat) : leftOut (a + n) (((allHeld s a n).frames.filter (fun e => e.2.taken)).map (·.1)) a k = [] := by
  have k (l : List Nat) : (((l.map (fun i => (i, ({ owner := some 0 } : Frame)))).filter (fun e => e.2.taken)).map (·.1)) = l := by
    induction l with
    | nil => rfl
    | cons a r ih => rw [List.map_cons, List.filter_cons_of_pos (by rfl), List.map_cons, ih]
  have h : ((allHeld s a n).frames.filter (fun e => e.2.taken)).map (·.1) = List.range' a n := k _
  rw [h]
  exact leftOut_full n a _

theorem full8_free : full8.freeFrames 0 0 1 = [] := allHeld_free (worn true [] true (some 0) false .none 8) 0 786432 1

/-- Channel 3 with 64 lines retired, or 63. -/
def wornOut (n : Nat) : State := { failing [] false 0 with
  ev := { index := 3, flag := false }
  lostLines := (List.range n).map (fun i => 2 ^ 35 + 67 + 192 * i) }

theorem noSpare : ((allHeld (failing [] false 0) 16777216 6291456).freeFrames 1 0 channelFrames).length < channelFrames := by
  have h : (allHeld (failing [] false 0) 16777216 6291456).freeFrames 1 0 channelFrames = [] := allHeld_free (failing [] false 0) 16777216 6291456 channelFrames
  rw [h]
  decide

theorem failing_free : ((failing [] false 0).freeFrames 1 0 channelFrames).length = channelFrames := by
  have h : ((failing [] false 0).frames.filter (fun e => e.2.taken)).map (·.1) = [] := rfl
  unfold State.freeFrames
  rw [h]
  simp [leftOut, tierFrames, channelFrames]

theorem witness_DegradedOperation :
    (((worn true [] false none false .none 16384).launch 2).st ≠ .active ∧ ((worn true [] false none false .active 16384).launch 2).st = .active
      ∧ (worn true [] false none false .active 16384).lineFresh 16384 = true ∧ (worn true [] false none false .active 16384).ev.tenant = false)
    ∧ (((worn false [0, 0] false none false .none 16384).lineErrs.look 16384).filter
        (fun x => decide ((worn false [0, 0] false none false .none 16384).cyc < x + 86400 * 1600000000))).length < 3
    ∧ 3 ≤ (((worn false [0, 0, 0] false none false .none 16384).lineErrs.look 16384).filter
        (fun x => decide ((worn false [0, 0, 0] false none false .none 16384).cyc < x + 86400 * 1600000000))).length
    ∧ (worn true [] false none false .none 8).mustMove 8 = false
    ∧ ((worn true [] true none false .none 8).mustMove 8 = true ∧ ((worn true [] true none false .none 8).frames.look 8).owner = none
        ∧ ((worn true [] true none false .none 8).frames.look 8).firmware = false)
    ∧ (full8.mustMove 8 = true ∧ (full8.frames.look 8).owner = some 0 ∧ full8.freeFrames (frameTier 8) 0 1 = [])
    ∧ ((worn true [] true (some 0) false .none 8).mustMove 8 = true ∧ ((worn true [] true (some 0) false .none 8).frames.look 8).owner = some 0
        ∧ (worn true [] true (some 0) false .none 8).freeFrames (frameTier 8) 0 1 = [0] ∧ (worn true [] true (some 0) false .none 8).movable 0 8 = true
        ∧ (worn true [] true (some 0) false .none 8).Calm ∧ (∀ k, (worn true [] true (some 0) false .none 8).CoreClean k)
        ∧ (worn true [] true (some 0) false .none 8).Aged 0 ∧ 0 ∉ (worn true [] true (some 0) false .none 8).tableFrames 0
        ∧ (worn true [] true (some 0) false .none 8).root % 8192 = 0 ∧ (worn true [] true (some 0) false .none 8).root / 2 ^ 18 ≠ 0
        ∧ ((worn true [] true (some 0) false .none 8).leavesOf 0).filter (fun l => l.mapsAny [8]) = [] ∧ (worn true [] true (some 0) false .none 8).dram.wf = true)
    ∧ (3 ∉ (failing [] false 0).lostChannels ∧ (failing [] false 0).ev.flag = true ∧ ((failing [] false 0).freeFrames 1 0 channelFrames).length = channelFrames
        ∧ 3 ∈ (failing [3] false 0).lostChannels)
    ∧ ((wornOut 64).channelWorn 3 = true ∧ (wornOut 64).ev.flag = false ∧ (wornOut 63).channelWorn 3 = false)
    ∧ ((allHeld (failing [] false 0) 16777216 6291456).freeFrames 1 0 channelFrames).length < channelFrames
    ∧ (((failing [] false 0).core 9).retired = false ∧ ((failing [] false 0).cluster (clusterOf 9)).doomed = false ∧ (failing [] false 0).coresLost < 16
        ∧ 16 ≤ (failing [] false 16).coresLost
        ∧ (∀ e ∈ (failing [] false 0).formes, e.2.place.resident = true → e.2.core ≠ 9) ∧ ((failing [] true 0).core 9).retired = true) := by
  refine ⟨?_, ?_, ?_, ?_, ?_, ⟨?_, ?_, full8_free⟩, ⟨?_, ?_, ?_, ?_, calm_of ?_, fun k => ⟨rfl, fun l => rfl⟩, aged_of ?_, ?_, ?_, ?_, ?_, ?_⟩,
    ⟨?_, ?_, failing_free, ?_⟩, ?_, noSpare, ?_⟩ <;> decide +kernel

/-- A device at a stage of power, its table root to be at an address, a record's version, the last one accepted. -/
def powered (pow : Power) (root : Nat) (flag : Bool) (v acc : Nat) (alarm : Bool) : State := { State.reset with
  power := pow
  ev := { addr := BitVec.ofNat 64 root, flag := flag, bytes := bytesOf 4 v ++ List.replicate 13 5, size := 3 }
  boot := { accepted := acc }
  telemetry := { alarm := alarm }
  parts := [(0, { exist := true, draining := [{ hold := true }] })]
  ports := [(1, { enabled := true })] }

theorem witness_PowerAndTime :
    (∀ v ∈ [3, 4], (powered .off 0x100000 true v 4 false).power ≠ .on ∧ (powered .off 0x100000 true v 4 false).power ≠ .d3hot ∧ tablePlace 0x100000 = true
      ∧ (powered .off 0x100000 true v 4 false).ev.flag = true ∧ natOf (((powered .off 0x100000 true v 4 false).ev.bytes.drop 0).take 4) = v
      ∧ (powered .off 0x100000 true v 4 false).boot.accepted = 4)
    ∧ (powered .off 0x100000 false 4 4 false).ev.flag = false
    ∧ ((powered .on 0x100000 true 4 4 false).power = .on ∧ (powered .d3hot 0x100000 true 4 4 false).power = .d3hot ∧ tablePlace 0x100001 = false)
    ∧ ((-10000001 : Int) < -10000000 ∧ (BitVec.ofInt 64 (-10000001)).toInt = -10000001 ∧ (-10000000 : Int) ≤ (BitVec.ofInt 64 (-10000000)).toInt)
    ∧ ((powered .on 0 true 0 0 true).telemetry.alarm = true ∧ (powered .on 0 true 0 0 false).telemetry.alarm = false)
    ∧ ((powered .on 0 true 0 0 false).ports.wf = true ∧ (powered .on 0 true 0 0 false).existing = [0]
        ∧ ((powered .d3hot 0 true 0 0 false).part 0).draining = [{ hold := true }]) := by
  refine ⟨?_, ?_, ?_, ?_, ?_, ?_⟩ <;> decide +kernel

/-! ### Steps, encodings, memory -/

/-- Port 0 of core 0 is next to issue, the slug's next word an `ADD.i64 g3, g1, g2`. -/
def oneWord : State := State.reset.withFetchWord 64 (full 0x040 0x83 0x81 0x82 (0#3 ++ 2#3 ++ 0#14)).toNat
/-- The same once the port's turn is taken from the agenda. -/
def oneWord' : State := { oneWord with agenda := [] }
/-- The same under STRICT with `g1` still to come. -/
def hurried : State := oneWord'.modSlug 0 0 (fun m => { m with strict := true, a := { m.a with pend := [{ reg := 0x81, lat := 4, dist := 1 }] } })
def addWord : Instr := .add (ops (.g 3) (.g 1) (.g 2)) (alu .i64 0)

theorem witness_StepRunsTheDecodedWord :
    oneWord.agenda = [.port 0 0] ∧ oneWord'.rootOk = true
    ∧ (((oneWord'.core 0).port 0).age = [0] ∧ ((oneWord'.core 0).port 0).freeAt ≤ oneWord'.cyc ∧ oneWord'.cyc % 2 = 0 % 2)
    ∧ ((oneWord'.core 0).slots.look 0 = some (0, 0) ∧ oneWord'.slugRuns 0 0 = true ∧ (oneWord'.slug 0 0).strict = false)
    ∧ (((oneWord'.slug 0 0).slot false).path = some { pc := 0, mask := 0xFFFFFFFF } ∧ (oneWord'.slug 0 0).slotRuns false oneWord'.cyc = true
        ∧ (oneWord'.slug 0 0).slotRuns true oneWord'.cyc = false)
    ∧ ((oneWord'.fetch (oneWord'.forme 0) (oneWord'.slug 0 0) 0).marked = true
        ∧ decode (oneWord'.fetch (oneWord'.forme 0) (oneWord'.slug 0 0) 0).w (oneWord'.fetch (oneWord'.forme 0) (oneWord'.slug 0 0) 0).x = .ok addWord
        ∧ isWideWord (oneWord'.fetch (oneWord'.forme 0) (oneWord'.slug 0 0) 0).w = false)
    ∧ (addWord.resRule (oneWord'.launch (oneWord'.forme 0).launch) (oneWord'.slug 0 0).alloc = none ∧ addWord.whereOk (oneWord'.slug 0 0).hnd.isSome = true)
    ∧ (oneWord'.owes 0 0 false = false ∧ (oneWord'.slug 0 0).waits addWord oneWord'.cyc = false
        ∧ ∀ q ∈ addWord.pipes ((oneWord'.slug 0 0).h % 2), (oneWord'.core 0).pipeFree q.1 ≤ oneWord'.cyc)
    ∧ ({ State.reset with root := 2 ^ 54 } : State).rootOk = false ∧ (State.reset.rootOk = true ∧ State.reset.portPick 0 0 = none)
    ∧ (hurried.portPick 0 0).any (fun o => o.short.isSome) = true
    ∧ (oneWord'.slug 0 0).tx = none ∧ State.reset.cur = none ∧ base.cur = some {} ∧ (0 ∈ ((base.core 0).port ((base.slug 0 0).h % 2)).age)
    ∧ addWord.writeRegs = [(0x83, 2)] := by
  refine ⟨?_, ?_, ?_, ?_, ?_, ?_, ?_, ?_, ?_, ?_, ?_, ?_, ?_, ?_, ?_, ?_⟩ <;> decide +kernel

theorem witness_DecodeAndEncodeAgree :
    addWord.wf = true ∧ (Instr.add (wide (.g 3) (.g 1) .ext 0x100000000) (alu .i64 0)).wf = true
    ∧ isWideWord (full 0x040 0x83 0x81 0x82 (0#3 ++ 2#3 ++ 0#14)) = false
    ∧ decode (full 0x040 0x83 0x81 0x82 (0#3 ++ 2#3 ++ 0#14)) 0 = .ok addWord := by decide +kernel

theorem witness_StepKeepsMemoryCanonical :
    Memory.wf oneWord = true ∧ (∀ k, Sparse.wf (oneWord.forme k).scratch = true ∧ Sparse.wf (oneWord.forme k).acc = true)
    ∧ ∃ t, step oneWord = .next t := by
  refine ⟨by decide +kernel, ?_, ?_⟩
  · exact look_all (fun f : Forme => Sparse.wf f.scratch = true ∧ Sparse.wf f.acc = true) (by decide) oneWord.formes (by decide +kernel)
  · have h : (match step oneWord with
        | .next _ => true
        | _ => false) = true := by decide +kernel
    revert h
    cases step oneWord with
    | next t => exact fun _ => ⟨t, rfl⟩
    | fault e => intro h; cases h
    | refused e => intro h; cases h

/-! ### Further clauses -/

/-- A slug with two paths, its private memory on the page that `g2` names, with so many entries on its stack. -/
def stacked (st : List Path) : State :=
  let s := (memG [(2, 0x40000)]).modSlug 0 0 (fun m =>
    { m.writeP 1 0xFFFFFFFF 0x0000FFFF with b := { m.b with path := some { pk := false, pc := 80, mask := 0 } }, stack := st })
  { s with launches := s.launches.upd 0 (fun l => { l with words := (l.words.put 6 0x40000) }) }

theorem witness_Divergence_stack :
    (∀ st ∈ ([[], [{ pk := false, pc := 8, mask := 0 }]] : List (List Path)),
      (stacked st).ctx hd = some (cx (stacked st)) ∧ ((cx (stacked st)).m.slot true).path = some { pk := false, pc := 80, mask := 0 }
      ∧ (∀ e ∈ (cx (stacked st)).m.stack, e.pk = false) ∧ (cx (stacked st)).m.stack = st ∧ (stacked st).Undisturbed
      ∧ (cx (stacked st)).act &&& (cx (stacked st)).m.readP 1 ≠ 0 ∧ (cx (stacked st)).path.mask &&& ~~~((cx (stacked st)).act &&& (cx (stacked st)).m.readP 1) ≠ 0
      ∧ (stacked st).Mapped (cx (stacked st)) .write ((stacked st).privBase 0 0 + 16 * st.length) 16 (0x80000 + 16 * st.length) rc
      ∧ (stacked st).Cached 0 (0x80000 + 16 * st.length) 16 rc.kind)
    ∧ rc.kind ≠ .so
    ∧ (stacked [{ pk := false, pc := 8, mask := 0 }]).Mapped (cx (stacked [{ pk := false, pc := 8, mask := 0 }])) .read 0x40000 16 0x80000 rc := by
  refine ⟨fun st hs => ?_, ?_, mapped_of ?_⟩
  · refine ⟨?_, ?_, ?_, ?_, quiet_of _ ?_, ?_, ?_, mapped_of ?_, cached_of ?_⟩ <;> revert st <;> decide +kernel
  all_goals decide +kernel

/-- The slug of `half` within a transaction. -/
def halfTx : State := half.modSlug 0 0 (fun m => { m with tx := some (txWith [lvl none]) })

theorem witness_Divergence_more :
    (∀ s ∈ [half, two, parked], s.Undisturbed ∧ (∃ c, s.ctx hd = some c))
    ∧ ((cxHalf halfTx).Alone ∧ (cxHalf halfTx).act ≠ 0 ∧ (cxHalf halfTx).path.mask &&& ~~~(cxHalf halfTx).act ≠ 0 ∧ (cxHalf halfTx).m.tx ≠ none)
    ∧ ((cx half).path.mask ≠ 0)
    ∧ (jumpTarget (cx half).path.pc (ops .none (.p 1) .none) 13 4).toNat ≠ (cx half).nextPc.toNat
    ∧ ((cx two).act &&& (cx two).m.readP 1 ≠ 0 ∧ (cx two).path.mask &&& ~~~((cx two).act &&& (cx two).m.readP 1) ≠ 0)
    ∧ (cx half).nextPc.toNat < (jumpTarget (cx half).path.pc (ops .none (.p 1) .none) 13 4).toNat
    ∧ (jumpTarget (80 : Addr) (ops .none (.p 1) .none) 13 (0x1FF8 : BitVec 14)).toNat < 88
    ∧ ((cx parked).act ≠ 0 ∧ (cx parked).act ≠ (cx parked).m.liveLanes ∧ (cx parked).f.gathers = []
        ∧ (cx parked).path.mask &&& ~~~(cx parked).act = 0 ∧ (cx parked).m.stack.length < 64) := by
  refine ⟨fun s hs => ⟨quiet_all s ?_, cx s, ?_⟩, ⟨alone_of ?_, ?_, ?_, ?_⟩, ?_, ?_, ?_, ?_, ?_, ?_⟩
  · simp only [List.mem_cons, List.not_mem_nil, or_false] at hs
    rcases hs with rfl | rfl | rfl <;> decide +kernel
  · simp only [List.mem_cons, List.not_mem_nil, or_false] at hs
    rcases hs with rfl | rfl | rfl <;> decide +kernel
  all_goals decide +kernel

theorem witness_MemoryForms_more :
    (∀ k, (glob.core k).l1.length + (glob.core k).partials.length + 32 < (glob.core k).l1Lines)
    ∧ (∀ s ∈ [glob, atomS, partialS, memG [(1, 0x40000)]], Sparse.wf (s.core 0).l1 = true ∧ s.held = [])
    ∧ ((atomS.core 0).l1.length + (atomS.core 0).partials.length + 32 ≤ (atomS.core 0).l1Lines)
    ∧ ((atomS.core 0).partials.look (lineOf 0x40070)).cells = [] ∧ ((partialS.core 0).partials.look (lineOf 0x80000)).cells ≠ [] := by
  refine ⟨fun k => look_all (fun c : Core => c.l1.length + c.partials.length + 32 < c.l1Lines) ?_ glob.cores ?_ k, ?_, ?_, ?_, ?_⟩
  case refine_3 =>
    intro s hs
    simp only [List.mem_cons, List.not_mem_nil, or_false] at hs
    rcases hs with rfl | rfl | rfl | rfl <;> decide +kernel
  all_goals decide +kernel

theorem witness_HandlerForms_more :
    (∀ k ∈ [true, false], ∀ z ∈ [true, false], (handled .deferred k z).ctx hd = some (cx (handled .deferred k z)) ∧ (cx (handled .deferred k z)).act ≠ 0
      ∧ (cx (handled .deferred k z)).m.hnd = some (entry .deferred k z) ∧ (handled .deferred k z).held = [])
    ∧ ((cx (handled .replay true true)).m.srcG (ops .none (.g 2) .none) 0 (.g 2)).extractLsb' 0 32 &&& (entry .replay true true).unfinished = 0
    ∧ (entry .replay true true).unfinished ≠ 0
    ∧ (∀ l ∈ ([[], [5, 6]] : List (List Nat)), (ft l).held = [])
    ∧ (∀ f ∈ [true, false], (asleep f none).held = [])
    ∧ (∀ e ∈ [0, 2], ∀ n ∈ [0, 64], startColls ((desc red formed e n).part 0).colls = ((desc red formed e n).part 0).colls) := by
  refine ⟨?_, ?_, ?_, ?_, ?_, ?_⟩ <;> decide +kernel

end Sys2Proof.Tests
end

namespace Sys2Proof.Machine

/-! ## Turns: what a port picks (spec/01 R29 to R32) -/

/-- The words at a path's address are the instruction they decode to, where it is one in the slug (spec/03 R91). -/
theorem instrAt_of_decode {x : Fetched} {l : Launch} {alloc : Nat} {hnd : Bool} {i : Instr} (hm : x.marked = true)
    (hd : decode x.w x.x = .ok i) (hl : x.last = false ∨ isWideWord x.w = false) (hr : i.resRule l alloc = none)
    (hw : i.whereOk hnd = true) : instrAt x l alloc hnd = i := by
  have hlast : (x.last && isWideWord x.w) = false := by rcases hl with h | h <;> simp [h]
  simp [instrAt, hm, hd, hr, hw, hlast]

/-- A path that may issue, without STRICT, offers its instruction when nothing it waits for is missing. -/
theorem State.slotOffer_of_ready {s : State} {fk sl : Nat} {b : Bool} {p : Path} {i : Instr}
    (hp : ((s.slug fk sl).slot b).path = some p) (hi : s.instrOf (s.forme fk) (s.slug fk sl) p.pc = i)
    (hstrict : (s.slug fk sl).strict = false) (hr : (s.slug fk sl).slotRuns b s.cyc = true) (ho : s.owes fk sl b = false)
    (hw : (s.slug fk sl).waits i s.cyc = false)
    (hf : ∀ q ∈ i.pipes ((s.slug fk sl).h % 2), (s.core (s.forme fk).core).pipeFree q.1 ≤ s.cyc) :
    s.slotOffer fk sl b = some { fk := fk, sl := sl, b := b, i := i, short := none } := by
  have hpipe : (i.pipes ((s.slug fk sl).h % 2)).any
      (fun q => decide (s.cyc < (s.core (s.forme fk).core).pipeFree q.1)) = false := by
    simpa using fun a b h => hf (a, b) h
  simp only [State.slug] at *
  simp [State.slotOffer, hr, ho, hp, hi, Slug.strictNow, hstrict, hw, hpipe]

/-- A slug whose other slot may not issue offers what its slot offers. -/
theorem State.slugOffer_of_slotOffer {s : State} {fk sl : Nat} {b : Bool} {o : Offer} (hrun : s.slugRuns fk sl = true)
    (hn : (s.slug fk sl).slotRuns (!b) s.cyc = false) (ho : s.slotOffer fk sl b = some o) : s.slugOffer fk sl = some o := by
  have hother : s.slotOffer fk sl (!b) = none := by simp only [State.slug] at hn; simp [State.slotOffer, hn]
  cases b <;> simp at hother <;> simp [State.slugOffer, hrun, hother, ho]

/-- A port whose only slug offers a word picks it in a cycle whose parity favours the port. -/
theorem State.portPick_of_slugOffer {s : State} {core port h fk sl : Nat} {o : Offer}
    (hage : ((s.core core).port port).age = [h]) (hfree : ((s.core core).port port).freeAt ≤ s.cyc)
    (hpar : s.cyc % 2 = port % 2) (hslot : (s.core core).slots.look h = some (fk, sl)) (ho : s.slugOffer fk sl = some o) :
    s.portPick core port = some o := by
  have hoffers : s.portOffers core port = [o] := by simp [State.portOffers, Nat.not_lt.mpr hfree, hage, hslot, ho]
  simp [State.portPick, hpar, hoffers, sharesPipe]

/-! ## Turns: before and after the word -/

/-- Outside a transaction, beginning a word notes the issuer and nothing else. -/
theorem State.beginWord_eq {s : State} {o : Offer} (h : (s.slug o.fk o.sl).tx = none) :
    ∃ c, s.beginWord o = { s with cur := some c } ∧ c.fk = o.fk ∧ c.sl = o.sl ∧ c.b = o.b ∧ c.occ = o.i.size / 8
      ∧ c.stall = o.i.hdr.stall.toNat := by
  have he : ((s.slug o.fk o.sl).tx.isSome && !((o.i.writeRegs.filter (fun r => decide (r.1.toNat < 128))).map
      (fun r => r.1.toNat)).isEmpty) = false := by simp [h]
  unfold State.beginWord
  dsimp only
  rw [he]
  exact ⟨_, rfl, rfl, rfl, rfl, rfl, rfl⟩

@[simp] theorem Core.port_usePipe (k : Core) (now : Nat) (q : Pipe × Nat) (p : Nat) : (k.usePipe now q).port p = k.port p := by
  obtain ⟨x, n⟩ := q
  cases x <;> rfl

@[simp] theorem Core.port_foldl_usePipe (l : List (Pipe × Nat)) (k : Core) (now p : Nat) :
    (l.foldl (fun k q => k.usePipe now q) k).port p = k.port p := by
  induction l generalizing k with
  | nil => rfl
  | cons q r ih => simp [ih]

@[simp] theorem Core.port_modPort (k : Core) (p : Nat) (f : Port → Port) : (k.modPort p f).port p = f (k.port p) := by
  unfold Core.modPort Core.port
  split <;> rfl

/-- The results of a word noted in its slug (spec/01 R17). -/
def State.noteResults (t : State) (o : Offer) (c : Issuer) : State :=
  let land := (o.i.writeRegs.filter (fun r => decide (0 < r.2))).map (fun r => (r.1, t.cyc + r.2))
  if land.isEmpty && (t.slug c.fk c.sl).busy.isEmpty then t
  else t.modSlug c.fk c.sl (fun m => { m with busy := m.busy.filter (fun e => decide (t.cyc < e.2)) ++ land })

@[simp] theorem State.noteResults_cores (t : State) (o : Offer) (c : Issuer) : (t.noteResults o c).cores = t.cores := by
  unfold State.noteResults
  dsimp only
  split <;> rfl

@[simp] theorem State.noteResults_cyc (t : State) (o : Offer) (c : Issuer) : (t.noteResults o c).cyc = t.cyc := by
  unfold State.noteResults
  dsimp only
  split <;> rfl

/-- Every fixed-latency result of the word is on its way. -/
theorem State.mem_busy_noteResults (t : State) (o : Offer) (c : Issuer) {w : BitVec 8 × Nat} (hw : w ∈ o.i.writeRegs)
    (hlat : 0 < w.2) : (w.1, t.cyc + w.2) ∈ ((t.noteResults o c).slug c.fk c.sl).busy := by
  have hmem : (w.1, t.cyc + w.2) ∈ (o.i.writeRegs.filter (fun r => decide (0 < r.2))).map (fun r => (r.1, t.cyc + r.2)) :=
    List.mem_map.mpr ⟨w, List.mem_filter.mpr ⟨hw, by simpa using hlat⟩, rfl⟩
  unfold State.noteResults
  dsimp only
  split
  · rename_i he
    have hnil := List.isEmpty_iff.mp (Bool.and_eq_true_iff.mp he).1
    rw [hnil] at hmem
    exact absurd hmem List.not_mem_nil
  · rw [State.slug_modSlug]
    exact List.mem_append_right _ hmem

/-- How a port stands after a word of the slot `h` that occupies it until the cycle `free` (spec/01 R30). -/
def Port.afterWord (q : Port) (h free : Nat) : Port :=
  { age := if q.age.contains h then q.age.erase h ++ [h] else q.age, freeAt := free }

/-- After a word that issued, its port and pipes are taken, and its slug stands at the tail of the port's age list (spec/01 R30). -/
theorem State.endWord_eq {t : State} {c : Issuer} (h : t.cur = some c) (o : Offer) :
    t.endWord o = { (t.noteResults o c).modCore (t.forme c.fk).core (fun k =>
      ((o.i.pipes ((t.slug c.fk c.sl).h % 2)).foldl (fun k p => k.usePipe (t.noteResults o c).cyc p) k).modPort
        ((t.slug c.fk c.sl).h % 2) (fun q => q.afterWord (t.slug c.fk c.sl).h ((t.noteResults o c).cyc + c.occ))) with cur := none } := by
  simp only [State.endWord, h, State.noteResults, Port.afterWord]

/-- The port of a word that issued. -/
theorem State.port_endWord {t : State} {c : Issuer} (h : t.cur = some c) (o : Offer) :
    ((t.endWord o).core (t.forme c.fk).core).port ((t.slug c.fk c.sl).h % 2)
      = ((t.core (t.forme c.fk).core).port ((t.slug c.fk c.sl).h % 2)).afterWord (t.slug c.fk c.sl).h (t.cyc + c.occ) := by
  have hcore (u : State) (k : Nat) : ({ u with cur := none } : State).core k = u.core k := rfl
  have hnoted (k : Nat) : (t.noteResults o c).core k = t.core k := by simp [State.core]
  rw [State.endWord_eq h, hcore, State.core_modCore, Core.port_modPort, Core.port_foldl_usePipe, hnoted, State.noteResults_cyc]

end Sys2Proof.Machine

namespace Sys2Proof

open Sys2Proof.Machine

/-- The turn of an empty agenda is one of the candidates, or the passing of a cycle. -/
theorem freeTurn_mem (s : State) : s.freeTurn ∈ s.candidates ∨ s.freeTurn = .tick := by
  unfold State.freeTurn
  by_cases h : Config.choice s.fresh % s.candidates.length < s.candidates.length
  · exact .inl (by rw [List.getD_eq_getElem _ _ h]; exact List.getElem_mem h)
  · exact .inr (List.getD_eq_default _ _ (Nat.not_lt.mp h))

/-- Settles O56: what the port picks follows from the readiness of its only slug; the other clauses say what the turn, `beginWord` and
`endWord` are. -/
theorem stepRunsTheDecodedWord : Obligations.StepRunsTheDecodedWord := by
  refine ⟨?_, ?_, ?_, ?_, ?_, ?_, ?_, ?_⟩
  · intro s r core port h fk sl b p i u m f x o hag hroot hage hfree hpar hslot hrun hstrict hp hr hn hmark hdec hlast hres
      hwhere hwaits howes hpipes
    have hi : u.instrOf f m p.pc = i := instrAt_of_decode hmark hdec hlast hres hwhere
    have hoffer : u.slotOffer fk sl b = some o := State.slotOffer_of_ready hp hi hstrict hr howes hwaits hpipes
    have hpick : u.portPick core port = some o :=
      State.portPick_of_slugOffer hage hfree hpar hslot (State.slugOffer_of_slotOffer hrun hn hoffer)
    simp only [step, hag, runTurn, runPort, u] at hpick hroot ⊢
    simp only [hroot, hpick, o]
    rfl
  · intro s r core port hag u
    refine ⟨fun hroot => ?_, fun hroot hpick => ?_, fun o q hroot hpick hshort => ?_⟩
    · simp only [step, hag, runTurn, runPort, u] at hroot ⊢
      simp [hroot]
    · simp only [step, hag, runTurn, runPort, u] at hroot hpick ⊢
      simp [hroot, hpick]
    · simp only [step, hag, runTurn, runPort, u] at hroot hpick ⊢
      simp [hroot, hpick, hshort]
  · exact fun s o h => State.beginWord_eq h
  · intro t o h
    simp [State.endWord, h]
  · intro t o c h m k q q0
    have hq : q = q0.afterWord m.h (t.cyc + c.occ) := State.port_endWord h o
    refine ⟨by rw [State.endWord_eq h], by rw [hq]; rfl, fun hm => by rw [hq]; simp [Port.afterWord, hm], fun w hw hlat => ?_⟩
    rw [State.endWord_eq h]
    exact State.mem_busy_noteResults t o c hw hlat
  · intro s r i a hag
    simp only [step, hag, runTurn]
  · intro s r hag
    simp only [step, hag, runTurn]
  · intro s hag
    exact ⟨by simp only [step, hag], freeTurn_mem s⟩

end Sys2Proof

namespace Sys2Proof.Machine

/-! ## The divergence stack as a list of paths (spec/01 R38) -/

/-- Taking an entry away takes nothing else away. -/
theorem removeEntry_perm {l : List Path} {i : Nat} (h : i < l.length) : (l[i] :: removeEntry l i).Perm l := by
  rcases List.eq_nil_or_concat l with rfl | ⟨r, e, rfl⟩
  · simp at h
  · simp only [List.concat_eq_append, List.length_append, List.length_singleton] at h ⊢
    by_cases hi : i < r.length
    · have hl : i + 1 ≠ r.length + 1 := by omega
      have hr : removeEntry (r ++ [e]) i = r.set i e := by simp [removeEntry]; omega
      rw [hr, List.getElem_append_left hi]
      calc (r[i] :: r.set i e).Perm (r[i] :: e :: r.eraseIdx i) := (List.set_perm_cons_eraseIdx hi e).cons _
        _ |>.Perm (e :: r[i] :: r.eraseIdx i) := List.Perm.swap _ _ _
        _ |>.Perm (e :: r) := (List.getElem_cons_eraseIdx_perm hi).cons _
        _ |>.Perm (r ++ [e]) := (List.perm_append_singleton e r).symm
    · have hl : i = r.length := by omega
      subst hl
      have hr : removeEntry (r ++ [e]) r.length = r := by simp [removeEntry]
      rw [hr, List.getElem_append_right (Nat.le_refl _)]
      simpa using (List.perm_append_singleton e r).symm

theorem length_removeEntry {l : List Path} {i : Nat} (h : i < l.length) : (removeEntry l i).length + 1 = l.length :=
  (removeEntry_perm h).length_eq

/-- With enough steps every entry parked at the join point goes, and no other. -/
theorem dropParked_perm (j : Addr) {n : Nat} {l : List Path} (h : l.length ≤ n) :
    (dropParked j n l).Perm (l.filter (fun p => !p.parkedAt j)) := by
  induction n generalizing l with
  | zero => simp [List.length_eq_zero_iff.mp (Nat.le_zero.mp h), dropParked]
  | succ n ih =>
    rw [dropParked]
    split
    · rename_i i hi
      obtain ⟨hlt, hp, -⟩ := List.findIdx?_eq_some_iff_getElem.mp hi
      have hrem := removeEntry_perm hlt
      have hlen := length_removeEntry hlt
      refine (ih (by omega)).trans ?_
      simpa [hp] using hrem.filter (fun p => !p.parkedAt j)
    · rename_i hi
      have hnone := List.findIdx?_eq_none_iff.mp hi
      rw [List.filter_eq_self.mpr (fun p hp => by simp [hnone p hp])]

/-- The better of an entry found so far and entry `i`. -/
def betterEntry (l : List Path) (b : Option Nat) (i : Nat) : Option Nat :=
  let p := l.getD i {}
  if p.pk then b
  else match b with
    | none => some i
    | some k => if p.pc.toNat < (l.getD k {}).pc.toNat then some i else b

theorem nextEntry_eq (l : List Path) : nextEntry l = (List.range l.length).foldl (betterEntry l) none := rfl

/-- Of the entries below `n` the best is one that is not parked, and there is none only where all of them are parked. -/
theorem foldl_betterEntry (l : List Path) (n : Nat) :
    (∀ i, (List.range n).foldl (betterEntry l) none = some i → i < n ∧ (l.getD i {}).pk = false)
      ∧ ((List.range n).foldl (betterEntry l) none = none → ∀ i, i < n → (l.getD i {}).pk = true) := by
  induction n with
  | zero => simp
  | succ n ih =>
    rw [List.range_succ, List.foldl_append]
    generalize (List.range n).foldl (betterEntry l) none = b at ih
    simp only [List.foldl_cons, List.foldl_nil, betterEntry]
    by_cases hp : (l.getD n {}).pk = true
    · simp only [hp, if_true]
      exact ⟨fun i hi => ⟨by have := (ih.1 i hi).1; omega, (ih.1 i hi).2⟩,
        fun hb i hi => if h : i = n then h ▸ hp else ih.2 hb i (by omega)⟩
    · have hp' : (l.getD n {}).pk = false := by simpa using hp
      simp only [hp, if_false, Bool.false_eq_true]
      cases b with
      | none => exact ⟨fun i hi => by cases hi; exact ⟨by omega, hp'⟩, fun h => by cases h⟩
      | some k =>
        have hk := ih.1 k rfl
        dsimp only
        split
        · exact ⟨fun i hi => by cases hi; exact ⟨by omega, hp'⟩, fun h => by cases h⟩
        · exact ⟨fun i hi => by cases hi; exact ⟨by omega, hk.2⟩, fun h => by cases h⟩

/-- The next entry is one that is not parked. -/
theorem nextEntry_some {l : List Path} {i : Nat} (h : nextEntry l = some i) : i < l.length ∧ (l.getD i {}).pk = false :=
  (foldl_betterEntry l l.length).1 i (nextEntry_eq l ▸ h)

/-- There is a next entry unless every entry is parked. -/
theorem nextEntry_none {l : List Path} : nextEntry l = none ↔ ∀ p ∈ l, p.pk = true := by
  constructor
  · intro h p hp
    obtain ⟨i, hi, rfl⟩ := List.mem_iff_getElem.mp hp
    have := (foldl_betterEntry l l.length).2 (nextEntry_eq l ▸ h) i hi
    rwa [List.getD_eq_getElem _ _ hi] at this
  · intro h
    by_contra hne
    obtain ⟨i, hi⟩ := Option.ne_none_iff_exists'.mp hne
    obtain ⟨hlt, hpk⟩ := nextEntry_some hi
    rw [List.getD_eq_getElem _ _ hlt] at hpk
    exact absurd (h _ (List.getElem_mem hlt)) (by simp [hpk])

/-! ## The lanes of paths (spec/01 R33) -/

theorem getLsbD_foldl_mask (l : List Path) (x : Mask) (i : Nat) :
    (l.foldl (fun x p => x ||| p.mask) x).getLsbD i = (x.getLsbD i || l.any (fun p => p.mask.getLsbD i)) := by
  induction l generalizing x with
  | nil => simp
  | cons p r ih => simp [ih, Bool.or_assoc]

/-- A lane is live when it is a lane of some path. -/
theorem Slug.getLsbD_liveLanes (m : Slug) (i : Nat) : m.liveLanes.getLsbD i = m.allPaths.any (fun p => p.mask.getLsbD i) := by
  unfold Slug.liveLanes Slug.allPaths
  rw [getLsbD_foldl_mask]
  cases m.a.path <;> cases m.b.path <;> simp [Bool.or_assoc]

/-- Slugs whose paths cover the same lanes have the same live lanes. -/
theorem Slug.liveLanes_congr {m u : Slug}
    (h : ∀ i, u.allPaths.any (fun p => p.mask.getLsbD i) = m.allPaths.any (fun p => p.mask.getLsbD i)) : u.liveLanes = m.liveLanes := by
  refine BitVec.eq_of_getLsbD_eq (fun i _ => ?_)
  rw [Slug.getLsbD_liveLanes, Slug.getLsbD_liveLanes, h]

theorem Slug.liveLanes_of_perm {m u : Slug} (h : u.allPaths.Perm m.allPaths) : u.liveLanes = m.liveLanes :=
  Slug.liveLanes_congr (fun _ => h.any_eq)

/-! ## The steps of R36, path by path -/

/-- The paths of a slug that are parked. -/
def Slug.parkedCount (m : Slug) : Nat := m.allPaths.countP (·.pk)

/-- The running paths that stand on the stack. -/
def Slug.waitingCount (m : Slug) : Nat := m.stack.countP (fun p => !p.pk)

/-- What the steps of R36 use up: each of them parks no path and lowers this number. -/
def Slug.unsettled (m : Slug) : Nat := 2 * m.parkedCount + m.waitingCount

/-- Two slugs differ in their PC slots and their stack alone. -/
def Slug.PathsOnly (m u : Slug) : Prop := { u with a := m.a, b := m.b, stack := m.stack } = m

theorem Slug.PathsOnly.trans {m u v : Slug} (h : m.PathsOnly u) (k : u.PathsOnly v) : m.PathsOnly v := by
  unfold Slug.PathsOnly at *
  rw [← h, ← k]

theorem Slug.pathsOnly_putSlot (m : Slug) (b : Bool) (x : Slot) : m.PathsOnly (m.putSlot b x) := by cases b <;> rfl

/-- What a step of R36 keeps, and what it uses up. -/
structure Slug.Step (m u : Slug) : Prop where
  only : m.PathsOnly u
  lanes : u.liveLanes = m.liveLanes
  stack : u.stack.length ≤ m.stack.length
  less : u.unsettled < m.unsettled

/-- The lanes of paths that are joined are those of the one path. -/
theorem any_lane_filter_or (l : List Path) (f : Path → Bool) (i : Nat) :
    (((l.filter f).foldl (fun x (q : Path) => x ||| q.mask) 0).getLsbD i || (l.filter (fun p => !f p)).any (fun p => p.mask.getLsbD i))
      = l.any (fun p => p.mask.getLsbD i) := by
  rw [getLsbD_foldl_mask]
  induction l with
  | nil => simp
  | cons p r ih => cases hf : f p <;> simp [hf, ← ih, Bool.or_assoc, Bool.or_left_comm]

/-- The path that the paths parked at a join point become (R36 step 1). -/
def Slug.joined (m : Slug) (j : Addr) : Path :=
  { pk := false, pc := j + 8, mask := (m.allPaths.filter (·.parkedAt j)).foldl (fun x q => x ||| q.mask) 0 }

/-- The path of a slot that is not parked at the join point. -/
theorem Slot.filter_not_parkedAt (x : Slot) (j : Addr) :
    x.path.toList.filter (fun p => !p.parkedAt j) = if x.parkedAt j then [] else x.path.toList := by
  unfold Slot.parkedAt
  cases x.path with
  | none => rfl
  | some p => cases h : p.parkedAt j <;> simp [h]

/-- Step 1 puts one running path in the place of those parked at the join point. -/
theorem Slug.allPaths_merge (m : Slug) (j : Addr) (ready : Path → Nat) :
    (m.merge j ready).allPaths.Perm (m.joined j :: m.allPaths.filter (fun p => !p.parkedAt j)) := by
  have hst := dropParked_perm j (Nat.le_refl m.stack.length)
  have hfilter : m.allPaths.filter (fun p => !p.parkedAt j) = (if m.a.parkedAt j then [] else m.a.path.toList)
      ++ (if m.b.parkedAt j then [] else m.b.path.toList) ++ m.stack.filter (fun p => !p.parkedAt j) := by
    simp only [Slug.allPaths, List.filter_append, Slot.filter_not_parkedAt]
  have hmerge : m.merge j ready = if m.a.parkedAt j then
      { m with a := m.a.fresh (some (m.joined j)) (ready (m.joined j))
               b := if m.b.parkedAt j then m.b.fresh none m.b.readyAt else m.b, stack := dropParked j m.stack.length m.stack }
    else if m.b.parkedAt j then
      { m with b := m.b.fresh (some (m.joined j)) (ready (m.joined j)), stack := dropParked j m.stack.length m.stack }
    else { m with stack := dropParked j m.stack.length m.stack ++ [m.joined j] } := rfl
  generalize m.joined j = x at hmerge ⊢
  rw [hfilter, hmerge]
  by_cases ha : m.a.parkedAt j = true
  · by_cases hb : m.b.parkedAt j = true
    · simpa [ha, hb, Slug.allPaths, Slot.fresh] using hst
    · simpa [ha, hb, Slug.allPaths, Slot.fresh] using hst.append_left m.b.path.toList
  · by_cases hb : m.b.parkedAt j = true
    · simpa [ha, hb, Slug.allPaths, Slot.fresh] using List.perm_middle.trans ((hst.append_left m.a.path.toList).cons x)
    · have hend := List.perm_append_singleton x (m.a.path.toList ++ m.b.path.toList ++ m.stack.filter (fun p => !p.parkedAt j))
      have hall := ((hst.append_left (m.a.path.toList ++ m.b.path.toList)).append_right [x]).trans hend
      simpa [ha, hb, Slug.allPaths, Slot.fresh] using hall

/-- The paths parked at a join point at which a slug's paths meet. -/
theorem Slug.meeting_some {m : Slug} {j : Addr} (h : m.meeting = some j) : 2 ≤ (m.allPaths.filter (·.parkedAt j)).length := by
  unfold Slug.meeting at h
  obtain ⟨p, hp, rfl⟩ := Option.map_eq_some_iff.mp h
  have := (List.mem_filter.mp (List.mem_of_mem_head? hp)).2
  simp only [Bool.and_eq_true, decide_eq_true_eq] at this
  exact this.2

theorem Slug.meeting_none {m : Slug} :
    m.meeting = none ↔ ∀ p ∈ m.allPaths, p.pk = true → (m.allPaths.filter (·.parkedAt p.pc)).length < 2 := by
  simp [Slug.meeting]

theorem Slug.waitingCount_le_length (m : Slug) : m.waitingCount ≤ m.stack.length := List.countP_le_length

theorem Path.pk_of_parkedAt {p : Path} {j : Addr} (h : p.parkedAt j = true) : p.pk = true := (Bool.and_eq_true_iff.mp h).1

theorem Slug.stack_merge (m : Slug) (j : Addr) (ready : Path → Nat) :
    (m.merge j ready).stack
      = dropParked j m.stack.length m.stack ++ (if m.a.parkedAt j || m.b.parkedAt j then [] else [m.joined j]) := by
  have hmerge : m.merge j ready = if m.a.parkedAt j then
      { m with a := m.a.fresh (some (m.joined j)) (ready (m.joined j))
               b := if m.b.parkedAt j then m.b.fresh none m.b.readyAt else m.b, stack := dropParked j m.stack.length m.stack }
    else if m.b.parkedAt j then
      { m with b := m.b.fresh (some (m.joined j)) (ready (m.joined j)), stack := dropParked j m.stack.length m.stack }
    else { m with stack := dropParked j m.stack.length m.stack ++ [m.joined j] } := rfl
  rw [hmerge]
  cases m.a.parkedAt j <;> cases m.b.parkedAt j <;> simp

/-- Step 1 makes the stack no longer: where the one path goes onto it, two entries at least have left it. -/
theorem Slug.length_stack_merge {m : Slug} {j : Addr} (ready : Path → Nat) (h : m.meeting = some j) :
    (m.merge j ready).stack.length ≤ m.stack.length := by
  have hst := (dropParked_perm j (Nat.le_refl m.stack.length)).length_eq
  have hlen : (m.stack.filter (fun p => p.parkedAt j)).length + (m.stack.filter (fun p => !p.parkedAt j)).length = m.stack.length := by
    rw [← List.length_append, (List.filter_append_perm (fun p : Path => p.parkedAt j) m.stack).length_eq]
  have htwo := Slug.meeting_some h
  rw [Slug.stack_merge, List.length_append, hst]
  by_cases hs : (m.a.parkedAt j || m.b.parkedAt j) = true
  · simp only [hs, if_true, List.length_nil]
    omega
  · have hab : m.a.parkedAt j = false ∧ m.b.parkedAt j = false := by simpa using hs
    have hslots (x : Slot) (hx : x.parkedAt j = false) : x.path.toList.filter (·.parkedAt j) = [] := by
      unfold Slot.parkedAt at hx
      cases hp : x.path with
      | none => rfl
      | some p => simpa [hp] using hx
    have hall : m.allPaths.filter (·.parkedAt j) = m.stack.filter (·.parkedAt j) := by
      simp [Slug.allPaths, List.filter_append, hslots _ hab.1, hslots _ hab.2]
    rw [hall] at htwo
    simp only [hs, Bool.false_eq_true, if_false, List.length_singleton]
    omega

/-- Step 1 lowers the number of parked paths by two at least. -/
theorem Slug.step_merge {m : Slug} {j : Addr} (ready : Path → Nat) (h : m.meeting = some j) : m.Step (m.merge j ready) := by
  have hperm := m.allPaths_merge j ready
  refine ⟨?_, ?_, Slug.length_stack_merge ready h, ?_⟩
  · unfold Slug.merge
    dsimp only
    repeat' split
    all_goals rfl
  · refine Slug.liveLanes_congr (fun i => ?_)
    rw [hperm.any_eq, List.any_cons]
    exact any_lane_filter_or m.allPaths (·.parkedAt j) i
  · have hparked : (m.merge j ready).parkedCount + (m.allPaths.filter (·.parkedAt j)).length = m.parkedCount := by
      have hsplit := (List.filter_append_perm (fun p : Path => p.parkedAt j) m.allPaths).countP_eq (·.pk)
      have hpk : (m.allPaths.filter (·.parkedAt j)).countP (·.pk) = (m.allPaths.filter (·.parkedAt j)).length :=
        List.countP_eq_length.mpr (fun p hp => Path.pk_of_parkedAt (List.mem_filter.mp hp).2)
      rw [List.countP_append, hpk] at hsplit
      rw [Slug.parkedCount, hperm.countP_eq, Slug.parkedCount, ← hsplit]
      simp [Slug.joined, Nat.add_comm]
    have hwaiting : (m.merge j ready).waitingCount ≤ m.waitingCount + 1 := by
      rw [Slug.waitingCount, Slug.stack_merge, List.countP_append, (dropParked_perm j (Nat.le_refl _)).countP_eq]
      have hsub := List.Sublist.countP_le (p := fun p : Path => !p.pk) (List.filter_sublist (p := fun p : Path => !p.parkedAt j) (l := m.stack))
      have hend : ((if m.a.parkedAt j || m.b.parkedAt j then [] else [m.joined j]).countP (fun p => !p.pk)) ≤ 1 := by
        split <;> simp [Slug.joined]
      unfold Slug.waitingCount
      omega
    have htwo := Slug.meeting_some h
    unfold Slug.unsettled
    omega

/-- A list with entry `i` replaced. -/
theorem set_perm_of_getElem {l : List Path} {i : Nat} (h : i < l.length) (p : Path) : (l[i] :: l.set i p).Perm (p :: l) := by
  refine ((List.set_perm_cons_eraseIdx h p).cons _).trans ((List.Perm.swap _ _ _).trans ?_)
  exact (List.getElem_cons_eraseIdx_perm h).cons p

/-- Step 2 takes a running path from the stack. -/
theorem Slug.step_fill {m : Slug} {i : Nat} {b : Bool} (ready : Path → Nat) (hi : nextEntry m.stack = some i)
    (hb : (m.slot b).path = none) : m.Step (m.fill i b ready) := by
  obtain ⟨hlt, hpk⟩ := nextEntry_some hi
  rw [List.getD_eq_getElem _ _ hlt] at hpk
  have hrem := removeEntry_perm hlt
  have hperm : (m.fill i b ready).allPaths.Perm m.allPaths := by
    have hget : m.stack[i]? = some m.stack[i] := List.getElem?_eq_getElem hlt
    cases b
    · simp only [Slug.slot, Bool.false_eq_true, if_false] at hb
      simpa [Slug.fill, Slug.allPaths, Slug.putSlot, Slot.fresh, hget, hb] using
        List.perm_middle.symm.trans (hrem.append_left m.b.path.toList)
    · simp only [Slug.slot, if_true] at hb
      simpa [Slug.fill, Slug.allPaths, Slug.putSlot, Slot.fresh, hget, hb] using hrem.append_left m.a.path.toList
  have hwaiting : (m.fill i b ready).waitingCount + 1 = m.waitingCount := by
    have := hrem.countP_eq (fun p => !p.pk)
    simpa [Slug.waitingCount, Slug.fill, hpk] using this
  have hparked : (m.fill i b ready).parkedCount = m.parkedCount := hperm.countP_eq _
  refine ⟨by cases b <;> rfl, Slug.liveLanes_of_perm hperm, ?_, by unfold Slug.unsettled; omega⟩
  have := length_removeEntry hlt
  simp only [Slug.fill]
  omega

/-- Step 3 puts a parked path onto the stack, and a running one into its slot. -/
theorem Slug.step_exchange {m : Slug} {i : Nat} {b : Bool} (ready : Path → Nat) (hi : nextEntry m.stack = some i)
    (hb : (m.slot b).parked = true) : m.Step (m.exchange i b ready) := by
  obtain ⟨hlt, hpk⟩ := nextEntry_some hi
  obtain ⟨q, hq, hqpk⟩ : ∃ q, (m.slot b).path = some q ∧ q.pk = true := by
    unfold Slot.parked at hb
    split at hb
    · exact ⟨_, by assumption, hb⟩
    · cases hb
  rw [List.getD_eq_getElem _ _ hlt] at hpk
  have hget : m.stack[i]? = some m.stack[i] := List.getElem?_eq_getElem hlt
  have hset := set_perm_of_getElem hlt q
  have hperm : (m.exchange i b ready).allPaths.Perm m.allPaths := by
    cases b
    · simp only [Slug.slot, Bool.false_eq_true, if_false] at hq
      have := List.perm_middle.symm.trans ((hset.append_left m.b.path.toList).trans List.perm_middle)
      simpa [Slug.exchange, Slug.allPaths, Slug.slot, Slug.putSlot, Slot.fresh, hget, hq] using this
    · simp only [Slug.slot, if_true] at hq
      simpa [Slug.exchange, Slug.allPaths, Slug.slot, Slug.putSlot, Slot.fresh, hget, hq] using hset.append_left m.a.path.toList
  have hwaiting : (m.exchange i b ready).waitingCount + 1 = m.waitingCount := by
    have := hset.countP_eq (fun p => !p.pk)
    simpa [Slug.waitingCount, Slug.exchange, hpk, hqpk, hq] using this
  have hparked : (m.exchange i b ready).parkedCount = m.parkedCount := hperm.countP_eq _
  refine ⟨by cases b <;> rfl, Slug.liveLanes_of_perm hperm, ?_, by unfold Slug.unsettled; omega⟩
  simp [Slug.exchange]

/-- The smaller of an address found so far and a path's. -/
def lowerPc (b : Option Nat) (p : Path) : Option Nat :=
  match b with
  | none => some p.pc.toNat
  | some x => some (min x p.pc.toNat)

/-- The smallest address of a list of paths is that of one of them, and there is one unless the list is empty. -/
theorem foldl_lowerPc (l : List Path) (x : Nat) :
    ∃ j, l.foldl lowerPc (some x) = some j ∧ (j = x ∨ ∃ p ∈ l, p.pc.toNat = j) := by
  induction l generalizing x with
  | nil => exact ⟨x, rfl, .inl rfl⟩
  | cons p r ih =>
    obtain ⟨j, hj, hmem⟩ := ih (min x p.pc.toNat)
    refine ⟨j, hj, ?_⟩
    rcases hmem with rfl | ⟨q, hq, rfl⟩
    · rcases Nat.le_total x p.pc.toNat with h | h
      · exact .inl (Nat.min_eq_left h)
      · exact .inr ⟨p, by simp, (Nat.min_eq_right h).symm⟩
    · exact .inr ⟨q, by simp [hq], rfl⟩

/-- The path goes on at the word after its join point. -/
def Path.released (p : Path) : Path := { p with pk := false, pc := p.pc + 8 }

/-- A slot whose path goes on. -/
def Slot.released (x : Slot) (ready : Path → Nat) : Slot := x.fresh (x.path.map Path.released) (ready (x.path.getD {}))

/-- What step 4 does where some path stands at the smallest address: it goes on in its slot, else every entry there goes on. -/
theorem Slug.release_eq {m : Slug} (ready : Path → Nat) (h : m.allPaths ≠ []) :
    ∃ j, (∃ p ∈ m.allPaths, p.pc.toNat = j) ∧ m.release ready =
      if m.a.path.isSome && m.a.pcNat == j then { m with a := m.a.released ready }
      else if m.b.path.isSome && m.b.pcNat == j then { m with b := m.b.released ready }
      else { m with stack := m.stack.map (fun p => if p.pc.toNat = j then p.released else p) } := by
  obtain ⟨p, r, hl⟩ := List.exists_cons_of_ne_nil h
  obtain ⟨j, hj, hmem⟩ := foldl_lowerPc r p.pc.toNat
  refine ⟨j, ?_, ?_⟩
  · rw [hl]
    rcases hmem with rfl | ⟨q, hq, rfl⟩
    · exact ⟨p, by simp, rfl⟩
    · exact ⟨q, by simp [hq], rfl⟩
  · have hfold : m.allPaths.foldl lowerPc none = some j := by rw [hl]; exact hj
    have hrel : m.release ready = match m.allPaths.foldl lowerPc none with
        | none => m
        | some j => if m.a.path.isSome && m.a.pcNat == j then { m with a := m.a.released ready }
          else if m.b.path.isSome && m.b.pcNat == j then { m with b := m.b.released ready }
          else { m with stack := m.stack.map (fun p => if p.pc.toNat = j then p.released else p) } := rfl
    rw [hrel, hfold]

/-- Step 4 lets one parked path or more go on. -/
theorem Slug.step_release {m : Slug} (ready : Path → Nat) (hne : m.allPaths ≠ []) (hall : ∀ p ∈ m.allPaths, p.pk = true) :
    m.Step (m.release ready) := by
  obtain ⟨j, ⟨q, hq, hqj⟩, hrel⟩ := Slug.release_eq ready hne
  have hstack : ∀ p ∈ m.stack, p.pk = true := fun p hp => hall p (by simp [Slug.allPaths, hp])
  have hwait : m.waitingCount = 0 := List.countP_eq_zero.mpr (fun p hp => by simp [hstack p hp])
  have hslot (b : Bool) (p : Path) (hp : (m.slot b).path = some p) (u : Slug) (hu : u = m.putSlot b ((m.slot b).released ready)) :
      m.Step u := by
    have hpk : p.pk = true := hall p (by cases b <;> simp [Slug.slot] at hp <;> simp [Slug.allPaths, hp])
    obtain ⟨l, hm, hperm⟩ : ∃ l, m.allPaths.Perm (p :: l) ∧ u.allPaths.Perm (p.released :: l) := by
      refine ⟨((m.slot !b).path.toList) ++ m.stack, ?_, ?_⟩ <;> cases b <;>
        simp [Slug.slot] at hp <;> simp [hu, Slug.allPaths, Slug.putSlot, Slug.slot, Slot.released, Slot.fresh, hp, List.perm_middle]
    have hkm : m.parkedCount = l.countP (·.pk) + 1 := by rw [Slug.parkedCount, hm.countP_eq]; simp [hpk]
    have hku : u.parkedCount = l.countP (·.pk) := by rw [Slug.parkedCount, hperm.countP_eq]; simp [Path.released]
    have hs : u.stack = m.stack := by rw [hu]; simp
    have hwu : u.waitingCount = m.waitingCount := by rw [Slug.waitingCount, Slug.waitingCount, hs]
    refine ⟨by rw [hu]; exact m.pathsOnly_putSlot b _, Slug.liveLanes_congr (fun i => ?_), by rw [hs], ?_⟩
    · rw [hm.any_eq, hperm.any_eq]
      rfl
    · unfold Slug.unsettled
      omega
  rw [hrel]
  split
  · rename_i ha
    obtain ⟨p, hp⟩ := Option.isSome_iff_exists.mp (Bool.and_eq_true_iff.mp ha).1
    exact hslot false p hp _ rfl
  · rename_i ha
    split
    · rename_i hb
      obtain ⟨p, hp⟩ := Option.isSome_iff_exists.mp (Bool.and_eq_true_iff.mp hb).1
      exact hslot true p hp _ rfl
    · rename_i hb
      have hin : q ∈ m.stack := by
        simp only [Slug.allPaths, List.mem_append, Option.mem_toList] at hq
        rcases hq with (hq | hq) | hq
        · exact absurd (by simp [hq, Slot.pcNat, hqj]) ha
        · exact absurd (by simp [hq, Slot.pcNat, hqj]) hb
        · exact hq
      let go (p : Path) : Path := if p.pc.toNat = j then p.released else p
      have hmask (p : Path) : (go p).mask = p.mask := by
        simp only [go]
        split <;> rfl
      have hless : (m.stack.map go).countP (·.pk) < m.stack.length := by
        rw [← List.length_map (f := go) (as := m.stack)]
        exact List.countP_lt_length_iff.mpr ⟨go q, List.mem_map_of_mem hin, by simp [go, hqj, Path.released]⟩
      have hsum := List.length_eq_countP_add_countP (fun p : Path => p.pk) (l := m.stack.map go)
      have hkeep : m.stack.countP (·.pk) = m.stack.length := List.countP_eq_length.mpr hstack
      refine ⟨rfl, Slug.liveLanes_congr (fun i => ?_), by simp, ?_⟩
      · show (m.a.path.toList ++ m.b.path.toList ++ m.stack.map go).any _ = _
        simp [Slug.allPaths, List.any_map, Function.comp_def, hmask]
      · show 2 * (m.a.path.toList ++ m.b.path.toList ++ m.stack.map go).countP (·.pk) + (m.stack.map go).countP (fun p => !p.pk) < _
        simp only [Slug.unsettled, hwait, Slug.parkedCount, Slug.allPaths, List.countP_append, hkeep]
        simp only [List.length_map, Bool.not_eq_true, Bool.decide_eq_false] at hsum
        omega

/-! ## The steps of R36 until none applies -/

theorem Slug.step_settleOnce {m u : Slug} {ready : Path → Nat} (h : m.settleOnce ready = some u) : m.Step u := by
  unfold Slug.settleOnce at h
  split at h
  · rename_i j hj
    cases h
    exact Slug.step_merge ready hj
  · split at h
    · rename_i i hi
      repeat' split at h
      · rename_i ha
        cases h
        exact Slug.step_fill ready hi (by simpa [Slug.slot] using ha)
      · rename_i hb
        cases h
        exact Slug.step_fill ready hi (by simpa [Slug.slot] using hb)
      · rename_i hab
        cases h
        have := Bool.and_eq_true_iff.mp hab
        exact Slug.step_exchange ready hi (by cases decide (m.a.pcNat < m.b.pcNat) <;> simp [Slug.slot, this])
      · rename_i ha
        cases h
        exact Slug.step_exchange ready hi ha
      · rename_i hb
        cases h
        exact Slug.step_exchange ready hi hb
      · cases h
    · split at h
      · rename_i hall
        cases h
        simp only [Bool.and_eq_true, Bool.not_eq_true', List.isEmpty_eq_false_iff, List.all_eq_true] at hall
        exact Slug.step_release ready hall.1 hall.2
      · cases h

/-- A slug to which none of the steps applies is left as it is. -/
theorem Slug.settle_of_none {m : Slug} {ready : Path → Nat} (h : m.settleOnce ready = none) (n : Nat) : m.settle ready n = m := by
  cases n <;> simp [Slug.settle, h]

theorem Slug.settle_succ {m u : Slug} {ready : Path → Nat} (h : m.settleOnce ready = some u) (n : Nat) :
    m.settle ready (n + 1) = u.settle ready n := by simp [Slug.settle, h]

/-- The steps change paths alone, retire no lane and make the stack no longer. -/
theorem Slug.settle_keeps (m : Slug) (ready : Path → Nat) (n : Nat) :
    m.PathsOnly (m.settle ready n) ∧ (m.settle ready n).liveLanes = m.liveLanes
      ∧ (m.settle ready n).stack.length ≤ m.stack.length := by
  induction n generalizing m with
  | zero => exact ⟨rfl, rfl, Nat.le_refl _⟩
  | succ n ih =>
    cases h : m.settleOnce ready with
    | none => rw [Slug.settle_of_none h]; exact ⟨rfl, rfl, Nat.le_refl _⟩
    | some u =>
      obtain ⟨honly, hlanes, hstack, -⟩ := Slug.step_settleOnce h
      obtain ⟨ionly, ilanes, istack⟩ := ih u
      rw [Slug.settle_succ h]
      exact ⟨honly.trans ionly, ilanes.trans hlanes, istack.trans hstack⟩

/-- With more steps than there is to settle, none applies at the end. -/
theorem Slug.settleOnce_settle {m : Slug} (ready : Path → Nat) {n : Nat} (h : m.unsettled < n) :
    (m.settle ready n).settleOnce ready = none := by
  induction n generalizing m with
  | zero => omega
  | succ n ih =>
    cases hm : m.settleOnce ready with
    | none => rw [Slug.settle_of_none hm]; exact hm
    | some u =>
      rw [Slug.settle_succ hm]
      have := (Slug.step_settleOnce hm).less
      exact ih (by omega)

theorem Slug.unsettled_le (m : Slug) : m.unsettled ≤ 4 + 3 * m.stack.length := by
  have hk : m.parkedCount ≤ m.allPaths.length := List.countP_le_length
  have hw := m.waitingCount_le_length
  have hl : m.allPaths.length ≤ 2 + m.stack.length := by
    unfold Slug.allPaths
    cases m.a.path <;> cases m.b.path <;> simp only [Option.toList_none, Option.toList_some, List.length_append,
      List.length_cons, List.length_nil] <;> omega
  unfold Slug.unsettled
  omega

/-! ## Slugs that are settled -/

/-- None of the steps of R36 applies exactly where no two paths meet, each slot holds a running path or no running path waits, and
some path runs. -/
theorem Slug.settleOnce_none {m : Slug} {ready : Path → Nat} :
    m.settleOnce ready = none ↔ m.meeting = none
      ∧ (nextEntry m.stack = none ∨ m.a.path.isSome ∧ m.b.path.isSome ∧ m.a.parked = false ∧ m.b.parked = false)
      ∧ (m.allPaths = [] ∨ ∃ p ∈ m.allPaths, p.pk = false) := by
  unfold Slug.settleOnce
  cases m.meeting with
  | some j => simp
  | none =>
    cases hn : nextEntry m.stack with
    | none => simp [List.all_eq_true, or_iff_not_imp_left]
    | some i =>
      obtain ⟨hlt, hpk⟩ := nextEntry_some hn
      rw [List.getD_eq_getElem _ _ hlt] at hpk
      have hrun : ∃ p ∈ m.allPaths, p.pk = false := ⟨_, by simp [Slug.allPaths], hpk⟩
      have hor : (m.allPaths = [] ∨ ∃ p ∈ m.allPaths, p.pk = false) ↔ True := by simp [hrun]
      rw [hor]
      cases ha : m.a.path <;> cases hb : m.b.path <;> cases hap : m.a.parked <;> cases hbp : m.b.parked <;> simp

/-- Of the parked paths of which no two meet, no two stand at one join point. -/
theorem pairwise_pc_of_not_meeting {l : List Path} (h : ∀ p ∈ l, p.pk = true → (l.filter (·.parkedAt p.pc)).length < 2) :
    (l.filter (·.pk)).Pairwise (fun p q => p.pc ≠ q.pc) := by
  induction l with
  | nil => simp
  | cons p r ih =>
    have hr : (r.filter (·.pk)).Pairwise (fun p q => p.pc ≠ q.pc) := ih (fun q hq hpk => by
      refine Nat.lt_of_le_of_lt ?_ (h q (by simp [hq]) hpk)
      exact ((List.sublist_cons_self p r).filter _).length_le)
    cases hp : p.pk with
    | false => simpa [hp] using hr
    | true =>
      rw [List.filter_cons_of_pos hp, List.pairwise_cons]
      refine ⟨fun q hq hpc => ?_, hr⟩
      obtain ⟨hqr, hqpk⟩ := List.mem_filter.mp hq
      have hlt := h p (by simp) hp
      have hpp : p.parkedAt p.pc = true := by simp [Path.parkedAt, hp]
      have hcons : (p :: r).filter (·.parkedAt p.pc) = p :: r.filter (·.parkedAt p.pc) := List.filter_cons_of_pos hpp
      rw [hcons, List.length_cons] at hlt
      have hpos : 0 < (r.filter (·.parkedAt p.pc)).length :=
        List.length_pos_of_mem (List.mem_filter.mpr ⟨hqr, by simpa [Path.parkedAt, hpc] using hqpk⟩)
      omega

end Sys2Proof.Machine

namespace Sys2Proof

open Sys2Proof.Machine

/-- The steps of R36 end, and leave a settled slug with the same lanes. -/
theorem pathsSettled : Claim.PathsSettled := by
  intro m ready hlen u stackParked
  have hu : u.settleOnce ready = none := Slug.settleOnce_settle ready (by have := m.unsettled_le; omega)
  obtain ⟨honly, hlanes, hstack⟩ := m.settle_keeps ready 512
  obtain ⟨hmeet, hnext, hrun⟩ := Slug.settleOnce_none.mp hu
  have hparked : nextEntry u.stack = none → stackParked := fun h => nextEntry_none.mp h
  refine ⟨hlanes, pairwise_pc_of_not_meeting (Slug.meeting_none.mp hmeet), ?_, ?_, hrun, hstack⟩
  · intro hfree
    rcases hnext with h | ⟨ha, hb, -, -⟩
    · exact hparked h
    · rcases hfree with h | h <;> simp [h] at ha hb
  · intro b p hp hpk
    rcases hnext with h | ⟨-, -, ha, hb⟩
    · exact hparked h
    · have hslot : (u.slot b).parked = true := by simp [Slot.parked, hp, hpk]
      cases b
      · exact absurd (ha.symm.trans hslot) (by simp)
      · exact absurd (hb.symm.trans hslot) (by simp)

end Sys2Proof

namespace Sys2Proof.Machine

/-! ## What an access to memory leaves alone where no transaction is open and no slug sleeps -/

/-- No slug has an open transaction or sleeps, as far as reading it shows. -/
def State.Quiet (s : State) : Prop := ∀ k j, (s.slug k j).tx = none ∧ (s.slug k j).wake = none

/-- A value read at an index that is not the default is listed there. -/
theorem Sparse.mem_of_look_ne {α : Type} [Inhabited α] {m : Sparse α} {i : Nat} (h : Sparse.look m i ≠ default) :
    (i, Sparse.look m i) ∈ m := by
  induction m with
  | nil => exact absurd rfl h
  | cons e r ih =>
    obtain ⟨k, v⟩ := e
    rw [Sparse.look_cons] at h ⊢
    by_cases hk : k = i
    · simp [hk]
    · simp only [hk, if_false] at h ⊢
      exact List.mem_cons_of_mem _ (ih h)

/-- A slug that differs from an empty one stands in the list of its forme. -/
theorem State.mem_of_slug_ne {s : State} {k j : Nat} (h : s.slug k j ≠ default) :
    (k, s.forme k) ∈ s.formes ∧ (j, s.slug k j) ∈ (s.forme k).slugs := by
  have hj := Sparse.mem_of_look_ne h
  refine ⟨Sparse.mem_of_look_ne (fun hk => h ?_), hj⟩
  rw [State.slug, State.forme, hk]
  rfl

theorem State.Undisturbed.quiet {s : State} (h : s.Undisturbed) : s.Quiet := by
  intro k j
  refine ⟨?_, h.2 k j⟩
  by_contra ht
  obtain ⟨t, ht⟩ := Option.ne_none_iff_exists'.mp ht
  have hne : s.slug k j ≠ default := fun hd => by rw [hd] at ht; cases ht
  obtain ⟨hk, hj⟩ := State.mem_of_slug_ne hne
  have hmem : (k, j, t) ∈ s.txs := List.mem_flatMap.mpr ⟨_, hk, List.mem_filterMap.mpr ⟨_, hj, by simp [ht]⟩⟩
  rw [h.1] at hmem
  exact List.not_mem_nil hmem

/-- Two states differ in memory and its homes, the copies in L1, and the translation buffers: formes, slugs, and everything else of
cores and clusters read alike. -/
structure State.MemOnly (s t : State) : Prop where
  device : { t with formes := s.formes, cores := s.cores, clusters := s.clusters, parts := s.parts, dram := s.dram,
                    lineGen := s.lineGen, poison := s.poison, l2 := s.l2, held := s.held, fresh := s.fresh } = s
  formes : ∀ k, { t.forme k with slugs := (s.forme k).slugs } = s.forme k
  slugs : ∀ k j, t.slug k j = s.slug k j
  cores : ∀ k, { t.core k with l1 := (s.core k).l1, partials := (s.core k).partials, tlb := (s.core k).tlb } = s.core k
  clusters : ∀ k, { t.cluster k with tlb := (s.cluster k).tlb } = s.cluster k

theorem State.MemOnly.refl (s : State) : s.MemOnly s := ⟨rfl, fun _ => rfl, fun _ _ => rfl, fun _ => rfl, fun _ => rfl⟩

theorem State.MemOnly.trans {s t u : State} (h : s.MemOnly t) (k : t.MemOnly u) : s.MemOnly u where
  device := by
    have := congrArg (fun x : State => { x with
      formes := s.formes, cores := s.cores, clusters := s.clusters, parts := s.parts, dram := s.dram,
      lineGen := s.lineGen, poison := s.poison, l2 := s.l2, held := s.held, fresh := s.fresh }) k.device
    exact this.trans h.device
  formes n := (congrArg (fun x : Forme => { x with slugs := (s.forme n).slugs }) (k.formes n)).trans (h.formes n)
  slugs n j := (k.slugs n j).trans (h.slugs n j)
  cores n := (congrArg (fun x : Core => { x with l1 := (s.core n).l1, partials := (s.core n).partials, tlb := (s.core n).tlb })
    (k.cores n)).trans (h.cores n)
  clusters n := (congrArg (fun x : Cluster => { x with tlb := (s.cluster n).tlb }) (k.clusters n)).trans (h.clusters n)

theorem State.MemOnly.quiet {s t : State} (h : s.MemOnly t) (q : s.Quiet) : t.Quiet := fun k j => by rw [h.slugs]; exact q k j

/-- A change of memory, its homes and the registers of partitions. -/
theorem State.memOnly_of {s t : State}
    (hd : { t with parts := s.parts, dram := s.dram, lineGen := s.lineGen, poison := s.poison, l2 := s.l2, held := s.held,
                   fresh := s.fresh } = s) : s.MemOnly t := by
  have hf : t.formes = s.formes := by have h := congrArg State.formes hd; exact h
  have hc : t.cores = s.cores := by have h := congrArg State.cores hd; exact h
  have hk : t.clusters = s.clusters := by have h := congrArg State.clusters hd; exact h
  refine ⟨?_, fun k => ?_, fun k j => ?_, fun k => ?_, fun k => ?_⟩
  · rw [← hf, ← hc, ← hk]; exact hd
  · simp [State.forme, hf]
  · simp [State.slug, State.forme, hf]
  · simp [State.core, hc]
  · simp [State.cluster, hk]

/-- A change of a core's L1 and translation buffer. -/
theorem State.memOnly_modCore (s : State) (c : Nat) (f : Core → Core)
    (hf : ∀ x : Core, { f x with l1 := x.l1, partials := x.partials, tlb := x.tlb } = x) : s.MemOnly (s.modCore c f) := by
  refine ⟨rfl, fun _ => rfl, fun _ _ => rfl, fun k => ?_, fun _ => rfl⟩
  by_cases hk : k = c
  · subst hk
    rw [State.core_modCore, hf]
  · rw [State.core_modCore_ne s f hk]

/-- What one access does, provided that no transaction is open and no slug sleeps. -/
def State.Keeps (s t : State) : Prop := s.Quiet → s.MemOnly t

theorem State.Keeps.refl (s : State) : s.Keeps s := fun _ => .refl s

theorem State.MemOnly.keeps {s t : State} (h : s.MemOnly t) : s.Keeps t := fun _ => h

theorem State.Keeps.trans {s t u : State} (h : s.Keeps t) (k : t.Keeps u) : s.Keeps u :=
  fun q => (h q).trans (k ((h q).quiet q))

/-- What every step of a fold keeps, the fold keeps. -/
theorem State.Keeps.foldl {α : Type} {g : State → α → State} (hg : ∀ (s : State) (a : α), s.Keeps (g s a)) (l : List α) (s : State) :
    s.Keeps (l.foldl g s) := by
  induction l generalizing s with
  | nil => exact .refl s
  | cons a r ih => exact (hg s a).trans (ih (g s a))

/-! ### Conflicts and sleepers -/

theorem State.keeps_conflictAbort (s : State) (fk sl : Nat) : s.Keeps (s.conflictAbort fk sl) := by
  intro q
  have hout := State.outsideAs_modSlug s fk sl (fun m => match m.tx with
    | some t => m.txRestart t 0x01 s.cyc
    | none => m)
  refine ⟨rfl, hout.formes, fun k j => ?_, fun _ => rfl, fun _ => rfl⟩
  by_cases hkj : k = fk ∧ j = sl
  · obtain ⟨rfl, rfl⟩ := hkj
    simp [State.conflictAbort, (q k j).1]
  · exact hout.slugs k j hkj

theorem State.keeps_abortTrackers (s : State) (l : LineRef) : s.Keeps (s.abortTrackers l) :=
  State.Keeps.foldl (g := fun (u : State) (e : Nat × Nat × Tx) => u.conflictAbort e.1 e.2.1)
    (fun u e => u.keeps_conflictAbort e.1 e.2.1) _ s

theorem State.keeps_fireWhere (s : State) (c : Nat → Forme → Nat → Wake → Bool) : s.Keeps (s.fireWhere c) := by
  intro q
  have hforme (k : Nat) : (s.fireWhere c).forme k = { s.forme k with slugs := (s.forme k).slugs.mapVals (fun sl m =>
      { m with
        wake := m.wake.map (fun w => if c k (s.forme k) sl w then { w with fired := true } else w)
        tx := m.tx.map (fun t => if c k (s.forme k) sl t.watch then { t with fired := true } else t) }) } :=
    Sparse.look_mapVals (fun _ => rfl) _ _
  refine ⟨rfl, fun k => by rw [hforme], fun k j => ?_, fun _ => rfl, fun _ => rfl⟩
  rw [State.slug, hforme, Sparse.look_mapVals (fun _ => rfl)]
  show ({ s.slug k j with wake := (s.slug k j).wake.map _, tx := (s.slug k j).tx.map _ } : Slug) = s.slug k j
  obtain ⟨ht, hw⟩ := q k j
  generalize s.slug k j = m at *
  cases m
  simp only at ht hw
  simp [ht, hw]

theorem State.keeps_fireLine (s : State) (l : LineRef) : s.Keeps (s.fireLine l) := s.keeps_fireWhere _

theorem State.keeps_dropSharers (s : State) (l : Nat) : s.Keeps (s.dropSharers l) := by
  refine State.MemOnly.keeps ⟨rfl, fun _ => rfl, fun _ _ => rfl, fun k => ?_, fun _ => rfl⟩
  have hcore : (s.dropSharers l).core k = if ((s.core k).l1.look l).kind = .so then { s.core k with l1 := (s.core k).l1.put l {} }
      else s.core k := Sparse.look_mapVals (fun _ => rfl) _ _
  rw [hcore]
  split <;> rfl

theorem State.keeps_hot (s : State) (x : HotInfo) (pa ty : Nat) : s.Keeps (s.hot x pa ty) := by
  unfold State.hot
  dsimp only
  repeat' split
  all_goals exact (State.memOnly_of rfl).keeps

/-! ### Homes -/

theorem State.keeps_tookFree (s : State) : s.Keeps s.tookFree := (State.memOnly_of rfl).keeps

theorem State.keeps_park (s : State) (x : Held) : s.Keeps (s.park x) := (State.memOnly_of rfl).keeps

theorem State.keeps_l2Fill (s : State) (line : Nat) : s.Keeps (s.l2Fill line) := by
  unfold State.l2Fill
  dsimp only
  repeat' split
  all_goals exact (State.memOnly_of rfl).keeps

theorem State.keeps_physPut (s : State) (pa : Nat) (b : Byte) : s.Keeps (s.physPut pa b) := by
  unfold State.physPut
  dsimp only
  split
  all_goals exact (State.memOnly_of rfl).keeps

theorem State.keeps_physWrite (s : State) (pa : Nat) (bs : List Byte) : s.Keeps (s.physWrite pa bs) := by
  induction bs generalizing s pa with
  | nil => exact .refl s
  | cons b r ih => exact (s.keeps_physPut pa b).trans (ih _ (pa + 1))

theorem State.keeps_homeSet (s : State) (pa : Nat) (bs : List Byte) : s.Keeps (s.homeSet pa bs) :=
  ((((s.keeps_l2Fill _).trans (State.keeps_abortTrackers _ _)).trans (State.keeps_physWrite _ _ _)).trans
    (State.keeps_dropSharers _ _)).trans (State.keeps_fireLine _ _)

theorem State.keeps_homeRed (s : State) (pa op : Nat) (t : Ty) (v : Nat) (w : HeldBy) (x : HotInfo) (ty : Nat) :
    s.Keeps (s.homeRed pa op t v w x ty) := by
  unfold State.homeRed
  dsimp only
  split
  · exact s.keeps_park _
  · exact (s.keeps_homeSet _ _).trans (State.keeps_hot _ _ _ _)

theorem State.keeps_sendPartial (s : State) (core line : Nat) : s.Keeps (s.sendPartial core line) := by
  unfold State.sendPartial
  dsimp only
  split
  · exact .refl s
  · have hcells : s.Keeps (((s.core core).partials.look line).cells.foldl (fun (u : State) (e : Nat × Option Word) => match e.2 with
        | some v => u.homeRed e.1 ((s.core core).partials.look line).op ((s.core core).partials.look line).ty v.toNat
        | none => u) (s.modCore core (fun c => { c with partials := c.partials.put line {} }))) := by
      refine (s.memOnly_modCore core (fun c => { c with partials := c.partials.put line {} }) (fun _ => rfl)).keeps.trans (State.Keeps.foldl (fun u e => ?_) _ _)
      cases e.2 with
      | none => exact .refl u
      | some v => exact u.keeps_homeRed _ _ _ _ _ _ _
    split
    · exact hcells
    · exact hcells.trans (State.keeps_hot _ _ _ _)

theorem State.keeps_recall (s : State) (line : Nat) : s.Keeps (s.recall line) := by
  refine State.Keeps.foldl (fun u e => ?_) _ s
  split
  · exact .refl u
  · exact u.keeps_sendPartial _ _

theorem State.keeps_homePut (s : State) (pa : Nat) (bs : List Byte) (w : HeldBy) (x : HotInfo) (ty : Nat) :
    s.Keeps (s.homePut pa bs w x ty) := by
  unfold State.homePut
  dsimp only
  split
  · exact s.keeps_park _
  · exact ((s.keeps_recall _).trans (State.keeps_homeSet _ _ _)).trans (State.keeps_hot _ _ _ _)

theorem State.keeps_homeLook (s : State) (line pa n : Nat) (w : HeldBy) (x : HotInfo) (ty : Nat) :
    s.Keeps (s.homeLook line pa n w x ty) := by
  unfold State.homeLook
  dsimp only
  split
  · exact s.keeps_park _
  · exact ((s.keeps_recall _).trans (State.keeps_l2Fill _ _)).trans (State.keeps_hot _ _ _ _)

theorem State.keeps_homeRead (s : State) (pa n : Nat) (x : HotInfo) (ty : Nat) (w : HeldBy) : s.Keeps (s.homeRead pa n x ty w).1 :=
  .foldl (fun u _ => u.keeps_homeLook _ _ _ _ _ _) _ s

/-! ### L1 -/

theorem State.keeps_putL1 (s : State) (core line : Nat) (x : L1Line) : s.Keeps (s.putL1 core line x) :=
  (s.memOnly_modCore core (fun c => { c with l1 := c.l1.put line x }) (fun _ => rfl)).keeps

theorem State.keeps_writeBackOf (s : State) (core line : Nat) (mask : BitVec 128) : s.Keeps (s.writeBackOf core line mask) := by
  unfold State.writeBackOf
  dsimp only
  split
  · exact .refl s
  · refine (((s.keeps_putL1 _ _ _).trans (State.keeps_recall _ _)).trans (State.keeps_hot _ _ _ _)).trans
      (State.Keeps.foldl (fun u i => ?_) _ _)
    split
    · exact u.keeps_homeSet _ _
    · exact .refl u

theorem State.keeps_evict (s : State) (core line : Nat) : s.Keeps (s.evict core line) :=
  (s.keeps_writeBackOf core line _).trans (State.keeps_putL1 _ _ _ _)

theorem State.keeps_sweep (s : State) (core : Nat) (p : Nat → L1Line → Bool) (drop : Bool) : s.Keeps (s.sweep core p drop) := by
  refine State.Keeps.foldl (fun u e => ?_) _ s
  repeat' split
  · exact u.keeps_evict _ _
  · exact u.keeps_writeBackOf _ _ _
  · exact .refl u

theorem State.keeps_flushU (s : State) (core : Nat) : s.Keeps (s.flushU core) := by
  refine State.Keeps.foldl (fun u e => ?_) _ s
  split
  · exact u.keeps_sendPartial core e.1
  · exact .refl u

theorem State.keeps_acquire (s : State) (core : Nat) (m : BitVec 7) : s.Keeps (s.acquire core m) := by
  unfold State.acquire
  split
  · exact s.keeps_sweep _ _ _
  · exact .refl s

theorem State.keeps_dropUo (s : State) (core : Nat) : s.Keeps (s.dropUo core) := s.keeps_sweep _ _ _

theorem State.keeps_makeRoom (s : State) (core : Nat) : s.Keeps (s.makeRoom core).1 := by
  unfold State.makeRoom
  dsimp only
  repeat' split
  · exact .refl s
  · exact .refl s
  · exact (s.keeps_tookFree.trans (State.keeps_sendPartial _ _ _)).trans (State.keeps_evict _ _ _)

theorem State.keeps_install (s : State) (core line : Nat) (x : L1Line) : s.Keeps (s.install core line x) := by
  have hm := s.keeps_makeRoom core
  unfold State.install
  split
  · exact s.keeps_putL1 _ _ _
  · split
    · rename_i t heq
      rw [heq] at hm
      exact hm.trans (State.keeps_putL1 _ _ _ _)
    · rename_i t heq
      rw [heq] at hm
      exact hm

theorem State.keeps_fill (s : State) (core line : Nat) (k : LineKind) (x : HotInfo) : s.Keeps (s.fill core line k x).1 :=
  (s.keeps_homeRead _ _ _ _ _).trans (State.keeps_install _ _ _ _)

theorem State.keeps_l1Ready (s : State) (core line : Nat) (k : LineKind) : s.Keeps (s.l1Ready core line k) := by
  unfold State.l1Ready
  dsimp only
  repeat' split
  · exact s.keeps_evict _ _
  · exact .refl s
  · exact (s.keeps_sendPartial _ _).trans (State.keeps_evict _ _ _)
  · exact s.keeps_sendPartial _ _

theorem State.keeps_l1Read (s : State) (core pa n : Nat) (k : LineKind) (x : HotInfo) : s.Keeps (s.l1Read core pa n k x).1 := by
  unfold State.l1Read
  dsimp only
  split
  · exact s.keeps_l1Ready _ _ _
  · exact (s.keeps_l1Ready _ _ _).trans (State.keeps_fill _ _ _ _ _)

theorem State.keeps_l1Write (s : State) (core pa : Nat) (bs : List Byte) (k : LineKind) (x : HotInfo) (w : HeldBy) :
    s.Keeps (s.l1Write core pa bs k x w) := by
  have hu := s.keeps_l1Ready core (lineOf pa) k
  unfold State.l1Write
  dsimp only
  generalize s.l1Ready core (lineOf pa) k = u at hu ⊢
  have hm := hu.trans (u.keeps_makeRoom core)
  split
  · exact (hu.trans (u.keeps_evict _ _)).trans (State.keeps_homePut _ _ _ _ _ _)
  · split
    · exact hu.trans (u.keeps_putL1 _ _ _)
    · split
      · rename_i t heq
        rw [heq] at hm
        exact hm.trans (State.keeps_putL1 _ _ _ _)
      · rename_i t heq
        rw [heq] at hm
        exact hm.trans (State.keeps_homePut _ _ _ _ _ _)

/-! ### Translation, and the divergence stack (spec/01 R38, R39) -/

/-- A translation found for a core goes into its buffer and its cluster's. -/
theorem State.keeps_tlbFill (s : State) (c va : Nat) (l : Leaf) :
    s.Keeps ((s.modCluster (clusterOf c) (fun k => if (tlbLook k.tlb va).isSome then k else { k with tlb := tlbAdd k.tlb 8192 l })).modCore c
      (fun k => { k with tlb := tlbAdd k.tlb 128 l })) := by
  have hcluster : s.MemOnly (s.modCluster (clusterOf c) (fun k => if (tlbLook k.tlb va).isSome then k
      else { k with tlb := tlbAdd k.tlb 8192 l })) := by
    refine ⟨rfl, fun _ => rfl, fun _ _ => rfl, fun _ => rfl, fun k => ?_⟩
    by_cases hk : k = clusterOf c
    · subst hk
      rw [State.cluster_modCluster]
      split <;> rfl
    · rw [State.cluster_modCluster_ne s _ hk]
  exact (hcluster.trans (State.memOnly_modCore _ c (fun k => { k with tlb := tlbAdd k.tlb 128 l }) (fun _ => rfl))).keeps

theorem State.keeps_leafFor (s : State) (core : Option Nat) (va : Nat) : s.Keeps (s.leafFor core va).1 := by
  unfold State.leafFor
  cases core
  case none =>
    dsimp only
    repeat' split
    all_goals exact .refl s
  case some c =>
    have hkeep (l : Leaf) : s.Keeps (if (tlbLook (s.core c).tlb va).isSome then s
        else (s.modCluster (clusterOf c) (fun k => if (tlbLook k.tlb va).isSome then k else { k with tlb := tlbAdd k.tlb 8192 l })).modCore c
          (fun k => { k with tlb := tlbAdd k.tlb 128 l })) := by
      split
      · exact .refl s
      · exact s.keeps_tlbFill c va l
    dsimp only
    split
    · exact .refl s
    split
    · exact hkeep _
    split
    · exact .refl s
    split
    · exact .refl s
    split
    · exact .refl s
    · exact hkeep _

theorem State.keeps_translate (s : State) (core : Option Nat) (part va n : Nat) (need : Need) :
    s.Keeps (s.translate core part va n need).1 := by
  have h := s.keeps_leafFor core va
  unfold State.translate
  split
  · rename_i t f heq
    rw [heq] at h
    exact h
  · rename_i t l heq
    rw [heq] at h
    dsimp only
    repeat' split
    all_goals exact h

theorem State.keeps_stackAt (s : State) (fk sl i : Nat) (need : Need) : s.Keeps (s.stackAt fk sl i need).1 := by
  have h := s.keeps_translate (some (s.forme fk).core) (s.launch (s.forme fk).launch).part (s.privBase fk sl + 16 * i) 16 need
  unfold State.stackAt
  dsimp only
  split
  · rename_i t pa x heq
    rw [heq] at h
    exact h
  · rename_i t f heq
    rw [heq] at h
    exact h

theorem State.keeps_stackRead (s : State) (fk sl i : Nat) : s.Keeps (s.stackRead fk sl i) := by
  have h := s.keeps_stackAt fk sl i .read
  unfold State.stackRead
  split
  · rename_i t pa k x heq
    rw [heq] at h
    exact h.trans (t.keeps_l1Read _ _ _ _ _)
  · rename_i t heq
    rw [heq] at h
    exact h

theorem State.keeps_stackWrite (s : State) (fk sl i : Nat) (p : Path) : s.Keeps (s.stackWrite fk sl i p) := by
  have h := s.keeps_stackAt fk sl i .write
  unfold State.stackWrite
  split
  · rename_i t pa k x heq
    rw [heq] at h
    exact h.trans (t.keeps_l1Write _ _ _ _ _ _)
  · rename_i t heq
    rw [heq] at h
    exact h

theorem State.keeps_stackTraffic (s : State) (fk sl : Nat) (old : List Path) : s.Keeps (s.stackTraffic fk sl old) := by
  refine (State.Keeps.foldl (fun u i => u.keeps_stackRead fk sl i) _ s).trans (State.Keeps.foldl (fun u i => ?_) _ _)
  split
  · exact .refl u
  · exact u.keeps_stackWrite _ _ _ _

end Sys2Proof.Machine

namespace Sys2Proof.Machine

/-! ## Branch targets, and the issuing slug after a word -/

/-- The target that a branch computes is that of R137. -/
theorem Ctx.target_eq (c : Ctx) (w : Ops) (n : Nat) (imm : BitVec 14) : c.target w n imm = jumpTarget c.path.pc w n imm := by
  unfold Ctx.target jumpTarget
  cases w.x with
  | none =>
    simp only [BitVec.signExtend, BitVec.ofInt_add, BitVec.ofInt_mul, BitVec.ofInt_natCast, BitVec.ofNat_toNat, BitVec.setWidth_eq]
    rfl
  | some x =>
    have hx : x.extractLsb' 0 54 = BitVec.ofInt 54 x.toInt := by
      rw [← BitVec.setWidth_eq_extractLsb' (by decide), ← BitVec.signExtend_eq_setWidth_of_le x (by decide)]
      rfl
    simp only [hx, BitVec.ofInt_add, BitVec.ofInt_natCast, BitVec.ofNat_toNat, BitVec.setWidth_eq]

/-- A change of a slug is told by the slug it makes of the one that stands there. -/
theorem State.modSlug_congr {s : State} {fk sl : Nat} {f g : Slug → Slug} (h : f (s.slug fk sl) = g (s.slug fk sl)) :
    s.modSlug fk sl f = s.modSlug fk sl g := by
  have : (s.forme fk).modSlug sl f = (s.forme fk).modSlug sl g := by
    simp only [Forme.modSlug, Sparse.upd]
    rw [show f ((s.forme fk).slugs.look sl) = g ((s.forme fk).slugs.look sl) from h]
  simp only [State.modSlug, State.modForme, Sparse.upd]
  rw [show (s.formes.look fk).modSlug sl f = (s.formes.look fk).modSlug sl g from this]

theorem Ctx.finish_eq {s : State} {h : Hdr} {c : Ctx} (hc : s.ctx h = some c) (now : Nat) (pc : Addr) :
    c.finish now pc c.m = c.m.putSlot c.iss.b (c.slotAt now pc) := by
  simp [Ctx.finish, Slug.modSlot, State.ctx_slot hc, State.ctx_path hc, Ctx.slotAt]

/-- The slot of the issuing path after its word, holding a path. -/
def Ctx.slotWith (c : Ctx) (now : Nat) (p : Path) : Slot := { c.slotAt now 0 with path := some p }

theorem Ctx.after_with (c : Ctx) (s : State) (p : Path) : (c.after s).with p = c.slotWith s.cyc p := rfl

namespace Slug.PathsOnly

variable {m u : Slug} (h : m.PathsOnly u)
include h

theorem tx : u.tx = m.tx := by have k := congrArg Slug.tx h; exact k
theorem wake : u.wake = m.wake := by have k := congrArg Slug.wake h; exact k
theorem hnd : u.hnd = m.hnd := by have k := congrArg Slug.hnd h; exact k
theorem busy : u.busy = m.busy := by have k := congrArg Slug.busy h; exact k

/-- No register changes. -/
theorem regsBut : m.RegsBut u [] where
  g n _ := by have k := congrArg Slug.g h; simp only [Slug.readG, ← k]
  p n _ := by have k := congrArg Slug.p h; simp only [Slug.readP, ← k]
  v n _ := by have k := congrArg Slug.v h; simp only [Slug.readV, ← k]
  xa n _ := by have k := congrArg Slug.xa h; simp only [Slug.readX, ← k]
  srg _ := by have k := congrArg Slug.srg h; exact k

end Slug.PathsOnly

/-! ## The steps of R36 after a word (spec/01 R36, R39) -/

/-- The issuing slug has become `u`, and the steps of R36 have been taken with their stack traffic. -/
def State.settledTo (s : State) (c : Ctx) (u : Slug) : State :=
  (s.modSlug c.iss.fk c.iss.sl (fun _ => u.settle (c.readyFor c.m s.cyc) 512)).stackTraffic c.iss.fk c.iss.sl c.m.stack

/-- Settling the issuing slug after a change of it. -/
theorem State.settleCur_modCur {s : State} {h : Hdr} {c : Ctx} (hc : s.ctx h = some c) {f : Slug → Slug}
    (hf : c.m.PathsOnly (f c.m)) : (s.modCur f).settleCur c = s.settledTo c (f c.m) := by
  have hcur := State.ctx_cur hc
  have hready : c.readyFor (f c.m) s.cyc = c.readyFor c.m s.cyc := by
    funext p
    simp only [Ctx.readyFor, Slug.landed, hf.busy]
  have hstate : (s.modCur f).modCur (fun m => m.settled c (s.modCur f))
      = s.modSlug c.iss.fk c.iss.sl (fun _ => (f c.m).settle (c.readyFor c.m s.cyc) 512) := by
    rw [State.modCur_eq (s := s.modCur f) (by simpa using hcur), State.modCur_eq hcur, State.modSlug_modSlug]
    refine State.modSlug_congr ?_
    simp only [State.ctx_slug hc, Slug.settled, State.modSlug_cyc, hready]
  rw [State.settleCur, hstate, State.settledTo]

/-- Settling the issuing slug once its path has gone on. -/
theorem State.settleCur_retireTo {s : State} {h : Hdr} {c : Ctx} (hc : s.ctx h = some c) (pc : Addr) :
    (s.retireTo pc).settleCur c = s.settledTo c (c.m.putSlot c.iss.b (c.slotAt s.cyc pc)) := by
  have hcur := State.ctx_cur hc
  rw [State.retireTo_eq hcur, ← State.modCur_eq hcur, ← Ctx.finish_eq hc]
  exact State.settleCur_modCur (f := c.finish s.cyc pc) hc (Slug.pathsOnly_putSlot _ _ _)

/-- Without entries on the stack before and after, the stack sees no traffic. -/
theorem State.stackTraffic_nil (s : State) (fk sl : Nat) (h : (s.slug fk sl).stack = []) : s.stackTraffic fk sl [] = s := by
  simp [State.stackTraffic, h]

/-- A settled slug without a stack is put in its place, and nothing else changes. -/
theorem State.settledTo_of_empty {s : State} {c : Ctx} {u : Slug} (hm : c.m.stack = [])
    (hu : (u.settle (c.readyFor c.m s.cyc) 512).stack = []) :
    s.settledTo c u = s.modSlug c.iss.fk c.iss.sl (fun _ => u.settle (c.readyFor c.m s.cyc) 512) := by
  rw [State.settledTo, hm, State.stackTraffic_nil _ _ _ (by simpa using hu)]

/-- A slug in which no path is parked and no path waits for a slot is settled. -/
theorem Slug.settleOnce_of_running {m : Slug} {ready : Path → Nat} (hne : m.allPaths ≠ []) (h : ∀ p ∈ m.allPaths, p.pk = false)
    (hslots : m.stack = [] ∨ m.a.path.isSome ∧ m.b.path.isSome) : m.settleOnce ready = none := by
  have hparked (x : Slot) (hx : ∀ p, x.path = some p → p.pk = false) : x.parked = false := by
    unfold Slot.parked
    split
    · exact hx _ (by assumption)
    · rfl
  obtain ⟨p, hp⟩ := List.exists_mem_of_ne_nil _ hne
  refine Slug.settleOnce_none.mpr ⟨Slug.meeting_none.mpr (fun p hp hpk => ?_), ?_, .inr ⟨p, hp, h p hp⟩⟩
  · rw [h p hp] at hpk
    cases hpk
  · rcases hslots with hs | ⟨ha, hb⟩
    · exact .inl (nextEntry_none.mpr (by simp [hs]))
    · exact .inr ⟨ha, hb, hparked _ (fun p hp => h p (by simp [Slug.allPaths, hp])), hparked _ (fun p hp => h p (by simp [Slug.allPaths, hp]))⟩

/-- The two slugs a split can give: the other slot is taken by the upper path, or the upper path goes onto the stack. -/
theorem Slug.split_free {m : Slug} {b : Bool} (x : Slot) (lo hi : Path) (h : (m.slot !b).path = none) :
    m.split b x lo hi = some ((m.putSlot b (x.with lo)).putSlot (!b) { (x.with hi) with lastIssue := (m.slot !b).lastIssue }) := by
  simp [Slug.split, h]

theorem Slug.split_push {m : Slug} {b : Bool} (x : Slot) (lo hi : Path) (h : (m.slot !b).path ≠ none) (hs : m.stack.length < 64) :
    m.split b x lo hi = some { m.putSlot b (x.with lo) with stack := m.stack ++ [hi] } := by
  simp [Slug.split, h, hs]

theorem Slug.split_full {m : Slug} {b : Bool} (x : Slot) (lo hi : Path) (h : (m.slot !b).path ≠ none) (hs : 64 ≤ m.stack.length) :
    m.split b x lo hi = none := by
  simp [Slug.split, h, Nat.not_lt.mpr hs]

/-- A split changes paths alone. -/
theorem Slug.pathsOnly_split {m u : Slug} {b : Bool} {x : Slot} {lo hi : Path} (h : m.split b x lo hi = some u) : m.PathsOnly u := by
  unfold Slug.split at h
  dsimp only at h
  split at h
  · cases h
    cases b <;> rfl
  · split at h
    · cases h
      cases b <;> rfl
    · cases h

/-! ## `BRV` (spec/01 R34, R35) -/

/-- The lanes that a `BRV` takes. -/
def Ctx.taken (c : Ctx) (n : Nat) (imm : BitVec 14) : Mask :=
  c.act &&& (if imm.getLsbD 13 then ~~~(c.m.readP n) else c.m.readP n)

/-- The two paths that a split of the path makes, the one with the smaller address first. -/
def Ctx.forked (c : Ctx) (pc : Addr) (taken : Mask) : Path × Path :=
  let t1 : Path := { pc := pc, mask := taken }
  let t2 : Path := { pc := c.nextPc, mask := c.path.mask &&& ~~~taken }
  if pc.toNat < c.nextPc.toNat then (t1, t2) else (t2, t1)

section Brv

variable {s : State} {w : Ops} {c : Ctx} {n : BitVec 4} (m : AluMod) (hc : s.ctx w.h = some c) (hn : w.a = .p n)
include hc hn

/-- What a `BRV` does, by the lanes it takes. -/
theorem exec_brv : exec (.brv w m) s = .next (
    if c.taken n.toNat m.imm = 0 then (s.retire c).settleCur c
    else if c.path.mask &&& ~~~(c.taken n.toNat m.imm) = 0 || jumpTarget c.path.pc w 13 m.imm == c.nextPc
      then (s.retireTo (jumpTarget c.path.pc w 13 m.imm)).settleCur c
    else if c.m.tx.isSome then s.trapCode c 0x32
    else match (if (jumpTarget c.path.pc w 13 m.imm).toNat < c.nextPc.toNat
        then c.m.split c.iss.b (c.after s) { pc := jumpTarget c.path.pc w 13 m.imm, mask := c.taken n.toNat m.imm }
          { pc := c.nextPc, mask := c.path.mask &&& ~~~(c.taken n.toNat m.imm) }
        else c.m.split c.iss.b (c.after s) { pc := c.nextPc, mask := c.path.mask &&& ~~~(c.taken n.toNat m.imm) }
          { pc := jumpTarget c.path.pc w 13 m.imm, mask := c.taken n.toNat m.imm }) with
      | none => s.trapCode c 0x06
      | some u => (s.modCur (fun _ => u)).settleCur c) := by
  have hnum : w.a.num = n.toNat := by rw [hn]; rfl
  show execBrv w m s = _
  simp only [execBrv, vectorWord, hc, hnum, Ctx.target_eq]
  rfl

theorem exec_brv_falls (ht : c.taken n.toNat m.imm = 0) :
    exec (.brv w m) s = .next (s.settledTo c (c.m.putSlot c.iss.b (c.slotAt s.cyc c.nextPc))) := by
  rw [exec_brv m hc hn, if_pos ht, State.retire, State.settleCur_retireTo hc]

theorem exec_brv_jumps (ht : c.taken n.toNat m.imm ≠ 0)
    (hr : c.path.mask &&& ~~~(c.taken n.toNat m.imm) = 0 ∨ jumpTarget c.path.pc w 13 m.imm = c.nextPc) :
    exec (.brv w m) s = .next (s.settledTo c (c.m.putSlot c.iss.b (c.slotAt s.cyc (jumpTarget c.path.pc w 13 m.imm)))) := by
  rw [exec_brv m hc hn, if_neg ht, if_pos (by simpa using hr), State.settleCur_retireTo hc]

variable (ht : c.taken n.toNat m.imm ≠ 0) (hr : c.path.mask &&& ~~~(c.taken n.toNat m.imm) ≠ 0)
  (hp : jumpTarget c.path.pc w 13 m.imm ≠ c.nextPc)
include ht hr hp

theorem exec_brv_in_tx (htx : c.m.tx ≠ none) : exec (.brv w m) s = .next (s.trapCode c 0x32) := by
  rw [exec_brv m hc hn, if_neg ht, if_neg (by simpa [hp] using hr), if_pos (Option.isSome_iff_ne_none.mpr htx)]

variable (htx : c.m.tx = none)
include htx

/-- A `BRV` that splits its path outside a transaction. -/
theorem exec_brv_splits {u : Slug}
    (hu : c.m.split c.iss.b (c.after s) (c.forked (jumpTarget c.path.pc w 13 m.imm) (c.taken n.toNat m.imm)).1
      (c.forked (jumpTarget c.path.pc w 13 m.imm) (c.taken n.toNat m.imm)).2 = some u) :
    exec (.brv w m) s = .next (s.settledTo c u) := by
  rw [exec_brv m hc hn, if_neg ht, if_neg (by simpa [hp] using hr), if_neg (by simp [htx])]
  have hs : (s.modCur (fun _ => u)).settleCur c = s.settledTo c u :=
    State.settleCur_modCur (f := fun _ => u) hc (Slug.pathsOnly_split hu)
  unfold Ctx.forked at hu
  split at hu <;> rename_i hlt
  · rw [if_pos hlt, hu, ← hs]
  · rw [if_neg hlt, hu, ← hs]

/-- A `BRV` that finds no room for a path. -/
theorem exec_brv_full
    (hu : c.m.split c.iss.b (c.after s) (c.forked (jumpTarget c.path.pc w 13 m.imm) (c.taken n.toNat m.imm)).1
      (c.forked (jumpTarget c.path.pc w 13 m.imm) (c.taken n.toNat m.imm)).2 = none) :
    exec (.brv w m) s = .next (s.trapCode c 0x06) := by
  rw [exec_brv m hc hn, if_neg ht, if_neg (by simpa [hp] using hr), if_neg (by simp [htx])]
  unfold Ctx.forked at hu
  split at hu <;> rename_i hlt
  · rw [if_pos hlt, hu]
  · rw [if_neg hlt, hu]

end Brv

/-! ## `JOIN` (spec/01 R35, R36) -/

section Join

variable {s : State} {w : Ops} {c : Ctx} (m : AluMod) (hc : s.ctx w.h = some c)
include hc

/-- What a `JOIN` does, by its active lanes. -/
theorem exec_join : exec (.join w m) s = .next (
    if c.act = 0 then (s.retire c).settleCur c
    else if c.path.mask &&& ~~~c.act = 0
      then (s.modCur (fun m => m.putSlot c.iss.b (c.slotWith s.cyc { pk := true, pc := c.path.pc, mask := c.act }))).settleCur c
    else if c.m.tx.isSome then s.trapCode c 0x32
    else match c.m.split c.iss.b (c.after s) { pk := true, pc := c.path.pc, mask := c.act }
        { pc := c.nextPc, mask := c.path.mask &&& ~~~c.act } with
      | none => s.trapCode c 0x06
      | some u => (s.modCur (fun _ => u)).settleCur c) := by
  show execJoin w m s = _
  simp only [execJoin, vectorWord, hc]
  rfl

theorem exec_join_falls (ha : c.act = 0) :
    exec (.join w m) s = .next (s.settledTo c (c.m.putSlot c.iss.b (c.slotAt s.cyc c.nextPc))) := by
  rw [exec_join m hc, if_pos ha, State.retire, State.settleCur_retireTo hc]

theorem exec_join_parks (ha : c.act ≠ 0) (hr : c.path.mask &&& ~~~c.act = 0) : exec (.join w m) s = .next (s.settledTo c
    (c.m.putSlot c.iss.b (c.slotWith s.cyc { pk := true, pc := c.path.pc, mask := c.act }))) := by
  rw [exec_join m hc, if_neg ha, if_pos hr]
  exact congrArg _ (State.settleCur_modCur
    (f := fun m => m.putSlot c.iss.b (c.slotWith s.cyc { pk := true, pc := c.path.pc, mask := c.act })) hc (Slug.pathsOnly_putSlot _ _ _))

theorem exec_join_in_tx (ha : c.act ≠ 0) (hr : c.path.mask &&& ~~~c.act ≠ 0) (htx : c.m.tx ≠ none) :
    exec (.join w m) s = .next (s.trapCode c 0x32) := by
  rw [exec_join m hc, if_neg ha, if_neg hr, if_pos (Option.isSome_iff_ne_none.mpr htx)]

/-- A `JOIN` that leaves lanes behind. -/
theorem exec_join_splits (ha : c.act ≠ 0) (hr : c.path.mask &&& ~~~c.act ≠ 0) (htx : c.m.tx = none) {u : Slug}
    (hu : c.m.split c.iss.b (c.after s) { pk := true, pc := c.path.pc, mask := c.act }
      { pc := c.nextPc, mask := c.path.mask &&& ~~~c.act } = some u) : exec (.join w m) s = .next (s.settledTo c u) := by
  rw [exec_join m hc, if_neg ha, if_neg hr, if_neg (by simp [htx]), hu]
  exact congrArg _ (State.settleCur_modCur (f := fun _ => u) hc (Slug.pathsOnly_split hu))

end Join

/-! ## A slug with one path (spec/01 R34) -/

/-- The paths of a slug whose other slot is free and whose stack is empty. -/
theorem Slug.allPaths_of_one {m : Slug} {b : Bool} {p : Path} (h : (m.slot b).path = some p) (ho : (m.slot !b).path = none)
    (hs : m.stack = []) : m.allPaths = [p] := by
  cases b <;> simp [Slug.slot] at h ho <;> simp [Slug.allPaths, h, ho, hs]

/-- A slug with one running path is settled. -/
theorem Slug.settle_one {m : Slug} {b : Bool} {p : Path} (h : (m.slot b).path = some p) (ho : (m.slot !b).path = none)
    (hs : m.stack = []) (hp : p.pk = false) (ready : Path → Nat) (n : Nat) : m.settle ready n = m := by
  have hall := Slug.allPaths_of_one h ho hs
  exact Slug.settle_of_none (Slug.settleOnce_of_running (by simp [hall]) (by simpa [hall] using hp) (.inl hs)) n

/-- The slug after its one path has gone on. -/
theorem State.goes_of_settledTo {s : State} {h : Hdr} {c : Ctx} {i : Instr} (hc : s.ctx h = some c) (ha : c.Alone) {pc : Addr}
    (he : exec i s = .next (s.settledTo c (c.m.putSlot c.iss.b (c.slotAt s.cyc pc)))) : s.Goes c i pc := by
  have hsettle : (c.m.putSlot c.iss.b (c.slotAt s.cyc pc)).settle (c.readyFor c.m s.cyc) 512
      = c.m.putSlot c.iss.b (c.slotAt s.cyc pc) :=
    Slug.settle_one (b := c.iss.b) (p := { c.path with pc := pc }) (by simp [Ctx.slotAt]) (by simpa using ha.other) (by simpa using ha.stack)
      ha.running _ _
  obtain ⟨hdone, -⟩ := State.done_of hc id pc [] (Slug.regsBut_refl _ _) (Slug.restAs_refl _ _) rfl
  rw [State.modCur_retireTo (State.ctx_cur hc)] at hdone
  rw [State.settledTo_of_empty ha.stack (by rw [hsettle]; simpa using ha.stack), hsettle] at he
  refine ⟨_, he, ?_⟩
  rwa [State.modSlug_congr (g := fun _ => c.m.putSlot c.iss.b (c.slotAt s.cyc pc))] at hdone
  rw [State.ctx_slug hc, id, Ctx.finish_eq hc]

/-- The two paths of a slug after a split. -/
theorem Slug.allPaths_of_two {m : Slug} {b : Bool} {p q : Path} (h : (m.slot b).path = some p) (ho : (m.slot !b).path = some q)
    (hs : m.stack = []) : m.allPaths = if b then [q, p] else [p, q] := by
  cases b <;> simp [Slug.slot] at h ho <;> simp [Slug.allPaths, h, ho, hs]

/-- Two paths of which one runs are settled where nothing waits on the stack. -/
theorem Slug.settle_two {m : Slug} {b : Bool} {p q : Path} (h : (m.slot b).path = some p) (ho : (m.slot !b).path = some q)
    (hs : m.stack = []) (hq : q.pk = false) (ready : Path → Nat) (n : Nat) : m.settle ready n = m := by
  have hall := Slug.allPaths_of_two h ho hs
  refine Slug.settle_of_none (Slug.settleOnce_none.mpr ⟨Slug.meeting_none.mpr ?_, .inl (nextEntry_none.mpr (by simp [hs])),
    .inr ⟨q, by cases b <;> simp [hall], hq⟩⟩) n
  intro x hx hxpk
  refine Nat.lt_of_le_of_lt (m := 1) ?_ (by decide)
  have hfilter : m.allPaths.filter (·.parkedAt x.pc) = [p].filter (·.parkedAt x.pc) := by
    cases b <;> simp [hall, List.filter_cons, Path.parkedAt, hq]
  rw [hfilter]
  exact List.length_filter_le _ _

/-- A split into a path in its slot and one in the free slot. -/
theorem State.splitInto_of_settledTo {s : State} {c : Ctx} {i : Instr} (ha : c.Alone) {lo hi : Path}
    (hhi : hi.pk = false) {u : Slug} (hu : c.m.split c.iss.b (c.after s) lo hi = some u) (he : exec i s = .next (s.settledTo c u)) :
    s.SplitInto c i lo hi := by
  rw [Slug.split_free _ _ _ ha.other] at hu
  have hu := (Option.some.inj hu).symm
  have hb : u.slot c.iss.b = c.slotWith s.cyc lo := by rw [hu]; cases c.iss.b <;> rfl
  have hnb : u.slot (!c.iss.b) = { c.slotWith s.cyc hi with lastIssue := (c.m.slot (!c.iss.b)).lastIssue } := by
    rw [hu]; cases c.iss.b <;> rfl
  have honly : c.m.PathsOnly u := by rw [hu]; cases c.iss.b <;> rfl
  have hstack : u.stack = [] := by rw [hu]; simpa using ha.stack
  have hsettle : u.settle (c.readyFor c.m s.cyc) 512 = u :=
    Slug.settle_two (b := c.iss.b) (p := lo) (q := hi) (by rw [hb]; rfl) (by rw [hnb]; rfl) hstack hhi _ _
  rw [State.settledTo_of_empty ha.stack (by rw [hsettle, hstack]), hsettle] at he
  have hslug : c.slugIn (s.modSlug c.iss.fk c.iss.sl (fun _ => u)) = u := State.slug_modSlug _ _ _ _
  refine ⟨_, he, State.outsideAs_modSlug _ _ _ _, ?_⟩
  rw [hslug]
  exact ⟨honly.regsBut, by rw [hstack, ha.stack], honly.tx, honly.hnd, hb, hnb⟩

end Sys2Proof.Machine

namespace Sys2Proof

open Sys2Proof.Machine

/-- `BRV` in a slug with one path. -/
theorem vectorBranchSplits : Claim.VectorBranchSplits := by
  intro w m s c n hc ha hn taken rest pc
  refine ⟨fun ht => State.goes_of_settledTo hc ha (exec_brv_falls m hc hn ht),
    fun ht hr => State.goes_of_settledTo hc ha (exec_brv_jumps m hc hn ht hr), fun ht hr hp htx => ?_,
    fun ht hr hp htx => exec_brv_in_tx m hc hn ht hr hp htx⟩
  obtain ⟨u, hsplit⟩ : ∃ u, c.m.split c.iss.b (c.after s) (c.forked pc taken).1 (c.forked pc taken).2 = some u :=
    ⟨_, Slug.split_free _ _ _ ha.other⟩
  have hexec := exec_brv_splits m hc hn ht hr hp htx hsplit
  constructor <;> intro hlt
  · have hf : c.forked pc taken = ({ pc := pc, mask := taken }, { pc := c.nextPc, mask := rest }) := if_pos hlt
    rw [hf] at hsplit
    exact State.splitInto_of_settledTo ha rfl hsplit hexec
  · have hf : c.forked pc taken = ({ pc := c.nextPc, mask := rest }, { pc := pc, mask := taken }) := if_neg (by omega)
    rw [hf] at hsplit
    exact State.splitInto_of_settledTo ha rfl hsplit hexec

end Sys2Proof

namespace Sys2Proof.Machine

/-! ## Paths that meet (spec/01 R36) -/

/-- The only path of a slug does not stay parked. -/
theorem Slug.settle_one_parked {m : Slug} {b : Bool} {p : Path} (h : (m.slot b).path = some p) (ho : (m.slot !b).path = none)
    (hs : m.stack = []) (hp : p.pk = true) (ready : Path → Nat) (n : Nat) :
    m.settle ready (n + 1) = m.putSlot b ((m.slot b).fresh (some p.released) (ready p)) := by
  have hall := Slug.allPaths_of_one h ho hs
  have hmeet : m.meeting = none := Slug.meeting_none.mpr (fun x _ _ => by
    rw [hall]
    exact Nat.lt_of_le_of_lt (m := 1) (List.length_filter_le _ _) (by decide))
  have hrel : m.release ready = m.putSlot b ((m.slot b).fresh (some p.released) (ready p)) := by
    obtain ⟨j, ⟨q, hq, hj⟩, hrel⟩ := Slug.release_eq ready (m := m) (by simp [hall])
    obtain rfl : q = p := by simpa [hall] using hq
    rw [hrel]
    cases b <;> simp [Slug.slot] at h ho <;> simp [Slot.pcNat, h, ho, hj, Slot.released, Slug.putSlot, Slug.slot]
  have honce : m.settleOnce ready = some (m.release ready) := by
    have hnext : nextEntry m.stack = none := nextEntry_none.mpr (by simp [hs])
    simp [Slug.settleOnce, hmeet, hnext, hall, hp]
  rw [Slug.settle_succ honce, hrel]
  exact Slug.settle_one (b := b) (p := p.released) (by simp [Slot.fresh]) (by simpa using ho) (by simpa using hs) rfl _ _

/-- Two paths parked at one join point go on as one, in slot A. -/
theorem Slug.settle_two_parked {m : Slug} {p q : Path} {j : Addr} (ha : m.a.path = some p) (hb : m.b.path = some q) (hs : m.stack = [])
    (hp : p.parkedAt j = true) (hq : q.parkedAt j = true) (ready : Path → Nat) (n : Nat) :
    m.settle ready (n + 1) = { m with a := m.a.fresh (some (m.joined j)) (ready (m.joined j)), b := m.b.fresh none m.b.readyAt } := by
  have hall : m.allPaths = [p, q] := by simp [Slug.allPaths, ha, hb, hs]
  obtain ⟨hpk, hpc⟩ : p.pk = true ∧ p.pc = j := by simpa [Path.parkedAt] using hp
  have hmeet : m.meeting = some j := by
    simp [Slug.meeting, hall, hp, hq, hpk, hpc]
  have hmerge : m.merge j ready = { m with a := m.a.fresh (some (m.joined j)) (ready (m.joined j)), b := m.b.fresh none m.b.readyAt } := by
    have hap : m.a.parkedAt j = true := by simp [Slot.parkedAt, ha, hp]
    have hbp : m.b.parkedAt j = true := by simp [Slot.parkedAt, hb, hq]
    simp [Slug.merge, hap, hbp, hs, dropParked, Slug.joined]
  have honce : m.settleOnce ready = some (m.merge j ready) := by simp [Slug.settleOnce, hmeet]
  rw [Slug.settle_succ honce, hmerge]
  refine Slug.settle_one (b := false) (p := m.joined j) ?_ ?_ ?_ rfl _ _
  · rfl
  · rfl
  · exact hs

/-- Lanes that cover a mask that is not empty have a lane of it. -/
theorem and_ne_zero_of_covers {x a : Mask} (k : Mask) (hx : x ≠ 0) (hr : x &&& ~~~a = 0) : (a ||| k) &&& x ≠ 0 := by
  refine fun h => hx (BitVec.eq_of_getLsbD_eq (fun i hi => ?_))
  have h1 : (x &&& ~~~a).getLsbD i = false := by rw [hr]; exact BitVec.getLsbD_zero
  have h2 : ((a ||| k) &&& x).getLsbD i = false := by rw [h]; exact BitVec.getLsbD_zero
  have h0 : (0 : Mask).getLsbD i = false := BitVec.getLsbD_zero
  simp only [BitVec.getLsbD_and, BitVec.getLsbD_or, BitVec.getLsbD_not, hi, decide_true, Bool.true_and] at h1 h2
  rw [h0]
  cases hx : x.getLsbD i <;> simp [hx] at h1 h2
  · rfl
  · simp [h1] at h2

end Sys2Proof.Machine

namespace Sys2Proof

open Sys2Proof.Machine

/-- `JOIN` in a slug whose stack is empty. -/
theorem joinParksAndMerges : Claim.JoinParksAndMerges := by
  intro w m s c hc hs hrun hmask hocc rest ready joined
  have hnext : c.nextPc = c.path.pc + 8 := by simp [Ctx.nextPc, hocc]
  have hready {p : Path} (hp : p.mask &&& c.path.mask ≠ 0) : c.readyFor c.m s.cyc p = ready := by
    rw [Ctx.readyFor, if_neg hp]
  refine ⟨fun y hy hact hrest => ?_, fun ha hact => State.goes_of_settledTo hc ha (exec_join_falls m hc hact),
    fun _ hact hrest htx => exec_join_in_tx m hc hact hrest htx, fun ha hact hrest htx => ?_⟩
  · have hexec := exec_join_parks m hc hact hrest
    let here : Path := { pk := true, pc := c.path.pc, mask := c.act }
    let u : Slug := c.m.putSlot c.iss.b (c.slotWith s.cyc here)
    have hu : (u.slot c.iss.b).path = some here := by simp [u, Ctx.slotWith]
    have hus : u.stack = [] := by simp [u, hs]
    obtain ⟨v, hv⟩ : ∃ v, v = u.settle (c.readyFor c.m s.cyc) 512 := ⟨_, rfl⟩
    have hregs : c.m.RegsBut v [] :=
      ((Slug.pathsOnly_putSlot c.m c.iss.b _).trans (hv ▸ (u.settle_keeps (c.readyFor c.m s.cyc) 512).1)).regsBut
    have hmoved (hvs : v.stack = []) (b : Bool) (k : Mask) (hj : (v.slot b).path = some { pk := false, pc := c.path.pc + 8, mask := k }
        ∧ (v.slot b).readyAt = ready ∧ (v.slot b).pend = [] ∧ (v.slot (!b)).path = none) :
        ∃ t, exec (.join w m) s = .next t ∧ s.OutsideAs t c.iss.fk c.iss.sl ∧ c.m.RegsBut (c.slugIn t) [] ∧ joined t b k := by
      obtain ⟨hpath, hat, hpend, hother⟩ := hj
      have hslug : c.slugIn (s.modSlug c.iss.fk c.iss.sl (fun _ => v)) = v := State.slug_modSlug _ _ _ _
      refine ⟨_, hexec, ?_⟩
      rw [State.settledTo_of_empty (u := u) hs (by rw [← hv, hvs]), ← hv]
      refine ⟨State.outsideAs_modSlug _ _ _ _, ?_, ?_⟩
      · rwa [hslug]
      · simp only [joined, hslug]
        exact ⟨hpath, hat, hpend, hother, hvs⟩
    constructor
    · intro hnone
      have hone : v = u.putSlot c.iss.b ((u.slot c.iss.b).fresh (some here.released) (c.readyFor c.m s.cyc here)) := by
        rw [hv]
        exact Slug.settle_one_parked hu (by simp [u, hy, hnone]) hus rfl _ _
      have hcov : here.mask &&& c.path.mask ≠ 0 := by simpa using and_ne_zero_of_covers 0 hmask hrest
      refine hmoved (by rw [hone]; simpa using hus) c.iss.b c.act ?_
      rw [hone]
      simp [Slot.fresh, Path.released, here, hready hcov, u, hy, hnone]
    · intro k hk
      let there : Path := { pk := true, pc := c.path.pc, mask := k }
      have hother : (u.slot (!c.iss.b)).path = some there := by simp [u, hy, hk, there]
      obtain ⟨p, q, hp, hq, hpk, hqk, hor⟩ : ∃ p q, u.a.path = some p ∧ u.b.path = some q ∧ p.parkedAt c.path.pc = true
          ∧ q.parkedAt c.path.pc = true ∧ p.mask ||| q.mask = c.act ||| k := by
        cases hb : c.iss.b <;> rw [hb] at hu hother
        · exact ⟨here, there, hu, hother, by simp [Path.parkedAt, here], by simp [Path.parkedAt, there], rfl⟩
        · exact ⟨there, here, hother, hu, by simp [Path.parkedAt, there], by simp [Path.parkedAt, here], BitVec.or_comm _ _⟩
      have hjoined : u.joined c.path.pc = { pk := false, pc := c.path.pc + 8, mask := c.act ||| k } := by
        simp [Slug.joined, Slug.allPaths, hp, hq, hus, hpk, hqk, ← hor]
      have htwo := Slug.settle_two_parked hp hq hus hpk hqk (c.readyFor c.m s.cyc) 511
      rw [← hv, hjoined] at htwo
      refine hmoved (by rw [htwo]; exact hus) false (c.act ||| k) ?_
      rw [htwo]
      exact ⟨rfl, hready (and_ne_zero_of_covers k hmask hrest), rfl, rfl⟩
  · exact State.splitInto_of_settledTo ha rfl (Slug.split_free _ _ _ ha.other)
      (exec_join_splits m hc hact hrest htx (Slug.split_free _ _ _ ha.other))

end Sys2Proof

namespace Sys2Proof.Machine

/-! ## Settling with stack traffic, where nothing is disturbed -/

/-- Putting a slug that neither sleeps nor has a transaction open leaves the machine quiet. -/
theorem State.Quiet.modSlug {s : State} (q : s.Quiet) {fk sl : Nat} {u : Slug} (ht : u.tx = none) (hw : u.wake = none) :
    (s.modSlug fk sl (fun _ => u)).Quiet := by
  intro k j
  by_cases hkj : k = fk ∧ j = sl
  · obtain ⟨rfl, rfl⟩ := hkj
    rw [State.slug_modSlug]
    exact ⟨ht, hw⟩
  · rw [State.slugsAs_modSlug s fk sl _ k j hkj]
    exact q k j

/-- The issuing slug of a quiet machine neither sleeps nor has a transaction open. -/
theorem State.Quiet.ctx {s : State} (q : s.Quiet) {h : Hdr} {c : Ctx} (hc : s.ctx h = some c) : c.m.tx = none ∧ c.m.wake = none := by
  rw [← State.ctx_slug hc]
  exact q _ _

/-- The stack traffic of a settled slug leaves formes and slugs as the steps of R36 leave them. -/
theorem State.memOnly_settledTo {s : State} {h : Hdr} {c : Ctx} {u : Slug} (hc : s.ctx h = some c) (q : s.Quiet) (hu : c.m.PathsOnly u) :
    (s.modSlug c.iss.fk c.iss.sl (fun _ => u.settle (c.readyFor c.m s.cyc) 512)).MemOnly (s.settledTo c u) := by
  obtain ⟨ht, hw⟩ := q.ctx hc
  have honly := hu.trans (u.settle_keeps (c.readyFor c.m s.cyc) 512).1
  exact State.keeps_stackTraffic _ _ _ _ (q.modSlug (honly.tx.trans ht) (honly.wake.trans hw))

/-- The issuing slug is settled, and no other slug has changed. -/
theorem State.slugs_settledTo {s : State} {h : Hdr} {c : Ctx} {u : Slug} (hc : s.ctx h = some c) (q : s.Quiet) (hu : c.m.PathsOnly u) :
    c.slugIn (s.settledTo c u) = u.settle (c.readyFor c.m s.cyc) 512 ∧ s.SlugsAs (s.settledTo c u) c.iss.fk c.iss.sl := by
  have hmem := State.memOnly_settledTo hc q hu
  refine ⟨by rw [Ctx.slugIn, hmem.slugs, State.slug_modSlug], fun k j hkj => ?_⟩
  rw [hmem.slugs, State.slugsAs_modSlug s _ _ _ k j hkj]

/-! ## An entry of the divergence stack written through L1 (spec/01 R38, R39, spec/07 R228) -/

/-- An access that passes every check of R275 finds its place in memory, and leaves the translation buffers as they are. -/
theorem State.Mapped.translate {s : State} {c : Ctx} {need : Need} {va n pa : Nat} {l : Leaf} (h : s.Mapped c need va n pa l) :
    s.translate (some c.core) (s.partOf c) va n need = (s, .ok (pa, l)) := by
  have hleaf : s.leafFor (some c.core) va = (s, .ok l) := by
    have hva : ¬ 2 ^ 54 ≤ va := Nat.not_le.mpr h.canonical
    unfold State.leafFor
    rw [if_neg hva]
    simp [h.held]
  have hplace : l.frame + (va - l.base) = pa := h.place.symm
  simp [State.translate, hleaf, hplace, h.normal, h.clean, h.owned, h.allowed]

/-- A copy of the right kind is ready for an access as it stands. -/
theorem State.Cached.l1Ready {s : State} {core pa n : Nat} {k : LineKind} (h : s.Cached core pa n k) : s.l1Ready core (lineOf pa) k = s := by
  simp [State.l1Ready, h.noPartial, h.kind]

theorem State.Cached.data_ne_nil {s : State} {core pa n : Nat} {k : LineKind} (h : s.Cached core pa n k) :
    (s.l1Line core (lineOf pa)).data.isEmpty = false := by
  have := h.data
  cases hd : (s.l1Line core (lineOf pa)).data with
  | nil => simp [hd] at this
  | cons => rfl

/-- A read that a core's copy answers changes nothing. -/
theorem State.Cached.l1Read {s : State} {core pa n : Nat} {k : LineKind} (h : s.Cached core pa n k) (x : HotInfo) :
    (s.l1Read core pa n k x).1 = s := by
  simp [State.l1Read, h.l1Ready, h.data_ne_nil, h.valid]

/-- The line after bytes were written into it at an offset (R228). -/
def L1Line.stored (x : L1Line) (o : Nat) (bs : List Byte) (k : LineKind) (hot : HotInfo) (w : HeldBy) : L1Line :=
  { x with
    kind := k
    hot := hot
    data := x.data.take o ++ bs ++ x.data.drop (o + bs.length)
    dirty := x.dirty ||| (BitVec.ofNat 128 (2 ^ bs.length - 1) <<< o)
    owners := w.owner x.owners
    glue := x.glue ||| glueMask o bs.length }

/-- A write to a copy that the core holds changes the copy alone. -/
theorem State.Cached.l1Write {s : State} {core pa n : Nat} {k : LineKind} (h : s.Cached core pa n k) (hk : k ≠ .so) (bs : List Byte)
    (x : HotInfo) (w : HeldBy) :
    s.l1Write core pa bs k x w = s.putL1 core (lineOf pa) ((s.l1Line core (lineOf pa)).stored (pa % 128) bs k x w) := by
  have hso : (k == LineKind.so) = false := by simpa using hk
  simp [State.l1Write, h.l1Ready, hso, h.data_ne_nil, L1Line.stored]

/-- The bytes of a line written at an offset, and which of them are dirty. -/
theorem L1Line.stored_byte (x : L1Line) {o : Nat} {bs : List Byte} (k : LineKind) (hot : HotInfo) (w : HeldBy) (hd : x.data.length = 128)
    (ho : o + bs.length ≤ 128) {j : Nat} (hj : j < 128) :
    ((x.stored o bs k hot w).data.getD j 0, (x.stored o bs k hot w).dirty.getLsbD j)
      = if o ≤ j ∧ j < o + bs.length then (bs.getD (j - o) 0, true) else (x.data.getD j 0, x.dirty.getLsbD j) := by
  have hdata : (x.stored o bs k hot w).data = x.data.take o ++ bs ++ x.data.drop (o + bs.length) := rfl
  have hdirty : (x.stored o bs k hot w).dirty.getLsbD j = (x.dirty.getLsbD j || (decide (o ≤ j) && decide (j < o + bs.length))) := by
    show (x.dirty ||| (BitVec.ofNat 128 (2 ^ bs.length - 1) <<< o)).getLsbD j = _
    rw [BitVec.getLsbD_or, BitVec.getLsbD_shiftLeft, BitVec.getLsbD_ofNat, Nat.testBit_two_pow_sub_one]
    by_cases h1 : o ≤ j <;> simp [hj, h1, Nat.not_lt.mpr, show j - o < 128 by omega]
    · congr 1
      simp only [decide_eq_decide]
      omega
  have htake : (x.data.take o).length = o := by simp [hd]; omega
  rw [hdirty, hdata]
  by_cases h1 : o ≤ j
  · by_cases h2 : j < o + bs.length
    · have hget : (x.data.take o ++ bs ++ x.data.drop (o + bs.length)).getD j 0 = bs.getD (j - o) 0 := by
        rw [List.append_assoc, List.getD_append_right _ _ _ _ (by omega), htake, List.getD_append _ _ _ _ (by omega)]
      simp only [hget, h1, h2, and_self, if_true, decide_true, Bool.and_self, Bool.or_true]
    · have hget : (x.data.take o ++ bs ++ x.data.drop (o + bs.length)).getD j 0 = x.data.getD j 0 := by
        rw [List.getD_append_right _ _ _ _ (by rw [List.length_append]; omega), List.length_append, htake]
        simp only [List.getD_eq_getElem?_getD, List.getElem?_drop]
        congr 2
        omega
      simp only [hget, h1, h2, and_false, if_false, decide_true, decide_false, Bool.and_false, Bool.or_false]
  · have hget : (x.data.take o ++ bs ++ x.data.drop (o + bs.length)).getD j 0 = x.data.getD j 0 := by
      rw [List.append_assoc, List.getD_append _ _ _ _ (by omega)]
      simp only [List.getD_eq_getElem?_getD, List.getElem?_take, show j < o by omega, if_true]
    simp only [hget, h1, false_and, if_false, decide_false, Bool.false_and, Bool.or_false]

theorem length_entryBytes (p : Path) : p.entryBytes.length = 16 := by simp [Path.entryBytes, bytesOf]

theorem toNat_append_eq_add {v w : Nat} (x : BitVec v) (y : BitVec w) : (x ++ y).toNat = x.toNat * 2 ^ w + y.toNat := by
  rw [BitVec.toNat_append, ← Nat.shiftLeft_add_eq_or_of_lt y.isLt, Nat.shiftLeft_eq]

/-- The number of an entry whose path is not parked (R38). -/
theorem Path.toNat_entry {p : Path} (hp : p.pk = false) : p.entry.toNat = p.mask.toNat * 2 ^ 96 + p.pc.toNat / 8 * 8 := by
  have hpc : (p.pc.extractLsb' 3 51).toNat = p.pc.toNat / 8 := by
    have := p.pc.isLt
    rw [BitVec.extractLsb'_toNat, Nat.shiftRight_eq_div_pow]
    omega
  have h0 : (BitVec.ofBool false).toNat = 0 := rfl
  simp only [Path.entry, toNat_append_eq_add, hp, hpc, h0, BitVec.toNat_ofNat]
  omega

/-- The bytes of an entry whose path is not parked. -/
theorem getD_entryBytes {p : Path} (hp : p.pk = false) {i : Nat} (hi : i < 16) :
    p.entryBytes.getD i 0 = BitVec.ofNat 8 ((p.mask.toNat * 2 ^ 96 + p.pc.toNat / 8 * 8) / 256 ^ i) := by
  rw [← Path.toNat_entry hp]
  simp [Path.entryBytes, bytesOf, hi]

/-! ## A path pushed onto the stack (spec/01 R34, R39) -/

/-- A slug with both slots running and no entry parked is settled. -/
theorem Slug.settle_running {m : Slug} {b : Bool} {p q : Path} (h : (m.slot b).path = some p) (ho : (m.slot !b).path = some q)
    (hp : p.pk = false) (hq : q.pk = false) (hs : ∀ e ∈ m.stack, e.pk = false) (ready : Path → Nat) (n : Nat) :
    m.settle ready n = m := by
  have hslots : m.a.path.isSome ∧ m.b.path.isSome := by cases b <;> simp [Slug.slot] at h ho <;> simp [h, ho]
  have hall : ∀ e ∈ m.allPaths, e.pk = false := by
    intro e he
    simp only [Slug.allPaths, List.mem_append, Option.mem_toList] at he
    cases b <;> simp [Slug.slot] at h ho <;> simp [h, ho] at he
    · rcases he with (rfl | rfl) | he
      exacts [hp, hq, hs e he]
    · rcases he with (rfl | rfl) | he
      exacts [hq, hp, hs e he]
  have hne : m.allPaths ≠ [] := by
    cases b <;> simp [Slug.slot] at h ho <;> simp [Slug.allPaths, h, ho]
  exact Slug.settle_of_none (Slug.settleOnce_of_running hne hall (.inr hslots)) n

/-- Where the core holds the entries there were and the place of the new one, pushing a path writes its entry into that copy and does
nothing else. -/
theorem State.stackTraffic_push {s : State} {fk sl : Nat} {old : List Path} {p : Path} (hs : (s.slug fk sl).stack = old ++ [p])
    (hread : ∀ k, k < old.length → s.stackRead fk sl k = s) :
    s.stackTraffic fk sl old = s.stackWrite fk sl old.length p := by
  have hreads (n : Nat) (hn : n ≤ old.length) : (List.range n).foldl (fun s i => s.stackRead fk sl i) s = s := by
    induction n with
    | zero => rfl
    | succ n ih => rw [List.range_succ, List.foldl_append, ih (by omega)]; exact hread n (by omega)
  have hwrites (n : Nat) (hn : n ≤ old.length) (u : State) : (List.range n).foldl (fun s i =>
      if old[i]? = (old ++ [p])[i]? then s else s.stackWrite fk sl i ((old ++ [p]).getD i {})) u = u := by
    induction n with
    | zero => rfl
    | succ n ih =>
      rw [List.range_succ, List.foldl_append, ih (by omega)]
      simp [List.getElem?_append_left (show n < old.length by omega)]
  simp only [State.stackTraffic, hs, hreads _ (Nat.le_refl _), List.length_append, List.length_singleton]
  rw [List.range_succ, List.foldl_append, hwrites _ (Nat.le_refl _)]
  simp

/-- The hotness record of an access to the divergence stack. -/
def State.stackHot (s : State) (c : Ctx) (i : Nat) (l : Leaf) : HotInfo := s.hotInfo c (s.privBase c.iss.fk c.iss.sl + 16 * i) l

/-- Where an entry of the issuing slug's stack lies. -/
theorem State.stackAt_of_mapped {s t : State} {h : Hdr} {c : Ctx} (hc : s.ctx h = some c) {u : Slug}
    (ht : t = s.modSlug c.iss.fk c.iss.sl (fun _ => u)) {i pa : Nat} {l : Leaf} {need : Need}
    (hm : s.Mapped c need (s.privBase c.iss.fk c.iss.sl + 16 * i) 16 pa l) :
    t.stackAt c.iss.fk c.iss.sl i need = (t, some (pa, l.kind, s.stackHot c i l)) := by
  subst ht
  have hf : (s.modSlug c.iss.fk c.iss.sl (fun _ => u)).forme c.iss.fk = { c.f with slugs := (c.f.modSlug c.iss.sl (fun _ => u)).slugs } := by
    rw [State.forme_modSlug, State.ctx_forme hc]
    rfl
  have hm' : (s.modSlug c.iss.fk c.iss.sl (fun _ => u)).Mapped c need (s.privBase c.iss.fk c.iss.sl + 16 * i) 16 pa l :=
    ⟨hm.canonical, hm.held, hm.place, hm.page, hm.normal, hm.allowed, hm.clean, hm.owned⟩
  have hpriv : (s.modSlug c.iss.fk c.iss.sl (fun _ => u)).privBase c.iss.fk c.iss.sl = s.privBase c.iss.fk c.iss.sl := by
    simp only [State.privBase, hf, State.ctx_forme hc]
    rfl
  unfold State.stackAt
  simp only [hpriv, hf]
  rw [show (s.modSlug c.iss.fk c.iss.sl (fun _ => u)).translate (some c.f.core)
      ((s.modSlug c.iss.fk c.iss.sl (fun _ => u)).launch c.f.launch).part _ 16 need = _ from hm'.translate]
  simp only [hm.normal, if_true]
  rfl

/-- An entry that the core holds is read without a change. -/
theorem State.stackRead_of_cached {s t : State} {h : Hdr} {c : Ctx} (hc : s.ctx h = some c) {u : Slug}
    (ht : t = s.modSlug c.iss.fk c.iss.sl (fun _ => u)) {i pa : Nat} {l : Leaf}
    (hm : s.Mapped c .read (s.privBase c.iss.fk c.iss.sl + 16 * i) 16 pa l) (hk : s.Cached c.core pa 16 l.kind) :
    t.stackRead c.iss.fk c.iss.sl i = t := by
  have hat := State.stackAt_of_mapped hc ht hm
  subst ht
  have hk' : (s.modSlug c.iss.fk c.iss.sl (fun _ => u)).Cached c.core pa 16 l.kind := ⟨hk.line, hk.data, hk.kind, hk.valid, hk.noPartial⟩
  have hcore : ((s.modSlug c.iss.fk c.iss.sl (fun _ => u)).forme c.iss.fk).core = c.core := by
    rw [State.forme_modSlug, State.ctx_forme hc]
    rfl
  unfold State.stackRead
  rw [hat]
  simp only [hcore]
  exact hk'.l1Read _

/-- An entry whose place the core holds is written into that copy. -/
theorem State.stackWrite_of_cached {s t : State} {h : Hdr} {c : Ctx} (hc : s.ctx h = some c) {u : Slug}
    (ht : t = s.modSlug c.iss.fk c.iss.sl (fun _ => u)) {i pa : Nat} {l : Leaf}
    (hm : s.Mapped c .write (s.privBase c.iss.fk c.iss.sl + 16 * i) 16 pa l) (hk : s.Cached c.core pa 16 l.kind) (hso : l.kind ≠ .so)
    (p : Path) :
    t.stackWrite c.iss.fk c.iss.sl i p = t.putL1 c.core (lineOf pa)
      ((s.l1Line c.core (lineOf pa)).stored (pa % 128) p.entryBytes l.kind (s.stackHot c i l) (.path c.iss.fk c.iss.sl false)) := by
  have hat := State.stackAt_of_mapped hc ht hm
  subst ht
  have hk' : (s.modSlug c.iss.fk c.iss.sl (fun _ => u)).Cached c.core pa 16 l.kind := ⟨hk.line, hk.data, hk.kind, hk.valid, hk.noPartial⟩
  have hcore : ((s.modSlug c.iss.fk c.iss.sl (fun _ => u)).forme c.iss.fk).core = c.core := by
    rw [State.forme_modSlug, State.ctx_forme hc]
    rfl
  unfold State.stackWrite
  rw [hat]
  simp only [hcore]
  exact hk'.l1Write hso _ _ _

/-- A line put into a core's L1 changes that core's L1 alone. -/
theorem State.l1Line_putL1 (s : State) (core line : Nat) (x : L1Line) (j : Nat) :
    (s.putL1 core line x).l1Line core j = if j = line then x else s.l1Line core j := by
  rw [State.l1Line, State.putL1, State.core_modCore]
  exact Sparse.look_put _ _ _ _

/-- A changed slug and a line put into its core's L1 are all that differs. -/
theorem State.l1Only_putL1 (s : State) (fk sl core line : Nat) (u : Slug) (x : L1Line) :
    s.L1Only ((s.modSlug fk sl (fun _ => u)).putL1 core line x) fk sl core
      ∧ s.BytesAs ((s.modSlug fk sl (fun _ => u)).putL1 core line x) := by
  have hout := State.outsideAs_modSlug s fk sl (fun _ => u)
  have hdevice : { (s.modSlug fk sl (fun _ => u)).putL1 core line x with formes := s.formes, cores := s.cores } = s := by
    show ({ ({ s.modSlug fk sl (fun _ => u) with cores := ((s.modSlug fk sl (fun _ => u)).putL1 core line x).cores } : State) with
      formes := s.formes, cores := s.cores } : State) = s
    rfl
  refine ⟨⟨hdevice, hout.formes, hout.slugs, fun k hk => ?_, ?_⟩, ⟨hout.bytes.dram, hout.bytes.scratch, hout.bytes.acc⟩⟩
  · exact State.core_modCore_ne _ _ hk
  · rw [State.putL1, State.core_modCore]
    rfl

/-- The bytes of a core's L1 after an entry was written into a copy it holds. -/
theorem State.l1Byte_putL1_stored {s t : State} {core pa n : Nat} {k : LineKind} (h : s.Cached core pa n k) (ht : t.cores = s.cores)
    {bs : List Byte} (hn : bs.length = n) (k' : LineKind) (hot : HotInfo) (w : HeldBy) (b : Nat) :
    (t.putL1 core (lineOf pa) ((s.l1Line core (lineOf pa)).stored (pa % 128) bs k' hot w)).l1Byte core b
      = if pa ≤ b ∧ b < pa + n then (bs.getD (b - pa) 0, true) else s.l1Byte core b := by
  have hline := h.line
  have hlt : t.l1Line core = s.l1Line core := by funext j; simp [State.l1Line, State.core, ht]
  unfold State.l1Byte
  rw [State.l1Line_putL1, hlt]
  by_cases hb : lineOf b = lineOf pa
  · rw [if_pos hb, L1Line.stored_byte _ _ _ _ h.data (by omega) (Nat.mod_lt _ (by decide)), hn, hb]
    unfold lineOf at hb
    have hiff : (pa % 128 ≤ b % 128 ∧ b % 128 < pa % 128 + n) ↔ (pa ≤ b ∧ b < pa + n) := by omega
    have hoff : b % 128 - pa % 128 = b - pa := by omega
    simp only [hiff, hoff]
  · rw [if_neg hb, if_neg (by unfold lineOf at hb; omega)]

end Sys2Proof.Machine

namespace Sys2Proof

open Sys2Proof.Machine

/-- A split whose other slot is taken. -/
theorem divergenceStackPush : Claim.DivergenceStackPush := by
  intro w m s c n q hc hn hq hqpk hstack hund taken rest pc ht hr hp t1 t2 pushed entry place
  have htaken : (c.m.slot (!c.iss.b)).path ≠ none := by rw [hq]; simp
  have htx := (hund.quiet.ctx hc).1
  have hpushed : (c.forked pc taken).2 = pushed := by unfold Ctx.forked; dsimp only; split <;> simp [pushed, t1, t2, rest, *]
  have hkept : (c.forked pc taken).1 = if pc.toNat < c.nextPc.toNat then t1 else t2 := by unfold Ctx.forked; dsimp only; split <;> rfl
  have hpk : pushed.pk = false := by simp only [pushed]; split <;> rfl
  constructor
  · intro hroom
    obtain ⟨u, hu⟩ : ∃ u : Slug, u = { c.m.putSlot c.iss.b (c.slotWith s.cyc (if pc.toNat < c.nextPc.toNat then t1 else t2)) with
      stack := c.m.stack ++ [pushed] } := ⟨_, rfl⟩
    have hsplit : c.m.split c.iss.b (c.after s) (c.forked pc taken).1 (c.forked pc taken).2 = some u := by
      rw [Slug.split_push _ _ _ htaken hroom, hpushed, hkept, hu, Ctx.after_with]
    have honly := Slug.pathsOnly_split hsplit
    have hb : u.slot c.iss.b = c.slotWith s.cyc (if pc.toNat < c.nextPc.toNat then t1 else t2) := by rw [hu]; cases c.iss.b <;> rfl
    have hnb : u.slot (!c.iss.b) = c.m.slot (!c.iss.b) := by rw [hu]; cases c.iss.b <;> rfl
    have hus : u.stack = c.m.stack ++ [pushed] := by rw [hu]
    have hsettle : u.settle (c.readyFor c.m s.cyc) 512 = u := by
      refine Slug.settle_running (b := c.iss.b) (by rw [hb]; rfl) (by rw [hnb, hq]) ?_ hqpk (fun e he => ?_) _ _
      · split <;> rfl
      · rw [hus] at he
        rcases List.mem_append.mp he with he | he
        · exact hstack e he
        · rw [List.mem_singleton.mp he, hpk]
    obtain ⟨hslug, hslugs⟩ := State.slugs_settledTo hc hund.quiet honly
    rw [hsettle] at hslug
    refine ⟨_, exec_brv_splits m hc hn ht hr hp htx hsplit, hslugs, ?_, ?_, ?_⟩
    · rw [hslug]
      exact honly.regsBut
    · intro hread pa l hmap hcached hso
      have hpush := State.stackTraffic_push (s := s.modSlug c.iss.fk c.iss.sl (fun _ => u)) (fk := c.iss.fk) (sl := c.iss.sl)
        (old := c.m.stack) (p := pushed) (by rw [State.slug_modSlug, hus]) (fun k hk => by
          obtain ⟨pa', l', hmap', hcached'⟩ := hread k hk
          exact State.stackRead_of_cached hc rfl hmap' hcached')
      rw [State.stackWrite_of_cached hc rfl hmap hcached hso] at hpush
      obtain ⟨hl1, hbytes⟩ := State.l1Only_putL1 s c.iss.fk c.iss.sl c.core (lineOf pa) u
        ((s.l1Line c.core (lineOf pa)).stored (pa % 128) pushed.entryBytes l.kind (s.stackHot c c.m.stack.length l)
          (.path c.iss.fk c.iss.sl false))
      rw [State.settledTo, hsettle, hpush]
      refine ⟨hl1, hbytes, fun b => ?_⟩
      rw [State.l1Byte_putL1_stored (t := s.modSlug c.iss.fk c.iss.sl (fun _ => u)) (n := 16) hcached rfl (length_entryBytes _)]
      by_cases hin : pa ≤ b ∧ b < pa + 16
      · rw [if_pos hin, if_pos hin, getD_entryBytes hpk (by omega)]
      · rw [if_neg hin, if_neg hin]
    · rw [hslug]
      exact ⟨hnb, hb, hus⟩
  · intro hfull
    exact exec_brv_full m hc hn ht hr hp htx (Slug.split_full _ _ _ htaken hfull)

/-- Settles O23: each claim follows from what `BRV` and `JOIN` make of the slug, the steps of R36 on it, and its stack traffic. -/
theorem divergence : Obligations.Divergence :=
  ⟨vectorBranchSplits, divergenceStackPush, joinParksAndMerges, pathsSettled⟩

end Sys2Proof

namespace Sys2Proof.Machine

/-! ## Lanes that exit (spec/01 R37, spec/02 R67) -/

/-- A forme in whose remap table the lanes of a mask of a slug have exited. -/
def Forme.retireLanes (f : Forme) (sl : Nat) (gone : Mask) : Forme :=
  { f with remap := ((planes gone).map (f.vlidAt sl)).foldl (fun t v => t.upd v (fun r => { r with dead := true })) f.remap }

/-- Marking a list of lane ids as exited marks them and no other. -/
theorem Sparse.look_foldl_dead (l : List Nat) (t : Sparse Remap) (v : Nat) :
    (l.foldl (fun t v => t.upd v (fun r => { r with dead := true })) t).look v
      = if v ∈ l then { t.look v with dead := true } else t.look v := by
  induction l generalizing t with
  | nil => simp
  | cons x r ih =>
    rw [List.foldl_cons, ih, Sparse.look_upd]
    by_cases hx : v = x <;> by_cases hr : v ∈ r <;> simp [hx, hr]

theorem Forme.exitedAs_retireLanes (f : Forme) (sl : Nat) (gone : Mask) : f.ExitedAs (f.retireLanes sl gone) sl gone :=
  fun v => Sparse.look_foldl_dead _ _ v

theorem State.modForme_congr {s : State} {k : Nat} {f g : Forme → Forme} (h : f (s.forme k) = g (s.forme k)) :
    s.modForme k f = s.modForme k g := by
  simp only [State.modForme, Sparse.upd]
  rw [show f (s.formes.look k) = g (s.formes.look k) from h]

/-- A change of a forme that keeps its slugs. -/
theorem State.slug_modForme_of_slugs {s : State} {k : Nat} {g : Forme → Forme} (hg : (g (s.forme k)).slugs = (s.forme k).slugs) (i j : Nat) :
    (s.modForme k g).slug i j = s.slug i j := by
  by_cases hi : i = k
  · subst hi
    rw [State.slug, State.forme_modForme, hg, State.slug]
  · rw [State.slug, State.forme_modForme_ne s g hi, State.slug]

/-- A change of the issuing forme that keeps its slugs leaves the context as it is but for the forme. -/
theorem State.ctx_modForme {s : State} {h : Hdr} {c : Ctx} (hc : s.ctx h = some c) {g : Forme → Forme}
    (hg : (g c.f).slugs = c.f.slugs) : (s.modForme c.iss.fk g).ctx h = some { c with f := g c.f } := by
  obtain ⟨hcur, hf, hm, hslot, hpath, hact⟩ := State.ctx_eq hc
  have hlook : c.f.slugs.look c.iss.sl = c.m := by rw [hm, hf, State.slug]
  unfold State.ctx
  simp only [State.modForme_cur, hcur, State.forme_modForme, ← hf, hg, hlook, ← hslot, hpath, ← hact]

/-- The machine in whose remap table the active lanes of the issuing slug have exited. -/
def State.retired (s : State) (c : Ctx) : State := s.modForme c.iss.fk (fun f => f.retireLanes c.iss.sl c.act)

section Retired

variable {s : State} {h : Hdr} {c : Ctx}

theorem State.slug_retired (s : State) (c : Ctx) (k j : Nat) : (s.retired c).slug k j = s.slug k j :=
  State.slug_modForme_of_slugs rfl k j

theorem State.Quiet.retired (q : s.Quiet) (c : Ctx) : (s.retired c).Quiet := fun k j => by
  rw [State.slug_retired]
  exact q k j

theorem State.ctx_retired (hc : s.ctx h = some c) :
    (s.retired c).ctx h = some { c with f := c.f.retireLanes c.iss.sl c.act } :=
  State.ctx_modForme hc (g := fun f => f.retireLanes c.iss.sl c.act) rfl

theorem State.forme_retired (hc : s.ctx h = some c) : (s.retired c).forme c.iss.fk = c.f.retireLanes c.iss.sl c.act := by
  rw [State.retired, State.forme_modForme, State.ctx_forme hc]

/-- The steps of R36 do not look at the forme. -/
theorem State.settledTo_forme (s : State) (c : Ctx) (f : Forme) (u : Slug) : s.settledTo { c with f := f } u = s.settledTo c u := rfl

theorem State.slugs_settledTo_retired (hc : s.ctx h = some c) (q : s.Quiet) {u : Slug} (hu : c.m.PathsOnly u) :
    c.slugIn ((s.retired c).settledTo c u) = u.settle (c.readyFor c.m s.cyc) 512
      ∧ s.SlugsAs ((s.retired c).settledTo c u) c.iss.fk c.iss.sl := by
  obtain ⟨hslug, hslugs⟩ := State.slugs_settledTo (u := u) (State.ctx_retired hc) (q.retired c) hu
  rw [State.settledTo_forme] at hslug hslugs
  refine ⟨hslug, fun k j hkj => ?_⟩
  rw [← State.slug_retired s c]
  exact hslugs k j hkj

end Retired

theorem State.MemOnly.gathers {s t : State} (h : s.MemOnly t) (k : Nat) : (t.forme k).gathers = (s.forme k).gathers := by
  have k := congrArg Forme.gathers (h.formes k)
  exact k

/-- Without an open gathering none closes. -/
theorem State.closeFull_of_nil {s : State} {k : Nat} (h : (s.forme k).gathers = []) : s.closeFull k = s := by
  simp [State.closeFull, h]

/-- A word that only completes. -/
theorem State.done_retire {s : State} {h : Hdr} {c : Ctx} (hc : s.ctx h = some c) : s.Done (s.retire c) c c.nextPc [] := by
  have hdone := (State.done_of hc id c.nextPc [] (Slug.regsBut_refl _ _) (Slug.restAs_refl _ _) rfl).1
  rw [State.modCur_retireTo (State.ctx_cur hc)] at hdone
  have hretire : s.retire c = s.modSlug c.iss.fk c.iss.sl (c.finish s.cyc c.nextPc) := State.retireTo_eq (State.ctx_cur hc) _
  rw [hretire]
  exact hdone

/-! ## `EXIT` (spec/01 R37) -/

/-- The slot of the issuing path once its enabled lanes have exited. -/
def Ctx.slotLeft (c : Ctx) (now : Nat) : Slot :=
  if c.path.mask &&& ~~~c.act = 0 then { c.slotAt now 0 with path := none, pend := [], yielding := none }
  else c.slotWith now { pc := c.nextPc, mask := c.path.mask &&& ~~~c.act }

section Exit

variable {s : State} {w : Ops} {c : Ctx} (m : AluMod) (hc : s.ctx w.h = some c)
include hc

/-- What an `EXIT` does, by its active lanes. -/
theorem exec_exit : exec (.exit w m) s = .next (
    if c.act = 0 then s.retire c
    else if c.m.tx.isSome then s.trapCode c 0x33
    else if c.act == c.m.liveLanes && c.m.owner && s.engineBusy c.iss.fk true then s.hold
    else if c.act == c.m.liveLanes then (s.retired c).endSlug c.iss.fk c.iss.sl
    else (((s.retired c).modCur (fun m => m.putSlot c.iss.b (c.slotLeft s.cyc))).settleCur c).closeFull c.iss.fk) := by
  have hretired : s.modForme c.iss.fk (fun f => { f with remap :=
      ((planes c.act).map (fun p => c.f.vlidAt c.iss.sl p)).foldl (fun t v => t.upd v (fun r => { r with dead := true })) f.remap })
      = s.retired c := State.modForme_congr (by rw [State.ctx_forme hc]; rfl)
  show execExit w m s = _
  simp only [execExit, vectorWord, hc, hretired]
  rfl

theorem exec_exit_goes (ha : c.act = 0) : s.Goes c (.exit w m) c.nextPc :=
  ⟨s.retire c, by rw [exec_exit m hc, if_pos ha], State.done_retire hc⟩

variable (ha : c.act ≠ 0) (htx : c.m.tx = none)
include ha htx

/-- An `EXIT` that leaves its slug a lane. -/
theorem exec_exit_leaves (hl : c.act ≠ c.m.liveLanes) (hg : c.f.gathers = []) (q : s.Quiet) :
    exec (.exit w m) s = .next ((s.retired c).settledTo c (c.m.putSlot c.iss.b (c.slotLeft s.cyc))) := by
  have hl' : (c.act == c.m.liveLanes) = false := by simpa using hl
  have honly := Slug.pathsOnly_putSlot c.m c.iss.b (c.slotLeft s.cyc)
  have hctx := State.ctx_retired hc
  have hsettle : ((s.retired c).modCur (fun m => m.putSlot c.iss.b (c.slotLeft s.cyc))).settleCur c
      = (s.retired c).settledTo c (c.m.putSlot c.iss.b (c.slotLeft s.cyc)) :=
    State.settleCur_modCur (f := fun m => m.putSlot c.iss.b (c.slotLeft s.cyc)) hctx honly
  have hmem := State.memOnly_settledTo hctx (q.retired c) honly
  have hgathers : (((s.retired c).settledTo c (c.m.putSlot c.iss.b (c.slotLeft s.cyc))).forme c.iss.fk).gathers = [] := by
    rw [← State.settledTo_forme _ c (c.f.retireLanes c.iss.sl c.act), hmem.gathers]
    simp only [State.forme_modSlug, State.forme_retired hc]
    exact hg
  rw [exec_exit m hc, if_neg ha, if_neg (by simp [htx]), if_neg (by simp [hl]), if_neg (by simp [hl]), hsettle,
    State.closeFull_of_nil hgathers]

theorem exec_exit_holds (hl : c.act = c.m.liveLanes) (ho : c.m.owner = true) (hb : s.engineBusy c.iss.fk true = true) :
    exec (.exit w m) s = .next s.hold := by
  rw [exec_exit m hc, if_neg ha, if_neg (by simp [htx]), if_pos (by simp [hl, ho, hb])]

/-- An `EXIT` of the last lanes of its slug. -/
theorem exec_exit_ends (hl : c.act = c.m.liveLanes) (ho : c.m.owner = false ∨ s.engineBusy c.iss.fk true = false) :
    exec (.exit w m) s = .next ((s.retired c).endSlug c.iss.fk c.iss.sl) := by
  rw [exec_exit m hc, if_neg ha, if_neg (by simp [htx]), if_neg (by rcases ho with h | h <;> simp [h]), if_pos (by simp [hl])]

end Exit

end Sys2Proof.Machine

namespace Sys2Proof

open Sys2Proof.Machine

/-- `BRV`, `JOIN` and `EXIT` in every slug. -/
theorem pathFormsInEverySlug : Claim.PathFormsInEverySlug := by
  intro w m s c hc hund b becomes at' with' splits
  have q := hund.quiet
  have htx := (q.ctx hc).1
  have hbecomes {i : Instr} {u : Slug} (hu : c.m.PathsOnly u) (he : exec i s = .next (s.settledTo c u)) : becomes i u :=
    ⟨_, he, State.slugs_settledTo hc q hu⟩
  have hat (pc : Addr) : c.m.PathsOnly (at' pc) := Slug.pathsOnly_putSlot _ _ _
  have hsplits {i : Instr} {lo hi : Path}
      (he : ∀ u, c.m.split b (c.after s) lo hi = some u → exec i s = .next (s.settledTo c u)) : splits i lo hi :=
    ⟨fun h => hbecomes (Slug.pathsOnly_split (Slug.split_free _ _ _ h)) (he _ (Slug.split_free _ _ _ h)),
      fun h hs => hbecomes (Slug.pathsOnly_split (Slug.split_push _ _ _ h hs)) (he _ (Slug.split_push _ _ _ h hs))⟩
  refine ⟨?_, ?_⟩
  · intro n hn taken rest pc
    refine ⟨fun ht => hbecomes (hat _) (exec_brv_falls m hc hn ht),
      fun ht hr => hbecomes (hat _) (exec_brv_jumps m hc hn ht hr), fun ht hr hlt => ?_, fun ht hr hlt => ?_⟩
    · have hf : c.forked pc taken = ({ pc := pc, mask := taken }, { pc := c.nextPc, mask := rest }) := if_pos hlt
      have hp : pc ≠ c.nextPc := fun h => by rw [h] at hlt; omega
      exact hsplits (fun u hu => exec_brv_splits m hc hn ht hr hp htx (hf.symm ▸ hu))
    · have hf : c.forked pc taken = ({ pc := c.nextPc, mask := rest }, { pc := pc, mask := taken }) := if_neg (by omega)
      have hp : pc ≠ c.nextPc := fun h => by rw [h] at hlt; omega
      exact hsplits (fun u hu => exec_brv_splits m hc hn ht hr hp htx (hf.symm ▸ hu))
  · intro rest here
    refine ⟨fun ha => hbecomes (hat _) (exec_join_falls m hc ha),
      fun ha hr => hbecomes (Slug.pathsOnly_putSlot _ _ _) (exec_join_parks m hc ha hr),
      fun ha hr => hsplits (fun u hu => exec_join_splits m hc ha hr htx hu), fun ha hl hg => ?_⟩
    have hexec := exec_exit_leaves m hc ha htx hl hg q
    have hexit {u : Slug} (hu : c.m.putSlot b (c.slotLeft s.cyc) = u) : becomes (.exit w m) u := by
      subst hu
      exact ⟨_, hexec, State.slugs_settledTo_retired hc q (Slug.pathsOnly_putSlot _ _ _)⟩
    exact ⟨fun hr => hexit (congrArg (c.m.putSlot b) (if_pos hr)), fun hr => hexit (congrArg (c.m.putSlot b) (if_neg hr))⟩

end Sys2Proof

namespace Sys2Proof.Machine

/-! ## What the end of a slug leaves alone (spec/01 R37, spec/02 R57, spec/11 R368, R370) -/

/-- Two states differ in launches, and in what their sleepers are told: no slug reads differently, no core and no byte of memory. -/
structure State.WakeOnly (s t : State) : Prop where
  formes : ∀ k, { t.forme k with slugs := (s.forme k).slugs } = s.forme k
  slugs : ∀ k j, t.slug k j = s.slug k j
  wf : ∀ k, (s.forme k).slugs.wf = true → (t.forme k).slugs.wf = true
  cores : t.cores = s.cores
  dram : t.dram = s.dram

theorem State.WakeOnly.refl (s : State) : s.WakeOnly s := ⟨fun _ => rfl, fun _ _ => rfl, fun _ h => h, rfl, rfl⟩

theorem State.WakeOnly.trans {s t u : State} (h : s.WakeOnly t) (k : t.WakeOnly u) : s.WakeOnly u where
  formes n := (congrArg (fun x : Forme => { x with slugs := (s.forme n).slugs }) (k.formes n)).trans (h.formes n)
  slugs n j := (k.slugs n j).trans (h.slugs n j)
  wf n hn := k.wf n (h.wf n hn)
  cores := k.cores.trans h.cores
  dram := k.dram.trans h.dram

theorem State.WakeOnly.quiet {s t : State} (h : s.WakeOnly t) (q : s.Quiet) : t.Quiet := fun k j => by
  rw [h.slugs]
  exact q k j

theorem State.WakeOnly.place {s t : State} (h : s.WakeOnly t) (k : Nat) : (t.forme k).place = (s.forme k).place := by
  have hk := congrArg Forme.place (h.formes k)
  exact hk

theorem State.WakeOnly.remap {s t : State} (h : s.WakeOnly t) (k : Nat) : (t.forme k).remap = (s.forme k).remap := by
  have hk := congrArg Forme.remap (h.formes k)
  exact hk

theorem State.WakeOnly.gathers {s t : State} (h : s.WakeOnly t) (k : Nat) : (t.forme k).gathers = (s.forme k).gathers := by
  have hk := congrArg Forme.gathers (h.formes k)
  exact hk

/-- Firing sleepers where none sleeps. -/
theorem State.wakeOnly_fireWhere {s : State} (q : s.Quiet) (c : Nat → Forme → Nat → Wake → Bool) : s.WakeOnly (s.fireWhere c) := by
  have hmem := s.keeps_fireWhere c q
  refine ⟨hmem.formes, hmem.slugs, fun k hk => ?_, rfl, rfl⟩
  have hforme : (s.fireWhere c).forme k = { s.forme k with slugs := (s.forme k).slugs.mapVals (fun sl m =>
      { m with
        wake := m.wake.map (fun w => if c k (s.forme k) sl w then { w with fired := true } else w)
        tx := m.tx.map (fun t => if c k (s.forme k) sl t.watch then { t with fired := true } else t) }) } :=
    Sparse.look_mapVals (fun _ => rfl) _ _
  rw [hforme]
  exact Sparse.wf_mapVals hk

theorem State.wakeOnly_modLaunch (s : State) (n : Nat) (f : Launch → Launch) : s.WakeOnly (s.modLaunch n f) :=
  ⟨fun _ => rfl, fun _ _ => rfl, fun _ h => h, rfl, rfl⟩

theorem State.wakeOnly_guyCheck {s : State} (q : s.Quiet) (n fidx gl : Nat) : s.WakeOnly (s.guyCheck n fidx gl) := by
  unfold State.guyCheck
  dsimp only
  split
  · exact .refl s
  · exact (s.wakeOnly_modLaunch n _).trans (State.wakeOnly_fireWhere ((s.wakeOnly_modLaunch n _).quiet q) _)

theorem State.wakeOnly_guyChecks {s : State} (q : s.Quiet) (n fidx : Nat) : s.WakeOnly (s.guyChecks n fidx) := by
  unfold State.guyChecks
  generalize List.range 8 = l
  induction l generalizing s with
  | nil => exact .refl s
  | cons gl r ih =>
    have hstep := State.wakeOnly_guyCheck q n fidx gl
    exact hstep.trans (ih (hstep.quiet q))

/-! ## A slug that ends -/

/-- What is left of a slug that has ended. -/
def Slug.endedOf (m : Slug) : Slug := { ended := true, h := m.h, vb := m.vb, owner := m.owner, alloc := m.alloc }

/-- The machine once a slug has given up its slot and registers, before its forme's guy lines are looked at. -/
def State.slugGone (s : State) (fk sl : Nat) : State :=
  ((s.modCore (s.forme fk).core (fun c =>
      (c.dropSlot (s.slug fk sl).h).releaseR s.cyc (s.slug fk sl).vb (s.launch (s.forme fk).launch).alloc)).modCluster
    (clusterOf (s.forme fk).core) (fun c => { c with
      binds := c.binds.upd (s.forme fk).bind (fun b => { b with slots := b.slots &&& ~~~(1#64 <<< (s.slug fk sl).h) }) })).modSlug
    fk sl Slug.endedOf

theorem State.forme_modCluster (s : State) (cl : Nat) (f : Cluster → Cluster) (k : Nat) : (s.modCluster cl f).forme k = s.forme k := rfl

theorem State.core_modCluster (s : State) (cl : Nat) (f : Cluster → Cluster) (k : Nat) : (s.modCluster cl f).core k = s.core k := rfl

theorem State.core_modForme (s : State) (i : Nat) (f : Forme → Forme) (k : Nat) : (s.modForme i f).core k = s.core k := rfl

theorem State.core_modSlug (s : State) (i j : Nat) (f : Slug → Slug) (k : Nat) : (s.modSlug i j f).core k = s.core k := rfl

section SlugGone

variable (s : State) (fk sl : Nat)

theorem State.slug_slugGone : (s.slugGone fk sl).slug fk sl = (s.slug fk sl).endedOf := State.slug_modSlug _ _ _ _

theorem State.slugsAs_slugGone : s.SlugsAs (s.slugGone fk sl) fk sl := State.slugsAs_modSlug _ _ _ _

theorem State.forme_slugGone : (s.slugGone fk sl).forme fk = (s.forme fk).modSlug sl Slug.endedOf := by
  unfold State.slugGone
  rw [State.forme_modSlug]
  rfl

theorem State.Quiet.slugGone {s : State} (q : s.Quiet) (fk sl : Nat) : (s.slugGone fk sl).Quiet := by
  intro k j
  by_cases hkj : k = fk ∧ j = sl
  · obtain ⟨rfl, rfl⟩ := hkj
    rw [State.slug_slugGone]
    exact ⟨rfl, rfl⟩
  · rw [s.slugsAs_slugGone fk sl k j hkj]
    exact q k j

/-- Releasing registers drops no slot of a slug. -/
theorem Core.slots_dropSlot_releaseR (c : Core) (h now base n : Nat) : ((c.dropSlot h).releaseR now base n).slots = c.slots.put h none := rfl

/-- The slot is free, and every other slot of the core is as it was. -/
theorem State.look_slots_slugGone (h : Nat) : ((s.slugGone fk sl).core (s.forme fk).core).slots.look h
    = if h = (s.slug fk sl).h then none else (s.core (s.forme fk).core).slots.look h := by
  unfold State.slugGone
  rw [State.core_modSlug, State.core_modCluster, State.core_modCore, Core.slots_dropSlot_releaseR, Sparse.look_put]

/-- A slug ends: its forme ends with it, unless another slug of the forme has not ended. -/
theorem State.endSlug_eq {s : State} (q : s.Quiet) {fk : Nat} (hg : (s.forme fk).gathers = []) (sl : Nat) :
    ∃ u, (s.slugGone fk sl).WakeOnly u ∧ s.endSlug fk sl = if (u.forme fk).over then u.endForme fk else u := by
  have hwake := State.wakeOnly_guyChecks (q.slugGone fk sl) (s.forme fk).launch (s.forme fk).fidx
  have hnil : (((s.slugGone fk sl).guyChecks (s.forme fk).launch (s.forme fk).fidx).forme fk).gathers = [] := by
    rw [hwake.gathers, State.forme_slugGone]
    exact hg
  refine ⟨_, hwake, ?_⟩
  have hend : s.endSlug fk sl = if ((((s.slugGone fk sl).guyChecks (s.forme fk).launch (s.forme fk).fidx).closeFull fk).forme fk).over
      then (((s.slugGone fk sl).guyChecks (s.forme fk).launch (s.forme fk).fidx).closeFull fk).endForme fk
      else ((s.slugGone fk sl).guyChecks (s.forme fk).launch (s.forme fk).fidx).closeFull fk := rfl
  rw [hend, State.closeFull_of_nil hnil]

end SlugGone

/-! ## A forme that ends (spec/02 R57, spec/10 R325) -/

section EndForme

variable (s : State) (fk : Nat)

theorem State.forme_endForme : (s.endForme fk).forme fk
    = { s.forme fk with place := .ended, scratch := [], acc := [], tiles := [], gathers := [] } := by
  unfold State.endForme
  dsimp only
  rw [State.forme_modCluster, State.forme_modForme]
  rfl

theorem State.slug_endForme (k j : Nat) : (s.endForme fk).slug k j = s.slug k j := by
  unfold State.endForme
  dsimp only
  rw [State.slug, State.forme_modCluster, ← State.slug, State.slug_modForme_of_slugs rfl]
  rfl

theorem Core.slots_releaseS_releaseA (c : Core) (now sbase n abase k : Nat) :
    ((c.releaseS now sbase n).releaseA now abase k).slots = c.slots := rfl

theorem State.slots_leaveCore (n : Nat) : ((s.leaveCore fk).core n).slots = (s.core n).slots := by
  unfold State.leaveCore
  dsimp only
  rw [State.core_modCluster]
  by_cases hn : n = (s.forme fk).core
  · rw [hn, State.core_modCore, Core.slots_releaseS_releaseA]
  · rw [State.core_modCore_ne s _ hn]

/-- The end of a forme drops no slot of a slug. -/
theorem State.slots_endForme (n : Nat) : ((s.endForme fk).core n).slots = (s.core n).slots := by
  rw [State.endForme, State.core_modCluster, State.core_modForme, State.slots_leaveCore]

theorem State.dram_endForme : (s.endForme fk).dram = s.dram := by
  unfold State.endForme State.leaveCore
  dsimp only
  simp only [State.modCluster_dram, State.modForme_dram, State.modCore_dram]

end EndForme

/-- Every entry of a table in canonical form is what reading at its index gives. -/
theorem Sparse.look_of_mem {α : Type} [Inhabited α] [DecidableEq α] {m : Sparse α} (h : m.wf = true) {i : Nat} {v : α} (hm : (i, v) ∈ m) :
    m.look i = v := by
  have habove {b : Nat} {r : Sparse α} (hr : Sparse.above b r = true) : ∀ e ∈ r, b < e.1 := by
    induction r generalizing b with
    | nil => simp
    | cons e r ih =>
      obtain ⟨k, w⟩ := e
      simp only [Sparse.above, Bool.and_eq_true, decide_eq_true_eq] at hr
      intro e he
      rcases List.mem_cons.mp he with rfl | he
      · exact hr.1.1
      · exact Nat.lt_trans hr.1.1 (ih hr.2 e he)
  induction m with
  | nil => simp at hm
  | cons e r ih =>
    obtain ⟨k, w⟩ := e
    simp only [Sparse.wf, Bool.and_eq_true, decide_eq_true_eq] at h
    rw [Sparse.look_cons]
    rcases List.mem_cons.mp hm with he | hr
    · cases he
      rw [if_pos rfl]
    · have hlt := habove h.2 _ hr
      rw [if_neg (by omega)]
      exact ih (Sparse.wf_of_above h.2) hr

/-- A forme's slugs have all ended where none of them is live. -/
theorem Forme.over_of_dead {f : Forme} (hwf : f.slugs.wf = true) (h : ∀ j, (f.slugs.look j).live = false) : f.over = true := by
  rw [Forme.over, List.all_eq_true]
  intro e he
  rw [← Sparse.look_of_mem hwf he, h e.1]
  rfl

theorem Forme.not_over_of_live {f : Forme} {j : Nat} (h : (f.slugs.look j).live = true) : f.over = false := by
  have hne : f.slugs.look j ≠ default := fun hd => by rw [hd] at h; cases h
  rw [Forme.over, List.all_eq_false]
  exact ⟨_, Sparse.mem_of_look_ne hne, by simp [h]⟩

end Sys2Proof.Machine

namespace Sys2Proof.Machine

/-! ## What the end of a slug does -/

/-- What a slug's end does to the rest of the machine, but for launches, links and what is free: nothing beyond giving up its slot, and
the end of its forme once no slug of it is live. -/
structure State.EndsSlug (s t : State) (fk sl : Nat) : Prop where
  slugs : ∀ k j, t.slug k j = (s.slugGone fk sl).slug k j
  remap : (t.forme fk).remap = (s.forme fk).remap
  slots : ∀ n, (t.core n).slots = ((s.slugGone fk sl).core n).slots
  dram : t.dram = s.dram
  runs : (∃ j, j ≠ sl ∧ (s.slug fk j).live = true) → (t.forme fk).place = (s.forme fk).place
  ends : (s.forme fk).slugs.wf = true → (∀ j, j ≠ sl → (s.slug fk j).live = false) → (t.forme fk).place = .ended

theorem State.endsSlug_endSlug {s : State} (q : s.Quiet) {fk : Nat} (hg : (s.forme fk).gathers = []) (sl : Nat) :
    s.EndsSlug (s.endSlug fk sl) fk sl := by
  obtain ⟨u, hwake, hend⟩ := State.endSlug_eq q hg sl
  have hremap : (u.forme fk).remap = (s.forme fk).remap := by rw [hwake.remap, State.forme_slugGone]; rfl
  have hplace : (u.forme fk).place = (s.forme fk).place := by rw [hwake.place, State.forme_slugGone]; rfl
  have hslots (n : Nat) : (u.core n).slots = ((s.slugGone fk sl).core n).slots := by rw [State.core, hwake.cores, State.core]
  have hdram : u.dram = s.dram := hwake.dram.trans rfl
  have hslug (j : Nat) (hj : j ≠ sl) : u.slug fk j = s.slug fk j := by
    rw [hwake.slugs]
    exact s.slugsAs_slugGone fk sl fk j (fun h => hj h.2)
  rw [hend]
  cases hover : (u.forme fk).over with
  | false =>
    rw [if_neg (by simp)]
    refine ⟨hwake.slugs, hremap, hslots, hdram, fun _ => hplace, fun hwf hdead => ?_⟩
    have hwf' : (u.forme fk).slugs.wf = true := hwake.wf fk (by rw [State.forme_slugGone]; exact Sparse.wf_upd hwf _ _)
    refine absurd (Forme.over_of_dead hwf' (fun j => ?_)) (by simp [hover])
    by_cases hj : j = sl
    · have hgone := hwake.slugs fk sl
      rw [State.slug_slugGone] at hgone
      rw [hj, ← State.slug, hgone]
      rfl
    · rw [← State.slug, hslug j hj, hdead j hj]
  | true =>
    rw [if_pos rfl]
    refine ⟨fun k j => (State.slug_endForme u fk k j).trans (hwake.slugs k j), by rw [State.forme_endForme]; exact hremap,
      fun n => (State.slots_endForme u fk n).trans (hslots n), (State.dram_endForme u fk).trans hdram, fun ⟨j, hj, hlive⟩ => ?_,
      fun _ _ => by rw [State.forme_endForme]⟩
    rw [← hslug j hj] at hlive
    rw [Forme.not_over_of_live hlive] at hover
    cases hover

end Sys2Proof.Machine

namespace Sys2Proof.Machine

/-! ## A slug that loses lanes and goes on -/

section Leaves

variable (s : State) (c : Ctx) (u : Slug)

/-- Only formes have changed. -/
theorem State.device_modForme (k : Nat) (g : Forme → Forme) : { s.modForme k g with formes := s.formes } = s := rfl

theorem State.device_retired_modSlug :
    { (s.retired c).modSlug c.iss.fk c.iss.sl (fun _ => u) with formes := s.formes } = s := by
  have h := congrArg (fun x : State => { x with formes := s.formes })
    ((s.retired c).device_modForme c.iss.fk (fun f => f.modSlug c.iss.sl (fun _ => u)))
  exact h.trans (s.device_modForme _ _)

/-- No byte of memory has changed. -/
theorem State.bytesAs_modForme {k : Nat} {g : Forme → Forme} (hs : (g (s.forme k)).scratch = (s.forme k).scratch)
    (ha : (g (s.forme k)).acc = (s.forme k).acc) : s.BytesAs (s.modForme k g) := by
  refine ⟨fun _ => rfl, fun i a => ?_, fun i a => ?_⟩
  all_goals
    by_cases hi : i = k
    · rw [hi, State.forme_modForme]
      simp only [hs, ha]
    · rw [State.forme_modForme_ne s g hi]

theorem State.BytesAs.trans {s t u : State} (h : s.BytesAs t) (k : t.BytesAs u) : s.BytesAs u :=
  ⟨fun a => (k.dram a).trans (h.dram a), fun i a => (k.scratch i a).trans (h.scratch i a), fun i a => (k.acc i a).trans (h.acc i a)⟩

theorem State.bytesAs_retired_modSlug : s.BytesAs ((s.retired c).modSlug c.iss.fk c.iss.sl (fun _ => u)) :=
  (s.bytesAs_modForme (k := c.iss.fk) (g := fun f => f.retireLanes c.iss.sl c.act) rfl rfl).trans
    (State.outsideAs_modSlug (s.retired c) c.iss.fk c.iss.sl (fun _ => u)).bytes

end Leaves

/-- Lanes that leave a mask to which they belong leave it some lane, unless they are all of it. -/
theorem rest_ne_zero {x a : Mask} (hne : a ≠ x) (hsub : a &&& x = a) : x &&& ~~~a ≠ 0 := by
  intro h0
  refine hne (BitVec.eq_of_getLsbD_eq (fun i hi => ?_))
  have h1 : (x &&& ~~~a).getLsbD i = false := by rw [h0]; exact BitVec.getLsbD_zero
  have h2 := congrArg (fun y : Mask => y.getLsbD i) hsub
  simp only [BitVec.getLsbD_and, BitVec.getLsbD_not, hi, decide_true, Bool.true_and] at h1 h2
  cases hx : x.getLsbD i <;> cases hy : a.getLsbD i <;> simp [hx, hy] at h1 h2 ⊢

/-- The lanes of a slug with one path are those of the path. -/
theorem Ctx.Alone.liveLanes {s : State} {h : Hdr} {c : Ctx} (ha : c.Alone) (hc : s.ctx h = some c) : c.m.liveLanes = c.path.mask := by
  have hall := Slug.allPaths_of_one (m := c.m) (b := c.iss.b) ((congrArg Slot.path (State.ctx_slot hc)).trans (State.ctx_path hc))
    ha.other ha.stack
  refine BitVec.eq_of_getLsbD_eq (fun i _ => ?_)
  rw [Slug.getLsbD_liveLanes, hall]
  simp

end Sys2Proof.Machine

namespace Sys2Proof

open Sys2Proof.Machine

/-- `EXIT` outside a transaction, where no gathering is open. -/
theorem exitRetiresLanes : Claim.ExitRetiresLanes := by
  intro w m s c hc htx hg hund hwf k
  have q := hund.quiet
  refine ⟨fun ha => exec_exit_goes m hc ha, fun hone ha hne hsub => ?_, fun ha hl ho => ?_,
    fun ha hl ho hb => exec_exit_holds m hc ha htx hl ho hb⟩
  · have hlive := hone.liveLanes hc
    have hleft : c.slotLeft s.cyc = c.slotWith s.cyc { pc := c.nextPc, mask := c.path.mask &&& ~~~c.act } :=
      if_neg (rest_ne_zero hne hsub)
    have hexec := exec_exit_leaves m hc ha htx (by rw [hlive]; exact hne) hg q
    obtain ⟨u, hu⟩ : ∃ u, u = c.m.putSlot c.iss.b (c.slotLeft s.cyc) := ⟨_, rfl⟩
    have hslot : u.slot c.iss.b = c.slotWith s.cyc { pc := c.nextPc, mask := c.path.mask &&& ~~~c.act } := by rw [hu, hleft]; simp
    have hsettle : u.settle (c.readyFor c.m (s.retired c).cyc) 512 = u :=
      Slug.settle_one (b := c.iss.b) (p := { pc := c.nextPc, mask := c.path.mask &&& ~~~c.act }) (by rw [hslot]; rfl)
        (by rw [hu]; simpa using hone.other) (by rw [hu]; simpa using hone.stack) rfl _ _
    rw [← hu, State.settledTo_of_empty hone.stack (by rw [hsettle, hu]; simpa using hone.stack), hsettle] at hexec
    have hslug : c.slugIn ((s.retired c).modSlug c.iss.fk c.iss.sl (fun _ => u)) = u := State.slug_modSlug _ _ _ _
    have hout := State.outsideAs_modSlug (s.retired c) c.iss.fk c.iss.sl (fun _ => u)
    have hforme : ((s.retired c).modSlug c.iss.fk c.iss.sl (fun _ => u)).forme k = (c.f.retireLanes c.iss.sl c.act).modSlug c.iss.sl (fun _ => u) := by
      rw [State.forme_modSlug, State.forme_retired hc]
    have honly : c.m.PathsOnly u := hu ▸ Slug.pathsOnly_putSlot _ _ _
    refine ⟨_, hexec, ?_, ?_, ?_, ?_, ?_, s.bytesAs_retired_modSlug c u, s.device_retired_modSlug c u, ?_⟩
    · rw [hslug]
      exact hslot
    · rw [hslug]
      exact honly.regsBut
    · rw [hslug, hu]
      cases c.iss.b <;> exact ⟨rfl, rfl⟩
    · rw [hforme]
      exact Forme.exitedAs_retireLanes _ _ _
    · intro i j hij
      rw [hout.slugs i j hij, State.slug_retired]
    · rw [hforme]
      rfl
  · have hf := State.forme_retired hc
    have hm : (s.retired c).slug c.iss.fk c.iss.sl = c.m := (State.slug_retired s c _ _).trans (State.ctx_slug hc)
    have hcore : ((s.retired c).forme c.iss.fk).core = c.f.core := by rw [hf]; rfl
    obtain ⟨hslugs, hremap, hslots, hdram, hruns, hends⟩ := State.endsSlug_endSlug (q.retired c) (by rw [hf]; exact hg) c.iss.sl
    have hslug : c.slugIn ((s.retired c).endSlug c.iss.fk c.iss.sl) = c.m.endedOf := by
      rw [Ctx.slugIn, hslugs, State.slug_slugGone, hm]
    have hlook (h : Nat) : (((s.retired c).endSlug c.iss.fk c.iss.sl).core c.f.core).slots.look h
        = if h = c.m.h then none else (s.core c.f.core).slots.look h := by
      have h1 := (s.retired c).look_slots_slugGone c.iss.fk c.iss.sl h
      rw [hcore, hm] at h1
      rw [hslots, h1]
      rfl
    simp only [State.slug_retired] at hruns hends
    refine ⟨_, exec_exit_ends m hc ha htx hl ho, by rw [hslug]; rfl, by rw [hslug]; rfl, ?_, fun i j hij => ?_, fun a => by rw [hdram]; rfl,
      by rw [hlook, if_pos rfl], fun h hh => by rw [hlook, if_neg hh], fun hlive => ?_, fun hdead => ?_⟩
    · intro v
      rw [hremap, hf]
      exact Forme.exitedAs_retireLanes c.f c.iss.sl c.act v
    · rw [hslugs, State.slugsAs_slugGone _ _ _ i j hij, State.slug_retired]
    · rw [hruns hlive, hf]
      rfl
    · exact hends (by rw [hf]; exact hwf) hdead

end Sys2Proof

namespace Sys2Proof.Machine

/-! ## Changes of one forme -/

/-- Two changes of one forme are one. -/
theorem State.modForme_modForme (s : State) (k : Nat) (f g : Forme → Forme) :
    (s.modForme k f).modForme k g = s.modForme k (fun x => g (f x)) := by
  simp only [State.modForme, Sparse.upd_upd]

/-- A change of a forme that changes one slug leaves the others. -/
theorem State.slugsAs_modForme {s : State} {k sl : Nat} {g : Forme → Forme}
    (hg : ∀ j, j ≠ sl → (g (s.forme k)).slugs.look j = (s.forme k).slugs.look j) : s.SlugsAs (s.modForme k g) k sl := by
  intro i j hij
  by_cases hi : i = k
  · subst hi
    rw [State.slug, State.forme_modForme, hg j (fun h => hij ⟨rfl, h⟩), State.slug]
  · rw [State.slug, State.forme_modForme_ne s g hi, State.slug]

/-- Slugs with the same registers. -/
theorem Slug.regsBut_of_eq {m u : Slug} (hg : u.g = m.g) (hp : u.p = m.p) (hv : u.v = m.v) (hx : u.xa = m.xa) (hs : u.srg = m.srg) :
    m.RegsBut u [] where
  g n _ := by simp only [Slug.readG, hg]
  p n _ := by simp only [Slug.readP, hp]
  v n _ := by simp only [Slug.readV, hv]
  xa n _ := by simp only [Slug.readX, hx]
  srg _ := hs

theorem Slug.RegsBut.trans {m u v : Slug} (h : m.RegsBut u []) (k : u.RegsBut v []) : m.RegsBut v [] where
  g n hn := (k.g n hn).trans (h.g n hn)
  p n hn := (k.p n hn).trans (h.p n hn)
  v n hn := (k.v n hn).trans (h.v n hn)
  xa n hn := (k.xa n hn).trans (h.xa n hn)
  srg hn := (k.srg hn).trans (h.srg hn)

/-! ## A slug with one path, and one that is gathered (spec/01 R40 to R42, R44) -/

/-- Of a slug with one path, the path in a slot is the only one. -/
theorem Slug.alone_of_paths {m : Slug} {b : Bool} {p : Path} (h : m.paths = 1) (hp : (m.slot b).path = some p) :
    (m.slot !b).path = none ∧ m.stack = [] := by
  unfold Slug.paths at h
  cases b <;> simp only [Slug.slot, Bool.not_false, Bool.not_true, Bool.false_eq_true, if_true, if_false] at hp ⊢
  · rw [hp] at h
    cases hb : m.b.path <;> simp [hb] at h ⊢
    · exact h
    · omega
  · rw [hp] at h
    cases ha : m.a.path <;> simp [ha] at h ⊢
    · exact h
    · omega

theorem Slug.liveLanes_of_one {m : Slug} {b : Bool} {p : Path} (h : (m.slot b).path = some p) (ho : (m.slot !b).path = none)
    (hs : m.stack = []) : m.liveLanes = p.mask := by
  refine BitVec.eq_of_getLsbD_eq (fun i _ => ?_)
  rw [Slug.getLsbD_liveLanes, Slug.allPaths_of_one h ho hs]
  simp

/-- A slug with one path that goes on has that path alone. -/
theorem Slug.allPaths_afterRecast {m : Slug} {b : Bool} {p : Path} (h : (m.slot b).path = some p) (ho : (m.slot !b).path = none)
    (pc : Addr) (mask : Mask) (now : Nat) :
    (m.afterRecast pc mask now).allPaths = [{ pk := false, pc := pc + 8, mask := mask }] := by
  cases b <;> simp [Slug.slot] at h ho <;>
    simp [Slug.afterRecast, Slug.soleAt, Slug.allPaths, Slug.putSlot, Slug.slot, h, ho]

theorem Slug.regsBut_afterRecast (m : Slug) (pc : Addr) (mask : Mask) (now : Nat) : m.RegsBut (m.afterRecast pc mask now) [] := by
  unfold Slug.afterRecast Slug.soleAt Slug.putSlot
  dsimp only
  split <;> exact Slug.regsBut_of_eq rfl rfl rfl rfl rfl

/-- A mask that is not empty has a plane, and at most 32. -/
theorem length_planes {x : Mask} (h : x ≠ 0) : 0 < (planes x).length ∧ (planes x).length ≤ 32 := by
  refine ⟨?_, (List.length_filter_le _ _).trans (by simp)⟩
  refine Nat.pos_of_ne_zero (fun h0 => h (BitVec.eq_of_getLsbD_eq (fun i hi => ?_)))
  have hnil : planes x = [] := List.length_eq_zero_iff.mp h0
  have hi' : x.getLsbD i = false := by
    simpa using List.filter_eq_nil_iff.mp hnil i (List.mem_range.mpr hi)
  rw [hi']
  exact BitVec.getLsbD_zero.symm

/-- A gathering of one slug needs one slug. -/
theorem Forme.needed_of_one {f : Forme} {g : Gather} {sl : Nat} (hg : g.slugs = [sl]) (h : (f.slugs.look sl).liveLanes ≠ 0) :
    f.needed g = 1 := by
  obtain ⟨hpos, hle⟩ := length_planes h
  have hlen : (f.lanesOf [sl]).length = (planes (f.slugs.look sl).liveLanes).length := by simp [Forme.lanesOf]
  rw [Forme.needed, hg, hlen]
  omega

section Closing

variable {s : State} {k : Nat} {g : Gather} (h : (s.forme k).gathers = [g]) (ho : g.closed = false)
include h ho

/-- The only gathering of a forme closes once every slug it can expect has arrived. -/
theorem State.closeFull_of_one : s.closeFull k = if (s.forme k).allIn g then s.closeGather k g.pc else s := by
  unfold State.closeFull
  cases hin : (s.forme k).allIn g <;> simp [h, ho, hin]

/-- A gathering that needs every slug it has lets them go on at once. -/
theorem State.closeGather_of_one (hn : (s.forme k).needed g = g.slugs.length) : s.closeGather k g.pc =
    s.modForme k (fun f => { g.slugs.foldl (fun f sl => f.modSlug sl (fun m => m.afterRecast g.pc m.liveLanes s.cyc)) f with
      gathers := (g.slugs.foldl (fun f sl => f.modSlug sl (fun m => m.afterRecast g.pc m.liveLanes s.cyc)) f).gathers.erase g }) := by
  have hopen : (s.forme k).openAt g.pc = some g := by simp [Forme.openAt, h, ho]
  unfold State.closeGather
  simp only [hopen, if_pos hn]

end Closing

/-! ## `RECAST` (spec/01 R40, R41) -/

/-- The issuing slug once it has stopped at its `RECAST`. -/
def Ctx.stopped (c : Ctx) (s : State) : Slug := { c.m.putSlot c.iss.b (c.after s) with gathering := some c.path.pc }

/-- The gathering that a `RECAST` opens. -/
def Ctx.gather (c : Ctx) (s : State) (m : AluMod) : Gather :=
  { pc := c.path.pc, slugs := [c.iss.sl], close := s.cyc + 16 * (m.imm.extractLsb' 0 8).toNat }

/-- The issuing forme with the gathering of a slug that has stopped. -/
def Ctx.gathering (c : Ctx) (s : State) (m : AluMod) : Forme :=
  { c.f.modSlug c.iss.sl (fun _ => c.stopped s) with gathers := [c.gather s m] }

section Stopped

variable {s : State} {h : Hdr} {c : Ctx} (hc : s.ctx h = some c) (m : AluMod)

theorem Ctx.slot_stopped (b : Bool) : (c.stopped s).slot b = (c.m.putSlot c.iss.b (c.after s)).slot b := by
  cases b <;> rfl

theorem Ctx.regsBut_stopped : c.m.RegsBut (c.stopped s) [] := by
  unfold Ctx.stopped Slug.putSlot
  cases c.iss.b <;> exact Slug.regsBut_of_eq rfl rfl rfl rfl rfl

theorem Ctx.look_gathering (j : Nat) : (c.gathering s m).slugs.look j = if j = c.iss.sl then c.stopped s else c.f.slugs.look j :=
  Sparse.look_upd c.f.slugs c.iss.sl j (fun _ => c.stopped s)

include hc

theorem Ctx.path_stopped : ((c.stopped s).slot c.iss.b).path = some c.path := by
  rw [Ctx.slot_stopped, Slug.slot_putSlot]
  exact State.ctx_path hc

theorem Ctx.look_forme (j : Nat) : c.f.slugs.look j = s.slug c.iss.fk j := by
  rw [← State.ctx_forme hc, State.slug]

/-- Another issuing forme whose other slugs and bytes are those of the one there was. -/
theorem Ctx.outside_modForme {f : Forme} (hslugs : ∀ j, j ≠ c.iss.sl → f.slugs.look j = c.f.slugs.look j)
    (hscratch : f.scratch = c.f.scratch) (hacc : f.acc = c.f.acc) :
    s.SlugsAs (s.modForme c.iss.fk (fun _ => f)) c.iss.fk c.iss.sl
      ∧ { s.modForme c.iss.fk (fun _ => f) with formes := s.formes } = s ∧ s.BytesAs (s.modForme c.iss.fk (fun _ => f)) := by
  have hf := State.ctx_forme hc
  exact ⟨State.slugsAs_modForme (by rw [hf]; exact hslugs), s.device_modForme _ _, s.bytesAs_modForme (by rw [hf]; exact hscratch)
    (by rw [hf]; exact hacc)⟩

/-- A live slug with a free lane, other than the issuing one, can still be expected. -/
theorem Ctx.allIn_gathering_false
    (h : ∃ j, j ≠ c.iss.sl ∧ (s.slug c.iss.fk j).live = true ∧ (s.slug c.iss.fk j).liveLanes ≠ 0xFFFFFFFF) :
    (c.gathering s m).allIn (c.gather s m) = false := by
  obtain ⟨j, hj, hlive, hfull⟩ := h
  rw [← Ctx.look_forme hc] at hlive hfull
  have hlook : (c.gathering s m).slugs.look j = c.f.slugs.look j := by rw [Ctx.look_gathering, if_neg hj]
  have hmem : (j, c.f.slugs.look j) ∈ (c.gathering s m).slugs := by
    rw [← hlook]
    refine Sparse.mem_of_look_ne (fun hd => ?_)
    rw [← hlook, hd] at hlive
    cases hlive
  rw [Forme.allIn, List.all_eq_false]
  exact ⟨_, hmem, by simpa [hlive, Ctx.gather, hj] using hfull⟩

theorem Ctx.allIn_gathering (hwf : c.f.slugs.wf = true)
    (h : ¬ ∃ j, j ≠ c.iss.sl ∧ (s.slug c.iss.fk j).live = true ∧ (s.slug c.iss.fk j).liveLanes ≠ 0xFFFFFFFF) :
    (c.gathering s m).allIn (c.gather s m) = true := by
  rw [Forme.allIn, List.all_eq_true]
  rintro ⟨j, x⟩ he
  have hx := Sparse.look_of_mem (m := (c.gathering s m).slugs) (Sparse.wf_upd hwf c.iss.sl (fun _ => c.stopped s)) he
  rw [Ctx.look_gathering] at hx
  by_cases hj : j = c.iss.sl
  · simp [Ctx.gather, hj]
  · rw [if_neg hj, Ctx.look_forme hc] at hx
    have hno : x.live = true → x.liveLanes = 0xFFFFFFFF := fun hlive =>
      by_contra (fun hfull => h ⟨j, hj, hx ▸ hlive, hx ▸ hfull⟩)
    cases hlive : x.live
    · simp
    · simp [hno hlive]

end Stopped

section Recast

variable {s : State} {w : Ops} {c : Ctx} (m : AluMod) (hc : s.ctx w.h = some c)
include hc

theorem exec_recast_retires (h : ¬(c.m.paths = 1 ∧ c.m.tx = none ∧ c.m.hnd = none ∧ c.path.mask ≠ 0xFFFFFFFF)) :
    exec (.recast w m) s = .next (s.retire c) := by
  show execRecast w m s = _
  simp only [execRecast, hc]
  rw [if_neg h]

/-- A `RECAST` of an eligible path opens a gathering where none is open. -/
theorem exec_recast_stops (h : c.m.paths = 1 ∧ c.m.tx = none ∧ c.m.hnd = none ∧ c.path.mask ≠ 0xFFFFFFFF) (hg : c.f.gathers = []) :
    exec (.recast w m) s = .next ((s.modForme c.iss.fk (fun _ => c.gathering s m)).closeFull c.iss.fk) := by
  have hopen (f : Forme) (hf : f.gathers = []) : f.openAt c.path.pc = none := by simp [Forme.openAt, hf]
  have hstate : (s.modCur (fun m => { (m.putSlot c.iss.b (c.after s)) with gathering := some c.path.pc })).modForme c.iss.fk (fun f =>
      match f.openAt c.path.pc with
        | some g => { f with gathers := f.gathers.map (fun x => if x = g then { x with slugs := x.slugs ++ [c.iss.sl] } else x) }
        | none => { f with gathers := f.gathers ++ [c.gather s m] })
      = s.modForme c.iss.fk (fun _ => c.gathering s m) := by
    rw [State.modCur_eq (State.ctx_cur hc), State.modSlug, State.modForme_modForme]
    refine State.modForme_congr ?_
    have hm : c.f.slugs.look c.iss.sl = c.m := by rw [← State.ctx_forme hc]; exact State.ctx_slug hc
    have hslug : c.f.modSlug c.iss.sl (fun m => { (m.putSlot c.iss.b (c.after s)) with gathering := some c.path.pc })
        = c.f.modSlug c.iss.sl (fun _ => c.stopped s) := by
      simp only [Forme.modSlug, Sparse.upd, hm]
      rfl
    rw [State.ctx_forme hc, hslug, hopen (c.f.modSlug c.iss.sl (fun _ => c.stopped s)) hg]
    simp only [Ctx.gathering, Forme.modSlug, hg, List.nil_append]
  show execRecast w m s = _
  simp only [execRecast, hc, State.modCur_cyc]
  rw [if_pos h, ← hstate]
  rfl

end Recast

end Sys2Proof.Machine

namespace Sys2Proof

open Sys2Proof.Machine

/-- `RECAST` in a forme without an open gathering. -/
theorem recastGathers : Claim.RecastGathers := by
  intro w m s c hc eligible other outside
  refine ⟨fun h => ⟨_, exec_recast_retires m hc h, State.done_retire hc⟩, fun h hg hwf hmask hno => ?_, fun h hg hother => ?_⟩
  · obtain ⟨hother, hstack⟩ := Slug.alone_of_paths h.1 ((congrArg Slot.path (State.ctx_slot hc)).trans (State.ctx_path hc))
    have hpath := Ctx.path_stopped hc
    have hother' : ((c.stopped s).slot !c.iss.b).path = none := by rw [Ctx.slot_stopped, Slug.slot_putSlot_not]; exact hother
    have hlanes : (c.stopped s).liveLanes = c.path.mask :=
      Slug.liveLanes_of_one hpath hother' (by cases hb : c.iss.b <;> simp [Ctx.stopped, Slug.putSlot, hb, hstack])
    have hself : (c.gathering s m).slugs.look c.iss.sl = c.stopped s := by rw [Ctx.look_gathering, if_pos rfl]
    obtain ⟨t, ht⟩ : ∃ t, t = s.modForme c.iss.fk (fun _ =>
      { (c.gathering s m).modSlug c.iss.sl (fun m => m.afterRecast c.path.pc m.liveLanes s.cyc) with gathers := [] }) := ⟨_, rfl⟩
    have hexec : exec (.recast w m) s = .next t := by
      have hone : ((s.modForme c.iss.fk (fun _ => c.gathering s m)).forme c.iss.fk).gathers = [c.gather s m] := by
        rw [State.forme_modForme]
        rfl
      have hneed : ((s.modForme c.iss.fk (fun _ => c.gathering s m)).forme c.iss.fk).needed (c.gather s m)
          = (c.gather s m).slugs.length := by
        rw [State.forme_modForme]
        exact Forme.needed_of_one rfl (by rw [hself, hlanes]; exact hmask)
      rw [exec_recast_stops m hc h hg, State.closeFull_of_one hone rfl, State.forme_modForme, if_pos (Ctx.allIn_gathering hc m hwf hno),
        State.closeGather_of_one hone rfl hneed, State.modForme_modForme, ht]
      simp [Ctx.gather, Ctx.gathering, Forme.modSlug]
    have hforme : t.forme c.iss.fk
        = { (c.gathering s m).modSlug c.iss.sl (fun m => m.afterRecast c.path.pc m.liveLanes s.cyc) with gathers := [] } := by
      rw [ht, State.forme_modForme]
    have hslug : c.slugIn t = (c.stopped s).afterRecast c.path.pc c.path.mask s.cyc := by
      rw [Ctx.slugIn, State.slug, hforme, ← hlanes, ← hself]
      exact Forme.look_modSlug (c.gathering s m) c.iss.sl (fun m => m.afterRecast c.path.pc m.liveLanes s.cyc)
    refine ⟨t, hexec, ?_, ?_, ?_, ?_, ?_⟩
    · rw [ht]
      refine Ctx.outside_modForme hc (fun j hj => ?_) rfl rfl
      refine (Forme.look_modSlug_ne (c.gathering s m) (fun m => m.afterRecast c.path.pc m.liveLanes s.cyc) hj).trans ?_
      rw [Ctx.look_gathering, if_neg hj]
    · rw [hslug]
      exact Ctx.regsBut_stopped.trans (Slug.regsBut_afterRecast _ _ _ _)
    · rw [hslug]
      rfl
    · rw [hforme]
    · rw [hslug]
      exact Slug.allPaths_afterRecast hpath hother' _ _ _
  · have hopen : exec (.recast w m) s = .next (s.modForme c.iss.fk (fun _ => c.gathering s m)) := by
      rw [exec_recast_stops m hc h hg, State.closeFull_of_one (by rw [State.forme_modForme]; rfl) rfl, State.forme_modForme,
        if_neg (by simp [Ctx.allIn_gathering_false hc m hother])]
    have hslug : c.slugIn (s.modForme c.iss.fk (fun _ => c.gathering s m)) = c.stopped s := by
      rw [Ctx.slugIn, State.slug, State.forme_modForme, Ctx.look_gathering, if_pos rfl]
    refine ⟨_, hopen, Ctx.outside_modForme hc (fun j hj => by rw [Ctx.look_gathering, if_neg hj]) rfl rfl, ?_, ?_, ?_, ?_⟩
    · rw [hslug]
      exact Ctx.regsBut_stopped
    · rw [hslug]
      rfl
    · rw [hslug]
      exact Ctx.path_stopped hc
    · rw [State.forme_modForme]
      rfl

/-- Settles O24: what `BRV`, `JOIN` and `EXIT` make of the slug before the steps of R36, the end of a slug and of its forme, and the
gathering that a `RECAST` opens. -/
theorem pathsEndAndRegroup : Obligations.PathsEndAndRegroup :=
  ⟨pathFormsInEverySlug, exitRetiresLanes, recastGathers⟩

end Sys2Proof

namespace Sys2Proof.Machine

/-! ## The cores of a cluster (spec/01 R13) -/

/-- A key beyond every key of a list goes to its end. -/
theorem insertBy_of_forall_le {α : Type} {key : α → Nat} {x : α} {l : List α} (h : ∀ y ∈ l, key y ≤ key x) :
    insertBy key x l = l ++ [x] := by
  induction l with
  | nil => rfl
  | cons y r ih =>
    rw [insertBy, if_neg (Nat.not_lt.mpr (h y (by simp))), ih (fun z hz => h z (by simp [hz])), List.cons_append]

/-- A rising list is in order. -/
theorem sortBy_of_pairwise {α : Type} {key : α → Nat} {l : List α} (h : l.Pairwise (fun x y => key x ≤ key y)) : sortBy key l = l := by
  have hfold (r : List α) (hr : (r ++ l).Pairwise (fun x y => key x ≤ key y)) : l.foldl (fun r x => insertBy key x r) r = r ++ l := by
    clear h
    induction l generalizing r with
    | nil => simp
    | cons x l ih =>
      have hx : ∀ y ∈ r, key y ≤ key x := fun y hy => (List.pairwise_append.mp hr).2.2 y hy x (by simp)
      rw [List.foldl_cons, insertBy_of_forall_le hx, ih _ (by simpa using hr)]
      simp
  exact hfold [] h

theorem coreOf_lt {cl j k : Nat} (h : j < k) : coreOf cl j < coreOf cl k := by
  unfold coreOf
  dsimp only
  omega

/-- The cores of a cluster, ascending. -/
theorem clusterCores_pairwise (cl : Nat) : (clusterCores cl).Pairwise (· < ·) := by
  rw [clusterCores, List.pairwise_map]
  exact List.pairwise_lt_range.imp coreOf_lt

theorem sortBy_clusterCores (cl : Nat) : sortBy id (clusterCores cl) = clusterCores cl :=
  sortBy_of_pairwise ((clusterCores_pairwise cl).imp (fun h => Nat.le_of_lt h))

theorem clusterOf_coreOf : ∀ cl < 16, ∀ k < 16, clusterOf (coreOf cl k) = cl := by decide

theorem clusterOf_of_mem {cl c : Nat} (hcl : cl < 16) (h : c ∈ clusterCores cl) : clusterOf c = cl := by
  obtain ⟨k, hk, rfl⟩ := List.mem_map.mp h
  exact clusterOf_coreOf cl hcl k (List.mem_range.mp hk)

/-! ## The best core of a cluster (spec/10 R327) -/

/-- The better of a core found so far and core `c`. -/
def Placing.betterCore (x : Placing) (n : Need') (b : Option (Nat × Nat × Nat × Nat)) (c : Nat) : Option (Nat × Nat × Nat × Nat) :=
  match (x.room c).fits n with
  | none => b
  | some f => match b with
    | some (d, g) => if (x.room d).slots < (x.room c).slots then some (c, f) else some (d, g)
    | none => some (c, f)

theorem Placing.bestCore_eq (x : Placing) (cl : Nat) (n : Need') : x.bestCore cl n
    = if x.records cl = 0 then none else (clusterCores cl).foldl (x.betterCore n) none := by
  rw [Placing.bestCore, sortBy_clusterCores]
  rfl

/-- Of a rising list of cores, the best is one that fits, has the most free slots, and among those the lowest id. -/
theorem Placing.foldl_betterCore (x : Placing) (n : Need') {l : List Nat} (hl : l.Pairwise (· < ·)) :
    (l.foldl (x.betterCore n) none = none → ∀ c ∈ l, (x.room c).fits n = none)
      ∧ ∀ d g, l.foldl (x.betterCore n) none = some (d, g) → d ∈ l ∧ (x.room d).fits n = some g
        ∧ ∀ c ∈ l, (x.room c).fits n ≠ none → (x.room c).slots < (x.room d).slots ∨ (x.room c).slots = (x.room d).slots ∧ d ≤ c := by
  induction l using List.reverseRecOn with
  | nil => simp
  | append_singleton l c ih =>
    obtain ⟨hl', -, hlt⟩ := List.pairwise_append.mp hl
    obtain ⟨hnone, hsome⟩ := ih hl'
    rw [List.foldl_append, List.foldl_cons, List.foldl_nil]
    generalize l.foldl (x.betterCore n) none = b at hnone hsome
    unfold Placing.betterCore
    cases hc : (x.room c).fits n with
    | none =>
      refine ⟨fun h => ?_, fun d g h => ?_⟩
      · simpa [or_imp, forall_and, hc] using hnone h
      · obtain ⟨hd, hg, hbest⟩ := hsome d g h
        exact ⟨by simp [hd], hg, by simpa [or_imp, forall_and, hc] using hbest⟩
    | some f =>
      cases b with
      | none =>
        refine ⟨fun h => (by cases h), fun d g h => ?_⟩
        cases h
        have hno := hnone rfl
        refine ⟨by simp, hc, fun e he hfit => ?_⟩
        rcases List.mem_append.mp he with he | he
        · exact absurd (hno e he) hfit
        · rw [List.mem_singleton.mp he]
          exact .inr ⟨rfl, Nat.le_refl _⟩
      | some e =>
        obtain ⟨e, k⟩ := e
        obtain ⟨he, hk, hbest⟩ := hsome e k rfl
        have hec : e < c := hlt e he c (by simp)
        dsimp only
        by_cases hslots : (x.room e).slots < (x.room c).slots
        · rw [if_pos hslots]
          refine ⟨fun h => (by cases h), fun d g h => ?_⟩
          cases h
          refine ⟨by simp, hc, fun i hi hfit => ?_⟩
          rcases List.mem_append.mp hi with hi | hi
          · have := hbest i hi hfit
            exact .inl (by omega)
          · rw [List.mem_singleton.mp hi]
            exact .inr ⟨rfl, Nat.le_refl _⟩
        · rw [if_neg hslots]
          refine ⟨fun h => (by cases h), fun d g h => ?_⟩
          cases h
          refine ⟨by simp [he], hk, fun i hi hfit => ?_⟩
          rcases List.mem_append.mp hi with hi | hi
          · exact hbest i hi hfit
          · rw [List.mem_singleton.mp hi]
            omega

end Sys2Proof.Machine

namespace Sys2Proof

open Sys2Proof.Machine

/-- A forme placed by itself goes to the first cluster that can hold it, and there to its best core (R327). -/
theorem forme_placed {x y : Placing} {cs : List Nat} {n : Need'} {i : Nat} (hcs : ∀ c ∈ cs, c < 16) (h : x.forme cs n i = some y) :
    ∃ q pre post, y.done = x.done ++ [q] ∧ q.fidx = i ∧ cs = pre ++ clusterOf q.core :: post ∧ 0 < x.records (clusterOf q.core)
      ∧ (x.room q.core).fits n = some q.base
      ∧ (∀ c ∈ clusterCores (clusterOf q.core), (x.room c).fits n ≠ none → (x.room c).slots < (x.room q.core).slots
          ∨ ((x.room c).slots = (x.room q.core).slots ∧ q.core ≤ c))
      ∧ ∀ cl ∈ pre, x.records cl = 0 ∨ ∀ c ∈ clusterCores cl, (x.room c).fits n = none := by
  obtain ⟨⟨d, g⟩, hfind, rfl⟩ := Option.map_eq_some_iff.mp h
  obtain ⟨pre, cl, post, rfl, hbest, hpre⟩ := List.findSome?_eq_some_iff.mp hfind
  have hcl : cl < 16 := hcs cl (by simp)
  rw [Placing.bestCore_eq] at hbest
  split at hbest
  · cases hbest
  · rename_i hrec
    obtain ⟨hd, hg, hmost⟩ := (x.foldl_betterCore n (clusterCores_pairwise cl)).2 d g hbest
    have hof := clusterOf_of_mem hcl hd
    refine ⟨{ fidx := i, core := d, base := g }, pre, post, rfl, rfl, by rw [hof], by rw [hof]; omega, hg, by rw [hof]; exact hmost,
      fun c hc => ?_⟩
    have hnone := hpre c hc
    rw [Placing.bestCore_eq] at hnone
    split at hnone
    · exact .inl (by assumption)
    · exact .inr ((x.foldl_betterCore n (clusterCores_pairwise c)).1 hnone)

end Sys2Proof

namespace Sys2Proof.Machine

/-! ## Pitches (spec/10 R328) -/

/-- One forme of a rectangle put on its core. -/
def Placing.rectStep (clusters : List Nat) (need : Nat → Need') (first : Nat) (r : Option Placing) (e : Nat × Nat) : Option Placing :=
  r.bind (fun (x : Placing) =>
    if clusters.contains (clusterOf e.1) ∧ 0 < x.records (clusterOf e.1) then
      ((x.room e.1).fits (need (first + e.2))).map (fun f => x.put (need (first + e.2)) { fidx := first + e.2, core := e.1, base := f })
    else none)

theorem Placing.foldl_rectStep_none (cs : List Nat) (need : Nat → Need') (first : Nat) (l : List (Nat × Nat)) :
    l.foldl (Placing.rectStep cs need first) none = none := by
  induction l with
  | nil => rfl
  | cons e r ih => exact ih

/-- The formes of a rectangle stand on its cores, in order. -/
theorem Placing.done_of_rectSteps {cs : List Nat} {need : Nat → Need'} {first : Nat} {l : List (Nat × Nat)} {x y : Placing}
    (h : l.foldl (Placing.rectStep cs need first) (some x) = some y) :
    ∃ new, y.done = x.done ++ new ∧ new.map (·.core) = l.map (·.1) ∧ new.map (·.fidx) = l.map (fun e => first + e.2) := by
  induction l generalizing x with
  | nil =>
    cases h
    exact ⟨[], by simp⟩
  | cons e r ih =>
    rw [List.foldl_cons] at h
    cases hs : Placing.rectStep cs need first (some x) e with
    | none =>
      rw [hs, Placing.foldl_rectStep_none] at h
      cases h
    | some z =>
      rw [hs] at h
      obtain ⟨new, hdone, hcore, hidx⟩ := ih h
      unfold Placing.rectStep at hs
      rw [Option.bind_some] at hs
      split at hs
      · obtain ⟨f, -, rfl⟩ := Option.map_eq_some_iff.mp hs
        exact ⟨{ fidx := first + e.2, core := e.1, base := f } :: new, by rw [hdone]; simp [Placing.put], by simp [hcore], by simp [hidx]⟩
      · cases hs

theorem length_rectCores (die x0 y0 pw ph : Nat) : (rectCores die x0 y0 pw ph).length = pw * ph := by
  simp [rectCores, List.length_flatMap, Nat.mul_comm]

end Sys2Proof.Machine

namespace Sys2Proof

open Sys2Proof.Machine

/-- A pitch stands on the cores of a rectangle of one die (R328). -/
theorem pitch_placed {x y : Placing} {cs : List Nat} {one : Bool} {pw ph first : Nat} {need : Nat → Need'}
    (h : x.pitch cs one pw ph need first = some y) :
    ∃ die x0 y0 new, die < 4 ∧ x0 + pw ≤ 8 ∧ y0 + ph ≤ 8 ∧ y.done = x.done ++ new
      ∧ new.map (·.core) = rectCores die x0 y0 pw ph ∧ new.map (·.fidx) = (List.range (pw * ph)).map (· + first) := by
  obtain ⟨die, hdie, hrows⟩ := List.exists_of_findSome?_eq_some h
  obtain ⟨y0, hy0, hcols⟩ := List.exists_of_findSome?_eq_some hrows
  obtain ⟨x0, hx0, hrect⟩ := List.exists_of_findSome?_eq_some hcols
  rw [List.mem_range] at hdie hy0 hx0
  unfold Placing.rect at hrect
  split at hrect
  · cases hrect
  · obtain ⟨new, hdone, hcore, hidx⟩ := Placing.done_of_rectSteps hrect
    refine ⟨die, x0, y0, new, hdie, by omega, by omega, hdone, ?_, ?_⟩
    · rw [hcore, List.zipIdx_map_fst]
    · have hsnd : (rectCores die x0 y0 pw ph).zipIdx.map Prod.snd = List.range (pw * ph) := by
        rw [List.zipIdx_map_snd, length_rectCores, List.range_eq_range']
      rw [hidx, ← hsnd, List.map_map]
      exact List.map_congr_left (fun e _ => Nat.add_comm _ _)

end Sys2Proof

namespace Sys2Proof.Machine

/-! ## Messages on a link (spec/10 R323) -/

/-- A message that is sent is on its way, and so is every message that was. -/
theorem Cluster.onWay_sendDown {c : Cluster} {m x : LinkMsg} (h : x = m ∨ c.onWay true x) : (c.sendDown m).onWay true x := by
  unfold Cluster.onWay Cluster.sendDown at *
  simp only [if_true, List.mem_append] at *
  split <;> simp only [List.mem_append, List.mem_singleton] <;> tauto

theorem Cluster.onWay_sendUp (c : Cluster) (m : LinkMsg) : (c.sendUp m).onWay false m := by
  unfold Cluster.onWay Cluster.sendUp
  simp only [Bool.false_eq_true, if_false, List.mem_append]
  split <;> simp

/-- Changes of clusters change clusters alone. -/
theorem State.foldl_modCluster (g : Nat → Cluster → Cluster) (l : List Nat) (s : State) :
    l.foldl (fun s cl => s.modCluster cl (g cl)) s = { s with clusters := l.foldl (fun k cl => k.upd cl (g cl)) s.clusters } := by
  induction l generalizing s with
  | nil => rfl
  | cons c r ih => exact ih (s.modCluster c (g c))

/-- Every cluster of a list is sent its message. -/
theorem State.onWay_foldl_sendDown (msg : Nat → LinkMsg) (l : List Nat) (s : State) {cl : Nat}
    (h : cl ∈ l ∨ (s.cluster cl).onWay true (msg cl)) :
    ((l.foldl (fun s cl => s.modCluster cl (fun c => c.sendDown (msg cl))) s).cluster cl).onWay true (msg cl) := by
  induction l generalizing s with
  | nil => simpa using h
  | cons c r ih =>
    refine ih _ ?_
    by_cases hc : cl = c
    · subst hc
      rw [State.cluster_modCluster]
      exact .inr (Cluster.onWay_sendDown (.inl rfl))
    · rw [State.cluster_modCluster_ne s _ hc]
      simpa [hc] using h

/-! ## Orders (spec/10 R323, R326 to R328, R336) -/

/-- The order of a unit. -/
def State.orderOf (s : State) (n first : Nat) (back : Bool) (x : Placing) : Order :=
  { launch := n, first := first, restore := back, formes := (s.toBind n back x).map (·.fidx), waits := placedClusters (s.toBind n back x)
    bound := x.bound }

/-- The partition's registers once a unit is ordered. -/
def State.orderedPart (s : State) (n first : Nat) (back : Bool) (x : Placing) : State :=
  (if back then s else s.reserveSave (s.launch n) (s.launch n).unitSize false).modPart (s.launch n).part
    (fun p => { p with order := some (s.orderOf n first back x) })

/-- The message of an order to a cluster. -/
def State.orderMsg (s : State) (n : Nat) (back : Bool) (x : Placing) (corner : Placed → Nat) (cl : Nat) : LinkMsg :=
  { type := if back then 0x05 else if 1 < (s.launch n).unitSize then 0x02 else 0x01, launch := n
    formes := ((s.toBind n back x).filter (fun q => clusterOf q.core == cl)).map (fun q => (n, q.fidx))
    cores := if 1 < (s.launch n).unitSize
      then ((s.toBind n back x).filter (fun q => clusterOf q.core == cl)).map (fun q => (q.core, corner q)) else [] }

/-- Ordering a unit takes note of the order and sends every cluster its message. -/
theorem State.orderUnit_eq (s : State) (n first : Nat) (back : Bool) (x : Placing) : ∃ corner, s.orderUnit n first back x
    = (placedClusters (s.toBind n back x)).foldl (fun u cl => u.modCluster cl (fun c => c.sendDown (s.orderMsg n back x corner cl)))
        (s.orderedPart n first back x) := by
  refine ⟨fun q => if (s.launch n).decl 3
    then ((x.done.find? (fun r => r.fidx == q.fidx / (s.launch n).ext 2 * (s.launch n).ext 2)).map (·.core)).getD q.core else q.core, ?_⟩
  unfold State.orderUnit State.orderMsg
  simp only [decide_eq_true_eq]
  rfl

theorem State.part_orderUnit (s : State) (n first : Nat) (back : Bool) (x : Placing) (k : Nat) :
    (s.orderUnit n first back x).part k = (s.orderedPart n first back x).part k := by
  obtain ⟨corner, h⟩ := s.orderUnit_eq n first back x
  rw [h, State.foldl_modCluster]
  rfl

theorem State.order_orderedPart (s : State) (n first : Nat) (back : Bool) (x : Placing) :
    ((s.orderedPart n first back x).part (s.launch n).part).order = some (s.orderOf n first back x) := by
  rw [State.orderedPart, State.part_modPart]

theorem State.saveUsed_orderedPart (s : State) (n first : Nat) (x : Placing) :
    ((s.orderedPart n first false x).part (s.launch n).part).saveUsed
      = (s.part (s.launch n).part).saveUsed + (s.launch n).unitSize * (s.launch n).saveBytes := by
  rw [State.orderedPart, State.part_modPart]
  show ((s.reserveSave (s.launch n) (s.launch n).unitSize false).part (s.launch n).part).saveUsed = _
  rw [State.reserveSave, State.part_modPart]
  rfl

/-- The event by which the scheduler orders the head of a partition. -/
def orderEvent (back : Bool) (unit : Nat) : Instr := if back then .linkRestore else if unit = 1 then .linkPlace else .linkReserve

/-- The scheduler's turn orders the head of its partition. -/
theorem exec_orderEvent {s : State} {n first : Nat} {back : Bool} (hflag : s.ev.flag = false)
    (hhead : s.headUnit s.ev.part = some (n, first, back)) : exec (orderEvent back (s.launch n).unitSize) s = .next
      ((if (s.part s.ev.part).order.isSome || !(back || s.saveRoom (s.launch n)) then none
        else ((s.launch n).placeAt (s.needOf n (s.launch n) back) first (s.openClusters s.ev.part) (s.placing s.ev.part (s.launch n))).map
          (fun x => s.orderUnit n first back x)).getD s) := by
  have hask (ask : Launch → Bool → Bool) (h : ask (s.launch n) back = true) : s.orderHead s.ev.part ask
      = if (s.part s.ev.part).order.isSome || !(back || s.saveRoom (s.launch n)) then none
        else ((s.launch n).placeAt (s.needOf n (s.launch n) back) first (s.openClusters s.ev.part) (s.placing s.ev.part (s.launch n))).map
          (fun x => s.orderUnit n first back x) := by
    simp [State.orderHead, hhead, h]
  unfold orderEvent
  cases back with
  | true =>
    show execLinkRestore s = _
    simp only [execLinkRestore, hflag, hask (fun _ r => r) rfl]
    rfl
  | false =>
    by_cases hone : (s.launch n).unitSize = 1
    · simp only [hone, if_true, if_false, Bool.false_eq_true]
      show execLinkPlace s = _
      simp only [execLinkPlace, hflag, hask (fun l r => !r && l.unitSize == 1) (by simp [hone])]
      rfl
    · simp only [hone, if_false, Bool.false_eq_true]
      show execLinkReserve s = _
      simp only [execLinkReserve, hflag, hask (fun l r => !r && l.unitSize != 1) (by simp [hone])]
      rfl

end Sys2Proof.Machine

namespace Sys2Proof

open Sys2Proof.Machine

/-- What the scheduler's turn does for the head of its partition. -/
theorem head_ordered {s : State} {n first : Nat} {back : Bool} (x : Placing) (hflag : s.ev.flag = false)
    (hhead : s.headUnit s.ev.part = some (n, first, back)) :
    let p := s.ev.part
    let l := s.launch n
    let ev : Instr := if back then .linkRestore else if l.unitSize = 1 then .linkPlace else .linkReserve
    let type : BitVec 8 := if back then 0x05 else if 1 < l.unitSize then 0x02 else 0x01
    let new := s.toBind n back x
    ((s.part p).order ≠ none ∨ (back = false ∧ s.saveRoom l = false) → exec ev s = .next s)
      ∧ ((s.part p).order = none → (back = true ∨ s.saveRoom l = true) →
        (l.placeAt (s.needOf n l back) first (s.openClusters p) (s.placing p l) = none → exec ev s = .next s)
        ∧ (l.placeAt (s.needOf n l back) first (s.openClusters p) (s.placing p l) = some x →
          ∃ t, exec ev s = .next t
            ∧ (t.part l.part).order = some { launch := n, first := first, restore := back, formes := new.map (·.fidx)
                                             waits := placedClusters new, bound := x.bound }
            ∧ (back = false → (t.part l.part).saveUsed = (s.part l.part).saveUsed + l.unitSize * l.saveBytes)
            ∧ ∀ cl ∈ placedClusters new, ∃ m, (t.cluster cl).onWay true m ∧ m.type = type ∧ m.launch = n
                ∧ m.formes = (new.filter (fun q => clusterOf q.core == cl)).map (fun q => (n, q.fidx)))) := by
  intro p l ev type new
  have hexec := exec_orderEvent hflag hhead
  refine ⟨fun h => ?_, fun hfree hroom => ?_⟩
  · refine hexec.trans ?_
    rw [if_pos]
    · rfl
    · rcases h with h | ⟨hb, hr⟩
      · exact Bool.or_eq_true_iff.mpr (.inl (Option.isSome_iff_ne_none.mpr h))
      · simp [hb, hr, l]
  · rw [if_neg (by rcases hroom with h | h <;> simp [hfree, h, p, l])] at hexec
    refine ⟨fun hnone => ?_, fun hsome => ?_⟩
    · rw [hnone] at hexec
      exact hexec
    · rw [hsome] at hexec
      refine ⟨s.orderUnit n first back x, hexec, ?_, fun hb => ?_, fun cl hcl => ?_⟩
      · rw [State.part_orderUnit, State.order_orderedPart]
        rfl
      · subst hb
        rw [State.part_orderUnit, State.saveUsed_orderedPart]
      · obtain ⟨corner, h⟩ := s.orderUnit_eq n first back x
        refine ⟨s.orderMsg n back x corner cl, ?_, rfl, rfl, rfl⟩
        rw [h]
        exact State.onWay_foldl_sendDown _ _ _ (.inl hcl)

end Sys2Proof

namespace Sys2Proof.Machine

/-! ## `GO` (spec/10 R328) -/

/-- A bound forme is let go. -/
def Forme.letGo (f : Forme) : Forme := if f.place = .bound then { f with goes := true } else f

/-- Of a list of formes, the bound ones are let go, and stay bound. -/
theorem State.forme_foldl_letGo (l : List (Nat × Nat)) {s : State} {k : Nat} (hb : (s.forme k).place = .bound)
    (h : (∃ e ∈ l, formeKey e.1 e.2 = k) ∨ (s.forme k).goes = true) :
    ((l.foldl (fun s e => s.modForme (formeKey e.1 e.2) Forme.letGo) s).forme k).goes = true
      ∧ ((l.foldl (fun s e => s.modForme (formeKey e.1 e.2) Forme.letGo) s).forme k).place = .bound := by
  induction l generalizing s with
  | nil => exact ⟨by simpa using h, hb⟩
  | cons e r ih =>
    rw [List.foldl_cons]
    by_cases hk : k = formeKey e.1 e.2
    · have hgo : (s.modForme (formeKey e.1 e.2) Forme.letGo).forme k = { s.forme k with goes := true } := by
        rw [hk, State.forme_modForme, ← hk, Forme.letGo, if_pos hb]
      exact ih (by rw [hgo]; exact hb) (.inr (by rw [hgo]))
    · have hsame : (s.modForme (formeKey e.1 e.2) Forme.letGo).forme k = s.forme k := State.forme_modForme_ne s _ hk
      refine ih (by rw [hsame]; exact hb) ?_
      rw [hsame]
      rcases h with ⟨x, hx, rfl⟩ | h
      · rcases List.mem_cons.mp hx with rfl | hx
        · exact absurd rfl hk
        · exact .inl ⟨x, hx, rfl⟩
      · exact .inr h

theorem exec_linkGo {s : State} {m : LinkMsg} {r : List LinkMsg} (h : (s.cluster s.ev.core).toLeaf = m :: r) (ht : m.type = 0x03) :
    exec .linkGo s = .next (m.formes.foldl (fun s e => s.modForme (formeKey e.1 e.2) Forme.letGo)
      (s.modCluster s.ev.core (·.tookDown))) := by
  show execLinkGo s = _
  simp only [execLinkGo, State.downHead, h, ht, if_true]
  rfl

/-! ## `DONE` (spec/10 R325) -/

theorem State.launch_modPart (s : State) (p : Nat) (f : Partition → Partition) (n : Nat) : (s.modPart p f).launch n = s.launch n := rfl

theorem ended_linkDone {s : State} {m : LinkMsg} {r : List LinkMsg} (h : (s.cluster s.ev.core).toSched = m :: r) (ht : m.type = 0x82) :
    ∃ t, exec .linkDone s = .next t ∧ (t.launch m.launch).ended = (s.launch m.launch).ended + m.formes.length := by
  let u := s.modCluster s.ev.core (·.tookUp)
  refine ⟨(((u.modLaunch m.launch (fun l => { l with ended := l.ended + m.formes.length })).reserveSave (u.launch m.launch)
    m.formes.length true).settle (u.launch m.launch).part), ?_, ?_⟩
  · show execLinkDone s = _
    simp only [execLinkDone, State.upHead, h, ht, if_true]
    rfl
  · rw [State.settle, State.launch_modPart, State.reserveSave, State.launch_modPart, State.launch_modLaunch]
    rfl

/-! ## `BOUND` (spec/10 R323, R328) -/

/-- An order once the leaf of a cluster has answered. -/
def Order.answered (o : Order) (cl : Nat) (ok : Bool) : Order := { o with waits := o.waits.erase cl, refused := o.refused || !ok }

/-- The order of a partition is over, or awaits further answers. -/
def State.orderNow (s : State) (cl p : Nat) (o : Option Order) : State :=
  (s.modCluster cl (·.tookUp)).modPart p (fun q => { q with order := o })

/-- Whether the unit of an answer still may stand. -/
def State.stands (s : State) (m : LinkMsg) : Bool := m.ok && (s.launch m.launch).st == .active

theorem exec_linkBound {s : State} {m : LinkMsg} {r : List LinkMsg} {o : Order} (h : (s.cluster s.ev.core).toSched = m :: r)
    (ht : m.type = 0x81) (ho : (s.part (s.launch m.launch).part).order = some o) (hn : o.launch = m.launch) :
    exec .linkBound s = .next (
      if o.waits.erase s.ev.core ≠ [] then
        s.orderNow s.ev.core (s.launch m.launch).part (some (o.answered s.ev.core (s.stands m)))
      else if (o.answered s.ev.core (s.stands m)).refused then
        (s.orderNow s.ev.core (s.launch m.launch).part none).unitRefused (o.answered s.ev.core (s.stands m))
      else (s.orderNow s.ev.core (s.launch m.launch).part none).unitStands (o.answered s.ev.core (s.stands m))) := by
  have hparts : ((s.modCluster s.ev.core (·.tookUp)).part ((s.modCluster s.ev.core (·.tookUp)).launch m.launch).part).order = some o := ho
  have hans : (o.answered s.ev.core (s.stands m)) = { o with
      waits := o.waits.erase s.ev.core
      refused := o.refused || !m.ok || ((s.modCluster s.ev.core (·.tookUp)).launch m.launch).st != .active } := by
    show Order.answered o s.ev.core (m.ok && (s.launch m.launch).st == .active) = _
    simp only [Order.answered, Bool.not_and, Bool.or_assoc]
    rfl
  show execLinkBound s = _
  simp only [execLinkBound, State.upHead, h, ht, if_true, hparts, ← hans]
  rw [if_neg (not_not.mpr hn)]
  have href : (o.refused || !m.ok || ((s.modCluster s.ev.core (·.tookUp)).launch m.launch).st != .active)
      = (o.answered s.ev.core (s.stands m)).refused := (congrArg Order.refused hans).symm
  rw [href]
  by_cases hw : o.waits.erase s.ev.core = []
  · rw [hw, if_neg (by simp), if_neg (show ¬([] : List Nat) ≠ [] by simp)]
    cases (o.answered s.ev.core (s.stands m)).refused <;> rfl
  · rw [if_pos (by simpa using hw), if_pos hw]
    rfl

/-! ## A unit that is refused (spec/10 R328, R334) -/

theorem State.leaveCore_formes (s : State) (fk : Nat) : (s.leaveCore fk).formes = s.formes ∧ (s.leaveCore fk).parts = s.parts := ⟨rfl, rfl⟩

/-- Giving up a place leaves every forme's record and every partition as they were. -/
theorem State.vacate_formes (s : State) (fk : Nat) : (s.vacate fk).formes = s.formes ∧ (s.vacate fk).parts = s.parts := by
  have hfold (g : State → Nat × Slug → Core → Core) (l : List (Nat × Slug)) (u : State) :
      (l.foldl (fun u m => u.modCore (s.forme fk).core (g u m)) u).formes = u.formes
        ∧ (l.foldl (fun u m => u.modCore (s.forme fk).core (g u m)) u).parts = u.parts := by
    induction l generalizing u with
    | nil => exact ⟨rfl, rfl⟩
    | cons m r ih => exact ih (u.modCore (s.forme fk).core (g u m))
  obtain ⟨hf, hp⟩ := hfold (fun u m c => (if (s.forme fk).place != .bound then c.dropSlot m.2.h else c).releaseR u.cyc m.2.vb m.2.alloc)
    ((s.forme fk).slugs.filter (fun m => m.2.live)) s
  rw [State.vacate]
  exact ⟨(State.leaveCore_formes _ fk).1.trans hf, (State.leaveCore_formes _ fk).2.trans hp⟩

theorem State.foldl_vacate_formes (fks : List Nat) (s : State) :
    (fks.foldl (fun s k => s.vacate k) s).formes = s.formes ∧ (fks.foldl (fun s k => s.vacate k) s).parts = s.parts := by
  induction fks generalizing s with
  | nil => exact ⟨rfl, rfl⟩
  | cons k r ih =>
    obtain ⟨h1, h2⟩ := ih (s.vacate k)
    obtain ⟨h3, h4⟩ := s.vacate_formes k
    exact ⟨h1.trans h3, h2.trans h4⟩

/-- Taking entries away by their index. -/
theorem Sparse.look_filter_not {α : Type} [Inhabited α] (m : Sparse α) (ks : List Nat) {k : Nat} (h : k ∈ ks) :
    Sparse.look (m.filter (fun e => !ks.contains e.1)) k = default := by
  induction m with
  | nil => rfl
  | cons e r ih =>
    obtain ⟨i, v⟩ := e
    by_cases hi : i ∈ ks
    · rw [List.filter_cons_of_neg (by simpa using hi)]
      exact ih
    · rw [List.filter_cons_of_pos (by simpa using hi), Sparse.look_cons, if_neg (fun hk : i = k => hi (hk ▸ h))]
      exact ih

/-- A forme that is saved. -/
def Forme.saved (f : Forme) : Forme := { f with place := .saved }

theorem State.place_foldl_saved (fks : List Nat) {s : State} {k : Nat} (h : k ∈ fks ∨ (s.forme k).place = .saved) :
    ((fks.foldl (fun s k => s.modForme k Forme.saved) s).forme k).place = .saved := by
  induction fks generalizing s with
  | nil => simpa using h
  | cons i r ih =>
    refine ih ?_
    by_cases hk : k = i
    · rw [hk, State.forme_modForme]
      exact .inr rfl
    · rw [State.forme_modForme_ne s _ hk]
      simpa [hk] using h

theorem State.foldl_modForme_parts (g : Forme → Forme) (fks : List Nat) (s : State) :
    (fks.foldl (fun s k => s.modForme k g) s).parts = s.parts := by
  induction fks generalizing s with
  | nil => rfl
  | cons i r ih => exact ih (s.modForme i g)

/-- The bound formes that give their places up: saved ones stay saved, the others are gone; no partition changes. -/
theorem State.dropBound_formes (s : State) (fks : List Nat) (saved : Bool) :
    (s.dropBound fks saved).parts = s.parts
      ∧ ∀ k ∈ fks, if saved then ((s.dropBound fks saved).forme k).place = .saved else (s.dropBound fks saved).forme k = {} := by
  obtain ⟨hf, hp⟩ := State.foldl_vacate_formes fks s
  unfold State.dropBound
  cases saved with
  | true => exact ⟨(State.foldl_modForme_parts Forme.saved fks _).trans hp, fun k hk => State.place_foldl_saved fks (.inl hk)⟩
  | false => exact ⟨hp, fun k hk => Sparse.look_filter_not _ fks hk⟩

/-- A refused unit is unbound, and the order of its partition is as it was. -/
theorem State.unitRefused_spec (s : State) (o : Order) (p : Nat) :
    ((s.unitRefused o).part p).order = (s.part p).order
      ∧ ∀ i ∈ o.formes, (s.forme (formeKey o.launch i)).place = .bound →
        if o.restore then ((s.unitRefused o).forme (formeKey o.launch i)).place = .saved else (s.unitRefused o).forme (formeKey o.launch i) = {} := by
  obtain ⟨hparts, hformes⟩ := s.dropBound_formes ((o.formes.map (formeKey o.launch)).filter (fun k => (s.forme k).place == .bound)) o.restore
  have hmem {i : Nat} (hi : i ∈ o.formes) (hb : (s.forme (formeKey o.launch i)).place = .bound) :
      formeKey o.launch i ∈ (o.formes.map (formeKey o.launch)).filter (fun k => (s.forme k).place == .bound) :=
    List.mem_filter.mpr ⟨List.mem_map_of_mem hi, by simp [hb]⟩
  unfold State.unitRefused
  cases hr : o.restore with
  | true =>
    rw [hr] at hparts hformes
    exact ⟨by simp only [State.part, if_true, hparts], fun i hi hb => hformes _ (hmem hi hb)⟩
  | false =>
    rw [hr] at hparts hformes
    refine ⟨?_, fun i hi hb => hformes _ (hmem hi hb)⟩
    simp only [Bool.false_eq_true, if_false, State.reserveSave]
    by_cases hp : p = (s.launch o.launch).part
    · rw [hp, State.part_modPart]
      simp only [State.part, hparts]
    · rw [State.part_modPart_ne _ _ hp]
      simp only [State.part, hparts]

/-! ## A unit that stands (spec/10 R328, R329) -/

/-- The launch and the partition of a unit that stands. -/
def State.stood (s : State) (o : Order) : State :=
  let u := s.modLaunch o.launch (fun l => { l with
    next := if !o.restore && o.first == l.next then l.next + (s.launch o.launch).unitSize else l.next
    returned := if o.restore then l.returned else l.returned.erase o.first
    boundTo := o.bound })
  if o.restore then u.modPart (s.launch o.launch).part (fun q => { q with savedUnits := q.savedUnits.erase (o.launch, o.first) }) else u

/-- The message that lets the formes of a unit on a cluster go. -/
def State.goMsg (s : State) (o : Order) (cl : Nat) : LinkMsg :=
  { type := 0x03, launch := o.launch
    formes := (o.formes.filter (fun i => clusterOf (s.forme (formeKey o.launch i)).core == cl)).map (fun i => (o.launch, i)) }

theorem State.unitStands_eq (s : State) (o : Order) : s.unitStands o = if (s.launch o.launch).unitSize ≤ 1 then s.stood o
    else ((o.formes.map (fun i => clusterOf ((s.stood o).forme (formeKey o.launch i)).core)).dedup).foldl
      (fun u cl => u.modCluster cl (fun c => c.sendDown ((s.stood o).goMsg o cl))) (s.stood o) := rfl

theorem State.forme_stood (s : State) (o : Order) (k : Nat) : (s.stood o).forme k = s.forme k := by
  unfold State.stood
  dsimp only
  split <;> rfl

theorem State.launch_stood (s : State) (o : Order) : (s.stood o).launch o.launch = { s.launch o.launch with
    next := if !o.restore && o.first == (s.launch o.launch).next then (s.launch o.launch).next + (s.launch o.launch).unitSize
      else (s.launch o.launch).next
    returned := if o.restore then (s.launch o.launch).returned else (s.launch o.launch).returned.erase o.first
    boundTo := o.bound } := by
  unfold State.stood
  dsimp only
  split
  · rw [State.launch_modPart, State.launch_modLaunch]
  · rw [State.launch_modLaunch]

theorem State.part_stood (s : State) (o : Order) : (s.stood o).part (s.launch o.launch).part
    = { s.part (s.launch o.launch).part with savedUnits := if o.restore then (s.part (s.launch o.launch).part).savedUnits.erase (o.launch, o.first)
        else (s.part (s.launch o.launch).part).savedUnits } := by
  unfold State.stood
  cases o.restore with
  | true => exact State.part_modPart _ _ _
  | false => rfl

/-- What a unit that stands leaves of its launch, its partition and its links. -/
theorem State.unitStands_spec (s : State) (o : Order) :
    (s.unitStands o).launch o.launch = (s.stood o).launch o.launch
      ∧ (s.unitStands o).part (s.launch o.launch).part = (s.stood o).part (s.launch o.launch).part
      ∧ (1 < (s.launch o.launch).unitSize → ∀ i ∈ o.formes,
        ((s.unitStands o).cluster (clusterOf (s.forme (formeKey o.launch i)).core)).onWay true
          ((s.stood o).goMsg o (clusterOf (s.forme (formeKey o.launch i)).core))) := by
  rw [State.unitStands_eq]
  split
  · exact ⟨rfl, rfl, fun h => by omega⟩
  · refine ⟨by rw [State.foldl_modCluster]; rfl, by rw [State.foldl_modCluster]; rfl, fun _ i hi => ?_⟩
    refine State.onWay_foldl_sendDown _ _ _ (.inl (List.mem_dedup.mpr ?_))
    simp only [State.forme_stood]
    exact List.mem_map_of_mem hi

theorem State.mem_goMsg (s : State) (o : Order) {i : Nat} (hi : i ∈ o.formes) :
    (o.launch, i) ∈ ((s.stood o).goMsg o (clusterOf (s.forme (formeKey o.launch i)).core)).formes := by
  simp only [State.goMsg, State.forme_stood]
  exact List.mem_map_of_mem (List.mem_filter.mpr ⟨hi, by simp⟩)

end Sys2Proof.Machine

namespace Sys2Proof

open Sys2Proof.Machine

/-- A `GO` lets the bound formes it names start. -/
theorem go_obeyed {s : State} {m : LinkMsg} {r : List LinkMsg} (h : (s.cluster s.ev.core).toLeaf = m :: r) (ht : m.type = 0x03) :
    ∃ t, exec .linkGo s = .next t ∧ ∀ e ∈ m.formes, (s.forme (formeKey e.1 e.2)).place = .bound →
      (t.forme (formeKey e.1 e.2)).goes = true ∧ (t.forme (formeKey e.1 e.2)).place = .bound :=
  ⟨_, exec_linkGo h ht, fun e he hb =>
    State.forme_foldl_letGo m.formes (s := s.modCluster s.ev.core (·.tookDown)) hb (.inl ⟨e, he, rfl⟩)⟩

section Bound

variable {s : State} {m : LinkMsg} {r : List LinkMsg} {o : Order} (h : (s.cluster s.ev.core).toSched = m :: r) (ht : m.type = 0x81)
  (ho : (s.part (s.launch m.launch).part).order = some o) (hn : o.launch = m.launch)
include h ht ho hn

/-- The scheduler waits for the answers of the other clusters. -/
theorem bound_awaited (hw : o.waits.erase s.ev.core ≠ []) : ∃ t, exec .linkBound s = .next t
    ∧ (t.part (s.launch m.launch).part).order
      = some { o with waits := o.waits.erase s.ev.core, refused := o.refused || !m.ok || (s.launch m.launch).st != .active } := by
  refine ⟨_, (exec_linkBound h ht ho hn).trans (by rw [if_pos hw]), ?_⟩
  rw [State.orderNow, State.part_modPart]
  simp only [Order.answered, State.stands, Bool.not_and, Bool.or_assoc]
  rfl

/-- A unit that one cluster has refused is unbound. -/
theorem bound_refused (hw : o.waits.erase s.ev.core = []) (hbad : o.refused = true ∨ m.ok = false ∨ (s.launch m.launch).st ≠ .active) :
    ∃ t, exec .linkBound s = .next t ∧ (t.part (s.launch m.launch).part).order = none
      ∧ ∀ i ∈ o.formes, (s.forme (formeKey m.launch i)).place = .bound →
        if o.restore then (t.forme (formeKey m.launch i)).place = .saved else t.forme (formeKey m.launch i) = {} := by
  have hrefused : (o.answered s.ev.core (s.stands m)).refused = true := by
    rcases hbad with hb | hb | hb <;> simp [Order.answered, State.stands, hb]
  obtain ⟨horder, hformes⟩ := (s.orderNow s.ev.core (s.launch m.launch).part none).unitRefused_spec
    (o.answered s.ev.core (s.stands m)) (s.launch m.launch).part
  refine ⟨_, (exec_linkBound h ht ho hn).trans (by rw [if_neg (not_not.mpr hw), if_pos hrefused]), ?_, fun i hi hb => ?_⟩
  · rw [horder, State.orderNow, State.part_modPart]
  · have hkey : (o.answered s.ev.core (s.stands m)).launch = m.launch := hn
    have hunbound := hformes i hi
    rw [hkey] at hunbound
    exact hunbound hb

/-- A unit that every cluster has bound stands. -/
theorem bound_stands (hw : o.waits.erase s.ev.core = []) (hgood : ¬(o.refused = true ∨ m.ok = false ∨ (s.launch m.launch).st ≠ .active)) :
    ∃ t, exec .linkBound s = .next t ∧ (t.part (s.launch m.launch).part).order = none
      ∧ (t.launch m.launch).boundTo = o.bound
      ∧ (o.restore = true → (t.part (s.launch m.launch).part).savedUnits = (s.part (s.launch m.launch).part).savedUnits.erase (m.launch, o.first))
      ∧ (o.restore = false → (t.launch m.launch).next = (if o.first = (s.launch m.launch).next then o.first + (s.launch m.launch).unitSize
          else (s.launch m.launch).next))
      ∧ (1 < (s.launch m.launch).unitSize → ∀ i ∈ o.formes,
          ∃ g, (t.cluster (clusterOf (s.forme (formeKey m.launch i)).core)).onWay true g ∧ g.type = 0x03 ∧ (m.launch, i) ∈ g.formes) := by
  have hstands : (o.answered s.ev.core (s.stands m)).refused = false := by
    simp only [not_or, Bool.not_eq_true, Bool.not_eq_false, not_not] at hgood
    obtain ⟨h1, h2, h3⟩ := hgood
    simp [Order.answered, State.stands, h1, h2, h3]
  obtain ⟨u, hu⟩ : ∃ u, u = s.orderNow s.ev.core (s.launch m.launch).part none := ⟨_, rfl⟩
  obtain ⟨a, ha⟩ : ∃ a, a = o.answered s.ev.core (s.stands m) := ⟨_, rfl⟩
  have hal : a.launch = m.launch := by rw [ha]; exact hn
  have hlaunch : u.launch m.launch = s.launch m.launch := by rw [hu]; rfl
  have hpart : u.part (s.launch m.launch).part = { s.part (s.launch m.launch).part with order := none } := by
    rw [hu, State.orderNow, State.part_modPart]
    rfl
  have hforme (k : Nat) : u.forme k = s.forme k := by rw [hu]; rfl
  obtain ⟨hl, hp, hgo⟩ := u.unitStands_spec a
  have hl' := u.launch_stood a
  have hp' := u.part_stood a
  rw [hal] at hl
  rw [hal, hlaunch] at hp hgo hl' hp'
  rw [hpart] at hp'
  refine ⟨_, (exec_linkBound h ht ho hn).trans (by rw [if_neg (not_not.mpr hw), if_neg (by simp [hstands]), ← hu, ← ha]), ?_, ?_, ?_, ?_, ?_⟩
  · rw [hp, hp']
  · rw [hl, hl', ha]
    rfl
  · intro hr
    have hback : a.restore = true := by rw [ha]; exact hr
    rw [hp, hp', hback, if_pos rfl, ha]
    rfl
  · intro hr
    have hback : a.restore = false := by rw [ha]; exact hr
    have hfirst : a.first = o.first := by rw [ha]; rfl
    rw [hl, hl', hback, hfirst]
    by_cases hnext : o.first = (s.launch m.launch).next <;> simp [hnext]
  · intro hmany i hi
    have hi' : i ∈ a.formes := by rw [ha]; exact hi
    have hsent := hgo hmany i hi'
    have hnamed := u.mem_goMsg a hi'
    rw [hforme] at hsent
    rw [hal, hforme] at hnamed
    exact ⟨_, hsent, rfl, hnamed⟩

end Bound

end Sys2Proof

namespace Sys2Proof.Machine

/-! ## The scratchpad part of a core (spec/01 R26) -/

/-- What a core keeps besides its L1 and translation buffer. -/
theorem State.MemOnly.core_regs {s t : State} (h : s.MemOnly t) (k : Nat) : (t.core k).regs = (s.core k).regs := by
  have hk := congrArg Core.regs (h.cores k)
  exact hk

theorem State.MemOnly.core_spad {s t : State} (h : s.MemOnly t) (k : Nat) : (t.core k).spad = (s.core k).spad := by
  have hk := congrArg Core.spad (h.cores k)
  exact hk

theorem State.MemOnly.core_accs {s t : State} (h : s.MemOnly t) (k : Nat) : (t.core k).accs = (s.core k).accs := by
  have hk := congrArg Core.accs (h.cores k)
  exact hk

theorem State.MemOnly.core_p {s t : State} (h : s.MemOnly t) (k : Nat) : (t.core k).p = (s.core k).p := by
  have hk := congrArg Core.p (h.cores k)
  exact hk

theorem State.MemOnly.core_slots {s t : State} (h : s.MemOnly t) (k : Nat) : (t.core k).slots = (s.core k).slots := by
  have hk := congrArg Core.slots (h.cores k)
  exact hk

/-- Setting the part writes back and drops what no longer fits in L1. -/
theorem State.memOnly_setPart {s : State} (q : s.Quiet) (core p : Nat) :
    (s.modCore core (fun c => { c with p := p })).MemOnly (s.setPart core p) := by
  have q' : (s.modCore core (fun c => { c with p := p })).Quiet := q
  unfold State.setPart
  split
  · rename_i hp
    refine ⟨rfl, fun _ => rfl, fun _ _ => rfl, fun k => ?_, fun _ => rfl⟩
    by_cases hk : k = core
    · rw [hk, State.core_modCore, ← hp]
    · rw [State.core_modCore_ne s _ hk]
  · have hflush := State.keeps_flushU (s.modCore core (fun c => { c with p := p })) core
    exact (hflush.trans (State.Keeps.foldl (g := fun u (e : Nat × L1Line) => u.evict core e.1) (fun u e => u.keeps_evict core e.1) _ _)) q'

/-! ## Granules that have been cleared (spec/02 R57) -/

/-- A granule, which is free once its clearing is over. -/
def Granule.swept (g : Granule) (now : Nat) : Granule := if g.holder = none ∧ g.freeAt ≤ now then {} else g

theorem look_sweepG (m : Sparse Granule) (now i : Nat) : (sweepG m now).look i = (m.look i).swept now := by
  have hswept : (fun (_ : Nat) (g : Granule) => if g.holder.isNone && decide (g.freeAt ≤ now) then ({} : Granule) else g)
      = fun _ g => g.swept now := by
    funext _ g
    simp [Granule.swept, Option.isNone_iff_eq_none]
  rw [sweepG, hswept, Sparse.look_mapVals]
  intro _
  unfold Granule.swept
  split <;> rfl

/-- A table in canonical form that reads as empty is empty. -/
theorem Sparse.eq_nil_of_look {α : Type} [Inhabited α] [DecidableEq α] {m : Sparse α} (hwf : m.wf = true) (h : ∀ i, m.look i = default) :
    m = [] := by
  cases m with
  | nil => rfl
  | cons e r =>
    obtain ⟨k, v⟩ := e
    have hk := h k
    rw [Sparse.look_cons, if_pos rfl] at hk
    simp [Sparse.wf, hk] at hwf

/-- The machine once a core's clearing engines have been looked at. -/
def State.swept (s : State) (k : Nat) : State :=
  s.modCore k (fun c => { c with regs := sweepG c.regs s.cyc, spad := sweepG c.spad s.cyc, accs := sweepG c.accs s.cyc })

theorem exec_granuleCleared (s : State) : exec .granuleCleared s = .next
    (if ((s.swept s.ev.core).core s.ev.core).spad.isEmpty then (s.swept s.ev.core).setPart s.ev.core 1 else s.swept s.ev.core) := rfl

end Sys2Proof.Machine

namespace Sys2Proof

open Sys2Proof.Machine

/-- Granules that are cleared are free, and with no scratchpad left in use the core's part is the smallest. -/
theorem granules_cleared {s : State} (hcalm : s.Calm) (hwf : (s.core s.ev.core).spad.wf = true) :
    ∃ t, exec .granuleCleared s = .next t ∧ ∀ i,
      (t.core s.ev.core).regs.look i = ((s.core s.ev.core).regs.look i).swept s.cyc
      ∧ (t.core s.ev.core).spad.look i = ((s.core s.ev.core).spad.look i).swept s.cyc
      ∧ (t.core s.ev.core).accs.look i = ((s.core s.ev.core).accs.look i).swept s.cyc
      ∧ ((∀ j, ((s.core s.ev.core).spad.look j).swept s.cyc = {}) → (t.core s.ev.core).p = 1) := by
  have hcore : (s.swept s.ev.core).core s.ev.core = { s.core s.ev.core with
      regs := sweepG (s.core s.ev.core).regs s.cyc, spad := sweepG (s.core s.ev.core).spad s.cyc
      accs := sweepG (s.core s.ev.core).accs s.cyc } := State.core_modCore _ _ _
  have q : (s.swept s.ev.core).Quiet := hcalm.1.quiet
  refine ⟨_, exec_granuleCleared s, fun i => ?_⟩
  split
  · have hmem := State.memOnly_setPart q s.ev.core 1
    rw [hmem.core_regs, hmem.core_spad, hmem.core_accs, hmem.core_p, State.core_modCore, hcore]
    exact ⟨look_sweepG _ _ _, look_sweepG _ _ _, look_sweepG _ _ _, fun _ => rfl⟩
  · rename_i hne
    rw [hcore] at hne ⊢
    refine ⟨look_sweepG _ _ _, look_sweepG _ _ _, look_sweepG _ _ _, fun hfree => absurd ?_ hne⟩
    have hnil : sweepG (s.core s.ev.core).spad s.cyc = [] :=
      Sparse.eq_nil_of_look (Sparse.wf_mapVals hwf) (fun j => (look_sweepG _ _ _).trans (hfree j))
    rw [hnil]
    rfl

end Sys2Proof

namespace Sys2Proof.Machine

/-! ## Resident slots (spec/01 R27) -/

/-- The lowest free slot of a port. -/
def Core.freeSlot (c : Core) (p : Nat) : Option Nat :=
  (List.range 32).findSome? (fun i => if (c.slots.look (2 * i + p)).isNone then some (2 * i + p) else none)

theorem Core.freeSlot_some {c : Core} {p h : Nat} (hp : p < 2) (hs : c.freeSlot p = some h) : h < 64 ∧ c.slots.look h = none := by
  obtain ⟨i, hi, hfree⟩ := List.exists_of_findSome?_eq_some hs
  split at hfree
  · rename_i hnone
    cases hfree
    rw [List.mem_range] at hi
    exact ⟨by omega, Option.isNone_iff_eq_none.mp hnone⟩
  · cases hfree

theorem Core.freeSlot_none {c : Core} {p : Nat} (hs : c.freeSlot p = none) {i : Nat} (hi : i < 32) : c.slots.look (2 * i + p) ≠ none := by
  intro hnone
  have h := List.findSome?_eq_none_iff.mp hs i (List.mem_range.mpr hi)
  simp [hnone] at h

/-- A slug takes a free slot where there is one. -/
theorem Core.slotFor_free {c : Core} (h : ∃ i, i < 64 ∧ c.slots.look i = none) : c.slotFor < 64 ∧ c.slots.look c.slotFor = none := by
  obtain ⟨p, hp, heq⟩ : ∃ p, p < 2 ∧ c.slotFor = ((c.freeSlot p).orElse (fun _ => c.freeSlot (1 - p))).getD 0 :=
    ⟨_, by split <;> decide, rfl⟩
  rw [heq]
  cases h0 : c.freeSlot p with
  | some i => exact Core.freeSlot_some hp h0
  | none =>
    cases h1 : c.freeSlot (1 - p) with
    | some i => exact Core.freeSlot_some (by omega) h1
    | none =>
      obtain ⟨i, hi, hfree⟩ := h
      by_cases hpar : i % 2 = p
      · have := Core.freeSlot_none h0 (i := i / 2) (by omega)
        rw [show 2 * (i / 2) + p = i by omega] at this
        exact absurd hfree this
      · have := Core.freeSlot_none h1 (i := i / 2) (by omega)
        rw [show 2 * (i / 2) + (1 - p) = i by omega] at this
        exact absurd hfree this

/-- How many of the 64 slots of a core are taken. -/
def Core.taken (c : Core) : Nat := (List.range 64).countP (fun i => (c.slots.look i).isSome)

theorem Core.exists_free {c : Core} (h : c.taken < 64) : ∃ i, i < 64 ∧ c.slots.look i = none := by
  by_contra hno
  have hall : (List.range 64).countP (fun i => (c.slots.look i).isSome) = (List.range 64).length := by
    refine List.countP_eq_length.mpr (fun i hi => ?_)
    rw [Option.isSome_iff_ne_none]
    exact fun hnone => hno ⟨i, List.mem_range.mp hi, hnone⟩
  unfold Core.taken at h
  rw [hall, List.length_range] at h
  omega

/-- Of a list without repetition, one index more is counted once it holds. -/
theorem countP_of_one_more {l : List Nat} (hl : l.Nodup) {p q : Nat → Bool} {i : Nat} (hi : i ∈ l) (hp : p i = false) (hq : q i = true)
    (h : ∀ j, j ≠ i → q j = p j) : l.countP q = l.countP p + 1 := by
  induction l with
  | nil => simp at hi
  | cons a r ih =>
    obtain ⟨ha, hr⟩ := List.nodup_cons.mp hl
    rcases List.mem_cons.mp hi with rfl | hmem
    · have hsame : r.countP q = r.countP p := List.countP_congr (fun j hj => by
        rw [h j (fun hji => ha (hji ▸ hj))])
      simp [hp, hq, hsame]
    · have hne : a ≠ i := fun hai => ha (hai ▸ hmem)
      rw [List.countP_cons, List.countP_cons, ih hr hmem, h a hne]
      omega

/-- What a slug's seat does to its core's slots. -/
theorem Core.seat_spec {c : Core} (fk sl : Nat) (h : c.taken < 64) :
    (c.seat fk sl).2 < 64 ∧ c.slots.look (c.seat fk sl).2 = none
      ∧ (∀ i, (c.seat fk sl).1.slots.look i = if i = (c.seat fk sl).2 then some (fk, sl) else c.slots.look i)
      ∧ (c.seat fk sl).1.taken = c.taken + 1 := by
  obtain ⟨hlt, hfree⟩ := Core.slotFor_free (Core.exists_free h)
  have hslots (i : Nat) : (c.seat fk sl).1.slots.look i = if i = c.slotFor then some (fk, sl) else c.slots.look i := by
    rw [← Sparse.look_put]
    unfold Core.seat
    dsimp only
    split <;> rfl
  refine ⟨hlt, hfree, hslots, ?_⟩
  refine countP_of_one_more List.nodup_range (List.mem_range.mpr hlt) (by rw [hfree]; rfl) ?_ (fun i hi => ?_)
  · rw [hslots, if_pos rfl]
    rfl
  · rw [hslots, if_neg hi]

/-! ## A forme that starts (spec/10 R325, spec/01 R27) -/

/-- A slug of a forme that starts, in its slot. -/
def Slug.started (m : Slug) (now h : Nat) : Slug :=
  let late (x : Slot) : Slot := { x with readyAt := max (max x.readyAt (now + 1)) (m.landed now), pend := [] }
  { m with h := h, a := late m.a, b := late m.b, wake := m.wake.map (fun w => if w.empty then { w with fired := true } else w) }

/-- One slug of a forme takes its slot on a core. -/
def State.seatSlug (s : State) (core fk sl : Nat) : State :=
  (s.modCore core (fun _ => ((s.core core).seat fk sl).1)).modSlug fk sl (fun m => m.started s.cyc ((s.core core).seat fk sl).2)

/-- What a slug that has started keeps. -/
structure State.Seated (s t : State) (core fk sl : Nat) : Prop where
  regs : (s.slug fk sl).RegsBut (t.slug fk sl) []
  path : (t.slug fk sl).a.path = (s.slug fk sl).a.path
  low : (t.slug fk sl).h < 64
  slot : (t.core core).slots.look (t.slug fk sl).h = some (fk, sl)

theorem State.seated_seatSlug {s : State} {core : Nat} (h : (s.core core).taken < 64) (fk sl : Nat) :
    s.Seated (s.seatSlug core fk sl) core fk sl
      ∧ (∀ j, j ≠ sl → (s.seatSlug core fk sl).slug fk j = s.slug fk j)
      ∧ (∀ i e, (s.core core).slots.look i = some e → ((s.seatSlug core fk sl).core core).slots.look i = some e)
      ∧ ((s.seatSlug core fk sl).core core).taken = (s.core core).taken + 1 := by
  obtain ⟨hlt, hfree, hslots, htaken⟩ := Core.seat_spec fk sl h
  have hslug : (s.seatSlug core fk sl).slug fk sl = (s.slug fk sl).started s.cyc ((s.core core).seat fk sl).2 := State.slug_modSlug _ _ _ _
  have hcore : (s.seatSlug core fk sl).core core = ((s.core core).seat fk sl).1 := by
    rw [State.seatSlug, State.core_modSlug, State.core_modCore]
  refine ⟨⟨?_, ?_, ?_, ?_⟩, fun j hj => State.slug_modSlug_ne (s.modCore core _) fk _ hj, fun i e he => ?_, by rw [hcore, htaken]⟩
  · rw [hslug]
    exact Slug.regsBut_of_eq rfl rfl rfl rfl rfl
  · rw [hslug]
    rfl
  · rw [hslug]
    exact hlt
  · rw [hcore, hslug]
    exact (hslots _).trans (if_pos rfl)
  · rw [hcore, hslots, if_neg]
    · exact he
    · rintro rfl
      rw [hfree] at he
      cases he

/-- The slugs of a forme take their slots one after another. -/
theorem State.seated_foldl (core fk : Nat) {l : List Nat} (hl : l.Nodup) {s : State} (h : (s.core core).taken + l.length ≤ 64) :
    (∀ j ∈ l, s.Seated (l.foldl (fun s sl => s.seatSlug core fk sl) s) core fk j)
      ∧ (∀ j, j ∉ l → (l.foldl (fun s sl => s.seatSlug core fk sl) s).slug fk j = s.slug fk j)
      ∧ ∀ i e, (s.core core).slots.look i = some e → ((l.foldl (fun s sl => s.seatSlug core fk sl) s).core core).slots.look i = some e := by
  induction l generalizing s with
  | nil => exact ⟨by simp, fun _ _ => rfl, fun _ _ h => h⟩
  | cons sl r ih =>
    obtain ⟨hsl, hr⟩ := List.nodup_cons.mp hl
    rw [List.length_cons] at h
    obtain ⟨hseat, hothers, hkept, htaken⟩ := State.seated_seatSlug (s := s) (core := core) (by omega) fk sl
    obtain ⟨hrest, hout, hkeep⟩ := ih hr (s := s.seatSlug core fk sl) (by omega)
    rw [List.foldl_cons]
    refine ⟨fun j hj => ?_, fun j hj => ?_, fun i e he => hkeep i e (hkept i e he)⟩
    · rcases List.mem_cons.mp hj with rfl | hj
      · have hsame := hout j hsl
        exact ⟨by rw [hsame]; exact hseat.regs, by rw [hsame]; exact hseat.path, by rw [hsame]; exact hseat.low,
          by rw [hsame]; exact hkeep _ _ hseat.slot⟩
      · have hsame : (s.seatSlug core fk sl).slug fk j = s.slug fk j := hothers j (fun h => hsl (h ▸ hj))
        obtain ⟨hregs, hpath, hlow, hslot⟩ := hrest j hj
        rw [hsame] at hregs hpath
        exact ⟨hregs, hpath, hlow, hslot⟩
    · simp only [List.mem_cons, not_or] at hj
      rw [hout j hj.2, hothers j hj.1]

end Sys2Proof.Machine

namespace Sys2Proof.Machine

/-- The core of a forme that starts, at its acquire. -/
def State.acquired (s : State) (fk : Nat) : State :=
  if (s.forme fk).restored then (s.acquire (s.forme fk).core maskC).dropUo (s.forme fk).core else s.acquire (s.forme fk).core maskC

theorem State.memOnly_acquired {s : State} (q : s.Quiet) (fk : Nat) : s.MemOnly (s.acquired fk) := by
  have h := s.keeps_acquire (s.forme fk).core maskC
  unfold State.acquired
  split
  · exact (h.trans (State.keeps_dropUo _ _)) q
  · exact h q

/-- A forme that runs. -/
def Forme.begun (f : Forme) : Forme := { f with place := .running, drain := none }

/-- The live slugs of a forme. -/
def Forme.liveSlugs (f : Forme) : List Nat := (f.slugs.filter (fun m => m.2.live)).map (·.1)

theorem State.startForme_eq (s : State) (fk : Nat) : ∃ cl g, s.startForme fk
    = (((s.forme fk).liveSlugs.foldl (fun u sl => u.seatSlug (s.forme fk).core fk sl) (s.acquired fk)).modCluster cl g).modForme fk Forme.begun :=
  ⟨_, _, rfl⟩

/-- The indexes of a table in canonical form rise. -/
theorem Sparse.pairwise_of_wf {α : Type} [Inhabited α] [DecidableEq α] {m : Sparse α} (h : m.wf = true) :
    m.Pairwise (fun x y => x.1 < y.1) := by
  have habove {b : Nat} {r : Sparse α} (hr : Sparse.above b r = true) : r.Pairwise (fun x y => x.1 < y.1) ∧ ∀ e ∈ r, b < e.1 := by
    induction r generalizing b with
    | nil => simp
    | cons e r ih =>
      obtain ⟨k, w⟩ := e
      simp only [Sparse.above, Bool.and_eq_true, decide_eq_true_eq] at hr
      obtain ⟨hpair, hlt⟩ := ih hr.2
      exact ⟨List.pairwise_cons.mpr ⟨hlt, hpair⟩, fun e he => (List.mem_cons.mp he).elim (fun h => h ▸ hr.1.1)
        (fun h => Nat.lt_trans hr.1.1 (hlt e h))⟩
  cases m with
  | nil => exact List.Pairwise.nil
  | cons e r =>
    obtain ⟨k, w⟩ := e
    simp only [Sparse.wf, Bool.and_eq_true, decide_eq_true_eq] at h
    obtain ⟨hpair, hlt⟩ := habove h.2
    exact List.pairwise_cons.mpr ⟨hlt, hpair⟩

theorem Forme.nodup_liveSlugs {f : Forme} (h : f.slugs.wf = true) : f.liveSlugs.Nodup := by
  have hpair := (Sparse.pairwise_of_wf h).filter (fun m => m.2.live)
  exact List.pairwise_map.mpr (hpair.imp (fun h => Nat.ne_of_lt h))

theorem Forme.mem_liveSlugs {f : Forme} {j : Nat} (h : (f.slugs.look j).live = true) : j ∈ f.liveSlugs := by
  have hne : f.slugs.look j ≠ default := fun hd => by rw [hd] at h; cases h
  exact List.mem_map.mpr ⟨_, List.mem_filter.mpr ⟨Sparse.mem_of_look_ne hne, h⟩, rfl⟩

/-- A forme starts on a core without residents: every slug goes on as it was, in a slot of its own. -/
theorem State.startForme_spec {s : State} (q : s.Quiet) {fk : Nat} (hslots : (s.core (s.forme fk).core).slots = [])
    (hwf : (s.forme fk).slugs.wf = true) (hlen : (s.forme fk).liveSlugs.length ≤ 64) :
    ((s.startForme fk).forme fk).place = .running
      ∧ ∀ j, (s.slug fk j).live = true → s.Seated (s.startForme fk) (s.forme fk).core fk j := by
  have hmem := State.memOnly_acquired q fk
  have htaken : ((s.acquired fk).core (s.forme fk).core).taken = 0 := by
    rw [Core.taken, hmem.core_slots, hslots]
    exact List.countP_eq_zero.mpr (fun _ _ => by rw [Sparse.look_nil]; exact Bool.false_ne_true)
  obtain ⟨hseat, -, -⟩ := State.seated_foldl (s.forme fk).core fk (Forme.nodup_liveSlugs hwf) (s := s.acquired fk)
    (by rw [htaken]; omega)
  obtain ⟨cl, g, heq⟩ := s.startForme_eq fk
  have hslug (j : Nat) : (s.startForme fk).slug fk j
      = ((s.forme fk).liveSlugs.foldl (fun u sl => u.seatSlug (s.forme fk).core fk sl) (s.acquired fk)).slug fk j := by
    rw [heq, State.slug_modForme_of_slugs rfl]
    rfl
  have hcore (k : Nat) : (s.startForme fk).core k
      = ((s.forme fk).liveSlugs.foldl (fun u sl => u.seatSlug (s.forme fk).core fk sl) (s.acquired fk)).core k := by
    rw [heq]
    rfl
  refine ⟨by rw [heq, State.forme_modForme]; rfl, fun j hj => ?_⟩
  obtain ⟨hregs, hpath, hlow, hslot⟩ := hseat j (Forme.mem_liveSlugs hj)
  rw [hmem.slugs] at hregs hpath
  exact ⟨by rw [hslug]; exact hregs, by rw [hslug]; exact hpath, by rw [hslug]; exact hlow, by rw [hcore, hslug]; exact hslot⟩

/-- What FORME_DISPATCH does for a forme that is a unit by itself. -/
theorem exec_formeDispatch {s : State} (hu : s.OwnUnit s.ev.forme) (hb : (s.forme s.ev.forme).place = .bound) :
    exec .formeDispatch s = .next (if (s.forme s.ev.forme).goes && s.granulesReady s.ev.forme && !s.mayNotStart s.ev.forme
      then s.startForme s.ev.forme else s) := by
  obtain ⟨hsize, hkey, -⟩ := hu
  have hfks : ((s.launch (s.forme s.ev.forme).launch).unitFormes
      ((s.launch (s.forme s.ev.forme).launch).unitFirst (s.forme s.ev.forme).fidx)).map (formeKey (s.forme s.ev.forme).launch)
      = [s.ev.forme] := by
    simp [Launch.unitFormes, Launch.unitFirst, hsize, hkey]
  have hhere : [s.ev.forme].filter (fun k => (s.forme k).place == .bound) = [s.ev.forme] := by simp [hb]
  show execFormeDispatch s = _
  unfold execFormeDispatch
  simp only [hfks, hhere]
  rw [if_neg (by simp [hb])]
  simp only [List.all_cons, List.all_nil, Bool.and_true, List.foldl_cons, List.foldl_nil]
  cases (s.forme s.ev.forme).goes && s.granulesReady s.ev.forme && !s.mayNotStart s.ev.forme <;> rfl

end Sys2Proof.Machine

namespace Sys2Proof

open Sys2Proof.Machine

/-- A forme that is a unit by itself waits, or starts. -/
theorem forme_dispatched {s : State} (hu : s.OwnUnit s.ev.forme) (hb : (s.forme s.ev.forme).place = .bound) (hcalm : s.Calm) :
    let fk := s.ev.forme
    let f := s.forme fk
    (f.goes = false ∨ s.granulesReady fk = false ∨ s.mayNotStart fk = true → exec .formeDispatch s = .next s)
      ∧ (f.goes = true → s.granulesReady fk = true → s.mayNotStart fk = false → (s.core f.core).slots = [] → f.slugs.wf = true →
          (f.slugs.filter (fun m => m.2.live)).length ≤ 64 →
          ∃ t, exec .formeDispatch s = .next t ∧ (t.forme fk).place = .running
            ∧ ∀ j, (s.slug fk j).live = true → (s.slug fk j).RegsBut (t.slug fk j) [] ∧ (t.slug fk j).a.path = (s.slug fk j).a.path
                ∧ (t.slug fk j).h < 64 ∧ (t.core f.core).slots.look (t.slug fk j).h = some (fk, j)) := by
  intro fk f
  have hexec := exec_formeDispatch hu hb
  refine ⟨fun h => ?_, fun hgo hready hfree hslots hwf hlen => ?_⟩
  · rw [hexec, if_neg (by rcases h with h | h | h <;> simp [fk, f] at h <;> simp [h])]
  · rw [if_pos (by simp [fk, f] at hgo hready hfree; simp [hgo, hready, hfree])] at hexec
    obtain ⟨hrun, hseat⟩ := State.startForme_spec hcalm.1.quiet (fk := fk) hslots hwf (by simpa [Forme.liveSlugs] using hlen)
    refine ⟨_, hexec, hrun, fun j hj => ?_⟩
    obtain ⟨hregs, hpath, hlow, hslot⟩ := hseat j hj
    exact ⟨hregs, hpath, hlow, hslot⟩

end Sys2Proof

namespace Sys2Proof.Machine

/-! ## What a leaf looks at (spec/10 R327) -/

/-- A change of a cluster's links is not seen by the search for a place. -/
theorem State.leafFinds_modCluster (s : State) (cl : Nat) {f : Cluster → Cluster} (hf : ∀ c, (f c).holder = c.holder ∧ (f c).binds = c.binds)
    (k : Nat) (m : LinkMsg) : (s.modCluster cl f).leafFinds k m = s.leafFinds k m := by
  have hcluster (c : Nat) : ((s.modCluster cl f).cluster c).holder = (s.cluster c).holder
      ∧ ((s.modCluster cl f).cluster c).binds = (s.cluster c).binds := by
    by_cases hc : c = cl
    · rw [hc, State.cluster_modCluster]
      exact hf _
    · rw [State.cluster_modCluster_ne s f hc]
      exact ⟨rfl, rfl⟩
  have hnow (p : Nat) : (s.modCluster cl f).clustersNow p = s.clustersNow p := by
    simp only [State.clustersNow, (hcluster _).1, State.modCluster_pool]
  have hopen (p : Nat) : (s.modCluster cl f).openClusters p = s.openClusters p := by
    simp only [State.openClusters, hnow]
    rfl
  have hplacing (p : Nat) (l : Launch) : (s.modCluster cl f).placing p l = s.placing p l := by
    simp only [State.placing, hopen, (hcluster _).2]
    rfl
  unfold State.leafFinds
  simp only [hopen, hplacing]
  rfl

theorem Cluster.tookDown_keeps (c : Cluster) : c.tookDown.holder = c.holder ∧ c.tookDown.binds = c.binds := by
  unfold Cluster.tookDown
  split <;> exact ⟨rfl, rfl⟩

theorem Cluster.binds_sendUp (c : Cluster) (m : LinkMsg) : (c.sendUp m).binds = c.binds := by
  unfold Cluster.sendUp
  split <;> rfl

/-! ## A forme that is bound (spec/10 R324) -/

/-- The slugs of a forme with their register granules. -/
def Forme.withRegs (f : Forme) (base alloc : Nat) : Sparse Slug :=
  f.liveSlugs.zipIdx.foldl (fun m e => m.upd e.1 (fun x => { x with vb := base + e.2 * alloc })) f.slugs

/-- The forme to be bound: a saved one, or one that starts. -/
def State.formeFor (s : State) (n : Nat) (l : Launch) (fidx : Nat) (restore : Bool) : Forme :=
  if restore then s.forme (formeKey n fidx) else l.freshForme n fidx

/-- The forme as it is bound. -/
def State.boundForme (s : State) (n : Nat) (l : Launch) (q : Placed) (x0 y0 : Nat) (reserved restore : Bool) : Forme :=
  { s.formeFor n l q.fidx restore with
    place := .bound, core := q.core, bind := (s.cluster (clusterOf q.core)).freeBind
    slugs := (s.formeFor n l q.fidx restore).withRegs q.base.1 l.alloc, goes := !reserved, restored := restore
    pidx := if l.decl 3 then q.fidx % l.ext 2 else 0
    pw := if l.decl 3 then l.pw else 1, ph := if l.decl 3 then l.ph else 1, x0 := x0, y0 := y0 }

/-- The bind record of a forme. -/
def Placed.record (q : Placed) (n : Nat) (f : Forme) (reserved : Bool) : Bind :=
  { v := true, launch := n, core := coreInCluster q.core, pf := f.pidx, vbase := q.base.1, sbase := q.base.2.1,
    abase := q.base.2.2, fidx := q.fidx, reserved := reserved }

/-- The core of a forme that is bound, with the scratchpad part it needs. -/
def State.partFor (s : State) (l : Launch) (core : Nat) : State :=
  if l.spad = 0 then s
  else s.setPart core (if (s.core core).spad.any (fun e => e.2.holder.isSome) then (s.core core).p else Nat.max 1 l.spad)

/-- The granules of a forme, taken on its core. -/
def Core.hold (c : Core) (l : Launch) (q : Placed) (fk slugs : Nat) : Core :=
  { c with
    regs := holdG c.regs fk q.base.1 (slugs * l.alloc) l.world
    spad := holdG c.spad fk q.base.2.1 l.spad l.world
    accs := holdG c.accs fk q.base.2.2 l.accNeed l.world }

/-- A bind record put in its place. -/
def Cluster.putBind (c : Cluster) (i : Nat) (b : Bind) : Cluster := { c with binds := c.binds.put i b }

theorem Cluster.look_putBind (c : Cluster) (i : Nat) (b : Bind) : (c.putBind i b).binds.look i = b := Sparse.look_put_self c.binds i b

/-- The core and the cluster of a forme that is bound. -/
def State.boundPlace (s : State) (n : Nat) (l : Launch) (q : Placed) (x0 y0 : Nat) (reserved restore : Bool) : State :=
  ((s.partFor l q.core).modCore q.core
      (fun c => c.hold l q (formeKey n q.fidx) (s.formeFor n l q.fidx restore).liveSlugs.length)).modCluster (clusterOf q.core)
    (·.putBind (s.cluster (clusterOf q.core)).freeBind (q.record n (s.boundForme n l q x0 y0 reserved restore) reserved))

/-- A forme's record put in its place. -/
def State.putForme (s : State) (fk : Nat) (f : Forme) : State := { s with formes := s.formes.put fk f }

theorem State.forme_putForme (s : State) (fk : Nat) (f : Forme) (k : Nat) : (s.putForme fk f).forme k = if k = fk then f else s.forme k :=
  Sparse.look_put s.formes fk k f

theorem State.core_putForme (s : State) (fk : Nat) (f : Forme) (k : Nat) : (s.putForme fk f).core k = s.core k := rfl

theorem State.cluster_putForme (s : State) (fk : Nat) (f : Forme) (k : Nat) : (s.putForme fk f).cluster k = s.cluster k := rfl

theorem State.launches_putForme (s : State) (fk : Nat) (f : Forme) : (s.putForme fk f).launches = s.launches := rfl

/-- The machine with a forme bound, before its wake entries follow it. -/
def State.boundAt (s : State) (n : Nat) (l : Launch) (q : Placed) (x0 y0 : Nat) (reserved restore : Bool) : State :=
  (s.boundPlace n l q x0 y0 reserved restore).putForme (formeKey n q.fidx) (s.boundForme n l q x0 y0 reserved restore)

theorem State.bindForme_eq (s : State) (n : Nat) (l : Launch) (q : Placed) (x0 y0 : Nat) (reserved restore : Bool) :
    s.bindForme n l q x0 y0 reserved restore = if restore then (s.boundAt n l q x0 y0 reserved restore).rehash
      else s.boundAt n l q x0 y0 reserved restore := rfl

/-! ### Slugs -/

/-- Giving slugs their register granules changes nothing else of them. -/
theorem Sparse.look_foldl_vb (base alloc : Nat) (l : List (Nat × Nat)) (m : Sparse Slug) (j : Nat) :
    { (l.foldl (fun m e => m.upd e.1 (fun x => { x with vb := base + e.2 * alloc })) m).look j with vb := 0 } = { m.look j with vb := 0 } := by
  induction l generalizing m with
  | nil => rfl
  | cons e r ih =>
    rw [List.foldl_cons, ih, Sparse.look_upd]
    split
    · rename_i h
      rw [h]
    · rfl

theorem Forme.look_withRegs (f : Forme) (base alloc j : Nat) :
    { (f.withRegs base alloc).look j with vb := 0 } = { f.slugs.look j with vb := 0 } := Sparse.look_foldl_vb _ _ _ _ _

theorem Forme.withRegs_quiet {f : Forme} {j : Nat} (h : (f.slugs.look j).tx = none ∧ (f.slugs.look j).wake = none) (base alloc : Nat) :
    ((f.withRegs base alloc).look j).tx = none ∧ ((f.withRegs base alloc).look j).wake = none := by
  have hlook := f.look_withRegs base alloc j
  have htx := congrArg Slug.tx hlook
  have hwake := congrArg Slug.wake hlook
  exact ⟨htx.trans h.1, hwake.trans h.2⟩

/-- The slugs of a forme as it starts. -/
theorem Launch.look_freshForme (l : Launch) (n fidx j : Nat) :
    (l.freshForme n fidx).slugs.look j = if j < l.ext 1 then l.freshSlug fidx j else default := by
  have hfold (k : Nat) : Sparse.look ((List.range k).foldl (fun (m : Sparse Slug) i => m.put i (l.freshSlug fidx i)) []) j
      = if j < k then l.freshSlug fidx j else default := by
    induction k with
    | zero => rfl
    | succ k ih =>
      rw [List.range_succ, List.foldl_append, List.foldl_cons, List.foldl_nil, Sparse.look_put, ih]
      by_cases hj : j = k
      · simp [hj]
      · rw [if_neg hj]
        exact if_congr (by omega) rfl rfl
  exact hfold _

theorem Launch.wf_freshForme (l : Launch) (n fidx : Nat) : (l.freshForme n fidx).slugs.wf = true := by
  have hfold (r : List Nat) (m : Sparse Slug) (hm : m.wf = true) :
      Sparse.wf (r.foldl (fun (m : Sparse Slug) i => m.put i (l.freshSlug fidx i)) m) = true := by
    induction r generalizing m with
    | nil => exact hm
    | cons i r ih => exact ih _ (Sparse.wf_put hm _ _)
  exact hfold _ _ rfl

theorem Launch.live_freshForme (l : Launch) (n fidx j : Nat) : ((l.freshForme n fidx).slugs.look j).live = decide (j < l.ext 1) := by
  rw [Launch.look_freshForme]
  split <;> rename_i h
  · rw [decide_eq_true h]
    rfl
  · rw [decide_eq_false h]
    rfl

/-- Every slug of a forme that starts is live. -/
theorem Launch.length_liveSlugs_freshForme (l : Launch) (n fidx : Nat) : (l.freshForme n fidx).liveSlugs.length = l.ext 1 := by
  have hwf := l.wf_freshForme n fidx
  have hmem (j : Nat) : j ∈ (l.freshForme n fidx).liveSlugs ↔ j ∈ List.range (l.ext 1) := by
    rw [List.mem_range]
    constructor
    · intro hj
      obtain ⟨e, he, rfl⟩ := List.mem_map.mp hj
      obtain ⟨hin, hlive⟩ := List.mem_filter.mp he
      rw [← Sparse.look_of_mem hwf hin, Launch.live_freshForme] at hlive
      exact of_decide_eq_true hlive
    · intro hj
      exact Forme.mem_liveSlugs (by rw [Launch.live_freshForme, decide_eq_true hj])
  have hperm := (List.perm_ext_iff_of_nodup (Forme.nodup_liveSlugs hwf) List.nodup_range).mpr hmem
  rw [hperm.length_eq, List.length_range]

/-! ### What binding a forme does to the rest of the machine -/

/-- One forme has been given a record, and of the others none reads differently. -/
structure State.Binds (s t : State) (fk : Nat) (f : Forme) : Prop where
  launches : t.launches = s.launches
  self : { t.forme fk with slugs := f.slugs } = f
  slugsSelf : ∀ j, t.slug fk j = f.slugs.look j
  formes : ∀ k, k ≠ fk → { t.forme k with slugs := (s.forme k).slugs } = s.forme k
  slugs : ∀ k j, k ≠ fk → t.slug k j = s.slug k j

theorem State.Binds.quiet {s t : State} {fk : Nat} {f : Forme} (h : s.Binds t fk f) (q : s.Quiet)
    (hf : ∀ j, (f.slugs.look j).tx = none ∧ (f.slugs.look j).wake = none) : t.Quiet := by
  intro k j
  by_cases hk : k = fk
  · rw [hk, h.slugsSelf]
    exact hf j
  · rw [h.slugs k j hk]
    exact q k j

/-- Where no slug sleeps, the wake entries of none are to be changed. -/
theorem State.rehash_quiet {s : State} (q : s.Quiet) : s.rehash.launches = s.launches
    ∧ (∀ k, { s.rehash.forme k with slugs := (s.forme k).slugs } = s.forme k) ∧ ∀ k j, s.rehash.slug k j = s.slug k j := by
  have hforme (k : Nat) : s.rehash.forme k = { s.forme k with slugs := (s.forme k).slugs.mapVals (fun _ m =>
      { m with wake := m.wake.map (fun w => { w with sig := w.beyond.foldl (fun g l => addSig g (l.key (s.keyCore l))) 0 }) }) } :=
    Sparse.look_mapVals (fun _ => rfl) _ _
  refine ⟨rfl, fun k => by rw [hforme], fun k j => ?_⟩
  rw [State.slug, hforme, Sparse.look_mapVals (fun _ => rfl)]
  show ({ s.slug k j with wake := (s.slug k j).wake.map _ } : Slug) = s.slug k j
  have hw := (q k j).2
  generalize s.slug k j = m at *
  cases m
  simp only at hw
  simp [hw]

/-- Finding the part leaves formes, slugs, and everything of a core but its L1, translation buffer and part. -/
theorem State.memOnly_partFor {s : State} (q : s.Quiet) (l : Launch) (core : Nat) :
    ∃ p, (s.modCore core (fun c => { c with p := p })).MemOnly (s.partFor l core) := by
  unfold State.partFor
  split
  · refine ⟨(s.core core).p, rfl, fun _ => rfl, fun _ _ => rfl, fun k => ?_, fun _ => rfl⟩
    by_cases hk : k = core
    · rw [hk, State.core_modCore]
    · rw [State.core_modCore_ne s _ hk]
  · exact ⟨_, State.memOnly_setPart q _ _⟩

end Sys2Proof.Machine

namespace Sys2Proof.Machine

theorem State.MemOnly.launches {s t : State} (h : s.MemOnly t) : t.launches = s.launches := by
  have k := congrArg State.launches h.device
  exact k

section Binding

variable {s : State} (n : Nat) (l : Launch) (q : Placed) (x0 y0 : Nat) (reserved restore : Bool)

/-- A forme to be bound neither sleeps nor has a transaction open. -/
theorem State.formeFor_quiet (hq : s.Quiet) (j : Nat) : ((s.formeFor n l q.fidx restore).slugs.look j).tx = none
    ∧ ((s.formeFor n l q.fidx restore).slugs.look j).wake = none := by
  cases restore with
  | true => exact hq (formeKey n q.fidx) j
  | false =>
    have hlook := l.look_freshForme n q.fidx j
    show ((l.freshForme n q.fidx).slugs.look j).tx = none ∧ ((l.freshForme n q.fidx).slugs.look j).wake = none
    rw [hlook]
    split <;> exact ⟨rfl, rfl⟩

theorem State.boundForme_quiet (hq : s.Quiet) (j : Nat) : ((s.boundForme n l q x0 y0 reserved restore).slugs.look j).tx = none
    ∧ ((s.boundForme n l q x0 y0 reserved restore).slugs.look j).wake = none :=
  Forme.withRegs_quiet (State.formeFor_quiet n l q restore hq j) _ _

theorem State.binds_boundAt (hq : s.Quiet) :
    s.Binds (s.boundAt n l q x0 y0 reserved restore) (formeKey n q.fidx) (s.boundForme n l q x0 y0 reserved restore) := by
  obtain ⟨p, hmem⟩ := State.memOnly_partFor hq l q.core
  have hforme (k : Nat) : (s.boundAt n l q x0 y0 reserved restore).forme k
      = if k = formeKey n q.fidx then s.boundForme n l q x0 y0 reserved restore else (s.partFor l q.core).forme k :=
    State.forme_putForme (s.boundPlace n l q x0 y0 reserved restore) _ _ _
  have hlaunches : (s.boundAt n l q x0 y0 reserved restore).launches = (s.partFor l q.core).launches := by
    rw [State.boundAt, State.launches_putForme, State.boundPlace, State.modCluster_launches, State.modCore_launches]
  refine ⟨hlaunches.trans hmem.launches, by rw [hforme, if_pos rfl], fun j => by rw [State.slug, hforme, if_pos rfl], fun k hk => ?_, fun k j hk => ?_⟩
  · rw [hforme, if_neg hk]
    exact hmem.formes k
  · rw [State.slug, hforme, if_neg hk]
    exact hmem.slugs k j

/-- Binding a forme gives it its record, and changes no other forme. -/
theorem State.binds_bindForme (hq : s.Quiet) :
    s.Binds (s.bindForme n l q x0 y0 reserved restore) (formeKey n q.fidx) (s.boundForme n l q x0 y0 reserved restore) := by
  have hbinds := State.binds_boundAt n l q x0 y0 reserved restore hq
  rw [State.bindForme_eq]
  cases restore with
  | false => exact hbinds
  | true =>
    obtain ⟨hlaunches, hformes, hslugs⟩ := State.rehash_quiet (hbinds.quiet hq (State.boundForme_quiet n l q x0 y0 reserved true hq))
    refine ⟨hlaunches.trans hbinds.launches, ?_, fun j => (hslugs _ j).trans (hbinds.slugsSelf j), fun k hk => ?_,
      fun k j hk => (hslugs k j).trans (hbinds.slugs k j hk)⟩
    · exact (congrArg (fun f : Forme => { f with slugs := (s.boundForme n l q x0 y0 reserved true).slugs }) (hformes _)).trans hbinds.self
    · exact (congrArg (fun f : Forme => { f with slugs := (s.forme k).slugs }) (hformes k)).trans (hbinds.formes k hk)

end Binding

/-! ## The formes of an order, bound one after another (spec/10 R323) -/

/-- What binding a forme makes of it. -/
structure State.Bound (s t : State) (n : Nat) (q : Placed) (reserved restore : Bool) : Prop where
  place : (t.forme (formeKey n q.fidx)).place = .bound
  core : (t.forme (formeKey n q.fidx)).core = q.core
  goes : (t.forme (formeKey n q.fidx)).goes = !reserved
  kept : restore = true → ∀ j, { t.slug (formeKey n q.fidx) j with vb := 0 } = { s.slug (formeKey n q.fidx) j with vb := 0 }
  fresh : restore = false → (t.forme (formeKey n q.fidx)).launch = n ∧ (t.forme (formeKey n q.fidx)).fidx = q.fidx
    ∧ ∀ j, j < (s.launch n).ext 1 → { t.slug (formeKey n q.fidx) j with vb := 0 } = (s.launch n).freshSlug q.fidx j

/-- A field of a forme's record that does not depend on its slugs. -/
theorem State.Binds.reads {s t : State} {fk : Nat} {f : Forme} (h : s.Binds t fk f) {α : Type} (field : Forme → α)
    (hfield : ∀ (g : Forme) (m : Sparse Slug), field { g with slugs := m } = field g) : field (t.forme fk) = field f := by
  rw [← hfield (t.forme fk) f.slugs, h.self]

theorem State.Binds.bound {s t : State} {n : Nat} {q : Placed} {x0 y0 : Nat} {reserved restore : Bool}
    (h : s.Binds t (formeKey n q.fidx) (s.boundForme n (s.launch n) q x0 y0 reserved restore)) : s.Bound t n q reserved restore := by
  have hslug (j : Nat) : { t.slug (formeKey n q.fidx) j with vb := 0 }
      = { (s.formeFor n (s.launch n) q.fidx restore).slugs.look j with vb := 0 } := by
    rw [h.slugsSelf]
    exact Forme.look_withRegs _ _ _ _
  refine ⟨h.reads Forme.place (fun _ _ => rfl), h.reads Forme.core (fun _ _ => rfl), h.reads Forme.goes (fun _ _ => rfl), fun hr j => ?_,
    fun hr => ⟨?_, ?_, fun j hj => ?_⟩⟩
  · rw [hslug, hr]
    rfl
  · rw [h.reads Forme.launch (fun _ _ => rfl), hr]
    rfl
  · rw [h.reads Forme.fidx (fun _ _ => rfl), hr]
    rfl
  · rw [hslug, hr]
    show ({ ((s.launch n).freshForme n q.fidx).slugs.look j with vb := 0 } : Slug) = _
    rw [Launch.look_freshForme, if_pos hj]
    rfl

/-- What a bound forme is, a machine in which it reads alike says too. -/
theorem State.Bound.of_eq {s t u : State} {n : Nat} {q : Placed} {reserved restore : Bool}
    (hf : { u.forme (formeKey n q.fidx) with slugs := (t.forme (formeKey n q.fidx)).slugs } = t.forme (formeKey n q.fidx))
    (hs : ∀ j, u.slug (formeKey n q.fidx) j = t.slug (formeKey n q.fidx) j) (h : s.Bound t n q reserved restore) :
    s.Bound u n q reserved restore := by
  have hreads {α : Type} (field : Forme → α) (hfield : ∀ (g : Forme) (m : Sparse Slug), field { g with slugs := m } = field g) :
      field (u.forme (formeKey n q.fidx)) = field (t.forme (formeKey n q.fidx)) := by
    rw [← hfield (u.forme (formeKey n q.fidx)) (t.forme (formeKey n q.fidx)).slugs, hf]
  obtain ⟨hplace, hcore, hgoes, hkept, hfresh⟩ := h
  simp only [← hs] at hkept hfresh
  refine ⟨(hreads Forme.place (fun _ _ => rfl)).trans hplace, (hreads Forme.core (fun _ _ => rfl)).trans hcore,
    (hreads Forme.goes (fun _ _ => rfl)).trans hgoes, hkept, fun hr => ?_⟩
  rw [hreads Forme.launch (fun _ _ => rfl), hreads Forme.fidx (fun _ _ => rfl)]
  exact hfresh hr

/-- The formes of an order are bound one after another. -/
def State.bindAll (s : State) (n : Nat) (qs : List Placed) (corner : Placed → Nat) (reserved restore : Bool) : State :=
  qs.foldl (fun s q => s.bindForme n (s.launch n) q (corner q % 16) (corner q / 16) reserved restore) s

/-- Every forme of an order is bound, and no other forme reads differently. -/
theorem State.bound_bindAll {s : State} (hq : s.Quiet) (n : Nat) {qs : List Placed} (hqs : (qs.map (·.fidx)).Nodup)
    (corner : Placed → Nat) (reserved restore : Bool) :
    (∀ q ∈ qs, s.Bound (s.bindAll n qs corner reserved restore) n q reserved restore)
      ∧ ∀ k, (∀ q ∈ qs, k ≠ formeKey n q.fidx) → { (s.bindAll n qs corner reserved restore).forme k with slugs := (s.forme k).slugs } = s.forme k
        ∧ ∀ j, (s.bindAll n qs corner reserved restore).slug k j = s.slug k j := by
  induction qs generalizing s with
  | nil => exact ⟨by simp, fun _ _ => ⟨rfl, fun _ => rfl⟩⟩
  | cons q r ih =>
    rw [List.map_cons, List.nodup_cons] at hqs
    obtain ⟨hnew, hr⟩ := hqs
    have hbinds := State.binds_bindForme n (s.launch n) q (corner q % 16) (corner q / 16) reserved restore hq
    have hq' := hbinds.quiet hq (State.boundForme_quiet n (s.launch n) q (corner q % 16) (corner q / 16) reserved restore hq)
    obtain ⟨hall, hout⟩ := ih hq' hr
    have hkey (e : Placed) (he : e ∈ r) : formeKey n e.fidx ≠ formeKey n q.fidx := by
      intro h
      have heq : e.fidx = q.fidx := Nat.add_left_cancel h
      exact hnew (heq ▸ List.mem_map_of_mem he)
    refine ⟨fun e he => ?_, fun k hk => ?_⟩
    · rcases List.mem_cons.mp he with rfl | he
      · obtain ⟨hformes, hslugs⟩ := hout (formeKey n e.fidx) (fun i hi => (hkey i hi).symm)
        refine State.Bound.of_eq ?_ hslugs (State.Binds.bound hbinds)
        exact hformes
      · obtain ⟨hplace, hcore, hgoes, hkept, hfresh⟩ := hall e he
        have hlaunch : (s.bindForme n (s.launch n) q (corner q % 16) (corner q / 16) reserved restore).launch n = s.launch n := by
          rw [State.launch, hbinds.launches, State.launch]
        refine ⟨hplace, hcore, hgoes, fun hr j => ?_, fun hr => ?_⟩
        · rw [← hbinds.slugs _ j (hkey e he)]
          exact hkept hr j
        · rw [hlaunch] at hfresh
          exact hfresh hr
    · obtain ⟨hformes, hslugs⟩ := hout k (fun e he => hk e (List.mem_cons_of_mem _ he))
      have hne := hk q (by simp)
      refine ⟨?_, fun j => (hslugs j).trans (hbinds.slugs k j hne)⟩
      exact (congrArg (fun f : Forme => { f with slugs := (s.forme k).slugs }) hformes).trans (hbinds.formes k hne)

end Sys2Proof.Machine

namespace Sys2Proof.Machine

/-! ## What a forme that starts has taken (spec/02 R56, spec/10 R324) -/

/-- Granules given to a forme. -/
theorem look_holdG (m : Sparse Granule) (fk base n world k : Nat) : (holdG m fk base n world).look k
    = if base ≤ k ∧ k < base + n then { holder := some fk, world := world } else m.look k := by
  unfold holdG
  induction n with
  | zero =>
    rw [if_neg (by omega)]
    rfl
  | succ n ih =>
    rw [List.range_succ, List.foldl_append, List.foldl_cons, List.foldl_nil, Sparse.look_put, ih]
    by_cases hk : k = base + n
    · rw [if_pos hk, if_pos (by omega)]
    · rw [if_neg hk]
      exact if_congr (by omega) rfl rfl

section Taken

variable (s : State) (n : Nat) (l : Launch) (q : Placed) (x0 y0 : Nat) (reserved : Bool)

theorem State.core_boundAt : (s.boundAt n l q x0 y0 reserved false).core q.core
    = ((s.partFor l q.core).core q.core).hold l q (formeKey n q.fidx) (l.ext 1) := by
  rw [State.boundAt, State.core_putForme, State.boundPlace, State.core_modCluster, State.core_modCore]
  exact congrArg _ (l.length_liveSlugs_freshForme n q.fidx)

theorem State.forme_boundAt (restore : Bool) :
    (s.boundAt n l q x0 y0 reserved restore).forme (formeKey n q.fidx) = s.boundForme n l q x0 y0 reserved restore := by
  rw [State.boundAt, State.forme_putForme, if_pos rfl]

/-- The bind record that a bound forme names. -/
theorem State.record_boundAt (restore : Bool) : ((s.boundAt n l q x0 y0 reserved restore).cluster (clusterOf q.core)).binds.look
      ((s.boundAt n l q x0 y0 reserved restore).forme (formeKey n q.fidx)).bind
    = q.record n (s.boundForme n l q x0 y0 reserved restore) reserved := by
  have hbind : ((s.boundAt n l q x0 y0 reserved restore).forme (formeKey n q.fidx)).bind = (s.cluster (clusterOf q.core)).freeBind := by
    rw [State.forme_boundAt]
    simp only [State.boundForme]
  rw [hbind, State.boundAt, State.cluster_putForme, State.boundPlace, State.cluster_modCluster, Cluster.look_putBind]

end Taken

/-- A message sent over a cluster's link leaves every bind record. -/
theorem State.binds_sendUp (s : State) (cl : Nat) (m : LinkMsg) (k : Nat) :
    ((s.modCluster cl (fun c => c.sendUp m)).cluster k).binds = (s.cluster k).binds := by
  by_cases hk : k = cl
  · rw [hk, State.cluster_modCluster, Cluster.binds_sendUp]
  · rw [State.cluster_modCluster_ne s _ hk]

/-! ## A leaf's turn (spec/10 R323) -/

theorem exec_leafBinds {s : State} {ev : Instr} {type : BitVec 8} (hflag : s.ev.flag = true) (hten : s.ev.tenant = false)
    (h : (ev, type) ∈ ([(.linkPlace, 0x01), (.linkReserve, 0x02), (.linkRestore, 0x05)] : List (Instr × BitVec 8))) :
    exec ev s = .next (s.leafBinds type) := by
  simp only [List.mem_cons, List.not_mem_nil, or_false, Prod.mk.injEq] at h
  rcases h with ⟨rfl, rfl⟩ | ⟨rfl, rfl⟩ | ⟨rfl, rfl⟩
  · show execLinkPlace s = _
    rw [execLinkPlace, if_pos hflag]
  · show execLinkReserve s = _
    rw [execLinkReserve, if_pos hflag]
  · show execLinkRestore s = _
    simp [execLinkRestore, hflag, hten]

/-- The leaf's answer. -/
def LinkMsg.answer (m : LinkMsg) (ok : Bool) : LinkMsg := { type := 0x81, launch := m.launch, formes := m.formes, ok := ok }

/-- A leaf that has consumed the order at the head of its link. -/
def State.tookOrder (s : State) : State := s.modCluster s.ev.core (·.tookDown)

section Leaf

variable {s : State} {m : LinkMsg} {r : List LinkMsg} (h : (s.cluster s.ev.core).toLeaf = m :: r)
include h

/-- A leaf without room refuses. -/
theorem State.leafBinds_none (hfinds : s.leafFinds s.ev.core m = none) :
    s.leafBinds m.type = s.tookOrder.modCluster s.ev.core (fun c => c.sendUp (m.answer false)) := by
  have hfinds' : (s.modCluster s.ev.core (·.tookDown)).leafFinds s.ev.core m = none :=
    (s.leafFinds_modCluster s.ev.core Cluster.tookDown_keeps _ _).trans hfinds
  simp only [State.leafBinds, State.downHead, h, if_true, hfinds']
  rfl

/-- A leaf with room binds every forme of its order. -/
theorem State.leafBinds_some {x : Placing} (hfinds : s.leafFinds s.ev.core m = some x) : ∃ corner, s.leafBinds m.type
    = (s.tookOrder.bindAll m.launch x.done corner (!m.cores.isEmpty) (m.type == 0x05)).modCluster s.ev.core
        (fun c => c.sendUp (m.answer true)) := by
  have hfinds' : (s.modCluster s.ev.core (·.tookDown)).leafFinds s.ev.core m = some x :=
    (s.leafFinds_modCluster s.ev.core Cluster.tookDown_keeps _ _).trans hfinds
  refine ⟨fun q => (((m.formes.zip m.cores).find? (fun e => e.1.2 == q.fidx)).map (·.2.2)).getD q.core, ?_⟩
  simp only [State.leafBinds, State.downHead, h, if_true, hfinds']
  rfl

end Leaf

end Sys2Proof.Machine

namespace Sys2Proof

open Sys2Proof.Machine

/-- A leaf binds every forme of its order, or none, and answers. -/
theorem order_obeyed {s : State} {m : LinkMsg} {r : List LinkMsg} {ev : Instr} (hflag : s.ev.flag = true) (hten : s.ev.tenant = false)
    (hhead : (s.cluster s.ev.core).toLeaf = m :: r)
    (hev : (ev, m.type) ∈ ([(.linkPlace, 0x01), (.linkReserve, 0x02), (.linkRestore, 0x05)] : List (Instr × BitVec 8))) :
    let cl := s.ev.core
    let l := s.launch m.launch
    let n := m.launch
    let back := m.type == 0x05
    let answer (ok : Bool) : LinkMsg := { type := 0x81, launch := n, formes := m.formes, ok := ok }
    (s.leafFinds cl m = none → ∃ t, exec ev s = .next t ∧ t.formes = s.formes ∧ (t.cluster cl).onWay false (answer false))
      ∧ (∀ x, s.leafFinds cl m = some x → s.Calm → (x.done.map (·.fidx)).Nodup → (∀ q ∈ x.done, q.fidx < 2 ^ 48) →
        ∃ t, exec ev s = .next t ∧ (t.cluster cl).onWay false (answer true)
          ∧ (∀ q ∈ x.done, let fk := formeKey n q.fidx
              (t.forme fk).place = .bound ∧ (t.forme fk).core = q.core ∧ ((t.forme fk).goes = true ↔ m.cores = [])
              ∧ (back = true → ∀ j, { t.slug fk j with vb := 0 } = { s.slug fk j with vb := 0 })
              ∧ (back = false → (t.forme fk).launch = n ∧ (t.forme fk).fidx = q.fidx
                  ∧ ∀ j, j < l.ext 1 → { t.slug fk j with vb := 0 } = l.freshSlug q.fidx j))
          ∧ (∀ q, x.done = [q] → back = false →
              let fk := formeKey n q.fidx
              let k := t.core q.core
              let b := (t.cluster (clusterOf q.core)).binds.look (t.forme fk).bind
              b.v = true ∧ b.launch = n ∧ b.fidx = q.fidx ∧ b.core = coreInCluster q.core ∧ (b.reserved = true ↔ m.cores ≠ [])
              ∧ (∀ i, i < l.ext 1 * l.alloc → (k.regs.look (q.base.1 + i)).holder = some fk ∧ (k.regs.look (q.base.1 + i)).world = l.world)
              ∧ (∀ i, i < l.spad → (k.spad.look (q.base.2.1 + i)).holder = some fk)
              ∧ (∀ i, i < l.accNeed → (k.accs.look (q.base.2.2 + i)).holder = some fk))) := by
  intro cl l n back answer
  have hexec := exec_leafBinds hflag hten hev
  refine ⟨fun hfinds => ?_, fun x hfinds hcalm hnodup _ => ?_⟩
  · rw [State.leafBinds_none hhead hfinds] at hexec
    refine ⟨_, hexec, rfl, ?_⟩
    rw [State.cluster_modCluster]
    exact Cluster.onWay_sendUp _ _
  · obtain ⟨corner, hbinds⟩ := State.leafBinds_some hhead hfinds
    have hq : s.tookOrder.Quiet := hcalm.1.quiet
    obtain ⟨hall, -⟩ := State.bound_bindAll hq n hnodup corner (!m.cores.isEmpty) back
    rw [hbinds] at hexec
    refine ⟨_, hexec, ?_, fun q hmem => ?_, fun q hone hback => ?_⟩
    · rw [State.cluster_modCluster]
      exact Cluster.onWay_sendUp _ _
    · obtain ⟨hplace, hcore, hgoes, hkept, hfresh⟩ := hall q hmem
      refine ⟨hplace, hcore, ?_, hkept, hfresh⟩
      rw [State.forme_modCluster, hgoes]
      simp
    · obtain ⟨u, hu⟩ : ∃ u, u = s.tookOrder.boundAt n l q (corner q % 16) (corner q / 16) (!m.cores.isEmpty) false := ⟨_, rfl⟩
      have hbound : s.tookOrder.bindAll n x.done corner (!m.cores.isEmpty) back = u := by
        rw [hone, hback, hu]
        rfl
      have hrecord := s.tookOrder.record_boundAt n l q (corner q % 16) (corner q / 16) (!m.cores.isEmpty) false
      have hcore := s.tookOrder.core_boundAt n l q (corner q % 16) (corner q / 16) (!m.cores.isEmpty)
      rw [← hu] at hrecord hcore
      have hbinds : (((u.modCluster cl (fun c => c.sendUp (m.answer true))).cluster (clusterOf q.core)).binds)
          = (u.cluster (clusterOf q.core)).binds := State.binds_sendUp _ _ _ _
      intro fk k b
      have hb : b = q.record n (s.tookOrder.boundForme n l q (corner q % 16) (corner q / 16) (!m.cores.isEmpty) false) (!m.cores.isEmpty) := by
        simp only [b]
        rw [hbound, hbinds, State.forme_modCluster]
        exact hrecord
      have hk : k = ((s.tookOrder.partFor l q.core).core q.core).hold l q fk (l.ext 1) := by
        simp only [k]
        rw [hbound, State.core_modCluster]
        exact hcore
      rw [hb, hk]
      refine ⟨rfl, rfl, rfl, rfl, by simp [Placed.record], fun i hi => ?_, fun i hi => ?_, fun i hi => ?_⟩
      · simp only [Core.hold, look_holdG]
        rw [if_pos (by omega)]
        exact ⟨rfl, rfl⟩
      · simp only [Core.hold, look_holdG]
        rw [if_pos (by omega)]
      · simp only [Core.hold, look_holdG]
        rw [if_pos (by omega)]

end Sys2Proof

namespace Sys2Proof

open Sys2Proof.Machine

/-- Settles O48: the search for a place, the scheduler's orders, the leaves' answers, the start of a forme, and the sweep of cleared
granules, each from the lemma about its event. -/
theorem formesArePlacedAndStart : Obligations.FormesArePlacedAndStart := by
  refine ⟨fun x y cs n i hcs h => forme_placed hcs h, fun x y cs one pw ph first need h => pitch_placed h, ?_, ?_, ?_, ?_, ?_⟩
  · intro s n first back x p l ev type new hflag hhead
    exact head_ordered x hflag hhead
  · intro s m r ev cl l n back hflag hten hhead hev
    exact order_obeyed hflag hten hhead hev
  · intro s m r cl
    refine ⟨fun h ht => go_obeyed h ht, fun h ht => ended_linkDone h ht, ?_⟩
    intro o p n h ht ho hn bad
    exact ⟨fun hw => bound_awaited h ht ho hn hw, fun hw hbad => bound_refused h ht ho hn hw hbad,
      fun hw hgood => bound_stands h ht ho hn hw hgood⟩
  · intro s fk f hu hb hcalm
    exact forme_dispatched hu hb hcalm
  · intro s k free hcalm hwf
    exact granules_cleared hcalm hwf

end Sys2Proof

namespace Sys2Proof.Machine

/-! ## Words that write one register of their slug -/

theorem scalarWord_eq {s : State} {h : Hdr} {c : Ctx} (hc : s.ctx h = some c) (f : Ctx → State) :
    scalarWord h s f = if c.act = 0 then .next (s.retire c) else .next (f c) := by
  simp only [scalarWord, hc]

theorem vectorWord_eq {s : State} {h : Hdr} {c : Ctx} (hc : s.ctx h = some c) (f : Ctx → State) :
    vectorWord h s f = .next (f c) := by
  simp only [vectorWord, hc]

/-- A value that no pin blocks is written (spec/15 R417). -/
theorem State.finishG_of_unpinned {s : State} {c : Ctx} {n : Nat} {x : Word} (h : s.pinBlocks c n x = false) :
    s.finishG c n x = (s.modCur (·.writeG n x)).retire c := by
  rw [State.finishG, if_neg (by simp [h])]

/-- A word that answers with a scalar result writes its destination and nothing else. -/
theorem State.givesG_of_exec {s : State} {h : Hdr} {c : Ctx} (hc : s.ctx h = some c) {i : Instr} {n : BitVec 6} {y : Word}
    (hpin : s.pinBlocks c n.toNat y = false) (he : exec i s = .next (s.finishG c n.toNat y)) : s.GivesG c i n y := by
  obtain ⟨hdone, hslug⟩ := State.done_of hc (·.writeG n.toNat y) c.nextPc [.g n.toNat] (Slug.regsBut_writeG _ _ _)
    (Slug.restAs_writeG _ _ _ _) (Slug.slot_writeG _ _ _ _)
  refine ⟨_, he.trans (congrArg _ (State.finishG_of_unpinned hpin)), hdone, ?_⟩
  have hn : n.toNat = 0 ↔ n = 0 := by rw [← BitVec.toNat_inj]; rfl
  rw [State.retire, hslug, Ctx.finish_readG, Slug.readG_writeG]
  by_cases h0 : n = 0
  · simp [h0]
  · rw [if_pos ⟨rfl, mt hn.mp h0⟩, if_neg h0]

/-- A word that answers with a vector result writes the active lanes of its destination and nothing else. -/
theorem State.givesV_of_exec {s : State} {h : Hdr} {c : Ctx} (hc : s.ctx h = some c) {i : Instr} {n : BitVec 7} {f : Fin 32 → Lane}
    (he : exec i s = .next (s.finishV c n.toNat f)) : s.GivesV c i n f := by
  obtain ⟨hdone, hslug⟩ := State.done_of hc (·.writeV n.toNat c.act f) c.nextPc [.v n.toNat] (Slug.regsBut_writeV _ _ _ _)
    (Slug.restAs_writeV _ _ _ _ _) (Slug.slot_writeV _ _ _ _ _)
  refine ⟨_, he, hdone, fun k => ?_⟩
  rw [State.finishV, State.retire, hslug, Ctx.finish_readV, Slug.readV_writeV, if_pos rfl]
  simp

/-! ## Special registers (spec/02 R58 to R66) -/

/-- R63: V, PK and the address of a path, in bits 63, 62 and 53:0. -/
theorem Slot.pcReg_eq (x : Slot) : x.pcReg = match x.path with
    | some p => BitVec.ofNat 64 (2 ^ 63 + (if p.pk then 2 ^ 62 else 0) + p.pc.toNat / 8 * 8)
    | none => 0 := by
  unfold Slot.pcReg
  cases x.path with
  | none => rfl
  | some p =>
    have hpk : (BitVec.ofBool p.pk).toNat * 2 ^ 62 = if p.pk then 2 ^ 62 else 0 := by cases p.pk <;> rfl
    have hpc := p.pc.isLt
    refine BitVec.eq_of_toNat_eq ?_
    simp only [toNat_append_eq_add, BitVec.extractLsb'_toNat, BitVec.toNat_ofNat, Nat.shiftRight_eq_div_pow]
    omega

/-- R64: the fields of `%scw`. -/
theorem Slug.scw_eq {m : Slug} (hstack : m.stack.length ≤ 64) (halloc : m.alloc < 32) :
    m.scw = BitVec.ofNat 64 ((if m.strict then 2 ^ 31 else 0) + (if m.owner then 2 ^ 30 else 0) + (if m.hnd.isSome then 2 ^ 29 else 0)
      + m.stack.length * 2 ^ 16 + m.alloc * 2 ^ 8) := by
  have hbit (b : Bool) (n : Nat) : (if b then 2 ^ n else 0) = (BitVec.ofBool b).toNat * 2 ^ n := by cases b <;> simp
  refine BitVec.eq_of_toNat_eq ?_
  simp only [Slug.scw, toNat_append_eq_add, BitVec.toNat_ofNat, hbit, Nat.add_mul]
  omega

/-- R65: the fields of `%txst`. -/
theorem Slug.txst_eq {m : Slug} (hdepth : m.depth < 8) :
    m.txst = BitVec.ofNat 64 (m.abtcode.toNat * 2 ^ 16 + m.cause.toNat * 2 ^ 8 + m.depth) := by
  have habt := m.abtcode.isLt
  have hcause := m.cause.isLt
  refine BitVec.eq_of_toNat_eq ?_
  simp only [Slug.txst, toNat_append_eq_add, BitVec.toNat_ofNat]
  omega

/-- R62: the fields of `%pitch`. -/
theorem Forme.pitchReg_eq {f : Forme} (hx : f.x0 < 16) (hy : f.y0 < 16) (hw : f.pw < 16) (hh : f.ph < 16) :
    f.pitchReg = BitVec.ofNat 64 (f.x0 * 2 ^ 12 + f.y0 * 2 ^ 8 + f.pw * 2 ^ 4 + f.ph) := by
  refine BitVec.eq_of_toNat_eq ?_
  simp only [Forme.pitchReg, toNat_append_eq_add, BitVec.toNat_ofNat]
  omega

/-- R58, R24: the coordinates of the levels 2 to 7 stand in `%c2` to `%c7`. -/
theorem State.sreg_coord (s : State) (c : Ctx) {k : Nat} (hlo : 2 ≤ k) (hhi : k < 8) :
    s.sreg c (8 + k) = BitVec.ofNat 64 ((s.launchOf c).coord c.f.fidx k) := by
  have hk : 8 + k - 8 = k := by omega
  simp (disch := omega) only [State.sreg, if_neg, if_pos, hk]

theorem State.sreg_zbase (s : State) (c : Ctx) {k : Nat} (hk : k < 16) :
    s.sreg c (0x20 + k) = BitVec.ofNat 64 ((s.launchOf c).zbase k) := by
  simp (disch := omega) only [State.sreg, if_neg, if_pos, Nat.add_sub_cancel_left]

theorem State.sreg_zlen (s : State) (c : Ctx) {k : Nat} (hk : k < 16) :
    s.sreg c (0x30 + k) = BitVec.ofNat 64 ((s.launchOf c).zlen k) := by
  simp (disch := omega) only [State.sreg, if_neg, if_pos, Nat.add_sub_cancel_left]

/-- R58, R61: `%priv` from the launch's base and the size of a slug's share. -/
theorem State.privOf_eq {s : State} {h : Hdr} {c : Ctx} (hc : s.ctx h = some c) :
    s.privOf c = (s.launchOf c).priv + (c.f.fidx * (s.launchOf c).ext 1 + c.iss.sl) * 2 ^ (s.launchOf c).psz := by
  simp only [State.privOf, State.privBase, State.ctx_forme hc, State.launchOf]

/-- `MOVS` of a register that is not a lane register. -/
theorem State.givesG_movs {s : State} {w : Ops} {c : Ctx} (hc : s.ctx w.h = some c) (m : SysMod) {n : BitVec 6} {y : Word} (hd : w.d = .g n)
    (hact : c.act ≠ 0) (hy : s.sreg c m.n.toNat = y) (hpin : s.pinBlocks c n.toNat y = false) : s.GivesG c (.movs w m) n y := by
  refine State.givesG_of_exec hc hpin ?_
  show execMovs w m s = _
  simp only [execMovs, hd, scalarWord_eq hc, if_neg hact, hy, Opnd.num]

/-- `MOVS` of a lane register. -/
theorem State.givesV_movs {s : State} {w : Ops} {c : Ctx} (hc : s.ctx w.h = some c) (m : SysMod) {n : BitVec 7} (hd : w.d = .v n) :
    s.GivesV c (.movs w m) n (fun i => c.laneSreg m.n.toNat i.val) := by
  refine State.givesV_of_exec hc ?_
  show execMovs w m s = _
  simp only [execMovs, hd, vectorWord_eq hc]
  rfl

/-- `QFEAT` (spec/18 R460). -/
theorem State.givesG_qfeat {s : State} {w : Ops} {c : Ctx} (hc : s.ctx w.h = some c) (m : SysMod) {n : BitVec 6} {y : Word} (hd : w.d = .g n)
    (hact : c.act ≠ 0)
    (hy : s.feature (s.partOf c) (if m.n.getLsbD 6 then (c.m.srcG w 0 w.a).toNat else m.n.toNat % 64) = y)
    (hpin : s.pinBlocks c n.toNat y = false) : s.GivesG c (.qfeat w m) n y := by
  have hleaf : (m.n.extractLsb' 0 6).toNat = m.n.toNat % 64 := by simp
  refine State.givesG_of_exec hc hpin ?_
  show execQfeat w m s = _
  simp only [execQfeat, hd, scalarWord_eq hc, if_neg hact, hleaf, hy, Opnd.num]

end Sys2Proof.Machine

namespace Sys2Proof

open Sys2Proof.Machine

theorem systemReads : Claim.SystemReads := by
  intro w m s c hc reads num l pcReg vlid
  have hreads {k : Nat} {y : Word} (h : s.sreg c k = y) : reads k y :=
    fun n hd hact hk hpin => State.givesG_movs hc m hd hact (by rw [hk, h]) hpin
  refine ⟨fun n hd => ?_, hreads rfl, hreads rfl, hreads rfl, hreads rfl, fun hx hy hw hh => hreads (Forme.pitchReg_eq hx hy hw hh),
    fun k hlo hhi => hreads (State.sreg_coord s c hlo hhi), hreads rfl, hreads rfl, fun hdepth => hreads (Slug.txst_eq hdepth),
    hreads (Slot.pcReg_eq _), hreads (Slot.pcReg_eq _), hreads rfl, hreads rfl, fun hstack halloc => hreads (Slug.scw_eq hstack halloc),
    hreads rfl, hreads rfl, hreads (congrArg num (State.privOf_eq hc)), hreads rfl, hreads rfl,
    fun k hk => ⟨hreads (State.sreg_zbase s c hk), hreads (State.sreg_zlen s c hk)⟩, ?_⟩
  · have hlane := State.givesV_movs hc m hd
    refine ⟨fun hn => ?_, fun hn => ?_, fun hn => ?_, fun hn => ?_⟩ <;>
    · rw [hn] at hlane
      exact hlane
  · intro n y hd hact leaf hy hpin
    exact State.givesG_qfeat hc m hd hact hy.symm hpin

end Sys2Proof

namespace Sys2Proof.Machine

/-! ## Registers written one after the other -/

theorem Slug.RegsBut.append {m u v : Slug} {ws vs : List Loc} (h : m.RegsBut u ws) (k : u.RegsBut v vs) : m.RegsBut v (ws ++ vs) where
  g n hn := (k.g n fun hv => hn (List.mem_append_right _ hv)).trans (h.g n fun hw => hn (List.mem_append_left _ hw))
  p n hn := (k.p n fun hv => hn (List.mem_append_right _ hv)).trans (h.p n fun hw => hn (List.mem_append_left _ hw))
  v n hn := (k.v n fun hv => hn (List.mem_append_right _ hv)).trans (h.v n fun hw => hn (List.mem_append_left _ hw))
  xa n hn := (k.xa n fun hv => hn (List.mem_append_right _ hv)).trans (h.xa n fun hw => hn (List.mem_append_left _ hw))
  srg hn := (k.srg fun hv => hn (List.mem_append_right _ hv)).trans (h.srg fun hw => hn (List.mem_append_left _ hw))

theorem Slug.RegsBut.mono {m u : Slug} {ws vs : List Loc} (h : m.RegsBut u ws) (hsub : ws ⊆ vs) : m.RegsBut u vs where
  g n hn := h.g n (mt (@hsub _) hn)
  p n hn := h.p n (mt (@hsub _) hn)
  v n hn := h.v n (mt (@hsub _) hn)
  xa n hn := h.xa n (mt (@hsub _) hn)
  srg hn := h.srg (mt (@hsub _) hn)

theorem Slug.RegsBut.sameAt {m u : Slug} {ws : List Loc} (h : m.RegsBut u ws) {r : Loc} (hr : r ∉ ws) : m.SameAt u r := by
  cases r with
  | g n => exact h.g n hr
  | p n => exact h.p n hr
  | v n => exact h.v n hr
  | xa n => exact h.xa n hr
  | srg => exact h.srg hr

theorem Slug.SameAt.trans {m u v : Slug} {r : Loc} (h : m.SameAt u r) (k : u.SameAt v r) : m.SameAt v r := by
  cases r <;> exact Eq.trans k h

theorem Slug.SameAt.symm {m u : Slug} {r : Loc} (h : m.SameAt u r) : u.SameAt m r := by
  cases r <;> exact Eq.symm h

theorem Slug.RestAs.trans {m u v : Slug} {b : Bool} (h : m.RestAs u b) (k : u.RestAs v b) : m.RestAs v b where
  rest := by
    have := congrArg (fun x : Slug => { x with g := m.g, p := m.p, v := m.v, xa := m.xa, srg := m.srg, a := m.a, b := m.b }) k.rest
    exact this.trans h.rest
  slot := k.slot.trans h.slot

/-- Completing a word changes no register. -/
theorem Ctx.regsBut_finish (c : Ctx) (now : Nat) (pc : Addr) (m : Slug) : m.RegsBut (c.finish now pc m) [] where
  g n _ := Ctx.finish_readG c now pc m n
  p n _ := Ctx.finish_readP c now pc m n
  v n _ := Ctx.finish_readV c now pc m n
  xa n _ := Ctx.finish_readX c now pc m n
  srg _ := by simp [Ctx.finish]

/-- The registers of a slug that has been changed and has completed its word. -/
theorem State.regsBut_modCur_retire {s : State} {h : Hdr} {c : Ctx} (hc : s.ctx h = some c) (f : Slug → Slug) :
    (f c.m).RegsBut (c.slugIn ((s.modCur f).retire c)) [] := by
  rw [State.retire, State.modCur_retireTo (State.ctx_cur hc), Ctx.slugIn, State.slug_modSlug, State.ctx_slug hc]
  exact Ctx.regsBut_finish _ _ _ _

/-- A word that only completes changes no register. -/
theorem State.regsBut_retire {s : State} {h : Hdr} {c : Ctx} (hc : s.ctx h = some c) : c.m.RegsBut (c.slugIn (s.retire c)) [] := by
  rw [State.retire, State.retireTo_eq (State.ctx_cur hc), Ctx.slugIn, State.slug_modSlug, State.ctx_slug hc]
  exact Ctx.regsBut_finish _ _ _ _

/-! ## What a half writes (spec/03 R82, R83) -/

/-- The register that a half's result goes to. -/
def HalfOut.locs (o : HalfOut) : List Loc :=
  match o with
  | .none => []
  | .g n _ => [.g n]
  | .p n _ _ => [.p n]
  | .v n _ => [.v n]

theorem Slug.regsBut_writeHalf (m : Slug) (act : Mask) (o : HalfOut) : m.RegsBut (m.writeHalf act o) o.locs := by
  cases o with
  | none => exact Slug.regsBut_refl m _
  | g n x => exact Slug.regsBut_writeG m n x
  | p n a x => exact Slug.regsBut_writeP m n a x
  | v n f => exact Slug.regsBut_writeV m n act f

theorem Slug.restAs_writeHalf (m : Slug) (act : Mask) (o : HalfOut) (b : Bool) : m.RestAs (m.writeHalf act o) b := by
  cases o with
  | none => exact Slug.restAs_refl m b
  | g n x => exact Slug.restAs_writeG m n x b
  | p n a x => exact Slug.restAs_writeP m n a x b
  | v n f => exact Slug.restAs_writeV m n act f b

@[simp] theorem Slug.slot_writeHalf (m : Slug) (act : Mask) (o : HalfOut) (b : Bool) : (m.writeHalf act o).slot b = m.slot b := by
  cases o with
  | none => rfl
  | g n x => exact Slug.slot_writeG m n x b
  | p n a x => exact Slug.slot_writeP m n a x b
  | v n f => exact Slug.slot_writeV m n act f b

/-- What a register holds after a half's result depends on nothing but what it held. -/
theorem Slug.SameAt.writeHalf {m u : Slug} {r : Loc} (h : m.SameAt u r) (act : Mask) (o : HalfOut) :
    (m.writeHalf act o).SameAt (u.writeHalf act o) r := by
  by_cases hr : r ∈ o.locs
  · cases o with
    | none => exact h
    | g n x =>
      obtain rfl := List.mem_singleton.mp hr
      simp only [Slug.SameAt, Slug.writeHalf, Slug.readG_writeG] at h ⊢
      rw [h]
    | p n a x =>
      obtain rfl := List.mem_singleton.mp hr
      simp only [Slug.SameAt, Slug.writeHalf, Slug.readP_writeP] at h ⊢
      rw [h]
    | v n f =>
      obtain rfl := List.mem_singleton.mp hr
      simp only [Slug.SameAt, Slug.writeHalf, Slug.readV_writeV] at h ⊢
      rw [h]
  · have hm := (Slug.regsBut_writeHalf m act o).sameAt hr
    have hu := (Slug.regsBut_writeHalf u act o).sameAt hr
    exact hm.symm.trans (h.trans hu)

/-! ## The full form of a half (spec/03 R83, R85) -/

/-- The word `i` completes, and leaves the registers as a half's result would. -/
def State.DoesHalf (s : State) (c : Ctx) (o : HalfOut) (i : Instr) : Prop :=
  ∃ t, exec i s = .next t ∧ (c.m.writeHalf c.act o).RegsBut (c.slugIn t) []

theorem State.doesHalf_of_modCur {s : State} {h : Hdr} {c : Ctx} (hc : s.ctx h = some c) {o : HalfOut} {i : Instr} {f : Slug → Slug}
    (he : exec i s = .next ((s.modCur f).retire c)) (hf : f c.m = c.m.writeHalf c.act o) : s.DoesHalf c o i :=
  ⟨_, he, hf ▸ State.regsBut_modCur_retire hc f⟩

theorem State.doesHalf_of_exec {s : State} {h : Hdr} {c : Ctx} (hc : s.ctx h = some c) {o : HalfOut} {i : Instr}
    (he : exec i s = .next ((s.modCur (·.writeHalf c.act o)).retire c)) : s.DoesHalf c o i :=
  State.doesHalf_of_modCur hc he rfl

/-- No pin blocks a slug with one path, a handler, or a launch that pins nothing (spec/15 R417). -/
theorem State.pinBlocks_of_free {s : State} {c : Ctx} (h : c.m.paths ≤ 1 ∨ c.m.hnd ≠ none ∨ (s.launchOf c).pinG = 0) (n : Nat) (x : Word) :
    s.pinBlocks c n x = false := by
  unfold State.pinBlocks
  rcases h with h | h | h
  · simp [Nat.not_lt.mpr h]
  · simp [Option.isSome_iff_ne_none.mpr h]
  · simp [h]

/-- A scalar result that no pin blocks. -/
theorem State.finishS_of_unpinned {s : State} {c : Ctx} (hpin : ∀ n x, s.pinBlocks c n x = false) (d : Opnd) (x : Word) :
    s.finishS c d x = (s.modCur (·.writeHalf c.act (scalarOut d x))).retire c := by
  cases d with
  | p n => rfl
  | _ => exact State.finishG_of_unpinned (hpin _ _)

theorem exec_sopInstr (o : SOp) (w : Ops) (m : AluMod) (s : State) : exec (o.instr w m) s = scalarInt o w m s := by
  cases o <;> rfl

theorem exec_viopInstr {o : VIOp} (ho : o ≠ .cmp) (w : Ops) (m : AluMod) (s : State) : exec (o.instr w m) s = vectorInt o w m s := by
  cases o with
  | cmp => exact absurd rfl ho
  | _ => rfl

theorem exec_vfopInstr {o : VFOp} (ho : o ≠ .cmp) (w : Ops) (m : AluMod) (s : State) : exec (o.instr w m) s = vectorFloat o w m s := by
  cases o with
  | cmp => exact absurd rfl ho
  | _ => rfl

theorem exec_sfopInstr (o : SFOp) (w : Ops) (m : AluMod) (s : State) : exec (o.instr w m) s = specialFn o w m s := by
  cases o <;> rfl

/-- Only `VSEL` reads the predicate. -/
theorem viVal_pred {o : VIOp} (ho : o ≠ .sel) (t : Ty) (imm : BitVec 14) (q q' : Bool) (d a b : Lane) :
    viVal o t imm q d a b = viVal o t imm q' d a b := by
  cases o with
  | sel => exact absurd rfl ho
  | _ => rfl

theorem vfVal_pred {o : VFOp} (ho : o ≠ .sel) (t : Ty) (rm : RM) (q q' : Bool) (d a b : Lane) :
    vfVal o t rm q d a b = vfVal o t rm q' d a b := by
  cases o with
  | sel => exact absurd rfl ho
  | _ => rfl

/-! ### Conversions without stochastic rounding -/

/-- Without stochastic rounding a conversion neither reads nor changes the generator (spec/04 R120). -/
theorem convert_of_not_sr {df : CTy} {rm : RM} (hrm : rm ≠ .sr) (sat : Bool) (g : Word) (x : CVal) :
    convert df rm sat g x = ((convert df rm sat 0 x).1, g) := by
  cases hf : df.isFloat <;> simp [convert, hf, hrm]

theorem cvtLane_of_not_sr {rm : RM} (hrm : rm ≠ .sr) (df sf : CTy) (sat : Bool) (dpos spos : Nat) (g : Word) (x : CVal ⊕ Nat) (old : Nat) :
    cvtLane df sf rm sat dpos spos g x old = ((cvtLane df sf rm sat dpos spos 0 x old).1, g) := by
  simp only [cvtLane, convert_of_not_sr hrm sat g]

/-- The active lanes with their values. -/
def activeVals (act : Mask) (y : Fin 32 → Nat) : List (Nat × Nat) :=
  ((List.finRange 32).filter (fun i => act.getLsbD i.val)).map (fun i => (i.val, y i))

/-- Lane by lane, a function that leaves the generator alone. -/
theorem foldLanes_of_pure (act : Mask) {g : Word} {f : Fin 32 → Word → Nat × Word} {y : Fin 32 → Nat} (h : ∀ i, f i g = (y i, g)) :
    foldLanes act g f = (activeVals act y, g) := by
  have key : ∀ (l : List (Fin 32)) (r : List (Nat × Nat)),
      l.foldl (fun r i => if act.getLsbD i.val then (r.1 ++ [(i.val, (f i r.2).1)], (f i r.2).2) else r) (r, g)
      = (r ++ (l.filter (fun i => act.getLsbD i.val)).map (fun i => (i.val, y i)), g) := by
    intro l
    induction l with
    | nil => simp
    | cons i l ih =>
      intro r
      rw [List.foldl_cons, List.filter_cons]
      by_cases hi : act.getLsbD i.val = true
      · rw [if_pos hi, if_pos hi, h, ih, List.map_cons, List.append_assoc]
        rfl
      · rw [if_neg hi, if_neg hi, ih]
  exact key _ []

theorem laneOf_map {y : Fin 32 → Nat} {i : Fin 32} {l : List (Fin 32)} (hi : i ∈ l) : laneOf (l.map (fun i => (i.val, y i))) i = y i := by
  induction l with
  | nil => cases hi
  | cons j l ih =>
    by_cases hj : j = i
    · simp [laneOf, hj]
    · have hval : (j.val == i.val) = false := by simpa [Fin.ext_iff] using hj
      have := ih ((List.mem_cons.mp hi).resolve_left (Ne.symm hj))
      simpa [laneOf, hval] using this

theorem laneOf_activeVals {act : Mask} (y : Fin 32 → Nat) {i : Fin 32} (hi : act.getLsbD i.val = true) :
    laneOf (activeVals act y) i = y i :=
  laneOf_map (List.mem_filter.mpr ⟨List.mem_finRange i, hi⟩)

/-- Of the lanes written, the active ones alone count. -/
theorem Slug.writeV_congr {m : Slug} {n : Nat} {act : Mask} {f g : Fin 32 → Lane} (h : ∀ i, act.getLsbD i.val = true → f i = g i) :
    m.writeV n act f = m.writeV n act g := by
  unfold Slug.writeV
  congr 3
  funext i
  by_cases hi : act.getLsbD i.val = true
  · simp only [hi, h i hi]
  · simp only [if_neg hi]

/-- A slug whose destination lanes, of one register or a pair, hold the results of a conversion that leaves the generator at `g`. -/
def Slug.converted (m : Slug) (n : Nat) (wide : Bool) (act : Mask) (y : Fin 32 → Nat) (g : Word) : Slug :=
  { m.writeWide n wide act (activeVals act y) with srg := g }

theorem Slug.converted_narrow (m : Slug) (n : Nat) (act : Mask) (y : Fin 32 → Nat) :
    m.converted n false act y m.srg = m.writeV n act (fun i => BitVec.ofNat 32 (y i)) := by
  have hlanes : m.writeWide n false act (activeVals act y) = m.writeV n act (fun i => BitVec.ofNat 32 (y i)) :=
    Slug.writeV_congr (fun i hi => by rw [laneOf_activeVals y hi])
  have hsrg := Slug.writeV_srg m n act (fun i => BitVec.ofNat 32 (y i))
  rw [Slug.converted, hlanes, ← hsrg]

/-- `CVT` without stochastic rounding (spec/04 R126). -/
theorem exec_cvt_of_not_sr {s : State} {w : Ops} {c : Ctx} (hc : s.ctx w.h = some c) {m : CnvMod} {df sf : CTy}
    (hdf : CTy.ofCode m.df = some df) (hsf : CTy.ofCode m.sf = some sf) (hrm : m.rm ≠ .sr) :
    exec (.cvt w m) s = .next ((s.modCur (fun u => u.converted w.d.num (df.width == 64) c.act (fun i =>
      (cvtLane df sf m.rm m.sat (m.pos.extractLsb' 4 2).toNat (m.pos.extractLsb' 2 2).toNat 0 (c.m.srcC w sf w.a i)
        (c.m.readV w.d.num)[i].toNat).1) c.m.srg)).retire c) := by
  show execCvt w m s = _
  rw [execCvt, vectorWord_eq hc]
  simp only [hdf, hsf]
  rw [foldLanes_of_pure c.act (fun i => cvtLane_of_not_sr hrm _ _ _ _ _ c.m.srg _ _)]
  rfl

/-- The conversions of R132 round to nearest or to zero, into a register that is no pair. -/
theorem halfConv_narrow : ∀ k : BitVec 4, ((halfConv k).1.width == 64) = false ∧ (halfConv k).2.2.1 ≠ .sr := by decide

end Sys2Proof.Machine

namespace Sys2Proof

/-- The operands of the full form of a half (R83). -/
def Half.ops (x : Half) (h : Hdr) : Ops :=
  { h := h, d := x.d, a := if x.op.twoSource then x.d else x.s, b := if x.op.twoSource then x.s else .none, x := none }

end Sys2Proof

namespace Sys2Proof.Machine

/-! ### Each kind of half -/

section Forms

variable {s : State} {hd : Hdr} {c : Ctx} (hc : s.ctx hd = some c) (d src : Opnd)
include hc

theorem State.doesHalf_si (hpin : ∀ n x, s.pinBlocks c n x = false) (o : SOp) (t : Ty) :
    let x : Half := { op := .si o t, d := d, s := src }
    s.DoesHalf c (halfOut s c x) (o.instr (x.ops hd) { rm := .rne, ty := t, imm := 0 }) := by
  intro x
  have hexec := (exec_sopInstr o (x.ops hd) { rm := .rne, ty := t, imm := 0 } s).trans (scalarWord_eq hc _)
  by_cases hact : c.act = 0
  · rw [if_pos hact] at hexec
    have hout : halfOut s c x = .none := by simp only [x, halfOut, if_pos hact]
    exact ⟨_, hexec, by rw [hout]; exact State.regsBut_retire hc⟩
  · rw [if_neg hact, State.finishS_of_unpinned hpin] at hexec
    refine State.doesHalf_of_exec hc (hexec.trans ?_)
    simp only [x, halfOut, if_neg hact]
    rfl

theorem State.doesHalf_vi {o : VIOp} (hcmp : o ≠ .cmp) (hsel : o ≠ .sel) (t : Ty) :
    let x : Half := { op := .vi o t, d := d, s := src }
    s.DoesHalf c (halfOut s c x) (o.instr (x.ops hd) { rm := .rne, ty := t, imm := 0 }) := by
  intro x
  refine State.doesHalf_of_exec hc ((exec_viopInstr hcmp _ _ s).trans ((vectorWord_eq hc _).trans ?_))
  simp only [viVal_pred hsel t _ _ false]
  rfl

theorem State.doesHalf_vf {o : VFOp} (hcmp : o ≠ .cmp) (hsel : o ≠ .sel) (t : Ty) (r : RM) :
    let x : Half := { op := .vf o t r, d := d, s := src }
    s.DoesHalf c (halfOut s c x) (o.instr (x.ops hd) { rm := r, ty := t, imm := 0 }) := by
  intro x
  refine State.doesHalf_of_exec hc ((exec_vfopInstr hcmp _ _ s).trans ((vectorWord_eq hc _).trans ?_))
  simp only [vfVal_pred hsel t _ _ false]
  rfl

theorem State.doesHalf_sf (o : SFOp) (t : Ty) (r : RM) :
    let x : Half := { op := .sf o t r, d := d, s := src }
    s.DoesHalf c (halfOut s c x) (o.instr (x.ops hd) { rm := r, ty := t, imm := 0 }) :=
  State.doesHalf_of_exec hc ((exec_sfopInstr o _ _ s).trans (vectorWord_eq hc _))

theorem State.doesHalf_scaleb (m : CnvMod) :
    let x : Half := { op := .scaleb (cnvTy m.df) m.rm, d := d, s := src }
    s.DoesHalf c (halfOut s c x) (.scaleb (x.ops hd) m) :=
  State.doesHalf_of_exec hc (vectorWord_eq hc _)

/-- A lane that a half reads from stands in the same slug: `FS` is 0 (R162). -/
theorem State.doesHalf_shfl (down : Bool) (lg : BitVec 3) :
    let x : Half := { op := .shfl down lg, d := d, s := src }
    s.DoesHalf c (halfOut s c x)
      (.shfl (x.ops hd) { ty := .n32, fs := false, mode := if down then 3 else 1, arg := BitVec.ofNat 10 (2 ^ lg.toNat) }) := by
  intro x
  have harg : (BitVec.ofNat 10 (2 ^ lg.toNat)).toNat = 2 ^ lg.toNat := by
    have : 2 ^ lg.toNat < 2 ^ 10 := Nat.pow_lt_pow_right (by decide) (by omega)
    rw [BitVec.toNat_ofNat, Nat.mod_eq_of_lt this]
  refine State.doesHalf_of_exec hc ((vectorWord_eq hc _).trans (congrArg _ ?_))
  simp only [State.laneWord, harg, Bool.false_and, Bool.false_eq_true, if_false]
  cases down <;> rfl

theorem State.doesHalf_vote (hpin : ∀ n x, s.pinBlocks c n x = false) (mode : BitVec 2) :
    let x : Half := { op := .vote mode, d := d, s := src }
    s.DoesHalf c (halfOut s c x) (.vote (x.ops hd) { ty := .n32, fs := false, mode := mode.zeroExtend 3, arg := 0 }) := by
  intro x
  refine State.doesHalf_of_exec hc ((vectorWord_eq hc _).trans (congrArg _ ?_))
  by_cases hmode : mode = 3
  · subst hmode
    exact State.finishG_of_unpinned (hpin _ _)
  · have hwide : mode.zeroExtend 3 ≠ 3 := fun h => hmode (by bv_omega)
    have hnat : (mode.zeroExtend 3).toNat = mode.toNat := by bv_omega
    simp only [x, halfOut, if_neg hmode, if_neg hwide, hnat]
    rfl

theorem State.doesHalf_cvt (k : BitVec 4) {m : CnvMod} (hdf : CTy.ofCode m.df = some (halfConv k).1)
    (hsf : CTy.ofCode m.sf = some (halfConv k).2.1) (hrm : m.rm = (halfConv k).2.2.1) (hsat : m.sat = false)
    (hdpos : (m.pos.extractLsb' 4 2).toNat = (halfConv k).2.2.2.1) (hspos : (m.pos.extractLsb' 2 2).toNat = (halfConv k).2.2.2.2) :
    let x : Half := { op := .cvt k, d := d, s := src }
    s.DoesHalf c (halfOut s c x) (.cvt (x.ops hd) m) := by
  intro x
  obtain ⟨hwidth, hsr⟩ := halfConv_narrow k
  have hexec := exec_cvt_of_not_sr (w := x.ops hd) hc hdf hsf (hrm ▸ hsr)
  rw [hrm, hsat, hdpos, hspos] at hexec
  have hout : c.m.writeHalf c.act (halfOut s c x) = c.m.writeV d.num c.act (fun i => BitVec.ofNat 32
      (cvtLane (halfConv k).1 (halfConv k).2.1 (halfConv k).2.2.1 false (halfConv k).2.2.2.1 (halfConv k).2.2.2.2 0
        (c.m.srcC (x.ops hd) (halfConv k).2.1 src i) (c.m.readV d.num)[i].toNat).1) := by
    simp only [x, halfOut, cvtLane_of_not_sr hsr _ _ _ _ _ c.m.srg]
    rfl
  rw [hwidth] at hexec
  exact State.doesHalf_of_modCur hc hexec ((Slug.converted_narrow _ _ _ _).trans hout.symm)

end Forms

end Sys2Proof.Machine

namespace Sys2Proof

/-! ## What the pairing rules give (spec/03 R82 to R85) -/

theorem need_eq_ok {b : Bool} {e : Enc} : need b e = .ok () ↔ b = true := by cases b <;> simp [need]

theorem bind_eq_ok {x : Except Enc Unit} {f : Unit → Except Enc Unit} :
    (x >>= f) = .ok () ↔ x = .ok () ∧ f () = .ok () := by
  cases x <;> simp [bind, Except.bind]

/-- A well-formed paired word has two halves that each obey their rules, with destinations of their own. -/
theorem Instr.pairedWord_wf {hd : Hdr} {hi lo : Half} (h : (Instr.pairedWord hd hi lo).wf = true) :
    hi.check = .ok () ∧ lo.check = .ok () ∧ (hi.op = .nop ∨ lo.op = .nop ∨ hi.d ≠ lo.d) := by
  have hcheck : (Instr.pairedWord hd hi lo).check = .ok () := by
    revert h
    unfold Instr.wf
    cases (Instr.pairedWord hd hi lo).check <;> simp
  simp only [Instr.check, pairCheck, bind_eq_ok, need_eq_ok] at hcheck
  obtain ⟨-, hhi, hlo, -, -, hdst⟩ := hcheck
  exact ⟨hhi, hlo, by simpa [or_assoc] using hdst⟩

/-- What a half that is no `NOP` obeys. -/
theorem Half.check_eq_ok {x : Half} (hnop : x.op ≠ .nop) (h : x.check = .ok ()) :
    x.op.pairs = true ∧ ∃ f, formOf x.op.opc = some f ∧ x.d.cls ∈ f.d := by
  unfold Half.check at h
  split at h
  · exact absurd (by assumption) hnop
  · simp only [bind_eq_ok, need_eq_ok] at h
    obtain ⟨hpairs, -, h⟩ := h
    cases hf : formOf x.op.opc with
    | none => simp [hf] at h
    | some f =>
      simp only [hf, bind_eq_ok, need_eq_ok] at h
      obtain ⟨hdst, -⟩ := h
      exact ⟨hpairs, f, rfl, (List.mem_filter.mp (List.contains_iff_mem.mp hdst)).1⟩

/-- `VOTE.ballot` gives a scalar register, the other modes a predicate register (spec/05 R163). -/
theorem Half.cls_of_vote {m : BitVec 2} {d src : Opnd} (h : ({ op := .vote m, d := d, s := src } : Half).check = .ok ()) :
    d.cls = if m == 3 then .g else .p := by
  have hf : ∃ f, formOf 0x0E2 = some f := ⟨_, rfl⟩
  obtain ⟨f, hf⟩ := hf
  simp only [Half.check, HalfOp.opc, hf, bind_eq_ok, need_eq_ok] at h
  obtain ⟨-, -, -, -, hcls, -⟩ := h
  exact eq_of_beq hcls

theorem SOp.formOf_dst (o : SOp) : ∀ f ∈ formOf (0x040 + o.ctorIdx), f.d ⊆ [.g, .p] := by
  cases o <;> decide

theorem VIOp.formOf_dst {o : VIOp} (ho : o ≠ .cmp) : ∀ f ∈ formOf (0x060 + o.ctorIdx), f.d = [.v] := by
  cases o with
  | cmp => exact absurd rfl ho
  | _ => decide

theorem VFOp.formOf_dst {o : VFOp} (ho : o ≠ .cmp) : ∀ f ∈ formOf (0x080 + o.ctorIdx), f.d = [.v] := by
  cases o with
  | cmp => exact absurd rfl ho
  | _ => decide

theorem SFOp.formOf_dst (o : SFOp) : ∀ f ∈ formOf (0x0A0 + o.ctorIdx), f.d = [.v] := by
  cases o <;> decide

/-- The classes of the registers that a half writes. -/
def HalfOp.dst (o : HalfOp) : List Cls :=
  match o with
  | .nop => []
  | .si _ _ => [.g, .p]
  | .vote m => if m == 3 then [.g] else [.p]
  | _ => [.v]

/-- The comparisons and the selections do not pair (R93). -/
theorem VIOp.of_pairs {o : VIOp} {t : Ty} (h : (HalfOp.vi o t).pairs = true) : o ≠ .cmp ∧ o ≠ .sel := by
  constructor <;> rintro rfl <;> exact absurd h (by simp [HalfOp.pairs])

theorem VFOp.of_pairs {o : VFOp} {t : Ty} {r : RM} (h : (HalfOp.vf o t r).pairs = true) : o ≠ .cmp ∧ o ≠ .sel := by
  constructor <;> rintro rfl <;> exact absurd h (by simp [HalfOp.pairs])

/-- A half's destination is a register of a class that its operation writes. -/
theorem Half.cls_mem_dst {x : Half} (hnop : x.op ≠ .nop) (h : x.check = .ok ()) : x.d.cls ∈ x.op.dst := by
  obtain ⟨hpairs, f, hf, hcls⟩ := Half.check_eq_ok hnop h
  obtain ⟨op, d, src⟩ := x
  have vector (hd : f.d = [.v]) : d.cls ∈ [Cls.v] := hd ▸ hcls
  cases op with
  | nop => exact absurd rfl hnop
  | si o t => exact SOp.formOf_dst o f hf hcls
  | vi o t => exact vector (VIOp.formOf_dst (VIOp.of_pairs hpairs).1 f hf)
  | vf o t r => exact vector (VFOp.formOf_dst (VFOp.of_pairs hpairs).1 f hf)
  | sf o t r => exact vector (SFOp.formOf_dst o f hf)
  | cvt k => exact vector (by cases hf; rfl)
  | scaleb t r => exact vector (by cases hf; rfl)
  | shfl down lg => exact vector (by cases hf; rfl)
  | vote m =>
    rw [Half.cls_of_vote h, HalfOp.dst]
    split <;> exact List.mem_singleton_self _

theorem Opnd.cls_eq_v {d : Opnd} (h : d.cls = .v) : ∃ n, d = .v n := by
  cases d with
  | v n => exact ⟨n, rfl⟩
  | _ => cases h

theorem Opnd.cls_eq_g {d : Opnd} (h : d.cls = .g) : ∃ n, d = .g n := by
  cases d with
  | g n => exact ⟨n, rfl⟩
  | _ => cases h

theorem Opnd.cls_eq_p {d : Opnd} (h : d.cls = .p) : ∃ n, d = .p n := by
  cases d with
  | p n => exact ⟨n, rfl⟩
  | _ => cases h

end Sys2Proof

namespace Sys2Proof.Machine

/-! ## Paired words beside their full forms (spec/03 R82, R83) -/

/-- A half's result goes to the register that the half names. -/
theorem halfOut_locs_subset (s : State) (c : Ctx) {x : Half} (h : x.check = .ok ()) : (halfOut s c x).locs ⊆ x.writes := by
  by_cases hnop : x.op = .nop
  · simp [halfOut, hnop, HalfOut.locs]
  have hcls := Half.cls_mem_dst hnop h
  obtain ⟨op, d, src⟩ := x
  cases op with
  | nop => exact absurd rfl hnop
  | si o t =>
    by_cases hact : c.act = 0
    · simp [halfOut, hact, HalfOut.locs]
    simp only [halfOut, if_neg hact]
    rcases List.mem_pair.mp hcls with hd | hd
    · obtain ⟨n, rfl⟩ := Opnd.cls_eq_g hd
      exact List.Subset.refl _
    · obtain ⟨n, rfl⟩ := Opnd.cls_eq_p hd
      exact List.Subset.refl _
  | vote m =>
    by_cases hm : m = 3
    · subst hm
      obtain ⟨n, rfl⟩ := Opnd.cls_eq_g (List.mem_singleton.mp hcls)
      exact List.Subset.refl _
    · simp only [HalfOp.dst, beq_eq_false_iff_ne.mpr hm] at hcls
      obtain ⟨n, rfl⟩ := Opnd.cls_eq_p (List.mem_singleton.mp hcls)
      simp only [halfOut, if_neg hm]
      exact List.Subset.refl _
  | _ =>
    obtain ⟨n, rfl⟩ := Opnd.cls_eq_v (List.mem_singleton.mp hcls)
    exact List.Subset.refl _

/-- The full form of a well-formed half leaves the registers as the half's result does. -/
theorem State.doesHalf_of_formIs {s : State} {hd : Hdr} {c : Ctx} (hc : s.ctx hd = some c) (hpin : ∀ n x, s.pinBlocks c n x = false)
    {x : Half} (hx : x.check = .ok ()) {i : Instr} (hi : x.FormIs hd i) : s.DoesHalf c (halfOut s c x) i := by
  by_cases hnop : x.op = .nop
  · exact absurd hi (by simp [Half.FormIs, hnop])
  obtain ⟨hpairs, -⟩ := Half.check_eq_ok hnop hx
  obtain ⟨op, d, src⟩ := x
  cases op with
  | nop => exact absurd rfl hnop
  | si o t =>
    obtain rfl := hi
    exact State.doesHalf_si hc d src hpin o t
  | vi o t =>
    obtain rfl := hi
    obtain ⟨hcmp, hsel⟩ := VIOp.of_pairs hpairs
    exact State.doesHalf_vi hc d src hcmp hsel t
  | vf o t r =>
    obtain rfl := hi
    obtain ⟨hcmp, hsel⟩ := VFOp.of_pairs hpairs
    exact State.doesHalf_vf hc d src hcmp hsel t r
  | sf o t r =>
    obtain rfl := hi
    exact State.doesHalf_sf hc d src o t r
  | scaleb t r =>
    obtain ⟨m, rfl, rfl, rfl⟩ := hi
    exact State.doesHalf_scaleb hc d src m
  | cvt k =>
    obtain ⟨m, rfl, hdf, hsf, hrm, hsat, hdpos, hspos⟩ := hi
    exact State.doesHalf_cvt hc d src k hdf hsf hrm hsat hdpos hspos
  | shfl down lg =>
    obtain rfl := hi
    exact State.doesHalf_shfl hc d src down lg
  | vote m =>
    obtain rfl := hi
    exact State.doesHalf_vote hc d src hpin m

/-- Both halves' results written (R83). -/
def Slug.writeHalves (m : Slug) (act : Mask) (a b : HalfOut) : Slug := (m.writeHalf act a).writeHalf act b

/-- A paired word that no pin blocks writes both results (R82, R83). -/
theorem exec_pairedWord {s : State} {hd : Hdr} {c : Ctx} (hc : s.ctx hd = some c) (hpin : ∀ n x, s.pinBlocks c n x = false) (hi lo : Half) :
    exec (.pairedWord hd hi lo) s = .next ((s.modCur (·.writeHalves c.act (halfOut s c hi) (halfOut s c lo))).retire c) := by
  show execPairedWord hd hi lo s = _
  rw [execPairedWord, vectorWord_eq hc]
  have hnone (l : List (Nat × Word)) : l.find? (fun e => s.pinBlocks c e.1 e.2) = none := by simp [hpin]
  simp only [hnone]
  rfl

/-- The operand that names a register of a slug. -/
def Loc.opnd (r : Loc) : Opnd :=
  match r with
  | .g n => .g (BitVec.ofNat 6 n)
  | .p n => .p (BitVec.ofNat 4 n)
  | .v n => .v (BitVec.ofNat 7 n)
  | _ => .none

theorem Half.dst_of_mem_writes {x : Half} {r : Loc} (h : r ∈ x.writes) : x.op ≠ .nop ∧ x.d = r.opnd := by
  unfold Half.writes at h
  split at h
  case h_1 => exact absurd h List.not_mem_nil
  case h_5 => exact absurd h List.not_mem_nil
  all_goals
    rename_i hd hnop
    obtain rfl := List.mem_singleton.mp h
    exact ⟨hnop, by simp [hd, Loc.opnd]⟩

/-- Halves with destinations of their own write different registers. -/
theorem Half.writes_disjoint {x y : Half} (h : x.op = .nop ∨ y.op = .nop ∨ x.d ≠ y.d) {r : Loc} (hx : r ∈ x.writes) : r ∉ y.writes := by
  intro hy
  obtain ⟨hxop, hxd⟩ := Half.dst_of_mem_writes hx
  obtain ⟨hyop, hyd⟩ := Half.dst_of_mem_writes hy
  rcases h with h | h | h
  · exact hxop h
  · exact hyop h
  · exact h (hxd.trans hyd.symm)

end Sys2Proof.Machine

namespace Sys2Proof

open Sys2Proof.Machine

theorem pairedWordHalves : Claim.PairedWordHalves := by
  intro hd hi lo s c hc hwf hfree
  have hpin := State.pinBlocks_of_free hfree
  obtain ⟨hhi, hlo, hdst⟩ := Instr.pairedWord_wf hwf
  have hregsHi := (Slug.regsBut_writeHalf c.m c.act (halfOut s c hi)).mono (halfOut_locs_subset s c hhi)
  have hregsLo (m : Slug) := (Slug.regsBut_writeHalf m c.act (halfOut s c lo)).mono (halfOut_locs_subset s c hlo)
  have hrest : c.m.RestAs (c.m.writeHalves c.act (halfOut s c hi) (halfOut s c lo)) c.iss.b :=
    (Slug.restAs_writeHalf _ _ _ _).trans (Slug.restAs_writeHalf _ _ _ _)
  obtain ⟨hdone, -⟩ := State.done_of hc (·.writeHalves c.act (halfOut s c hi) (halfOut s c lo)) c.nextPc (hi.writes ++ lo.writes)
    (hregsHi.append (hregsLo _)) hrest (by simp [Slug.writeHalves])
  refine ⟨_, exec_pairedWord hc hpin hi lo, hdone, fun x hx i u hform hexec r hr => ?_⟩
  have hcheck : x.check = .ok () := by rcases hx with rfl | rfl <;> assumption
  obtain ⟨t, ht, hfull⟩ := State.doesHalf_of_formIs hc hpin hcheck hform
  obtain rfl : t = u := by simpa [ht] using hexec
  have hboth := State.regsBut_modCur_retire hc (·.writeHalves c.act (halfOut s c hi) (halfOut s c lo))
  have hone : (c.m.writeHalf c.act (halfOut s c x)).SameAt (c.m.writeHalves c.act (halfOut s c hi) (halfOut s c lo)) r := by
    rcases hx with rfl | rfl
    · exact (hregsLo _).sameAt (Half.writes_disjoint hdst hr)
    · exact (hregsHi.sameAt (fun hr' => Half.writes_disjoint hdst hr' hr)).writeHalf _ _
  exact (hfull.sameAt List.not_mem_nil).symm.trans (hone.trans (hboth.sameAt List.not_mem_nil))

/-- Settles O27: what the special registers and feature words hold, and what a half shares with its full form. -/
theorem systemForms : Obligations.SystemForms := ⟨systemReads, pairedWordHalves⟩

end Sys2Proof

namespace Sys2Proof

/-! ## Results of the decoder's checks -/

@[simp] theorem bind_eq_ok_iff {α β : Type} {x : Except Enc α} {f : α → Except Enc β} {b : β} :
    (x >>= f) = .ok b ↔ ∃ a, x = .ok a ∧ f a = .ok b := by
  cases x <;> simp [bind, Except.bind]

@[simp] theorem map_eq_ok_iff {α β : Type} {x : Except Enc α} {f : α → β} {b : β} :
    x.map f = .ok b ↔ ∃ a, x = .ok a ∧ f a = b := by
  cases x <;> simp [Except.map]

theorem ok_eq_ok_iff {α : Type} {a b : α} : (.ok a : Except Enc α) = .ok b ↔ b = a := by
  simp [eq_comm]

@[simp] theorem ite_error_eq_ok_iff {α : Type} {p : Prop} [Decidable p] {x : Except Enc α} {e : Enc} {a : α} :
    (if p then x else .error e) = .ok a ↔ p ∧ x = .ok a := by
  by_cases hp : p <;> simp [hp]

@[simp] theorem error_ite_eq_ok_iff {α : Type} {p : Prop} [Decidable p] {x : Except Enc α} {e : Enc} {a : α} :
    (if p then .error e else x) = .ok a ↔ ¬p ∧ x = .ok a := by
  by_cases hp : p <;> simp [hp]

/-! ## Fields of a word -/

/-- A word is its two parts exactly if each part is the field of the word at its place. -/
@[simp] theorem bits_append_eq_iff {v w : Nat} {a : BitVec v} {b : BitVec w} {x : BitVec (v + w)} :
    @Eq (no_index (BitVec (v + w))) (no_index (a ++ b)) x ↔ a = x.extractLsb' w v ∧ b = x.extractLsb' 0 w := by
  constructor
  · rintro rfl
    exact ⟨BitVec.extractLsb'_append_eq_left.symm, BitVec.extractLsb'_append_eq_right.symm⟩
  · rintro ⟨rfl, rfl⟩
    exact BitVec.extractLsb'_append_extractLsb'

@[simp] theorem extractLsb'_extractLsb' {n : Nat} {x : BitVec n} {i j k l : Nat} (h : i + j ≤ l) :
    (x.extractLsb' k l).extractLsb' i j = x.extractLsb' (k + i) j := by
  ext q hq
  have hql : i + q < l := by omega
  simp [hql, Nat.add_assoc]

@[simp] theorem bit1_eq_extractLsb'_iff {n k : Nat} {x : BitVec n} {b : Bool} : bit1 b = x.extractLsb' k 1 ↔ b = x.getLsbD k := by
  rw [BitVec.getLsbD_eq_extractLsb']
  generalize x.extractLsb' k 1 = y
  revert y b
  decide

@[simp] theorem zero_eq_extractLsb'_iff {n k l : Nat} {x : BitVec n} : 0#l = x.extractLsb' k l ↔ x.extractLsb' k l = 0#l := eq_comm

@[simp] theorem extractLsb'_eq_zero_iff {n k : Nat} {x : BitVec n} : x.extractLsb' k 1 = 0#1 ↔ x.getLsbD k = false := by
  rw [BitVec.getLsbD_eq_extractLsb']
  generalize x.extractLsb' k 1 = y
  revert y
  decide

/-! ## MOD layouts (spec/03 R77, R78)

Every MOD parser reads the fields that the layout's `bits` lays out, and refuses what `bits` cannot give. -/

theorem RM.code_of_parse : ∀ c : BitVec 3, ∀ r ∈ (RM.parse c).toOption, r.code = c := by decide

theorem RM.parse_code (r : RM) : RM.parse r.code = .ok r := by cases r <;> rfl

@[simp] theorem RM.parse_eq_ok_iff {c : BitVec 3} {r : RM} : RM.parse c = .ok r ↔ r.code = c :=
  ⟨fun h => RM.code_of_parse c r (by simp [h, Except.toOption]), fun h => h ▸ RM.parse_code r⟩

theorem Ty.code_of_parse : ∀ c : BitVec 3, ∀ t ∈ (Ty.parse c).toOption, t.code = c := by decide

theorem Ty.parse_code (t : Ty) : Ty.parse t.code = .ok t := by cases t <;> rfl

@[simp] theorem Ty.parse_eq_ok_iff {c : BitVec 3} {t : Ty} : Ty.parse c = .ok t ↔ t.code = c :=
  ⟨fun h => Ty.code_of_parse c t (by simp [h, Except.toOption]), fun h => h ▸ Ty.parse_code t⟩

@[simp] theorem AluMod.parse_eq_ok_iff {m : AluMod} {b : BitVec 20} : AluMod.parse b = .ok m ↔ m.bits = b := by
  cases m
  simp [AluMod.parse, AluMod.bits, ok_eq_ok_iff, -Except.ok.injEq, and_assoc, and_comm, and_left_comm]

@[simp] theorem SliceMod.parse_eq_ok_iff {m : SliceMod} {b : BitVec 20} : SliceMod.parse b = .ok m ↔ m.bits = b := by
  cases m
  simp [SliceMod.parse, SliceMod.bits, ok_eq_ok_iff, -Except.ok.injEq, and_assoc, and_comm, and_left_comm]

@[simp] theorem CnvMod.parse_eq_ok_iff {m : CnvMod} {b : BitVec 20} : CnvMod.parse b = .ok m ↔ m.bits = b := by
  cases m
  simp [CnvMod.parse, CnvMod.bits, ok_eq_ok_iff, -Except.ok.injEq, and_assoc, and_comm, and_left_comm]

@[simp] theorem XlMod.parse_eq_ok_iff {m : XlMod} {b : BitVec 20} : XlMod.parse b = .ok m ↔ m.bits = b := by
  cases m
  simp [XlMod.parse, XlMod.bits, ok_eq_ok_iff, -Except.ok.injEq, and_assoc, and_comm, and_left_comm]

@[simp] theorem XsMod.parse_eq_ok_iff {m : XsMod} {b : BitVec 20} : XsMod.parse b = .ok m ↔ m.bits = b := by
  cases m
  simp [XsMod.parse, XsMod.bits, ok_eq_ok_iff, -Except.ok.injEq, and_assoc, and_comm, and_left_comm]

@[simp] theorem MxMod.parse_eq_ok_iff {m : MxMod} {b : BitVec 20} : MxMod.parse b = .ok m ↔ m.bits = b := by
  cases m
  simp [MxMod.parse, MxMod.bits, ok_eq_ok_iff, -Except.ok.injEq, and_assoc, and_comm, and_left_comm]

@[simp] theorem MemMod.parse_eq_ok_iff {m : MemMod} {b : BitVec 20} : MemMod.parse b = .ok m ↔ m.bits = b := by
  cases m
  simp [MemMod.parse, MemMod.bits, ok_eq_ok_iff, -Except.ok.injEq, and_assoc, and_comm, and_left_comm]

@[simp] theorem AtMod.parse_eq_ok_iff {m : AtMod} {b : BitVec 20} : AtMod.parse b = .ok m ↔ m.bits = b := by
  cases m
  simp [AtMod.parse, AtMod.bits, ok_eq_ok_iff, -Except.ok.injEq, and_assoc, and_comm]

@[simp] theorem FnMod.parse_eq_ok_iff {m : FnMod} {b : BitVec 20} : FnMod.parse b = .ok m ↔ m.bits = b := by
  cases m
  simp [FnMod.parse, FnMod.bits, ok_eq_ok_iff, -Except.ok.injEq, and_assoc, and_comm, and_left_comm]

@[simp] theorem CpyMod.parse_eq_ok_iff {m : CpyMod} {b : BitVec 20} : CpyMod.parse b = .ok m ↔ m.bits = b := by
  cases m
  simp [CpyMod.parse, CpyMod.bits, ok_eq_ok_iff, -Except.ok.injEq, and_assoc, and_comm, and_left_comm]

@[simp] theorem CpmMod.parse_eq_ok_iff {m : CpmMod} {b : BitVec 20} : CpmMod.parse b = .ok m ↔ m.bits = b := by
  cases m
  simp [CpmMod.parse, CpmMod.bits, ok_eq_ok_iff, -Except.ok.injEq, and_assoc, and_comm, and_left_comm]

@[simp] theorem QMod.parse_eq_ok_iff {m : QMod} {b : BitVec 20} : QMod.parse b = .ok m ↔ m.bits = b := by
  cases m
  simp [QMod.parse, QMod.bits, ok_eq_ok_iff, -Except.ok.injEq, and_comm, and_left_comm]

@[simp] theorem BarMod.parse_eq_ok_iff {m : BarMod} {b : BitVec 20} : BarMod.parse b = .ok m ↔ m.bits = b := by
  cases m
  simp [BarMod.parse, BarMod.bits, ok_eq_ok_iff, -Except.ok.injEq, and_comm]

@[simp] theorem TxMod.parse_eq_ok_iff {m : TxMod} {b : BitVec 20} : TxMod.parse b = .ok m ↔ m.bits = b := by
  cases m
  simp [TxMod.parse, TxMod.bits, ok_eq_ok_iff, -Except.ok.injEq, and_comm]

@[simp] theorem ChkMod.parse_eq_ok_iff {m : ChkMod} {b : BitVec 20} : ChkMod.parse b = .ok m ↔ m.bits = b := by
  cases m
  simp [ChkMod.parse, ChkMod.bits, ok_eq_ok_iff, -Except.ok.injEq, and_comm, and_left_comm]

@[simp] theorem SysMod.parse_eq_ok_iff {m : SysMod} {b : BitVec 20} : SysMod.parse b = .ok m ↔ m.bits = b := by
  cases m
  simp [SysMod.parse, SysMod.bits, ok_eq_ok_iff, -Except.ok.injEq, and_comm]

/-! ## Operand codes (spec/03 R73 to R75) -/

theorem Opnd.code_of_ofCode : ∀ c : BitVec 8, ∀ o ∈ Opnd.ofCode c, o.code = c := by decide

theorem Opnd.ofCode_code {o : Opnd} (h : o ≠ .none) : Opnd.ofCode o.code = some o := by
  cases o with
  | none => exact absurd rfl h
  | v n => revert n; decide
  | g n => revert n; decide
  | a n => revert n; decide
  | p n => revert n; decide
  | const n => revert n; decide
  | _ => rfl

/-- The only operand with the code 0x00 is `v0` (R73). -/
theorem Opnd.cls_of_code_zero {o : Opnd} (ho : o ≠ .none) (h : o.code = 0#8) : o.cls = .v := by
  have := Opnd.ofCode_code ho
  rw [h] at this
  cases this
  rfl

/-- The operand is one that a field of these classes may name. -/
def Opnd.fits (cs : List Cls) (o : Opnd) : Bool := cs.contains o.cls || (cs.isEmpty && o == .none)

/-- The code 0x00 has one reading in a field of these classes. -/
def zeroClear (cs : List Cls) : Bool := !(cs.contains .v && cs.contains .none)

theorem Opnd.code_of_parse {cs : List Cls} {c : BitVec 8} {o : Opnd} (h : Opnd.parse cs c = .ok o) : o.code = c := by
  unfold Opnd.parse at h
  split at h
  · simp only [ite_error_eq_ok_iff, Except.ok.injEq] at h
    obtain ⟨rfl, rfl⟩ := h
    rfl
  · split at h
    · next hzero =>
      cases h
      simp_all [Opnd.code]
    · split at h
      · next x hx =>
        simp only [ite_error_eq_ok_iff, Except.ok.injEq] at h
        obtain ⟨-, rfl⟩ := h
        exact Opnd.code_of_ofCode c x hx
      · cases h

theorem Opnd.parse_code {cs : List Cls} {o : Opnd} (hcs : zeroClear cs = true) (h : o.fits cs = true) :
    Opnd.parse cs o.code = .ok o := by
  by_cases ho : o = .none
  · subst ho
    cases cs <;> simp_all [Opnd.parse, Opnd.fits, Opnd.code, Opnd.cls]
  · have hcls : cs.contains o.cls = true := by simpa [Opnd.fits, ho] using h
    have hne : cs.isEmpty = false := by cases cs <;> simp_all
    have hzero : (o.code == 0#8 && cs.contains .none) = false := by
      by_contra hc
      obtain ⟨hcode, hnone⟩ : o.code = 0#8 ∧ cs.contains .none = true := by simpa using hc
      have hv : cs.contains .v = true := Opnd.cls_of_code_zero ho hcode ▸ hcls
      rw [zeroClear, hv, hnone] at hcs
      exact absurd hcs (by decide)
    unfold Opnd.parse
    rw [hne, if_neg Bool.false_ne_true, if_neg (by simpa using hzero), Opnd.ofCode_code ho]
    exact if_pos hcls

theorem zeroClear_of_subset {cs ds : List Cls} (hsub : ds ⊆ cs) (h : zeroClear cs = true) : zeroClear ds = true := by
  simp only [zeroClear, Bool.not_and, Bool.or_eq_true, Bool.not_eq_true', ← Bool.not_eq_true, List.contains_iff_mem] at h ⊢
  exact h.imp (fun hn hm => hn (hsub hm)) (fun hn hm => hn (hsub hm))

/-! ## The opcode map (spec/03 R92) -/

/-- The opcode map (R92), evaluated over its 1,024 opcodes: in every field of a form the code 0x00 has one reading, and every
opcode with a form is that of some instruction. -/
theorem opcodeMap_row : ∀ opc < 1024, ∀ f ∈ formOf opc, (zeroClear f.d = true ∧ zeroClear f.a = true ∧ zeroClear f.b = true)
    ∧ ((build opc default 0).toOption.bind Instr.view).map WordView.opc = some opc := by
  decide +kernel

theorem formOf_zeroClear {opc : Nat} (hlt : opc < 1024) {f : Form} (hf : formOf opc = some f) :
    zeroClear f.d = true ∧ zeroClear f.a = true ∧ zeroClear f.b = true := (opcodeMap_row opc hlt f hf).1

theorem exists_view_of_formOf {opc : Nat} (hlt : opc < 1024) {f : Form} (hf : formOf opc = some f) :
    ∃ (i : Instr) (v : WordView), i.view = some v ∧ v.opc = opc := by
  obtain ⟨v, hv, hopc⟩ := Option.map_eq_some_iff.mp (opcodeMap_row opc hlt f hf).2
  obtain ⟨i, -, hi⟩ := Option.bind_eq_some_iff.mp hv
  exact ⟨i, v, hi, hopc⟩

theorem Instr.opc_lt {i : Instr} {v : WordView} (h : i.view = some v) : v.opc < 1024 := by
  cases i <;> cases h <;> exact Nat.le_of_ble_eq_true rfl

/-- The rows of `build` undo those of `Instr.view`. -/
theorem build_of_view {i : Instr} {v : WordView} (h : i.view = some v) : build v.opc v.ops v.mod = .ok i := by
  cases i <;> cases h
  case' cpym w m => change (CpmMod.parse m.bits).map (Instr.cpym w) = _
  all_goals exact map_eq_ok_iff.mpr ⟨_, by simp, rfl⟩

/-- The rows of `Instr.view` undo those of `build`: the row is that of an instruction that has the opcode. -/
theorem view_of_build {opc : Nat} {w : Ops} {b : BitVec 20} {i : Instr} {f : Form} (hlt : opc < 1024) (hf : formOf opc = some f)
    (h : build opc w b = .ok i) : i.view = some ⟨opc, w, b⟩ := by
  obtain ⟨j, v, hj, rfl⟩ := exists_view_of_formOf hlt hf
  cases j <;> cases hj
  case' cpym => change (CpmMod.parse b).map (Instr.cpym w) = _ at h
  all_goals
    obtain ⟨m, hm, rfl⟩ := map_eq_ok_iff.mp h
    obtain rfl := by simpa using hm
    rfl

/-! ## Half opcodes (spec/03 R83, R85, R93) -/

theorem halfFloatTy_eq_ok_iff {c : BitVec 2} {t : Ty} : halfFloatTy c = .ok t ↔ t.isFloat = true ∧ t.half = c := by
  constructor
  · have key : ∀ c : BitVec 2, ∀ t ∈ (halfFloatTy c).toOption, t.isFloat = true ∧ t.half = c := by decide
    exact fun h => key c t (by simp [h, Except.toOption])
  · rintro ⟨ht, rfl⟩
    cases t with
    | f32 | f16x2 | bf16x2 => rfl
    | _ => cases ht

theorem RM.half_halfRM : ∀ c : BitVec 2, (halfRM c).half = c := by decide

theorem halfRM_half {r : RM} (hsr : r ≠ .sr) (hrna : r ≠ .rna) : halfRM r.half = r := by
  cases r with
  | sr => exact absurd rfl hsr
  | rna => exact absurd rfl hrna
  | _ => rfl

theorem halfIntTy_code : ∀ c : BitVec 2, (halfIntTy c).code.extractLsb' 0 2 = c := by decide

theorem halfIntTy_of_isInt {t : Ty} (h : t.isInt = true) : halfIntTy (t.code.extractLsb' 0 2) = t := by
  cases t with
  | i32 | n32 | i64 | n64 => rfl
  | _ => cases h

/-- The operations of a group stand in their list at their offset. -/
theorem offset_of_getElem? {α : Type} {idx : α → Nat} {l : List α} (hl : l.map idx = List.range l.length) {k : Nat} {o : α}
    (h : l[k]? = some o) : idx o = k := by
  have hk : (l.map idx)[k]? = some (idx o) := by simp [h]
  rw [hl] at hk
  obtain ⟨hlt, hk⟩ := List.getElem?_eq_some_iff.mp hk
  rw [← hk, List.getElem_range]

/-! What a pair opcode of each group names, M4 being whatever it is (R85, R93). -/

theorem HalfOp.parse_si (o : SOp) (m4 : BitVec 4) : HalfOp.parse (BitVec.ofNat 7 (1 + o.ctorIdx)) m4
    = if m4.extractLsb' 0 2 = 0 then .ok (.si o (halfIntTy (m4.extractLsb' 2 2))) else .error .enc02 := by
  cases o <;> rfl

theorem HalfOp.parse_vi (o : VIOp) (m4 : BitVec 4) : HalfOp.parse (BitVec.ofNat 7 (0x20 + o.ctorIdx)) m4
    = if m4.extractLsb' 0 3 = 0 then .ok (.vi o (if m4.getLsbD 3 then .n32 else .i32)) else .error .enc02 := by
  cases o <;> rfl

theorem HalfOp.parse_vf (o : VFOp) (m4 : BitVec 4) : HalfOp.parse (BitVec.ofNat 7 (0x40 + o.ctorIdx)) m4
    = (halfFloatTy (m4.extractLsb' 2 2)).map (fun t => .vf o t (halfRM (m4.extractLsb' 0 2))) := by
  cases o <;> rfl

theorem HalfOp.parse_sf (o : SFOp) (m4 : BitVec 4) : HalfOp.parse (BitVec.ofNat 7 (0x60 + o.ctorIdx)) m4
    = (halfFloatTy (m4.extractLsb' 2 2)).map (fun t => .sf o t (halfRM (m4.extractLsb' 0 2))) := by
  cases o <;> rfl

/-- The M4 field of a half with a float type (R85). -/
theorem halfFloat_fields {m4 : BitVec 4} {t : Ty} (h : halfFloatTy (m4.extractLsb' 2 2) = .ok t) :
    t.half ++ (halfRM (m4.extractLsb' 0 2)).half = m4 := by
  rw [(halfFloatTy_eq_ok_iff.mp h).2, RM.half_halfRM]
  exact BitVec.extractLsb'_append_extractLsb'

/-- The M4 field of a vector integer half (R85). -/
theorem halfIntTy32_fields : ∀ m4 : BitVec 4, m4.extractLsb' 0 3 = 0 →
    (if (if m4.getLsbD 3 then Ty.n32 else Ty.i32) = .n32 then 1#1 else 0#1) ++ 0#3 = m4 := by decide

theorem halfFloat_map {c : Ty → RM → HalfOp} {t : Ty} {r : RM} (ht : t.isFloat = true) (hsr : r ≠ .sr) (hrna : r ≠ .rna) :
    (halfFloatTy ((t.half ++ r.half).extractLsb' 2 2)).map (fun u => c u (halfRM ((t.half ++ r.half).extractLsb' 0 2)))
      = .ok (c t r) := by
  rw [BitVec.extractLsb'_append_eq_left, BitVec.extractLsb'_append_eq_right, halfRM_half hsr hrna,
    halfFloatTy_eq_ok_iff.mpr ⟨ht, rfl⟩]
  rfl

theorem ite_eq_ok {α : Type} {p : Prop} [Decidable p] {x y : Except Enc α} {a : α} (h : (if p then x else y) = .ok a) :
    p ∧ x = .ok a ∨ ¬p ∧ y = .ok a := by
  by_cases hp : p <;> simp_all

/-- A half's opcode and M4 field are those of the operation they name (R85, R93). -/
theorem HalfOp.fields_of_parse {po : BitVec 7} {m4 : BitVec 4} {o : HalfOp} (h : HalfOp.parse po m4 = .ok o) :
    o.po = po ∧ o.m4 = m4 := by
  unfold HalfOp.parse at h
  extract_lets k hi lo at h
  have named {c : Nat} (hk : k = c) : BitVec.ofNat 7 c = po := by
    rw [← hk, BitVec.ofNat_toNat, BitVec.setWidth_eq]
  have listed {α : Type} {idx : α → Nat} {l : List α} {s : α} {base : Nat} (hs : l[k - base]? = some s) (hbase : ¬k < base)
      (hl : l.map idx = List.range l.length) : BitVec.ofNat 7 (base + idx s) = po := by
    rw [offset_of_getElem? hl hs, Nat.add_sub_cancel' (Nat.not_lt.mp hbase), named rfl]
  rcases ite_eq_ok h with ⟨hk, h⟩ | ⟨hnop, h⟩
  · obtain ⟨rfl, ⟨⟩⟩ := ite_error_eq_ok_iff.mp h
    exact ⟨named hk, rfl⟩
  rcases ite_eq_ok h with ⟨-, h⟩ | ⟨-, h⟩
  · cases hs : SOp.all[k - 1]? with
    | none => simp [hs] at h
    | some s =>
      simp only [hs, ite_error_eq_ok_iff, Except.ok.injEq] at h
      obtain ⟨hlo, rfl⟩ := h
      exact ⟨listed hs (by omega) rfl, by simp [HalfOp.m4, halfIntTy_code, hi, hlo, lo]⟩
  rcases ite_eq_ok h with ⟨-, ⟨⟩⟩ | ⟨hbase, h⟩
  rcases ite_eq_ok h with ⟨-, h⟩ | ⟨-, h⟩
  · cases hs : VIOp.all[k - 0x20]? with
    | none => simp [hs] at h
    | some s =>
      simp only [hs, ite_error_eq_ok_iff, Except.ok.injEq] at h
      obtain ⟨hlo, rfl⟩ := h
      exact ⟨listed hs hbase rfl, halfIntTy32_fields m4 hlo⟩
  rcases ite_eq_ok h with ⟨-, ⟨⟩⟩ | ⟨hbase, h⟩
  rcases ite_eq_ok h with ⟨-, h⟩ | ⟨-, h⟩
  · cases hs : VFOp.all[k - 0x40]? with
    | none => simp [hs] at h
    | some s =>
      obtain ⟨t, ht, rfl⟩ := map_eq_ok_iff.mp (by simpa only [hs] using h)
      exact ⟨listed hs hbase rfl, halfFloat_fields ht⟩
  rcases ite_eq_ok h with ⟨-, ⟨⟩⟩ | ⟨hbase, h⟩
  rcases ite_eq_ok h with ⟨-, h⟩ | ⟨-, h⟩
  · cases hs : SFOp.all[k - 0x60]? with
    | none => simp [hs] at h
    | some s =>
      obtain ⟨t, ht, rfl⟩ := map_eq_ok_iff.mp (by simpa only [hs] using h)
      exact ⟨listed hs hbase rfl, halfFloat_fields ht⟩
  rcases ite_eq_ok h with ⟨hk, ⟨⟩⟩ | ⟨-, h⟩
  · exact ⟨named hk, rfl⟩
  rcases ite_eq_ok h with ⟨hk, h⟩ | ⟨-, h⟩
  · obtain ⟨t, ht, rfl⟩ := map_eq_ok_iff.mp h
    exact ⟨named hk, halfFloat_fields ht⟩
  rcases ite_eq_ok h with ⟨hk, ⟨⟩⟩ | ⟨-, h⟩
  · exact ⟨named hk, by simp [HalfOp.m4]⟩
  · obtain ⟨hk, h⟩ := ite_error_eq_ok_iff.mp h
    obtain ⟨hhi, ⟨⟩⟩ := ite_error_eq_ok_iff.mp h
    exact ⟨named hk, by simp [HalfOp.m4, lo, hhi, hi]⟩

/-- The opcode and M4 field of a half that obeys its type rules name it (R85, R93). -/
theorem HalfOp.parse_fields {o : HalfOp} (h : o.check = .ok ()) : HalfOp.parse o.po o.m4 = .ok o := by
  cases o with
  | nop | cvt m => rfl
  | si s t =>
    obtain ⟨ht, -⟩ : t.isInt = true ∧ _ := by simpa [HalfOp.check, need_eq_ok] using h
    simp only [HalfOp.po, HalfOp.m4, HalfOp.parse_si, BitVec.extractLsb'_append_eq_left, BitVec.extractLsb'_append_eq_right]
    simp [halfIntTy_of_isInt ht]
  | vi s t =>
    obtain ⟨ht, -⟩ : t.isInt32 = true ∧ _ := by simpa [HalfOp.check, need_eq_ok] using h
    simp only [HalfOp.po, HalfOp.m4, HalfOp.parse_vi]
    cases t with
    | i32 | n32 => rfl
    | _ => cases ht
  | vf s t r =>
    obtain ⟨⟨⟨ht, hsr⟩, hrna⟩, -⟩ : ((t.isFloat = true ∧ r ≠ .sr) ∧ r ≠ .rna) ∧ _ := by simpa [HalfOp.check, need_eq_ok] using h
    exact (HalfOp.parse_vf s _).trans (halfFloat_map ht hsr hrna)
  | sf s t r =>
    obtain ⟨⟨⟨ht, hsr⟩, hrna⟩, -⟩ : ((t.isFloat = true ∧ r ≠ .sr) ∧ r ≠ .rna) ∧ _ := by simpa [HalfOp.check, need_eq_ok] using h
    exact (HalfOp.parse_sf s _).trans (halfFloat_map ht hsr hrna)
  | scaleb t r =>
    obtain ⟨⟨ht, hsr⟩, hrna⟩ : (t.isFloat = true ∧ r ≠ .sr) ∧ r ≠ .rna := by simpa [HalfOp.check, need_eq_ok] using h
    exact halfFloat_map (c := .scaleb) ht hsr hrna
  | shfl d lg =>
    clear h
    revert d lg
    decide
  | vote m =>
    clear h
    revert m
    decide

/-! ## Halves (spec/03 R82) -/

theorem Half.bits_eq_iff {x : Half} {b : BitVec 27} : x.bits = b ↔
    x.op.po = b.extractLsb' 20 7 ∧ x.d.code = b.extractLsb' 12 8 ∧ x.s.code = b.extractLsb' 4 8 ∧ x.op.m4 = b.extractLsb' 0 4 := by
  simp [Half.bits, and_assoc]

theorem Half.bits_of_parse {b : BitVec 27} {x : Half} (h : Half.parse b = .ok x) : x.bits = b := by
  simp only [Half.parse, bind_eq_ok_iff, Except.ok.injEq] at h
  obtain ⟨o, ho, -, -, d, hd, src, hsrc, rfl⟩ := h
  obtain ⟨hpo, hm4⟩ := HalfOp.fields_of_parse ho
  exact Half.bits_eq_iff.mpr ⟨hpo, Opnd.code_of_parse hd, Opnd.code_of_parse hsrc, hm4⟩

/-- What the rules of a half say of its fields (R82, R83). -/
theorem Half.fits_of_check {x : Half} (h : x.check = .ok ()) :
    x.op.pairs = true ∧ x.op.check = .ok () ∧ x.d.fits x.op.dstClasses = true ∧ x.s.fits x.op.srcField = true := by
  obtain ⟨op, d, src⟩ := x
  by_cases hnop : op = .nop
  · subst hnop
    obtain ⟨rfl, rfl⟩ : d = .none ∧ src = .none := by simpa [Half.check, need_eq_ok] using h
    exact ⟨rfl, rfl, rfl, rfl⟩
  · unfold Half.check at h
    split at h
    · exact absurd (by assumption) hnop
    · simp only [bind_eq_ok, need_eq_ok] at h
      obtain ⟨hpairs, hop, h⟩ := h
      cases hf : formOf op.opc with
      | none => simp [hf] at h
      | some f =>
        simp only [hf, bind_eq_ok, need_eq_ok] at h
        obtain ⟨hd, hsrc, -⟩ := h
        refine ⟨hpairs, hop, ?_, ?_⟩
        · simp [HalfOp.dstClasses, Opnd.fits, hf, List.contains_iff_mem.mp hd]
        · simp [HalfOp.srcField, Opnd.fits, List.contains_iff_mem.mp hsrc]

theorem HalfOp.opc_lt (o : HalfOp) : o.opc < 1024 := by
  cases o with
  | si o _ => change 0x040 + o.ctorIdx < 1024; cases o <;> decide
  | vi o _ => change 0x060 + o.ctorIdx < 1024; cases o <;> decide
  | vf o _ _ => change 0x080 + o.ctorIdx < 1024; cases o <;> decide
  | sf o _ _ => change 0x0A0 + o.ctorIdx < 1024; cases o <;> decide
  | _ => simp [HalfOp.opc]

theorem zeroClear_halfClasses {cs : List Cls} (h : zeroClear cs = true) : zeroClear (halfClasses cs) = true :=
  zeroClear_of_subset (List.filter_subset_self cs) h

theorem HalfOp.dstClasses_zeroClear (o : HalfOp) : zeroClear o.dstClasses = true := by
  unfold HalfOp.dstClasses
  split
  · rfl
  · next f _ hf => exact zeroClear_halfClasses (formOf_zeroClear (HalfOp.opc_lt _) hf).1
  · rfl

theorem HalfOp.srcField_zeroClear (o : HalfOp) : zeroClear o.srcField = true := by
  unfold HalfOp.srcField HalfOp.srcClasses
  split
  · rfl
  · split
    · next f hf =>
      obtain ⟨-, ha, hb⟩ := formOf_zeroClear o.opc_lt hf
      exact zeroClear_halfClasses (by split <;> assumption)
    · rfl

theorem Half.parse_bits {x : Half} (h : x.check = .ok ()) : Half.parse x.bits = .ok x := by
  obtain ⟨hpairs, hop, hd, hsrc⟩ := Half.fits_of_check h
  obtain ⟨hpo, hdc, hsc, hm4⟩ := Half.bits_eq_iff.mp (rfl : x.bits = x.bits)
  simp only [Half.parse, bind_eq_ok_iff, ← hpo, ← hdc, ← hsc, ← hm4]
  exact ⟨x.op, HalfOp.parse_fields hop, (), need_eq_ok.mpr hpairs, x.d, Opnd.parse_code x.op.dstClasses_zeroClear hd,
    x.s, Opnd.parse_code x.op.srcField_zeroClear hsrc, rfl⟩

/-! ## Words (spec/03 R69, R72, R79) -/

/-- The fields of the word, but for its FORM, are those of the view. -/
structure WordView.FieldsOf (v : WordView) (w : Word) : Prop where
  hdr : v.ops.h = Hdr.parse w
  opc : v.opc = (w.extractLsb' 44 10).toNat
  d : v.ops.d.code = w.extractLsb' 36 8
  a : v.ops.a.code = w.extractLsb' 28 8
  b : v.ops.b.code = w.extractLsb' 20 8
  mod : v.mod = w.extractLsb' 0 20

theorem Hdr.eq_parse_iff {h : Hdr} {w : Word} :
    h = Hdr.parse w ↔ h.stall = w.extractLsb' 59 3 ∧ h.neg = w.getLsbD 58 ∧ h.pred = w.extractLsb' 54 4 := by
  cases h
  simp [Hdr.parse]

theorem WordView.word_eq_iff {v : WordView} (hopc : v.opc < 1024) {w : Word} :
    v.word = w ↔ w.extractLsb' 62 2 = (if v.ops.x.isSome then 2#2 else 0#2) ∧ v.FieldsOf w := by
  have hnat : BitVec.ofNat 10 v.opc = w.extractLsb' 44 10 ↔ v.opc = (w.extractLsb' 44 10).toNat := by
    rw [← BitVec.toNat_inj, BitVec.toNat_ofNat, Nat.mod_eq_of_lt hopc]
  have hparts : v.word = w ↔ (if v.ops.x.isSome then 2#2 else 0#2) = w.extractLsb' 62 2 ∧ v.ops.h.stall = w.extractLsb' 59 3
      ∧ v.ops.h.neg = w.getLsbD 58 ∧ v.ops.h.pred = w.extractLsb' 54 4 ∧ BitVec.ofNat 10 v.opc = w.extractLsb' 44 10
      ∧ v.ops.d.code = w.extractLsb' 36 8 ∧ v.ops.a.code = w.extractLsb' 28 8 ∧ v.ops.b.code = w.extractLsb' 20 8
      ∧ v.mod = w.extractLsb' 0 20 := by
    simp [WordView.word, and_assoc]
  rw [hparts, hnat]
  constructor
  · rintro ⟨hform, hstall, hneg, hpred, hopc, hd, ha, hb, hmod⟩
    exact ⟨hform.symm, Hdr.eq_parse_iff.mpr ⟨hstall, hneg, hpred⟩, hopc, hd, ha, hb, hmod⟩
  · rintro ⟨hform, hhdr, hopc, hd, ha, hb, hmod⟩
    obtain ⟨hstall, hneg, hpred⟩ := Hdr.eq_parse_iff.mp hhdr
    exact ⟨hform.symm, hstall, hneg, hpred, hopc, hd, ha, hb, hmod⟩

theorem pairedWord_eq_iff {h : Hdr} {hi lo : BitVec 27} {w : Word} :
    1#2 ++ h.stall ++ bit1 h.neg ++ h.pred ++ hi ++ lo = w
      ↔ w.extractLsb' 62 2 = 1#2 ∧ h = Hdr.parse w ∧ hi = w.extractLsb' 27 27 ∧ lo = w.extractLsb' 0 27 := by
  rw [Hdr.eq_parse_iff, eq_comm (b := 1#2)]
  simp [and_assoc]

/-! ## The rules of a word -/

theorem Instr.wf_iff {i : Instr} : i.wf = true ↔ i.check = .ok () := by
  unfold Instr.wf
  cases i.check <;> simp

theorem Instr.fits_of_check {i : Instr} {v : WordView} (hv : i.view = some v) (h : i.check = .ok ()) :
    ∃ f, formAt v.opc v.mod = some f ∧ v.ops.d.fits f.d = true ∧ v.ops.a.fits f.a = true ∧ v.ops.b.fits f.b = true := by
  unfold Instr.check at h
  split at h
  · cases hv
  · rw [hv] at h
    cases hf : formAt v.opc v.mod with
    | none => simp [hf] at h
    | some f =>
      simp only [hf, bind_eq_ok, Ops.check, need_eq_ok] at h
      obtain ⟨⟨-, hd, ha, hb, -⟩, -⟩ := h
      exact ⟨f, rfl, hd, ha, hb⟩

theorem formAt_zeroClear {opc : Nat} (hlt : opc < 1024) {mod : BitVec 20} {f : Form} (h : formAt opc mod = some f) :
    zeroClear f.d = true ∧ zeroClear f.a = true ∧ zeroClear f.b = true := by
  obtain ⟨g, hg, rfl⟩ := Option.map_eq_some_iff.mp h
  obtain ⟨hd, ha, hb⟩ := formOf_zeroClear hlt hg
  refine ⟨hd, ha, ?_⟩
  change zeroClear (if opc = 0x0E0 ∧ mod.extractLsb' 10 3 ≠ 0 then [] else g.b) = true
  split
  · rfl
  · exact hb

/-- A well-formed instruction is a paired word, or a full or wide one: events and illegal words break ENC-01. -/
theorem Instr.paired_or_view {i : Instr} (h : i.check = .ok ()) : (∃ hd hi lo, i = .pairedWord hd hi lo) ∨ ∃ v, i.view = some v := by
  unfold Instr.check at h
  split at h
  · exact .inl ⟨_, _, _, rfl⟩
  · cases hv : i.view with
    | none => simp [hv] at h
    | some v => exact .inr ⟨v, rfl⟩

/-! ## Decoding -/

theorem view_of_decodeFull {w : Word} {x : Option Word} {i : Instr} (h : decodeFull w x = .ok i) :
    ∃ v, i.view = some v ∧ v.ops.x = x ∧ v.FieldsOf w := by
  unfold decodeFull at h
  extract_lets opc mod at h
  cases hf : formAt opc mod with
  | none => simp [hf] at h
  | some f =>
    simp only [hf, bind_eq_ok_iff] at h
    obtain ⟨d, hd, a, ha, b, hb, h⟩ := h
    obtain ⟨g, hg, -⟩ := Option.map_eq_some_iff.mp hf
    exact ⟨_, view_of_build (w.extractLsb' 44 10).isLt hg h, rfl, rfl, rfl, Opnd.code_of_parse hd, Opnd.code_of_parse ha,
      Opnd.code_of_parse hb, rfl⟩

theorem decodeFull_of_view {i : Instr} {v : WordView} (hv : i.view = some v) (h : i.check = .ok ()) {w : Word} (hw : v.FieldsOf w) :
    decodeFull w v.ops.x = .ok i := by
  obtain ⟨f, hf, hd, ha, hb⟩ := Instr.fits_of_check hv h
  obtain ⟨cd, ca, cb⟩ := formAt_zeroClear (Instr.opc_lt hv) hf
  unfold decodeFull
  simp only [← hw.opc, ← hw.mod, ← hw.d, ← hw.a, ← hw.b, hf, bind_eq_ok_iff, ← hw.hdr]
  exact ⟨_, Opnd.parse_code cd hd, _, Opnd.parse_code ca ha, _, Opnd.parse_code cb hb, build_of_view hv⟩

theorem paired_of_decodePair {w : Word} {i : Instr} (h : decodePair w = .ok i) :
    ∃ hi lo, i = .pairedWord (Hdr.parse w) hi lo ∧ hi.bits = w.extractLsb' 27 27 ∧ lo.bits = w.extractLsb' 0 27 := by
  simp only [decodePair, bind_eq_ok_iff, Except.ok.injEq] at h
  obtain ⟨hi, hhi, lo, hlo, rfl⟩ := h
  exact ⟨hi, lo, rfl, Half.bits_of_parse hhi, Half.bits_of_parse hlo⟩

theorem decodePair_of_bits {hd : Hdr} {hi lo : Half} (hhi : hi.check = .ok ()) (hlo : lo.check = .ok ()) {w : Word}
    (hhd : hd = Hdr.parse w) (hbhi : hi.bits = w.extractLsb' 27 27) (hblo : lo.bits = w.extractLsb' 0 27) :
    decodePair w = .ok (.pairedWord hd hi lo) := by
  simp only [decodePair, bind_eq_ok_iff, ← hbhi, ← hblo, ← hhd]
  exact ⟨hi, Half.parse_bits hhi, lo, Half.parse_bits hlo, rfl⟩

section
variable {w : Word} (x : Word)

theorem decodeFields_full (h : w.extractLsb' 62 2 = 0#2) : decodeFields w x = decodeFull w none := by
  simp [decodeFields, h]

theorem decodeFields_paired (h : w.extractLsb' 62 2 = 1#2) : decodeFields w x = decodePair w := by
  simp [decodeFields, h]

theorem decodeFields_wide (h : w.extractLsb' 62 2 = 2#2) : decodeFields w x = decodeFull w (some x) := by
  simp [decodeFields, h]

end

theorem decode_eq_ok_iff {w x : Word} {i : Instr} : decode w x = .ok i ↔ decodeFields w x = .ok i ∧ i.check = .ok () := by
  constructor
  · intro h
    unfold decode at h
    split at h
    · cases h
    · split at h
      · cases h
        exact ⟨by assumption, by assumption⟩
      · cases h
  · rintro ⟨hd, hc⟩
    simp [decode, hd, hc]

theorem encode_of_view {i : Instr} {v : WordView} (h : i.view = some v) : encode i = v.word :: v.ops.x.toList := by
  unfold encode
  split
  · cases h
  · cases h
  · cases hx : v.ops.x <;> simp [h, hx]

theorem encode_of_decodeFull {w : Word} {x : Option Word} {i : Instr} (h : decodeFull w x = .ok i)
    (hform : w.extractLsb' 62 2 = if x.isSome then 2#2 else 0#2) : encode i = w :: x.toList := by
  obtain ⟨v, hv, rfl, hw⟩ := view_of_decodeFull h
  rw [encode_of_view hv, (WordView.word_eq_iff (Instr.opc_lt hv)).mpr ⟨hform, hw⟩]

theorem encode_of_decodePair {w : Word} {i : Instr} (h : decodePair w = .ok i) (hform : w.extractLsb' 62 2 = 1#2) : encode i = [w] := by
  obtain ⟨hi, lo, rfl, hhi, hlo⟩ := paired_of_decodePair h
  exact congrArg (fun w => [w]) (pairedWord_eq_iff.mpr ⟨hform, rfl, hhi, hlo⟩)

/-- Words that decode are the words of the instruction they decode to (R69 to R93). -/
theorem encode_of_decode {w x : Word} {i : Instr} (h : decodeFields w x = .ok i) :
    encode i = if isWideWord w then [w, x] else [w] := by
  unfold decodeFields at h
  rcases ite_eq_ok h with ⟨hform, h⟩ | ⟨-, h⟩
  · rw [encode_of_decodeFull h hform, isWideWord, hform]
    rfl
  rcases ite_eq_ok h with ⟨hform, h⟩ | ⟨-, h⟩
  · rw [encode_of_decodePair h hform, isWideWord, hform]
    rfl
  · obtain ⟨hform, h⟩ := ite_error_eq_ok_iff.mp h
    rw [encode_of_decodeFull h hform, isWideWord, hform]
    rfl

/-- The words of a well-formed instruction decode to it (R69 to R93). -/
theorem decode_of_encode {i : Instr} (x : Word) (h : i.check = .ok ()) :
    (∃ w, encode i = [w] ∧ isWideWord w = false ∧ decode w x = .ok i)
      ∨ (∃ w e, encode i = [w, e] ∧ isWideWord w = true ∧ decode w e = .ok i) := by
  rcases Instr.paired_or_view h with ⟨hd, hi, lo, rfl⟩ | ⟨v, hv⟩
  · obtain ⟨hhi, hlo, -⟩ := Instr.pairedWord_wf (Instr.wf_iff.mpr h)
    obtain ⟨hform, hhd, hbhi, hblo⟩ :=
      pairedWord_eq_iff.mp (rfl : 1#2 ++ hd.stall ++ bit1 hd.neg ++ hd.pred ++ hi.bits ++ lo.bits = _)
    refine .inl ⟨_, rfl, by rw [isWideWord, hform]; rfl, decode_eq_ok_iff.mpr ⟨?_, h⟩⟩
    rw [decodeFields_paired x hform, decodePair_of_bits hhi hlo hhd hbhi hblo]
  · obtain ⟨hform, hw⟩ := (WordView.word_eq_iff (Instr.opc_lt hv)).mp rfl
    have hfull := decodeFull_of_view hv h hw
    have henc := encode_of_view hv
    cases hx : v.ops.x with
    | none =>
      rw [hx] at hform hfull henc
      exact .inl ⟨_, henc, by rw [isWideWord, hform]; rfl, decode_eq_ok_iff.mpr ⟨(decodeFields_full x hform).trans hfull, h⟩⟩
    | some e =>
      rw [hx] at hform hfull henc
      exact .inr ⟨_, e, henc, by rw [isWideWord, hform]; rfl, decode_eq_ok_iff.mpr ⟨(decodeFields_wide e hform).trans hfull, h⟩⟩

/-- Settles O58: the encoder's words of a well-formed instruction decode to it, and words that decode are the encoder's words
of the instruction they decode to. -/
theorem decodeAndEncodeAgree : Obligations.DecodeAndEncodeAgree := by
  refine ⟨fun i x hwf => decode_of_encode x (Instr.wf_iff.mp hwf), fun w x i h => ?_⟩
  obtain ⟨hfields, hcheck⟩ := decode_eq_ok_iff.mp h
  exact ⟨Instr.wf_iff.mpr hcheck, encode_of_decode hfields⟩

/-- Settles O57: the decoder evaluated on each word. -/
theorem wordsDecodeAsEncoded : Obligations.WordsDecodeAsEncoded := by
  unfold Obligations.WordsDecodeAsEncoded
  exact ⟨rfl, rfl, rfl, rfl, rfl, rfl, rfl⟩

end Sys2Proof

namespace Sys2Proof

/-! ## The codes of a format, in order of magnitude (spec/04 R107) -/

namespace FFmt

/-- A format with a mantissa, and an exponent of two bits or more. -/
structure Proper (f : FFmt) : Prop where
  mbits : 0 < f.mbits
  ebits : 2 ≤ f.ebits

theorem proper_of_mem {f : FFmt} (h : f ∈ allFmts) : f.Proper := by
  have hall : ∀ f ∈ allFmts, 0 < f.mbits ∧ 2 ≤ f.ebits := by decide
  exact ⟨(hall f h).1, (hall f h).2⟩

/-- The mantissa that a code without sign stands for, the hidden bit included. -/
def sig (f : FFmt) (c : Nat) : Nat := c - (c / 2 ^ f.mbits - 1) * 2 ^ f.mbits

/-- The exponent of the last place of a code without sign. -/
def place (f : FFmt) (c : Nat) : Int := f.qmin + (c / 2 ^ f.mbits - 1 : Nat)

/-- The magnitude that a code without sign stands for. -/
def mag (f : FFmt) (c : Nat) : ℚ := f.sig c * 2 ^ f.place c

/-- A code with its sign, in the format's container. -/
def signed (f : FFmt) (s : Bool) (c : Nat) : Nat := 2 ^ f.pad * ((if s then f.signBit else 0) + c)

theorem signBit_eq (f : FFmt) : f.signBit = 2 ^ f.ebits * 2 ^ f.mbits := pow_add ..

theorem Proper.two_le {f : FFmt} (h : f.Proper) : 2 ≤ 2 ^ f.mbits := by
  calc 2 = 2 ^ 1 := rfl
    _ ≤ 2 ^ f.mbits := Nat.pow_le_pow_right (by decide) h.mbits

theorem Proper.four_mul_le {f : FFmt} (h : f.Proper) : 4 * 2 ^ f.mbits ≤ f.signBit := by
  rw [signBit_eq]
  exact Nat.mul_le_mul_right _ (Nat.pow_le_pow_right (by decide) h.ebits : 2 ^ 2 ≤ 2 ^ f.ebits)

/-- The greatest finite code and the special ones above it. -/
theorem maxCode_eq (f : FFmt) : f.maxCode = match f.sp with
    | .ieee => f.infCode - 1
    | .nanOnly => f.signBit - 2
    | .none => f.signBit - 1 := rfl

theorem infCode_eq (f : FFmt) : f.infCode = f.signBit - 2 ^ f.mbits := by
  rw [infCode, signBit_eq, Nat.sub_mul, one_mul]

theorem Proper.infCode_lt {f : FFmt} (h : f.Proper) : f.infCode < f.signBit := by
  have := h.two_le
  have := h.four_mul_le
  rw [infCode_eq]; omega

theorem Proper.maxCode_lt {f : FFmt} (h : f.Proper) : f.maxCode < f.signBit := by
  have := h.two_le
  have := h.four_mul_le
  have := h.infCode_lt
  rw [maxCode_eq]; split <;> omega

theorem Proper.le_maxCode {f : FFmt} (h : f.Proper) : 2 ^ f.mbits ≤ f.maxCode := by
  have := h.two_le
  have := h.four_mul_le
  rw [maxCode_eq, infCode_eq]; split <;> omega

theorem Proper.nanCode_lt {f : FFmt} (h : f.Proper) : f.nanCode < f.signBit := by
  have := h.two_le
  have := h.four_mul_le
  have hhalf : 2 ^ (f.mbits - 1) < 2 ^ f.mbits := Nat.pow_lt_pow_right (by decide) (by have := h.mbits; omega)
  have hinf := f.infCode_eq
  unfold nanCode
  split
  · omega
  · rw [show 2 ^ (f.ebits + f.mbits) = f.signBit from rfl]; omega
  · omega

/-- `mag` is the magnitude of the model's codes. -/
theorem mag_magCode {f : FFmt} {k : Nat} {q : Int} (hq : f.qmin ≤ q) (hlo : q = f.qmin ∨ 2 ^ f.mbits ≤ k) (hhi : k ≤ 2 * 2 ^ f.mbits) :
    f.mag (FVal.magCode f k q) = k * 2 ^ q := by
  obtain ⟨n, rfl⟩ := Int.le.dest hq
  have hP : 0 < 2 ^ f.mbits := by positivity
  have hcode : FVal.magCode f k (f.qmin + n) = n * 2 ^ f.mbits + k := by simp [FVal.magCode]
  have hdiv : (n * 2 ^ f.mbits + k) / 2 ^ f.mbits = n + k / 2 ^ f.mbits := by
    rw [Nat.add_comm, Nat.add_mul_div_right _ _ hP, Nat.add_comm]
  rw [hcode, mag, sig, place, hdiv]
  rcases Nat.lt_or_ge k (2 ^ f.mbits) with hk | hk
  · obtain rfl : n = 0 := by omega
    simp [Nat.div_eq_of_lt hk]
  · rcases Nat.lt_or_ge k (2 * 2 ^ f.mbits) with hk2 | hk2
    · have h1 : k / 2 ^ f.mbits = 1 := by
        rw [Nat.div_eq_iff hP]; omega
      simp [h1]
    · obtain rfl : k = 2 * 2 ^ f.mbits := le_antisymm hhi hk2
      have h2 : n * 2 ^ f.mbits + 2 * 2 ^ f.mbits - (n + 1) * 2 ^ f.mbits = 2 ^ f.mbits := by
        rw [Nat.add_mul]; omega
      have hplace : f.qmin + ((n + 1 : Nat) : Int) = f.qmin + n + 1 := by push_cast; ring
      rw [Nat.mul_div_cancel _ hP, show n + 2 - 1 = n + 1 from rfl, h2, hplace, zpow_add_one₀ (by norm_num)]
      push_cast
      ring

theorem magCode_sig (f : FFmt) (c : Nat) : FVal.magCode f (f.sig c) (f.place c) = c := by
  have hle : (c / 2 ^ f.mbits - 1) * 2 ^ f.mbits ≤ c :=
    (Nat.mul_le_mul_right _ (Nat.sub_le _ _)).trans (Nat.div_mul_le_self _ _)
  simp only [FVal.magCode, sig, place, add_sub_cancel_left, Int.toNat_natCast]
  omega

theorem qmin_le_place (f : FFmt) (c : Nat) : f.qmin ≤ f.place c := by
  simp [place]

/-- A code's mantissa holds at most one bit more than the format's, and has its hidden bit but for subnormals. -/
theorem sig_range (f : FFmt) (c : Nat) :
    (f.place c = f.qmin ∨ 2 ^ f.mbits ≤ f.sig c) ∧ f.sig c < 2 * 2 ^ f.mbits := by
  have hP : 0 < 2 ^ f.mbits := by positivity
  have hmod := Nat.mod_lt c hP
  have hsplit := Nat.div_add_mod' c (2 ^ f.mbits)
  rcases Nat.eq_zero_or_pos (c / 2 ^ f.mbits) with h0 | h0
  · have : c < 2 ^ f.mbits := (Nat.div_eq_zero_iff_lt hP).mp h0
    simp only [place, sig, h0, Nat.zero_sub, Nat.cast_zero, add_zero, true_or, zero_mul, Nat.sub_zero, true_and]
    omega
  · obtain ⟨n, hn⟩ : ∃ n, c / 2 ^ f.mbits = n + 1 := ⟨_, (Nat.sub_add_cancel h0).symm⟩
    rw [hn, Nat.add_mul] at hsplit
    simp only [sig, hn, Nat.add_sub_cancel]
    omega

theorem mag_succ (f : FFmt) (c : Nat) : f.mag (c + 1) = (f.sig c + 1) * 2 ^ f.place c := by
  obtain ⟨hlo, hhi⟩ := f.sig_range c
  have hcode : FVal.magCode f (f.sig c + 1) (f.place c) = c + 1 := by
    rw [FVal.magCode, ← Nat.add_assoc]
    exact congrArg (· + 1) (f.magCode_sig c)
  rw [← hcode, mag_magCode (f.qmin_le_place c) (hlo.imp_right (by omega)) (by omega)]
  push_cast
  rfl

theorem mag_strictMono (f : FFmt) : StrictMono f.mag :=
  strictMono_nat_of_lt_succ fun c => by
    rw [mag_succ, mag]
    have : (0 : ℚ) < 2 ^ f.place c := by positivity
    nlinarith

@[simp] theorem mag_zero (f : FFmt) : f.mag 0 = 0 := by simp [mag, sig]

theorem mag_nonneg (f : FFmt) (c : Nat) : 0 ≤ f.mag c := by unfold mag; positivity

/-! ## The values of the codes -/

/-- The special codes above the greatest finite one (R107). -/
theorem decode_eq {f : FFmt} (h : f.Proper) (b : Nat) :
    let c := b / 2 ^ f.pad % f.signBit
    let s := b / 2 ^ f.pad / f.signBit % 2 == 1
    FVal.decode f b = if c ≤ f.maxCode then .fin s (f.sig c) (f.place c)
      else if f.sp = .ieee ∧ c = f.infCode then .inf s else .nan := by
  intro c s
  have hP : 0 < 2 ^ f.mbits := by positivity
  have hc : c < f.signBit := Nat.mod_lt _ (by have := h.four_mul_le; omega)
  have h4 := h.four_mul_le
  have h2 := h.two_le
  have hinf := f.infCode_eq
  have hsplit := Nat.div_add_mod' c (2 ^ f.mbits)
  have hmod := Nat.mod_lt c hP
  have hones : c / 2 ^ f.mbits = 2 ^ f.ebits - 1 ↔ f.infCode ≤ c := by
    have hlast : c < (2 ^ f.ebits - 1 + 1) * 2 ^ f.mbits := by
      rw [Nat.sub_add_cancel Nat.one_le_two_pow, ← signBit_eq]; exact hc
    have hle : c / 2 ^ f.mbits ≤ 2 ^ f.ebits - 1 := Nat.le_of_lt_succ ((Nat.div_lt_iff_lt_mul hP).mpr hlast)
    rw [infCode, ← Nat.le_div_iff_mul_le hP]
    omega
  have hfin : (if c / 2 ^ f.mbits = 0 then FVal.fin s (c % 2 ^ f.mbits) f.qmin
      else .fin s (c % 2 ^ f.mbits + 2 ^ f.mbits) (f.qmin + (c / 2 ^ f.mbits : Nat) - 1)) = .fin s (f.sig c) (f.place c) := by
    by_cases h0 : c / 2 ^ f.mbits = 0
    · have hc0 : c % 2 ^ f.mbits = c := by rw [h0] at hsplit; omega
      simp [h0, sig, place, hc0]
    · obtain ⟨n, hn⟩ := Nat.exists_eq_succ_of_ne_zero h0
      have hm : c % 2 ^ f.mbits + 2 ^ f.mbits = c - n * 2 ^ f.mbits := by
        rw [hn, Nat.succ_mul] at hsplit; omega
      have hq : f.qmin + ((n : Int) + 1) - 1 = f.qmin + n := by ring
      simp [hn, sig, place, hm, hq]
  show (if (f.sp == .ieee && c / 2 ^ f.mbits == 2 ^ f.ebits - 1) = true then (if c % 2 ^ f.mbits = 0 then FVal.inf s else .nan)
    else if (f.sp == .nanOnly && c == f.signBit - 1) = true then .nan
    else if c / 2 ^ f.mbits = 0 then .fin s (c % 2 ^ f.mbits) f.qmin
    else .fin s (c % 2 ^ f.mbits + 2 ^ f.mbits) (f.qmin + (c / 2 ^ f.mbits : Nat) - 1)) = _
  rw [hfin, maxCode_eq]
  cases hsp : f.sp with
  | ieee =>
    have hz : f.infCode ≤ c → (c % 2 ^ f.mbits = 0 ↔ c = f.infCode) := fun hle => by
      rw [hones.mpr hle] at hsplit
      rw [infCode]; omega
    by_cases hle : f.infCode ≤ c
    · simp [hones, hle, hz hle, show ¬ c ≤ f.infCode - 1 by omega]
    · simp [hones, hle, show c ≤ f.infCode - 1 by omega]
  | nanOnly =>
    by_cases hl : c = f.signBit - 1
    · simp [hl, show ¬ f.signBit - 1 ≤ f.signBit - 2 by omega]
    · simp [hl, show c ≤ f.signBit - 2 by omega]
  | none => simp [show c ≤ f.signBit - 1 by omega]

theorem signed_split {f : FFmt} {c : Nat} (hc : c < f.signBit) (s : Bool) :
    f.signed s c / 2 ^ f.pad % f.signBit = c ∧ (f.signed s c / 2 ^ f.pad / f.signBit % 2 == 1) = s := by
  have hpad : f.signed s c / 2 ^ f.pad = (if s then f.signBit else 0) + c := Nat.mul_div_cancel_left _ (by positivity)
  rw [hpad]
  cases s
  · simp [Nat.mod_eq_of_lt hc, Nat.div_eq_of_lt hc]
  · simp [Nat.mod_eq_of_lt hc, Nat.add_div_left c (by omega : 0 < f.signBit), Nat.div_eq_of_lt hc]

/-- What a code with its sign reads back as. -/
theorem decode_signed_eq {f : FFmt} (h : f.Proper) {c : Nat} (hc : c < f.signBit) (s : Bool) :
    FVal.decode f (f.signed s c) = if c ≤ f.maxCode then .fin s (f.sig c) (f.place c)
      else if f.sp = .ieee ∧ c = f.infCode then .inf s else .nan := by
  obtain ⟨hmag, hsgn⟩ := signed_split hc s
  rw [decode_eq h, hmag, hsgn]

theorem decode_signed {f : FFmt} (h : f.Proper) {c : Nat} (hc : c ≤ f.maxCode) (s : Bool) :
    FVal.decode f (f.signed s c) = .fin s (f.sig c) (f.place c) := by
  rw [decode_signed_eq h (hc.trans_lt h.maxCode_lt), if_pos hc]

theorem rat_signed {f : FFmt} (h : f.Proper) {c : Nat} (hc : c ≤ f.maxCode) (s : Bool) :
    f.rat (f.signed s c) = some ((if s then -1 else 1) * f.mag c) := by
  rw [FFmt.rat, decode_signed h hc]
  simp [FVal.rat, mag]

theorem greatest_eq {f : FFmt} (h : f.Proper) : f.greatest = f.mag f.maxCode := by
  have := rat_signed h le_rfl false
  simp only [signed, Bool.false_eq_true, if_false, zero_add, one_mul] at this
  rw [greatest, this]
  rfl

/-- Every finite value of a format is the magnitude of a finite code, with a sign. -/
theorem exists_code_of_rat {f : FFmt} (h : f.Proper) {b : Nat} {z : ℚ} (hz : f.rat b = some z) :
    ∃ c ≤ f.maxCode, |z| = f.mag c := by
  rw [FFmt.rat, decode_eq h] at hz
  split_ifs at hz with hfin
  · refine ⟨_, hfin, ?_⟩
    rw [← Option.some.inj hz, mul_assoc, abs_mul, ← mag, abs_of_nonneg (f.mag_nonneg _)]
    split_ifs <;> simp
  · cases hz
  · cases hz

end FFmt
end Sys2Proof

namespace Sys2Proof

/-! ## The neighbour that a mode names (spec/04 R116) -/

/-- Whether a mode takes the upper of two neighbouring magnitudes `lo` and `hi` of x, where `odd` says that the lower one is odd. -/
def RM.up (mode : RM) (neg odd : Bool) (lo x hi : ℚ) : Bool :=
  match mode with
  | .rne => decide (lo + hi < 2 * x) || (decide (2 * x = lo + hi) && odd)
  | .rna => decide (lo + hi ≤ 2 * x)
  | .rtz | .sr => false
  | .rdn => neg && decide (x ≠ lo)
  | .rup => !neg && decide (x ≠ lo)

/-- A value that is its own lower neighbour stays. -/
theorem RM.up_self (mode : RM) (neg odd : Bool) {lo hi : ℚ} (h : lo < hi) : mode.up neg odd lo lo hi = false := by
  cases mode <;> simp [RM.up] <;> grind

/-- What a mode takes depends on how x compares with its lower neighbour and with the middle. -/
theorem RM.up_congr (mode : RM) (neg odd : Bool) {lo x y hi : ℚ} (hlo : x = lo ↔ y = lo)
    (hlt : lo + hi < 2 * x ↔ lo + hi < 2 * y) (heq : 2 * x = lo + hi ↔ 2 * y = lo + hi) :
    mode.up neg odd lo x hi = mode.up neg odd lo y hi := by
  have hle : lo + hi ≤ 2 * x ↔ lo + hi ≤ 2 * y := by rw [le_iff_lt_or_eq, hlt, eq_comm, heq, eq_comm, ← le_iff_lt_or_eq]
  cases mode <;> simp [RM.up, hlo, hlt, heq, hle]

/-- The model's decision on the bits cut off is the one on the numbers. -/
theorem FVal.roundUp_eq (mode : RM) (neg : Bool) (m : Nat) (e : Int) (d : Nat) :
    FVal.roundUp mode neg (m / 2 ^ d) (m % 2 ^ d) d
      = mode.up neg (m / 2 ^ d % 2 == 1) ((m / 2 ^ d : Nat) * 2 ^ (e + d)) (m * 2 ^ e) (((m / 2 ^ d : Nat) + 1) * 2 ^ (e + d)) := by
  obtain ⟨k, hk⟩ : ∃ k, m / 2 ^ d = k := ⟨_, rfl⟩
  obtain ⟨r, hr⟩ : ∃ r, m % 2 ^ d = r := ⟨_, rfl⟩
  have hm : (m : ℚ) = k * 2 ^ d + r := by
    have := Nat.div_add_mod' m (2 ^ d)
    rw [hk, hr] at this
    exact_mod_cast this.symm
  have hu : (0 : ℚ) < 2 ^ e := by positivity
  have hsplit : (2 : ℚ) ^ (e + d) = 2 ^ d * 2 ^ e := by rw [zpow_add₀ (by norm_num), zpow_natCast, mul_comm]
  have hlt : (k : ℚ) * (2 ^ d * 2 ^ e) + (k + 1) * (2 ^ d * 2 ^ e) < 2 * (m * 2 ^ e) ↔ 2 ^ d < 2 * r := by
    rw [show (k : ℚ) * (2 ^ d * 2 ^ e) + (k + 1) * (2 ^ d * 2 ^ e) = (2 * (k * 2 ^ d) + 2 ^ d) * 2 ^ e by ring,
      show 2 * ((m : ℚ) * 2 ^ e) = (2 * (k * 2 ^ d) + 2 * r) * 2 ^ e by rw [hm]; ring, mul_lt_mul_iff_left₀ hu, add_lt_add_iff_left]
    exact_mod_cast Iff.rfl
  have heq : 2 * ((m : ℚ) * 2 ^ e) = k * (2 ^ d * 2 ^ e) + (k + 1) * (2 ^ d * 2 ^ e) ↔ 2 * r = 2 ^ d := by
    rw [show (k : ℚ) * (2 ^ d * 2 ^ e) + (k + 1) * (2 ^ d * 2 ^ e) = (2 * (k * 2 ^ d) + 2 ^ d) * 2 ^ e by ring,
      show 2 * ((m : ℚ) * 2 ^ e) = (2 * (k * 2 ^ d) + 2 * r) * 2 ^ e by rw [hm]; ring, mul_left_inj' hu.ne', add_right_inj]
    exact_mod_cast Iff.rfl
  have hlo : (m : ℚ) * 2 ^ e = k * (2 ^ d * 2 ^ e) ↔ r = 0 := by
    rw [← mul_assoc, mul_left_inj' hu.ne', hm, add_eq_left]
    exact_mod_cast Iff.rfl
  rw [hk, hr, hsplit]
  cases mode with
  | rne => simp [roundUp, RM.up, hlt, heq]; rfl
  | rna =>
    have hle : (k : ℚ) * (2 ^ d * 2 ^ e) + (k + 1) * (2 ^ d * 2 ^ e) ≤ 2 * (m * 2 ^ e) ↔ 2 ^ d ≤ 2 * r := by
      rw [le_iff_lt_or_eq, hlt, eq_comm, heq, eq_comm, ← le_iff_lt_or_eq]
    simp [roundUp, RM.up, hle]
  | rtz => rfl
  | sr => rfl
  | rdn => simp [roundUp, RM.up, hlo]
  | rup => simp [roundUp, RM.up, hlo]

/-- A magnitude lies between its mantissa cut by `d` bits and the next one. -/
theorem FVal.cut_bounds (m : Nat) (e : Int) (d : Nat) :
    (m / 2 ^ d : Nat) * (2 : ℚ) ^ (e + d) ≤ m * 2 ^ e ∧ (m : ℚ) * 2 ^ e < ((m / 2 ^ d : Nat) + 1) * 2 ^ (e + d) := by
  have hsplit : (2 : ℚ) ^ (e + d) = (2 ^ d : Nat) * 2 ^ e := by
    rw [zpow_add₀ (by norm_num), zpow_natCast, mul_comm]; push_cast; rfl
  have hu : (0 : ℚ) < 2 ^ e := by positivity
  rw [hsplit, ← mul_assoc, ← mul_assoc, mul_le_mul_iff_left₀ hu, mul_lt_mul_iff_left₀ hu, add_one_mul]
  exact ⟨by exact_mod_cast Nat.div_mul_le_self m (2 ^ d), by exact_mod_cast Nat.lt_div_mul_add (Nat.two_pow_pos d)⟩

namespace FFmt

/-- Of the codes without sign, and those that would follow the greatest, `c` is the one that a mode takes for the magnitude X. -/
def Takes (f : FFmt) (mode : RM) (neg : Bool) (X : ℚ) (c : Nat) : Prop :=
  ∃ a, f.mag a ≤ X ∧ X < f.mag (a + 1)
    ∧ c = if mode.up neg (a % 2 == 1) (f.mag a) X (f.mag (a + 1)) then a + 1 else a

section Takes

variable {f : FFmt} {mode : RM} {neg : Bool} {X : ℚ} {c : Nat}

theorem Takes.range (h : f.Takes mode neg X c) : ∃ a, f.mag a ≤ X ∧ X < f.mag (a + 1) ∧ (c = a ∨ c = a + 1) := by
  obtain ⟨a, hlo, hhi, rfl⟩ := h
  refine ⟨a, hlo, hhi, ?_⟩
  split_ifs
  · exact .inr rfl
  · exact .inl rfl

/-- A representable magnitude is taken unchanged. -/
theorem takes_mag (f : FFmt) (mode : RM) (neg : Bool) (a : Nat) : f.Takes mode neg (f.mag a) a := by
  have hlt := f.mag_strictMono (Nat.lt_succ_self a)
  exact ⟨a, le_rfl, hlt, by rw [RM.up_self _ _ _ hlt]; rfl⟩

theorem floor_unique {f : FFmt} {a b : Nat} {X : ℚ} (ha : f.mag a ≤ X) (ha' : X < f.mag (a + 1)) (hb : f.mag b ≤ X) (hb' : X < f.mag (b + 1)) :
    a = b := by
  have hab := f.mag_strictMono.lt_iff_lt.mp (ha.trans_lt hb')
  have hba := f.mag_strictMono.lt_iff_lt.mp (hb.trans_lt ha')
  omega

theorem Takes.unique {d : Nat} (h : f.Takes mode neg X c) (k : f.Takes mode neg X d) : c = d := by
  obtain ⟨a, ha, ha', rfl⟩ := h
  obtain ⟨b, hb, hb', rfl⟩ := k
  rw [floor_unique ha ha' hb hb']

/-- Another magnitude between the same neighbours, on the same side of the middle. -/
theorem Takes.congr {Y : ℚ} (h : f.Takes mode neg X c)
    (hY : ∀ a, f.mag a ≤ X → X < f.mag (a + 1) → f.mag a ≤ Y ∧ Y < f.mag (a + 1) ∧ (X = f.mag a ↔ Y = f.mag a)
      ∧ (f.mag a + f.mag (a + 1) < 2 * X ↔ f.mag a + f.mag (a + 1) < 2 * Y)
      ∧ (2 * X = f.mag a + f.mag (a + 1) ↔ 2 * Y = f.mag a + f.mag (a + 1))) : f.Takes mode neg Y c := by
  obtain ⟨a, hlo, hhi, rfl⟩ := h
  obtain ⟨hlo', hhi', heq, hmid, htie⟩ := hY a hlo hhi
  exact ⟨a, hlo', hhi', by rw [RM.up_congr mode neg _ heq hmid htie]⟩

/-- Within the finite range a mode takes a finite code. -/
theorem Takes.le_of_le {b : Nat} (h : f.Takes mode neg X c) (hX : X ≤ f.mag b) : c ≤ b := by
  obtain ⟨a, hlo, hhi, rfl⟩ := h
  have hab : a ≤ b := f.mag_strictMono.le_iff_le.mp (hlo.trans hX)
  rcases hab.eq_or_lt with rfl | hlt
  · rw [le_antisymm hX hlo, RM.up_self _ _ _ (f.mag_strictMono (Nat.lt_succ_self a))]
    exact le_rfl
  · split_ifs <;> omega

theorem Takes.ge_of_ge {b : Nat} (h : f.Takes mode neg X c) (hX : f.mag b ≤ X) : b ≤ c := by
  obtain ⟨a, hlo, hhi, hc⟩ := h.range
  have := f.mag_strictMono.lt_iff_lt.mp (hX.trans_lt hhi)
  omega

end Takes

/-! ## Rounding as the model does it -/

/-- A mantissa and the exponent of its last place name the code, and the next one the code that follows. -/
theorem takes_of_mantissa {f : FFmt} (h : f.Proper) (mode : RM) (neg : Bool) {k : Nat} {q : Int} {X : ℚ} (hq : f.qmin ≤ q)
    (hlo : q = f.qmin ∨ 2 ^ f.mbits ≤ k) (hhi : k < 2 * 2 ^ f.mbits) (hX : k * 2 ^ q ≤ X) (hX' : X < (k + 1) * 2 ^ q) :
    f.Takes mode neg X (FVal.magCode f (if mode.up neg (k % 2 == 1) (k * 2 ^ q) X ((k + 1) * 2 ^ q) then k + 1 else k) q) := by
  have hmag := mag_magCode hq hlo hhi.le
  have hsucc : FVal.magCode f (k + 1) q = FVal.magCode f k q + 1 := (Nat.add_assoc _ _ _).symm
  have hmag' : f.mag (FVal.magCode f k q + 1) = (k + 1) * 2 ^ q := by
    rw [← hsucc, mag_magCode hq (hlo.imp_right (by omega)) hhi]
    push_cast
    rfl
  have hodd : FVal.magCode f k q % 2 = k % 2 := by
    obtain ⟨n, hn⟩ : ∃ n, 2 ^ f.mbits = 2 * n := dvd_pow_self 2 h.mbits.ne'
    rw [FVal.magCode, hn, Nat.mul_left_comm, Nat.mul_add_mod]
  refine ⟨FVal.magCode f k q, hmag ▸ hX, hmag' ▸ hX', ?_⟩
  rw [hmag, hmag', hodd, ← hsucc]
  split_ifs <;> rfl

/-- What the last place of a magnitude keeps: the format's least one, or a full mantissa. -/
theorem lastPlace_range (f : FFmt) (m : Nat) (e : Int) :
    f.qmin ≤ FVal.lastPlace f m e ∧ m.log2 + e - f.mbits ≤ FVal.lastPlace f m e
      ∧ (FVal.lastPlace f m e = f.qmin ∨ m.log2 + e - f.mbits = FVal.lastPlace f m e) :=
  ⟨le_max_right _ _, le_max_left _ _, (max_choice _ _).symm.imp id Eq.symm⟩

/-- A magnitude that ends at or above its last place is representable but for its size. -/
theorem mag_of_lastPlace_le {f : FFmt} {m : Nat} {e : Int} (hm : m ≠ 0) (hle : FVal.lastPlace f m e ≤ e) :
    f.mag (FVal.magCode f (m * 2 ^ (e - FVal.lastPlace f m e).toNat) (FVal.lastPlace f m e)) = m * 2 ^ e := by
  obtain ⟨hqmin, hplace, hcases⟩ := f.lastPlace_range m e
  generalize FVal.lastPlace f m e = q at *
  obtain ⟨n, rfl⟩ := Int.le.dest hle
  have hk : m * 2 ^ n < 2 * 2 ^ f.mbits := calc
    m * 2 ^ n < 2 ^ (m.log2 + 1) * 2 ^ n := Nat.mul_lt_mul_of_pos_right Nat.lt_log2_self (by positivity)
    _ = 2 ^ (m.log2 + 1 + n) := (pow_add ..).symm
    _ ≤ 2 ^ (f.mbits + 1) := Nat.pow_le_pow_right (by decide) (by omega)
    _ = 2 * 2 ^ f.mbits := pow_succ' ..
  have hlo : q = f.qmin ∨ 2 ^ f.mbits ≤ m * 2 ^ n := hcases.imp_right fun heq => calc
    2 ^ f.mbits = 2 ^ m.log2 * 2 ^ n := by rw [← pow_add]; congr 1; omega
    _ ≤ m * 2 ^ n := Nat.mul_le_mul_right _ (Nat.log2_self_le hm)
  rw [add_sub_cancel_left, Int.toNat_natCast, mag_magCode hqmin hlo hk.le, zpow_add₀ (by norm_num), zpow_natCast]
  push_cast
  ring

/-- The code without sign of a finite magnitude: the one the mode takes, or what an overflow delivers (R116, R117). -/
theorem exists_takes_round {f : FFmt} (h : f.Proper) (mode : RM) (sat s : Bool) (m : Nat) (e : Int) :
    ∃ c, f.Takes mode s (m * 2 ^ e) c
      ∧ FVal.round f mode sat (.fin s m e) = f.signed s (if c ≤ f.maxCode then c else FVal.overflow f mode s sat) := by
  rcases eq_or_ne m 0 with rfl | hm
  · exact ⟨0, by simpa using f.takes_mag mode s 0, by simp [FVal.round, signed]⟩
  have hround : FVal.round f mode sat (.fin s m e) = f.signed s
      (let q := FVal.lastPlace f m e
      let c := if q ≤ e then FVal.magCode f (m * 2 ^ (e - q).toNat) q
        else FVal.magCode f (if FVal.roundUp mode s (m / 2 ^ (q - e).toNat) (m % 2 ^ (q - e).toNat) (q - e).toNat
          then m / 2 ^ (q - e).toNat + 1 else m / 2 ^ (q - e).toNat) q
      if c ≤ f.maxCode then c else FVal.overflow f mode s sat) := by
    simp only [FVal.round, signed, if_neg hm]
  refine ⟨_, ?_, hround⟩
  rcases le_or_gt (FVal.lastPlace f m e) e with hle | hlt
  · rw [if_pos hle, ← mag_of_lastPlace_le hm hle]
    exact f.takes_mag mode s _
  · obtain ⟨hqmin, hplace, hcases⟩ := f.lastPlace_range m e
    rw [if_neg (not_le.mpr hlt)]
    generalize FVal.lastPlace f m e = q at *
    obtain ⟨d, rfl⟩ := Int.le.dest hlt.le
    have hk : m / 2 ^ d < 2 * 2 ^ f.mbits := by
      rw [Nat.div_lt_iff_lt_mul (by positivity), ← pow_succ', ← pow_add]
      exact Nat.lt_log2_self.trans_le (Nat.pow_le_pow_right (by decide) (by omega))
    have hlo : e + d = f.qmin ∨ 2 ^ f.mbits ≤ m / 2 ^ d := hcases.imp_right fun heq => by
      rw [Nat.le_div_iff_mul_le (by positivity), ← pow_add, show f.mbits + d = m.log2 by omega]
      exact Nat.log2_self_le hm
    obtain ⟨hX, hX'⟩ := FVal.cut_bounds m e d
    have htakes := takes_of_mantissa h mode s hqmin hlo hk hX hX'
    rw [← FVal.roundUp_eq] at htakes
    rw [add_sub_cancel_left, Int.toNat_natCast]
    exact htakes

/-! ## What the model rounds to is what the mode names (R116) -/

end FFmt

/-- Of the numbers that lie, in magnitude, not strictly between `lo` and `hi`, none suits a mode better than the neighbour it takes; on a
tie of RNE that neighbour is the even one. -/
theorem RM.up_best (mode : RM) {s odd up : Bool} {lo X hi v x z : ℚ} (h0 : 0 ≤ lo) (hlo : lo ≤ X) (hhi : X < hi)
    (hup : mode.up s odd lo X hi = up) (hv : v = (if s then -1 else 1) * if up then hi else lo) (hx : x = (if s then -1 else 1) * X)
    (hgap : |z| ≤ lo ∨ hi ≤ |z|) :
    match mode with
    | .rne => |v - x| ≤ |z - x| ∧ (z ≠ v → |z - x| = |v - x| → up = odd)
    | .rna => |v - x| ≤ |z - x| ∧ (|z - x| = |v - x| → |z| ≤ |v|)
    | .rtz | .sr => |v| ≤ |x| ∧ (|z| ≤ |x| → |z| ≤ |v|)
    | .rdn => v ≤ x ∧ (z ≤ x → z ≤ v)
    | .rup => x ≤ v ∧ (x ≤ z → v ≤ z) := by
  obtain ⟨Z, rfl⟩ : ∃ Z : ℚ, z = (if s then -1 else 1) * Z := ⟨(if s then -1 else 1) * z, by cases s <;> simp⟩
  have habs (a : ℚ) : |(if s then -1 else 1) * a| = |a| := by cases s <;> simp
  have hdist (a b : ℚ) : |(if s then -1 else 1) * a - (if s then -1 else 1) * b| = |a - b| := by rw [← mul_sub, habs]
  have hinj (a b : ℚ) : (if s then -1 else 1) * a = (if s then -1 else 1) * b ↔ a = b := by cases s <;> simp
  subst hv hx hup
  cases mode with
  | rne =>
    simp only [RM.up, hdist, habs, ne_eq, hinj] at hgap ⊢
    clear habs hdist hinj
    grind
  | rna =>
    simp only [RM.up, hdist, habs] at hgap ⊢
    clear habs hdist hinj
    grind
  | rtz =>
    simp only [RM.up, habs] at hgap ⊢
    clear habs hdist hinj
    grind
  | sr =>
    simp only [RM.up, habs] at hgap ⊢
    clear habs hdist hinj
    grind
  | rdn =>
    simp only [RM.up, habs] at hgap ⊢
    clear habs hdist hinj
    cases s <;> grind
  | rup =>
    simp only [RM.up, habs] at hgap ⊢
    clear habs hdist hinj
    cases s <;> grind

namespace FFmt

/-- The sign bit of a code and the padding of its container leave its parity alone. -/
theorem signed_parity {f : FFmt} (h : f.Proper) (s : Bool) (c : Nat) : f.signed s c / 2 ^ f.pad % 2 = c % 2 := by
  obtain ⟨n, hn⟩ : ∃ n, f.signBit = 2 * n := dvd_pow_self 2 (by have := h.ebits; omega)
  rw [signed, Nat.mul_div_cancel_left _ (by positivity), hn]
  cases s <;> simp

/-- The magnitude that a mode takes is the value that it names, of all finite ones. -/
theorem Takes.rounds {f : FFmt} (h : f.Proper) {mode : RM} {s : Bool} {x : ℚ} {c : Nat} (ht : f.Takes mode s |x| c) (hc : c ≤ f.maxCode)
    (hneg : x < 0 → s = true) (hpos : 0 < x → s = false) : f.Rounds mode x (f.signed s c) := by
  refine ⟨_, rat_signed h hc s, fun hx => by rw [decode_signed h hc]; exact hneg hx, fun hx => by rw [decode_signed h hc]; exact hpos hx,
    fun b z hz => ?_⟩
  obtain ⟨a, hlo, hhi, hca⟩ := ht
  obtain ⟨c', -, habs⟩ := exists_code_of_rat h hz
  have hgap : |z| ≤ f.mag a ∨ f.mag (a + 1) ≤ |z| := by
    rw [habs, f.mag_strictMono.le_iff_le, f.mag_strictMono.le_iff_le]
    omega
  have hx : x = (if s then -1 else 1) * |x| := by
    rcases lt_trichotomy x 0 with hx | hx | hx
    · simp [hneg hx, abs_of_neg hx]
    · simp [hx]
    · simp [hpos hx, abs_of_pos hx]
  obtain ⟨up, hup⟩ : ∃ up, mode.up s (a % 2 == 1) (f.mag a) |x| (f.mag (a + 1)) = up := ⟨_, rfl⟩
  rw [hup] at hca
  have hmag : f.mag c = if up then f.mag (a + 1) else f.mag a := by rw [hca]; split_ifs <;> rfl
  have heven : up = (a % 2 == 1) → c % 2 = 0 := by
    rintro rfl
    rw [hca]
    split_ifs with hodd
    · have := beq_iff_eq.mp hodd; omega
    · have := mt beq_iff_eq.mpr hodd; omega
  have hbest := RM.up_best mode (f.mag_nonneg a) hlo hhi hup (congrArg _ hmag) hx hgap
  rw [signed_parity h]
  cases mode with
  | rne => exact ⟨hbest.1, fun hz htie => heven (hbest.2 hz htie)⟩
  | _ => exact hbest

end FFmt
end Sys2Proof

namespace Sys2Proof

theorem FVal.rat_fin (s : Bool) (m : Nat) (e : Int) : FVal.rat (.fin s m e) = some ((if s then -1 else 1) * ((m : ℚ) * 2 ^ e)) := by
  rw [FVal.rat, mul_assoc]

/-- The magnitude and the sign of a finite value. -/
theorem FVal.abs_of_rat {s : Bool} {m : Nat} {e : Int} {x : ℚ} (h : FVal.rat (.fin s m e) = some x) :
    |x| = m * 2 ^ e ∧ (x < 0 → s = true) ∧ (0 < x → s = false) := by
  have hnn : (0 : ℚ) ≤ m * 2 ^ e := by positivity
  rw [FVal.rat_fin] at h
  obtain rfl := Option.some.inj h
  cases s
  · simpa [abs_of_nonneg hnn] using hnn
  · simpa [abs_of_nonneg hnn] using hnn

theorem FVal.exists_fin_of_rat {v : FVal} {x : ℚ} (h : v.rat = some x) : ∃ s m e, v = .fin s m e := by
  cases v with
  | nan => cases h
  | inf s => cases h
  | fin s m e => exact ⟨s, m, e, rfl⟩

theorem FVal.mantissa_ne_zero {s : Bool} {m : Nat} {e : Int} {x : ℚ} (h : FVal.rat (.fin s m e) = some x) (hx : x ≠ 0) : m ≠ 0 := by
  rintro rfl
  obtain ⟨habs, -, -⟩ := FVal.abs_of_rat h
  exact hx (by simpa using habs)

namespace FFmt

/-- R116: of a value within the finite range, rounding picks the value that the mode names. -/
theorem rounds_round {f : FFmt} (h : f.Proper) (mode : RM) (sat : Bool) {s : Bool} {m : Nat} {e : Int} {x : ℚ}
    (hx : FVal.rat (.fin s m e) = some x) (hle : |x| ≤ f.greatest) : f.Rounds mode x (FVal.round f mode sat (.fin s m e)) := by
  obtain ⟨habs, hneg, hpos⟩ := FVal.abs_of_rat hx
  obtain ⟨c, htakes, hround⟩ := exists_takes_round h mode sat s m e
  rw [← habs] at htakes
  have hc : c ≤ f.maxCode := htakes.le_of_le (greatest_eq h ▸ hle)
  rw [hround, if_pos hc]
  exact htakes.rounds h hc hneg hpos

/-- The value that would follow the greatest one is at most twice as large. -/
theorem mag_succ_le_two_mul (f : FFmt) {c : Nat} (hc : 0 < c) : f.mag (c + 1) ≤ 2 * f.mag c := by
  have hpos : 0 < f.mag c := f.mag_zero ▸ f.mag_strictMono hc
  have hsig : f.sig c ≠ 0 := fun h0 => by simp [mag, h0] at hpos
  have hone : (1 : ℚ) ≤ f.sig c := by exact_mod_cast Nat.one_le_iff_ne_zero.mpr hsig
  calc f.mag (c + 1) = (f.sig c + 1) * 2 ^ f.place c := f.mag_succ c
    _ ≤ (2 * f.sig c) * 2 ^ f.place c := mul_le_mul_of_nonneg_right (by linarith) (by positivity)
    _ = 2 * f.mag c := by rw [mag, mul_assoc]

/-- R117: a value of at least twice the greatest one overflows. -/
theorem round_of_two_mul_greatest_le {f : FFmt} (h : f.Proper) (mode : RM) (sat : Bool) {s : Bool} {m : Nat} {e : Int} {x : ℚ}
    (hx : FVal.rat (.fin s m e) = some x) (hge : 2 * f.greatest ≤ |x|) :
    FVal.round f mode sat (.fin s m e) = f.signed s (FVal.overflow f mode s sat) := by
  obtain ⟨habs, -, -⟩ := FVal.abs_of_rat hx
  obtain ⟨c, htakes, hround⟩ := exists_takes_round h mode sat s m e
  have hpos : 0 < f.maxCode := (Nat.two_pow_pos _).trans_le h.le_maxCode
  have hmag : f.mag (f.maxCode + 1) ≤ m * 2 ^ e := (f.mag_succ_le_two_mul hpos).trans (by rw [← greatest_eq h, ← habs]; exact hge)
  rw [hround, if_neg (not_le.mpr (htakes.ge_of_ge hmag))]

end FFmt

theorem roundingPicksTheNamedNeighbour : Claim.RoundingPicksTheNamedNeighbour :=
  fun _ mode sat _ _ _ _ hf _ hx hle => FFmt.rounds_round (FFmt.proper_of_mem hf) mode sat hx hle

theorem roundingBeyondTheFormat : Claim.RoundingBeyondTheFormat := by
  intro f mode sat s m e x hf hx hge code toInf
  have hover : FVal.overflow f mode s sat = if toInf && !sat && f.sp == .ieee then f.infCode else f.maxCode := by
    by_cases hinf : sat = false ∧ f.sp = .ieee
    · obtain ⟨hsat, hsp⟩ := hinf
      simp only [FVal.overflow, toInf, hsat, hsp]
      cases mode <;> cases s <;> rfl
    · have hmax : sat = true ∨ f.sp ≠ .ieee := by
        rw [not_and_or] at hinf; simpa using hinf
      rcases hmax with hsat | hsp
      · simp [FVal.overflow, hsat]
      · simp [FVal.overflow, hsp]
  refine ⟨?_, rfl, rfl⟩
  rw [FFmt.round_of_two_mul_greatest_le (FFmt.proper_of_mem hf) mode sat hx hge, hover]
  rfl

/-- Settles O4: rounding takes a code next to the value, the codes run in the order of their values, and beyond the greatest one the
overflow rules apply. -/
theorem rounding : Obligations.Rounding := ⟨roundingPicksTheNamedNeighbour, roundingBeyondTheFormat⟩

end Sys2Proof

namespace Sys2Proof

open Sys2Proof.Machine

/-! ## Rounding to an integer (spec/04 R126, R130) -/

/-- Between two magnitudes one apart, a mode takes one within its distance of x. -/
theorem RM.up_near (mode : RM) {s odd up : Bool} {lo X v x : ℚ} (h0 : 0 ≤ lo) (hlo : lo ≤ X) (hhi : X < lo + 1)
    (hup : mode.up s odd lo X (lo + 1) = up) (hv : v = (if s then -1 else 1) * if up then lo + 1 else lo)
    (hx : x = (if s then -1 else 1) * X) :
    match mode with
    | .rne => 2 * |v - x| ≤ 1 ∧ (2 * |v - x| = 1 → up = odd)
    | .rna => 2 * |v - x| ≤ 1 ∧ (2 * |v - x| = 1 → |x| ≤ |v|)
    | .rtz | .sr => |v| ≤ |x| ∧ |x| < |v| + 1 ∧ 0 ≤ v * x
    | .rdn => v ≤ x ∧ x < v + 1
    | .rup => x ≤ v ∧ v < x + 1 := by
  have htoward : up = false → |v| ≤ |x| ∧ |x| < |v| + 1 ∧ 0 ≤ v * x := by
    rintro rfl
    have hX : 0 ≤ X := h0.trans hlo
    have hprod : 0 ≤ lo * X := mul_nonneg h0 hX
    subst hv hx
    cases s <;> simp [abs_of_nonneg h0, abs_of_nonneg hX, hlo, hhi, hprod]
  cases mode with
  | rne =>
    clear htoward
    subst hv hx hup
    simp only [RM.up]
    cases s <;> grind
  | rna =>
    clear htoward
    subst hv hx hup
    simp only [RM.up]
    cases s <;> grind
  | rtz => exact htoward hup.symm
  | sr => exact htoward hup.symm
  | rdn =>
    clear htoward
    subst hv hx hup
    simp only [RM.up]
    cases s <;> grind
  | rup =>
    clear htoward
    subst hv hx hup
    simp only [RM.up]
    cases s <;> grind

/-- Between two integers of the magnitude, the one a mode takes is the integer that it names. -/
theorem RM.roundsToInt_up (mode : RM) (s : Bool) {a : Nat} {X x : ℚ} {k : Int} (hlo : (a : ℚ) ≤ X) (hhi : X < a + 1)
    (hx : x = (if s then -1 else 1) * X)
    (hk : k = (if s then -1 else 1) * if mode.up s (a % 2 == 1) a X (a + 1) then (a : Int) + 1 else a) : RoundsToInt mode x k := by
  obtain ⟨up, hup⟩ : ∃ up, mode.up s (a % 2 == 1) a X (a + 1) = up := ⟨_, rfl⟩
  rw [hup] at hk
  have hkq : (k : ℚ) = (if s then -1 else 1) * if up then (a : ℚ) + 1 else a := by rw [hk]; push_cast; rfl
  have heven : up = (a % 2 == 1) → k % 2 = 0 := by
    rintro rfl
    have hmag : (if (a % 2 == 1) = true then (a : Int) + 1 else a) % 2 = 0 := by
      split_ifs with hodd
      · have := beq_iff_eq.mp hodd; omega
      · have := mt beq_iff_eq.mpr hodd; omega
    rw [hk]
    cases s <;> simp <;> omega
  have hnear := RM.up_near mode (Nat.cast_nonneg a) hlo hhi hup hkq hx
  cases mode with
  | rne => exact ⟨by linarith [hnear.1], fun htie => heven (hnear.2 (by linarith))⟩
  | rna => exact ⟨by linarith [hnear.1], fun htie => hnear.2 (by linarith)⟩
  | _ => exact hnear

theorem RoundsToInt.not_lt_of_toward_zero {x : ℚ} {k l : Int} (hk : RoundsToInt .rtz x k) (hl : RoundsToInt .rtz x l) : ¬ k < l := by
  obtain ⟨hk, hk', hkx⟩ := hk
  obtain ⟨hl, hl', hlx⟩ := hl
  have habs : |k| = |l| := by
    have h1 : |(k : ℚ)| < |(l : ℚ)| + 1 := hk.trans_lt hl'
    have h2 : |(l : ℚ)| < |(k : ℚ)| + 1 := hl.trans_lt hk'
    norm_cast at h1 h2
    omega
  rcases abs_eq_abs.mp habs with rfl | rfl
  · exact lt_irrefl _
  · intro hlt
    have hpos : (0 : ℚ) < l := by exact_mod_cast (by omega : 0 < l)
    have hx : x = 0 := by
      push_cast at hkx
      nlinarith
    rw [hx, abs_zero] at hl
    exact absurd hl (not_le.mpr (abs_pos.mpr hpos.ne'))

/-- No mode names two integers. -/
theorem RoundsToInt.not_lt {mode : RM} {x : ℚ} {k l : Int} (hk : RoundsToInt mode x k) (hl : RoundsToInt mode x l) : ¬ k < l := by
  intro hlt
  have hq : (k : ℚ) + 1 ≤ l := by exact_mod_cast hlt
  cases mode with
  | rne =>
    obtain ⟨hk, hk2⟩ := hk
    obtain ⟨hl, hl2⟩ := hl
    obtain ⟨hk', -⟩ := abs_le.mp hk
    obtain ⟨-, hl'⟩ := abs_le.mp hl
    have hkx : (k : ℚ) - x = -(1 / 2) := by linarith
    have hlx : (l : ℚ) - x = 1 / 2 := by linarith
    have hnext : l = k + 1 := by
      have : (l : ℚ) = k + 1 := by linarith
      exact_mod_cast this
    have := hk2 (by rw [hkx]; norm_num)
    have := hl2 (by rw [hlx]; norm_num)
    omega
  | rna =>
    obtain ⟨hk, hk2⟩ := hk
    obtain ⟨hl, hl2⟩ := hl
    obtain ⟨hk', -⟩ := abs_le.mp hk
    obtain ⟨-, hl'⟩ := abs_le.mp hl
    have hkx : (k : ℚ) - x = -(1 / 2) := by linarith
    have hlx : (l : ℚ) - x = 1 / 2 := by linarith
    have hxk := hk2 (by rw [hkx]; norm_num)
    have hxl := hl2 (by rw [hlx]; norm_num)
    rcases le_or_gt 0 k with h0 | h0
    · have h0q : (0 : ℚ) ≤ k := by exact_mod_cast h0
      rw [abs_of_nonneg h0q] at hxk
      linarith [le_abs_self x]
    · have h0q : (l : ℚ) ≤ 0 := by linarith [show (k : ℚ) + 1 ≤ 0 by exact_mod_cast h0]
      rw [abs_of_nonpos h0q] at hxl
      linarith [neg_le_abs x]
  | rtz => exact RoundsToInt.not_lt_of_toward_zero hk hl hlt
  | sr => exact RoundsToInt.not_lt_of_toward_zero hk hl hlt
  | rdn => exact absurd hl.1 (not_le.mpr (hk.2.trans_le hq))
  | rup => exact absurd hk.1 (not_le.mpr (by linarith [hl.2]))

theorem RoundsToInt.unique {mode : RM} {x : ℚ} {k l : Int} (hk : RoundsToInt mode x k) (hl : RoundsToInt mode x l) : k = l :=
  le_antisymm (Int.not_lt.mp (hl.not_lt hk)) (Int.not_lt.mp (hk.not_lt hl))

theorem RoundsToInt.self (mode : RM) (k : Int) : RoundsToInt mode k k := by
  cases mode <;> simp [RoundsToInt, mul_self_nonneg]

/-- R126, R130: the model rounds to the integer that the mode names. -/
theorem roundsToInt_roundInt (mode : RM) {s : Bool} {m : Nat} {e : Int} {x : ℚ} (hx : FVal.rat (.fin s m e) = some x) :
    RoundsToInt mode x (roundInt mode s m e) := by
  rw [FVal.rat_fin] at hx
  obtain rfl := Option.some.inj hx
  rcases le_or_gt 0 e with he | he
  · obtain ⟨n, rfl⟩ := Int.eq_ofNat_of_zero_le he
    have hself : (if s then -1 else 1) * ((m : ℚ) * 2 ^ (n : Int)) = (roundInt mode s m n : Int) := by
      cases s <;> simp [roundInt]
    rw [hself]
    exact RoundsToInt.self _ _
  · obtain ⟨d, hd⟩ := Int.le.dest he.le
    have hone : (2 : ℚ) ^ (e + d) = 1 := by rw [hd, zpow_zero]
    have hup := FVal.roundUp_eq mode s m e d
    obtain ⟨hlo, hhi⟩ := FVal.cut_bounds m e d
    rw [hone, mul_one] at hlo hhi
    rw [hone, mul_one, mul_one] at hup
    refine RM.roundsToInt_up mode s hlo hhi rfl ?_
    rw [← hup, roundInt, if_neg (not_le.mpr he), show (-e).toNat = d by omega]
    obtain ⟨up, hr⟩ : ∃ up, FVal.roundUp mode s (m / 2 ^ d) (m % 2 ^ d) d = up := ⟨_, rfl⟩
    simp only [hr]
    cases s <;> cases up <;> simp

end Sys2Proof

namespace Sys2Proof

open Sys2Proof.Machine

/-! ## What a conversion delivers (spec/04 R126) -/

theorem CTy.proper (df : CTy) : df.ffmt.Proper := by
  have hmem : df.ffmt ∈ allFmts := by cases df <;> decide
  exact FFmt.proper_of_mem hmem

theorem CTy.width_pos (df : CTy) : 0 < df.width := by cases df <;> decide

theorem CTy.least_le_greatest (df : CTy) : df.least ≤ df.greatest := by cases df <;> decide

/-- The integer that bits below the width stand for, `w` the place of the sign bit (R109). -/
theorem CTy.value_of_lt {df : CTy} (hf : df.isFloat = false) {w n : Nat} (hw : df.width = w + 1) (hn : n < 2 * 2 ^ w) :
    df.value n = .int (if df.signed ∧ 2 ^ w ≤ n then (n : Int) - 2 * 2 ^ w else n) := by
  have hmod : n % 2 ^ (w + 1) = n := Nat.mod_eq_of_lt (by rwa [pow_succ'])
  have htop : n.testBit w = decide (2 ^ w ≤ n) := by
    have hdiv : n / 2 ^ w < 2 := (Nat.div_lt_iff_lt_mul (Nat.two_pow_pos w)).mpr hn
    have hone : 1 ≤ n / 2 ^ w ↔ 2 ^ w ≤ n := by rw [Nat.le_div_iff_mul_le (Nat.two_pow_pos w), one_mul]
    rw [Nat.testBit_eq_decide_div_mod_eq]
    refine decide_eq_decide.mpr (Iff.trans ?_ hone)
    generalize n / 2 ^ w = q at hdiv
    omega
  simp only [CTy.value, hf, hw, hmod, htop, Nat.add_sub_cancel]
  simp [pow_succ']

/-- The low bits of an integer that the type holds stand for it. -/
theorem CTy.value_bits {df : CTy} (hf : df.isFloat = false) {i : Int} (hlo : df.least ≤ i) (hhi : i ≤ df.greatest) :
    df.value (i % 2 ^ df.width).toNat = .int i := by
  obtain ⟨w, hw⟩ : ∃ w, df.width = w + 1 := ⟨_, (Nat.sub_add_cancel df.width_pos).symm⟩
  obtain ⟨W, hW⟩ : ∃ W : Nat, 2 ^ w = W := ⟨_, rfl⟩
  have hWpos : 0 < W := hW ▸ Nat.two_pow_pos w
  have hWz : (2 : Int) ^ w = W := by rw [← hW]; push_cast; rfl
  obtain ⟨n, hn⟩ : ∃ n : Nat, i % (2 * W) = n := Int.eq_ofNat_of_zero_le (Int.emod_nonneg _ (by omega))
  have hlt := Int.emod_lt_of_pos i (b := 2 * W) (by omega)
  rw [CTy.least, hw, Nat.add_sub_cancel, hWz] at hlo
  rw [CTy.greatest, hw, Nat.add_sub_cancel, pow_succ', hWz] at hhi
  rw [hw, pow_succ', hWz, hn, Int.toNat_natCast, CTy.value_of_lt hf hw (by omega), hW, hWz, CVal.int.injEq]
  cases hs : df.signed
  · simp only [hs, Bool.false_eq_true, if_false, false_and] at hlo hhi ⊢
    rw [← hn, Int.emod_eq_of_lt hlo (by omega)]
  · simp only [hs, if_true, true_and] at hlo hhi ⊢
    rcases le_or_gt 0 i with h0 | h0
    · rw [Int.emod_eq_of_lt h0 (by omega)] at hn
      rw [if_neg (by omega), hn]
    · rw [← Int.add_emod_right, Int.emod_eq_of_lt (by omega) (by omega)] at hn
      rw [if_pos (by omega), ← hn, add_sub_cancel_right]

/-- What saturates lies within the type. -/
theorem CTy.value_clamped {df : CTy} (hf : df.isFloat = false) (i : Int) :
    df.value (max df.least (min df.greatest i) % 2 ^ df.width).toNat = .int (max df.least (min df.greatest i)) :=
  CTy.value_bits hf (le_max_left _ _) (max_le df.least_le_greatest (min_le_left _ _))

section Convert

variable {df : CTy} {rm : RM} (sat : Bool) (g : Word)

theorem convert_to_float (hf : df.isFloat = true) (hrm : rm ≠ .sr) (v : FVal) :
    convert df rm sat g (.flt v) = (FVal.round df.ffmt rm sat v, g) := by
  simp only [convert, hf, hrm, if_true, if_false]

theorem convert_int_to_float (hf : df.isFloat = true) (hrm : rm ≠ .sr) (i : Int) :
    convert df rm sat g (.int i) = (FVal.round df.ffmt rm sat (FVal.ofInt i), g) := by
  simp only [convert, hf, hrm, if_true, if_false]

theorem convert_nan_to_int (hf : df.isFloat = false) : convert df rm sat g (.flt .nan) = (0, g) := by
  simp only [convert, hf, Bool.false_eq_true, if_false]

theorem convert_inf_to_int (hf : df.isFloat = false) (p : Bool) :
    convert df rm sat g (.flt (.inf p)) = (((if p then df.least else df.greatest) % 2 ^ df.width).toNat, g) := by
  simp only [convert, hf, Bool.false_eq_true, if_false]

theorem convert_fin_to_int (hf : df.isFloat = false) (p : Bool) (m : Nat) (e : Int) :
    convert df rm sat g (.flt (.fin p m e)) = ((max df.least (min df.greatest (roundInt rm p m e)) % 2 ^ df.width).toNat, g) := by
  simp only [convert, hf, Bool.false_eq_true, if_false]

theorem convert_int_to_int (hf : df.isFloat = false) (i : Int) :
    convert df rm sat g (.int i) = (((if sat then max df.least (min df.greatest i) else i) % 2 ^ df.width).toNat, g) := by
  simp only [convert, hf, Bool.false_eq_true, if_false]

end Convert

theorem FVal.rat_ofInt (i : Int) : FVal.rat (FVal.ofInt i) = some (i : ℚ) := by
  have habs : (i.natAbs : ℚ) = |(i : ℚ)| := by rw [Nat.cast_natAbs, Int.cast_abs]
  rw [FVal.ofInt, FVal.rat_fin, zpow_zero, mul_one, habs]
  rcases lt_or_ge i 0 with hi | hi
  · have : (i : ℚ) < 0 := by exact_mod_cast hi
    simp [hi, abs_of_neg this]
  · have : (0 : ℚ) ≤ i := by exact_mod_cast hi
    simp [not_lt.mpr hi, abs_of_nonneg this]

theorem convertedValue : Claim.ConvertedValue := by
  intro df rm sat g hrm
  refine ⟨fun x => by rw [convert_of_not_sr hrm sat g x], fun hf => ⟨fun v => ?_, fun i hi => ?_⟩,
    fun hf => ⟨?_, fun p => ?_, ?_, ?_, ?_⟩⟩
  · rw [convert_to_float sat g hf hrm]
  · rw [convert_int_to_float sat g hf hrm]
    exact FFmt.rounds_round df.proper rm sat (FVal.rat_ofInt i) hi
  · rw [convert_nan_to_int sat g hf]
  · rw [convert_inf_to_int sat g hf]
    cases p
    · exact CTy.value_bits hf df.least_le_greatest le_rfl
    · exact CTy.value_bits hf le_rfl df.least_le_greatest
  · intro p m e x k hx hk
    rw [convert_fin_to_int sat g hf, (roundsToInt_roundInt rm hx).unique hk]
    exact CTy.value_clamped hf k
  · rintro i rfl
    rw [convert_int_to_int true g hf]
    exact CTy.value_clamped hf i
  · rintro i rfl
    rw [convert_int_to_int false g hf]
    exact Int.toNat_of_nonneg (Int.emod_nonneg _ (by positivity))

/-! ## Fields of a lane (spec/04 R125) -/

/-- The bits of a number whose bits from `lo`, `n` in all, are replaced by those of y. -/
theorem testBit_replace {lo n old y : Nat} (hy : y < 2 ^ n) (j : Nat) :
    (old / 2 ^ (lo + n) * 2 ^ (lo + n) + y * 2 ^ lo + old % 2 ^ lo).testBit j
      = if lo ≤ j ∧ j < lo + n then y.testBit (j - lo) else old.testBit j := by
  have hsplit : old / 2 ^ (lo + n) * 2 ^ (lo + n) + y * 2 ^ lo + old % 2 ^ lo
      = 2 ^ lo * (2 ^ n * (old / 2 ^ (lo + n)) + y) + old % 2 ^ lo := by rw [pow_add]; ring
  rw [hsplit, Nat.testBit_two_pow_mul_add _ (Nat.mod_lt _ (Nat.two_pow_pos lo)), Nat.testBit_two_pow_mul_add _ hy,
    Nat.testBit_mod_two_pow, Nat.testBit_div_two_pow]
  rcases lt_or_ge j lo with hj | hj
  · simp [hj, not_le.mpr hj]
  · rcases lt_or_ge j (lo + n) with hn | hn
    · simp [hj, hn, not_lt.mpr hj, show j - lo < n by omega]
    · simp [not_lt.mpr hj, not_lt.mpr hn, show ¬ j - lo < n by omega, show j - lo - n + (lo + n) = j by omega]

/-- The field of 2 to 16 bits that a position chooses (R125). -/
theorem writeField_narrow {w : Nat} (hw : w ≠ 32) (hw' : w ≠ 64) (p old : Nat) {y : Nat} (hy : y < 2 ^ w) :
    let lo := if w = 16 then 16 * p else 8 * p
    let n := if w = 16 then 16 else 8
    fieldLo w p = lo ∧ writeField w p old y = old / 2 ^ (lo + n) * 2 ^ (lo + n) + y * 2 ^ lo + old % 2 ^ lo := by
  have hlo : fieldLo w p = if w = 16 then 16 * p else 8 * p := by simp [fieldLo, hw, hw']
  simp only [writeField, hw, hw', or_self, if_false, hlo, Nat.mod_eq_of_lt hy, and_self]

theorem laneFieldsReadBack : Claim.LaneFieldsReadBack := by
  intro w p old y hcase hold hy lo n
  rcases eq_or_ne w 32 with rfl | h32
  · have hwrite : writeField 32 p old y = y := rfl
    rw [hwrite]
    refine ⟨by simpa [readField, fieldLo] using hy, hy, fun j => ?_⟩
    rcases lt_or_ge j 32 with hj | hj
    · simp [lo, hj]
    · have hyj : y.testBit j = false := Nat.testBit_lt_two_pow (hy.trans_le (Nat.pow_le_pow_right (by decide) hj))
      have holdj : old.testBit j = false := Nat.testBit_lt_two_pow (hold.trans_le (Nat.pow_le_pow_right (by decide) hj))
      simp [lo, n, not_lt.mpr hj, hyj, holdj]
  · have hwidth : w ≠ 64 ∧ w ≤ n ∧ lo + n ≤ 32 := by
      simp only [List.mem_cons, List.not_mem_nil, or_false] at hcase
      simp only [lo, n, h32, if_false]
      split_ifs <;> omega
    obtain ⟨h64, hwn, hlon⟩ := hwidth
    obtain ⟨hlo, hwrite⟩ := writeField_narrow h32 h64 p old hy
    have hlo' : fieldLo w p = lo := by simpa [lo, h32] using hlo
    have hwrite' : writeField w p old y = old / 2 ^ (lo + n) * 2 ^ (lo + n) + y * 2 ^ lo + old % 2 ^ lo := by
      simpa [lo, n, h32] using hwrite
    have hbits := testBit_replace (lo := lo) (old := old) (hy.trans_le (Nat.pow_le_pow_right (by decide) hwn))
    rw [readField, hlo', hwrite']
    refine ⟨?_, ?_, fun j => ?_⟩
    · refine Nat.eq_of_testBit_eq fun j => ?_
      rw [Nat.testBit_mod_two_pow, Nat.testBit_div_two_pow, hbits]
      rcases lt_or_ge j w with hj | hj
      · simp [hj, show j + lo < lo + n by omega]
      · simp [not_lt.mpr hj, Nat.testBit_lt_two_pow (hy.trans_le (Nat.pow_le_pow_right (by decide) hj))]
    · refine Nat.lt_pow_two_of_testBit _ fun j hj => ?_
      rw [hbits, if_neg (by omega)]
      exact Nat.testBit_lt_two_pow (hold.trans_le (Nat.pow_le_pow_right (by decide) hj))
    · rw [hbits]
      by_cases hfield : lo ≤ j ∧ j < lo + w
      · rw [if_pos hfield, if_pos (by omega)]
      · rw [if_neg hfield]
        split_ifs with hin
        · exact Nat.testBit_lt_two_pow (hy.trans_le (Nat.pow_le_pow_right (by decide) (by omega)))
        · rfl

end Sys2Proof

namespace Sys2Proof.Machine

/-! ## `CVT` lane by lane (spec/04 R120, R121, R126) -/

/-- The generator before each lane, the active lanes drawing in ascending plane. -/
def srgBefore (act : Mask) (g : Word) (f : Fin 32 → Word → Nat × Word) : Nat → Word
  | 0 => g
  | i + 1 => if act.getLsbD i then (f (Fin.ofNat 32 i) (srgBefore act g f i)).2 else srgBefore act g f i

theorem srgBefore_succ (act : Mask) (g : Word) (f : Fin 32 → Word → Nat × Word) (i : Fin 32) :
    srgBefore act g f (i.val + 1)
      = if act.getLsbD i.val then (f i (srgBefore act g f i.val)).2 else srgBefore act g f i.val := by
  rw [srgBefore, Fin.ofNat_val_eq_self]

/-- Each active lane takes the generator as the active lanes below it left it. -/
theorem foldLanes_eq (act : Mask) (g : Word) (f : Fin 32 → Word → Nat × Word) :
    foldLanes act g f = (activeVals act (fun i => (f i (srgBefore act g f i.val)).1), srgBefore act g f 32) := by
  have key (n : Nat) (hn : n ≤ 32) : ((List.finRange 32).take n).foldl (fun r i =>
        if act.getLsbD i.val then (r.1 ++ [(i.val, (f i r.2).1)], (f i r.2).2) else r) ([], g)
      = ((((List.finRange 32).take n).filter (fun i => act.getLsbD i.val)).map
          (fun i => (i.val, (f i (srgBefore act g f i.val)).1)), srgBefore act g f n) := by
    induction n with
    | zero => rfl
    | succ n ih =>
      have hget : (List.finRange 32)[n]'(by simpa using hn) = Fin.ofNat 32 n := by
        apply Fin.ext
        simp [Nat.mod_eq_of_lt hn]
      have hval : (Fin.ofNat 32 n).val = n := Nat.mod_eq_of_lt hn
      rw [List.take_succ_eq_append_getElem (by simpa using hn), hget, List.foldl_append, ih (by omega), List.filter_append,
        List.map_append, srgBefore, List.foldl_cons, List.foldl_nil, hval]
      by_cases hact : act.getLsbD n = true
      · rw [if_pos hact, if_pos hact, List.filter_cons_of_pos (by rw [hval]; exact hact), List.filter_nil, List.map_cons, List.map_nil, hval]
      · rw [if_neg hact, if_neg hact, List.filter_cons_of_neg (by rw [hval]; exact hact), List.filter_nil, List.map_nil, List.append_nil]
  have := key 32 le_rfl
  rwa [List.take_of_length_le (by simp)] at this

/-! ### What a converted slug holds -/

section Converted

variable (m : Slug) (n : Nat) (wide : Bool) (act : Mask) (y : Fin 32 → Nat) (g : Word)

theorem Slug.regsBut_srg : m.RegsBut { m with srg := g } [.srg] where
  g _ _ := rfl
  p _ _ := rfl
  v _ _ := rfl
  xa _ _ := rfl
  srg h := absurd (List.mem_singleton_self _) h

theorem Slug.restAs_srg (b : Bool) : m.RestAs { m with srg := g } b := ⟨rfl, by cases b <;> rfl⟩

theorem Slug.regsBut_writeWide (l : List (Nat × Nat)) :
    m.RegsBut (m.writeWide n wide act l) (.v n :: if wide then [.v (n + 1)] else []) := by
  cases wide
  · exact Slug.regsBut_writeV _ _ _ _
  · exact (Slug.regsBut_writeV _ _ _ _).append (Slug.regsBut_writeV _ _ _ _)

theorem Slug.restAs_writeWide (l : List (Nat × Nat)) (b : Bool) : m.RestAs (m.writeWide n wide act l) b := by
  cases wide
  · exact Slug.restAs_writeV _ _ _ _ _
  · exact (Slug.restAs_writeV _ _ _ _ _).trans (Slug.restAs_writeV _ _ _ _ _)

theorem Slug.slot_writeWide (l : List (Nat × Nat)) (b : Bool) : (m.writeWide n wide act l).slot b = m.slot b := by
  cases wide <;> simp [Slug.writeWide]

theorem Slug.regsBut_converted : m.RegsBut (m.converted n wide act y g) (.v n :: .srg :: if wide then [.v (n + 1)] else []) :=
  ((Slug.regsBut_writeWide m n wide act _).append (Slug.regsBut_srg _ g)).mono (by cases wide <;> simp)

theorem Slug.restAs_converted (b : Bool) : m.RestAs (m.converted n wide act y g) b :=
  (Slug.restAs_writeWide m n wide act _ b).trans (Slug.restAs_srg _ g b)

theorem Slug.slot_converted (b : Bool) : (m.converted n wide act y g).slot b = m.slot b :=
  (show _ = (m.writeWide n wide act (activeVals act y)).slot b by cases b <;> rfl).trans (Slug.slot_writeWide m n wide act _ b)

theorem Slug.readV_writeWide (l : List (Nat × Nat)) (i : Fin 32) :
    ((m.writeWide n wide act l).readV n)[i] = if act.getLsbD i.val then BitVec.ofNat 32 (laneOf l i) else (m.readV n)[i] := by
  cases wide <;> simp [Slug.writeWide, Slug.readV_writeV]

theorem Slug.readV_writeWide_succ (l : List (Nat × Nat)) (i : Fin 32) :
    ((m.writeWide n wide act l).readV (n + 1))[i]
      = if wide ∧ act.getLsbD i.val then BitVec.ofNat 32 (laneOf l i / 2 ^ 32) else (m.readV (n + 1))[i] := by
  cases wide <;> simp [Slug.writeWide, Slug.readV_writeV]

theorem Slug.readV_converted (k : Nat) :
    (m.converted n wide act y g).readV k = (m.writeWide n wide act (activeVals act y)).readV k := rfl

end Converted

/-- One lane of a `CVT` whose slug and operands are known: what it writes, and the generator after it. -/
def Ctx.cvtLane (c : Ctx) (w : Ops) (m : CnvMod) (df sf : CTy) (i : Fin 32) (g : Word) : Nat × Word :=
  Machine.cvtLane df sf m.rm m.sat (m.pos.extractLsb' 4 2).toNat (m.pos.extractLsb' 2 2).toNat g (c.m.srcC w sf w.a i)
    (c.m.readV w.d.num)[i].toNat

/-- `CVT` completes, and leaves its lanes converted, one drawing after the other. -/
theorem State.done_cvt {s : State} {w : Ops} {c : Ctx} (hc : s.ctx w.h = some c) {m : CnvMod} {df sf : CTy} {n : BitVec 7} (hd : w.d = .v n)
    (hdf : CTy.ofCode m.df = some df) (hsf : CTy.ofCode m.sf = some sf) :
    let gen := srgBefore c.act c.m.srg (c.cvtLane w m df sf)
    ∃ t, exec (.cvt w m) s = .next t
      ∧ s.Done t c c.nextPc (.v n.toNat :: .srg :: if df.width = 64 then [.v (n.toNat + 1)] else [])
      ∧ c.slugIn t = c.finish s.cyc c.nextPc (c.m.converted n.toNat (df.width == 64) c.act
          (fun i => (c.cvtLane w m df sf i (gen i.val)).1) (gen 32)) := by
  intro gen
  have hnum : w.d.num = n.toNat := by rw [hd]; rfl
  have hexec : exec (.cvt w m) s = .next ((s.modCur (fun u => u.converted n.toNat (df.width == 64) c.act
      (fun i => (c.cvtLane w m df sf i (gen i.val)).1) (gen 32))).retire c) := by
    show execCvt w m s = _
    rw [execCvt, vectorWord_eq hc]
    simp only [hdf, hsf, foldLanes_eq, ← hnum]
    rfl
  obtain ⟨hdone, hslug⟩ := State.done_of hc (fun u => u.converted n.toNat (df.width == 64) c.act
      (fun i => (c.cvtLane w m df sf i (gen i.val)).1) (gen 32)) c.nextPc _
    (Slug.regsBut_converted _ _ _ _ _ _) (Slug.restAs_converted _ _ _ _ _ _ _) (Slug.slot_converted _ _ _ _ _ _ _)
  simp only [beq_iff_eq] at hdone
  exact ⟨_, hexec, hdone, hslug⟩

end Sys2Proof.Machine

namespace Sys2Proof

open Sys2Proof.Machine

theorem convertInstructionResult : Claim.ConvertInstructionResult := by
  intro w m s c n df sf hc hd hdf hsf
  have hnum : w.d.num = n.toNat := by rw [hd]; rfl
  obtain ⟨t, hexec, hdone, hslug⟩ := State.done_cvt hc hd hdf hsf
  have hread (k : Nat) := (congrArg (·.readV k) hslug).trans ((Ctx.finish_readV _ _ _ _ _).trans (Slug.readV_converted _ _ _ _ _ _ _))
  refine ⟨t, srgBefore c.act c.m.srg (c.cvtLane w m df sf), hexec, hdone, rfl, ?_, fun i hi => ?_, fun i hi => ⟨?_, ?_, fun hw => ?_⟩,
    fun i hi => ⟨?_, ?_⟩⟩
  · rw [hslug]
    simp [Ctx.finish, Slug.converted]
  · rw [srgBefore_succ, if_neg (Bool.eq_false_iff.mp hi)]
  · rw [srgBefore_succ, if_pos hi]
    rfl
  · rw [hread, Slug.readV_writeWide, if_pos hi, laneOf_activeVals _ hi, ← hnum]
    rfl
  · rw [hread, Slug.readV_writeWide_succ, if_pos ⟨by simpa using hw, hi⟩, laneOf_activeVals _ hi]
    simp [Ctx.cvtLane, Machine.cvtLane, writeField, hw]
  · rw [hread, Slug.readV_writeWide, if_neg (Bool.eq_false_iff.mp hi)]
  · rw [hread, Slug.readV_writeWide_succ, if_neg fun h => Bool.eq_false_iff.mp hi h.2]

/-- Settles O7: `CVT` threads the generator through its lanes and writes their fields; the bits of a field are those written; a value
rounds as R116 says, an integer result lies within its type. -/
theorem conversionForms : Obligations.ConversionForms :=
  ⟨convertInstructionResult, laneFieldsReadBack, convertedValue⟩

end Sys2Proof

namespace Sys2Proof

open Sys2Proof.Machine

/-! ## Results fit their fields (spec/04 R116, R120, R125) -/

namespace FFmt

theorem signed_lt {f : FFmt} {c : Nat} (hc : c < f.signBit) (s : Bool) : f.signed s c < 2 ^ f.pad * (2 * f.signBit) :=
  Nat.mul_lt_mul_of_pos_left (by split_ifs <;> omega) (Nat.two_pow_pos _)

theorem overflow_lt {f : FFmt} (h : f.Proper) (mode : RM) (s sat : Bool) : FVal.overflow f mode s sat < f.signBit := by
  have hmax := h.maxCode_lt
  have hinf := h.infCode_lt
  unfold FVal.overflow
  split
  · exact hmax
  · cases mode <;> cases s <;> assumption

/-- Rounding gives a code of the format's width. -/
theorem round_lt {f : FFmt} (h : f.Proper) (mode : RM) (sat : Bool) (v : FVal) :
    FVal.round f mode sat v < 2 ^ f.pad * (2 * f.signBit) := by
  cases v with
  | nan =>
    have hnan : FVal.round f mode sat .nan = f.signed false f.nanCode := by simp [FVal.round, signed]
    rw [hnan]
    exact signed_lt h.nanCode_lt false
  | inf s => exact signed_lt (by split_ifs; exacts [h.infCode_lt, h.maxCode_lt]) s
  | fin s m e =>
    obtain ⟨c, -, hround⟩ := exists_takes_round h mode sat s m e
    rw [hround]
    refine signed_lt ?_ s
    split_ifs with hc
    · exact hc.trans_lt h.maxCode_lt
    · exact overflow_lt h mode s sat

/-- The greatest finite code from its mantissa and its last place. -/
theorem magCode_maxCode {f : FFmt} (h : f.Proper) :
    FVal.magCode f (f.maxCode % 2 ^ f.mbits + 2 ^ f.mbits) (f.qmin + (f.maxCode / 2 ^ f.mbits : Nat) - 1) = f.maxCode := by
  have hpos : 1 ≤ f.maxCode / 2 ^ f.mbits := (Nat.one_le_div_iff (Nat.two_pow_pos _)).mpr h.le_maxCode
  obtain ⟨n, hn⟩ := Nat.exists_eq_add_of_le' hpos
  have hsplit := Nat.div_add_mod' f.maxCode (2 ^ f.mbits)
  rw [hn, Nat.add_one_mul] at hsplit
  have hq : (f.qmin + ((n + 1 : Nat) : Int) - 1 - f.qmin).toNat = n := by omega
  rw [FVal.magCode, hn, hq]
  omega

/-- Stochastic rounding gives a code of the format's width. -/
theorem roundSR_lt {f : FFmt} (h : f.Proper) (sat : Bool) (g : Word) (v : FVal) :
    (FVal.roundSR f sat g v).1 < 2 ^ f.pad * (2 * f.signBit) := by
  cases v with
  | nan => exact round_lt h .sr sat .nan
  | inf s => exact round_lt h .sr sat (.inf s)
  | fin s m e =>
    have hmax := h.maxCode_lt
    obtain ⟨sgn, hsgn⟩ : ∃ sgn, (if s then f.signBit else 0) = sgn := ⟨_, rfl⟩
    obtain ⟨top, htop⟩ : ∃ top, (if (sat || f.sp != .ieee) = true then f.maxCode else f.infCode) = top := ⟨_, rfl⟩
    obtain ⟨q, hq⟩ : ∃ q, FVal.lastPlace f m e = q := ⟨_, rfl⟩
    obtain ⟨lo, hlo⟩ : ∃ lo, (if q ≤ e then m * 2 ^ (e - q).toNat else m / 2 ^ (q - e).toNat) = lo := ⟨_, rfl⟩
    obtain ⟨ex, hex⟩ : ∃ ex, (decide (q ≤ e) || m % 2 ^ (q - e).toNat == 0) = ex := ⟨_, rfl⟩
    have hsgn_le : sgn ≤ f.signBit := by rw [← hsgn]; split_ifs; exacts [le_rfl, Nat.zero_le _]
    have htop_lt : top < f.signBit := by rw [← htop]; split_ifs; exacts [hmax, h.infCode_lt]
    have hlt {c : Nat} (hc : c < f.signBit) : 2 ^ f.pad * (sgn + c) < 2 ^ f.pad * (2 * f.signBit) :=
      Nat.mul_lt_mul_of_pos_left (by omega) (Nat.two_pow_pos _)
    have hnext : FVal.magCode f (lo + 1) q = FVal.magCode f lo q + 1 := (Nat.add_assoc _ _ _).symm
    simp only [FVal.roundSR, hsgn, htop, hq, hlo, hex]
    cases hbig : decide (f.maxCode < FVal.magCode f lo q) || (FVal.magCode f lo q == f.maxCode && !ex) with
    | false =>
      have hle : FVal.magCode f lo q ≤ f.maxCode := by
        by_contra hgt
        simp [Nat.not_le.mp hgt] at hbig
      have hlt' : ex = false → FVal.magCode f lo q < f.maxCode := fun hinex =>
        lt_of_le_of_ne hle fun heq => by simp [heq, hinex] at hbig
      simp only [Bool.false_and, Bool.false_eq_true, if_false, hle, decide_true, Bool.and_true]
      split_ifs with h0 hexact hdraw
      · exact hlt (c := 0) (by omega)
      · exact hlt (by omega)
      · exact hlt (by have := hlt' (Bool.eq_false_iff.mpr hexact); omega)
      · exact hlt (by omega)
    | true =>
      simp only [Bool.true_and, if_true, magCode_maxCode h]
      split_ifs with h0 hexact hbeyond hdraw
      · exact hlt (c := 0) (by omega)
      · exact hlt (by have := of_decide_eq_true (Bool.and_eq_true_iff.mp hexact).2; omega)
      · exact hlt htop_lt
      · exact hlt htop_lt
      · exact hlt hmax

end FFmt
end Sys2Proof

namespace Sys2Proof

open Sys2Proof.Machine

/-- A conversion gives bits of the type's width. -/
theorem convert_lt (df : CTy) (rm : RM) (sat : Bool) (g : Word) (x : CVal) : (convert df rm sat g x).1 < 2 ^ df.width := by
  cases hf : df.isFloat with
  | true =>
    have hwidth : 2 ^ df.ffmt.pad * (2 * df.ffmt.signBit) = 2 ^ df.width := by
      revert hf; cases df <;> decide
    simp only [convert, hf, if_true]
    split_ifs
    · exact hwidth ▸ FFmt.roundSR_lt df.proper sat g _
    · exact hwidth ▸ FFmt.round_lt df.proper rm sat _
  | false =>
    have hbits (i : Int) : (i % 2 ^ df.width).toNat < 2 ^ df.width := by
      have hpos : (0 : Int) < 2 ^ df.width := by positivity
      have hlt := Int.emod_lt_of_pos i hpos
      have hcast : ((2 ^ df.width : Nat) : Int) = 2 ^ df.width := by push_cast; rfl
      have hnn := Int.emod_nonneg i hpos.ne'
      omega
    simp only [convert, hf, Bool.false_eq_true, if_false]
    split
    · exact Nat.two_pow_pos _
    · exact hbits _
    · exact hbits _
    · exact hbits _

/-! ## Lanes built from their elements (spec/04 R115) -/

/-- Elements of 16 bits, one above the other. -/
theorem ofNat_add_mul (lo hi : Nat) (hlo : lo < 2 ^ 16) :
    BitVec.ofNat 32 (lo + 2 ^ 16 * hi) = BitVec.ofNat 16 hi ++ BitVec.ofNat 16 lo := by
  refine BitVec.eq_of_toNat_eq ?_
  simp only [toNat_append_eq_add, BitVec.toNat_ofNat]
  omega

/-- The model's lane of elements is that of the statements, where an element of a packed type has 16 bits. -/
theorem ofNat_perElem {t : Ty} {F : FFmt → Nat → Nat → Nat} (hF : ∀ a b, t = .f16x2 ∨ t = .bf16x2 → F t.ffmt a b < 2 ^ 16) (x y : Lane) :
    BitVec.ofNat 32 (perElem t (fun k _ a b => F k a b) 0 x.toNat y.toNat) = eachElement t F x y := by
  have hlo (z : Lane) : (z.extractLsb' 0 16).toNat = z.toNat % 2 ^ 16 := by simp
  have hhi (z : Lane) : (z.extractLsb' 16 16).toNat = z.toNat / 2 ^ 16 % 2 ^ 16 := by simp [Nat.shiftRight_eq_div_pow]
  by_cases ht : t = .f16x2 ∨ t = .bf16x2
  · have hper : perElem t (fun k _ a b => F k a b) 0 x.toNat y.toNat = F t.ffmt (x.toNat % 2 ^ 16) (y.toNat % 2 ^ 16)
        + 2 ^ 16 * F t.ffmt (x.toNat / 2 ^ 16 % 2 ^ 16) (y.toNat / 2 ^ 16 % 2 ^ 16) := by
      rcases ht with rfl | rfl <;> rfl
    rw [hper, eachElement, if_pos ht, ofNat_add_mul _ _ (hF _ _ ht), hlo, hlo, hhi, hhi]
  · rw [eachElement, if_neg ht]
    unfold perElem
    split
    · exact absurd (.inl rfl) ht
    · exact absurd (.inr rfl) ht
    · rfl

theorem packed_facts {t : Ty} (ht : t = .f16x2 ∨ t = .bf16x2) :
    t.ffmt.Proper ∧ 2 ^ t.ffmt.pad * (2 * t.ffmt.signBit) = 2 ^ 16 ∧ t.ffmt.mbits ≠ 23 := by
  rcases ht with rfl | rfl
  · exact ⟨⟨by decide, by decide⟩, by decide, by decide⟩
  · exact ⟨⟨by decide, by decide⟩, by decide, by decide⟩

theorem scalebElem_lt {f : FFmt} (h : f.Proper) (rm : RM) (x n : Nat) : scalebElem rm f x n < 2 ^ f.pad * (2 * f.signBit) := by
  cases hx : FVal.decode f x <;> simp only [scalebElem, hx] <;> exact FFmt.round_lt h rm false _

theorem rintElem_lt {f : FFmt} (h : f.Proper) (rm : RM) (x : Nat) : rintElem rm f x < 2 ^ f.pad * (2 * f.signBit) := by
  cases hx : FVal.decode f x <;> simp only [rintElem, hx] <;> exact FFmt.round_lt h rm false _

theorem fclsElem_lt (f : FFmt) (x : Nat) : fclsElem f x < 2 ^ 16 := by
  unfold fclsElem
  split <;> split_ifs <;> decide

theorem getexpElem_lt {f : FFmt} (hf : f.mbits ≠ 23) (x : Nat) : getexpElem f x < 2 ^ 16 := by
  simp only [getexpElem, if_neg hf]
  split
  · split_ifs
    · decide
    · omega
  · decide

/-! ## `PACK` (spec/04 R127) -/

/-- Two fields of `n` bits side by side, written over a lane at bit `lo`. -/
theorem ofNat_packed {n lo y0 y1 : Nat} (old : Lane) (h0 : y0 < 2 ^ n) (h1 : y1 < 2 ^ n) :
    BitVec.ofNat 32 (old.toNat / 2 ^ (lo + 2 * n) * 2 ^ (lo + 2 * n) + (y0 + 2 ^ n * y1) * 2 ^ lo + old.toNat % 2 ^ lo)
      = (old &&& ~~~((BitVec.ofNat 32 (2 ^ (2 * n) - 1)) <<< lo))
        ||| (((BitVec.ofNat 32 y0 ||| (BitVec.ofNat 32 y1 <<< n)) <<< lo) &&& ((BitVec.ofNat 32 (2 ^ (2 * n) - 1)) <<< lo)) := by
  have hy : y0 + 2 ^ n * y1 < 2 ^ (2 * n) := by
    rw [two_mul, pow_add]
    nlinarith
  refine BitVec.eq_of_getLsbD_eq fun j hj => ?_
  have hpair (k : Nat) : (y0 + 2 ^ n * y1).testBit k = (y0.testBit k || (decide (n ≤ k) && y1.testBit (k - n))) := by
    rw [Nat.add_comm, Nat.testBit_two_pow_mul_add _ h0]
    rcases lt_or_ge k n with hk | hk
    · simp [hk, not_le.mpr hk]
    · simp [not_lt.mpr hk, hk, Nat.testBit_lt_two_pow (h0.trans_le (Nat.pow_le_pow_right (by decide) hk))]
  simp only [BitVec.getLsbD_ofNat, hj, decide_true, Bool.true_and, testBit_replace hy, BitVec.getLsbD_or, BitVec.getLsbD_and,
    BitVec.getLsbD_not, BitVec.getLsbD_shiftLeft, Nat.testBit_two_pow_sub_one, hpair]
  have hj1 : j - lo < 32 := by omega
  have hj2 : j - lo - n < 32 := by omega
  by_cases hin : lo ≤ j ∧ j < lo + 2 * n
  · obtain ⟨hlo, hhi⟩ := hin
    have hnot : (!decide (j - lo < n)) = decide (n ≤ j - lo) := by rw [← decide_not, decide_eq_decide]; omega
    simp [hlo, hhi, hj1, hj2, hnot, not_lt.mpr hlo, show j - lo < 2 * n by omega]
  · rw [if_neg hin, BitVec.testBit_toNat]
    rcases lt_or_ge j lo with hlo | hlo
    · simp [hlo]
    · simp [not_lt.mpr hlo, show ¬ j - lo < 2 * n by omega]

/-- An element function whose results fit the elements of the packed types. -/
def FitsHalf (F : FFmt → Nat → Nat → Nat) : Prop := ∀ (t : Ty) (a b : Nat), t = .f16x2 ∨ t = .bf16x2 → F t.ffmt a b < 2 ^ 16

theorem fitsHalf_of_lt {F : FFmt → Nat → Nat → Nat} (h : ∀ f a b, f.Proper → F f a b < 2 ^ f.pad * (2 * f.signBit)) : FitsHalf F :=
  fun _ a b ht => (packed_facts ht).2.1 ▸ h _ a b (packed_facts ht).1

theorem cnvTy_eq (df : BitVec 5) : cnvTy df = elementTy df := rfl

/-- The words of one source that act element by element (R130). -/
theorem elemWord_eq {F : FFmt → Nat → Nat} (hF : FitsHalf (fun f a _ => F f a)) {s : State} {w : Ops} {c : Ctx} (hc : s.ctx w.h = some c)
    (m : CnvMod) :
    elemWord F w m s = .next (s.finishV c w.d.num (fun i =>
      eachElement (elementTy m.df) (fun f x _ => F f x) (c.m.srcV w 0 (elementTy m.df) w.a i) 0)) := by
  refine (vectorWord_eq hc _).trans ?_
  simp only [cnvTy_eq]
  congr 2
  funext i
  exact ofNat_perElem (hF _) _ 0

theorem execScaleb_eq {s : State} {w : Ops} {c : Ctx} (hc : s.ctx w.h = some c) (m : CnvMod) :
    execScaleb w m s = .next (s.finishV c w.d.num (fun i =>
      eachElement (elementTy m.df) (fun f x k => scalebElem m.rm f x k) (c.m.srcV w 0 (elementTy m.df) w.a i)
        (c.m.srcExp w (elementTy m.df) w.b i))) := by
  refine (vectorWord_eq hc _).trans ?_
  simp only [cnvTy_eq, scalebLane]
  congr 2
  funext i
  exact ofNat_perElem (fitsHalf_of_lt (fun f a b hf => scalebElem_lt hf m.rm a b) _) _ _

theorem execPack_eq {s : State} {w : Ops} {c : Ctx} (hc : s.ctx w.h = some c) {m : CnvMod} {df sf : CTy}
    (hdf : CTy.ofCode m.df = some df) (hsf : CTy.ofCode m.sf = some sf) :
    execPack w m s = .next (s.finishV c w.d.num (fun i =>
      let k := (m.pos.extractLsb' 3 3).toNat
      let y (o : Opnd) : Lane := BitVec.ofNat 32 (convert df m.rm m.sat 0 (fieldVal sf 0 (c.m.srcC w sf o i))).1
      let hole : Lane := (BitVec.ofNat 32 (2 ^ (2 * df.width) - 1)) <<< (2 * df.width * k)
      ((c.m.readV w.d.num)[i] &&& ~~~hole)
        ||| (((y w.a ||| (y w.b <<< df.width)) <<< (2 * df.width * k)) &&& hole))) := by
  refine (vectorWord_eq hc _).trans ?_
  simp only [hdf, hsf]
  congr 2
  funext i
  exact ofNat_packed _ (convert_lt ..) (convert_lt ..)

theorem execUnpack_eq {s : State} {w : Ops} {c : Ctx} (hc : s.ctx w.h = some c) {m : CnvMod} {df sf : CTy}
    (hdf : CTy.ofCode m.df = some df) (hsf : CTy.ofCode m.sf = some sf) :
    execUnpack w m s = .next (s.finishV c w.d.num (fun i =>
      let e := (m.pos.extractLsb' 2 4).toNat
      let x := (c.m.srcV w 0 .n32 w.a i).toNat / 2 ^ (sf.width * e) % 2 ^ sf.width
      BitVec.ofNat 32 (convert df .rne false 0 (sf.value x)).1)) := by
  refine (vectorWord_eq hc _).trans ?_
  simp only [hdf, hsf]

theorem otherConversionsResult : Claim.OtherConversionsResult := by
  intro w m s c n hc hd writes t a z
  have hnum : w.d.num = n.toNat := by rw [hd]; rfl
  have hgives {i : Instr} {f : Fin 32 → Lane} (he : exec i s = .next (s.finishV c w.d.num f)) : writes i f :=
    State.givesV_of_exec hc (hnum ▸ he)
  refine ⟨fun df sf hdf hsf _ _ => ?_, fun df sf hdf hsf => hgives (execUnpack_eq hc hdf hsf), hgives (execScaleb_eq hc m), ?_, ?_, ?_,
    hgives (vectorWord_eq hc _)⟩
  · have hexec := execPack_eq hc hdf hsf
    rw [hnum] at hexec
    exact State.givesV_of_exec hc hexec
  · exact hgives (elemWord_eq (fitsHalf_of_lt (fun f x _ hf => rintElem_lt hf m.rm x)) hc m)
  · exact hgives (elemWord_eq (fun _ x _ _ => fclsElem_lt _ x) hc m)
  · exact hgives (elemWord_eq (fun _ x _ ht => getexpElem_lt (packed_facts ht).2.2 x) hc m)

end Sys2Proof

namespace Sys2Proof

open Sys2Proof.Machine

/-! ## The elements of the vector formats (spec/04 R115) -/

/-- What the three formats of the vector unit have in common. -/
theorem laneFmts_facts {f : FFmt} (h : f ∈ laneFmts) : f.Proper ∧ f.pad = 0 ∧ f.sp = .ieee
    ∧ f.mbits ≤ 23 ∧ f.ebits ≤ 8 ∧ -149 ≤ f.qmin ∧ f.qmin ≤ 0 := by
  have hmem : f ∈ allFmts := by
    have hsub : ∀ f ∈ laneFmts, f ∈ allFmts := by decide
    exact hsub f h
  have hall : ∀ f ∈ laneFmts, f.pad = 0 ∧ f.sp = .ieee
      ∧ f.mbits ≤ 23 ∧ f.ebits ≤ 8 ∧ -149 ≤ f.qmin ∧ f.qmin ≤ 0 := by decide
  exact ⟨FFmt.proper_of_mem hmem, hall f h⟩

namespace FFmt

theorem place_le {f : FFmt} {c : Nat} (hc : c < f.signBit) : f.place c ≤ f.qmin + 2 ^ f.ebits := by
  have hdiv : c / 2 ^ f.mbits < 2 ^ f.ebits := by
    rw [Nat.div_lt_iff_lt_mul (Nat.two_pow_pos _), ← signBit_eq]
    exact hc
  have hle : ((c / 2 ^ f.mbits - 1 : Nat) : Int) ≤ 2 ^ f.ebits := by exact_mod_cast (Nat.sub_le _ 1).trans hdiv.le
  rw [place]
  linarith

/-- A finite element's mantissa and exponent, and the code of its magnitude. -/
theorem exists_code_of_decode {f : FFmt} (h : f.Proper) {b m : Nat} {s : Bool} {e : Int} (hb : FVal.decode f b = .fin s m e) :
    m < 2 * 2 ^ f.mbits ∧ f.qmin ≤ e ∧ e ≤ f.qmin + 2 ^ f.ebits ∧ ∃ c ≤ f.maxCode, f.mag c = m * 2 ^ e := by
  rw [decode_eq h] at hb
  split_ifs at hb with hc
  obtain ⟨rfl, rfl, rfl⟩ := FVal.fin.inj hb
  exact ⟨(f.sig_range _).2, f.qmin_le_place _, place_le (hc.trans_lt h.maxCode_lt), _, hc, rfl⟩

theorem exists_fin_of_rat {f : FFmt} {x : Nat} {r : ℚ} (hx : f.rat x = some r) :
    ∃ s m e, FVal.decode f x = .fin s m e ∧ FVal.rat (.fin s m e) = some r := by
  obtain ⟨s, m, e, hd⟩ := FVal.exists_fin_of_rat hx
  exact ⟨s, m, e, hd, hd ▸ hx⟩

/-- An element without padding is a sign and a code. -/
theorem exists_signed {f : FFmt} (hpad : f.pad = 0) {x : Nat} (hx : x < 2 * f.signBit) :
    ∃ s c, c < f.signBit ∧ x = f.signed s c := by
  rcases lt_or_ge x f.signBit with hlt | hge
  · exact ⟨false, x, hlt, by simp [signed, hpad]⟩
  · exact ⟨true, x - f.signBit, by omega, by simp [signed, hpad]; omega⟩

end FFmt

/-! ## The exponent of a magnitude (spec/04 R130, R131) -/

theorem FVal.log2_bounds {m : Nat} (hm : m ≠ 0) (e : Int) :
    (2 : ℚ) ^ (m.log2 + e) ≤ m * 2 ^ e ∧ (m : ℚ) * 2 ^ e < 2 ^ (m.log2 + e + 1) := by
  have hu : (0 : ℚ) < 2 ^ e := by positivity
  have hsplit : (2 : ℚ) ^ (m.log2 + e + 1) = (2 ^ (m.log2 + 1) : Nat) * 2 ^ e := by
    rw [add_right_comm, zpow_add₀ (by norm_num)]; push_cast; norm_cast
  rw [hsplit, zpow_add₀ (by norm_num), zpow_natCast, mul_le_mul_iff_left₀ hu, mul_lt_mul_iff_left₀ hu]
  exact ⟨by exact_mod_cast Nat.log2_self_le hm, by exact_mod_cast Nat.lt_log2_self⟩

theorem exponent_unique {y : ℚ} {k l : Int} (hk : (2 : ℚ) ^ k ≤ y) (hk' : y < 2 ^ (k + 1)) (hl : (2 : ℚ) ^ l ≤ y) (hl' : y < 2 ^ (l + 1)) :
    k = l := by
  have hkl := (zpow_lt_zpow_iff_right₀ (by norm_num : (1 : ℚ) < 2)).mp (hk.trans_lt hl')
  have hlk := (zpow_lt_zpow_iff_right₀ (by norm_num : (1 : ℚ) < 2)).mp (hl.trans_lt hk')
  omega

/-- An integer stands in its low bits when they are enough. -/
theorem toInt_ofNat_emod {w : Nat} (hw : 0 < w) {i : Int} (hlo : -2 ^ (w - 1) ≤ i) (hhi : i < 2 ^ (w - 1)) :
    (BitVec.ofNat w (i % 2 ^ w).toNat).toInt = i := by
  have hofInt : BitVec.ofNat w (i % 2 ^ w).toNat = BitVec.ofInt w i := by
    have hcast : (2 : Int) ^ w = (2 ^ w : Nat) := by push_cast; rfl
    have hpos : (0 : Int) < (2 ^ w : Nat) := by exact_mod_cast Nat.two_pow_pos w
    have hlt : (i % (2 ^ w : Nat)).toNat < 2 ^ w := (Int.toNat_lt (Int.emod_nonneg _ hpos.ne')).mpr (Int.emod_lt_of_pos _ hpos)
    refine BitVec.eq_of_toNat_eq ?_
    rw [BitVec.toNat_ofInt, BitVec.toNat_ofNat, hcast, Nat.mod_eq_of_lt hlt]
  rw [hofInt, BitVec.toInt_ofInt_eq_self hw hlo hhi]

/-- `GETEXP` of a non-zero element is its exponent (R130). -/
theorem toInt_getexpElem {f : FFmt} (h : f ∈ laneFmts) {x : Nat} {r : ℚ} (hx : f.rat x = some r) (hr : r ≠ 0) {wd : Nat}
    (hwd : wd = if f.mbits = 23 then 32 else 16) :
    let k := (BitVec.ofNat wd (getexpElem f x)).toInt
    (2 : ℚ) ^ k ≤ |r| ∧ |r| < (2 : ℚ) ^ (k + 1) := by
  obtain ⟨hp, -, -, hmb, heb, hlo, hhi⟩ := laneFmts_facts h
  obtain ⟨s, m, e, hd, hrat⟩ := FFmt.exists_fin_of_rat hx
  obtain ⟨habs, -, -⟩ := FVal.abs_of_rat hrat
  have hm := FVal.mantissa_ne_zero hrat hr
  obtain ⟨hmlt, helo, hehi, -⟩ := FFmt.exists_code_of_decode hp hd
  have hlog : m.log2 ≤ f.mbits := by
    rw [← pow_succ'] at hmlt
    exact Nat.le_of_lt_succ ((Nat.log2_lt hm).mpr hmlt)
  have hE : (2 : Int) ^ f.ebits ≤ 2 ^ 8 := pow_le_pow_right₀ (by norm_num) heb
  have hbig : (2 : Int) ^ 15 ≤ 2 ^ (wd - 1) := pow_le_pow_right₀ (by norm_num) (by rw [hwd]; split_ifs <;> decide)
  have hk : (BitVec.ofNat wd (getexpElem f x)).toInt = m.log2 + e := by
    simp only [getexpElem, hd, if_neg hm, ← hwd]
    exact toInt_ofNat_emod (by rw [hwd]; split_ifs <;> decide) (by omega) (by omega)
  intro k
  rw [show k = m.log2 + e from hk, habs]
  exact FVal.log2_bounds hm e

/-! ## `SCALEB` (spec/04 R129) -/

/-- `SCALEB` of a finite element: its exponent moved by n, read as an integer of the element's width. -/
theorem scalebElem_of_fin {f : FFmt} {x m n wd : Nat} {s : Bool} {e : Int} (rm : RM) (hx : FVal.decode f x = .fin s m e)
    (hwd : wd = if f.mbits = 23 then 32 else 16) (hn : n < 2 ^ wd) :
    scalebElem rm f x n = FVal.round f rm false (.fin s m (e + max (-2000) (min 2000 (BitVec.ofNat wd n).toInt))) := by
  have hpos : 0 < wd := by rw [hwd]; split_ifs <;> decide
  have hint : (BitVec.ofNat wd n).toInt = if n.testBit (wd - 1) then (n : Int) - 2 ^ wd else n := by
    rw [BitVec.toInt_eq_msb_cond, BitVec.msb_eq_getLsbD_last, BitVec.getLsbD_ofNat, BitVec.toNat_ofNat, Nat.mod_eq_of_lt hn]
    simp [hpos]
  simp only [scalebElem, hx, ← hwd, hint]

/-- Two magnitudes below half the least one round alike. -/
theorem FFmt.Takes.of_tiny {f : FFmt} {mode : RM} {s : Bool} {X Y : ℚ} {c : Nat} (h : f.Takes mode s X c) (hX : 0 < X) (hX' : 2 * X < f.mag 1)
    (hY : 0 < Y) (hY' : 2 * Y < f.mag 1) : f.Takes mode s Y c := by
  refine h.congr fun a ha _ => ?_
  obtain rfl : a = 0 := by
    have := f.mag_strictMono.lt_iff_lt.mp (ha.trans_lt (by linarith : X < f.mag 1))
    omega
  rw [FFmt.mag_zero, zero_add, zero_add]
  refine ⟨hY.le, by linarith, ?_, ?_, ?_⟩
  · exact iff_of_false hX.ne' hY.ne'
  · exact iff_of_false (not_lt.mpr hX'.le) (not_lt.mpr hY'.le)
  · exact iff_of_false hX'.ne hY'.ne

theorem FFmt.mag_one {f : FFmt} (h : f.Proper) : f.mag 1 = 2 ^ f.qmin := by
  have hcode : FVal.magCode f 1 f.qmin = 1 := by simp [FVal.magCode]
  rw [← hcode, FFmt.mag_magCode le_rfl (.inl rfl) (by have := h.two_le; omega), Nat.cast_one, one_mul]

theorem FFmt.greatest_lt {f : FFmt} (h : f.Proper) : f.greatest < 2 ^ (f.mbits + 1 + (f.qmin + 2 ^ f.ebits)) := by
  have hsig : (f.sig f.maxCode : ℚ) < 2 ^ (f.mbits + 1) := by
    rw [pow_succ']
    exact_mod_cast (f.sig_range f.maxCode).2
  calc f.greatest = f.sig f.maxCode * 2 ^ f.place f.maxCode := FFmt.greatest_eq h
    _ < 2 ^ (f.mbits + 1) * 2 ^ f.place f.maxCode := mul_lt_mul_of_pos_right hsig (by positivity)
    _ ≤ 2 ^ (f.mbits + 1) * 2 ^ (f.qmin + 2 ^ f.ebits) :=
      mul_le_mul_of_nonneg_left (zpow_le_zpow_right₀ (by norm_num) (FFmt.place_le h.maxCode_lt)) (by positivity)
    _ = 2 ^ (f.mbits + 1 + (f.qmin + 2 ^ f.ebits)) := by
      rw [zpow_add₀ (by norm_num) _ (f.qmin + _), ← zpow_natCast, Nat.cast_succ]

/-- An element scaled down by 2^2000 or more is far below the least magnitude. -/
theorem FFmt.two_mul_lt_mag_one {f : FFmt} (h : f ∈ laneFmts) {x m : Nat} {s : Bool} {e j : Int} (hd : FVal.decode f x = .fin s m e)
    (hj : j ≤ -2000) : 2 * ((m : ℚ) * 2 ^ (e + j)) < f.mag 1 := by
  obtain ⟨hp, -, -, hmb, heb, -, -⟩ := laneFmts_facts h
  obtain ⟨hmlt, -, hehi, -⟩ := FFmt.exists_code_of_decode hp hd
  have hE : (2 : Int) ^ f.ebits ≤ 2 ^ 8 := pow_le_pow_right₀ (by norm_num) heb
  have hm : (m : ℚ) < 2 ^ (f.mbits + 1) := by rw [pow_succ']; exact_mod_cast hmlt
  have hu : (0 : ℚ) < 2 ^ (e + j) := by positivity
  calc 2 * ((m : ℚ) * 2 ^ (e + j)) < 2 * (2 ^ (f.mbits + 1) * 2 ^ (e + j)) := by nlinarith
    _ = 2 ^ (f.mbits + 2 + (e + j)) := by
      rw [← zpow_natCast, ← zpow_add₀ (by norm_num), ← zpow_one_add₀ (by norm_num)]
      congr 1
      push_cast
      ring
    _ ≤ 2 ^ f.qmin := zpow_le_zpow_right₀ (by norm_num) (by omega)
    _ = f.mag 1 := (FFmt.mag_one hp).symm

/-- A non-zero element scaled up by more than 2^2000 is far above the greatest one. -/
theorem FFmt.greatest_lt_scaled {f : FFmt} (h : f ∈ laneFmts) {x m : Nat} {s : Bool} {e j : Int} (hd : FVal.decode f x = .fin s m e)
    (hm : m ≠ 0) (hj : 2000 < j) : f.greatest < m * 2 ^ (e + j) := by
  obtain ⟨hp, -, -, hmb, heb, hlo, hhi⟩ := laneFmts_facts h
  obtain ⟨-, helo, -, -⟩ := FFmt.exists_code_of_decode hp hd
  have hE : (2 : Int) ^ f.ebits ≤ 2 ^ 8 := pow_le_pow_right₀ (by norm_num) heb
  have hm1 : (1 : ℚ) ≤ m := by exact_mod_cast Nat.one_le_iff_ne_zero.mpr hm
  calc f.greatest < 2 ^ (f.mbits + 1 + (f.qmin + 2 ^ f.ebits)) := FFmt.greatest_lt hp
    _ ≤ 2 ^ (e + j) := zpow_le_zpow_right₀ (by norm_num) (by omega)
    _ ≤ m * 2 ^ (e + j) := le_mul_of_one_le_left (by positivity) hm1

/-- R129: within the finite range `SCALEB` gives x × 2^n rounded. -/
theorem rounds_scalebElem {f : FFmt} (h : f ∈ laneFmts) (rm : RM) {x n wd : Nat} {r : ℚ} (hwd : wd = if f.mbits = 23 then 32 else 16)
    (hn : n < 2 ^ wd) (hx : f.rat x = some r) (hle : |r * (2 : ℚ) ^ (BitVec.ofNat wd n).toInt| ≤ f.greatest) :
    f.Rounds rm (r * (2 : ℚ) ^ (BitVec.ofNat wd n).toInt) (scalebElem rm f x n) := by
  obtain ⟨hp, -⟩ := laneFmts_facts h
  obtain ⟨s, m, e, hd, hfin⟩ := FFmt.exists_fin_of_rat hx
  rw [scalebElem_of_fin rm hd hwd hn]
  generalize (BitVec.ofNat wd n).toInt = K at *
  rw [FVal.rat_fin] at hfin
  have hr := Option.some.inj hfin
  have hrat : FVal.rat (.fin s m (e + K)) = some (r * 2 ^ K) := by
    rw [FVal.rat_fin, zpow_add₀ (by norm_num), ← hr, mul_assoc, mul_assoc]
  rcases eq_or_ne m 0 with rfl | hm
  · obtain rfl : r = 0 := by rw [← hr]; simp
    rw [zero_mul] at hle ⊢
    exact FFmt.rounds_round hp rm false (by simp [FVal.rat]) hle
  obtain ⟨habs, hneg, hpos⟩ := FVal.abs_of_rat hrat
  have hK : K ≤ 2000 := by
    by_contra hK
    exact absurd (habs ▸ hle) (not_le.mpr (FFmt.greatest_lt_scaled h hd hm (not_le.mp hK)))
  rw [min_eq_right hK]
  rcases le_or_gt (-2000) K with hK' | hK'
  · rw [max_eq_right hK']
    exact FFmt.rounds_round hp rm false hrat hle
  · rw [max_eq_left hK'.le]
    have hmpos : (0 : ℚ) < m := by exact_mod_cast Nat.pos_of_ne_zero hm
    obtain ⟨c, htakes, hround⟩ := FFmt.exists_takes_round hp rm false s m (e + -2000)
    have htakes' : f.Takes rm s |r * 2 ^ K| c := habs ▸ htakes.of_tiny (by positivity) (FFmt.two_mul_lt_mag_one h hd le_rfl)
      (by positivity) (FFmt.two_mul_lt_mag_one h hd hK'.le)
    have hc : c ≤ f.maxCode := htakes'.le_of_le (FFmt.greatest_eq hp ▸ hle)
    rw [hround, if_pos hc]
    exact htakes'.rounds hp hc hneg hpos

/-! ## `RINT` (spec/04 R130) -/

theorem natAbs_roundInt (rm : RM) (s : Bool) (m : Nat) (e : Int) :
    (roundInt rm s m e).natAbs = if 0 ≤ e then m * 2 ^ e.toNat
      else if FVal.roundUp rm s (m / 2 ^ (-e).toNat) (m % 2 ^ (-e).toNat) (-e).toNat then m / 2 ^ (-e).toNat + 1 else m / 2 ^ (-e).toNat := by
  rw [roundInt]
  split <;> simp only [Int.natAbs_neg, Int.natAbs_natCast]

theorem roundInt_eq {rm : RM} {s : Bool} {m n : Nat} {e : Int} (hn : (roundInt rm s m e).natAbs = n) :
    roundInt rm s m e = (if s then -1 else 1) * (n : Int) := by
  rw [natAbs_roundInt] at hn
  rw [roundInt, hn]
  cases s <;> simp

/-- The integers up to 2^mbits are elements. -/
theorem exists_code_of_le {f : FFmt} (h : f ∈ laneFmts) {n : Nat} (hn : n ≤ 2 ^ f.mbits) : ∃ c ≤ f.maxCode, f.mag c = n := by
  obtain ⟨hp, -, -, -, -, -, hhi⟩ := laneFmts_facts h
  rcases eq_or_ne n 0 with rfl | h0
  · exact ⟨0, Nat.zero_le _, by simp⟩
  · have hlog : n.log2 ≤ f.mbits := by
      have := (Nat.log2_lt h0).mpr (hn.trans_lt (Nat.pow_lt_pow_right (by decide) (Nat.lt_succ_self f.mbits)))
      omega
    have hmag := FFmt.mag_of_lastPlace_le h0 (f := f) (e := 0) (max_le (by omega) hhi)
    rw [zpow_zero, mul_one] at hmag
    refine ⟨_, f.mag_strictMono.le_iff_le.mp ?_, hmag⟩
    have hgreat : ∀ f ∈ laneFmts, ((2 ^ f.mbits : Nat) : ℚ) ≤ f.greatest := by decide +kernel
    rw [hmag, ← FFmt.greatest_eq hp]
    exact (by exact_mod_cast hn : (n : ℚ) ≤ (2 ^ f.mbits : Nat)).trans (hgreat f h)

/-- What an element rounds to as an integer is an element. -/
theorem exists_code_of_roundInt {f : FFmt} (h : f ∈ laneFmts) (rm : RM) {x m : Nat} {s : Bool} {e : Int} (hd : FVal.decode f x = .fin s m e) :
    ∃ c ≤ f.maxCode, f.mag c = (roundInt rm s m e).natAbs := by
  obtain ⟨hp, -⟩ := laneFmts_facts h
  obtain ⟨hmlt, -, -, c, hc, hmag⟩ := FFmt.exists_code_of_decode hp hd
  rcases le_or_gt 0 e with he | he
  · obtain ⟨n, rfl⟩ := Int.eq_ofNat_of_zero_le he
    exact ⟨c, hc, by rw [hmag, natAbs_roundInt, if_pos he]; push_cast; norm_cast⟩
  · refine exists_code_of_le h ?_
    obtain ⟨d, hd'⟩ : ∃ d, (-e).toNat = d + 1 := ⟨(-e).toNat - 1, by omega⟩
    have hcut : m / 2 ^ (d + 1) < 2 ^ f.mbits := by
      rw [Nat.div_lt_iff_lt_mul (Nat.two_pow_pos _), pow_succ']
      nlinarith [Nat.one_le_two_pow (n := d), Nat.one_le_two_pow (n := f.mbits)]
    rw [natAbs_roundInt, if_neg (not_le.mpr he), hd']
    split_ifs <;> omega

/-- R130: `RINT` of a finite element is the integer that the mode names, and keeps the sign. -/
theorem rintElem_of_rat {f : FFmt} (h : f ∈ laneFmts) (rm : RM) {x : Nat} {r : ℚ} (hx : f.rat x = some r) :
    ∃ k : Int, f.rat (rintElem rm f x) = some (k : ℚ) ∧ RoundsToInt rm r k
      ∧ (FVal.decode f (rintElem rm f x)).sign = (FVal.decode f x).sign := by
  obtain ⟨hp, -⟩ := laneFmts_facts h
  obtain ⟨s, m, e, hd, hrat⟩ := FFmt.exists_fin_of_rat hx
  obtain ⟨c, hc, hmag⟩ := exists_code_of_roundInt h rm hd
  obtain ⟨n, hn⟩ : ∃ n, (roundInt rm s m e).natAbs = n := ⟨_, rfl⟩
  rw [hn] at hmag
  obtain ⟨c', htakes, hround⟩ := FFmt.exists_takes_round hp rm false s n 0
  have hself := f.takes_mag rm s c
  rw [hmag] at hself
  rw [zpow_zero, mul_one] at htakes
  obtain rfl := htakes.unique hself
  have hrint : rintElem rm f x = f.signed s c' := by
    simp only [rintElem, hd, hn]
    rw [hround, if_pos hc]
  refine ⟨roundInt rm s m e, ?_, roundsToInt_roundInt rm hrat, ?_⟩
  · rw [hrint, FFmt.rat_signed hp hc, hmag, roundInt_eq hn]
    push_cast
    rfl
  · rw [hrint, FFmt.decode_signed hp hc, hd]
    rfl

/-! ## Special elements, and `FCLS` (spec/04 R130) -/

/-- The elements that are infinities. -/
theorem round_of_decode_inf {f : FFmt} (h : f ∈ laneFmts) (rm : RM) {x : Nat} (hx : x < 2 * f.signBit) {p : Bool}
    (hd : FVal.decode f x = .inf p) : FVal.round f rm false (.inf p) = x := by
  obtain ⟨hp, hpad, hsp, -⟩ := laneFmts_facts h
  obtain ⟨s, c, hc, rfl⟩ := FFmt.exists_signed hpad hx
  rw [FFmt.decode_signed_eq hp hc] at hd
  split_ifs at hd with hfin hinf
  obtain rfl := FVal.inf.inj hd
  rw [hinf.2]
  simp [FVal.round, FFmt.signed, hsp]

/-- Subnormals and zeros are the codes without the hidden bit. -/
theorem mantissa_lt_iff {f : FFmt} (h : f.Proper) (hpad : f.pad = 0) {x m : Nat} {s : Bool} {e : Int} (hd : FVal.decode f x = .fin s m e) :
    m < 2 ^ f.mbits ↔ x % f.signBit < 2 ^ f.mbits := by
  rw [FFmt.decode_eq h, hpad, pow_zero, Nat.div_one] at hd
  split_ifs at hd
  obtain ⟨-, rfl, -⟩ := FVal.fin.inj hd
  generalize x % f.signBit = c
  have hP := Nat.two_pow_pos f.mbits
  have hsplit := Nat.div_add_mod' c (2 ^ f.mbits)
  rcases lt_or_ge c (2 ^ f.mbits) with hc | hc
  · simp [FFmt.sig, Nat.div_eq_of_lt hc]
  · obtain ⟨n, hn⟩ := Nat.exists_eq_add_of_le' ((Nat.one_le_div_iff hP).mpr hc)
    rw [hn, Nat.add_one_mul] at hsplit
    rw [FFmt.sig, hn, Nat.add_sub_cancel]
    omega

theorem fclsElem_eq {f : FFmt} (h : f ∈ laneFmts) (x : Nat) :
    fclsElem f x = 2 ^ (match FVal.decode f x with
      | .inf p => if p then 0 else 7
      | .nan => if x.testBit (f.mbits - 1) then 9 else 8
      | .fin p m _ =>
        if m = 0 then (if p then 3 else 4)
        else if x % f.signBit < 2 ^ f.mbits then (if p then 2 else 5) else (if p then 1 else 6)) := by
  obtain ⟨hp, hpad, -⟩ := laneFmts_facts h
  cases hd : FVal.decode f x with
  | nan =>
    simp only [fclsElem, hd, Nat.testBit_eq_decide_div_mod_eq]
    rcases Nat.mod_two_eq_zero_or_one (x / 2 ^ (f.mbits - 1)) with h0 | h1
    · simp [h0]
    · simp [h1]
  | inf p => cases p <;> simp [fclsElem, hd]
  | fin p m e =>
    simp only [fclsElem, hd, mantissa_lt_iff hp hpad hd]
    split_ifs <;> rfl

/-- `GETEXP` of a zero gives the most negative integer. -/
theorem getexpElem_of_isZero {f : FFmt} {x : Nat} (h : (FVal.decode f x).isZero = true) :
    getexpElem f x = 2 ^ ((if f.mbits = 23 then 32 else 16) - 1) := by
  cases hd : FVal.decode f x with
  | nan => rw [hd] at h; cases h
  | inf s => rw [hd] at h; cases h
  | fin s m e =>
    rw [hd] at h
    simp only [getexpElem, hd, if_pos (beq_iff_eq.mp h)]

/-- `GETEXP` of an infinity or a NaN gives the most positive integer. -/
theorem getexpElem_of_not_finite {f : FFmt} {x : Nat} (h : (FVal.decode f x).rat = none) :
    getexpElem f x = 2 ^ ((if f.mbits = 23 then 32 else 16) - 1) - 1 := by
  cases hd : FVal.decode f x with
  | nan => simp only [getexpElem, hd]
  | inf s => simp only [getexpElem, hd]
  | fin s m e => rw [hd] at h; cases h

theorem elementFormsOfConversion : Claim.ElementFormsOfConversion := by
  intro f rm x hf _ hx X wd
  have hwd : wd = 32 ∨ wd = 16 := by simp only [wd]; split_ifs; exacts [.inl rfl, .inr rfl]
  obtain ⟨hp, hpad, hsp, -⟩ := laneFmts_facts hf
  refine ⟨fun k r hk hr hle => rounds_scalebElem hf rm rfl hk hr hle, fun r hr => rintElem_of_rat hf rm hr, fun hnan => ⟨?_, fun k => ?_⟩,
    fun p hinf => ⟨?_, fun k => ?_⟩, fclsElem_eq hf x, fun r hr h0 => toInt_getexpElem hf hr h0 rfl, fun hzero => ?_, fun hnone => ?_⟩
  · simp [rintElem, show FVal.decode f x = .nan from hnan, FVal.round, hpad]
  · simp [scalebElem, show FVal.decode f x = .nan from hnan, FVal.round, hpad]
  · simp only [rintElem, show FVal.decode f x = .inf p from hinf]
    exact round_of_decode_inf hf rm hx hinf
  · simp only [scalebElem, show FVal.decode f x = .inf p from hinf]
    exact round_of_decode_inf hf rm hx hinf
  · rw [getexpElem_of_isZero hzero]
    show (BitVec.ofNat wd (2 ^ (wd - 1))).toInt = -2 ^ (wd - 1)
    rcases hwd with hwd | hwd <;> rw [hwd] <;> rfl
  · rw [getexpElem_of_not_finite hnone]
    show (BitVec.ofNat wd (2 ^ (wd - 1) - 1)).toInt = 2 ^ (wd - 1) - 1
    rcases hwd with hwd | hwd <;> rw [hwd] <;> rfl

end Sys2Proof

namespace Sys2Proof

open Sys2Proof.Machine

/-! ## Quotients cut with a sticky bit round as the exact ones (spec/04 R116) -/

/-- A magnitude with the same order as X among the multiples of 2^t, t well below the last place, rounds as X does. -/
theorem FFmt.Takes.of_sticky {f : FFmt} {mode : RM} {s : Bool} {X Y : ℚ} {c : Nat} {t : Int} (h : f.Takes mode s X c)
    (hbig : 2 ^ (f.mbits + 1) * (2 : ℚ) ^ t ≤ X) (hXY : ∀ j : Nat, (X < j * 2 ^ t ↔ Y < j * 2 ^ t) ∧ (X = j * 2 ^ t ↔ Y = j * 2 ^ t)) :
    f.Takes mode s Y c := by
  refine h.congr fun a hlo hhi => ?_
  have hplace : t < f.place a := by
    have hsig : (f.sig a : ℚ) + 1 ≤ 2 ^ (f.mbits + 1) := by rw [pow_succ']; exact_mod_cast (f.sig_range a).2
    have hlt : 2 ^ (f.mbits + 1) * (2 : ℚ) ^ t < 2 ^ (f.mbits + 1) * 2 ^ f.place a := calc
      2 ^ (f.mbits + 1) * (2 : ℚ) ^ t ≤ X := hbig
      _ < (f.sig a + 1) * 2 ^ f.place a := f.mag_succ a ▸ hhi
      _ ≤ 2 ^ (f.mbits + 1) * 2 ^ f.place a := mul_le_mul_of_nonneg_right hsig (by positivity)
    exact (zpow_lt_zpow_iff_right₀ (by norm_num : (1 : ℚ) < 2)).mp (lt_of_mul_lt_mul_left hlt (by positivity))
  obtain ⟨n, hn⟩ := Int.le.dest (Int.add_one_le_iff.mpr hplace)
  have hpow : (2 : ℚ) ^ f.place a = 2 * 2 ^ n * 2 ^ t := by
    rw [← hn, zpow_add₀ (by norm_num), zpow_add₀ (by norm_num), zpow_natCast, zpow_one]
    ring
  have hlo' : f.mag a = (f.sig a * (2 * 2 ^ n) : Nat) * 2 ^ t := by rw [FFmt.mag, hpow]; push_cast; ring
  have hhi' : f.mag (a + 1) = ((f.sig a + 1) * (2 * 2 ^ n) : Nat) * 2 ^ t := by rw [FFmt.mag_succ, hpow]; push_cast; ring
  have hmid : f.mag a + f.mag (a + 1) = 2 * (((2 * f.sig a + 1) * 2 ^ n : Nat) * 2 ^ t) := by
    rw [FFmt.mag, FFmt.mag_succ, hpow]; push_cast; ring
  have hle (j : Nat) : (j : ℚ) * 2 ^ t ≤ X ↔ (j : ℚ) * 2 ^ t ≤ Y := by rw [← not_lt, (hXY j).1, not_lt]
  have hlt (j : Nat) : (j : ℚ) * 2 ^ t < X ↔ (j : ℚ) * 2 ^ t < Y := by
    rw [lt_iff_le_and_ne, lt_iff_le_and_ne, hle, ne_comm, ne_comm (b := Y), ne_eq, ne_eq, (hXY j).2]
  refine ⟨?_, ?_, ?_, ?_, ?_⟩
  · rw [hlo'] at hlo ⊢; exact (hle _).mp hlo
  · rw [hhi'] at hhi ⊢; exact (hXY _).1.mp hhi
  · rw [hlo']; exact (hXY _).2
  · rw [hmid, mul_lt_mul_iff_right₀ (by norm_num), mul_lt_mul_iff_right₀ (by norm_num)]; exact hlt _
  · rw [hmid, mul_right_inj' (by norm_num), mul_right_inj' (by norm_num)]; exact (hXY _).2

/-- The quotient of the model keeps the order among the multiples of a place far below its first bit. -/
theorem FVal.div_order (s p : Bool) {m n : Nat} (e k : Int) (hm : m ≠ 0) (hn : n ≠ 0) :
    ∃ M t, FVal.div (.fin s m e) (.fin p n k) = .fin (s != p) M (t - 1) ∧ 2 ^ 79 * (2 : ℚ) ^ t ≤ M * 2 ^ (t - 1)
      ∧ ∀ j : Nat, ((M : ℚ) * 2 ^ (t - 1) < j * 2 ^ t ↔ (m : ℚ) * 2 ^ e / (n * 2 ^ k) < j * 2 ^ t)
        ∧ ((M : ℚ) * 2 ^ (t - 1) = j * 2 ^ t ↔ (m : ℚ) * 2 ^ e / (n * 2 ^ k) = j * 2 ^ t) := by
  obtain ⟨K, hK⟩ : ∃ K, n.log2 + FVal.extra = K := ⟨_, rfl⟩
  obtain ⟨q, hq⟩ : ∃ q, m * 2 ^ K / n = q := ⟨_, rfl⟩
  obtain ⟨r, hr⟩ : ∃ r, m * 2 ^ K % n = r := ⟨_, rfl⟩
  have hnpos : 0 < n := Nat.pos_of_ne_zero hn
  have hqr : m * 2 ^ K = q * n + r := by rw [← hq, ← hr, Nat.div_add_mod']
  have hrn : r < n := hr ▸ Nat.mod_lt _ hnpos
  have hnq : (0 : ℚ) < n := by exact_mod_cast hnpos
  have hu : (0 : ℚ) < 2 ^ (e - k - K) := by positivity
  have hhalf (M : Nat) : (M : ℚ) * 2 ^ (e - k - K - 1) = M / 2 * 2 ^ (e - k - K) := by
    rw [zpow_sub_one₀ (by norm_num)]; ring
  have hquot : (m : ℚ) * 2 ^ e / (n * 2 ^ k) = (m * 2 ^ K : Nat) / n * 2 ^ (e - k - K) := by
    rw [zpow_sub₀ (by norm_num), zpow_sub₀ (by norm_num), zpow_natCast]
    push_cast
    field_simp
  refine ⟨2 * q + (if r = 0 then 0 else 1), e - k - K, ?_, ?_, fun j => ?_⟩
  · simp only [FVal.div, hm, hn, hK, hq, hr, if_false]
  · have hq79 : 2 ^ 79 ≤ q := by
      rw [← hq, Nat.le_div_iff_mul_le hnpos]
      calc 2 ^ 79 * n ≤ 2 ^ 79 * 2 ^ (n.log2 + 1) := Nat.mul_le_mul_left _ Nat.lt_log2_self.le
        _ = 2 ^ K := by rw [← pow_add, ← hK]; congr 1; simp only [FVal.extra]; omega
        _ ≤ m * 2 ^ K := Nat.le_mul_of_pos_left _ (Nat.pos_of_ne_zero hm)
    have hM : (2 : ℚ) * 2 ^ 79 ≤ (2 * q + (if r = 0 then 0 else 1) : Nat) := by
      exact_mod_cast (Nat.mul_le_mul_left 2 hq79).trans (Nat.le_add_right _ _)
    rw [hhalf]
    nlinarith
  · have hlt : (j : Nat) * n > q * n + r ↔ q < j := by
      rw [← hqr, gt_iff_lt, ← Nat.div_lt_iff_lt_mul hnpos, hq]
    have heq : q * n + r = j * n ↔ r = 0 ∧ q = j := by
      constructor
      · intro h
        have hj : q = j := by rw [← hq, hqr, h, Nat.mul_div_cancel _ hnpos]
        exact ⟨by rw [hj] at h; omega, hj⟩
      · rintro ⟨rfl, rfl⟩; rfl
    have hlt' : ((2 * q + (if r = 0 then 0 else 1) : Nat) : ℚ) / 2 < j ↔ q < j := by
      rw [div_lt_iff₀ (by norm_num)]
      norm_cast
      split_ifs <;> omega
    have heq' : ((2 * q + (if r = 0 then 0 else 1) : Nat) : ℚ) / 2 = j ↔ r = 0 ∧ q = j := by
      rw [div_eq_iff (by norm_num)]
      norm_cast
      split_ifs <;> omega
    rw [hhalf, hquot, mul_lt_mul_iff_left₀ hu, mul_left_inj' hu.ne', hlt', heq', mul_lt_mul_iff_left₀ hu, mul_left_inj' hu.ne',
      div_lt_iff₀ hnq, div_eq_iff hnq.ne', ← hlt, ← heq, hqr]
    norm_cast

/-- Rounding the model's quotient is rounding the exact one, in a format of up to 78 mantissa bits. -/
theorem FFmt.exists_takes_round_div {f : FFmt} (h : f.Proper) (hbits : f.mbits ≤ 78) (mode : RM) (sat s p : Bool) {m n : Nat} (e k : Int)
    (hm : m ≠ 0) (hn : n ≠ 0) :
    ∃ c, f.Takes mode (s != p) ((m : ℚ) * 2 ^ e / (n * 2 ^ k)) c
      ∧ FVal.round f mode sat (FVal.div (.fin s m e) (.fin p n k))
        = f.signed (s != p) (if c ≤ f.maxCode then c else FVal.overflow f mode (s != p) sat) := by
  obtain ⟨M, t, hdiv, hbig, horder⟩ := FVal.div_order s p e k hm hn
  obtain ⟨c, htakes, hround⟩ := FFmt.exists_takes_round h mode sat (s != p) M (t - 1)
  refine ⟨c, htakes.of_sticky (le_trans ?_ hbig) horder, hdiv ▸ hround⟩
  exact mul_le_mul_of_nonneg_right (pow_le_pow_right₀ (by norm_num) (by omega)) (by positivity)

/-! ## `MXSCL` (spec/04 R131, R110) -/

/-- The block-scaled formats: the largest element and its exponent. -/
theorem blockMax_eq {fmt emax : Nat} {top : ℚ}
    (h : (fmt, emax, top) ∈ ([(17, 8, 448), (18, 15, 57344), (19, 4, 28), (20, 2, 15 / 2), (21, 2, 6), (22, 2, 6),
      (23, 0, 127 / 64)] : List (Nat × Nat × ℚ))) :
    ∃ n k, blockMax fmt = (.fin false n k, (emax : Int)) ∧ n ≠ 0 ∧ top = n * 2 ^ k := by
  simp only [List.mem_cons, Prod.mk.injEq, List.not_mem_nil, or_false] at h
  rcases h with ⟨rfl, rfl, rfl⟩ | ⟨rfl, rfl, rfl⟩ | ⟨rfl, rfl, rfl⟩ | ⟨rfl, rfl, rfl⟩ | ⟨rfl, rfl, rfl⟩ | ⟨rfl, rfl, rfl⟩ |
      ⟨rfl, rfl, rfl⟩ <;>
    exact ⟨_, _, rfl, by decide, by norm_num⟩

theorem greatest_e4m3 : FFmt.e4m3.greatest = 448 := by decide +kernel

theorem blockScaleByte : Claim.BlockScaleByte := by
  intro fmt emax top x hmem
  obtain ⟨n, k, hblock, hn, htop⟩ := blockMax_eq hmem
  have hp : FFmt.e4m3.Proper := ⟨by decide, by decide⟩
  have hgreat : FFmt.e4m3.mag 126 = 448 := (FFmt.greatest_eq hp).symm.trans greatest_e4m3
  have hfin {r : ℚ} (hr : x.rat = some r) (h0 : r ≠ 0) : ∃ p m e, x = .fin p m e ∧ m ≠ 0 ∧ |r| = m * 2 ^ e := by
    obtain ⟨p, m, e, rfl⟩ := FVal.exists_fin_of_rat hr
    exact ⟨p, m, e, rfl, FVal.mantissa_ne_zero hr h0, (FVal.abs_of_rat hr).1⟩
  have hbyte {r : ℚ} (hr : x.rat = some r) (h0 : r ≠ 0) : ∃ c, FFmt.e4m3.Takes .rup false (|r| / top) c
      ∧ mxsclByte fmt true x = FFmt.e4m3.signed false (if c ≤ 126 then c else 126) := by
    obtain ⟨p, m, e, rfl, hm, habs⟩ := hfin hr h0
    obtain ⟨c, htakes, hround⟩ := FFmt.exists_takes_round_div hp (by decide) .rup true false false e k hm hn
    refine ⟨c, by rw [habs, htop]; exact htakes, ?_⟩
    simp only [mxsclByte, FVal.abs, if_neg hm, if_true, hblock]
    exact hround
  refine ⟨?_, ?_, ?_, ?_, ?_, ?_⟩
  · rintro rfl; exact ⟨rfl, rfl⟩
  · rintro p rfl; exact ⟨rfl, rfl⟩
  · intro hzero
    cases x with
    | nan => cases hzero
    | inf p => cases hzero
    | fin p m e =>
      have hm : m = 0 := beq_iff_eq.mp hzero
      simp [mxsclByte, FVal.abs, hm]
  · intro r l hr h0 hlo hhi
    obtain ⟨p, m, e, rfl, hm, habs⟩ := hfin hr h0
    rw [habs] at hlo hhi
    obtain ⟨hlog, hlog'⟩ := FVal.log2_bounds hm e
    rw [exponent_unique hlo hhi hlog hlog']
    simp only [mxsclByte, FVal.abs, if_neg hm, hblock, Bool.false_eq_true, if_false]
    exact Int.toNat_of_nonneg (le_max_left _ _)
  · intro r hr h0 hle
    obtain ⟨c, htakes, hbyte⟩ := hbyte hr h0
    have hc : c ≤ 126 := htakes.le_of_le (hgreat ▸ hle)
    have hpos : 0 ≤ |r| / top := by rw [htop]; positivity
    rw [hbyte, if_pos hc]
    exact FFmt.Takes.rounds hp ((abs_of_nonneg hpos).symm ▸ htakes) hc (fun hneg => absurd hneg (not_lt.mpr hpos)) (fun _ => rfl)
  · intro r hr hgt
    have h0 : r ≠ 0 := by rintro rfl; norm_num at hgt
    obtain ⟨c, htakes, hbyte⟩ := hbyte hr h0
    have hc : 126 ≤ c := htakes.ge_of_ge (hgreat ▸ hgt.le)
    have hcode : (if c ≤ 126 then c else 126) = 126 := by split_ifs <;> omega
    rw [hbyte, hcode]
    rfl

/-- Settles O8: the words write what the element functions give; an element is scaled, rounded, classed and measured by its exact value;
the quotient of `MXSCL` rounds as the exact one. -/
theorem elementConversionForms : Obligations.ElementConversionForms :=
  ⟨otherConversionsResult, elementFormsOfConversion, blockScaleByte⟩

end Sys2Proof

namespace Sys2Proof.Machine

/-! ## Masks and planes (spec/02 R54) -/

/-- The mask of one plane. -/
theorem getLsbD_one_shiftLeft (p i : Fin 32) : (1#32 <<< p.val).getLsbD i.val = decide (i = p) := by
  rw [← BitVec.twoPow_eq, BitVec.getLsbD_twoPow]
  simp [eq_comm, Fin.ext_iff]

/-- A mask from a condition holds it in every plane. -/
theorem getLsbD_maskFn (f : Fin 32 → Bool) (i : Fin 32) : (maskFn f).getLsbD i.val = f i := by
  have key (l : List (Fin 32)) (x : Mask) :
      (l.foldl (fun m j => if f j then m ||| (1#32 <<< j.val) else m) x).getLsbD i.val
        = (x.getLsbD i.val || (decide (i ∈ l) && f i)) := by
    induction l generalizing x with
    | nil => simp
    | cons j l ih =>
      rw [List.foldl_cons, ih]
      by_cases hf : f j = true
      · rw [if_pos hf, BitVec.getLsbD_or, getLsbD_one_shiftLeft]
        by_cases hij : i = j
        · simp [hij, hf]
        · simp [hij]
      · rw [if_neg hf]
        by_cases hij : i = j
        · simp [hij, hf]
        · simp [hij]
  rw [maskFn, key]
  simp

/-- The active planes of a context, as planes of its mask. -/
theorem planes_eq (c : Ctx) : planes c.act = c.active.map (·.val) := by
  rw [planes, ← List.map_coe_finRange_eq_range, List.filter_map]
  rfl

theorem mem_planes {act : Mask} {p : Nat} : p ∈ planes act ↔ p < 32 ∧ act.getLsbD p = true := by
  simp [planes]

theorem exists_active {act : Mask} (h : act ≠ 0) : ∃ p : Fin 32, act.getLsbD p.val = true := by
  by_contra hnone
  push Not at hnone
  exact h (BitVec.eq_of_getLsbD_eq fun i hi => by simpa using hnone ⟨i, hi⟩)

/-- The active lane of least plane. -/
theorem exists_least_plane {act : Mask} (h : act ≠ 0) :
    ∃ p : Fin 32, (planes act).headD 0 = p.val ∧ act.getLsbD p.val = true ∧ ∀ k : Fin 32, k < p → act.getLsbD k.val = false := by
  obtain ⟨q, hq⟩ := exists_active h
  have hhead : (planes act).head? = (List.range 32).find? (fun i => act.getLsbD i) := List.head?_filter
  cases hp : (List.range 32).find? (fun i => act.getLsbD i) with
  | none => exact absurd hq (by simpa using List.find?_eq_none.mp hp q.val (by simp))
  | some p =>
    obtain ⟨hact, hlt, hleast⟩ := List.find?_range_eq_some.mp hp
    refine ⟨⟨p, List.mem_range.mp hlt⟩, by rw [List.headD_eq_head?_getD, hhead, hp]; rfl, hact, fun k hk => ?_⟩
    simpa using hleast k.val hk

/-- Counting the members of a list that satisfy a condition. -/
theorem foldl_count {α : Type} (p : α → Bool) (l : List α) : l.foldl (fun n i => if p i then n + 1 else n) 0 = (l.filter p).length := by
  have key (n : Nat) : l.foldl (fun n i => if p i then n + 1 else n) n = n + (l.filter p).length := by
    induction l generalizing n with
    | nil => rfl
    | cons i l ih =>
      rw [List.foldl_cons, ih, List.filter_cons]
      split_ifs
      · rw [List.length_cons]; omega
      · rfl
  rw [key, Nat.zero_add]

/-! ## Words that write one register of their slug -/

/-- A word that writes lanes of a vector register, and nothing else. -/
theorem State.doneV_of_exec {s : State} {h : Hdr} {c : Ctx} (hc : s.ctx h = some c) {i : Instr} {n : Nat} {hit : Mask} {f : Fin 32 → Lane}
    (he : exec i s = .next ((s.modCur (·.writeV n hit f)).retire c)) :
    ∃ t, exec i s = .next t ∧ s.Done t c c.nextPc [.v n]
      ∧ ∀ k : Fin 32, ((c.slugIn t).readV n)[k] = if hit.getLsbD k.val then f k else (c.m.readV n)[k] := by
  obtain ⟨hdone, hslug⟩ := State.done_of hc (·.writeV n hit f) c.nextPc [.v n] (Slug.regsBut_writeV _ _ _ _)
    (Slug.restAs_writeV _ _ _ _ _) (Slug.slot_writeV _ _ _ _ _)
  refine ⟨_, he, hdone, fun k => ?_⟩
  rw [State.retire, hslug, Ctx.finish_readV, Slug.readV_writeV, if_pos rfl]
  simp

/-- A word that answers with a predicate result writes the active lanes' bits of its destination and nothing else. -/
theorem State.givesP_of_exec {s : State} {h : Hdr} {c : Ctx} (hc : s.ctx h = some c) {i : Instr} {n : BitVec 4} {x : Mask} {f : Fin 32 → Bool}
    (he : exec i s = .next (s.finishP c n.toNat x)) (hf : ∀ k : Fin 32, x.getLsbD k.val = f k) : s.GivesP c i n f := by
  obtain ⟨hdone, hslug⟩ := State.done_of hc (·.writeP n.toNat c.act x) c.nextPc [.p n.toNat] (Slug.regsBut_writeP _ _ _ _)
    (Slug.restAs_writeP _ _ _ _ _) (Slug.slot_writeP _ _ _ _ _)
  refine ⟨_, he, hdone, fun k => ?_⟩
  have hn : n.toNat = 0 ↔ n = 0 := by rw [← BitVec.toNat_inj]; rfl
  rw [State.finishP, State.retire, hslug, Ctx.finish_readP, Slug.readP_writeP]
  by_cases h0 : n = 0
  · rw [if_neg fun h => h.2 (hn.mpr h0), if_pos (.inl h0)]
  · rw [if_pos ⟨rfl, mt hn.mp h0⟩, BitVec.getLsbD_or, BitVec.getLsbD_and, BitVec.getLsbD_and, BitVec.getLsbD_not, hf]
    cases c.act.getLsbD k.val
    · rw [if_pos (.inr rfl)]; simp
    · rw [if_neg (by simpa using h0)]; simp

/-- A word that answers with an accumulator writes it and nothing else. -/
theorem State.givesX_of_exec {s : State} {h : Hdr} {c : Ctx} (hc : s.ctx h = some c) {i : Instr} {n : Nat} {f : Slug → XAcc}
    (he : exec i s = .next ((s.modCur (fun u => u.writeX n (f u))).retire c)) : s.GivesX c i n (f c.m) := by
  obtain ⟨hdone, hslug⟩ := State.done_of hc (fun u => u.writeX n (f u)) c.nextPc [.xa n] (Slug.regsBut_writeX _ _ _)
    (Slug.restAs_writeX _ _ _ _) (Slug.slot_writeX _ _ _ _)
  refine ⟨_, he, hdone, ?_⟩
  rw [State.retire, hslug, Ctx.finish_readX, Slug.readX_writeX, if_pos rfl]

end Sys2Proof.Machine

namespace Sys2Proof

open Sys2Proof.Machine

/-! ## The order of float values (spec/05 R153) -/

/-- A finite value counted in units of 2^`e0`. -/
theorem FVal.rat_scaled (s : Bool) (m : Nat) {e e0 : Int} (he : e0 ≤ e) :
    FVal.rat (.fin s m e) = some ((FVal.scaled s m e e0 : ℚ) * (2 : ℚ) ^ e0) := by
  obtain ⟨n, rfl⟩ := Int.le.dest he
  have hn : (e0 + (n : Int) - e0).toNat = n := by omega
  rw [FVal.rat_fin, FVal.scaled, hn, zpow_add₀ (by norm_num), zpow_natCast]
  cases s <;> simp <;> ring

/-- The order of two finite values is that of their numbers. -/
theorem FVal.cmp_of_rat {x y : FVal} {a b : ℚ} (hx : x.rat = some a) (hy : y.rat = some b) : FVal.cmp x y = some (compare a b) := by
  obtain ⟨s, m, e, rfl⟩ := FVal.exists_fin_of_rat hx
  obtain ⟨t, n, k, rfl⟩ := FVal.exists_fin_of_rat hy
  rw [FVal.rat_scaled s m (min_le_left e k)] at hx
  rw [FVal.rat_scaled t n (min_le_right e k)] at hy
  obtain rfl := Option.some.inj hx
  obtain rfl := Option.some.inj hy
  have hpos : (0 : ℚ) < 2 ^ min e k := by positivity
  show some (compare (FVal.scaled s m e (min e k)) (FVal.scaled t n k (min e k))) = _
  rcases lt_trichotomy (FVal.scaled s m e (min e k)) (FVal.scaled t n k (min e k)) with hlt | heq | hgt
  · rw [compare_lt_iff_lt.mpr hlt, compare_lt_iff_lt.mpr (mul_lt_mul_of_pos_right (by exact_mod_cast hlt) hpos)]
  · rw [heq, compare_eq_iff_eq.mpr rfl, compare_eq_iff_eq.mpr rfl]
  · rw [compare_gt_iff_gt.mpr hgt, compare_gt_iff_gt.mpr (mul_lt_mul_of_pos_right (by exact_mod_cast hgt) hpos)]

theorem floatOrderIsThatOfNumbers : Claim.FloatOrderIsThatOfNumbers := by
  refine ⟨fun x y a b hx hy => FVal.cmp_of_rat hx hy, fun x a hx => ?_, fun p q => ?_, fun x => ?_, fun elt x => ⟨rfl, fun t ht => ?_⟩⟩
  · obtain ⟨s, m, e, rfl⟩ := FVal.exists_fin_of_rat hx
    exact ⟨rfl, rfl, rfl, rfl⟩
  · cases p <;> cases q <;> rfl
  · cases x <;> exact ⟨rfl, rfl⟩
  · have hlo : (x.extractLsb' 0 16).toNat = x.toNat / 1 % 2 ^ 16 := by simp
    have hhi : (x.extractLsb' 16 16).toNat = x.toNat / 2 ^ 16 % 2 ^ 16 := by simp [Nat.shiftRight_eq_div_pow]
    rcases ht with rfl | rfl <;> cases elt <;> simp only [cmpElem, hlo, hhi, Bool.false_eq_true, if_false, if_true]

theorem vectorFloatCompareResult : Claim.VectorFloatCompareResult := by
  intro w m s c n hc hd
  refine State.givesP_of_exec hc ((vectorWord_eq hc _ : exec (.vcmpFloat w m) s = _).trans (by rw [hd]; rfl)) (fun i => ?_)
  rw [getLsbD_maskFn]
  dsimp only [fltCond]
  generalize FVal.cmp _ _ = o
  generalize m.imm.extractLsb' 0 3 = cc
  cases o with
  | none => revert cc; decide
  | some o => revert cc; cases o <;> decide

/-- Settles O3: the compared elements are ordered as their numbers are, and each condition is read off the order. -/
theorem floatComparison : Obligations.FloatComparison := ⟨vectorFloatCompareResult, floatOrderIsThatOfNumbers⟩

end Sys2Proof

namespace Sys2Proof

open Sys2Proof.Machine

/-! ## Integers read at a width (spec/05 R142 to R144, spec/04 R122) -/

/-- A value of `n` bits read signed or unsigned (R142). -/
def asInt {n : Nat} (sg : Bool) (x : BitVec n) : Int := if sg then x.toInt else x.toNat

section Reading
variable {n : Nat} (sg : Bool) (a b : BitVec n)

theorem ofInt_asInt : BitVec.ofInt n (asInt sg a) = a := by
  cases sg
  · exact (BitVec.ofInt_natCast n a.toNat).trans (BitVec.ofNat_toNat _ _ ▸ BitVec.setWidth_eq a)
  · exact BitVec.ofInt_toInt

theorem asInt_eq_iff : asInt sg a = asInt sg b ↔ a = b :=
  ⟨fun h => by rw [← ofInt_asInt sg a, h, ofInt_asInt], fun h => h ▸ rfl⟩

theorem asInt_lt_iff : asInt sg a < asInt sg b ↔ (if sg then a.slt b else a.ult b) = true := by
  cases sg
  · exact (BitVec.ult_iff_toNat_lt.trans Int.ofNat_lt.symm).symm
  · exact BitVec.slt_iff_toInt_lt.symm

theorem asInt_zero : asInt sg (0 : BitVec n) = 0 := by
  cases sg
  · exact congrArg Int.ofNat BitVec.toNat_zero
  · exact BitVec.toInt_zero

theorem asInt_eq_zero_iff : asInt sg a = 0 ↔ a = 0 := by
  rw [← asInt_zero sg, asInt_eq_iff]

/-- The conditions of R144 are those of the integers. -/
theorem intCond_asInt (cc : BitVec 3) : intCond cc.toNat (asInt sg a) (asInt sg b) = condHolds sg cc a b := by
  have hlt (x y : BitVec n) : decide (asInt sg x < asInt sg y) = if sg then x.slt y else x.ult y := by
    rw [← Bool.coe_iff_coe, decide_eq_true_eq, asInt_lt_iff]
  have hle (x y : BitVec n) : decide (asInt sg x ≤ asInt sg y) = !(if sg then y.slt x else y.ult x) := by
    rw [← hlt, ← decide_not, decide_eq_decide, not_lt]
  have heq : decide (asInt sg a = asInt sg b) = (a == b) := by
    rw [← Bool.coe_iff_coe, decide_eq_true_eq, asInt_eq_iff, beq_iff_eq]
  have hne : decide (asInt sg a ≠ asInt sg b) = (a != b) := by rw [decide_not, heq]; rfl
  have h8 := cc.isLt
  unfold intCond condHolds
  simp only [heq, hne, hlt, hle, gt_iff_lt, ge_iff_le]
  generalize cc.toNat = k at h8
  interval_cases k <;> rfl

end Reading

/-! ## The results of R143 as integers -/

/-- Bits of a product beyond its lower half. -/
theorem extractLsb'_ofInt_high (n : Nat) (z : Int) : (BitVec.ofInt (2 * n) z).extractLsb' n n = BitVec.ofInt n (z / 2 ^ n) := by
  have hpos : (0 : Int) < 2 ^ n := by positivity
  refine BitVec.eq_of_toNat_eq (Int.ofNat_inj.mp ?_)
  rw [BitVec.extractLsb'_toNat, BitVec.toNat_ofInt, BitVec.toNat_ofInt, Nat.shiftRight_eq_div_pow]
  push_cast
  rw [Int.toNat_of_nonneg (Int.emod_nonneg _ (by positivity)), Int.toNat_of_nonneg (Int.emod_nonneg _ (by positivity)), two_mul, pow_add, Int.emod_def z,
    mul_assoc, sub_eq_add_neg, ← mul_neg, Int.add_mul_ediv_left _ _ hpos.ne', ← mul_neg, Int.add_mul_emod_self_left]

section Results
variable {n : Nat} (sg : Bool) (imm : BitVec 14) (d a b : BitVec n)

theorem SOp.result_mulh : SOp.mulh.result sg imm d a b = BitVec.ofInt n (asInt sg a * asInt sg b / 2 ^ n) := by
  have hprod : (if sg then a.signExtend (2 * n) * b.signExtend (2 * n) else a.zeroExtend (2 * n) * b.zeroExtend (2 * n))
      = BitVec.ofInt (2 * n) (asInt sg a * asInt sg b) := by
    rw [BitVec.ofInt_mul]
    cases sg
    · exact congrArg₂ (· * ·) ((BitVec.ofInt_natCast _ _).trans (BitVec.ofNat_toNat _ _)).symm
        ((BitVec.ofInt_natCast _ _).trans (BitVec.ofNat_toNat _ _)).symm
    · rfl
  show BitVec.extractLsb' n n (if sg then _ else _) = _
  rw [hprod, extractLsb'_ofInt_high]

/-- Both rotations: a value shifted left by `j` with the bits that leave it (R143). -/
theorem rotated_eq {j : Nat} (hj : j ≤ n) : a <<< j ||| a >>> (n - j) = BitVec.ofNat n (a.toNat * 2 ^ j + a.toNat / 2 ^ (n - j)) := by
  have hsplit : 2 ^ n = 2 ^ j * 2 ^ (n - j) := by rw [← pow_add, Nat.add_sub_cancel' hj]
  have hlow : a.toNat / 2 ^ (n - j) < 2 ^ j := by
    rw [Nat.div_lt_iff_lt_mul (Nat.two_pow_pos _), ← hsplit]
    exact a.isLt
  have hhigh : a.toNat * 2 ^ j % 2 ^ n = 2 ^ j * (a.toNat % 2 ^ (n - j)) := by
    rw [mul_comm, hsplit, Nat.mul_mod_mul_left]
  have hsum : 2 ^ j * (a.toNat % 2 ^ (n - j)) + a.toNat / 2 ^ (n - j) < 2 ^ n := by
    calc 2 ^ j * (a.toNat % 2 ^ (n - j)) + a.toNat / 2 ^ (n - j) < 2 ^ j * (a.toNat % 2 ^ (n - j)) + 2 ^ j := by omega
      _ = 2 ^ j * (a.toNat % 2 ^ (n - j) + 1) := by ring
      _ ≤ 2 ^ n := hsplit ▸ Nat.mul_le_mul_left _ (Nat.mod_lt _ (Nat.two_pow_pos _))
  refine BitVec.eq_of_toNat_eq ?_
  rw [BitVec.toNat_or, BitVec.toNat_shiftLeft, BitVec.toNat_ushiftRight, Nat.shiftLeft_eq, Nat.shiftRight_eq_div_pow, hhigh,
    ← Nat.two_pow_add_eq_or_of_lt hlow, BitVec.toNat_ofNat, ← Nat.mod_add_mod, hhigh, Nat.mod_eq_of_lt hsum]

variable (hn : 0 < n)

include hn in
theorem SOp.result_rol : SOp.rol.result sg imm d a b
    = BitVec.ofNat n (a.toNat * 2 ^ (b.toNat % n) + a.toNat / 2 ^ (n - b.toNat % n)) := by
  have hk := Nat.mod_lt b.toNat hn
  rw [← rotated_eq a hk.le]
  exact BitVec.rotateLeft_def.trans (by rw [Nat.mod_mod])

include hn in
theorem SOp.result_ror : SOp.ror.result sg imm d a b
    = BitVec.ofNat n (a.toNat / 2 ^ (b.toNat % n) + a.toNat * 2 ^ (n - b.toNat % n)) := by
  have hk := Nat.mod_lt b.toNat hn
  have hback : n - (n - b.toNat % n) = b.toNat % n := by omega
  have := rotated_eq a (Nat.sub_le n (b.toNat % n))
  rw [hback] at this
  rw [Nat.add_comm, ← this, BitVec.or_comm]
  exact BitVec.rotateRight_def.trans (by rw [Nat.mod_mod])

theorem SOp.result_shl : SOp.shl.result sg imm d a b = BitVec.ofNat n (a.toNat * 2 ^ (b.toNat % n)) :=
  BitVec.eq_of_toNat_eq (by rw [BitVec.toNat_ofNat, ← Nat.shiftLeft_eq]; exact BitVec.toNat_shiftLeft)

theorem SOp.result_shr : SOp.shr.result sg imm d a b = BitVec.ofNat n (a.toNat / 2 ^ (b.toNat % n)) := by
  refine BitVec.eq_of_toNat_eq ?_
  rw [BitVec.toNat_ofNat, Nat.mod_eq_of_lt ((Nat.div_le_self _ _).trans_lt a.isLt), ← Nat.shiftRight_eq_div_pow]
  exact BitVec.toNat_ushiftRight ..

theorem SOp.result_sar : SOp.sar.result sg imm d a b = BitVec.ofInt n (a.toInt / 2 ^ (b.toNat % n)) := by
  show BitVec.ofInt n (a.toInt >>> (b.toNat % n)) = _
  rw [Int.shiftRight_eq_div_pow]
  push_cast
  rfl

theorem SOp.result_min : SOp.min.result sg imm d a b = if asInt sg a ≤ asInt sg b then a else b := by
  show (if (if sg then b.slt a else b.ult a) = true then b else a) = _
  simp only [← asInt_lt_iff, ← not_le, ite_not]

theorem SOp.result_max : SOp.max.result sg imm d a b = if asInt sg b ≤ asInt sg a then a else b := by
  show (if (if sg then a.slt b else a.ult b) = true then b else a) = _
  simp only [← asInt_lt_iff, ← not_le, ite_not]

theorem SOp.result_abs : SOp.abs.result sg imm d a b = BitVec.ofInt n (if a.toInt < 0 then -a.toInt else a.toInt) := by
  show (if a.msb then -a else a) = _
  rw [BitVec.msb_eq_toInt]
  simp only [decide_eq_true_eq, apply_ite (BitVec.ofInt n), BitVec.ofInt_neg, BitVec.ofInt_toInt]

theorem SOp.result_div : SOp.div.result sg imm d a b = BitVec.ofInt n (divVal sg n (asInt sg a) (asInt sg b)) := by
  show (if b = 0 then BitVec.allOnes n else if sg then a.sdiv b else a.udiv b) = _
  rw [divVal]
  simp only [asInt_eq_zero_iff]
  by_cases h0 : b = 0
  · rw [if_pos h0, if_pos h0]
    cases sg
    · have hones : ((2 ^ n - 1 : Nat) : Int) = 2 ^ n - 1 := by rw [Nat.cast_sub Nat.one_le_two_pow]; push_cast; rfl
      refine BitVec.eq_of_toNat_eq ?_
      simp only [Bool.false_eq_true, if_false]
      rw [← hones, BitVec.ofInt_natCast, BitVec.toNat_ofNat, BitVec.toNat_allOnes, Nat.mod_eq_of_lt (Nat.sub_lt (Nat.two_pow_pos n) Nat.one_pos)]
    · show BitVec.allOnes n = BitVec.ofInt n (-1)
      rw [BitVec.ofInt_neg]
      exact BitVec.neg_one_eq_allOnes.symm
  · rw [if_neg h0, if_neg h0]
    cases sg
    · show a.udiv b = BitVec.ofInt n ((a.toNat : Int).tdiv b.toNat)
      rw [← Int.ofNat_tdiv, BitVec.ofInt_natCast]
      refine BitVec.eq_of_toNat_eq ?_
      rw [BitVec.toNat_ofNat, Nat.mod_eq_of_lt ((Nat.div_le_self _ _).trans_lt a.isLt)]
      exact BitVec.toNat_udiv
    · exact BitVec.eq_of_toInt_eq ((BitVec.toInt_sdiv a b).trans (BitVec.toInt_ofInt _).symm)

theorem SOp.result_rem : SOp.rem.result sg imm d a b = BitVec.ofInt n (remVal (asInt sg a) (asInt sg b)) := by
  show (if b = 0 then a else if sg then a.srem b else a.umod b) = _
  rw [remVal]
  simp only [asInt_eq_zero_iff]
  by_cases h0 : b = 0
  · rw [if_pos h0, if_pos h0, ofInt_asInt]
  · rw [if_neg h0, if_neg h0]
    cases sg
    · show a.umod b = BitVec.ofInt n ((a.toNat : Int).tmod b.toNat)
      rw [← Int.ofNat_tmod, BitVec.ofInt_natCast]
      refine BitVec.eq_of_toNat_eq ?_
      rw [BitVec.toNat_ofNat, Nat.mod_eq_of_lt ((Nat.mod_le _ _).trans_lt a.isLt)]
      exact BitVec.toNat_umod
    · exact BitVec.ofInt_toInt.symm.trans (congrArg _ (BitVec.toInt_srem a b))

/-! ### Counting and moving bits -/

/-- A count of the places below `k`. -/
theorem countBits_of_lt_iff {f : Nat → Bool} {k : Nat} (hk : k ≤ n) (hf : ∀ i, i < n → (f i = true ↔ i < k)) : countBits n f = k := by
  have hfilter : (List.range n).filter f = List.range k := by
    rw [show n = k + (n - k) by omega, List.range_add, List.filter_append, List.filter_eq_self.mpr, List.filter_eq_nil_iff.mpr, List.append_nil]
    · simp only [List.mem_map, List.mem_range]
      rintro i ⟨j, hj, rfl⟩
      rw [hf _ (by omega)]
      omega
    · intro i hi
      have hik := List.mem_range.mp hi
      exact (hf i (by omega)).mpr hik
  rw [countBits, hfilter, List.length_range]

theorem SOp.result_clz : SOp.clz.result sg imm d a b = BitVec.ofNat n (clzN n a.toNat) := by
  refine congrArg (BitVec.ofNat n) ?_
  rw [clzN]
  split_ifs with h0
  · exact countBits_of_lt_iff le_rfl (fun i hi => by simp [h0, hi])
  · refine countBits_of_lt_iff (by omega) (fun i hi => ?_)
    have hlog := (Nat.log2_lt h0).mpr a.isLt
    rw [decide_eq_true_eq, ← Nat.log2_lt h0]
    omega

/-- The place where `ctzFrom` stops. -/
theorem ctzFrom_spec (x k i : Nat) : i ≤ ctzFrom x k i ∧ ctzFrom x k i ≤ i + k ∧ (∀ j, i ≤ j → j < ctzFrom x k i → x.testBit j = false)
    ∧ (ctzFrom x k i < i + k → x.testBit (ctzFrom x k i) = true) := by
  induction k generalizing i with
  | zero => exact ⟨le_rfl, le_rfl, fun j hj hlt => absurd hlt (Nat.not_lt.mpr hj), fun hlt => absurd hlt (Nat.lt_irrefl _)⟩
  | succ k ih =>
    rw [ctzFrom]
    split_ifs with hbit
    · exact ⟨le_rfl, by omega, fun j hj hlt => absurd hlt (Nat.not_lt.mpr hj), fun _ => hbit⟩
    · obtain ⟨hlo, hhi, hzero, hone⟩ := ih (i + 1)
      refine ⟨by omega, by omega, fun j hj hlt => ?_, fun hlt => hone (by omega)⟩
      rcases Nat.eq_or_lt_of_le hj with rfl | hj
      · exact Bool.eq_false_iff.mpr hbit
      · exact hzero j hj hlt

theorem SOp.result_ctz : SOp.ctz.result sg imm d a b = BitVec.ofNat n (ctzFrom a.toNat n 0) := by
  obtain ⟨-, hhi, hzero, hone⟩ := ctzFrom_spec a.toNat n 0
  rw [Nat.zero_add] at hhi hone
  refine congrArg (BitVec.ofNat n) (countBits_of_lt_iff hhi (fun i hi => ?_))
  rw [decide_eq_true_eq]
  constructor
  · intro hmod
    by_contra hle
    have hbit := hone (by omega)
    have hlow : (a.toNat % 2 ^ (i + 1)).testBit (ctzFrom a.toNat n 0) = true := by
      rw [Nat.testBit_mod_two_pow, hbit, decide_eq_true (by omega)]; rfl
    rw [hmod, Nat.zero_testBit] at hlow
    cases hlow
  · intro hlt
    refine Nat.zero_of_testBit_eq_false fun j => ?_
    rw [Nat.testBit_mod_two_pow]
    rcases Nat.lt_or_ge j (i + 1) with hj | hj
    · rw [hzero j (Nat.zero_le j) (by omega), Bool.and_false]
    · rw [decide_eq_false (by omega), Bool.false_and]

theorem SOp.result_popc : SOp.popc.result sg imm d a b = BitVec.ofNat n (popN n a.toNat) := by
  rw [popN, foldl_count]
  rfl

theorem getLsbD_bitsOf (f : Nat → Bool) (i : Nat) : (bitsOf f : BitVec n).getLsbD i = (decide (i < n) && f i) := by
  rw [bitsOf, BitVec.getLsbD_ofFnLE]
  split_ifs with h <;> simp [h]

/-- The bits of a width reversed up to bit `m`, as `brevN` gathers them. -/
theorem brevN_steps (x : Nat) {m : Nat} (hm : m ≤ n) :
    ∃ c, (List.range m).foldl (fun k i => if x.testBit i then k + 2 ^ (n - 1 - i) else k) 0 = 2 ^ (n - m) * c
      ∧ ∀ j, c.testBit j = (decide (j < m) && x.testBit (m - 1 - j)) := by
  induction m with
  | zero => exact ⟨0, by simp, by simp⟩
  | succ m ih =>
    obtain ⟨c, hc, hbits⟩ := ih (by omega)
    have hpow : 2 ^ (n - m) = 2 ^ (n - (m + 1)) * 2 := by rw [← pow_succ]; congr 1; omega
    refine ⟨Nat.bit (x.testBit m) c, ?_, fun j => ?_⟩
    · rw [List.range_succ, List.foldl_append, hc, List.foldl_cons, List.foldl_nil, hpow, show n - 1 - m = n - (m + 1) by omega]
      cases x.testBit m <;> simp [Nat.bit] <;> ring
    · cases j with
      | zero => simp
      | succ j => rw [Nat.testBit_bit_succ, hbits]; simp only [Nat.succ_lt_succ_iff]; congr 2; omega

theorem SOp.result_brev : SOp.brev.result sg imm d a b = BitVec.ofNat n (brevN n a.toNat) := by
  obtain ⟨c, hc, hbits⟩ := brevN_steps (n := n) a.toNat le_rfl
  rw [Nat.sub_self, pow_zero, one_mul] at hc
  refine BitVec.eq_of_getLsbD_eq fun i hi => ?_
  show (bitsOf (fun i => a.getLsbD (n - 1 - i)) : BitVec n).getLsbD i = (BitVec.ofNat n (brevN n a.toNat)).getLsbD i
  rw [getLsbD_bitsOf, BitVec.getLsbD_ofNat, brevN, hc, hbits, BitVec.testBit_toNat, decide_eq_true hi, Bool.true_and, Bool.true_and]

theorem SOp.result_cmp : SOp.cmp.result sg imm d a b
    = if intCond (imm.extractLsb' 0 3).toNat (asInt sg a) (asInt sg b) then 1 else 0 := by
  rw [intCond_asInt]
  rfl

/-! ### Fields of bits (R146) -/

theorem SOp.result_bfx {pos len : Nat} (hpos : (imm.extractLsb' 8 6).toNat = pos) (hlen : (imm.extractLsb' 0 7).toNat = len) :
    SOp.bfx.result sg imm d a b = if sg && (a.toNat / 2 ^ pos % 2 ^ len).testBit (len - 1)
      then BitVec.ofInt n ((a.toNat / 2 ^ pos % 2 ^ len : Nat) - 2 ^ len) else BitVec.ofNat n (a.toNat / 2 ^ pos % 2 ^ len) := by
  subst hpos hlen
  generalize hpos : (imm.extractLsb' 8 6).toNat = pos
  generalize hlen : (imm.extractLsb' 0 7).toNat = len
  obtain ⟨x, hx⟩ : ∃ x, a.extractLsb' pos len = x := ⟨_, rfl⟩
  have hnat : a.toNat / 2 ^ pos % 2 ^ len = x.toNat := by rw [← hx, BitVec.extractLsb'_toNat, Nat.shiftRight_eq_div_pow]
  have hres : SOp.bfx.result sg imm d a b = if sg then x.signExtend n else x.zeroExtend n := by
    show (if sg then (a.extractLsb' _ _).signExtend n else (a.extractLsb' _ _).zeroExtend n) = _
    rw [hpos, hlen, hx]
  have hmsb : x.toNat.testBit (len - 1) = x.msb := by rw [BitVec.msb_eq_getLsbD_last]; rfl
  rw [hres, hnat, hmsb]
  cases sg
  · exact (BitVec.ofNat_toNat n x).symm
  · show BitVec.ofInt n x.toInt = _
    rw [BitVec.toInt_eq_msb_cond, Bool.true_and, apply_ite (BitVec.ofInt n), BitVec.ofInt_natCast]
    push_cast
    rfl

theorem SOp.result_bfi {pos len : Nat} (hpos : (imm.extractLsb' 8 6).toNat = pos) (hlen : (imm.extractLsb' 0 7).toNat = len) :
    SOp.bfi.result sg imm d a b
      = BitVec.ofNat n (d.toNat / 2 ^ (pos + len) * 2 ^ (pos + len) + a.toNat % 2 ^ len * 2 ^ pos + d.toNat % 2 ^ pos) := by
  refine BitVec.eq_of_getLsbD_eq fun i hi => ?_
  show (bitsOf (fun i => if (imm.extractLsb' 8 6).toNat ≤ i ∧ i < (imm.extractLsb' 8 6).toNat + (imm.extractLsb' 0 7).toNat
    then a.getLsbD (i - (imm.extractLsb' 8 6).toNat) else d.getLsbD i) : BitVec n).getLsbD i = _
  rw [getLsbD_bitsOf, BitVec.getLsbD_ofNat, testBit_replace (Nat.mod_lt _ (Nat.two_pow_pos _)), hpos, hlen]
  split_ifs with hin
  · rw [Nat.testBit_mod_two_pow, decide_eq_true (by omega : i - pos < len), BitVec.testBit_toNat, Bool.true_and]
  · rw [BitVec.testBit_toNat]

end Results

/-! ## Scalar integer results (R142, R143) -/

/-- The low bits of a scalar register that a type reads. -/
def Ty.low (t : Ty) (x : Word) : BitVec t.bits := x.extractLsb' 0 t.bits

/-- A result of a type's width as a scalar register holds it. -/
def Ty.widen (t : Ty) (y : BitVec t.bits) : Word := if t.signed then y.signExtend 64 else y.zeroExtend 64

/-- The types of the scalar integer instructions. -/
def Ty.Scalar (t : Ty) : Prop := t = .i32 ∨ t = .n32 ∨ t = .i64 ∨ t = .n64

section Scalar
variable {t : Ty} (ht : t.Scalar)
include ht

theorem Ty.Scalar.bits : 0 < t.bits ∧ t.bits ≤ 64 := by
  rcases ht with rfl | rfl | rfl | rfl <;> decide

theorem sExt_eq (y : Word) : sExt t y = t.widen (t.low y) := by
  rcases ht with rfl | rfl | rfl | rfl
  · rfl
  · rfl
  · exact (BitVec.signExtend_eq _).symm.trans (congrArg _ BitVec.extractLsb'_eq_self.symm)
  · exact (BitVec.setWidth_eq _).symm.trans (congrArg _ BitVec.extractLsb'_eq_self.symm)

theorem sVal_eq (x : Word) : sVal t x = asInt t.signed (t.low x) := by
  rcases ht with rfl | rfl | rfl | rfl
  · rfl
  · rfl
  · exact congrArg BitVec.toInt (BitVec.extractLsb'_eq_self (x := x)).symm
  · exact congrArg (fun y : Word => (y.toNat : Int)) (BitVec.extractLsb'_eq_self (x := x)).symm

theorem SOp.value_eq (o : SOp) (imm : BitVec 14) (d a b : Word) :
    o.value t imm d a b = t.widen (o.result t.signed imm (t.low d) (t.low a) (t.low b)) := by
  have hself (x : Word) : x.extractLsb' 0 64 = x := BitVec.extractLsb'_eq_self
  rcases ht with rfl | rfl | rfl | rfl
  · rfl
  · rfl
  · show o.result true imm d a b = (o.result true imm (d.extractLsb' 0 64) (a.extractLsb' 0 64) (b.extractLsb' 0 64)).signExtend 64
    rw [hself, hself, hself, BitVec.signExtend_eq]
  · show o.result false imm d a b = (o.result false imm (d.extractLsb' 0 64) (a.extractLsb' 0 64) (b.extractLsb' 0 64)).zeroExtend 64
    rw [hself, hself, hself]
    exact (BitVec.setWidth_eq _).symm

omit ht in
theorem Ty.toNat_low (x : Word) : (t.low x).toNat = x.toNat % 2 ^ t.bits := by
  rw [Ty.low, BitVec.extractLsb'_toNat, Nat.shiftRight_zero]

theorem Ty.Scalar.low_ofNat (k : Nat) : t.low (BitVec.ofNat 64 (k % 2 ^ t.bits)) = BitVec.ofNat t.bits k := by
  have hdvd : 2 ^ t.bits ∣ 2 ^ 64 := pow_dvd_pow 2 ht.bits.2
  refine BitVec.eq_of_toNat_eq ?_
  rw [Ty.toNat_low, BitVec.toNat_ofNat, BitVec.toNat_ofNat, Nat.mod_mod_of_dvd _ hdvd, Nat.mod_mod]

theorem Ty.Scalar.low_ofInt (z : Int) : t.low (BitVec.ofInt 64 z) = BitVec.ofInt t.bits z := by
  have hdvd : ((2 ^ t.bits : Nat) : Int) ∣ ((2 ^ 64 : Nat) : Int) := Int.natCast_dvd_natCast.mpr (pow_dvd_pow 2 ht.bits.2)
  have hpos : ((2 ^ t.bits : Nat) : Int) ≠ 0 := by positivity
  refine BitVec.eq_of_toNat_eq (Int.ofNat_inj.mp ?_)
  rw [Ty.toNat_low, BitVec.toNat_ofInt, BitVec.toNat_ofInt, Int.natCast_mod, Int.toNat_of_nonneg (Int.emod_nonneg _ (by positivity)),
    Int.toNat_of_nonneg (Int.emod_nonneg _ hpos), Int.emod_emod_of_dvd _ hdvd]

theorem Ty.Scalar.toInt_low (x : Word) : (if t.bits = 64 then x.toInt else (x.extractLsb' 0 32).toInt) = (t.low x).toInt := by
  have hself : x.extractLsb' 0 64 = x := BitVec.extractLsb'_eq_self
  rcases ht with rfl | rfl | rfl | rfl
  · rfl
  · rfl
  · exact congrArg BitVec.toInt hself.symm
  · exact congrArg BitVec.toInt hself.symm

theorem Ty.Scalar.low_bool (p : Bool) : t.low (if p then 1 else 0) = if p then 1 else 0 := by
  rcases ht with rfl | rfl | rfl | rfl <;> cases p <;> rfl

theorem Ty.Scalar.low_not (x : Word) : t.low (~~~x) = ~~~(t.low x) := by
  have hself (y : Word) : y.extractLsb' 0 64 = y := BitVec.extractLsb'_eq_self
  rcases ht with rfl | rfl | rfl | rfl
  · exact BitVec.extractLsb'_not_of_lt (by decide)
  · exact BitVec.extractLsb'_not_of_lt (by decide)
  · exact (hself _).trans (congrArg (~~~ ·) (hself x).symm)
  · exact (hself _).trans (congrArg (~~~ ·) (hself x).symm)

/-- The model's scalar results are those of R143. -/
theorem sopVal_eq (o : SOp) (imm : BitVec 14) (d a b : Word) (habs : o = .abs ∨ o = .neg → t = .i32 ∨ t = .i64) :
    sopVal o t imm d a b = o.value t imm d a b := by
  have hw := ht.bits.1
  have hadd (x y : BitVec t.bits) : BitVec.ofInt t.bits (asInt t.signed x + asInt t.signed y) = x + y := by
    rw [BitVec.ofInt_add, ofInt_asInt, ofInt_asInt]
  have hneg (x : BitVec t.bits) : BitVec.ofInt t.bits (-asInt t.signed x) = -x := by
    rw [BitVec.ofInt_neg, ofInt_asInt]
  rw [SOp.value_eq ht, sopVal.eq_def, sExt_eq ht]
  simp only [sVal_eq ht, ← Ty.toNat_low, ht.toInt_low]
  refine congrArg t.widen ?_
  cases o with
  | add => exact (ht.low_ofInt _).trans (hadd _ _)
  | sub =>
    refine (ht.low_ofInt _).trans ?_
    rw [sub_eq_add_neg, BitVec.ofInt_add, hneg, ofInt_asInt]
    exact (BitVec.sub_eq_add_neg _ _).symm
  | mul =>
    refine (ht.low_ofInt _).trans ?_
    rw [BitVec.ofInt_mul, ofInt_asInt, ofInt_asInt]
    rfl
  | mulh => exact (ht.low_ofInt _).trans (SOp.result_mulh _ _ _ _ _).symm
  | shl => exact (ht.low_ofNat _).trans (SOp.result_shl _ _ _ _ _).symm
  | shr => exact (ht.low_ofNat _).trans (SOp.result_shr _ _ _ _ _).symm
  | sar => exact (ht.low_ofInt _).trans (SOp.result_sar _ _ _ _ _).symm
  | rol => exact (ht.low_ofNat _).trans (SOp.result_rol _ _ _ _ _ hw).symm
  | ror => exact (ht.low_ofNat _).trans (SOp.result_ror _ _ _ _ _ hw).symm
  | and => exact BitVec.extractLsb'_and
  | or => exact BitVec.extractLsb'_or
  | xor => exact BitVec.extractLsb'_xor
  | andn => exact BitVec.extractLsb'_and.trans (congrArg _ (ht.low_not b))
  | not => exact ht.low_not a
  | min => exact (apply_ite t.low _ _ _).trans (SOp.result_min _ _ _ _ _).symm
  | max => exact (apply_ite t.low _ _ _).trans (SOp.result_max _ _ _ _ _).symm
  | abs =>
    have hsg : t.signed = true := by rcases habs (.inl rfl) with rfl | rfl <;> rfl
    refine (ht.low_ofInt _).trans ?_
    rw [hsg]
    exact (SOp.result_abs _ _ _ _ _).symm
  | neg => exact (ht.low_ofInt _).trans (hneg _)
  | div => exact (ht.low_ofInt _).trans (SOp.result_div _ _ _ _ _).symm
  | rem => exact (ht.low_ofInt _).trans (SOp.result_rem _ _ _ _ _).symm
  | clz => exact (ht.low_ofNat _).trans (SOp.result_clz _ _ _ _ _).symm
  | ctz => exact (ht.low_ofNat _).trans (SOp.result_ctz _ _ _ _ _).symm
  | popc => exact (ht.low_ofNat _).trans (SOp.result_popc _ _ _ _ _).symm
  | brev => exact (ht.low_ofNat _).trans (SOp.result_brev _ _ _ _ _).symm
  | cmp => exact (ht.low_bool _).trans (SOp.result_cmp _ _ _ _ _).symm
  | bfx =>
    rw [SOp.result_bfx _ _ _ _ _ rfl rfl, apply_ite t.low, ht.low_ofInt, ht.low_ofNat]
  | bfi => exact (ht.low_ofNat _).trans (SOp.result_bfi _ _ _ _ _ rfl rfl).symm
  | mov => rfl

end Scalar

end Sys2Proof

namespace Sys2Proof.Machine

/-- A scalar result in a predicate register is written whole (R145). -/
theorem State.finishS_p {s : State} {h : Hdr} {c : Ctx} (hc : s.ctx h = some c) (n : BitVec 4) (x : Word) :
    s.Done (s.finishS c (.p n) x) c c.nextPc [.p n.toNat]
      ∧ (c.slugIn (s.finishS c (.p n) x)).readP n.toNat = if n = 0 then 0xFFFFFFFF else x.extractLsb' 0 32 := by
  obtain ⟨hdone, hslug⟩ := State.done_of hc (·.writeP n.toNat 0xFFFFFFFF (x.extractLsb' 0 32)) c.nextPc [.p n.toNat]
    (Slug.regsBut_writeP _ _ _ _) (Slug.restAs_writeP _ _ _ _ _) (Slug.slot_writeP _ _ _ _ _)
  refine ⟨hdone, ?_⟩
  have hn : n.toNat = 0 ↔ n = 0 := by rw [← BitVec.toNat_inj]; rfl
  show (c.slugIn ((s.modCur (·.writeP n.toNat 0xFFFFFFFF (x.extractLsb' 0 32))).retireTo c.nextPc)).readP n.toNat = _
  rw [hslug, Ctx.finish_readP, Slug.readP_writeP]
  by_cases h0 : n = 0
  · rw [if_neg fun h => h.2 (hn.mpr h0), if_pos h0, h0]
    rfl
  · rw [if_pos ⟨rfl, mt hn.mp h0⟩, if_neg h0]
    exact (congrArg₂ (· ||| ·) BitVec.and_zero BitVec.and_allOnes).trans BitVec.zero_or

end Sys2Proof.Machine

namespace Sys2Proof

open Sys2Proof.Machine

theorem exec_sopInstr_inactive {o : SOp} {w : Ops} {m : AluMod} {s : State} {c : Ctx} (hc : s.ctx w.h = some c) (hact : c.act = 0) :
    exec (o.instr w m) s = .next (s.retire c) := by
  rw [exec_sopInstr, scalarInt, scalarWord_eq hc, if_pos hact]

theorem exec_sopInstr_active {o : SOp} {w : Ops} {m : AluMod} {s : State} {c : Ctx} (hc : s.ctx w.h = some c) (hact : c.act ≠ 0)
    (ht : m.ty.Scalar) (habs : o = .abs ∨ o = .neg → m.ty = .i32 ∨ m.ty = .i64) :
    exec (o.instr w m) s = .next (s.finishS c w.d
      (o.value m.ty m.imm (c.m.srcG w m.imm w.d) (c.m.srcG w m.imm w.a) (c.m.srcG w m.imm w.b))) := by
  rw [exec_sopInstr, scalarInt, scalarWord_eq hc, if_neg hact, ← sopVal_eq ht _ _ _ _ _ habs]

/-- Settles O1: the model's results are those of the tables, whatever the destination. -/
theorem scalarIntegerResult : Obligations.ScalarIntegerResult := by
  unfold Obligations.ScalarIntegerResult
  intro o w m s c hc
  refine ⟨fun hact => ⟨_, exec_sopInstr_inactive hc hact, State.done_retire hc⟩, fun y hact ⟨hty, habs, _⟩ hy => ?_⟩
  have he := exec_sopInstr_active hc hact hty habs
  rw [← hy] at he
  refine ⟨fun n hd hpin => ?_, fun n hd hpin => ?_, fun n hd => ?_⟩ <;> rw [hd] at he
  · exact State.givesG_of_exec hc hpin he
  · exact he.trans (congrArg Host.Outcome.next (if_pos hpin))
  · exact ⟨_, he, State.finishS_p hc n y⟩

end Sys2Proof

namespace Sys2Proof

open Sys2Proof.Machine

/-! ## Vector integer results (spec/05 R147, R148) -/

theorem lInt_eq_asInt (t : Ty) (x : Lane) : lInt t x = asInt (decide (t = .i32)) x := by
  by_cases h : t = .i32 <;> simp [lInt, asInt, h]

section Clamped
variable (t : Ty) (a b : Lane)

/-- A lane read at a type and widened to 34 bits keeps its value. -/
theorem toInt_wide : (if decide (t = .i32) then a.signExtend 34 else a.zeroExtend 34).toInt = lInt t a := by
  rw [lInt_eq_asInt]
  cases decide (t = .i32)
  · simp only [Bool.false_eq_true, if_false, asInt]
    have := a.isLt
    rw [BitVec.toInt_eq_toNat_of_lt] <;> simp only [BitVec.truncate_eq_setWidth, BitVec.toNat_setWidth] <;> omega
  · exact BitVec.toInt_signExtend_of_le (by decide)

theorem lInt_bounds : -2 ^ 31 ≤ lInt t a ∧ lInt t a < 2 ^ 32 := by
  unfold lInt
  have := a.isLt
  split_ifs
  · have := BitVec.toInt_lt (x := a)
    have := BitVec.le_toInt (x := a)
    omega
  · omega

theorem satLane_of_lt {x : Int} (h : x < if t = .i32 then -2 ^ 31 else 0) :
    satLane t x = if t = .i32 then 0x80000000 else 0 := by
  unfold satLane
  split_ifs at h ⊢ <;> dsimp only
  · rw [max_eq_left ((min_le_right _ _).trans h.le)]; rfl
  · rw [max_eq_left ((min_le_right _ _).trans h.le)]; rfl

theorem satLane_of_gt {x : Int} (h : (if t = .i32 then 2 ^ 31 - 1 else 2 ^ 32 - 1) < x) :
    satLane t x = if t = .i32 then 0x7FFFFFFF else 0xFFFFFFFF := by
  unfold satLane
  split_ifs at h ⊢ <;> dsimp only
  · rw [min_eq_left h.le]; rfl
  · rw [min_eq_left h.le]; rfl

theorem satLane_of_within {x : Int} (hlo : (if t = .i32 then -2 ^ 31 else 0) ≤ x) (hhi : x ≤ if t = .i32 then 2 ^ 31 - 1 else 2 ^ 32 - 1) :
    satLane t x = BitVec.ofInt 32 x := by
  rw [satLane, min_eq_right hhi, max_eq_right hlo]

/-- Clamping a 34-bit sum is clamping its value. -/
theorem clamped_eq (x : BitVec 34) : clamped (decide (t = .i32)) x = satLane t x.toInt := by
  have hlow : x.extractLsb' 0 32 = BitVec.ofInt 32 x.toInt := by
    refine BitVec.eq_of_toNat_eq ?_
    have := x.isLt
    rw [BitVec.extractLsb'_toNat, Nat.shiftRight_zero, BitVec.toNat_ofInt, BitVec.toInt_eq_toNat_cond]
    split_ifs <;> omega
  have h31 : (-2147483648 : BitVec 34).toInt = -2 ^ 31 := by decide
  have hmax : (2147483647 : BitVec 34).toInt = 2 ^ 31 - 1 := by decide
  have hzero : (0 : BitVec 34).toInt = 0 := by decide
  have hall : (4294967295 : BitVec 34).toInt = 2 ^ 32 - 1 := by decide
  unfold clamped
  simp only [BitVec.slt_iff_toInt_lt, h31, hmax, hzero, hall, hlow, decide_eq_true_eq]
  by_cases ht : t = .i32 <;> simp only [ht, if_true, if_false]
  · split_ifs with hlt hgt
    · rw [satLane_of_lt _ hlt]; rfl
    · rw [satLane_of_gt _ hgt]; rfl
    · exact (satLane_of_within _ (not_lt.mp hlt) (not_lt.mp hgt)).symm
  · split_ifs with hlt hgt
    · rw [satLane_of_lt _ (by rwa [if_neg ht]), if_neg ht]
    · rw [satLane_of_gt _ (by rwa [if_neg ht]), if_neg ht]
    · exact (satLane_of_within _ (by simpa [ht] using hlt) (by simpa [ht] using hgt)).symm

theorem clamped_add : clamped (decide (t = .i32)) ((if decide (t = .i32) then a.signExtend 34 else a.zeroExtend 34)
    + (if decide (t = .i32) then b.signExtend 34 else b.zeroExtend 34)) = satLane t (lInt t a + lInt t b) := by
  have ha := lInt_bounds t a
  have hb := lInt_bounds t b
  rw [clamped_eq, BitVec.toInt_add, toInt_wide, toInt_wide, Int.bmod_eq_of_le (by omega) (by omega)]

theorem clamped_sub : clamped (decide (t = .i32)) ((if decide (t = .i32) then a.signExtend 34 else a.zeroExtend 34)
    - (if decide (t = .i32) then b.signExtend 34 else b.zeroExtend 34)) = satLane t (lInt t a - lInt t b) := by
  have ha := lInt_bounds t a
  have hb := lInt_bounds t b
  rw [clamped_eq, BitVec.toInt_sub, toInt_wide, toInt_wide, Int.bmod_eq_of_le (by omega) (by omega)]

end Clamped

/-- The absolute difference of the bytes of two lanes. -/
theorem byteGap_eq (a b : Lane) {i k : Nat} (hk : 256 ^ i = 2 ^ k) : byteGap (a.extractLsb' k 8) (b.extractLsb' k 8)
    = BitVec.ofNat 32 ((a.toNat / 256 ^ i % 256 : Int) - (b.toNat / 256 ^ i % 256 : Nat)).natAbs := by
  have hnat (x : Lane) : (x.extractLsb' k 8).toNat = x.toNat / 256 ^ i % 256 := by
    rw [BitVec.extractLsb'_toNat, Nat.shiftRight_eq_div_pow, hk]
  have ha := (a.extractLsb' k 8).isLt
  have hb := (b.extractLsb' k 8).isLt
  have hcast : (a.toNat : Int) / 256 ^ i % 256 = ((a.toNat / 256 ^ i % 256 : Nat) : Int) := by push_cast; rfl
  rw [hcast, ← hnat, ← hnat]
  generalize a.extractLsb' k 8 = x at ha
  generalize b.extractLsb' k 8 = y at hb
  refine BitVec.eq_of_toNat_eq ?_
  rw [byteGap, BitVec.zeroExtend, BitVec.toNat_setWidth, BitVec.toNat_ofNat]
  split_ifs with h <;> rw [BitVec.ult_iff_toNat_lt] at h <;> rw [BitVec.toNat_sub_of_le (by rw [BitVec.le_def]; omega)] <;> omega

theorem sadLane_eq (a b : Lane) : BitVec.ofNat 32 (sadLane a b)
    = byteGap (a.extractLsb' 0 8) (b.extractLsb' 0 8) + byteGap (a.extractLsb' 8 8) (b.extractLsb' 8 8)
      + byteGap (a.extractLsb' 16 8) (b.extractLsb' 16 8) + byteGap (a.extractLsb' 24 8) (b.extractLsb' 24 8) := by
  rw [byteGap_eq a b (i := 0) rfl, byteGap_eq a b (i := 1) rfl, byteGap_eq a b (i := 2) rfl, byteGap_eq a b (i := 3) rfl,
    ← BitVec.ofNat_add, ← BitVec.ofNat_add, ← BitVec.ofNat_add]
  unfold sadLane
  rw [show List.range 4 = [0, 1, 2, 3] from rfl]
  simp only [List.foldl_cons, List.foldl_nil, Nat.zero_add]

/-- The model's lane results are those of R147. -/
theorem viVal_eq {o : VIOp} {t : Ty} {imm : BitVec 14} (habs : o = .abs ∨ o = .neg → t = .i32) (q : Bool) (d a b : Lane) :
    viVal o t imm q d a b = o.result (decide (t = .i32)) q imm d a b := by
  rw [viVal.eq_def]
  simp only [lInt_eq_asInt]
  cases o with
  | mulh => exact (SOp.result_mulh _ imm d a b).symm
  | min => exact (SOp.result_min _ imm d a b).symm
  | max => exact (SOp.result_max _ imm d a b).symm
  | abs =>
    obtain rfl := habs (.inl rfl)
    refine Eq.trans (congrArg (BitVec.ofInt 32) ?_) (SOp.result_abs true imm d a b).symm
    show ((a.toInt.natAbs : Nat) : Int) = _
    split_ifs <;> omega
  | adds => simp only [← lInt_eq_asInt]; exact (clamped_add t a b).symm
  | subs => simp only [← lInt_eq_asInt]; exact (clamped_sub t a b).symm
  | div => exact (SOp.result_div _ imm d a b).symm
  | rem => exact (SOp.result_rem _ imm d a b).symm
  | clz => exact (SOp.result_clz (decide (t = .i32)) imm d a b).symm
  | popc => exact (SOp.result_popc (decide (t = .i32)) imm d a b).symm
  | brev => exact (SOp.result_brev (decide (t = .i32)) imm d a b).symm
  | bfx => exact (SOp.result_bfx _ imm d a b rfl rfl).symm
  | bfi => exact (SOp.result_bfi (decide (t = .i32)) imm d a b rfl rfl).symm
  | sad =>
    show d + BitVec.ofNat 32 (sadLane a b) = d + _ + _ + _ + _
    rw [sadLane_eq]
    simp only [BitVec.add_assoc]
  | _ => rfl

theorem vectorIntegerResult : Claim.VectorIntegerResult := by
  intro o w m s c n hc ho hok hd
  obtain ⟨-, habs, -⟩ := hok
  have he : exec (o.instr w m) s = .next (s.finishV c n.toNat (fun i =>
      o.result (decide (m.ty = .i32)) ((c.m.readP (m.imm.extractLsb' 0 4).toNat).getLsbD i.val) m.imm
        (c.m.readV n.toNat)[i] (c.m.srcV w m.imm m.ty w.a i) (c.m.srcV w m.imm m.ty w.b i))) := by
    rw [exec_viopInstr ho, vectorInt, vectorWord_eq hc, hd]
    simp only [viVal_eq habs]
    rfl
  exact State.givesV_of_exec hc he

theorem vectorIntegerCompareResult : Claim.VectorIntegerCompareResult := by
  intro w m s c n hc _ hd
  refine State.givesP_of_exec hc ((vectorWord_eq hc _ : exec (.vcmpInt w m) s = _).trans (by rw [hd]; rfl)) (fun i => ?_)
  rw [getLsbD_maskFn, lInt_eq_asInt, lInt_eq_asInt, intCond_asInt]

/-- Settles O2: the lane results are the scalar results at 32 bits, a clamped 34-bit sum or the sum of the byte differences. -/
theorem vectorIntegerResults : Obligations.VectorIntegerResults := ⟨vectorIntegerResult, vectorIntegerCompareResult⟩

end Sys2Proof

namespace Sys2Proof.Machine

/-! ## Lanes by virtual lane id (spec/05 R161, R162) -/

/-- Where no lane that the word names is moving, it goes on (R45). -/
theorem State.laneWord_of_still {s : State} {c : Ctx} {fs : Bool} (hstill : fs = true → ∀ v, c.f.moving v = false) (d : Nat) (a : Opnd)
    (val : Fin 32 → Lane) (src : Fin 32 → Option Nat) :
    s.laneWord c fs d a val src = s.finishV c d (fun i => match (src i).bind (s.reach c fs) with
      | some l => c.sourceAt a (val i) l
      | none => val i) := by
  have hgo : (fs && ((List.finRange 32).filterMap (fun i => if c.act.getLsbD i.val then src i else none)).any
      (fun v => (s.reach c fs v).isSome && c.f.moving v)) = false := by
    cases fs with
    | false => rfl
    | true =>
      simp only [hstill rfl, Bool.and_false, Bool.true_and, List.any_eq_false]
      exact fun _ _ => Bool.false_ne_true
  rw [State.laneWord]
  simp only [hgo, Bool.false_eq_true, if_false]
  congr 1
  funext i
  cases hsrc : src i with
  | none => rfl
  | some v =>
    cases hreach : s.reach c fs v with
    | none => simp only [Option.bind_some, hreach]
    | some l =>
      simp only [Option.bind_some, hreach]
      cases a <;> rfl

/-- The source lane of each mode (R162). -/
theorem shflSource_eq (mode : BitVec 3) (arg : BitVec 10) (idx u : Nat) :
    shflSource mode.toNat arg.toNat idx u = if mode = 0 then some idx
      else if mode = 1 then some (u ^^^ arg.toNat)
      else if mode = 2 then (if arg.toNat ≤ u then some (u - arg.toNat) else none)
      else some (u + arg.toNat) := by
  have hmode (k : BitVec 3) : mode.toNat = k.toNat ↔ mode = k := BitVec.toNat_inj
  have h0 := hmode 0
  have h1 := hmode 1
  have h2 := hmode 2
  simp only [shflSource, ← h0, ← h1, ← h2]
  rfl

/-- Where the remap table says that a lane stands (spec/02 R67). -/
def Forme.standsAt (f : Forme) (v : Nat) : Nat × Nat :=
  match (f.remap.look v).moved with
  | some (a, b) => (a.toNat, b.toNat)
  | none => (v / 32, v % 32)

theorem Forme.lane_eq (f : Forme) (v : Nat) :
    f.lane v = ((f.standsAt v).1, (f.standsAt v).2, !(f.remap.look v).dead) := by
  cases h : (f.remap.look v).moved <;> simp only [Forme.lane, Forme.standsAt, h]

end Sys2Proof.Machine

namespace Sys2Proof

open Sys2Proof.Machine

theorem reachableLanes : Claim.ReachableLanes := by
  intro s c fs v l
  show _ ↔ _ ∧ _ ∧ _ ∧ _ ∧ l = c.f.standsAt v
  rw [State.reach, Forme.lane_eq]
  simp only [Option.ite_none_right_eq_some, Bool.and_eq_true, decide_eq_true_eq, Bool.not_eq_true', Bool.or_eq_true, beq_iff_eq,
    Option.some.injEq]
  constructor
  · rintro ⟨⟨⟨⟨hv, hdead⟩, hlive⟩, hscope⟩, rfl⟩
    exact ⟨hv, hdead, hlive, hscope, rfl⟩
  · rintro ⟨hv, hdead, hlive, hscope, rfl⟩
    exact ⟨⟨⟨⟨hv, hdead⟩, hlive⟩, hscope⟩, rfl⟩

theorem laneReadsAndWrites : Claim.LaneReadsAndWrites := by
  intro w m s c hc hstill
  refine ⟨?_, fun n k y hd ha hact hy hpin => State.givesG_of_exec hc hpin ?_⟩
  · intro n hd own from'
    refine ⟨?_, ?_, ?_⟩
    · refine State.givesV_of_exec hc ((vectorWord_eq hc _ : exec (.shfl w m) s = _).trans ?_)
      simp only [State.laneWord_of_still hstill, shflSource_eq, hd]
      rfl
    · refine State.givesV_of_exec hc ((vectorWord_eq hc _ : exec (.bcast w m) s = _).trans ?_)
      simp only [State.laneWord_of_still hstill, hd]
      rfl
    · have hexec : exec (.lwr w m) s = .next ((s.modCur (·.writeV n.toNat (c.act &&& maskFn (fun i =>
          c.vlid i.val == (c.m.srcG w 0 w.b).toNat)) (fun _ => (c.m.srcG w 0 w.a).extractLsb' 0 32))).retire c) := by
        refine (vectorWord_eq hc _).trans ?_
        simp only [hd]
        rfl
      obtain ⟨t, he, hdone, hlanes⟩ := State.doneV_of_exec hc hexec
      refine ⟨t, he, hdone, fun i => ?_⟩
      rw [hlanes, BitVec.getLsbD_and, getLsbD_maskFn]
      simp only [Bool.and_eq_true, beq_iff_eq]
  · refine (scalarWord_eq hc _ : exec (.lrd w m) s = _).trans ((if_neg hact).trans ?_)
    subst hy
    cases hreach : s.reach c m.fs (c.m.srcG w 0 w.b).toNat with
    | none => simp only [hreach, hd]; rfl
    | some l =>
      have hgo : (m.fs && c.f.moving (c.m.srcG w 0 w.b).toNat) = false := by
        cases hfs : m.fs with
        | false => rfl
        | true => simp [hstill hfs]
      simp only [hreach, hgo, hd, ha, Bool.false_eq_true, if_false]
      rfl

/-- Settles O9: a lane is reachable as `State.reach` says; a word whose lanes stand still reads, or writes, the lanes it names. -/
theorem laneExchanges : Obligations.LaneExchanges := ⟨reachableLanes, laneReadsAndWrites⟩

end Sys2Proof

namespace Sys2Proof.Machine

/-! ## Lanes in ascending virtual lane id (spec/05 R163) -/

section Sorting
variable {α : Type} (key : α → Nat)

theorem insertBy_perm (x : α) (l : List α) : (insertBy key x l).Perm (x :: l) := by
  induction l with
  | nil => exact .refl _
  | cons y l ih =>
    rw [insertBy]
    split_ifs
    · exact .refl _
    · exact (ih.cons y).trans (.swap x y l)

theorem pairwise_insertBy (x : α) {l : List α} (h : l.Pairwise (fun a b => key a ≤ key b)) :
    (insertBy key x l).Pairwise (fun a b => key a ≤ key b) := by
  induction l with
  | nil => exact List.pairwise_singleton _ _
  | cons y l ih =>
    obtain ⟨hy, hl⟩ := List.pairwise_cons.mp h
    rw [insertBy]
    split_ifs with hlt
    · refine List.pairwise_cons.mpr ⟨fun z hz => ?_, h⟩
      rcases List.mem_cons.mp hz with rfl | hz
      · exact hlt.le
      · exact hlt.le.trans (hy z hz)
    · refine List.pairwise_cons.mpr ⟨fun z hz => ?_, ih hl⟩
      rcases List.mem_cons.mp ((insertBy_perm key x l).mem_iff.mp hz) with rfl | hz
      · exact Nat.not_lt.mp hlt
      · exact hy z hz

/-- Sorting orders a list by the key and keeps its members. -/
theorem sortBy_spec (l : List α) : (sortBy key l).Perm l ∧ (sortBy key l).Pairwise (fun a b => key a ≤ key b) := by
  have fold (r : List α) (hr : r.Pairwise (fun a b => key a ≤ key b)) :
      (l.foldl (fun r x => insertBy key x r) r).Perm (r ++ l)
        ∧ (l.foldl (fun r x => insertBy key x r) r).Pairwise (fun a b => key a ≤ key b) := by
    induction l generalizing r with
    | nil => exact ⟨by simp, hr⟩
    | cons x l ih =>
      obtain ⟨hperm, hsorted⟩ := ih _ (pairwise_insertBy key x hr)
      exact ⟨hperm.trans (((insertBy_perm key x r).append_right l).trans List.perm_middle.symm), hsorted⟩
  exact fold [] .nil

end Sorting

section Lanes
variable (c : Ctx)

theorem Ctx.byVlid_pairwise : c.byVlid.Pairwise (fun a b => c.vlid a ≤ c.vlid b) := (sortBy_spec c.vlid (planes c.act)).2

theorem Ctx.byVlid_nodup : c.byVlid.Nodup :=
  (sortBy_spec c.vlid (planes c.act)).1.nodup_iff.mpr (List.Nodup.filter _ List.nodup_range)

theorem Ctx.mem_byVlid {p : Nat} : p ∈ c.byVlid ↔ p < 32 ∧ c.act.getLsbD p = true :=
  (sortBy_spec c.vlid (planes c.act)).1.mem_iff.trans mem_planes

/-- The active lane of least virtual lane id stands first. -/
theorem Ctx.exists_first (h : c.act ≠ 0) : ∃ (p : Fin 32) (r : List Nat), c.byVlid = p.val :: r ∧ c.act.getLsbD p.val = true
    ∧ ∀ q : Fin 32, c.act.getLsbD q.val = true → c.vlid p.val ≤ c.vlid q.val := by
  obtain ⟨q, hq⟩ := exists_active h
  have hmem : q.val ∈ c.byVlid := c.mem_byVlid.mpr ⟨q.isLt, hq⟩
  cases hl : c.byVlid with
  | nil => rw [hl] at hmem; cases hmem
  | cons p r =>
    obtain ⟨hp, hact⟩ := c.mem_byVlid.mp (show p ∈ c.byVlid by rw [hl]; exact List.mem_cons_self)
    refine ⟨⟨p, hp⟩, r, rfl, hact, fun k hk => ?_⟩
    have hk' : k.val ∈ p :: r := hl ▸ c.mem_byVlid.mpr ⟨k.isLt, hk⟩
    rcases List.mem_cons.mp hk' with heq | hr
    · rw [heq]
    · have hsorted := c.byVlid_pairwise
      rw [hl] at hsorted
      exact (List.pairwise_cons.mp hsorted).1 _ hr

/-! ## Votes (spec/05 R163) -/

theorem Ctx.getLsbD_predBits (o : Opnd) (k : Nat) : (c.predBits o).getLsbD k = ((c.m.readP o.num).getLsbD k && c.act.getLsbD k) :=
  BitVec.getLsbD_and

theorem Ctx.predBits_eq_act (o : Opnd) :
    c.predBits o = c.act ↔ ∀ i : Fin 32, c.act.getLsbD i.val = true → (c.m.readP o.num).getLsbD i.val = true := by
  constructor
  · intro h i hi
    have := congrArg (·.getLsbD i.val) h
    simp only [c.getLsbD_predBits, hi, Bool.and_true] at this
    exact this
  · intro h
    refine BitVec.eq_of_getLsbD_eq fun i hi => ?_
    rw [c.getLsbD_predBits]
    cases hact : c.act.getLsbD i with
    | false => rw [Bool.and_false]
    | true => rw [h ⟨i, hi⟩ hact]; rfl

theorem Ctx.predBits_eq_zero (o : Opnd) :
    c.predBits o = 0 ↔ ∀ i : Fin 32, c.act.getLsbD i.val = true → (c.m.readP o.num).getLsbD i.val = false := by
  constructor
  · intro h i hi
    have := congrArg (·.getLsbD i.val) h
    simp only [c.getLsbD_predBits, hi, Bool.and_true] at this
    exact this.trans BitVec.getLsbD_zero
  · intro h
    refine BitVec.eq_of_getLsbD_eq fun i hi => ?_
    rw [c.getLsbD_predBits, BitVec.ofNat_eq_ofNat, BitVec.getLsbD_zero]
    cases hact : c.act.getLsbD i with
    | false => rw [Bool.and_false]
    | true => rw [h ⟨i, hi⟩ hact]; rfl

/-- What each mode of `VOTE` asks of the active lanes. -/
theorem voteBit_eq (o : Opnd) :
    let bit (i : Fin 32) : Bool := (c.m.readP o.num).getLsbD i.val
    let act (i : Fin 32) : Bool := c.act.getLsbD i.val
    voteBit 0 c.act (c.predBits o) = decide (∀ i, act i → bit i)
      ∧ voteBit 1 c.act (c.predBits o) = decide (∃ i, act i ∧ bit i)
      ∧ voteBit 2 c.act (c.predBits o) = decide (∀ i j, act i → act j → bit i = bit j) := by
  intro bit act
  have hall : c.predBits o = c.act ↔ ∀ i, act i = true → bit i = true := c.predBits_eq_act o
  have hnone : c.predBits o = 0 ↔ ∀ i, act i = true → bit i = false := c.predBits_eq_zero o
  refine ⟨Bool.eq_iff_iff.mpr ?_, Bool.eq_iff_iff.mpr ?_, Bool.eq_iff_iff.mpr ?_⟩
  · rw [decide_eq_true_eq, ← hall]
    exact beq_iff_eq
  · rw [decide_eq_true_eq]
    refine (bne_iff_ne.trans (not_congr hnone)).trans ?_
    simp only [not_forall, Bool.not_eq_false, exists_prop]
  · rw [decide_eq_true_eq]
    refine (Bool.or_eq_true _ _).to_iff.trans ?_
    rw [beq_iff_eq, beq_iff_eq, hall, hnone]
    constructor
    · rintro (h | h) i j hi hj
      · rw [h i hi, h j hj]
      · rw [h i hi, h j hj]
    · intro heq
      by_cases hset : ∃ i, act i = true ∧ bit i = true
      · obtain ⟨i, hi, hbit⟩ := hset
        exact .inl fun j hj => (heq j i hj hi).trans hbit
      · exact .inr fun j hj => Bool.eq_false_iff.mpr fun hbit => hset ⟨j, hj, hbit⟩

/-- The lanes that a count of a predicate counts. -/
theorem popcount_predBits (o : Opnd) : popcount (c.predBits o)
    = ((List.finRange 32).filter (fun i => c.act.getLsbD i.val && (c.m.readP o.num).getLsbD i.val)).length := by
  rw [popcount, foldl_count, ← List.map_coe_finRange_eq_range, List.filter_map, List.length_map]
  congr 2
  funext i
  rw [Function.comp_apply, c.getLsbD_predBits, Bool.and_comm]

end Lanes

/-! ## Scans (spec/05 R163) -/

/-- A scan gives each lane the fold of the lanes before it, its own included where it is inclusive. -/
theorem find?_scanLanes (op : Lane → Lane → Lane) (excl : Bool) (val : Nat → Lane) {l : List Nat} (hl : l.Nodup) (acc : Lane) {k : Nat}
    (hk : k < l.length) :
    (scanLanes op excl val l acc).find? (fun e => e.1 == l[k])
      = some (l[k], ((l.take (if excl then k else k + 1)).map val).foldl op acc) := by
  induction l generalizing acc k with
  | nil => cases hk
  | cons p l ih =>
    obtain ⟨hp, hl⟩ := List.nodup_cons.mp hl
    cases k with
    | zero => cases excl <;> simp [scanLanes]
    | succ k =>
      have hne : p ≠ l[k]'(Nat.lt_of_succ_lt_succ hk) := fun h => hp (h ▸ List.getElem_mem _)
      have := ih hl (op acc (val p)) (Nat.lt_of_succ_lt_succ hk)
      rw [scanLanes, List.find?_cons_of_neg (by simpa using hne)]
      cases excl <;> simpa using this

/-! ### The operations and their identities -/

theorem lInt_injective (t : Ty) : Function.Injective (lInt t) := by
  intro x y h
  unfold lInt at h
  split_ifs at h
  · exact BitVec.eq_of_toInt_eq h
  · exact BitVec.eq_of_toNat_eq (by exact_mod_cast h)

/-- Choosing by the order of a type. -/
theorem ite_lInt_le {α : Type} (x y : Lane) (u v : α) :
    (if lInt .i32 x ≤ lInt .i32 y then u else v) = (if y.slt x then v else u)
      ∧ (if lInt .n32 x ≤ lInt .n32 y then u else v) = (if y.ult x then v else u) := by
  have hslt : lInt .i32 x ≤ lInt .i32 y ↔ ¬ y.slt x = true := by rw [BitVec.slt_iff_toInt_lt, not_lt]; rfl
  have hult : lInt .n32 x ≤ lInt .n32 y ↔ ¬ y.ult x = true := by rw [BitVec.ult_iff_toNat_lt, not_lt]; exact Int.ofNat_le
  simp only [hslt, hult, ite_not, and_self]

/-- The identities of minimum and maximum are the ends of the type's range. -/
theorem lInt_bounds {t : Ty} (ht : t = .i32 ∨ t = .n32) (x : Lane) :
    lInt t x ≤ lInt t (scanIdentity t 1) ∧ lInt t (scanIdentity t 2) ≤ lInt t x := by
  rcases ht with rfl | rfl
  · exact ⟨Int.le_of_lt_add_one x.toInt_lt, x.le_toInt⟩
  · exact ⟨Int.le_of_lt_add_one (Int.ofNat_lt.mpr x.isLt), Int.natCast_nonneg _⟩

theorem scanOp_identity {t : Ty} (ht : t = .i32 ∨ t = .n32) {op : Nat} (hop : op < 6) (x : Lane) :
    scanOp t op (scanIdentity t op) x = x := by
  obtain ⟨hmin, hmax⟩ := lInt_bounds ht x
  have hflt : t.flt = false := by rcases ht with rfl | rfl <;> rfl
  unfold scanOp
  rw [if_neg (by rw [hflt]; exact Bool.false_ne_true)]
  interval_cases op
  · simp [scanIdentity]
  · rw [if_neg (by decide), if_pos rfl]
    split_ifs with hle
    · exact lInt_injective t (le_antisymm hle hmin)
    · rfl
  · rw [if_neg (by decide), if_neg (by decide), if_pos rfl]
    split_ifs with hle
    · exact lInt_injective t (le_antisymm hmax hle)
    · rfl
  · exact BitVec.allOnes_and
  · simp [scanIdentity]
  · simp [scanIdentity]

/-- No value lies beyond an infinity. -/
theorem minMax_inf {x : Lane} (hx : FVal.decode .f32 x.toNat ≠ .nan) :
    minMax false .f32 0x7F800000 x.toNat = x.toNat ∧ minMax true .f32 0xFF800000 x.toNat = x.toNat := by
  have hpos : FVal.decode .f32 0x7F800000 = .inf false := by decide
  have hneg : FVal.decode .f32 0xFF800000 = .inf true := by decide
  cases hd : FVal.decode .f32 x.toNat with
  | nan => exact absurd hd hx
  | inf p => cases p <;> simp [minMax, minNBits, maxNBits, hpos, hneg, hd, FVal.isNan, FVal.cmp, FVal.sign]
  | fin s m e => simp [minMax, minNBits, maxNBits, hpos, hneg, hd, FVal.isNan, FVal.cmp]

end Sys2Proof.Machine

namespace Sys2Proof

open Sys2Proof.Machine

theorem activeLaneOperations : Claim.ActiveLaneOperations := by
  intro w m s c hc lanes op one val bit act
  have hvote : exec (.vote w m) s = .next (if m.mode = 3 then s.finishG c w.d.num ((c.predBits w.a).zeroExtend 64)
      else s.finishP c w.d.num (if voteBit m.mode.toNat c.act (c.predBits w.a) then 0xFFFFFFFF else 0)) := vectorWord_eq hc _
  have hbits (b : Bool) (k : Fin 32) : (if b then 0xFFFFFFFF else 0 : Mask).getLsbD k.val = b := by
    cases b
    · exact BitVec.getLsbD_zero
    · revert k; decide
  have hgivesP {n : BitVec 4} (hd : w.d = .p n) {k : BitVec 3} (hk : k ≠ 3) (hm : m.mode = k) {b : Bool}
      (hb : voteBit k.toNat c.act (c.predBits w.a) = b) : s.GivesP c (.vote w m) n (fun _ => b) := by
    rw [hm, if_neg hk, hd, hb] at hvote
    exact State.givesP_of_exec hc hvote (hbits b)
  obtain ⟨hall, hany, heq⟩ := voteBit_eq c w.a
  refine ⟨⟨c.byVlid_pairwise, c.byVlid_nodup, fun p => c.mem_byVlid⟩, fun n hd hm => hgivesP hd (by decide) hm hall,
    fun n hd hm => hgivesP hd (by decide) hm hany, fun n hd hm => hgivesP hd (by decide) hm heq, fun n hd hm hpin => ?_,
    fun n hd => ?_, fun n hd => ?_, fun hact => ⟨?_, ?_, ?_⟩⟩
  · rw [if_pos hm, hd] at hvote
    exact State.givesG_of_exec hc hpin hvote
  · refine ⟨_, State.givesV_of_exec hc ((vectorWord_eq hc _ : exec (.pscan w m) s = _).trans (by simp only [hd]; rfl)), fun k hk => ?_⟩
    have hlt : lanes[k] < 32 := (c.mem_byVlid.mp (List.getElem_mem hk)).1
    have hval : (Fin.ofNat 32 lanes[k]).val = lanes[k] := Nat.mod_eq_of_lt hlt
    simp only [hval]
    rw [find?_scanLanes _ _ _ c.byVlid_nodup _ hk]
    rfl
  · refine ⟨_, State.givesV_of_exec hc ((vectorWord_eq hc _ : exec (.matchLanes w m) s = _).trans (by simp only [hd]; rfl)), fun i k _ => ?_⟩
    rw [getLsbD_maskFn]
  · intro n hd y hy hpin
    refine State.givesG_of_exec hc hpin ((scalarWord_eq hc _ : exec (.redl w m) s = _).trans ((if_neg hact).trans ?_))
    rw [hy, List.foldl_map, hd]
    rfl
  · intro n hd y hy hpin
    refine State.givesG_of_exec hc hpin ((scalarWord_eq hc _ : exec (.pcnt w m) s = _).trans ((if_neg hact).trans ?_))
    rw [hy, hd, popcount_predBits]
    rfl
  · obtain ⟨p, r, hfirst, hp, hleast⟩ := c.exists_first hact
    have hexec : exec (.elect w m) s = .next (if m.mode = 0 then s.finishG c w.d.num (BitVec.ofNat 64 (c.vlid p.val))
        else s.finishP c w.d.num (1#32 <<< p.val)) := by
      refine (scalarWord_eq hc _ : exec (.elect w m) s = _).trans ((if_neg hact).trans ?_)
      simp only [hfirst]
    refine ⟨p, hp, hleast, fun n hd hm hpin => ?_, fun n hd hm => ?_⟩
    · rw [if_pos hm, hd] at hexec
      exact State.givesG_of_exec hc hpin hexec
    · rw [if_neg (by rw [hm]; decide), hd] at hexec
      exact State.givesP_of_exec hc hexec (fun i => getLsbD_one_shiftLeft p i)

theorem scanOperations : Claim.ScanOperations := by
  intro x y
  refine ⟨fun t ht => ⟨?_, ?_, ?_, ?_, fun op hop => scanOp_identity ht hop x⟩, ?_, ?_, ?_, ?_, fun op hop hx => ?_, rfl, rfl⟩
  · rcases ht with rfl | rfl <;> rfl
  · rcases ht with rfl | rfl <;> rfl
  · rcases ht with rfl | rfl <;> rfl
  · rcases ht with rfl | rfl <;> rfl
  · exact (ite_lInt_le x y _ _).1
  · exact (ite_lInt_le y x _ _).1
  · exact (ite_lInt_le x y _ _).2
  · exact (ite_lInt_le y x _ _).2
  · have hback : BitVec.ofNat 32 x.toNat = x := BitVec.ofNat_toNat _ _ ▸ BitVec.setWidth_eq x
    rcases hop with rfl | rfl
    · exact (congrArg _ (minMax_inf hx).1).trans hback
    · exact (congrArg _ (minMax_inf hx).2).trans hback

/-- Settles O10: the active lanes in ascending virtual lane id are those of the mask; the words fold, scan, count and vote over them. -/
theorem laneReductions : Obligations.LaneReductions := ⟨activeLaneOperations, scanOperations⟩

end Sys2Proof

namespace Sys2Proof.Machine

/-! ## Exact-sum words (spec/05 R168 to R171) -/

/-- The elements of a lane are those of the statements (spec/04 R115). -/
theorem laneElems_eq (t : Ty) (x : Lane) : laneElems t x = elementsOf t x := by
  have hlo : (x.extractLsb' 0 16).toNat = x.toNat % 2 ^ 16 := by simp
  have hhi : (x.extractLsb' 16 16).toNat = x.toNat / 2 ^ 16 := by
    have := x.isLt
    rw [BitVec.extractLsb'_toNat, Nat.shiftRight_eq_div_pow]
    omega
  rw [elementsOf, hlo, hhi]
  cases t <;> rfl

/-- A word that adds values of the active lanes adds them one by one to the accumulator that it names (R169). -/
theorem State.givesX_exactAdd {s : State} {w : Ops} {c : Ctx} (hc : s.ctx w.h = some c) {i : Instr} {m : XsMod}
    {f : Lane → Lane → List FVal} (he : exec i s = exactAdd f w m s) :
    s.GivesX c i m.xd.toNat ((c.active.flatMap (fun l => f (c.m.srcV w 0 m.ty w.a l) (c.m.srcV w 0 m.ty w.b l))).foldl XAcc.add
      (c.m.readX m.xd.toNat)) := by
  refine State.givesX_of_exec hc (f := fun _ => _) (he.trans ((vectorWord_eq hc _).trans ?_))
  simp only [planes_eq, List.foldl_map, List.foldl_flatMap, Fin.ofNat_val_eq_self]

end Sys2Proof.Machine

namespace Sys2Proof

open Sys2Proof.Machine

theorem exactSumInstructions : Claim.ExactSumInstructions := by
  intro w m s c hc d elems sum
  have hadd := State.givesX_exactAdd hc (i := .xadd w m) (f := fun a _ => laneElems m.ty a) rfl
  have hsub := State.givesX_exactAdd hc (i := .xsub w m) (f := fun a _ => (laneElems m.ty a).map FVal.neg) rfl
  have hdot := State.givesX_exactAdd hc (i := .xdot w m) (f := fun a b => List.zipWith FVal.mul (laneElems m.ty a) (laneElems m.ty b)) rfl
  simp only [laneElems_eq] at hadd hsub hdot
  refine ⟨hadd, hsub, hdot, fun hact => ⟨?_, ?_⟩⟩
  · exact State.givesX_of_exec hc (f := fun _ => {}) ((scalarWord_eq hc _).trans (if_neg hact))
  · exact State.givesX_of_exec hc (f := fun u => (u.readX d).merge (u.readX m.xs.toNat)) ((scalarWord_eq hc _).trans (if_neg hact))

/-- An integer as a sign, a magnitude and a place. -/
theorem FVal.rat_of_int (k e : Int) : FVal.rat (.fin (decide (k < 0)) k.natAbs e) = some ((k : ℚ) * (2 : ℚ) ^ e) := by
  have hk := FVal.rat_ofInt k
  rw [FVal.ofInt, FVal.rat_fin, zpow_zero, mul_one] at hk
  rw [FVal.rat_fin, ← mul_assoc, Option.some.inj hk]

end Sys2Proof

namespace Sys2Proof.Machine

/-- The rounded sum is an F32 code (R170). -/
theorem XAcc.round_lt (x : XAcc) (rm : RM) : x.round rm < 2 ^ 32 := by
  have hround (v : FVal) : FVal.round .f32 rm false v < 2 ^ 32 := FFmt.round_lt (f := .f32) ⟨by decide, by decide⟩ rm false v
  unfold XAcc.round
  split_ifs
  · decide
  · decide
  · decide
  · decide
  · decide
  · exact hround _

/-- Without a NaN or an infinity, S is rounded (R170). -/
theorem XAcc.round_finite {x : XAcc} (hnan : x.nan = false) (hp : x.pinf = false) (hn : x.ninf = false) (rm : RM) :
    x.round rm = if x.s = 0 then (if rm = .rdn then 0x80000000 else 0)
      else FVal.round .f32 rm false (.fin (decide (x.s.toInt < 0)) x.s.toInt.natAbs (-298)) := by
  simp only [XAcc.round, hnan, hp, hn, Bool.or_self, Bool.and_self, Bool.false_eq_true, if_false]

end Sys2Proof.Machine

namespace Sys2Proof

open Sys2Proof.Machine

theorem exactSumRoundInstruction : Claim.ExactSumRoundInstruction := by
  intro w m s c hc hact x
  have hlt : x.round m.rm < 2 ^ 32 := XAcc.round_lt x m.rm
  have hexec : exec (.xrnd w m) s = .next (match w.d with
      | .v n => (s.modCur (fun u => u.writeV n.toNat (1#32 <<< (planes c.act).headD 0) (fun _ => BitVec.ofNat 32 (x.round m.rm)))).retire c
      | d => s.finishG c d.num (BitVec.ofNat 64 (x.round m.rm))) :=
    (scalarWord_eq hc _).trans (if_neg hact)
  refine ⟨BitVec.ofNat 32 (x.round m.rm), ?_, ?_, ?_, ?_, fun n hd hpin => ?_, fun n hd => ?_⟩
  · rintro (hnan | ⟨hp, hn⟩)
    · simp [XAcc.round, hnan]
    · simp [XAcc.round, hp, hn]
  · intro hnan hp hn
    simp [XAcc.round, hnan, hp, hn]
  · intro hnan hp hn
    simp [XAcc.round, hnan, hp, hn]
  · intro hnan hp hn
    rw [XAcc.round_finite hnan hp hn] at hlt ⊢
    refine ⟨fun h0 => ?_, fun h0 _ hle => ?_⟩
    · rw [if_pos h0]
      split_ifs <;> rfl
    · rw [if_neg h0] at hlt ⊢
      rw [BitVec.toNat_ofNat, Nat.mod_eq_of_lt hlt]
      exact FFmt.rounds_round ⟨by decide, by decide⟩ m.rm false (FVal.rat_of_int _ _) hle
  · have hwide : (BitVec.ofNat 32 (x.round m.rm)).zeroExtend 64 = BitVec.ofNat 64 (x.round m.rm) :=
      BitVec.setWidth_ofNat_of_le_of_lt (by decide) hlt
    rw [hwide] at hpin ⊢
    rw [hd] at hexec
    exact State.givesG_of_exec hc hpin hexec
  · rw [hd] at hexec
    obtain ⟨p, hhead, hp, hleast⟩ := exists_least_plane hact
    rw [hhead] at hexec
    obtain ⟨t, he, hdone, hlanes⟩ := State.doneV_of_exec hc hexec
    refine ⟨t, he, hdone, fun i => ?_⟩
    rw [hlanes, getLsbD_one_shiftLeft]
    have hiff : i = p ↔ c.act.getLsbD i.val = true ∧ ∀ k : Fin 32, k < i → c.act.getLsbD k.val = false := by
      constructor
      · rintro rfl; exact ⟨hp, hleast⟩
      · rintro ⟨hi, hbelow⟩
        rcases lt_trichotomy i p with hlt | heq | hgt
        · rw [hleast i hlt] at hi; cases hi
        · exact heq
        · rw [hbelow p hgt] at hp; cases hp
    simp only [decide_eq_true_eq, hiff]

/-- Settles O11: the words fold the elements of the active planes into the accumulator; `XRND` rounds the number that S stands for. -/
theorem exactSumForms : Obligations.ExactSumForms := ⟨exactSumInstructions, exactSumRoundInstruction⟩

end Sys2Proof

namespace Sys2Proof.Machine

/-! ## Exact sums (spec/05 R169, R172) -/

/-- Two terms may be added in either order (R172). -/
theorem XAcc.add_right_comm (x : XAcc) (v w : FVal) : (x.add v).add w = (x.add w).add v := by
  cases v with
  | nan => cases w with
    | nan => rfl
    | inf p => cases p <;> rfl
    | fin s m e => rfl
  | inf p => cases w with
    | nan => cases p <;> rfl
    | inf q => cases p <;> cases q <;> rfl
    | fin s m e => cases p <;> rfl
  | fin s m e => cases w with
    | nan => rfl
    | inf q => cases q <;> rfl
    | fin t n k =>
      have hs (y a b : BitVec 760) : y + a + b = y + b + a := by ac_rfl
      exact congrArg (fun y => ({ x with s := y } : XAcc)) (hs _ _ _)

end Sys2Proof.Machine

namespace Sys2Proof

open Sys2Proof.Machine

/-- A term that the accumulator holds exactly, below 2^256 in magnitude. -/
def FVal.Summable (v : FVal) : Prop :=
  ∃ s m e, v = .fin s m e ∧ -298 ≤ e ∧ (m : ℚ) * (2 : ℚ) ^ e < (2 : ℚ) ^ (256 : Int)

/-- The integer that such a term adds (R169). -/
theorem FVal.Summable.exists_int {v : FVal} (h : v.Summable) :
    ∃ k : Int, (∀ x : XAcc, x.add v = { x with s := x.s + BitVec.ofInt 760 k }) ∧ |k| < 2 ^ 554
      ∧ v.rat = some ((k : ℚ) * (2 : ℚ) ^ (-298 : Int)) := by
  obtain ⟨s, m, e, rfl, he, hlt⟩ := h
  obtain ⟨n, hn⟩ : ∃ n : Nat, e = -298 + n := ⟨(e + 298).toNat, by omega⟩
  have hscaled : FVal.scaled s m e (-298) = (if s then -1 else 1) * ((m * 2 ^ n : Nat) : Int) := by
    have : (e - -298).toNat = n := by omega
    rw [FVal.scaled, this]
    cases s <;> simp
  have hpow : (2 : ℚ) ^ e = 2 ^ n * 2 ^ (-298 : Int) := by
    rw [hn, add_comm, zpow_add₀ (by norm_num), zpow_natCast]
  have hbound : m * 2 ^ n < 2 ^ 554 := by
    have : ((m * 2 ^ n : Nat) : ℚ) * 2 ^ (-298 : Int) < (2 ^ 554 : Nat) * 2 ^ (-298 : Int) := by
      calc ((m * 2 ^ n : Nat) : ℚ) * 2 ^ (-298 : Int) = m * 2 ^ e := by rw [hpow, Nat.cast_mul, Nat.cast_pow, Nat.cast_ofNat, mul_assoc]
        _ < 2 ^ (256 : Int) := hlt
        _ = (2 ^ 554 : Nat) * 2 ^ (-298 : Int) := by
          rw [show (256 : Int) = (554 : Nat) + -298 by norm_num, zpow_add₀ (by norm_num), zpow_natCast, Nat.cast_pow, Nat.cast_ofNat]
    exact_mod_cast lt_of_mul_lt_mul_right this (by positivity)
  refine ⟨FVal.scaled s m e (-298), fun _ => rfl, ?_, ?_⟩
  · have hsign : |(if s then -1 else 1 : Int)| = 1 := by cases s <;> rfl
    rw [hscaled, abs_mul, hsign, one_mul, Nat.abs_cast]
    exact (Int.ofNat_lt.mpr hbound).trans_eq (Nat.cast_pow 2 554)
  · rw [FVal.rat_fin, hscaled, hpow]
    cases s <;> push_cast <;> simp <;> ring

end Sys2Proof

namespace Sys2Proof.Machine

/-- Adding terms that the accumulator holds changes S alone, by the sum of their integers (R172). -/
theorem XAcc.foldl_add {l : List FVal} (hl : ∀ v ∈ l, v.Summable) :
    ∃ k : Int, (∀ x : XAcc, l.foldl XAcc.add x = { x with s := x.s + BitVec.ofInt 760 k }) ∧ |k| ≤ l.length * 2 ^ 554
      ∧ ratSum l = (k : ℚ) * (2 : ℚ) ^ (-298 : Int) := by
  induction l with
  | nil => exact ⟨0, fun x => by simp, by rw [abs_zero, List.length_nil, Nat.cast_zero, zero_mul], by simp [ratSum]⟩
  | cons v l ih =>
    obtain ⟨j, hadd, hj, hrat⟩ := (hl v (by simp)).exists_int
    obtain ⟨k, hfold, hk, hsum⟩ := ih (fun w hw => hl w (by simp [hw]))
    refine ⟨j + k, fun x => ?_, ?_, ?_⟩
    · rw [List.foldl_cons, hfold, hadd]
      simp [BitVec.add_assoc, BitVec.ofInt_add]
    · calc |j + k| ≤ |j| + |k| := abs_add_le j k
        _ ≤ 2 ^ 554 + l.length * 2 ^ 554 := add_le_add hj.le hk
        _ = (v :: l).length * 2 ^ 554 := by rw [List.length_cons, Nat.cast_succ, add_one_mul, add_comm]
    · rw [ratSum, List.map_cons, List.sum_cons, ← ratSum, hsum, hrat, Option.getD_some, Int.cast_add, add_mul]

end Sys2Proof.Machine

namespace Sys2Proof

open Sys2Proof.Machine

/-- Settles O12: two terms commute; the integers of few terms add without leaving the 760 bits of S. -/
theorem exactSumIsExactAndOrderFree : Obligations.ExactSumIsExactAndOrderFree := by
  refine ⟨fun x l l' h => ?_, fun l hl hlen => ?_, fun v => ⟨rfl, rfl, rfl, ?_⟩⟩
  · have : RightCommutative XAcc.add := ⟨XAcc.add_right_comm⟩
    exact h.foldl_eq x
  · obtain ⟨k, hfold, hk, hsum⟩ := XAcc.foldl_add hl
    have hlt : |k| < 2 ^ 758 := by
      calc |k| ≤ l.length * 2 ^ 554 := hk
        _ < 2 ^ 204 * 2 ^ 554 := by exact_mod_cast (Nat.mul_lt_mul_right (by positivity)).mpr hlen
        _ = 2 ^ 758 := (pow_add 2 204 554).symm
    have hint : (BitVec.ofInt 760 k).toInt = k := by
      obtain ⟨hlo, hhi⟩ := abs_lt.mp hlt
      exact BitVec.toInt_ofInt_eq_self (by decide) (by omega) (by omega)
    intro x
    have hx : x = { s := BitVec.ofInt 760 k } := (hfold {}).trans (by simp)
    rw [hx, hsum, hint]
    exact ⟨rfl, rfl, rfl, rfl⟩
  · cases v with
    | nan => simp [FVal.mul]
    | inf p => simp [FVal.mul, FVal.isZero]
    | fin s m e =>
      by_cases hm : m = 0 <;> simp [FVal.mul, FVal.isZero, hm]

end Sys2Proof

namespace Sys2Proof

open Sys2Proof.Machine

/-! ## `CALL` with an operand that it does not take (spec/05 R138) -/

/-- A machine whose slug 0 of forme 0 issues at address 0, every lane of it active. -/
def issuing : State :=
  { State.reset.modSlug 0 0 (fun m => m.putSlot false { path := some { mask := 0xFFFFFFFF } }) with cur := some { occ := 1 } }

/-- The context of that slug's path. -/
def issuingCtx : Ctx :=
  { iss := { occ := 1 }, f := issuing.forme 0, m := issuing.slug 0 0, slot := { path := some { mask := 0xFFFFFFFF } },
    path := { mask := 0xFFFFFFFF }, act := 0xFFFFFFFF }

theorem issuing_ctx : issuing.ctx { stall := 0, neg := false, pred := 0 } = some issuingCtx := by decide +kernel

/-- `CALL` that takes its target from SRCA (bit 13 of the immediate), with the immediate itself as SRCA. -/
def callOps : Ops := { h := { stall := 0, neg := false, pred := 0 }, d := .g 0, a := .short, b := .none, x := none }
def callMod : AluMod := { rm := .rne, ty := .i32, imm := 0x2000 }

/-- Where the issuing path stands after a word. -/
def pcAfter (i : Instr) : Option Addr :=
  match exec i issuing with
  | .next t => (t.slug 0 0).a.path.map (·.pc)
  | _ => none

/-- The model reads that SRCA as the word's own immediate. -/
theorem pcAfter_call : pcAfter (.call callOps callMod) = some 0x3FFFFFFFFFE000 := by decide +kernel

/-- Refutes O22: the claim on `CALL` leaves SRCA open, and reads a short immediate there as 0 where the word has its own immediate. For the
operands of R138, a register, the two agree: the statement lacks that hypothesis for `CALL`, which it has for `RET` and `JMPT`. -/
theorem not_controlFlowForms : ¬ Obligations.ControlFlowForms := by
  rintro ⟨htransfers, -⟩
  obtain ⟨-, -, -, -, -, hcall⟩ := htransfers callOps callMod issuing issuingCtx issuing_ctx (by decide)
  obtain ⟨t, hexec, hdone, -⟩ := hcall 0 rfl (by decide +kernel)
  have hpc := pcAfter_call
  simp only [pcAfter, hexec] at hpc
  have hslot := congrArg (fun x => x.path.map (·.pc)) hdone.moved.slot
  have hsame := hpc.symm.trans hslot
  revert hsame
  decide +kernel

end Sys2Proof

namespace Sys2Proof

open Sys2Proof.Machine

/-! ## The operations on exact values (spec/05 R150, R151) -/

namespace FVal

section Rat
variable {x y : FVal} {a b : ℚ} (hx : x.rat = some a) (hy : y.rat = some b)
include hx

theorem rat_neg : x.neg.rat = some (-a) := by
  obtain ⟨s, m, e, rfl⟩ := exists_fin_of_rat hx
  rw [FVal.rat_fin] at hx
  rw [← Option.some.inj hx, neg, FVal.rat_fin]
  cases s <;> simp

theorem rat_abs : x.abs.rat = some |a| := by
  obtain ⟨s, m, e, rfl⟩ := exists_fin_of_rat hx
  rw [(abs_of_rat hx).1, FVal.abs, FVal.rat_fin]
  simp

include hy

theorem rat_mul : (x.mul y).rat = some (a * b) := by
  obtain ⟨s, m, e, rfl⟩ := exists_fin_of_rat hx
  obtain ⟨t, n, k, rfl⟩ := exists_fin_of_rat hy
  rw [FVal.rat_fin] at hx hy
  rw [← Option.some.inj hx, ← Option.some.inj hy]
  show FVal.rat (.fin (s != t) (m * n) (e + k)) = _
  rw [FVal.rat_fin, zpow_add₀ (by norm_num)]
  congr 1
  push_cast
  cases s <;> cases t <;> simp <;> ring

/-- The sum is counted in units of the lesser exponent. -/
theorem rat_add (rdn : Bool) : (x.add rdn y).rat = some (a + b) := by
  obtain ⟨s, m, e, rfl⟩ := exists_fin_of_rat hx
  obtain ⟨t, n, k, rfl⟩ := exists_fin_of_rat hy
  have hzero {s : Bool} {e : Int} {q : ℚ} (h : FVal.rat (.fin s 0 e) = some q) : q = 0 := by
    by_contra h0
    exact mantissa_ne_zero h h0 rfl
  have hscale : (scaled s m e (min e k) + scaled t n k (min e k) : ℚ) * 2 ^ min e k = a + b := by
    rw [rat_scaled s m (min_le_left e k)] at hx
    rw [rat_scaled t n (min_le_right e k)] at hy
    rw [add_mul, Option.some.inj hx, Option.some.inj hy]
  rw [FVal.add]
  by_cases h0 : m = 0 ∧ n = 0
  · obtain ⟨rfl, rfl⟩ := h0
    rw [if_pos ⟨rfl, rfl⟩, hzero hx, hzero hy]
    simp [FVal.rat]
  rw [if_neg h0]
  by_cases hm : m = 0
  · subst hm
    rw [if_pos rfl, hzero hx, zero_add, hy]
  rw [if_neg hm]
  by_cases hn : n = 0
  · subst hn
    rw [if_pos rfl, hzero hy, add_zero, hx]
  rw [if_neg hn]
  by_cases hsum : scaled s m e (min e k) + scaled t n k (min e k) = 0
  · rw [← hscale, ← Int.cast_add, hsum]
    simp [hsum, FVal.rat]
  · simp only [if_neg hsum]
    rw [rat_of_int, ← hscale, Int.cast_add]

theorem rat_sub (rdn : Bool) : (x.add rdn y.neg).rat = some (a - b) :=
  sub_eq_add_neg a b ▸ rat_add hx (rat_neg hy) rdn

end Rat

end FVal

namespace FFmt

/-- R116 of a value with its rational number at hand. -/
theorem rounds_of_rat {f : FFmt} (h : f.Proper) (rm : RM) {v : FVal} {x : ℚ} (hv : v.rat = some x) (hle : |x| ≤ f.greatest) :
    f.Rounds rm x (FVal.round f rm false v) := by
  obtain ⟨s, m, e, rfl⟩ := FVal.exists_fin_of_rat hv
  exact rounds_round h rm false hv hle

/-- The rounded quotient of the model is the rounded quotient of the numbers. -/
theorem rounds_div {f : FFmt} (h : f ∈ laneFmts) (rm : RM) {x y : FVal} {a b : ℚ} (hx : x.rat = some a) (hy : y.rat = some b) (hb : b ≠ 0)
    (hle : |a / b| ≤ f.greatest) : f.Rounds rm (a / b) (FVal.round f rm false (x.div y)) := by
  obtain ⟨hp, -, -, hbits, -⟩ := laneFmts_facts h
  obtain ⟨s, m, e, rfl⟩ := FVal.exists_fin_of_rat hx
  obtain ⟨t, n, k, rfl⟩ := FVal.exists_fin_of_rat hy
  have hn := FVal.mantissa_ne_zero hy hb
  obtain ⟨ha, haneg, hapos⟩ := FVal.abs_of_rat hx
  obtain ⟨hb', hbneg, hbpos⟩ := FVal.abs_of_rat hy
  rcases eq_or_ne m 0 with rfl | hm
  · obtain rfl : a = 0 := by simpa using ha
    have hdiv : FVal.div (.fin s 0 e) (.fin t n k) = .fin (s != t) 0 0 := by simp [FVal.div, hn]
    rw [hdiv, zero_div] at *
    exact rounds_round hp rm false (by simp [FVal.rat]) hle
  · obtain ⟨c, htakes, hround⟩ := exists_takes_round_div hp (by omega) rm false s t e k hm hn
    have habs : |a / b| = (m : ℚ) * 2 ^ e / (n * 2 ^ k) := by rw [abs_div, ha, hb']
    rw [← habs] at htakes
    have hc : c ≤ f.maxCode := htakes.le_of_le (greatest_eq hp ▸ hle)
    rw [hround, if_pos hc]
    refine htakes.rounds hp hc (fun hneg => ?_) (fun hpos => ?_)
    · rcases div_neg_iff.mp hneg with ⟨h1, h2⟩ | ⟨h1, h2⟩
      · rw [hapos h1, hbneg h2]; rfl
      · rw [haneg h1, hbpos h2]; rfl
    · rcases div_pos_iff.mp hpos with ⟨h1, h2⟩ | ⟨h1, h2⟩
      · rw [hapos h1, hbpos h2]; rfl
      · rw [haneg h1, hbneg h2]; rfl

end FFmt

/-! ## Rounding forms (spec/05 R151) -/

/-- The forms that round an expression once. -/
def VFOp.rounding : List VFOp := [.add, .sub, .mul, .fma, .fms, .fnma, .fnms, .div, .abd, .lerp]

theorem vfElem_eq_round {o : VFOp} (ho : o ∈ VFOp.rounding) (rm : RM) (f : FFmt) (d a b : Nat) :
    vfElem o rm f d a b = FVal.round f rm false (vfExpr o (rm == .rdn) (FVal.decode f d) (FVal.decode f a) (FVal.decode f b)) := by
  simp only [VFOp.rounding, List.mem_cons, List.not_mem_nil, or_false] at ho
  rcases ho with rfl | rfl | rfl | rfl | rfl | rfl | rfl | rfl | rfl | rfl <;> rfl

theorem VFOp.mem_rounding {o : VFOp} {d a b x : ℚ} (h : o.expr d a b = some x) : o ∈ rounding := by
  cases o
  case add | sub | mul | fma | fms | fnma | fnms | div | abd | lerp => decide
  all_goals cases h

/-- But for the quotient, the model computes the expression of R151 exactly. -/
theorem vfExpr_rat {o : VFOp} (ho : o ≠ .div) (rdn : Bool) {d a b : FVal} {vd va vb x : ℚ} (hd : d.rat = some vd) (ha : a.rat = some va)
    (hb : b.rat = some vb) (hx : o.expr vd va vb = some x) : (vfExpr o rdn d a b).rat = some x := by
  have hab := FVal.rat_mul ha hb
  cases o with
  | div => exact absurd rfl ho
  | add => exact hx ▸ FVal.rat_add ha hb rdn
  | sub => exact hx ▸ FVal.rat_sub ha hb rdn
  | mul => exact hx ▸ hab
  | fma => exact hx ▸ FVal.rat_add hab hd rdn
  | fms => exact hx ▸ FVal.rat_sub hab hd rdn
  | fnma => exact hx ▸ FVal.rat_add (FVal.rat_neg hab) hd rdn
  | fnms => exact hx ▸ FVal.rat_sub (FVal.rat_neg hab) hd rdn
  | abd => exact hx ▸ FVal.rat_abs (FVal.rat_sub ha hb rdn)
  | lerp => exact hx ▸ FVal.rat_add hd (FVal.rat_mul ha (FVal.rat_sub hb hd rdn)) rdn
  | _ => cases hx

/-- The reciprocal is the rounded quotient of 1. -/
theorem sfElem_rcp {f : FFmt} {x m : Nat} {s : Bool} {e : Int} (hd : FVal.decode f x = .fin s m e) (hm : m ≠ 0) (rm : RM) :
    sfElem .rcp rm f x = FVal.round f rm false (FVal.div (.fin false 1 0) (.fin s m e)) := by
  simp only [sfElem, hd, if_neg hm]

theorem floatElementIsTheExpressionRoundedOnce : Claim.FloatElementIsTheExpressionRoundedOnce := by
  refine ⟨fun o rm f d a b vd va vb x hf _ hd ha hb hx hle => ?_, fun t rm d a b vd a0 a1 b0 b1 _ _ hd ha0 ha1 hb0 hb1 hle => ?_,
    fun rm f a va hf _ ha h0 hle => ?_⟩
  · obtain ⟨hp, -⟩ := laneFmts_facts hf
    rw [vfElem_eq_round (VFOp.mem_rounding hx)]
    by_cases ho : o = .div
    · subst ho
      have hb0 : vb ≠ 0 := fun h0 => by simp [VFOp.expr, h0] at hx
      simp only [VFOp.expr, if_neg hb0, Option.some.injEq] at hx
      subst hx
      exact FFmt.rounds_div hf rm ha hb hb0 hle
    · exact FFmt.rounds_of_rat hp rm (vfExpr_rat ho _ hd ha hb hx) hle
  · have hlow (x : Nat) : x / 2 ^ (16 * 0) % 2 ^ 16 = x % 2 ^ 16 := by rw [Nat.mul_zero, pow_zero, Nat.div_one]
    have hhigh (x : Nat) : x / 2 ^ (16 * 1) % 2 ^ 16 = x / 2 ^ 16 % 2 ^ 16 := by rw [Nat.mul_one]
    rw [← hlow] at ha0 hb0
    rw [← hhigh] at ha1 hb1
    have hsum := FVal.rat_add (FVal.rat_add hd (FVal.rat_mul ha0 hb0) (rm == .rdn)) (FVal.rat_mul ha1 hb1) (rm == .rdn)
    have hp : FFmt.f32.Proper := ⟨by decide, by decide⟩
    exact FFmt.rounds_of_rat hp rm hsum hle
  · obtain ⟨s, m, e, hd, hrat⟩ := FFmt.exists_fin_of_rat ha
    have hone : FVal.rat (.fin false 1 0) = some 1 := by simp [FVal.rat]
    rw [sfElem_rcp hd (FVal.mantissa_ne_zero hrat h0)]
    exact FFmt.rounds_div hf rm hone hrat h0 hle

end Sys2Proof

namespace Sys2Proof

open Sys2Proof.Machine

/-! ## Invalid expressions (spec/05 R150, spec/04 R118) -/

namespace FVal

@[simp] theorem add_nan_right (rdn : Bool) (x : FVal) : add rdn x .nan = .nan := by cases x <;> rfl
@[simp] theorem add_nan_left (rdn : Bool) (x : FVal) : add rdn .nan x = .nan := rfl
@[simp] theorem mul_nan_right (x : FVal) : mul x .nan = .nan := by cases x <;> rfl
@[simp] theorem mul_nan_left (x : FVal) : mul .nan x = .nan := rfl
@[simp] theorem div_nan_right (x : FVal) : div x .nan = .nan := by cases x <;> rfl
@[simp] theorem div_nan_left (x : FVal) : div .nan x = .nan := rfl
@[simp] theorem neg_nan : neg .nan = .nan := rfl
@[simp] theorem abs_nan : abs .nan = .nan := rfl
@[simp] theorem cmp_nan_right (x : FVal) : cmp x .nan = none := by cases x <;> rfl
@[simp] theorem cmp_nan_left (x : FVal) : cmp .nan x = none := rfl

/-- The zeros of either sign. -/
theorem exists_of_isZero {x : FVal} (h : x.isZero = true) : ∃ s e, x = .fin s 0 e := by
  cases x with
  | nan => cases h
  | inf s => cases h
  | fin s m e => exact ⟨s, e, by rw [beq_iff_eq.mp h]⟩

theorem mul_inf_zero {p : Bool} {x : FVal} (h : x.isZero = true) : mul (.inf p) x = .nan ∧ mul x (.inf p) = .nan := by
  obtain ⟨s, e, rfl⟩ := exists_of_isZero h
  exact ⟨rfl, rfl⟩

theorem div_zero_zero {x y : FVal} (hx : x.isZero = true) (hy : y.isZero = true) : div x y = .nan := by
  obtain ⟨s, e, rfl⟩ := exists_of_isZero hx
  obtain ⟨t, k, rfl⟩ := exists_of_isZero hy
  rfl

/-- A non-zero number divided by a zero is an infinity. -/
theorem div_zero {x y : FVal} {q : ℚ} (hx : x.rat = some q) (hq : q ≠ 0) (hy : y.isZero = true) : div x y = .inf (x.sign != y.sign) := by
  obtain ⟨s, m, e, rfl⟩ := exists_fin_of_rat hx
  obtain ⟨t, k, rfl⟩ := exists_of_isZero hy
  simp only [div, if_true, if_neg (mantissa_ne_zero hx hq), sign]

end FVal

section Lane
variable {f : FFmt} (hf : f ∈ laneFmts)
include hf

theorem round_nan (rm : RM) : FVal.round f rm false .nan = f.nanCode := by
  obtain ⟨-, hpad, -⟩ := laneFmts_facts hf
  rw [FVal.round, hpad, pow_zero, one_mul]

theorem round_inf (rm : RM) (s : Bool) : FVal.round f rm false (.inf s) = (if s then f.signBit else 0) + f.infCode := by
  obtain ⟨-, hpad, hsp, -⟩ := laneFmts_facts hf
  simp [FVal.round, hpad, hsp]

/-- An expression without a value gives the canonical NaN. -/
theorem vfElem_of_nan {o : VFOp} (ho : o ∈ VFOp.rounding) {rm : RM} {d a b : Nat}
    (hx : vfExpr o (rm == .rdn) (FVal.decode f d) (FVal.decode f a) (FVal.decode f b) = .nan) : vfElem o rm f d a b = f.nanCode := by
  rw [vfElem_eq_round ho, hx, round_nan hf]

theorem vfElem_of_nan_source {o : VFOp} (rm : RM) {d a b : Nat} (h : FVal.decode f a = .nan ∨ FVal.decode f b = .nan)
    (ho : o ∈ ([.add, .sub, .mul, .fma, .fms, .fnma, .fnms, .div, .abd, .lerp, .min, .max, .minm, .maxm, .cpsgn] : List VFOp)) :
    vfElem o rm f d a b = f.nanCode := by
  have hnan : (FVal.decode f a).isNan = true ∨ (FVal.decode f b).isNan = true := h.imp (fun h => by rw [h]; rfl) (fun h => by rw [h]; rfl)
  cases o
  case add | sub | mul | fma | fms | fnma | fnms | div | abd | lerp =>
    refine vfElem_of_nan hf (by decide) ?_
    rcases h with h | h <;> simp [vfExpr, h]
  case min | max => exact if_pos (Bool.or_eq_true_iff.mpr hnan)
  case minm | maxm => rcases h with h | h <;> simp [vfElem, minMaxMag, h]
  case cpsgn => rcases hnan with h | h <;> simp [vfElem, withSign, h]
  all_goals exact absurd ho (by decide)

theorem vfElem_of_nan_addend {o : VFOp} (rm : RM) {d a b : Nat} (h : FVal.decode f d = .nan)
    (ho : o ∈ ([.fma, .fms, .fnma, .fnms, .lerp] : List VFOp)) : vfElem o rm f d a b = f.nanCode := by
  cases o
  case fma | fms | fnma | fnms | lerp => exact vfElem_of_nan hf (by decide) (by simp [vfExpr, h])
  all_goals exact absurd ho (by decide)

end Lane

theorem invalidFloatExpressions : Claim.InvalidFloatExpressions := by
  intro f rm d a b hf D A B
  have hnan (o : VFOp) (ho : o ∈ VFOp.rounding) {d a b : Nat}
      (hx : vfExpr o (rm == .rdn) (FVal.decode f d) (FVal.decode f a) (FVal.decode f b) = .nan) := vfElem_of_nan hf ho hx
  refine ⟨fun h o ho => vfElem_of_nan_source hf rm h ho, fun h o ho => vfElem_of_nan_addend hf rm h ho, fun h => ?_, fun p hA hB => ?_,
    fun p hA hB => ⟨?_, ?_⟩, fun p hA hB => ⟨?_, ?_, ?_⟩, fun hA hB => ?_, fun q hA hq hB => ?_⟩
  · have h : FVal.decode f a = .nan := h
    simp [vfElem, withSign, h, FVal.isNan]
  · refine hnan .add (by decide) ?_
    rw [show FVal.decode f a = .inf p from hA, show FVal.decode f b = .inf !p from hB]
    cases p <;> rfl
  · refine hnan .sub (by decide) ?_
    rw [show FVal.decode f a = .inf p from hA, show FVal.decode f b = .inf p from hB]
    cases p <;> rfl
  · refine hnan .div (by decide) ?_
    rw [show FVal.decode f a = .inf p from hA, show FVal.decode f b = .inf p from hB]
    rfl
  · refine hnan .mul (by decide) ?_
    rw [show FVal.decode f a = .inf p from hA]
    exact (FVal.mul_inf_zero hB).1
  · refine hnan .mul (by decide) ?_
    rw [show FVal.decode f a = .inf p from hA]
    exact (FVal.mul_inf_zero hB).2
  · refine hnan .fma (by decide) ?_
    rw [show FVal.decode f a = .inf p from hA]
    exact congrArg (FVal.add _ · D) (FVal.mul_inf_zero hB).1
  · exact hnan .div (by decide) (FVal.div_zero_zero hA hB)
  · rw [vfElem_eq_round (by decide)]
    exact (congrArg (FVal.round f rm false) (FVal.div_zero hA hq hB)).trans (round_inf hf rm _)

/-! ## Minimum, maximum and the sign forms (spec/05 R151, R152) -/

namespace FVal

/-- The order read from the other side. -/
theorem cmp_swap (x y : FVal) : cmp y x = (cmp x y).map Ordering.swap := by
  cases x with
  | nan => simp
  | inf s =>
    cases y with
    | nan => rfl
    | inf t => cases s <;> cases t <;> rfl
    | fin t n k => cases s <;> rfl
  | fin s m e =>
    cases y with
    | nan => rfl
    | inf t => cases t <;> rfl
    | fin t n k =>
      show some (compare (scaled t n k (min k e)) (scaled s m e (min k e))) = some (compare _ _).swap
      rw [min_comm k e, Std.OrientedCmp.eq_swap (cmp := compare) (a := scaled t n k (min e k))]

theorem cmp_self {x : FVal} (hx : x ≠ .nan) : cmp x x = some .eq := by
  cases x with
  | nan => exact absurd rfl hx
  | inf s => cases s <;> rfl
  | fin s m e => exact congrArg some (compare_eq_iff_eq.mpr rfl)

theorem cmp_ne_none {x y : FVal} (hx : x ≠ .nan) (hy : y ≠ .nan) : cmp x y ≠ none := by
  cases x <;> cases y <;> simp_all [cmp]

/-- The order of minimum and maximum: that of the numbers, with −0 below +0 (R152). -/
def Le (x y : FVal) : Prop := cmp x y = some .lt ∨ (cmp x y = some .eq ∧ (x.isZero = true → y.sign = true → x.sign = true))

theorem Le.refl {x : FVal} (hx : x ≠ .nan) : x.Le x := .inr ⟨cmp_self hx, fun _ h => h⟩

theorem Le.of_gt {x y : FVal} (h : cmp x y = some .gt) : y.Le x := .inl (by rw [cmp_swap x y, h]; rfl)

theorem Le.of_neg {x y : FVal} (h : cmp x y = some .eq) (hs : x.sign = true) : x.Le y := .inr ⟨h, fun _ _ => hs⟩

theorem Le.of_not_neg {x y : FVal} (h : cmp x y = some .eq) (hs : x.sign = false) : y.Le x :=
  .inr ⟨by rw [cmp_swap x y, h]; rfl, fun _ h => absurd h (by simp [hs])⟩

theorem isNan_eq_false {x : FVal} (h : x ≠ .nan) : x.isNan = false := by
  cases x with
  | nan => exact absurd rfl h
  | _ => rfl

end FVal

section MinMax
variable {f : FFmt} {a b : Nat} (ha : FVal.decode f a ≠ .nan) (hb : FVal.decode f b ≠ .nan)
include ha hb

theorem minMax_eq (max : Bool) : minMax max f a b = if max then maxNBits f a b else minNBits f a b := by
  rw [minMax, FVal.isNan_eq_false ha, FVal.isNan_eq_false hb]
  rfl

/-- The lesser operand. -/
theorem minNBits_spec : ∃ r, (r = a ∨ r = b) ∧ minNBits f a b = r ∧ (FVal.decode f r).Le (FVal.decode f a)
    ∧ (FVal.decode f r).Le (FVal.decode f b) := by
  simp only [minNBits, FVal.isNan_eq_false ha, FVal.isNan_eq_false hb, Bool.false_eq_true, if_false]
  cases hc : FVal.cmp (FVal.decode f a) (FVal.decode f b) with
  | none => exact absurd hc (FVal.cmp_ne_none ha hb)
  | some o =>
    cases o with
    | lt => exact ⟨a, .inl rfl, rfl, .refl ha, .inl hc⟩
    | gt => exact ⟨b, .inr rfl, rfl, .of_gt hc, .refl hb⟩
    | eq =>
      cases hs : (FVal.decode f a).sign with
      | true => exact ⟨a, .inl rfl, rfl, .refl ha, .of_neg hc hs⟩
      | false => exact ⟨b, .inr rfl, rfl, .of_not_neg hc hs, .refl hb⟩

/-- The greater operand. -/
theorem maxNBits_spec : ∃ r, (r = a ∨ r = b) ∧ maxNBits f a b = r ∧ (FVal.decode f a).Le (FVal.decode f r)
    ∧ (FVal.decode f b).Le (FVal.decode f r) := by
  simp only [maxNBits, FVal.isNan_eq_false ha, FVal.isNan_eq_false hb, Bool.false_eq_true, if_false]
  cases hc : FVal.cmp (FVal.decode f a) (FVal.decode f b) with
  | none => exact absurd hc (FVal.cmp_ne_none ha hb)
  | some o =>
    cases o with
    | lt => exact ⟨b, .inr rfl, rfl, .inl hc, .refl hb⟩
    | gt => exact ⟨a, .inl rfl, rfl, .refl ha, .of_gt hc⟩
    | eq =>
      cases hs : (FVal.decode f a).sign with
      | true => exact ⟨b, .inr rfl, rfl, .of_neg hc hs, .refl hb⟩
      | false => exact ⟨a, .inl rfl, rfl, .refl ha, .of_not_neg hc hs⟩

end MinMax

/-- `VMINM` and `VMAXM` go by the magnitudes. -/
theorem minMaxMag_of_cmp {f : FFmt} {a b : Nat} {o : Ordering} (h : FVal.cmp (FVal.decode f a).abs (FVal.decode f b).abs = some o) (max : Bool) :
    minMaxMag max f a b = match o with
      | .lt => if max then b else a
      | .gt => if max then a else b
      | .eq => minMax max f a b := by
  cases o <;> simp only [minMaxMag, h]

/-- A NaN counts as absent in `VMINN` and `VMAXN`. -/
theorem minNBits_nan {f : FFmt} {a b : Nat} (ha : FVal.decode f a = .nan) (hb : FVal.decode f b ≠ .nan) :
    minNBits f a b = b ∧ maxNBits f a b = b ∧ minNBits f b a = b ∧ maxNBits f b a = b := by
  have hna : (FVal.decode f a).isNan = true := by rw [ha]; rfl
  have hnb := FVal.isNan_eq_false hb
  simp [minNBits, maxNBits, hna, hnb]

theorem minNBits_nan_nan {f : FFmt} {a b : Nat} (ha : FVal.decode f a = .nan) (hb : FVal.decode f b = .nan) :
    minNBits f a b = f.nanCode ∧ maxNBits f a b = f.nanCode := by
  simp [minNBits, maxNBits, ha, hb, FVal.isNan]

/-- The sign bit of an element is its bit above the magnitude. -/
theorem sign_bit_eq {n x : Nat} (hx : x < 2 * n) : x / n % 2 = x / n ∧ (x / n = 0 ∧ x < n ∨ x / n = 1 ∧ n ≤ x) := by
  rcases lt_or_ge x n with hlt | hge
  · have hdiv := Nat.div_eq_of_lt hlt
    exact ⟨by rw [hdiv], .inl ⟨hdiv, hlt⟩⟩
  · have hdiv : x / n = 1 := Nat.div_eq_of_lt_le (by omega) (by omega)
    exact ⟨by rw [hdiv], .inr ⟨hdiv, hge⟩⟩

theorem signForms {f : FFmt} (rm : RM) {d a b : Nat} (ha : a < 2 * f.signBit) (hb : b < 2 * f.signBit) (hA : FVal.decode f a ≠ .nan) :
    vfElem .abs rm f d a b = a % f.signBit
      ∧ vfElem .neg rm f d a b = (if a < f.signBit then a + f.signBit else a - f.signBit)
      ∧ (FVal.decode f b ≠ .nan → vfElem .cpsgn rm f d a b = a % f.signBit + b / f.signBit * f.signBit) := by
  obtain ⟨hamod, hacase⟩ := sign_bit_eq ha
  obtain ⟨hbmod, hbcase⟩ := sign_bit_eq hb
  have hsplit := Nat.div_add_mod' a f.signBit
  simp only [vfElem, withSign, FVal.isNan_eq_false hA, Bool.false_eq_true, if_false, hamod, hbmod]
  refine ⟨rfl, ?_, fun hB => ?_⟩
  · rcases hacase with ⟨hq, hlt⟩ | ⟨hq, hge⟩
    · rw [hq] at hsplit ⊢
      simp only [hlt, if_true, BEq.rfl]
      omega
    · rw [hq] at hsplit ⊢
      simp only [not_lt.mpr hge, if_false]
      simp
      omega
  · rw [FVal.isNan_eq_false hB]
    rcases hbcase with ⟨hq, -⟩ | ⟨hq, -⟩ <;> simp [hq]

theorem floatMinimumMaximumAndSign : Claim.FloatMinimumMaximumAndSign := by
  intro f rm d a b _ ha hb A B le
  refine ⟨fun hA hB => ⟨?_, ?_, fun hlt => ?_, fun hgt => ?_, fun heq => ?_⟩, fun hA hB => minNBits_nan hA hB,
    fun hA hB => minNBits_nan_nan hA hB, rfl, fun hA => signForms rm ha hb hA⟩
  · obtain ⟨r, hr, hmin, hleA, hleB⟩ := minNBits_spec hA hB
    exact ⟨r, hr, (minMax_eq hA hB false).trans hmin, hmin, hleA, hleB⟩
  · obtain ⟨r, hr, hmax, hleA, hleB⟩ := maxNBits_spec hA hB
    exact ⟨r, hr, (minMax_eq hA hB true).trans hmax, hmax, hleA, hleB⟩
  · exact ⟨minMaxMag_of_cmp hlt false, minMaxMag_of_cmp hlt true⟩
  · exact ⟨minMaxMag_of_cmp hgt false, minMaxMag_of_cmp hgt true⟩
  · exact ⟨minMaxMag_of_cmp heq false, minMaxMag_of_cmp heq true⟩

end Sys2Proof

namespace Sys2Proof

open Sys2Proof.Machine

/-! ## Lanes of elements (spec/04 R115, spec/05 R150) -/

theorem perElem_packed {t : Ty} (ht : t = .f16x2 ∨ t = .bf16x2) (F : FFmt → Nat → Nat → Nat → Nat) (d a b : Nat) :
    perElem t F d a b = F t.ffmt (d % 2 ^ 16) (a % 2 ^ 16) (b % 2 ^ 16)
      + 2 ^ 16 * F t.ffmt (d / 2 ^ 16 % 2 ^ 16) (a / 2 ^ 16 % 2 ^ 16) (b / 2 ^ 16 % 2 ^ 16) := by
  rcases ht with rfl | rfl <;> rfl

theorem perElem_single {t : Ty} (ht : ¬(t = .f16x2 ∨ t = .bf16x2)) (F : FFmt → Nat → Nat → Nat → Nat) (d a b : Nat) :
    perElem t F d a b = F .f32 d a b := by
  unfold perElem
  split
  · exact absurd (.inl rfl) ht
  · exact absurd (.inr rfl) ht
  · rfl

/-- The model's lane of elements of three sources, where an element of a packed type has 16 bits. -/
theorem ofNat_perElem_lane {t : Ty} {F : FFmt → Nat → Nat → Nat → Nat}
    (hF : ∀ d a b, t = .f16x2 ∨ t = .bf16x2 → d < 2 ^ 16 → a < 2 ^ 16 → b < 2 ^ 16 → F t.ffmt d a b < 2 ^ 16) (d a b : Lane) :
    BitVec.ofNat 32 (perElem t F d.toNat a.toNat b.toNat)
      = if t = .f16x2 ∨ t = .bf16x2 then
          BitVec.ofNat 16 (F t.ffmt (d.extractLsb' 16 16).toNat (a.extractLsb' 16 16).toNat (b.extractLsb' 16 16).toNat)
            ++ BitVec.ofNat 16 (F t.ffmt (d.extractLsb' 0 16).toNat (a.extractLsb' 0 16).toNat (b.extractLsb' 0 16).toNat)
        else BitVec.ofNat 32 (F .f32 d.toNat a.toNat b.toNat) := by
  have hlo (z : Lane) : (z.extractLsb' 0 16).toNat = z.toNat % 2 ^ 16 := by simp
  have hhi (z : Lane) : (z.extractLsb' 16 16).toNat = z.toNat / 2 ^ 16 % 2 ^ 16 := by simp [Nat.shiftRight_eq_div_pow]
  have hlt (n : Nat) : n % 2 ^ 16 < 2 ^ 16 := Nat.mod_lt _ (by decide)
  by_cases ht : t = .f16x2 ∨ t = .bf16x2
  · rw [if_pos ht, perElem_packed ht, ofNat_add_mul _ _ (hF _ _ _ ht (hlt _) (hlt _) (hlt _))]
    simp only [hlo, hhi]
  · rw [if_neg ht, perElem_single ht]

/-- `VMINN` and `VMAXN` deliver an operand or the canonical NaN. -/
theorem minMaxNBits_mem (f : FFmt) (a b : Nat) : minNBits f a b ∈ [f.nanCode, a, b] ∧ maxNBits f a b ∈ [f.nanCode, a, b] := by
  by_cases ha : FVal.decode f a = .nan
  · by_cases hb : FVal.decode f b = .nan
    · obtain ⟨hmin, hmax⟩ := minNBits_nan_nan ha hb
      simp [hmin, hmax]
    · obtain ⟨hmin, hmax, -⟩ := minNBits_nan ha hb
      simp [hmin, hmax]
  · by_cases hb : FVal.decode f b = .nan
    · obtain ⟨-, -, hmin, hmax⟩ := minNBits_nan hb ha
      simp [hmin, hmax]
    · obtain ⟨r, hr, hmin, -⟩ := minNBits_spec ha hb
      obtain ⟨q, hq, hmax, -⟩ := maxNBits_spec ha hb
      rcases hr with rfl | rfl <;> rcases hq with rfl | rfl <;> simp [hmin, hmax]

/-- An element of a vector float form is an element of the format. -/
theorem vfElem_lt {f : FFmt} (hf : f ∈ laneFmts) (o : VFOp) (rm : RM) {d a b : Nat} (hd : d < 2 * f.signBit) (ha : a < 2 * f.signBit)
    (hb : b < 2 * f.signBit) : vfElem o rm f d a b < 2 * f.signBit := by
  obtain ⟨hp, hpad, -⟩ := laneFmts_facts hf
  have hround (v : FVal) : FVal.round f rm false v < 2 * f.signBit := by
    have := FFmt.round_lt hp rm false v
    rwa [hpad, pow_zero, one_mul] at this
  have hnan : f.nanCode < 2 * f.signBit := hp.nanCode_lt.trans_le (Nat.le_mul_of_pos_left _ (by decide))
  have hofmem {x y z : Nat} (hx : x < 2 * f.signBit) (hy : y < 2 * f.signBit) (hz : z ∈ [f.nanCode, x, y]) : z < 2 * f.signBit := by
    simp only [List.mem_cons, List.not_mem_nil, or_false] at hz
    rcases hz with rfl | rfl | rfl
    exacts [hnan, hx, hy]
  have hminN {x y : Nat} (hx : x < 2 * f.signBit) (hy : y < 2 * f.signBit) := hofmem hx hy (minMaxNBits_mem f x y).1
  have hmaxN {x y : Nat} (hx : x < 2 * f.signBit) (hy : y < 2 * f.signBit) := hofmem hx hy (minMaxNBits_mem f x y).2
  have hminMax (max : Bool) : minMax max f a b < 2 * f.signBit := by
    simp only [minMax]
    split_ifs
    exacts [hnan, hmaxN ha hb, hminN ha hb]
  have hmag (max : Bool) : minMaxMag max f a b < 2 * f.signBit := by
    rw [minMaxMag]
    split
    · exact hnan
    · split_ifs; exacts [hb, ha]
    · split_ifs; exacts [ha, hb]
    · exact hminMax max
  have hsign (neg : Bool) (x : Nat) : withSign f neg x < 2 * f.signBit := by
    have : x % f.signBit < f.signBit := Nat.mod_lt x (Nat.two_pow_pos _)
    simp only [withSign]
    split_ifs <;> omega
  cases o
  case min | max => exact hminMax _
  case minn => exact hminN ha hb
  case maxn => exact hmaxN ha hb
  case minm | maxm => exact hmag _
  case abs | neg => exact hsign _ _
  case cpsgn =>
    show (if _ then f.nanCode else withSign f _ a) < _
    split_ifs
    exacts [hnan, hsign _ _]
  case clamp => exact hminN (hmaxN hd ha) hb
  case sel | mov | cmp | dot2 => exact ha
  all_goals exact hround _

theorem laneFmt_of_packed {t : Ty} (ht : t = .f16x2 ∨ t = .bf16x2) : t.ffmt ∈ laneFmts ∧ 2 * t.ffmt.signBit = 2 ^ 16 := by
  rcases ht with rfl | rfl <;> decide

theorem vectorFloatResult : Claim.VectorFloatResult := by
  intro o w m s c n hc ho hd
  have hlane (d a b : Lane) := ofNat_perElem_lane (t := m.ty) (F := vfElem o m.rm) (fun d a b ht hd ha hb => by
    obtain ⟨hf, hbits⟩ := laneFmt_of_packed ht
    exact hbits ▸ vfElem_lt hf o m.rm (hbits ▸ hd) (hbits ▸ ha) (hbits ▸ hb)) d a b
  refine State.givesV_of_exec hc ((exec_vfopInstr ho w m s).trans ((vectorWord_eq hc _).trans ?_))
  rw [hd]
  refine congrArg (fun g => Host.Outcome.next (s.finishV c n.toNat g)) (funext fun i => ?_)
  cases o
  case mov | sel | dot2 => rfl
  case cmp => exact absurd rfl ho
  all_goals exact hlane _ _ _

/-- Settles O5: the expressions are computed exactly and rounded once, the quotient with a sticky bit; minimum and maximum select by the
order of the values. -/
theorem vectorFloatForms : Obligations.VectorFloatForms :=
  ⟨vectorFloatResult, floatElementIsTheExpressionRoundedOnce, invalidFloatExpressions, floatMinimumMaximumAndSign⟩

end Sys2Proof

namespace Sys2Proof

open Sys2Proof.Machine

/-! ## Words of the special functions (spec/05 R155) -/

section Bounds
variable {f : FFmt} (hf : f ∈ laneFmts)
include hf

theorem round_lane_lt (rm : RM) (v : FVal) : FVal.round f rm false v < 2 * f.signBit := by
  obtain ⟨hp, hpad, -⟩ := laneFmts_facts hf
  have := FFmt.round_lt hp rm false v
  rwa [hpad, pow_zero, one_mul] at this

theorem nanCode_lane_lt : f.nanCode < 2 * f.signBit :=
  (laneFmts_facts hf).1.nanCode_lt.trans_le (Nat.le_mul_of_pos_left _ (by decide))

/-- A code that keeps a bound is an element. -/
theorem lt_of_keeps {b : Bound} {y : FVal} {c : Nat} (h : keeps f b y c = true) : c < 2 * f.signBit := by
  cases b with
  | neighbour =>
    simp only [keeps, Bool.or_eq_true, beq_iff_eq] at h
    rcases h with rfl | rfl
    · exact round_lane_lt hf _ _
    · exact round_lane_lt hf _ _
  | twoUlp =>
    cases y with
    | fin s m e =>
      simp only [keeps, Bool.and_eq_true, decide_eq_true_eq] at h
      exact h.1
    | _ => cases h
  | absolute k =>
    simp only [keeps, Bool.and_eq_true, decide_eq_true_eq] at h
    exact h.1

theorem deliver_lt (fn : Nat) (bs : List Bound) (y : FVal) (x : Nat) : deliver fn f bs y x < 2 * f.signBit := by
  simp only [deliver]
  split_ifs with hinf hkeep
  · exact round_lane_lt hf _ _
  · obtain ⟨b, -, hb⟩ := List.any_eq_true.mp hkeep
    exact lt_of_keeps hf hb
  · exact round_lane_lt hf _ _

/-- An element of a special function is an element of the format. -/
theorem sfElem_lt (o : SFOp) (rm : RM) (x : Nat) : sfElem o rm f x < 2 * f.signBit := by
  have hround := round_lane_lt hf rm
  have hnan := nanCode_lane_lt hf
  have hdeliver := deliver_lt hf
  have hite {p : Prop} [Decidable p] {a b : Nat} (ha : a < 2 * f.signBit) (hb : b < 2 * f.signBit) : (if p then a else b) < 2 * f.signBit := by
    split_ifs
    exacts [ha, hb]
  cases hd : FVal.decode f x with
  | nan => simpa only [sfElem, hd] using hnan
  | inf s =>
    cases o <;> simp only [sfElem, hd]
    case rcp | tanh => exact hround _
    case sin | cos => exact hnan
    case rsq | sqrt | log2 => exact hite hnan (hround _)
    case exp2 | sigm => exact hite (hround _) (hround _)
  | fin s m e =>
    by_cases hm : m = 0
    · cases o <;> simp only [sfElem, hd, if_pos hm]
      case sin => exact hite (hround _) (hround _)
      all_goals exact hround _
    · cases o <;> simp only [sfElem, hd, if_neg hm]
      case rcp => exact hround _
      case sqrt => exact hite hnan (hround _)
      case rsq =>
        refine hite hnan ?_
        split
        · exact hite (hround _) (hdeliver _ _ _ _)
        · exact hdeliver _ _ _ _
      case log2 =>
        refine hite hnan ?_
        split
        · exact hround _
        · exact hdeliver _ _ _ _
      case exp2 | sin | cos => exact hite (hround _) (hdeliver _ _ _ _)
      case tanh | sigm => exact hdeliver _ _ _ _

end Bounds

theorem specialFunctionResult : Claim.SpecialFunctionResult := by
  intro o w m s c n hc hd
  have hfits (rm : RM) : FitsHalf (fun f x _ => sfElem o rm f x) := fun t a _ ht => by
    obtain ⟨hf, hbits⟩ := laneFmt_of_packed ht
    exact hbits ▸ sfElem_lt hf o rm a
  refine State.givesV_of_exec hc ((exec_sfopInstr o w m s).trans ((vectorWord_eq hc _).trans ?_))
  rw [hd]
  exact congrArg (fun g => Host.Outcome.next (s.finishV c n.toNat g)) (funext fun i => ofNat_perElem (hfits m.rm m.ty) _ 0)

/-! ## Exact points (spec/05 R156) -/

namespace FFmt

/-- A value of the format stays in every mode. -/
theorem round_of_mag {f : FFmt} (h : f.Proper) {m c : Nat} {e : Int} (hc : c ≤ f.maxCode) (hmag : f.mag c = m * 2 ^ e) (rm : RM) (s : Bool) :
    FVal.round f rm false (.fin s m e) = f.signed s c := by
  obtain ⟨c', htakes, hround⟩ := exists_takes_round h rm false s m e
  obtain rfl := htakes.unique (hmag ▸ f.takes_mag rm s c)
  rw [hround, if_pos hc]

/-- A magnitude within the range that ends at or above its last place is a value of the format. -/
theorem exists_code_of_lastPlace_le {f : FFmt} (h : f.Proper) {m : Nat} {e : Int} (hm : m ≠ 0) (hle : FVal.lastPlace f m e ≤ e)
    (hrange : (m : ℚ) * 2 ^ e ≤ f.greatest) : ∃ c ≤ f.maxCode, f.mag c = m * 2 ^ e := by
  have hmag := mag_of_lastPlace_le hm hle
  refine ⟨_, f.mag_strictMono.le_iff_le.mp ?_, hmag⟩
  rwa [hmag, ← greatest_eq h]

/-- The powers of two of the format. -/
theorem exists_code_pow {f : FFmt} (h : f ∈ laneFmts) {j : Int} (hlo : f.qmin ≤ j) (hhi : j < 2 ^ (f.ebits - 1)) :
    ∃ c ≤ f.maxCode, f.mag c = (1 : Nat) * 2 ^ j := by
  obtain ⟨hp, -⟩ := laneFmts_facts h
  have hgreat : ∀ f ∈ laneFmts, (2 : ℚ) ^ (2 ^ (f.ebits - 1) - 1) ≤ f.greatest := by decide +kernel
  refine exists_code_of_lastPlace_le hp one_ne_zero (max_le (by simp [show Nat.log2 1 = 0 by decide]) hlo) ?_
  rw [Nat.cast_one, one_mul]
  refine le_trans ?_ (hgreat f h)
  rw [← zpow_natCast]
  refine zpow_le_zpow_right₀ (by norm_num) ?_
  have hpos : 1 ≤ 2 ^ (f.ebits - 1) := Nat.one_le_two_pow
  push_cast [hpos]
  omega

/-- The integers below 2^(mbits + 1) are elements. -/
theorem exists_code_nat {f : FFmt} (h : f ∈ laneFmts) {n : Nat} (hn : n < 2 ^ (f.mbits + 1)) : ∃ c ≤ f.maxCode, f.mag c = n * 2 ^ (0 : Int) := by
  obtain ⟨hp, -, -, -, -, -, hhi⟩ := laneFmts_facts h
  rcases eq_or_ne n 0 with rfl | h0
  · exact ⟨0, Nat.zero_le _, by simp⟩
  · have hgreat : ∀ f ∈ laneFmts, ((2 ^ (f.mbits + 1) : Nat) : ℚ) ≤ f.greatest := by decide +kernel
    have hlog := (Nat.log2_lt h0).mpr hn
    refine exists_code_of_lastPlace_le hp h0 (max_le (by omega) hhi) ?_
    rw [zpow_zero, mul_one]
    exact (by exact_mod_cast hn.le : (n : ℚ) ≤ (2 ^ (f.mbits + 1) : Nat)).trans (hgreat f h)

end FFmt

section Exact
variable {f : FFmt} (hf : f ∈ laneFmts)
include hf

theorem signed_lane (s : Bool) (c : Nat) : f.signed s c = (if s then f.signBit else 0) + c := by
  obtain ⟨-, hpad, -⟩ := laneFmts_facts hf
  rw [FFmt.signed, hpad, pow_zero, one_mul]

theorem round_zero (rm : RM) (s : Bool) (e : Int) : FVal.round f rm false (.fin s 0 e) = if s then f.signBit else 0 := by
  obtain ⟨-, hpad, -⟩ := laneFmts_facts hf
  simp [FVal.round, hpad]

/-- A power of two of the format is what it rounds to. -/
theorem exists_round_pow {j : Int} (hlo : f.qmin ≤ j) (hhi : j < 2 ^ (f.ebits - 1)) :
    ∃ c, 0 < c ∧ c ≤ f.maxCode ∧ f.mag c = 2 ^ j ∧ ∀ rm s, FVal.round f rm false (.fin s 1 j) = (if s then f.signBit else 0) + c := by
  obtain ⟨hp, -⟩ := laneFmts_facts hf
  obtain ⟨c, hc, hmag⟩ := FFmt.exists_code_pow hf hlo hhi
  refine ⟨c, Nat.pos_of_ne_zero ?_, hc, by simpa using hmag, fun rm s => (FFmt.round_of_mag hp hc hmag rm s).trans (signed_lane hf s c)⟩
  rintro rfl
  rw [FFmt.mag_zero, Nat.cast_one, one_mul] at hmag
  exact absurd hmag.symm (by positivity)

/-- R156 on infinities and zeros, in every mode; `one` and `half` are the codes of 1 and 1/2. -/
theorem exists_special_codes : ∃ one half, 0 < one ∧ one ≤ f.maxCode ∧ f.mag one = 1
    ∧ (∀ rm s, FVal.round f rm false (.fin s 1 0) = (if s then f.signBit else 0) + one)
    ∧ ∀ rm, FVal.round f rm false (.fin false 1 (-1)) = half := by
  have hrange : ∀ f ∈ laneFmts, f.qmin ≤ -1 ∧ f.qmin ≤ 0 := by decide
  obtain ⟨hhalf, hone⟩ := hrange f hf
  obtain ⟨one, hpos, hle, hmag, hround⟩ := exists_round_pow hf hone (by positivity)
  obtain ⟨half, -, -, -, hround'⟩ := exists_round_pow hf hhalf (by linarith [show (0 : Int) < 2 ^ (f.ebits - 1) by positivity])
  exact ⟨one, half, hpos, hle, by simpa using hmag, hround, fun rm => (hround' rm false).trans (Nat.zero_add _)⟩

end Exact

end Sys2Proof

namespace Sys2Proof

open Sys2Proof.Machine

/-! ## Powers of two and integers as the special functions find them (spec/05 R156) -/

/-- A power of two has its exponent and no sign. -/
theorem powerOfTwo_of_rat {s : Bool} {m : Nat} {e k : Int} (h : FVal.rat (.fin s m e) = some ((2 : ℚ) ^ k)) :
    powerOfTwo m e = some k ∧ s = false ∧ m ≠ 0 ∧ m.log2 + e = k := by
  have hpos : (0 : ℚ) < 2 ^ k := by positivity
  obtain ⟨habs, -, hsign⟩ := FVal.abs_of_rat h
  have hm := FVal.mantissa_ne_zero h hpos.ne'
  rw [abs_of_pos hpos] at habs
  obtain ⟨hlo, hhi⟩ := FVal.log2_bounds hm e
  rw [← habs] at hlo hhi
  have hk : m.log2 + e = k := exponent_unique hlo hhi le_rfl (zpow_lt_zpow_right₀ (by norm_num) (lt_add_one k))
  have hpow : m = 2 ^ m.log2 := by
    rw [← hk, zpow_add₀ (by norm_num), zpow_natCast, mul_left_inj' (by positivity)] at habs
    exact_mod_cast habs.symm
  exact ⟨by rw [powerOfTwo, if_pos hpow, add_comm, hk], hsign hpos, hm, hk⟩

/-- An integer is a multiple of 1 and is read as itself. -/
theorem intOf_of_rat {s : Bool} {m : Nat} {e j : Int} (h : FVal.rat (.fin s m e) = some (j : ℚ)) :
    multipleOf m e 0 = true ∧ intOf s m e = j := by
  obtain ⟨habs, hneg, hpos⟩ := FVal.abs_of_rat h
  have hnat : (j.natAbs : ℚ) = m * 2 ^ e := by rw [← habs, Nat.cast_natAbs, Int.cast_abs]
  have hsign : (if s then -(j.natAbs : Int) else j.natAbs) = j := by
    rcases lt_trichotomy j 0 with hj | hj | hj
    · rw [hneg (by exact_mod_cast hj), if_pos rfl]; omega
    · simp [hj]
    · rw [hpos (by exact_mod_cast hj), if_neg (by decide)]; omega
  rcases le_or_gt 0 e with he | he
  · obtain ⟨n, rfl⟩ := Int.eq_ofNat_of_zero_le he
    have hm : j.natAbs = m * 2 ^ n := by rw [zpow_natCast] at hnat; exact_mod_cast hnat
    refine ⟨by simp [multipleOf], ?_⟩
    rw [← hsign, hm, intOf, if_pos he]
    push_cast
    rfl
  · obtain ⟨d, hd⟩ : ∃ d : Nat, (-e).toNat = d := ⟨_, rfl⟩
    have hm : m = j.natAbs * 2 ^ d := by
      have he' : e = -(d : Int) := by omega
      rw [he', zpow_neg, zpow_natCast, ← div_eq_mul_inv, eq_div_iff (by positivity)] at hnat
      exact_mod_cast hnat.symm
    refine ⟨?_, ?_⟩
    · rw [multipleOf, zero_sub, hd, hm, Nat.mul_mod_left]
      simp
    · rw [intOf, if_neg (not_le.mpr he), hd]
      conv_lhs => rw [hm, Nat.mul_div_cancel _ (Nat.two_pow_pos d)]
      exact hsign

/-- Quarters are integers two places up. -/
theorem intOf_of_quarter {s : Bool} {m : Nat} {e k : Int} (h : FVal.rat (.fin s m e) = some ((k : ℚ) / 4)) :
    multipleOf m e (-2) = true ∧ intOf s m (e + 2) = k := by
  have hrat : FVal.rat (.fin s m (e + 2)) = some (k : ℚ) := by
    rw [FVal.rat_fin] at h ⊢
    rw [zpow_add₀ (by norm_num), ← mul_assoc, ← mul_assoc, mul_assoc _ (m : ℚ), Option.some.inj h]
    norm_num
  obtain ⟨hmul, hint⟩ := intOf_of_rat hrat
  refine ⟨?_, hint⟩
  have hdiff : (-2 : Int) - e = 0 - (e + 2) := by ring
  have hle : (-2 : Int) ≤ e ↔ 0 ≤ e + 2 := by omega
  rw [← hmul, multipleOf, multipleOf, hdiff, decide_eq_decide.mpr hle]

/-! ## The elements at the exact points -/

section Points
variable {f : FFmt} {x m : Nat} {s : Bool} {e : Int} (hd : FVal.decode f x = .fin s m e) (rm : RM)
include hd

theorem sfElem_rsq_of_pow {k : Int} (h : FVal.rat (.fin s m e) = some ((2 : ℚ) ^ (2 * k))) :
    sfElem .rsq rm f x = FVal.round f rm false (.fin false 1 (-k)) := by
  obtain ⟨hpow, rfl, hm, -⟩ := powerOfTwo_of_rat h
  have hhalf : 2 * k / 2 = k := by omega
  simp [sfElem, hd, hm, hpow, hhalf]

theorem sfElem_log2_of_pow {k : Int} (h : FVal.rat (.fin s m e) = some ((2 : ℚ) ^ k)) :
    sfElem .log2 rm f x = FVal.round f rm false (valOf k 0) := by
  obtain ⟨hpow, rfl, hm, -⟩ := powerOfTwo_of_rat h
  simp [sfElem, hd, hm, hpow]

theorem sfElem_exp2_of_int {k : Int} (h : FVal.rat (.fin s m e) = some (k : ℚ)) (hm : m ≠ 0) :
    sfElem .exp2 rm f x = FVal.round f rm false (if 12 < m.log2 + e then exp2Val s m e else .fin false 1 k) := by
  obtain ⟨hmul, hint⟩ := intOf_of_rat h
  simp [sfElem, hd, hm, hmul, hint]

theorem sfElem_sin_of_quarter {k : Int} (h : FVal.rat (.fin s m e) = some ((k : ℚ) / 4)) (hm : m ≠ 0) :
    sfElem .sin rm f x = FVal.round f rm false (quarter k) ∧ sfElem .cos rm f x = FVal.round f rm false (quarter (k + 1)) := by
  obtain ⟨hmul, hint⟩ := intOf_of_quarter h
  simp [sfElem, hd, hm, hmul, hint]

theorem sfElem_of_neg (hs : s = true) (hm : m ≠ 0) :
    sfElem .rsq rm f x = f.nanCode ∧ sfElem .sqrt rm f x = f.nanCode ∧ sfElem .log2 rm f x = f.nanCode := by
  simp [sfElem, hd, hm, hs]

end Points

section Values
variable {f : FFmt} (hf : f ∈ laneFmts)
include hf

/-- The quarter turns are elements, and none is −0. -/
theorem rat_round_quarter (q : Int) : f.rat (FVal.round f .rne false (quarter q)) = some (if q % 4 = 1 then 1 else if q % 4 = 3 then -1 else 0)
    ∧ FVal.round f .rne false (quarter q) ≠ f.signBit := by
  obtain ⟨hp, -⟩ := laneFmts_facts hf
  obtain ⟨one, -, hpos, hle, hmag, hone, -⟩ := exists_special_codes hf
  have hlt := hle.trans_lt hp.maxCode_lt
  have hrat (s : Bool) : f.rat (FVal.round f .rne false (.fin s 1 0)) = some (if s then -1 else 1) := by
    rw [hone, ← signed_lane hf, FFmt.rat_signed hp hle, hmag, mul_one]
  rw [quarter]
  split_ifs
  · exact ⟨hrat false, by rw [hone]; simp; omega⟩
  · exact ⟨hrat true, by rw [hone]; simp; omega⟩
  · have hzero : FVal.round f .rne false .zero = 0 := round_zero hf _ _ _
    have hcode : f.signed false 0 = 0 := signed_lane hf false 0
    refine ⟨?_, by rw [hzero]; omega⟩
    rw [hzero, ← hcode, FFmt.rat_signed hp (Nat.zero_le _), FFmt.mag_zero, mul_zero]

/-- `VLOG2` of a power of two is exact. -/
theorem rat_round_valOf {k : Int} (hk : k.natAbs < 2 ^ (f.mbits + 1)) : f.rat (FVal.round f .rne false (valOf k 0)) = some (k : ℚ) := by
  obtain ⟨hp, -⟩ := laneFmts_facts hf
  obtain ⟨c, hc, hmag⟩ := FFmt.exists_code_nat hf hk
  have hval := FVal.rat_of_int k 0
  rw [valOf, FFmt.round_of_mag hp hc hmag, FFmt.rat_signed hp hc, hmag, ← FVal.rat_fin, hval, zpow_zero, mul_one]

/-- The exponents of the powers of two of the format. -/
theorem pow_range {x : Nat} {k : Int} (h : f.rat x = some ((2 : ℚ) ^ k)) : f.qmin ≤ k ∧ k ≤ f.mbits + (f.qmin + 2 ^ f.ebits) := by
  obtain ⟨hp, -⟩ := laneFmts_facts hf
  obtain ⟨s, m, e, hd, hrat⟩ := FFmt.exists_fin_of_rat h
  obtain ⟨-, -, hm, rfl⟩ := powerOfTwo_of_rat hrat
  obtain ⟨hmlt, hlo, hhi, -⟩ := FFmt.exists_code_of_decode hp hd
  have hlog : m.log2 ≤ f.mbits := by
    rw [← pow_succ'] at hmlt
    exact Nat.le_of_lt_succ ((Nat.log2_lt hm).mpr hmlt)
  omega

/-- Beyond every exponent of the format 2^x rounds as its stand-in does. -/
theorem round_exp2Val {m : Nat} {s : Bool} {e k : Int} (h : FVal.rat (.fin s m e) = some (k : ℚ)) (hbig : 12 < m.log2 + e) (hm : m ≠ 0) :
    FVal.round f .rne false (exp2Val s m e) = FVal.round f .rne false (.fin false 1 k) := by
  obtain ⟨hp, -, -, hmb, heb, hlo, hhi⟩ := laneFmts_facts hf
  obtain ⟨habs, hneg, hpos⟩ := FVal.abs_of_rat h
  have hE : (2 : Int) ^ f.ebits ≤ 2 ^ 8 := pow_le_pow_right₀ (by norm_num) heb
  have hk : 2 ^ 13 ≤ |k| := by
    obtain ⟨hlog, -⟩ := FVal.log2_bounds hm e
    have hpow : (2 : ℚ) ^ (13 : Int) ≤ 2 ^ (m.log2 + e) := zpow_le_zpow_right₀ (by norm_num) (by omega)
    have : ((2 ^ 13 : Int) : ℚ) ≤ (|k| : Int) := by
      rw [Int.cast_abs, habs]
      exact le_trans (by norm_num at hpow ⊢; exact hpow) hlog
    exact_mod_cast this
  rw [exp2Val, if_pos hbig]
  rcases lt_or_ge k 0 with hk0 | hk0
  · rw [abs_of_neg hk0] at hk
    rw [hneg (by exact_mod_cast hk0), if_pos rfl, tinyVal]
    have htiny {j : Int} (hj : j ≤ -400) : 2 * ((1 : Nat) * (2 : ℚ) ^ j) < f.mag 1 := by
      rw [Nat.cast_one, one_mul, ← zpow_one_add₀ (by norm_num), FFmt.mag_one hp]
      exact zpow_lt_zpow_right₀ (by norm_num) (by omega)
    obtain ⟨c, hc, hround⟩ := FFmt.exists_takes_round hp .rne false false 1 (-400)
    obtain ⟨c', hc', hround'⟩ := FFmt.exists_takes_round hp .rne false false 1 k
    have heq := (hc.of_tiny (by positivity) (htiny le_rfl) (by positivity) (htiny (by omega))).unique hc'
    rw [hround, hround', heq]
  · rw [abs_of_nonneg hk0] at hk
    rw [hpos (by exact_mod_cast (by omega : 0 < k)), if_neg (by decide)]
    have hover {j : Int} (hj : 400 ≤ j) : FVal.round f .rne false (.fin false 1 j) = f.signed false (FVal.overflow f .rne false false) := by
      refine FFmt.round_of_two_mul_greatest_le hp .rne false (x := 2 ^ j) (by simp [FVal.rat]) ?_
      rw [abs_of_pos (by positivity)]
      calc 2 * f.greatest ≤ 2 * 2 ^ (f.mbits + 1 + (f.qmin + 2 ^ f.ebits)) := by linarith [FFmt.greatest_lt hp]
        _ = 2 ^ (1 + (f.mbits + 1 + (f.qmin + 2 ^ f.ebits))) := (zpow_one_add₀ (by norm_num) _).symm
        _ ≤ 2 ^ j := zpow_le_zpow_right₀ (by norm_num) (by omega)
    rw [hover le_rfl, hover (by omega)]

end Values

end Sys2Proof

namespace Sys2Proof

open Sys2Proof.Machine

/-! ## The table of exact points (spec/05 R156) -/

section Table
variable {f : FFmt} {x : Nat} (hf : f ∈ laneFmts)
include hf

/-- What the special functions give on infinities, in every mode. -/
theorem sfElem_inf {s : Bool} (hd : FVal.decode f x = .inf s) {one : Nat}
    (hone : ∀ rm s, FVal.round f rm false (.fin s 1 0) = (if s then f.signBit else 0) + one) (o : SFOp) (rm : RM) :
    sfElem o rm f x = match o with
      | .rcp => if s then f.signBit else 0
      | .rsq => if s then f.nanCode else 0
      | .sqrt | .log2 => if s then f.nanCode else f.infCode
      | .exp2 => if s then 0 else f.infCode
      | .sin | .cos => f.nanCode
      | .tanh => (if s then f.signBit else 0) + one
      | .sigm => if s then 0 else one := by
  have hzero : FVal.round f rm false .zero = 0 := round_zero hf rm false 0
  have hinf : FVal.round f rm false (.inf false) = f.infCode := (round_inf hf rm false).trans (Nat.zero_add _)
  cases o <;> simp [sfElem, hd, round_zero hf, hzero, hinf, hone]

/-- What the special functions give on zeros, in every mode. -/
theorem sfElem_zero {s : Bool} {k : Int} (hd : FVal.decode f x = .fin s 0 k) {one half : Nat}
    (hone : ∀ rm s, FVal.round f rm false (.fin s 1 0) = (if s then f.signBit else 0) + one)
    (hhalf : ∀ rm, FVal.round f rm false (.fin false 1 (-1)) = half) (o : SFOp) (rm : RM) :
    sfElem o rm f x = match o with
      | .rcp | .rsq => (if s then f.signBit else 0) + f.infCode
      | .log2 => f.signBit + f.infCode
      | .sqrt | .sin | .tanh => if s then f.signBit else 0
      | .exp2 | .cos => one
      | .sigm => half := by
  have hzero : FVal.round f rm false .zero = 0 := round_zero hf rm false 0
  cases o <;> simp [sfElem, hd, round_zero hf, hzero, round_inf hf, hone, hhalf]

/-- `VRSQ` of a power of four is exact. -/
theorem rat_sfElem_rsq {k : Int} (h : f.rat x = some ((4 : ℚ) ^ k)) : f.rat (sfElem .rsq .rne f x) = some ((2 : ℚ) ^ (-k)) := by
  obtain ⟨hp, -⟩ := laneFmts_facts hf
  have hfour : (4 : ℚ) ^ k = 2 ^ (2 * k) := by rw [zpow_mul]; norm_num
  rw [hfour] at h
  obtain ⟨s, m, j, hd, hrat⟩ := FFmt.exists_fin_of_rat h
  have hbounds : ∀ f ∈ laneFmts, f.mbits + (f.qmin + 2 ^ f.ebits) ≤ -2 * f.qmin ∧ -f.qmin < 2 * 2 ^ (f.ebits - 1) := by decide
  obtain ⟨hlo, hhi⟩ := pow_range hf h
  obtain ⟨hmax, hmin⟩ := hbounds f hf
  obtain ⟨c, -, hc, hmag, hround⟩ := exists_round_pow hf (j := -k) (by omega) (by omega)
  have hcode := (hround .rne false).trans (signed_lane hf false c).symm
  rw [sfElem_rsq_of_pow hd .rne hrat, hcode, FFmt.rat_signed hp hc, hmag]
  simp

/-- `VLOG2` of a power of two is exact. -/
theorem rat_sfElem_log2 {k : Int} (h : f.rat x = some ((2 : ℚ) ^ k)) :
    f.rat (sfElem .log2 .rne f x) = some (k : ℚ) ∧ (k = 0 → sfElem .log2 .rne f x = 0) := by
  obtain ⟨s, m, j, hd, hrat⟩ := FFmt.exists_fin_of_rat h
  have hbounds : ∀ f ∈ laneFmts, f.mbits + (f.qmin + 2 ^ f.ebits) < 2 ^ (f.mbits + 1) ∧ -f.qmin < 2 ^ (f.mbits + 1) := by decide
  obtain ⟨hlo, hhi⟩ := pow_range hf h
  obtain ⟨hmax, hmin⟩ := hbounds f hf
  have hk : k.natAbs < 2 ^ (f.mbits + 1) := by zify; rw [abs_lt]; omega
  rw [sfElem_log2_of_pow hd .rne hrat]
  refine ⟨rat_round_valOf hf hk, fun h0 => ?_⟩
  rw [h0]
  exact round_zero hf .rne false 0

/-- `VEXP2` of an integer is that power of two, rounded. -/
theorem sfElem_exp2_eq_round {k : Int} (h : f.rat x = some (k : ℚ)) :
    sfElem .exp2 .rne f x = FVal.round f .rne false (.fin false 1 k) := by
  obtain ⟨s, m, j, hd, hrat⟩ := FFmt.exists_fin_of_rat h
  rcases eq_or_ne m 0 with rfl | hm
  · obtain rfl : k = 0 := by
      by_contra h0
      exact FVal.mantissa_ne_zero hrat (by exact_mod_cast h0) rfl
    simp [sfElem, hd]
  · rw [sfElem_exp2_of_int hd .rne hrat hm]
    split_ifs with hbig
    · exact round_exp2Val hf hrat hbig hm
    · rfl

/-- `VSIN` and `VCOS` of quarter turns are exact. -/
theorem rat_sfElem_quarter {k : Int} (h : f.rat x = some ((k : ℚ) / 4)) (hk : k ≠ 0) :
    f.rat (sfElem .sin .rne f x) = some (if k % 4 = 1 then 1 else if k % 4 = 3 then -1 else 0)
      ∧ f.rat (sfElem .cos .rne f x) = some (if k % 4 = 0 then 1 else if k % 4 = 2 then -1 else 0)
      ∧ sfElem .sin .rne f x ≠ f.signBit ∧ sfElem .cos .rne f x ≠ f.signBit := by
  obtain ⟨s, m, j, hd, hrat⟩ := FFmt.exists_fin_of_rat h
  have hm : m ≠ 0 := FVal.mantissa_ne_zero hrat (div_ne_zero (by exact_mod_cast hk) (by norm_num))
  obtain ⟨hsin, hcos⟩ := sfElem_sin_of_quarter hd .rne hrat hm
  obtain ⟨hsinval, hsinsg⟩ := rat_round_quarter hf k
  obtain ⟨hcosval, hcossg⟩ := rat_round_quarter hf (k + 1)
  have h0 : (k + 1) % 4 = 1 ↔ k % 4 = 0 := by omega
  have h2 : (k + 1) % 4 = 3 ↔ k % 4 = 2 := by omega
  simp only [h0, h2] at hcosval
  rw [hsin, hcos]
  exact ⟨hsinval, hcosval, hsinsg, hcossg⟩

omit hf in
/-- No root and no logarithm of a negative number. -/
theorem sfElem_of_rat_neg {q : ℚ} (hq : f.rat x = some q) (h : q < 0) (rm : RM) :
    sfElem .rsq rm f x = f.nanCode ∧ sfElem .sqrt rm f x = f.nanCode ∧ sfElem .log2 rm f x = f.nanCode := by
  obtain ⟨s, m, k, hd, hrat⟩ := FFmt.exists_fin_of_rat hq
  obtain ⟨-, hneg, -⟩ := FVal.abs_of_rat hrat
  exact sfElem_of_neg hd rm (hneg h) (FVal.mantissa_ne_zero hrat h.ne)

end Table

theorem specialFunctionExactPoints : Claim.SpecialFunctionExactPoints := by
  intro f x hf e nan inf sg one
  obtain ⟨one', half, -, -, -, hone, hhalf⟩ := exists_special_codes hf
  have hone1 : one = one' := (hone .rne false).trans (Nat.zero_add _)
  have hnan (h : FVal.decode f x = .nan) (o : SFOp) (rm : RM) : sfElem o rm f x = f.nanCode := by simp only [sfElem, h]
  refine ⟨fun h o => hnan h o .rne, fun h => ?_, fun h => ?_, fun s k h => ?_, fun q hq h => sfElem_of_rat_neg hq h .rne,
    fun k h => rat_sfElem_rsq hf h, fun k h => rat_sfElem_log2 hf h, fun k h => sfElem_exp2_eq_round hf h,
    fun k h hk => rat_sfElem_quarter hf h hk, fun o rm h => ?_, fun q rm hq h => (sfElem_of_rat_neg hq h rm).2.1⟩
  · have hval (o : SFOp) := sfElem_inf hf h hone o .rne
    rw [hone1]
    exact ⟨hval .rcp, hval .rsq, hval .sqrt, hval .exp2, hval .log2, hval .sin, hval .cos, hval .tanh, hval .sigm⟩
  · have hval (o : SFOp) := sfElem_inf hf h hone o .rne
    rw [hone1]
    exact ⟨hval .rcp, hval .rsq, hval .sqrt, hval .exp2, hval .log2, hval .sin, hval .cos, (hval .tanh).trans (Nat.zero_add _), hval .sigm⟩
  · have hval (o : SFOp) := sfElem_zero hf h hone hhalf o .rne
    rw [hone1, hhalf]
    exact ⟨hval .rcp, hval .rsq, hval .sqrt, hval .exp2, hval .log2, hval .sin, hval .cos, hval .tanh, hval .sigm⟩
  · rcases h with h | ⟨p, h⟩ | h
    · rw [hnan h]
      exact (hnan h o .rne).symm
    · exact (sfElem_inf hf h hone o rm).trans (sfElem_inf hf h hone o .rne).symm
    · obtain ⟨s, k, hd⟩ := FVal.exists_of_isZero h
      exact (sfElem_zero hf hd hone hhalf o rm).trans (sfElem_zero hf hd hone hhalf o .rne).symm

/-- Settles O6: the points of the table are values of the format, which rounding leaves alone; the words write what the element functions
give. -/
theorem specialFunctions : Obligations.SpecialFunctions := ⟨specialFunctionResult, specialFunctionExactPoints⟩

end Sys2Proof

namespace Sys2Proof.Machine

/-! ## Bytes and the number they hold -/

@[simp] theorem length_bytesOf (n k : Nat) : (bytesOf n k).length = n := by simp [bytesOf]

theorem natOf_cons (b : Byte) (bs : List Byte) : natOf (b :: bs) = b.toNat + 256 * natOf bs := rfl

theorem bytesOf_succ (n k : Nat) : bytesOf (n + 1) k = BitVec.ofNat 8 k :: bytesOf n (k / 256) := by
  simp [bytesOf, List.range_succ_eq_map, Function.comp_def, Nat.div_div_eq_div_mul, pow_succ']

/-- The number of the low `n` bytes of a number. -/
theorem natOf_bytesOf (n k : Nat) : natOf (bytesOf n k) = k % 256 ^ n := by
  induction n generalizing k with
  | zero => simp [bytesOf, natOf, Nat.mod_one]
  | succ n ih =>
    rw [bytesOf_succ, natOf_cons, ih, BitVec.toNat_ofNat, pow_succ' 256 n, Nat.mod_mul]

theorem natOf_lt (bs : List Byte) : natOf bs < 256 ^ bs.length := by
  induction bs with
  | nil => simp [natOf]
  | cons b r ih =>
    have := b.isLt
    rw [natOf_cons, List.length_cons, pow_succ']
    omega

/-- Bytes that read alike at every place of a range. -/
theorem Sparse.bytes_congr {m m' : Sparse Byte} {i i' n : Nat} (h : ∀ j, j < n → m.look (i + j) = m'.look (i' + j)) :
    m.bytes i n = m'.bytes i' n := by
  refine List.ext_getElem (by simp) fun j hj hj' => ?_
  rw [Sparse.length_bytes] at hj
  have := h j hj
  rwa [← Sparse.getD_bytes m i n j hj, ← Sparse.getD_bytes m' i' n j hj, List.getD_eq_getElem _ _ (by simpa), List.getD_eq_getElem _ _ (by simpa)]
    at this

theorem Sparse.bytes_putBytes_self (m : Sparse Byte) (i : Nat) (bs : List Byte) : (m.putBytes i bs).bytes i bs.length = bs := by
  refine List.ext_getElem (by simp) fun j hj hj' => ?_
  rw [← List.getD_eq_getElem _ 0 hj, ← List.getD_eq_getElem _ 0 hj', Sparse.getD_bytes _ _ _ _ hj', Sparse.look_putBytes,
    if_pos (by omega), Nat.add_sub_cancel_left]

/-! ## Tiles (spec/06 R175, R176) -/

theorem Layout.esize_pos (l : Layout) : 0 < l.esize := by
  unfold Layout.esize
  split <;> decide

theorem Layout.esize_cases (l : Layout) : l.esize = 4 ∨ l.esize = 2 := by
  unfold Layout.esize
  split <;> simp

/-- Two elements of a tile share no byte. -/
theorem Layout.at_disjoint (l : Layout) {r k r' k' : Nat} (hk : k < l.cols) (hk' : k' < l.cols) (h : (r, k) ≠ (r', k')) :
    l.at r k + l.esize ≤ l.at r' k' ∨ l.at r' k' + l.esize ≤ l.at r k := by
  have hlt : r * l.cols + k < r' * l.cols + k' ∨ r' * l.cols + k' < r * l.cols + k := by
    rcases lt_trichotomy r r' with hr | rfl | hr
    · have := Nat.mul_le_mul_right l.cols (Nat.succ_le_of_lt hr)
      rw [Nat.succ_mul] at this
      omega
    · have : k ≠ k' := fun hkk => h (by rw [hkk])
      omega
    · have := Nat.mul_le_mul_right l.cols (Nat.succ_le_of_lt hr)
      rw [Nat.succ_mul] at this
      omega
  unfold Layout.at
  rcases hlt with hlt | hlt
  · have := Nat.mul_le_mul_right l.esize (Nat.succ_le_of_lt hlt)
    rw [Nat.succ_mul] at this
    omega
  · have := Nat.mul_le_mul_right l.esize (Nat.succ_le_of_lt hlt)
    rw [Nat.succ_mul] at this
    omega

theorem Forme.elem_lt (f : Forme) (l : Layout) (r k : Nat) : f.elem l r k < 2 ^ (8 * l.esize) := by
  have := natOf_lt (f.acc.bytes (l.at r k) l.esize)
  rwa [Sparse.length_bytes, show 256 = 2 ^ 8 from rfl, ← pow_mul] at this

/-- An element is read from its bytes. -/
theorem Forme.elem_congr {f f' : Forme} {l : Layout} {r k : Nat}
    (h : ∀ a, l.at r k ≤ a → a < l.at r k + l.esize → f'.acc.look a = f.acc.look a) : f'.elem l r k = f.elem l r k := by
  rw [Forme.elem, Forme.elem, Sparse.bytes_congr (m' := f.acc) (fun j hj => h _ (Nat.le_add_right _ _) (by omega))]

theorem Forme.elem_putElem (f : Forme) (l : Layout) (r k x : Nat) : (f.putElem l r k x).elem l r k = x % 2 ^ (8 * l.esize) := by
  have h := Sparse.bytes_putBytes_self f.acc (l.at r k) (bytesOf l.esize x)
  rw [length_bytesOf] at h
  rw [Forme.elem, Forme.putElem, h, natOf_bytesOf, show 256 = 2 ^ 8 from rfl, ← pow_mul]

theorem Forme.look_putElem (f : Forme) (l : Layout) (r k x : Nat) {a : Nat} (h : ¬(l.at r k ≤ a ∧ a < l.at r k + l.esize)) :
    (f.putElem l r k x).acc.look a = f.acc.look a := by
  rw [Forme.putElem, Sparse.look_putBytes, length_bytesOf, if_neg h]

/-- Elements put one after the other: row, column and bits of each. -/
def Forme.putElems (f : Forme) (l : Layout) (ws : List (Nat × Nat × Nat)) : Forme :=
  ws.foldl (fun f w => f.putElem l w.1 w.2.1 w.2.2) f

theorem Forme.putElems_acc (f : Forme) (l : Layout) (ws : List (Nat × Nat × Nat)) : { f.putElems l ws with acc := f.acc } = f := by
  induction ws generalizing f with
  | nil => rfl
  | cons w ws ih =>
    have h := congrArg (fun g : Forme => { g with acc := f.acc }) (ih (f.putElem l w.1 w.2.1 w.2.2))
    exact h

/-- What a forme holds beside its accumulator memory is as it was. -/
theorem Forme.putElems_field (f : Forme) (l : Layout) (ws : List (Nat × Nat × Nat)) {α : Type} (g : Forme → α)
    (hg : ∀ (f : Forme) (x : Sparse Byte), g { f with acc := x } = g f := by intros; rfl) : g (f.putElems l ws) = g f :=
  (hg _ f.acc).symm.trans (congrArg g (f.putElems_acc l ws))

theorem Forme.look_putElems (f : Forme) (l : Layout) (ws : List (Nat × Nat × Nat)) {a : Nat}
    (h : ∀ w ∈ ws, ¬(l.at w.1 w.2.1 ≤ a ∧ a < l.at w.1 w.2.1 + l.esize)) : (f.putElems l ws).acc.look a = f.acc.look a := by
  induction ws generalizing f with
  | nil => rfl
  | cons w ws ih =>
    exact (ih _ (fun v hv => h v (List.mem_cons_of_mem _ hv))).trans (f.look_putElem l _ _ _ (h w List.mem_cons_self))

/-- An element that no write of a list names keeps its bits. -/
theorem Forme.elem_putElems_of_not_mem (f : Forme) (l : Layout) {ws : List (Nat × Nat × Nat)} (hcols : ∀ w ∈ ws, w.2.1 < l.cols) {r k : Nat}
    (hk : k < l.cols) (h : ∀ w ∈ ws, (w.1, w.2.1) ≠ (r, k)) : (f.putElems l ws).elem l r k = f.elem l r k :=
  Forme.elem_congr fun a hlo hhi => f.look_putElems l ws fun w hw => by
    rcases l.at_disjoint (hcols w hw) hk (h w hw) with hd | hd <;> omega

/-- Writes within the columns of a tile, of one value for each element, leave each element with its value. -/
theorem Forme.elem_putElems (f : Forme) (l : Layout) {ws : List (Nat × Nat × Nat)} (hcols : ∀ w ∈ ws, w.2.1 < l.cols)
    (hone : ∀ v ∈ ws, ∀ w ∈ ws, (v.1, v.2.1) = (w.1, w.2.1) → v.2.2 = w.2.2) {w : Nat × Nat × Nat} (hw : w ∈ ws) :
    (f.putElems l ws).elem l w.1 w.2.1 = w.2.2 % 2 ^ (8 * l.esize) := by
  induction ws generalizing f w with
  | nil => cases hw
  | cons v ws ih =>
    have hcols' : ∀ u ∈ ws, u.2.1 < l.cols := fun u hu => hcols u (List.mem_cons_of_mem _ hu)
    have hone' : ∀ t ∈ ws, ∀ u ∈ ws, (t.1, t.2.1) = (u.1, u.2.1) → t.2.2 = u.2.2 := fun t ht u hu =>
      hone t (List.mem_cons_of_mem _ ht) u (List.mem_cons_of_mem _ hu)
    show ((f.putElem l v.1 v.2.1 v.2.2).putElems l ws).elem l w.1 w.2.1 = _
    by_cases hin : ∃ u ∈ ws, (u.1, u.2.1) = (w.1, w.2.1)
    · obtain ⟨u, hu, he⟩ := hin
      obtain ⟨h1, h2⟩ := Prod.mk.inj he
      rw [← h1, ← h2, ih _ hcols' hone' hu, hone u (List.mem_cons_of_mem _ hu) w hw he]
    · push Not at hin
      obtain rfl : w = v := (List.mem_cons.mp hw).resolve_right (fun h => hin w h rfl)
      rw [Forme.elem_putElems_of_not_mem _ l hcols' (hcols w hw) hin, Forme.elem_putElem]

/-! ## Slices (spec/06 R178) -/

/-- The halves of a lane that hold an element each. -/
def Layout.halves (l : Layout) : Nat := if l.esize = 4 then 1 else 2

theorem sliceAt_eq (l : Layout) (col : Bool) (n i : Nat) : sliceAt l col n i = (List.range l.halves).map (slicePos l col n i) := by
  unfold sliceAt Layout.halves slicePos
  by_cases h : l.esize = 4
  · simp only [h, if_true]
    cases col <;> simp
  · simp only [h, if_false]
    cases col <;> simp [List.range_succ]

/-- The places of a slice in the tile are different in different lanes and halves. -/
theorem slicePos_inj {l : Layout} {col : Bool} {n i h j g : Nat} (hh : h < l.halves) (hg : g < l.halves)
    (he : slicePos l col n i h = slicePos l col n j g) : i = j ∧ h = g := by
  unfold slicePos at he
  unfold Layout.halves at hh hg
  by_cases h4 : l.esize = 4 <;> cases col <;> simp [h4] at he hh hg <;> omega

theorem Layout.has_iff (l : Layout) (p : Nat × Nat) : l.has p = true ↔ l.valid = true ∧ p.1 < l.rows ∧ p.2 < l.cols := by
  simp [Layout.has]

/-- What a slice reads in a lane: the bits of its elements, the first lowest. -/
theorem Forme.readSlice_eq (f : Forme) (l : Layout) (col : Bool) (n i : Nat) :
    let x (h : Nat) : Nat := f.posBits l (slicePos l col n i h).1 (slicePos l col n i h).2
    f.readSlice l col n i = if l.esize = 4 then x 0 else x 0 + 2 ^ 16 * x 1 := by
  intro x
  have hx (h : Nat) : (if l.has (slicePos l col n i h) then f.elem l (slicePos l col n i h).1 (slicePos l col n i h).2 else 0) = x h := by
    simp only [x, Forme.posBits, ← Layout.has_iff]
  unfold Forme.readSlice
  by_cases hv : l.valid = true
  · rw [hv, Bool.not_true, if_neg Bool.false_ne_true, sliceAt_eq]
    rcases l.esize_cases with h4 | h2
    · simp [Layout.halves, h4, hx]
    · simp [Layout.halves, h2, hx, List.range_succ]
  · simp [x, Forme.posBits, hv]

theorem Forme.posBits_lt (f : Forme) (l : Layout) (r k : Nat) : f.posBits l r k < 2 ^ (8 * l.esize) := by
  unfold Forme.posBits
  split
  · exact f.elem_lt l r k
  · positivity

/-- The writes that a slice makes in a lane. -/
def sliceWrites (l : Layout) (col : Bool) (n i x : Nat) : List (Nat × Nat × Nat) :=
  if l.valid then
    ((List.range l.halves).filter (fun h => l.has (slicePos l col n i h))).map (fun h =>
      ((slicePos l col n i h).1, (slicePos l col n i h).2, x / 2 ^ (8 * l.esize * h)))
  else []

theorem Forme.writeSlice_eq (f : Forme) (l : Layout) (col : Bool) (n i x : Nat) :
    f.writeSlice l col n i x = f.putElems l (sliceWrites l col n i x) := by
  unfold Forme.writeSlice sliceWrites Forme.putElems
  by_cases hv : l.valid = true
  · simp only [hv, Bool.not_true, Bool.false_eq_true, if_false, if_true, sliceAt_eq, List.length_map, List.length_range, List.foldl_map,
      List.foldl_filter]
    refine List.foldl_ext _ _ _ fun g h hh => ?_
    rw [List.mem_range] at hh
    simp [List.getD_eq_getElem?_getD, hh]
  · simp [hv]

theorem mem_sliceWrites {l : Layout} {col : Bool} {n i x : Nat} {w : Nat × Nat × Nat} : w ∈ sliceWrites l col n i x ↔
    ∃ h, h < l.halves ∧ slicePos l col n i h = (w.1, w.2.1) ∧ l.valid = true ∧ w.1 < l.rows ∧ w.2.1 < l.cols
      ∧ w.2.2 = x / 2 ^ (8 * l.esize * h) := by
  obtain ⟨r, k, y⟩ := w
  unfold sliceWrites
  by_cases hv : l.valid = true
  · simp only [hv, if_true, List.mem_map, List.mem_filter, List.mem_range, Layout.has_iff, true_and, Prod.mk.injEq]
    refine exists_congr fun h => ⟨?_, ?_⟩
    · rintro ⟨⟨hh, hr, hk⟩, rfl, rfl, rfl⟩
      exact ⟨hh, rfl, hr, hk, rfl⟩
    · rintro ⟨hh, he, hr, hk, rfl⟩
      rw [he]
      exact ⟨⟨hh, hr, hk⟩, rfl, rfl, rfl⟩
  · simp [hv]

end Sys2Proof.Machine

namespace Sys2Proof.Machine

/-! ## Words that change their forme and complete -/

/-- A word that has changed nothing of its slug completes. -/
theorem State.moved_retire {s u : State} {h : Hdr} {c : Ctx} (hc : s.ctx h = some c) (hcur : u.cur = s.cur) (hcyc : u.cyc = s.cyc)
    (hslug : u.slug c.iss.fk c.iss.sl = c.m) : s.Moved (u.retire c) c c.nextPc [] := by
  have hs := (State.done_retire hc).moved
  have heq : (u.retire c).slug c.iss.fk c.iss.sl = (s.retire c).slug c.iss.fk c.iss.sl := by
    rw [State.retire, State.retire, State.retireTo_eq (State.ctx_cur hc), State.retireTo_eq (hcur.trans (State.ctx_cur hc)),
      State.slug_modSlug, State.slug_modSlug, hslug, State.ctx_slug hc, hcyc]
  exact ⟨heq ▸ hs.regs, heq ▸ hs.rest, heq ▸ hs.slot⟩

/-- Completion changes the issuing slug alone. -/
theorem State.outsideAs_retire {u : State} {c : Ctx} (h : u.cur = some c.iss) : u.OutsideAs (u.retire c) c.iss.fk c.iss.sl := by
  rw [State.retire, State.retireTo_eq h]
  exact State.outsideAs_modSlug _ _ _ _

/-- What a forme holds beside its slugs is as it was. -/
theorem State.OutsideAs.forme {s t : State} {fk sl : Nat} (h : s.OutsideAs t fk sl) {α : Type} (g : Forme → α)
    (hg : ∀ (f : Forme) (x : Sparse Slug), g { f with slugs := x } = g f := by intros; rfl) (k : Nat) : g (t.forme k) = g (s.forme k) :=
  (hg _ _).symm.trans (congrArg g (h.formes k))

theorem State.SlugsAs.of_eq {s u t : State} {fk sl : Nat} (h : u.SlugsAs t fk sl) (hu : ∀ k j, u.slug k j = s.slug k j) :
    s.SlugsAs t fk sl := fun k j hkj => (h k j hkj).trans (hu k j)

/-! ## `TRD`, `TWR`, `TINFO` (spec/06 R178, R181, R210) -/

section Slices

variable {s : State} {w : Ops} {c : Ctx} (m : SliceMod) (hc : s.ctx w.h = some c)
include hc

theorem exec_trd : exec (.trd w m) s = .next (if s.tileBusy c m.tile.toNat then s.hold
    else s.finishV c w.d.num (fun i => BitVec.ofNat 32 (c.f.readSlice (c.f.layout m.tile.toNat) m.col (c.slice m) i.val))) := by
  show execTrd w m s = _
  rw [execTrd, vectorWord_eq hc]
  rfl

/-- The writes of a slice word: the places of its active lanes. -/
def Ctx.sliceWrites (c : Ctx) (w : Ops) (m : SliceMod) : List (Nat × Nat × Nat) :=
  (planes c.act).flatMap (fun p => Machine.sliceWrites (c.f.layout m.tile.toNat) m.col (c.slice m) p (c.m.laneAt w.a p).toNat)

theorem exec_twr : exec (.twr w m) s = .next (if c.m.tx.isSome then s.trapCode c 0x33 else if s.tileBusy c m.tile.toNat then s.hold
    else (s.modForme c.iss.fk (fun f => f.putElems (c.f.layout m.tile.toNat) (c.sliceWrites w m))).retire c) := by
  show execTwr w m s = _
  rw [execTwr, vectorWord_eq hc, State.unlessTx, Bool.and_true]
  simp only [Forme.writeSlice_eq, Ctx.sliceWrites, Forme.putElems, List.foldl_flatMap]

theorem exec_tinfo (k : MxMod) (ha : c.act ≠ 0) : exec (.tinfo w k) s = .next (if s.tileBusy c w.a.num then s.hold
    else s.finishG c w.d.num (c.f.layout w.a.num)) := by
  show execTinfo w k s = _
  rw [execTinfo, scalarWord_eq hc, if_neg ha]

end Slices

theorem Slug.laneAt_v (m : Slug) (a : BitVec 7) (i : Fin 32) : m.laneAt (.v a) i.val = (m.readV a.toNat)[i] := by
  simp [Slug.laneAt, Opnd.num, List.getD_eq_getElem?_getD]

/-- The writes of `TWR` are those of its active lanes' places in the tile. -/
theorem Ctx.mem_sliceWrites {c : Ctx} {w : Ops} {m : SliceMod} {a : BitVec 7} (ha : w.a = .v a) {v : Nat × Nat × Nat} :
    let l := c.f.layout m.tile.toNat
    v ∈ c.sliceWrites w m ↔ ∃ (i : Fin 32) (h : Nat), c.act.getLsbD i.val = true ∧ h < l.halves
      ∧ slicePos l m.col (c.slice m) i.val h = (v.1, v.2.1) ∧ l.valid = true ∧ v.1 < l.rows ∧ v.2.1 < l.cols
      ∧ v.2.2 = ((c.m.readV a.toNat)[i]).toNat / 2 ^ (8 * l.esize * h) := by
  intro l
  simp only [Ctx.sliceWrites, List.mem_flatMap, mem_planes, Machine.mem_sliceWrites]
  constructor
  · rintro ⟨p, ⟨hp, hact⟩, h, hh, hpos, hv, hr, hk, hy⟩
    refine ⟨⟨p, hp⟩, h, hact, hh, hpos, hv, hr, hk, ?_⟩
    rw [hy, ha, ← Slug.laneAt_v]
  · rintro ⟨i, h, hact, hh, hpos, hv, hr, hk, hy⟩
    refine ⟨i.val, ⟨i.isLt, hact⟩, h, hh, hpos, hv, hr, hk, ?_⟩
    rw [hy, ha, Slug.laneAt_v]

/-- A place is written by one lane and half alone. -/
theorem Ctx.sliceWrites_one {c : Ctx} {w : Ops} {m : SliceMod} {a : BitVec 7} (ha : w.a = .v a) :
    ∀ u ∈ c.sliceWrites w m, ∀ v ∈ c.sliceWrites w m, (u.1, u.2.1) = (v.1, v.2.1) → u.2.2 = v.2.2 := by
  intro u hu v hv he
  obtain ⟨i, h, -, hh, hpos, -, -, -, hy⟩ := (Ctx.mem_sliceWrites ha).mp hu
  obtain ⟨j, g, -, hg, hpos', -, -, -, hz⟩ := (Ctx.mem_sliceWrites ha).mp hv
  obtain ⟨hij, rfl⟩ := slicePos_inj hh hg (hpos.trans (he.trans hpos'.symm))
  obtain rfl := Fin.ext hij
  rw [hy, hz]

/-- A half of a lane is the element's place in it. -/
theorem Layout.half_shift {l : Layout} {h : Nat} (hh : h < l.halves) : 8 * l.esize * h = 16 * h := by
  unfold Layout.halves at hh
  rcases l.esize_cases with h4 | h2
  · rw [h4] at hh
    obtain rfl : h = 0 := by simpa using hh
    simp
  · rw [h2]

/-- A lane that `TRD` reads: its element, or two of them side by side. -/
theorem Forme.readSlice_lane (f : Forme) (l : Layout) (col : Bool) (n i : Nat) :
    let x (h : Nat) : Nat := f.posBits l (slicePos l col n i h).1 (slicePos l col n i h).2
    BitVec.ofNat 32 (f.readSlice l col n i)
      = if l.esize = 4 then BitVec.ofNat 32 (x 0) else BitVec.ofNat 16 (x 1) ++ BitVec.ofNat 16 (x 0) := by
  intro x
  rw [Forme.readSlice_eq]
  rcases l.esize_cases with h4 | h2
  · rw [if_pos h4, if_pos h4]
  · have hlt (h : Nat) : x h < 2 ^ 16 := by
      have := f.posBits_lt l (slicePos l col n i h).1 (slicePos l col n i h).2
      rwa [h2] at this
    have h0 := hlt 0
    have h1 := hlt 1
    rw [h2, if_neg (by decide), if_neg (by decide)]
    refine BitVec.eq_of_toNat_eq ?_
    rw [toNat_append_eq_add, BitVec.toNat_ofNat, BitVec.toNat_ofNat, BitVec.toNat_ofNat]
    change (x 0 + 2 ^ 16 * x 1) % 2 ^ 32 = _
    omega

end Sys2Proof.Machine

namespace Sys2Proof

open Sys2Proof.Machine

/-- Settles O39: a slice's places are different in different lanes, so that `TWR` leaves each place with its lane's bits; `TRD` and
`TINFO` write one register. -/
theorem tileSlices : Obligations.TileSlices := by
  intro w m k s c hc l n pos halves
  have htrd := exec_trd m hc
  have htwr := exec_twr m hc
  refine ⟨fun hb => ⟨by rw [htrd, if_pos hb], fun htx => by rw [htwr, htx, if_neg (by decide), if_pos hb]⟩, fun hb d hd => ?_,
    fun htx => by rw [htwr, if_pos (Option.isSome_iff_ne_none.mpr htx)], fun hb htx a ha => ?_, fun hact d a hd ha => ⟨fun hb => ?_, fun hb hpin => ?_⟩⟩
  · refine State.givesV_of_exec hc ?_
    rw [htrd, if_neg (by simp [hb]), hd]
    simp only [Forme.readSlice_lane]
    rfl
  · intro names
    have hnames (v : Nat × Nat × Nat) : v ∈ c.sliceWrites w m ↔ ∃ i h, names i h v.1 v.2.1
        ∧ v.2.2 = ((c.m.readV a.toNat)[i]).toNat / 2 ^ (16 * h) := by
      refine (Ctx.mem_sliceWrites ha).trans (exists_congr fun i => exists_congr fun h => ⟨fun ⟨hi, hh, hpos, hv, hr, hq, hy⟩ => ?_, fun ⟨⟨hi, hh, hpos, hv, hr, hq⟩, hy⟩ => ?_⟩)
      · exact ⟨⟨hi, hh, hpos, hv, hr, hq⟩, by rw [hy, Layout.half_shift hh]⟩
      · exact ⟨hi, hh, hpos, hv, hr, hq, by rw [hy, Layout.half_shift hh]⟩
    have hcols : ∀ v ∈ c.sliceWrites w m, v.2.1 < l.cols := fun v hv => by
      obtain ⟨i, h, ⟨-, -, -, -, -, hq⟩, -⟩ := (hnames v).mp hv
      exact hq
    let u : State := s.modForme c.iss.fk (fun f => f.putElems l (c.sliceWrites w m))
    have hslugs (k j : Nat) : u.slug k j = s.slug k j :=
      State.slug_modForme_of_slugs (Forme.putElems_field _ _ _ Forme.slugs) k j
    have hcur : u.cur = some c.iss := show s.cur = _ from State.ctx_cur hc
    have hout : u.OutsideAs (u.retire c) c.iss.fk c.iss.sl := State.outsideAs_retire hcur
    have hforme : u.forme c.iss.fk = c.f.putElems l (c.sliceWrites w m) := by rw [State.forme_modForme, State.ctx_forme hc]
    have hacc : ((u.retire c).forme c.iss.fk).acc = (c.f.putElems l (c.sliceWrites w m)).acc := by
      rw [hout.forme Forme.acc, hforme]
    refine ⟨u.retire c, by rw [htwr, htx, if_neg (by decide), if_neg (by simp [hb])],
      State.moved_retire hc rfl rfl ((hslugs _ _).trans (State.ctx_slug hc)), hout.slugs.of_eq hslugs, fun i h r q hn => ?_, fun b hout => ?_,
      fun j hj => ?_, hout.bytes.dram, fun j => ?_⟩
    · have hv := (hnames (r, q, ((c.m.readV a.toNat)[i]).toNat / 2 ^ (16 * h))).mpr ⟨i, h, hn, rfl⟩
      exact (Forme.elem_congr fun a _ _ => by rw [hacc]).trans (c.f.elem_putElems l hcols (Ctx.sliceWrites_one ha) hv)
    · rw [hacc]
      refine c.f.look_putElems l _ fun v hv => ?_
      obtain ⟨i, h, hn, -⟩ := (hnames v).mp hv
      exact hout i h _ _ hn
    · rw [hout.forme Forme.acc, State.forme_modForme_ne _ _ hj]
    · rw [hout.forme Forme.scratch]
      by_cases hj : j = c.iss.fk
      · rw [hj, State.forme_modForme]
        exact Forme.putElems_field _ _ _ Forme.scratch
      · rw [State.forme_modForme_ne _ _ hj]
  · rw [exec_tinfo hc k hact, ha]
    exact congrArg _ (if_pos hb)
  · refine State.givesG_of_exec hc hpin ?_
    rw [exec_tinfo hc k hact, ha, hd]
    exact congrArg _ (if_neg (by simp only [Opnd.num]; simp [hb]))

end Sys2Proof

namespace Sys2Proof.Machine

/-! ## Engine forms (spec/06 R179, R180, R182) -/

section EngineForms

variable {s : State} {w : Ops} {c : Ctx} (hc : s.ctx w.h = some c) (ha : c.act ≠ 0)
include hc ha

theorem engineForm_eq (go : Ctx → State) : engineForm w s go = .next (if !c.m.owner then s.trapCode c 0x07
    else if c.m.tx.isSome then s.trapCode c 0x33 else if 8 ≤ c.f.mq.length then s.hold else go c) := by
  rw [engineForm, scalarWord_eq hc, if_neg ha]

theorem engineForm_free (go : Ctx → State) (ho : c.m.owner = true) (ht : c.m.tx = none) (hq : c.f.mq.length < 8) :
    engineForm w s go = .next (go c) := by
  simp [engineForm_eq hc ha, ho, ht, Nat.not_le.mpr hq]

theorem engineForm_notOwner (go : Ctx → State) (ho : c.m.owner = false) : engineForm w s go = .next (s.trapCode c 0x07) := by
  simp [engineForm_eq hc ha, ho]

theorem engineForm_inTx (go : Ctx → State) (ho : c.m.owner = true) (ht : c.m.tx ≠ none) :
    engineForm w s go = .next (s.trapCode c 0x33) := by
  simp [engineForm_eq hc ha, ho, Option.isSome_iff_ne_none.mpr ht]

theorem engineForm_full (go : Ctx → State) (ho : c.m.owner = true) (ht : c.m.tx = none) (hq : 8 ≤ c.f.mq.length) :
    engineForm w s go = .next s.hold := by
  simp [engineForm_eq hc ha, ho, ht, hq]

end EngineForms

/-! ## What entering a queue changes (spec/06 R180) -/

section Enqueue

variable {s : State} {h : Hdr} {c : Ctx} (hc : s.ctx h = some c) (e : MqEntry)
include hc

omit hc in
/-- The formes after an entry has joined its queue. -/
theorem State.forme_enqueue_modForme (k : Nat) : (s.enqueue c e).forme k = (s.modForme c.iss.fk (fun f => { f with
    issued := f.issued + 1
    mq := f.mq ++ [{ e with id := f.issued + 1, arrival := (s.core c.core).arrivals }] })).forme k := rfl

theorem State.forme_enqueue : (s.enqueue c e).forme c.iss.fk = { c.f with
    issued := c.f.issued + 1
    mq := c.f.mq ++ [{ e with id := c.f.issued + 1, arrival := (s.core c.core).arrivals }] } := by
  rw [State.forme_enqueue_modForme, State.forme_modForme, State.ctx_forme hc]

omit hc in
theorem State.forme_enqueue_ne {k : Nat} (hk : k ≠ c.iss.fk) : (s.enqueue c e).forme k = s.forme k := by
  rw [State.forme_enqueue_modForme, State.forme_modForme_ne _ _ hk]

theorem State.slug_enqueue (k j : Nat) : (s.enqueue c e).slug k j = s.slug k j := by
  by_cases hk : k = c.iss.fk
  · rw [State.slug, hk, State.forme_enqueue hc, State.slug, State.ctx_forme hc]
  · rw [State.slug, State.forme_enqueue_ne e hk, State.slug]

/-- What the entering of a queue leaves alone of a forme. -/
theorem State.forme_enqueue_field {α : Type} (g : Forme → α)
    (hg : ∀ (f : Forme) (n : Nat) (q : List MqEntry), g { f with issued := n, mq := q } = g f := by intros; rfl) (k : Nat) :
    g ((s.enqueue c e).forme k) = g (s.forme k) := by
  by_cases hk : k = c.iss.fk
  · rw [hk, State.forme_enqueue hc, hg, State.ctx_forme hc]
  · rw [State.forme_enqueue_ne e hk]

theorem State.queued_enqueue : s.Queued (s.enqueue c e) c e where
  queue := by rw [State.forme_enqueue hc]
  number := by rw [State.forme_enqueue hc]
  arrival := by
    rw [State.enqueue, State.core_modCore]
  others k hk := by rw [State.forme_enqueue_ne e hk]
  tiles k := ⟨State.forme_enqueue_field hc e Forme.tiles (k := k), State.forme_enqueue_field hc e Forme.rowprog (k := k)⟩
  slugs k j _ := State.slug_enqueue hc e k j
  bytes := ⟨fun _ => rfl, fun k a => congrArg (·.look a) (State.forme_enqueue_field hc e Forme.scratch (k := k)),
    fun k a => congrArg (·.look a) (State.forme_enqueue_field hc e Forme.acc (k := k))⟩

theorem State.moved_enqueue : s.Moved ((s.enqueue c e).retire c) c c.nextPc [] :=
  State.moved_retire hc rfl rfl ((State.slug_enqueue hc e _ _).trans (State.ctx_slug hc))

end Enqueue

theorem State.SlugsAs.trans {s t u : State} {fk sl : Nat} (h : s.SlugsAs t fk sl) (k : t.SlugsAs u fk sl) : s.SlugsAs u fk sl :=
  fun i j hij => (k i j hij).trans (h i j hij)

/-- An entry stays queued while the issuing slug alone changes. -/
theorem State.Queued.outside {s t u : State} {c : Ctx} {e : MqEntry} (h : s.Queued t c e) (k : t.OutsideAs u c.iss.fk c.iss.sl) :
    s.Queued u c e where
  queue := (k.forme Forme.mq (k := _)).trans h.queue
  number := (k.forme Forme.issued (k := _)).trans h.number
  arrival := (congrArg (fun v : State => (v.core c.core).arrivals) k.device).trans h.arrival
  others i hi := (k.forme Forme.mq (k := i)).trans (h.others i hi)
  tiles i := ⟨(k.forme Forme.tiles (k := i)).trans (h.tiles i).1, (k.forme Forme.rowprog (k := i)).trans (h.tiles i).2⟩
  slugs := h.slugs.trans k.slugs
  bytes := h.bytes.trans k.bytes

/-- States that differ in the parts on their way to formes at most. -/
structure State.TransitOnly (s t : State) : Prop where
  device : { t with formes := s.formes } = s
  formes : ∀ k, { t.forme k with transit := (s.forme k).transit } = s.forme k

theorem State.TransitOnly.forme {s t : State} (h : s.TransitOnly t) {α : Type} (g : Forme → α)
    (hg : ∀ (f : Forme) (x : List MqEntry), g { f with transit := x } = g f := by intros; rfl) (k : Nat) : g (t.forme k) = g (s.forme k) :=
  (hg _ _).symm.trans (congrArg g (h.formes k))

theorem State.TransitOnly.slug {s t : State} (h : s.TransitOnly t) (k j : Nat) : t.slug k j = s.slug k j :=
  congrArg (·.look j) (h.forme Forme.slugs (k := k))

theorem State.TransitOnly.cur {s t : State} (h : s.TransitOnly t) : t.cur = s.cur := (congrArg State.cur h.device :)

theorem State.TransitOnly.cyc {s t : State} (h : s.TransitOnly t) : t.cyc = s.cyc := (congrArg State.cyc h.device :)

theorem State.Queued.transit {s t u : State} {c : Ctx} {e : MqEntry} (h : s.Queued t c e) (k : t.TransitOnly u) : s.Queued u c e where
  queue := (k.forme Forme.mq (k := _)).trans h.queue
  number := (k.forme Forme.issued (k := _)).trans h.number
  arrival := (congrArg (fun v : State => (v.core c.core).arrivals) k.device).trans h.arrival
  others i hi := (k.forme Forme.mq (k := i)).trans (h.others i hi)
  tiles i := ⟨(k.forme Forme.tiles (k := i)).trans (h.tiles i).1, (k.forme Forme.rowprog (k := i)).trans (h.tiles i).2⟩
  slugs := h.slugs.trans (fun i j _ => k.slug i j)
  bytes := h.bytes.trans ⟨fun a => (congrArg (fun v : State => v.dram.look a) k.device :), fun i a => congrArg (·.look a) (k.forme Forme.scratch (k := i)),
    fun i a => congrArg (·.look a) (k.forme Forme.acc (k := i))⟩

/-! ## The parts of a pitch form (spec/06 R198 to R200) -/

/-- The parts of forme indices below `n` on their way, each to its forme. -/
def State.sendParts (s : State) (c : Ctx) (e : MqEntry) (n : Nat) : State :=
  (List.range n).foldl (fun s i =>
    if i = 0 || !partHasWork (shapeOf e.x) c.f.pw i then s
    else s.modForme (c.iss.fk + i) (fun f => { f with transit := f.transit ++ [{ e with part := some i, id := c.f.issued + 1, lanes := [] }] })) s

section SendParts

variable (s : State) (c : Ctx) (e : MqEntry)

theorem State.sendParts_succ (n : Nat) : s.sendParts c e (n + 1) =
    if n = 0 || !partHasWork (shapeOf e.x) c.f.pw n then s.sendParts c e n
    else (s.sendParts c e n).modForme (c.iss.fk + n) (fun f =>
      { f with transit := f.transit ++ [{ e with part := some n, id := c.f.issued + 1, lanes := [] }] }) := by
  rw [State.sendParts, List.range_succ, List.foldl_append]
  rfl

theorem State.transitOnly_sendParts (n : Nat) : s.TransitOnly (s.sendParts c e n) := by
  induction n with
  | zero => exact ⟨rfl, fun k => rfl⟩
  | succ n ih =>
    rw [State.sendParts_succ]
    split
    · exact ih
    · refine ⟨(show _ = { s.sendParts c e n with formes := s.formes } from rfl).trans ih.device, fun k => ?_⟩
      by_cases hk : k = c.iss.fk + n
      · rw [hk, State.forme_modForme]
        exact ih.formes (c.iss.fk + n)
      · rw [State.forme_modForme_ne _ _ hk]
        exact ih.formes k

/-- The part a forme of the pitch is sent. -/
def Ctx.partFor (c : Ctx) (e : MqEntry) (i : Nat) : List MqEntry :=
  if partHasWork (shapeOf e.x) c.f.pw i then [{ e with part := some i, id := c.f.issued + 1, lanes := [] }] else []

theorem State.transit_sendParts (n : Nat) {i : Nat} (hi : 0 < i) : ((s.sendParts c e n).forme (c.iss.fk + i)).transit
    = (s.forme (c.iss.fk + i)).transit ++ (if i < n then c.partFor e i else []) := by
  induction n with
  | zero => simp [State.sendParts]
  | succ n ih =>
    rw [State.sendParts_succ]
    by_cases hin : i = n
    · subst hin
      rw [if_neg (by omega), List.append_nil] at ih
      by_cases hw : partHasWork (shapeOf e.x) c.f.pw i = true
      · simp [hw, ih, Ctx.partFor, hi.ne']
      · simp [hw, ih, Ctx.partFor]
    · have hlt : i < n + 1 ↔ i < n := by omega
      simp only [hlt]
      split
      · exact ih
      · rw [State.forme_modForme_ne _ _ (by omega), ih]

end SendParts

theorem Ctx.partFor_eq (c : Ctx) (e : MqEntry) (i : Nat) : c.partFor e i =
    if 128 * (i / c.f.pw) < 8 * ((e.x.extractLsb' 20 6).toNat + 1) ∧ 192 * (i % c.f.pw) < 16 * (e.x.extractLsb' 14 6).toNat
    then [{ e with part := some i, id := c.f.issued + 1, lanes := [] }] else [] := by
  unfold Ctx.partFor partHasWork shapeOf
  simp only [decide_eq_true_eq]

/-! ## The claim -/

section Claims

variable {s : State} {w : Ops} {m : MxMod} {c : Ctx}

/-- Every engine form is issued by the rule of R179. -/
theorem exec_engineForm {i : Instr} (hi : i ∈ (engineForms c w m).map (·.1) ++ [.tamax w m, .mmap w m, .mmasp w m]) :
    ∃ go, exec i s = engineForm w s go := by
  simp only [engineForms, List.map_cons, List.map_nil, List.cons_append, List.nil_append, List.mem_cons, List.not_mem_nil, or_false] at hi
  rcases hi with rfl | rfl | rfl | rfl | rfl | rfl | rfl | rfl | rfl | rfl | rfl | rfl | rfl | rfl | rfl <;> exact ⟨_, rfl⟩

/-- The follow-ons that `TCFG` waits for (R177). -/
theorem Ctx.follow_iff : (!c.f.follow.isEmpty || (s.core c.core).copies.any (fun q => q.fk == c.iss.fk && q.follow.isSome)) = true
    ↔ ¬(c.f.follow = [] ∧ ∀ q ∈ (s.core c.core).copies, q.fk = c.iss.fk → q.follow = none) := by
  simp [Classical.or_iff_not_imp_left, Option.isSome_iff_ne_none]

/-- What an engine form does once it may enter the queue; `TCFG` waits for follow-ons. -/
theorem exec_engineForms {x : Instr × MqEntry} (hx : x ∈ engineForms c w m)
    (hf : x.1 = .tcfg w m → c.f.follow = [] ∧ ∀ q ∈ (s.core c.core).copies, q.fk = c.iss.fk → q.follow = none) :
    ∃ go, exec x.1 s = engineForm w s go ∧ go c = (s.enqueue c x.2).retire c := by
  simp only [engineForms, List.mem_cons, List.not_mem_nil, or_false] at hx
  rcases hx with rfl | rfl | rfl | rfl | rfl | rfl | rfl | rfl | rfl | rfl | rfl | rfl
  case inl => exact ⟨_, rfl, if_neg (fun h => Ctx.follow_iff.mp h (hf rfl))⟩
  all_goals exact ⟨_, rfl, rfl⟩

variable (hc : s.ctx w.h = some c) (ha : c.act ≠ 0) (ho : c.m.owner = true) (ht : c.m.tx = none) (hq : c.f.mq.length < 8)
include hc ha ho ht hq

theorem exec_tcfg_waits (hf : ¬(c.f.follow = [] ∧ ∀ q ∈ (s.core c.core).copies, q.fk = c.iss.fk → q.follow = none)) :
    exec (.tcfg w m) s = .next s.hold := by
  show engineForm w s _ = _
  rw [engineForm_free hc ha _ ho ht hq, if_pos (Ctx.follow_iff.mpr hf)]

/-- A form that enters the queue and completes. -/
theorem joins_of_engineForm {i : Instr} {go : Ctx → State} {e : MqEntry} (hi : exec i s = engineForm w s go)
    (hgo : go c = (s.enqueue c e).retire c) : ∃ t, exec i s = .next t ∧ s.Moved t c c.nextPc [] ∧ s.Queued t c e := by
  refine ⟨_, by rw [hi, engineForm_free hc ha _ ho ht hq, hgo], State.moved_enqueue hc e, (State.queued_enqueue hc e).outside ?_⟩
  exact State.outsideAs_retire (show s.cur = _ from State.ctx_cur hc)

/-- A pitch form, by the leader's owner. -/
theorem joins_of_pitchForm {i : Instr} {opc : Nat} (hi : exec i s = pitchForm opc w m s) (hp : c.f.pidx = 0) {e : MqEntry}
    (he : e = { c.mmaEntry w m (c.entry opc w m) with part := some 0 }) : ∃ t, exec i s = .next t ∧ s.Moved t c c.nextPc []
      ∧ s.Queued t c e ∧ ∀ j, 0 < j → j < c.f.pw * c.f.ph →
        (t.forme (c.iss.fk + j)).transit = (s.forme (c.iss.fk + j)).transit ++ c.partFor e j := by
  let u := (s.enqueue c e).sendParts c e (c.f.pw * c.f.ph)
  have hu : (s.enqueue c e).TransitOnly u := State.transitOnly_sendParts _ c e _
  have hcur : u.cur = some c.iss := hu.cur.trans (show s.cur = _ from State.ctx_cur hc)
  have hout : u.OutsideAs (u.retire c) c.iss.fk c.iss.sl := State.outsideAs_retire hcur
  have hslug : u.slug c.iss.fk c.iss.sl = c.m := by rw [hu.slug, State.slug_enqueue hc, State.ctx_slug hc]
  refine ⟨u.retire c, ?_, State.moved_retire hc hu.cur hu.cyc hslug, ((State.queued_enqueue hc e).transit hu).outside hout, fun j hj hjn => ?_⟩
  · rw [hi, pitchForm, engineForm_free hc ha _ ho ht hq, if_neg (by simp [hp]), ← he]
    rfl
  · rw [hout.forme Forme.transit, State.transit_sendParts _ c e _ hj, if_pos hjn, State.forme_enqueue_ne e (by omega)]

/-- The issuer of a `TAMAX` has its register on its way (R210). -/
def Slug.await (d : Nat) (m : Slug) : Slug := if d = 0 then m else { m with pendingG := m.pendingG ++ [BitVec.ofNat 8 (0x80 + d)] }

omit hc ha ho ht hq in
theorem Slug.pendingG_await (d : Nat) (m : Slug) :
    (m.await d).pendingG = if d = 0 then m.pendingG else m.pendingG ++ [BitVec.ofNat 8 (0x80 + d)] := by
  unfold Slug.await
  split <;> rfl

omit hc ha ho ht hq in
theorem Slug.regsBut_await (d : Nat) (m : Slug) : m.RegsBut (m.await d) [] := by
  unfold Slug.await
  split
  · exact m.regsBut_refl _
  · exact ⟨fun _ _ => rfl, fun _ _ => rfl, fun _ _ => rfl, fun _ _ => rfl, fun _ => rfl⟩

omit hc ha ho ht hq in
theorem Slug.slot_await (d : Nat) (m : Slug) (b : Bool) : (m.await d).slot b = m.slot b := by
  unfold Slug.await
  split <;> rfl

/-- `TAMAX` enters the queue and has its register on its way (R210). -/
theorem joins_of_tamax : let e := { c.entry 0x12F w m with tile := w.a.num, tile2 := w.d.num }
    ∃ t, exec (.tamax w m) s = .next t ∧ s.Queued t c e ∧ c.slugIn t = c.finish s.cyc c.nextPc (c.m.await w.d.num) := by
  intro e
  have hcur : (s.enqueue c e).cur = some c.iss := show s.cur = _ from State.ctx_cur hc
  let t := (s.enqueue c e).modSlug c.iss.fk c.iss.sl (fun u => c.finish s.cyc c.nextPc (u.await w.d.num))
  have hexec : exec (.tamax w m) s = .next (((s.enqueue c e).modCur (Slug.await w.d.num)).retireTo c.nextPc) :=
    engineForm_free hc ha _ ho ht hq
  have hslug : c.slugIn t = c.finish s.cyc c.nextPc (c.m.await w.d.num) := by
    rw [Ctx.slugIn, State.slug_modSlug, State.slug_enqueue hc, State.ctx_slug hc]
  exact ⟨t, by rw [hexec, State.modCur_retireTo hcur]; rfl, (State.queued_enqueue hc e).outside (State.outsideAs_modSlug _ _ _ _), hslug⟩

end Claims

end Sys2Proof.Machine

namespace Sys2Proof

open Sys2Proof.Machine

/-- Every engine form but `TAMAX` and the pitch forms enters its queue by one rule; `TAMAX` awaits its register besides, and a pitch form
sends its parts. -/
theorem engineFormsEnterTheQueue : Claim.EngineFormsEnterTheQueue := by
  intro w m s c hc ha free joins noFollow all
  refine ⟨fun x hx hfree hf => ?_, fun hfree hf => ?_, fun d a hd hw hfree => ?_, fun x hx hfree hp => ?_, fun i hi => ⟨?_, ?_, ?_, ?_⟩⟩
  · obtain ⟨ho, ht, hq⟩ := hfree
    obtain ⟨go, hi, hgo⟩ := exec_engineForms (s := s) hx (fun h => hf.resolve_left (not_not.mpr h))
    exact joins_of_engineForm hc ha ho ht hq hi hgo
  · obtain ⟨ho, ht, hq⟩ := hfree
    exact exec_tcfg_waits hc ha ho ht hq hf
  · obtain ⟨ho, ht, hq⟩ := hfree
    obtain ⟨t, hexec, hqueued, hslug⟩ := joins_of_tamax (m := m) hc ha ho ht hq
    refine ⟨t, _, hexec, hqueued, ?_, ?_, ?_, ?_⟩
    · rw [hd, hw]
      rfl
    · rw [hslug]
      exact (c.m.regsBut_await _).trans (Ctx.regsBut_finish _ _ _ _)
    · rw [hslug, Ctx.finish_slot (State.ctx_path hc) ((Slug.slot_await _ _ _).trans (State.ctx_slot hc))]
    · have hnum : w.d.num = d.toNat := by rw [hd]; rfl
      have hzero : d.toNat = 0 ↔ d = 0 := ⟨fun h => BitVec.eq_of_toNat_eq h, fun h => congrArg BitVec.toNat h⟩
      rw [hslug, show (c.finish s.cyc c.nextPc (c.m.await w.d.num)).pendingG = (c.m.await w.d.num).pendingG from Slug.modSlot_pendingG _ _ _,
        Slug.pendingG_await]
      simp only [hnum, hzero]
  · obtain ⟨ho, ht, hq⟩ := hfree
    simp only [List.mem_cons, List.not_mem_nil, or_false] at hx
    rcases hx with rfl | rfl
    · obtain ⟨t, hexec, hmoved, hqueued, hparts⟩ := joins_of_pitchForm (m := m) (i := .mmap w m) hc ha ho ht hq rfl hp rfl
      exact ⟨t, _, hexec, hmoved, hqueued, rfl, fun j hj hjn => (hparts j hj hjn).trans (by rw [Ctx.partFor_eq]; rfl)⟩
    · obtain ⟨t, hexec, hmoved, hqueued, hparts⟩ := joins_of_pitchForm (m := m) (i := .mmasp w m) hc ha ho ht hq rfl hp rfl
      exact ⟨t, _, hexec, hmoved, hqueued, rfl, fun j hj hjn => (hparts j hj hjn).trans (by rw [Ctx.partFor_eq]; rfl)⟩
  · obtain ⟨go, hgo⟩ := exec_engineForm (s := s) hi
    exact fun ho => hgo.trans (engineForm_notOwner hc ha go ho)
  · obtain ⟨go, hgo⟩ := exec_engineForm (s := s) hi
    exact fun ho ht => hgo.trans (engineForm_inTx hc ha go ho ht)
  · obtain ⟨go, hgo⟩ := exec_engineForm (s := s) hi
    exact fun ho ht hq => hgo.trans (engineForm_full hc ha go ho ht hq)
  · rintro ⟨ho, ht, hq⟩ hp (rfl | rfl)
    · exact (engineForm_free hc ha _ ho ht hq).trans (congrArg _ (if_pos hp))
    · exact (engineForm_free hc ha _ ho ht hq).trans (congrArg _ (if_pos hp))

end Sys2Proof

namespace Sys2Proof.Machine

/-! ## Where no transaction is open, no home holds an access back (spec/11 R346) -/

theorem Sparse.mem_put {α : Type} [Inhabited α] [DecidableEq α] {m : Sparse α} {i : Nat} {v : α} {e : Nat × α} (h : e ∈ m.put i v) :
    e ∈ m ∨ e = (i, v) := by
  have hinsert (l : Sparse α) (hl : e ∈ l.insert i v) : e ∈ l ∨ e = (i, v) := by
    induction l with
    | nil => exact .inr (List.mem_singleton.mp hl)
    | cons x r ih =>
      rw [Sparse.insert] at hl
      split at hl
      · exact (List.mem_cons.mp hl).symm
      · rcases List.mem_cons.mp hl with rfl | hl
        · exact .inl List.mem_cons_self
        · exact (ih hl).imp_left (List.mem_cons_of_mem _)
  unfold Sparse.put at h
  split at h
  · exact .inl (List.mem_of_mem_filter h)
  · exact (hinsert _ h).imp_left List.mem_of_mem_filter

theorem Sparse.mem_mapVals {α : Type} [Inhabited α] [DecidableEq α] {f : Nat → α → α} {m : Sparse α} {e : Nat × α} (h : e ∈ m.mapVals f) :
    ∃ v, (e.1, v) ∈ m ∧ e.2 = f e.1 v := by
  induction m with
  | nil => cases h
  | cons x r ih =>
    obtain ⟨k, v⟩ := x
    rw [Sparse.mapVals] at h
    split at h
    · obtain ⟨u, hu, he⟩ := ih (List.mem_of_mem_filter h)
      exact ⟨u, List.mem_cons_of_mem _ hu, he⟩
    · rcases List.mem_cons.mp h with rfl | h
      · exact ⟨v, List.mem_cons_self, rfl⟩
      · obtain ⟨u, hu, he⟩ := ih h
        exact ⟨u, List.mem_cons_of_mem _ hu, he⟩

/-- A slug that stands in the list of a forme that stands in the list has no transaction. -/
theorem State.txs_eq_nil {s : State} : s.txs = [] ↔ ∀ e ∈ s.formes, ∀ m ∈ e.2.slugs, m.2.tx = none := by
  simp [State.txs, List.flatMap_eq_nil_iff, List.filterMap_eq_nil_iff]

theorem State.heldLine_of_txs {s : State} (h : s.txs = []) (l : LineRef) : s.heldLine l = false := by
  simp [State.heldLine, State.oldestTx, h]

theorem State.abortTrackers_of_txs {s : State} (h : s.txs = []) (l : LineRef) : s.abortTrackers l = s := by
  simp [State.abortTrackers, State.trackers, h]

/-- A change of one slug to one without a transaction. -/
theorem State.txs_modSlug {s : State} (h : s.txs = []) {fk sl : Nat} {f : Slug → Slug} (hf : (f (s.slug fk sl)).tx = none) :
    (s.modSlug fk sl f).txs = [] := by
  have hold := State.txs_eq_nil.mp h
  refine State.txs_eq_nil.mpr fun e he m hm => ?_
  rcases Sparse.mem_put he with he | rfl
  · exact hold e he m hm
  rcases Sparse.mem_put hm with hm | rfl
  · by_cases hd : s.formes.look fk = default
    · rw [hd] at hm
      cases hm
    · exact hold _ (Sparse.mem_of_look_ne hd) m hm
  · exact hf

/-- A change of one forme that keeps its slugs. -/
theorem State.txs_modForme {s : State} (h : s.txs = []) {fk : Nat} {f : Forme → Forme} (hf : (f (s.forme fk)).slugs = (s.forme fk).slugs) :
    (s.modForme fk f).txs = [] := by
  have hold := State.txs_eq_nil.mp h
  refine State.txs_eq_nil.mpr fun e he m hm => ?_
  rcases Sparse.mem_put he with he | rfl
  · exact hold e he m hm
  change m ∈ (f (s.forme fk)).slugs at hm
  rw [hf] at hm
  by_cases hd : s.formes.look fk = default
  · rw [State.forme, hd] at hm
    cases hm
  · exact hold _ (Sparse.mem_of_look_ne hd) m hm

theorem State.txs_fireWhere {s : State} (h : s.txs = []) (c : Nat → Forme → Nat → Wake → Bool) : (s.fireWhere c).txs = [] := by
  have hold := State.txs_eq_nil.mp h
  refine State.txs_eq_nil.mpr fun e he m hm => ?_
  obtain ⟨v, hv, heq⟩ := Sparse.mem_mapVals he
  rw [heq] at hm
  obtain ⟨u, hu, hmeq⟩ := Sparse.mem_mapVals hm
  have hnone : u.tx = none := hold _ hv _ hu
  rw [hmeq, hnone]
  rfl

/-- What a step does where no transaction is open: none opens, and no access is held back. -/
def State.Unheld (s t : State) : Prop := s.txs = [] → t.txs = [] ∧ t.held = s.held

theorem State.Unheld.refl (s : State) : s.Unheld s := fun h => ⟨h, rfl⟩

theorem State.Unheld.trans {s t u : State} (h : s.Unheld t) (k : t.Unheld u) : s.Unheld u := fun q =>
  ⟨(k (h q).1).1, (k (h q).1).2.trans (h q).2⟩

theorem State.unheld_of {s t : State} (hf : t.formes = s.formes) (hh : t.held = s.held) : s.Unheld t := fun q =>
  ⟨by rw [State.txs, hf]; exact q, hh⟩

theorem State.Unheld.foldl {α : Type} {g : State → α → State} (hg : ∀ (s : State) (a : α), s.Unheld (g s a)) (l : List α) (s : State) :
    s.Unheld (l.foldl g s) := by
  induction l generalizing s with
  | nil => exact .refl s
  | cons a r ih => exact (hg s a).trans (ih (g s a))

theorem State.unheld_abortTrackers (s : State) (l : LineRef) : s.Unheld (s.abortTrackers l) := fun q => by
  rw [State.abortTrackers_of_txs q]
  exact ⟨q, rfl⟩

theorem State.unheld_fireLine (s : State) (l : LineRef) : s.Unheld (s.fireLine l) := fun q => ⟨State.txs_fireWhere q _, rfl⟩

theorem State.unheld_l2Fill (s : State) (line : Nat) : s.Unheld (s.l2Fill line) := by
  unfold State.l2Fill
  dsimp only
  repeat' split
  all_goals exact State.unheld_of rfl rfl

theorem State.unheld_hot (s : State) (x : HotInfo) (pa ty : Nat) : s.Unheld (s.hot x pa ty) := by
  unfold State.hot
  dsimp only
  repeat' split
  all_goals exact State.unheld_of rfl rfl

theorem State.unheld_physWrite (s : State) (pa : Nat) (bs : List Byte) : s.Unheld (s.physWrite pa bs) := by
  induction bs generalizing s pa with
  | nil => exact .refl s
  | cons b r ih =>
    have hput : s.Unheld (s.physPut pa b) := by
      unfold State.physPut
      dsimp only
      split
      all_goals exact State.unheld_of rfl rfl
    exact hput.trans (ih _ (pa + 1))

theorem State.unheld_homeSet (s : State) (pa : Nat) (bs : List Byte) : s.Unheld (s.homeSet pa bs) :=
  ((((s.unheld_l2Fill _).trans (State.unheld_abortTrackers _ _)).trans (State.unheld_physWrite _ _ _)).trans
    (State.unheld_of (by rfl) (by rfl))).trans (State.unheld_fireLine _ _)

theorem State.unheld_homeRed (s : State) (pa op : Nat) (t : Ty) (v : Nat) (w : HeldBy) (x : HotInfo) (ty : Nat) :
    s.Unheld (s.homeRed pa op t v w x ty) := by
  intro q
  unfold State.homeRed
  dsimp only
  rw [State.heldLine_of_txs q, if_neg Bool.false_ne_true]
  exact (s.unheld_homeSet _ _).trans (State.unheld_hot _ _ _ _) q

theorem State.unheld_sendPartial (s : State) (core line : Nat) : s.Unheld (s.sendPartial core line) := by
  intro q
  unfold State.sendPartial
  dsimp only
  rw [State.heldLine_of_txs q, if_neg Bool.false_ne_true]
  have hcells : s.Unheld (((s.core core).partials.look line).cells.foldl (fun (u : State) (e : Nat × Option Word) => match e.2 with
      | some v => u.homeRed e.1 ((s.core core).partials.look line).op ((s.core core).partials.look line).ty v.toNat
      | none => u) (s.modCore core (fun c => { c with partials := c.partials.put line {} }))) := by
    refine (State.unheld_of (t := s.modCore core (fun c => { c with partials := c.partials.put line {} })) rfl rfl).trans
      (State.Unheld.foldl (fun u e => ?_) _ _)
    cases e.2 with
    | none => exact .refl u
    | some v => exact u.unheld_homeRed _ _ _ _ _ _ _
  split
  · exact hcells q
  · exact hcells.trans (State.unheld_hot _ _ _ _) q

theorem State.unheld_recall (s : State) (line : Nat) : s.Unheld (s.recall line) := by
  refine State.Unheld.foldl (fun u e => ?_) _ s
  split
  · exact .refl u
  · exact u.unheld_sendPartial _ _

theorem State.unheld_homePut (s : State) (pa : Nat) (bs : List Byte) (w : HeldBy) (x : HotInfo) (ty : Nat) :
    s.Unheld (s.homePut pa bs w x ty) := by
  intro q
  unfold State.homePut
  dsimp only
  rw [State.heldLine_of_txs q, if_neg Bool.false_ne_true]
  exact ((s.unheld_recall _).trans (State.unheld_homeSet _ _ _)).trans (State.unheld_hot _ _ _ _) q

theorem State.unheld_homeWrite (s : State) (pa : Nat) (bs : List Byte) (w : HeldBy) (x : HotInfo) (ty : Nat) :
    s.Unheld (s.homeWrite pa bs w x ty) := .foldl (fun u _ => u.unheld_homePut _ _ _ _ _) _ s

theorem State.keeps_homeWrite (s : State) (pa : Nat) (bs : List Byte) (w : HeldBy) (x : HotInfo) (ty : Nat) :
    s.Keeps (s.homeWrite pa bs w x ty) := .foldl (fun u _ => u.keeps_homePut _ _ _ _ _) _ s

/-! ## The galley (spec/18 R451) -/

/-- A translation that no core asks for fills no buffer. -/
theorem State.translate_none (s : State) (part va n : Nat) (need : Need) : (s.translate none part va n need).1 = s := by
  have hleaf : (s.leafFor none va).1 = s := by
    unfold State.leafFor
    dsimp only
    repeat' split
    all_goals rfl
  unfold State.translate
  split
  · rename_i t f heq
    rw [heq] at hleaf
    exact hleaf
  · rename_i t l heq
    rw [heq] at hleaf
    dsimp only
    repeat' split
    all_goals exact hleaf

/-- A posted record is two writes to memory, and a change of its launch. -/
theorem State.post_eq (s : State) (n : Nat) (ws : List Word) : ∃ (u : State) (f : Launch → Launch), s.post n ws = u.modLaunch n f
    ∧ s.Keeps u ∧ s.Unheld u := by
  have h := s.translate_none (s.launch n).part ((s.launch n).galley + 64 * ((s.launch n).seq % 2 ^ (s.launch n).glog)) 64 .write
  unfold State.post
  dsimp only
  split
  · rename_i t pa leaf heq
    rw [heq] at h
    obtain rfl : t = s := h
    split
    · exact ⟨_, _, rfl, (t.keeps_homeWrite _ _ _ _ _).trans (State.keeps_homeWrite _ _ _ _ _ _),
        (t.unheld_homeWrite _ _ _ _ _).trans (State.unheld_homeWrite _ _ _ _ _ _)⟩
    · exact ⟨_, _, rfl, .refl t, .refl t⟩
  · rename_i t f heq
    rw [heq] at h
    obtain rfl : t = s := h
    exact ⟨_, _, rfl, .refl t, .refl t⟩

end Sys2Proof.Machine

namespace Sys2Proof.Machine

/-! ## Parts and follow-ons that enter a queue (spec/06 R199, R200, R212) -/

section Joins

variable (s : State) (fk : Nat) (g : Forme → Forme) (n : Nat)

/-- An entry that joins the queue of a forme, `g` being what becomes of the forme. -/
def State.joined : State := (s.modForme fk g).modCore (s.forme fk).core (fun c => { c with arrivals := n + 1 })

theorem State.forme_joined (k : Nat) : (s.joined fk g n).forme k = (s.modForme fk g).forme k := rfl

theorem State.arrivals_joined : ((s.joined fk g n).core (s.forme fk).core).arrivals = n + 1 := by rw [State.joined, State.core_modCore]

variable {g}

theorem State.slug_joined (hg : (g (s.forme fk)).slugs = (s.forme fk).slugs) (k j : Nat) : (s.joined fk g n).slug k j = s.slug k j :=
  State.slug_modForme_of_slugs hg k j

theorem State.bytesAs_joined (hs : (g (s.forme fk)).scratch = (s.forme fk).scratch) (ha : (g (s.forme fk)).acc = (s.forme fk).acc) :
    s.BytesAs (s.joined fk g n) :=
  ⟨fun _ => rfl, (s.bytesAs_modForme hs ha).scratch, (s.bytesAs_modForme hs ha).acc⟩

end Joins

/-- A table filled from a range of indices. -/
theorem Sparse.look_foldl_put {α : Type} [Inhabited α] [DecidableEq α] (f : Nat → α) (n : Nat) (m : Sparse α) (k : Nat) :
    ((List.range n).foldl (fun t i => t.put i (f i)) m).look k = if k < n then f k else m.look k := by
  induction n with
  | zero => rfl
  | succ n ih =>
    rw [List.range_succ, List.foldl_append, List.foldl_cons, List.foldl_nil, Sparse.look_put, ih]
    rcases lt_trichotomy k n with h | rfl | h
    · rw [if_neg h.ne, if_pos h, if_pos (by omega)]
    · rw [if_pos rfl, if_pos (by omega)]
    · rw [if_neg h.ne', if_neg (by omega), if_neg (by omega)]

/-! ## Deferred traps (spec/06 R202, spec/18 R454) -/

theorem State.drainAll_of_nil {s : State} (h : s.held = []) : s.drainAll = s := by
  unfold State.drainAll
  rw [h, List.foldl_nil, ← h]

/-- A stopped entry stands at the head of its forme's queue. -/
theorem State.mq_of_stoppedOf {s : State} {fk sl k : Nat} {e : MqEntry} (hwf : s.formes.wf = true) (h : s.stoppedOf fk sl = some (k, e)) :
    (s.forme k).mq.head? = some e := by
  obtain ⟨x, hx, hpick⟩ := List.exists_of_findSome?_eq_some h
  split at hpick
  · rename_i y hy
    split at hpick
    · cases hpick
      rw [State.forme, Sparse.look_of_mem hwf hx, hy]
    · cases hpick
  · cases hpick

/-- A slug whose handler has been entered. -/
theorem Slug.slot_enter (m : Slug) (b : Bool) (entry : Addr) (fw : Bool) (ready : Nat) (mask : Mask) (h : Handling) :
    (m.enter b entry fw ready mask h).slot b = { path := some { pk := false, pc := entry, mask := mask }, readyAt := ready } := by
  cases b <;> rfl

theorem Slug.hnd_enter (m : Slug) (b : Bool) (entry : Addr) (fw : Bool) (ready : Nat) (mask : Mask) (h : Handling) :
    (m.enter b entry fw ready mask h).hnd = some { h with slotB := b, stashG := m.g, stashP := m.p, firmware := fw } := rfl

theorem Slug.regsBut_enter (m : Slug) (b : Bool) (entry : Addr) (fw : Bool) (ready : Nat) (mask : Mask) (h : Handling) :
    m.RegsBut (m.enter b entry fw ready mask h) [] := by
  cases b <;> exact ⟨fun _ _ => rfl, fun _ _ => rfl, fun _ _ => rfl, fun _ _ => rfl, fun _ => rfl⟩

/-- What the handler of a trap that reaches an awake slug outside transactions starts with. -/
def State.lateHandling (s : State) (fk sl : Nat) (b : Bool) (mask : Mask) (r : RecInfo) (flt : Flt) (resume : Resume) (mq : Nat) : Handling :=
  { saved := { ((s.slug fk sl).slot b) with pend := [] }, record := s.record { r with txa := false } flt, unfinished := mask,
    inTx := none, mq := mq, resume := resume }

/-- The slug that a late trap leaves, in slot `b`. -/
def State.lateSlug (s : State) (fk sl : Nat) (b : Bool) (mask : Mask) (h : Handling) : Slug :=
  let en := (s.part (s.launch (s.forme fk).launch).part).handlerEntry
  (s.slug fk sl).enter b en.1 en.2 (max (s.cyc + 1) ((s.slug fk sl).slot b).readyAt) mask h

/-- The slot a late trap takes: the path's own, or the other one when that is free. -/
def Slug.lateSlot (m : Slug) (slotB : Bool) : Bool := if (m.slot slotB).path.isSome then slotB else !slotB

/-- A trap that reaches an awake slug outside transactions. -/
theorem State.lateTrap_eq {s : State} {fk sl : Nat} (htx : (s.slug fk sl).tx = none) (hwake : (s.slug fk sl).wake = none) (slotB : Bool)
    (mask : Mask) (r : RecInfo) (flt : Flt) (resume : Resume) (mq : Nat) :
    let b := (s.slug fk sl).lateSlot slotB
    s.lateTrap fk sl slotB mask r flt resume mq =
      ((s.modSlug fk sl (fun _ => s.lateSlug fk sl b mask (s.lateHandling fk sl b mask r flt resume mq))).post (s.forme fk).launch
        (s.record { r with txa := false } flt)).drainAll := by
  have hself : ({ s.slug fk sl with wake := none, tx := none } : Slug) = s.slug fk sl := by
    have h : ({ s.slug fk sl with wake := (s.slug fk sl).wake, tx := (s.slug fk sl).tx } : Slug) = s.slug fk sl := rfl
    rwa [hwake, htx] at h
  unfold State.lateTrap
  simp only [htx, hwake, Option.bind_none, Option.isSome_none, Bool.false_eq_true, if_false, Option.map_none]
  rw [show ({ s.slug fk sl with wake := none, tx := none } : Slug) = s.slug fk sl from hself]
  rfl

/-- The head of a forme's queue has been told. -/
def State.markTold (s : State) (k : Nat) : State :=
  s.modForme k (fun f => { f with mq := match f.mq with
    | x :: r => { x with delivered := true } :: r
    | [] => [] })

theorem State.slug_markTold (s : State) (k i j : Nat) : (s.markTold k).slug i j = s.slug i j := State.slug_modForme_of_slugs rfl i j

theorem State.delivered_markTold {s : State} {k : Nat} {e : MqEntry} (h : (s.forme k).mq.head? = some e) :
    ((s.markTold k).forme k).mq.head?.map (·.delivered) = some true := by
  obtain ⟨r, hr⟩ := List.head?_eq_some_iff.mp h
  rw [State.markTold, State.forme_modForme, hr]
  rfl

section DeferredTrap

variable {s : State} {k : Nat} {e : MqEntry} (hstop : s.stoppedOf s.ev.forme s.ev.slug = some (k, e))
include hstop

theorem execDeferredEngineTrap_of_handling {h : Handling} (hh : (s.slug e.issuer e.slug).hnd = some h) (hne : h.mq ≠ e.id) :
    execDeferredEngineTrap s = .next s := by
  simp only [execDeferredEngineTrap, hstop, hh, if_neg hne]

theorem execDeferredEngineTrap_of_free (hh : (s.slug e.issuer e.slug).hnd = none) (hg : (s.slug e.issuer e.slug).gathering = none)
    (hl : (s.slug e.issuer e.slug).live = true) (hf : (s.slug e.issuer e.slug).failed = false) :
    execDeferredEngineTrap s = .next ((s.deferredTrap k e).markTold k) := by
  simp only [execDeferredEngineTrap, hstop, hh, hg, hl, hf]
  rfl

end DeferredTrap

/-- The handling that a stopped entry's trap starts with. -/
def State.stopHandling (s : State) (k : Nat) (e : MqEntry) : Handling :=
  s.lateHandling e.issuer e.slug ((s.slug e.issuer e.slug).lateSlot e.slotB) (1#32 <<< e.plane) (s.stopRec k e) (s.stopFlt k e)
    (if (s.stopFlt k e).code = 0x10 then .deferred else .fail) e.id

/-- A deferred trap enters the issuer's handler, and writes a record to memory besides. -/
theorem State.deferredTrap_changes {s : State} (hq : s.Undisturbed) (hheld : s.held = []) (k : Nat) (e : MqEntry) :
    (∀ i j, (s.deferredTrap k e).slug i j = if i = e.issuer ∧ j = e.slug then
        s.lateSlug e.issuer e.slug ((s.slug e.issuer e.slug).lateSlot e.slotB) (1#32 <<< e.plane) (s.stopHandling k e) else s.slug i j)
      ∧ ∀ i, ((s.deferredTrap k e).forme i).mq = (s.forme i).mq := by
  obtain ⟨htx, hwake⟩ := hq.quiet e.issuer e.slug
  set y := s.lateSlug e.issuer e.slug ((s.slug e.issuer e.slug).lateSlot e.slotB) (1#32 <<< e.plane) (s.stopHandling k e) with hy
  have hytx : y.tx = none := htx ▸ Slug.putSlot_tx _ _ _
  have hywake : y.wake = none := hwake ▸ Slug.putSlot_wake _ _ _
  let v := s.modSlug e.issuer e.slug (fun _ => y)
  have hslug (i j : Nat) : v.slug i j = if i = e.issuer ∧ j = e.slug then y else s.slug i j := by
    split
    · rename_i h
      rw [h.1, h.2]
      exact State.slug_modSlug _ _ _ _
    · exact State.slugsAs_modSlug s e.issuer e.slug _ i j (by assumption)
  have hquiet : v.Quiet := fun i j => by
    rw [hslug]
    split
    · exact ⟨hytx, hywake⟩
    · exact hq.quiet i j
  obtain ⟨u, g, hpost, hkeeps, hunheld⟩ := v.post_eq (s.forme e.issuer).launch (s.record { s.stopRec k e with txa := false } (s.stopFlt k e))
  have hmem := hkeeps hquiet
  have hnil : (v.post (s.forme e.issuer).launch (s.record { s.stopRec k e with txa := false } (s.stopFlt k e))).held = [] := by
    rw [hpost]
    exact ((hunheld (State.txs_modSlug hq.1 hytx)).2).trans hheld
  have heq : s.deferredTrap k e = u.modLaunch (s.forme e.issuer).launch g := by
    rw [State.deferredTrap, State.lateTrap_eq htx hwake, ← hpost, ← State.drainAll_of_nil hnil]
    rfl
  rw [heq]
  refine ⟨fun i j => (hmem.slugs i j).trans (hslug i j), fun i => ?_⟩
  have hmq : (u.forme i).mq = (v.forme i).mq := (congrArg Forme.mq (hmem.formes i) :)
  exact hmq.trans ((State.outsideAs_modSlug s e.issuer e.slug _).forme Forme.mq (k := i))

end Sys2Proof.Machine

namespace Sys2Proof

open Sys2Proof.Machine

/-- Parts and follow-ons join by one rule; a deferred trap is a late trap of the issuer, whose record goes to memory alone. -/
theorem engineQueueEvents : Claim.EngineQueueEvents := by
  intro s fk f n joins
  refine ⟨fun e r j u ht hq hu => ?_, fun e r hf hq => ?_, fun hq => ⟨?_, ?_⟩, fun k e hstop hwf hund _ hheld => ?_⟩
  · let lanes : Sparse VReg := if e.opc = 0x129 ∧ e.issuer ≠ fk then
      (List.range 8).foldl (fun t k => t.put k (u.readV (8 * (e.mod.extractLsb' 12 4).toNat + k))) [] else e.lanes
    let t := s.joined fk (fun f => { f with transit := r, mq := f.mq ++ [{ e with arrival := n, lanes := lanes }] }) n
    have hexec : exec .pitchPartStart s = .next t := by
      show execPitchPartStart s = _
      unfold execPitchPartStart
      dsimp only
      rw [show (s.forme s.ev.forme).transit = e :: r from ht]
      dsimp only
      rw [if_neg (Nat.not_le.mpr hq), show ((s.forme s.ev.forme).slugs.find? (fun m => m.2.owner)) = some (j, u) from hu]
      rfl
    have hforme : (t.forme fk).mq = f.mq ++ [{ e with arrival := n, lanes := lanes }] ∧ (t.forme fk).transit = r := by
      rw [State.forme_joined, State.forme_modForme]
      exact ⟨rfl, rfl⟩
    refine ⟨t, lanes, hexec, ⟨hforme.1, State.arrivals_joined _ _ _ _, State.slug_joined s fk n rfl, State.bytesAs_joined s fk n rfl rfl⟩,
      hforme.2, fun h => if_neg h, fun h1 h2 k hk => ?_⟩
    rw [show lanes = _ from if_pos ⟨h1, h2⟩, Sparse.look_foldl_put, if_pos hk]
  · let t := s.joined fk (fun f => { f with follow := r, mq := f.mq ++ [{ e with arrival := n }] }) n
    have hexec : exec .cpymFollowOnEnqueue s = .next t := by
      show execCpymFollowOnEnqueue s = _
      unfold execCpymFollowOnEnqueue
      dsimp only
      rw [show (s.forme s.ev.forme).follow = e :: r from hf]
      exact if_neg (Nat.not_le.mpr hq)
    have hforme : (t.forme fk).mq = f.mq ++ [{ e with arrival := n }] ∧ (t.forme fk).follow = r := by
      rw [State.forme_joined, State.forme_modForme]
      exact ⟨rfl, rfl⟩
    exact ⟨t, hexec, ⟨hforme.1, State.arrivals_joined _ _ _ _, State.slug_joined s fk n rfl, State.bytesAs_joined s fk n rfl rfl⟩, hforme.2⟩
  · show execPitchPartStart s = _
    unfold execPitchPartStart
    dsimp only
    split
    · rfl
    · exact if_pos hq
  · show execCpymFollowOnEnqueue s = _
    unfold execCpymFollowOnEnqueue
    dsimp only
    split
    · rfl
    · exact if_pos hq
  intro m b hissuer hslug
  refine ⟨?_, ?_⟩
  · intro hh _ hg hl hf
    have hm : s.slug e.issuer e.slug = m := by rw [hissuer, hslug]
    obtain ⟨hslugs, hmq⟩ := State.deferredTrap_changes hund hheld k e
    let t := (s.deferredTrap k e).markTold k
    let h := s.stopHandling k e
    have hb : (s.slug e.issuer e.slug).lateSlot e.slotB = b := by rw [hm]; rfl
    have hnew : t.slug fk s.ev.slug = s.lateSlug fk s.ev.slug b (1#32 <<< e.plane) h := by
      rw [State.slug_markTold, hslugs, if_pos ⟨hissuer.symm, hslug.symm⟩, hb, hissuer, hslug]
    have hexec : exec .deferredEngineTrap s = .next t :=
      execDeferredEngineTrap_of_free hstop (hm ▸ hh) (hm ▸ hg) (hm ▸ hl) (hm ▸ hf)
    have hrecord : h.record = s.record { s.recInfo fk s.ev.slug e.slotB e.pc (1#32 <<< e.plane) with
        eng := 2, core := some (s.forme k).core, deff := true } (s.stopFlt k e) := by
      rw [← hissuer, ← hslug]
      rfl
    have hsaved : h.saved.path = (m.slot b).path := by
      rw [← hb, ← hm]
      rfl
    refine ⟨t, { h with slotB := b, stashG := m.g, stashP := m.p, firmware := _ }, hexec, ?_, fun i j hij => ?_, by rw [hnew]; exact Slug.hnd_enter _ _ _ _ _ _ _,
      rfl, rfl, rfl, fun i => rfl, fun i => rfl, hsaved, ?_, hrecord, ?_⟩
    · rw [hnew]
      exact Slug.regsBut_enter _ _ _ _ _ _ _
    · rw [State.slug_markTold, hslugs, if_neg (fun hi => hij ⟨hi.1.trans hissuer, hi.2.trans hslug⟩)]
    · rw [hnew, State.lateSlug, Slug.slot_enter]
      exact ⟨_, rfl, rfl⟩
    · exact State.delivered_markTold ((congrArg List.head? (hmq k)).trans (State.mq_of_stoppedOf hwf hstop))
  · intro h hh hne
    have hm : s.slug e.issuer e.slug = m := by rw [hissuer, hslug]
    exact execDeferredEngineTrap_of_handling hstop (hm ▸ hh) hne

/-- Settles O38: an engine form is one entry at the end of its forme's queue; what acts on queues later takes or tells one entry. -/
theorem engineQueues : Obligations.EngineQueues := ⟨engineFormsEnterTheQueue, engineQueueEvents⟩

end Sys2Proof

namespace Sys2Proof.Machine

/-! ## The engine takes a queue head and runs it (spec/06 R180, R201, R202) -/

/-- What becomes of the queue and the count of blocks of an entry that has run to `k`, and stopped at `r`. -/
def State.finishRun (u : State) (fk : Nat) (e : MqEntry) (k : Option Nat) (r : Option MStop) : State :=
  u.modForme fk (fun f => { f with
    rowprog := match k with
      | some n => BitVec.ofNat 16 n
      | none => f.rowprog
    mq := match r with
      | none => f.mq.drop 1
      | some x => { e with done := k.getD 0, stop := some (x.code, x.reason, x.va, x.op), delivered := false, told := true } :: f.mq.drop 1 })

/-- Only a follow-on has a drain tag. -/
theorem State.drainOver_of_tag (u : State) (core : Nat) {e : MqEntry} (h : e.tag = none) (r : Option MStop) : u.drainOver core e r = u := by
  unfold State.drainOver
  split
  · rfl
  · rename_i t ht
    rw [h] at ht
    cases ht

section Run

variable {s u : State} {fk : Nat} {e : MqEntry} {rest : List MqEntry} (hd : s.Head fk e rest)
include hd

/-- A run that leaves no access held back. -/
theorem exec_matrixQueueExecute {k : Option Nat} {r : Option MStop} (hrun : s.runEntry (s.engine fk) e = (u, k, r))
    (hheld : u.held = s.held) : exec .matrixQueueExecute s = .next (u.finishRun fk e k r) := by
  obtain ⟨-, htag, -⟩ := hd.fresh
  show execMatrixQueueExecute s = _
  unfold execMatrixQueueExecute
  simp only [hd.next]
  rw [State.engine] at hrun
  simp only [hrun, State.drainOver_of_tag _ _ htag, State.orAgain]
  cases k with
  | none => exact congrArg _ (if_neg (by simp [hheld]))
  | some n =>
    rw [State.modForme_modForme]
    exact congrArg _ (if_neg (by simp [hheld]))

/-- A run that has come to its end. -/
theorem State.ran_finishRun {k : Option Nat} (hmq : (u.forme fk).mq = (s.forme fk).mq) (hrow : (u.forme fk).rowprog = (s.forme fk).rowprog)
    (hslugs : ∀ i j, u.slug i j = s.slug i j) (hdram : ∀ a, u.dram.look a = s.dram.look a)
    (hothers : ∀ i, i ≠ fk → (u.forme i).acc = (s.forme i).acc ∧ (u.forme i).tiles = (s.forme i).tiles) :
    s.Ran (u.finishRun fk e k none) fk rest k where
  queue := by
    rw [State.finishRun, State.forme_modForme, hmq, hd.queue]
    rfl
  rowprog := by
    cases k with
    | none => exact (congrArg Forme.rowprog (State.forme_modForme u fk _)).trans hrow
    | some n => exact congrArg Forme.rowprog (State.forme_modForme u fk _)
  slugs i j := (State.slug_modForme_of_slugs rfl i j).trans (hslugs i j)
  dram := hdram
  others i hi := by
    rw [State.finishRun, State.forme_modForme_ne _ _ hi]
    exact hothers i hi

/-- An entry that has stopped before its first block. -/
theorem State.stoppedAt_finishRun {k : Option Nat} (hk : k.getD 0 = 0) (code : BitVec 8) (op : Nat) :
    s.StoppedAt (s.finishRun fk e k (some { code := code, op := op })) fk e rest code op := by
  obtain ⟨hdone, -, -⟩ := hd.fresh
  refine ⟨?_, s.bytesAs_modForme rfl rfl, fun i j => State.slug_modForme_of_slugs rfl i j, fun i => ?_⟩
  · rw [State.finishRun, State.forme_modForme, hd.queue, hk, ← hdone]
    rfl
  · by_cases hi : i = fk
    · rw [hi, State.finishRun, State.forme_modForme]
    · rw [State.finishRun, State.forme_modForme_ne _ _ hi]

theorem exec_matrixQueueExecute_stops {k : Option Nat} (hk : k.getD 0 = 0) {code : BitVec 8} {op : Nat}
    (hrun : s.runEntry (s.engine fk) e = (s, k, some { code := code, op := op })) :
    ∃ t, exec .matrixQueueExecute s = .next t ∧ s.StoppedAt t fk e rest code op :=
  ⟨_, exec_matrixQueueExecute hd hrun rfl, State.stoppedAt_finishRun hd hk code op⟩

end Run

/-- What an entry's end leaves alone of a forme. -/
theorem State.forme_finishRun (u : State) (fk : Nat) (e : MqEntry) (k : Option Nat) (r : Option MStop) {α : Type} (g : Forme → α)
    (hg : ∀ (f : Forme) (n : BitVec 16) (q : List MqEntry), g { f with rowprog := n, mq := q } = g f := by intros; rfl) (i : Nat) :
    g ((u.finishRun fk e k r).forme i) = g (u.forme i) := by
  by_cases hi : i = fk
  · rw [hi, State.finishRun, State.forme_modForme, hg]
  · rw [State.finishRun, State.forme_modForme_ne _ _ hi]

/-! ## Runs that change the accumulator memory of their forme -/

theorem State.AccOnly.refl (s : State) (fk : Nat) : s.AccOnly s fk := ⟨rfl, fun _ => rfl, fun _ _ => rfl⟩

section AccOnly

variable {s u : State} {fk : Nat} (h : s.AccOnly u fk)
include h

theorem State.AccOnly.forme {α : Type} (g : Forme → α) (hg : ∀ (f : Forme) (x : Sparse Byte), g { f with acc := x } = g f := by intros; rfl)
    (k : Nat) : g (u.forme k) = g (s.forme k) :=
  (hg _ _).symm.trans (congrArg g (h.formes k))

theorem State.AccOnly.slug (k j : Nat) : u.slug k j = s.slug k j := congrArg (·.look j) (h.forme Forme.slugs (k := k))

theorem State.AccOnly.held : u.held = s.held := (congrArg State.held h.device :)

theorem State.AccOnly.dram : u.dram = s.dram := (congrArg State.dram h.device :)

/-- One more change of that memory. -/
theorem State.AccOnly.modForme {g : Forme → Forme} (hg : { g (u.forme fk) with acc := (u.forme fk).acc } = u.forme fk) :
    s.AccOnly (u.modForme fk g) fk where
  device := h.device
  formes k := by
    by_cases hk : k = fk
    · rw [hk, State.forme_modForme]
      exact (congrArg (fun f : Forme => { f with acc := (s.forme fk).acc }) hg).trans (h.formes fk)
    · rw [State.forme_modForme_ne _ _ hk]
      exact h.formes k
  others k hk := (State.forme_modForme_ne _ _ hk).trans (h.others k hk)

/-- A run to its end. -/
theorem State.AccOnly.ran {e : MqEntry} {rest : List MqEntry} (hd : s.Head fk e rest) (k : Option Nat) :
    s.Ran (u.finishRun fk e k none) fk rest k :=
  State.ran_finishRun hd (h.forme Forme.mq (k := fk)) (h.forme Forme.rowprog (k := fk)) h.slug (fun a => by rw [h.dram])
    (fun i hi => by rw [h.others i hi]; exact ⟨rfl, rfl⟩)

theorem State.AccOnly.tiles_finishRun (e : MqEntry) (k : Option Nat) (i : Nat) :
    ((u.finishRun fk e k none).forme i).tiles = (s.forme i).tiles :=
  (State.forme_finishRun u fk e k none Forme.tiles (i := i)).trans (h.forme Forme.tiles (k := i))

end AccOnly

/-! ## Elements of a tile put by row blocks (spec/06 R201) -/

section TilePut

variable {f f' : Forme} {l : Layout} {m n : Nat} {x y : Nat → Nat → Nat}

/-- The element writes of a row block. -/
def blockWrites (b n : Nat) (x : Nat → Nat → Nat) : List (Nat × Nat × Nat) :=
  (List.range 8).flatMap (fun i => (List.range n).map (fun c => (8 * b + i, c, x (8 * b + i) c)))

theorem mem_blockWrites {b n : Nat} {x : Nat → Nat → Nat} {w : Nat × Nat × Nat} :
    w ∈ blockWrites b n x ↔ 8 * b ≤ w.1 ∧ w.1 < 8 * b + 8 ∧ w.2.1 < n ∧ w.2.2 = x w.1 w.2.1 := by
  obtain ⟨r, c, y⟩ := w
  simp only [blockWrites, List.mem_flatMap, List.mem_map, List.mem_range, Prod.mk.injEq]
  constructor
  · rintro ⟨i, hi, k, hk, rfl, rfl, rfl⟩
    exact ⟨by omega, by omega, hk, rfl⟩
  · rintro ⟨hlo, hhi, hk, rfl⟩
    exact ⟨r - 8 * b, by omega, c, hk, by omega, rfl, by rw [show 8 * b + (r - 8 * b) = r by omega]⟩

theorem Forme.putBlock_eq (f : Forme) (l : Layout) (b n : Nat) (x : Nat → Nat → Nat) :
    f.putBlock l b n x = f.putElems l (blockWrites b n x) := by
  simp only [Forme.putBlock, Forme.putElems, blockWrites, List.foldl_flatMap, List.foldl_map]

theorem Forme.tilePut_zero (f : Forme) (l : Layout) (n : Nat) (x : Nat → Nat → Nat) : f.TilePut f l 0 n x :=
  ⟨fun _ _ h _ => absurd h (Nat.not_lt_zero _), fun _ _ => rfl⟩

/-- One more row block. -/
theorem Forme.TilePut.putBlock {b : Nat} (h : f.TilePut f' l (8 * b) n x) (hn : n ≤ l.cols)
    (hy : ∀ r k, 8 * b ≤ r → r < 8 * b + 8 → k < n → y r k = x r k) : f.TilePut (f'.putBlock l b n y) l (8 * b + 8) n x := by
  obtain ⟨hin, hout⟩ := h
  have hcols : ∀ w ∈ blockWrites b n y, w.2.1 < l.cols := fun w hw => (mem_blockWrites.mp hw).2.2.1.trans_le hn
  rw [Forme.putBlock_eq]
  refine ⟨fun r k hr hk => ?_, fun a ha => ?_⟩
  · by_cases hrb : r < 8 * b
    · rw [Forme.elem_putElems_of_not_mem _ _ hcols (hk.trans_le hn), hin r k hrb hk]
      intro w hw he
      obtain ⟨hlo, -⟩ := mem_blockWrites.mp hw
      exact absurd (congrArg Prod.fst he) (by simp only; omega)
    · have hw : (r, k, y r k) ∈ blockWrites b n y := mem_blockWrites.mpr ⟨by simp only; omega, hr, hk, rfl⟩
      rw [← hy r k (by omega) hr hk]
      refine Forme.elem_putElems f' l hcols (fun v hv w hw he => ?_) hw
      obtain ⟨-, -, -, hv⟩ := mem_blockWrites.mp hv
      obtain ⟨-, -, -, hw⟩ := mem_blockWrites.mp hw
      rw [hv, hw, (Prod.mk.inj he).1, (Prod.mk.inj he).2]
  · rw [Forme.look_putElems]
    · exact hout a (fun r k hr hk => ha r k (by omega) hk)
    · intro w hw
      obtain ⟨-, hhi, hk, -⟩ := mem_blockWrites.mp hw
      exact ha _ _ hhi hk

theorem Forme.putBlock_acc (f : Forme) (l : Layout) (b n : Nat) (x : Nat → Nat → Nat) : { f.putBlock l b n x with acc := f.acc } = f := by
  rw [Forme.putBlock_eq]
  exact f.putElems_acc l _

/-- Rows below are written later: an element beyond the rows put has its old bits. -/
theorem Forme.TilePut.elem_of_le (h : f.TilePut f' l m n x) (hn : n ≤ l.cols) {r k : Nat} (hr : m ≤ r) (hk : k < l.cols) :
    f'.elem l r k = f.elem l r k :=
  Forme.elem_congr fun a hlo hhi => h.2 a fun i j hi hj => by
    rcases l.at_disjoint (hj.trans_le hn) hk (r := i) (r' := r) (fun he => absurd (congrArg Prod.fst he) (by simp only; omega)) with hd | hd <;>
      omega

theorem Forme.TilePut.tileVal_of_le (h : f.TilePut f' l m n x) (hn : n ≤ l.cols) {r k : Nat} (hr : m ≤ r) (hk : k < l.cols) :
    f'.tileVal l r k = f.tileVal l r k := by
  rw [Forme.tileVal, h.elem_of_le hn hr hk, Forme.tileVal]

end TilePut

/-- Blocks each of which puts the elements of its rows, computed from the tile as the blocks before have left it: `x` is what the elements
are computed to when no block has run. -/
theorem blocksFrom_tilePut {s : State} {fk : Nat} {l : Layout} {n m : Nat} {F : State → Nat → MRes Unit} {x : Nat → Nat → Nat}
    (hn : n ≤ l.cols) (hF : ∀ u b, s.AccOnly u fk → (s.forme fk).TilePut (u.forme fk) l (8 * b) n x → b < m →
      ∃ y : Forme → Nat → Nat → Nat, F u b = (u.modForme fk (fun f => f.putBlock l b n (y f)), .ok ())
        ∧ ∀ r k, 8 * b ≤ r → r < 8 * b + 8 → k < n → y (u.forme fk) r k = x r k) :
    ∃ u, blocksFrom F m 0 s = (u, m, none) ∧ s.AccOnly u fk ∧ (s.forme fk).TilePut (u.forme fk) l (8 * m) n x := by
  have hstep (c : Nat) : ∀ b u, b + c = m → s.AccOnly u fk → (s.forme fk).TilePut (u.forme fk) l (8 * b) n x →
      ∃ v, blocksFrom F c b u = (v, m, none) ∧ s.AccOnly v fk ∧ (s.forme fk).TilePut (v.forme fk) l (8 * m) n x := by
    induction c with
    | zero =>
      rintro b u rfl hu hput
      exact ⟨u, rfl, hu, hput⟩
    | succ c ih =>
      intro b u hb hu hput
      obtain ⟨y, hFy, hy⟩ := hF u b hu hput (by omega)
      have hv : s.AccOnly (u.modForme fk (fun f => f.putBlock l b n (y f))) fk := hu.modForme (Forme.putBlock_acc _ _ _ _ _)
      have hput' : (s.forme fk).TilePut ((u.modForme fk (fun f => f.putBlock l b n (y f))).forme fk) l (8 * (b + 1)) n x := by
        rw [State.forme_modForme]
        exact hput.putBlock hn hy
      obtain ⟨v, hrun, hrest⟩ := ih (b + 1) _ (by omega) hv hput'
      exact ⟨v, by rw [blocksFrom, hFy]; exact hrun, hrest⟩
  exact hstep m 0 s (Nat.zero_add m) (.refl s fk) (Forme.tilePut_zero _ _ _ _)

end Sys2Proof.Machine

namespace Sys2Proof.Machine

/-! ## Exact values put into a format (spec/06 R194) -/

theorem conv_of_float {ty : CTy} (h : ty.isFloat = true) (v : FVal) (rm : RM) (sat flt : Bool) :
    conv ty v rm sat flt = FVal.round ty.ffmt rm sat v := if_pos h

theorem conv_fin_of_int {ty : CTy} (h : ty.isFloat = false) (s : Bool) (m : Nat) (e : Int) (rm : RM) (sat flt : Bool) :
    (conv ty (.fin s m e) rm sat flt : Int)
      = (if flt = true ∨ sat = true then max ty.least (min ty.greatest (roundInt rm s m e)) else roundInt rm s m e) % 2 ^ ty.width := by
  have hpos : (0 : Int) < 2 ^ ty.width := by positivity
  simp only [conv, h, Bool.false_eq_true, if_false, Bool.or_eq_true]
  exact Int.toNat_of_nonneg (Int.emod_nonneg _ hpos.ne')

/-- The conversion of the engine is that of R194. -/
theorem drained_conv (ty : CTy) (rm : RM) (sat flt : Bool) {v : FVal} {x : ℚ} (hx : v.rat = some x) :
    Drained ty rm sat flt x (conv ty v rm sat flt) := by
  obtain ⟨s, m, e, rfl⟩ := FVal.exists_fin_of_rat hx
  refine ⟨fun hf hle => ?_, fun hf k hk => ?_⟩
  · rw [conv_of_float hf]
    exact FFmt.rounds_round ty.proper rm sat hx hle
  · rw [conv_fin_of_int hf, (roundsToInt_roundInt rm hx).unique hk]

/-! ## The end of a run that puts elements of a tile -/

theorem Forme.TilePut.congr {f f' f'' : Forme} {l : Layout} {m n : Nat} {x : Nat → Nat → Nat} (h : f.TilePut f' l m n x) (ha : f''.acc = f'.acc) :
    f.TilePut f'' l m n x :=
  ⟨fun r k hr hk => (Forme.elem_congr fun a _ _ => by rw [ha]).trans (h.1 r k hr hk), fun a hout => by rw [ha, h.2 a hout]⟩

/-- An element lies in the bytes of its tile. -/
theorem Layout.at_bounds {l : Layout} {r k a : Nat} (hr : r < l.rows) (hk : k < l.cols) (hlo : l.at r k ≤ a) (hhi : a < l.at r k + l.esize) :
    l.at 0 0 ≤ a ∧ a < l.at 0 0 + l.rows * l.cols * l.esize := by
  unfold Layout.at at *
  have hplace : r * l.cols + k + 1 ≤ l.rows * l.cols := by
    have := Nat.mul_le_mul_right l.cols (Nat.succ_le_of_lt hr)
    rw [Nat.succ_mul] at this
    omega
  have := Nat.mul_le_mul_right l.esize hplace
  rw [Nat.add_mul _ 1, Nat.one_mul] at this
  omega

/-- A byte of a tile belongs to an element. -/
theorem Layout.exists_at {l : Layout} {a : Nat} (hlo : l.at 0 0 ≤ a) (hhi : a < l.at 0 0 + l.rows * l.cols * l.esize) :
    ∃ r k, r < l.rows ∧ k < l.cols ∧ l.at r k ≤ a ∧ a < l.at r k + l.esize := by
  have hpos := l.esize_pos
  simp only [Layout.at, Nat.zero_mul, Nat.add_zero] at hlo hhi
  have hq : (a - l.kib * 1024) / l.esize < l.rows * l.cols := (Nat.div_lt_iff_lt_mul hpos).mpr (by omega)
  have hcols : 0 < l.cols := Nat.pos_of_ne_zero (fun h => by rw [h, Nat.mul_zero] at hq; exact Nat.not_lt_zero _ hq)
  refine ⟨(a - l.kib * 1024) / l.esize / l.cols, (a - l.kib * 1024) / l.esize % l.cols, (Nat.div_lt_iff_lt_mul hcols).mpr hq,
    Nat.mod_lt _ hcols, ?_⟩
  rw [Layout.at, Nat.div_add_mod']
  have hdiv := Nat.div_add_mod' (a - l.kib * 1024) l.esize
  have hmod := Nat.mod_lt (a - l.kib * 1024) hpos
  omega

/-- The elements of another tile, or of the tile itself in rows that have not run, are as they were. -/
theorem Forme.TilePut.elem_apart {f f' : Forme} {l z : Layout} {b n : Nat} {x : Nat → Nat → Nat} (h : f.TilePut f' l b n x) (hb : b ≤ l.rows)
    (hn : n ≤ l.cols)
    (hz : l = z ∨ ∀ a, ¬((l.at 0 0 ≤ a ∧ a < l.at 0 0 + l.rows * l.cols * l.esize) ∧ (z.at 0 0 ≤ a ∧ a < z.at 0 0 + z.rows * z.cols * z.esize)))
    {r k : Nat} (hbr : b ≤ r) (hr : r < z.rows) (hk : k < z.cols) : f'.elem z r k = f.elem z r k := by
  rcases hz with rfl | hz
  · exact h.elem_of_le hn hbr hk
  · exact Forme.elem_congr fun a hlo hhi => h.2 a fun i j hi hj hij =>
      hz a ⟨Layout.at_bounds (hi.trans_le hb) (hj.trans_le hn) hij.1 hij.2, Layout.at_bounds hr hk hlo hhi⟩

theorem Forme.TilePut.tileVal_apart {f f' : Forme} {l z : Layout} {b n : Nat} {x : Nat → Nat → Nat} (h : f.TilePut f' l b n x) (hb : b ≤ l.rows)
    (hn : n ≤ l.cols)
    (hz : l = z ∨ ∀ a, ¬((l.at 0 0 ≤ a ∧ a < l.at 0 0 + l.rows * l.cols * l.esize) ∧ (z.at 0 0 ≤ a ∧ a < z.at 0 0 + z.rows * z.cols * z.esize)))
    {r k : Nat} (hbr : b ≤ r) (hr : r < z.rows) (hk : k < z.cols) : f'.tileVal z r k = f.tileVal z r k := by
  rw [Forme.tileVal, h.elem_apart hb hn hz hbr hr hk, Forme.tileVal]

section Runs

variable {s u : State} {fk : Nat} {e : MqEntry} {rest : List MqEntry} (hd : s.Head fk e rest)
include hd

/-- A run that has put elements of a tile. -/
theorem exec_of_tilePut {k : Option Nat} {l : Layout} {m n : Nat} {x : Nat → Nat → Nat} (hrun : s.runEntry (s.engine fk) e = (u, k, none))
    (hacc : s.AccOnly u fk) (hput : (s.forme fk).TilePut (u.forme fk) l m n x) :
    ∃ t, (exec .matrixQueueExecute s = .next t ∧ s.Ran t fk rest k) ∧ (∀ i, (t.forme i).tiles = (s.forme i).tiles)
      ∧ (s.forme fk).TilePut (t.forme fk) l m n x :=
  ⟨_, ⟨exec_matrixQueueExecute hd hrun hacc.held, hacc.ran hd k⟩, hacc.tiles_finishRun e k,
    hput.congr (State.forme_finishRun u fk e k none Forme.acc (i := fk))⟩

/-- A run of a form that computes a tile from tiles, by row blocks. -/
theorem exec_of_runTiles {src : Layout} {rows cols : Nat} {x : Forme → Nat → Nat → Nat} {l : Layout} (hl : l = (s.forme fk).layout e.tile)
    (hrun : s.runEntry (s.engine fk) e = s.runTiles (s.engine fk) e src rows cols x) (hlv : l.valid = true) (hsrc : src.valid = true)
    (h8 : rows % 8 = 0) (hrows : rows ≤ l.rows) (hcols : cols ≤ l.cols)
    (hx : ∀ f' b r k, (s.forme fk).TilePut f' l b cols (x (s.forme fk)) → b ≤ l.rows → b ≤ r → r < rows → k < cols →
      x f' r k = x (s.forme fk) r k) :
    ∃ t, (exec .matrixQueueExecute s = .next t ∧ s.Ran t fk rest (some (rows / 8))) ∧ (∀ i, (t.forme i).tiles = (s.forme i).tiles)
      ∧ (s.forme fk).TilePut (t.forme fk) l rows cols (x (s.forme fk)) := by
  obtain ⟨hdone, -, -⟩ := hd.fresh
  obtain ⟨u, hblocks, hacc, hput⟩ := blocksFrom_tilePut (s := s) (fk := fk) (m := rows / 8) (x := x (s.forme fk)) hcols
    (F := fun s b => (s.modForme fk (fun f => f.putBlock l b cols (fun r c => x f r c)), .ok ()))
    (fun u b _ hput hb => ⟨x, rfl, fun r k hlo hhi hk => hx _ _ r k hput (by omega) hlo (by omega) hk⟩)
  rw [show 8 * (rows / 8) = rows by omega] at hput
  refine exec_of_tilePut hd ?_ hacc hput
  rw [hrun, State.runTiles, hdone]
  simp only [show (s.engine fk).fk = fk from rfl, ← hl, hlv, hsrc, Bool.not_true, Bool.or_self, mStopIf, Bool.false_eq_true, if_false, inBlocks,
    Nat.sub_zero, hblocks]

/-- A form that computes a tile from tiles stops where one has no layout. -/
theorem exec_of_runTiles_invalid {src : Layout} {rows cols : Nat} {x : Forme → Nat → Nat → Nat}
    (hrun : s.runEntry (s.engine fk) e = s.runTiles (s.engine fk) e src rows cols x)
    (hv : ((s.forme fk).layout e.tile).valid = false ∨ src.valid = false) :
    ∃ t, exec .matrixQueueExecute s = .next t ∧ s.StoppedAt t fk e rest 0x09 4 := by
  obtain ⟨hdone, -, -⟩ := hd.fresh
  refine exec_matrixQueueExecute_stops hd (k := some e.done) (by simpa using hdone) ?_
  have hbad : (!((s.forme fk).layout e.tile).valid || !src.valid) = true := by simpa using hv
  rw [hrun, State.runTiles]
  simp only [show (s.engine fk).fk = fk from rfl, hbad, mStopIf, if_true, inBlocks]

end Runs

/-! ## The instructions of a queue entry -/

section RunEntry

variable (s : State) (fk : Nat) {e : MqEntry}

theorem State.runEntry_tcfg (h : e.opc = 0x120) :
    s.runEntry (s.engine fk) e = (s.modForme fk (fun f => { f with tiles := f.tiles.put e.tile e.x }), none, none) := by
  simp only [State.runEntry, h]
  rfl

theorem State.runEntry_tzero (h : e.opc = 0x121) : s.runEntry (s.engine fk) e =
    let l := (s.forme fk).layout e.tile
    if l.valid then
      (s.modForme fk (fun f => { f with
        acc := f.acc.putBytes (l.at 0 0) (List.replicate (l.rows * l.cols * l.esize) 0) }), none, none)
    else (s, none, some { code := 0x09 }) := by
  simp only [State.runEntry, h]
  rfl

theorem State.runEntry_tamax (h : e.opc = 0x12F) : s.runEntry (s.engine fk) e =
    let x := BitVec.ofNat 64 ((s.forme fk).tileMax ((s.forme fk).layout e.tile))
    if !((s.forme fk).layout e.tile).valid then (s, none, some { code := 0x09 })
    else if s.pinHolds e.issuer e.slug e.tile2 x then (s, none, some { code := 0x0A })
    else (s.modSlug e.issuer e.slug (fun m => m.deliverG e.tile2 x), none, none) := by
  simp only [State.runEntry, h]
  rfl

theorem State.runEntry_tscal (h : e.opc = 0x12E) : s.runEntry (s.engine fk) e =
    let l := (s.forme fk).layout e.tile
    s.runTiles (s.engine fk) e l l.rows l.cols (fun f r c =>
      conv l.ty (FVal.mul (f.tileVal l r c) (FVal.decode .f32 (e.a.toNat % 2 ^ 32))) e.rm e.sat true) := by
  simp only [State.runEntry, State.runArith, h]
  rfl

theorem State.runEntry_tmov (h : e.opc = 0x12C) : s.runEntry (s.engine fk) e =
    let l := (s.forme fk).layout e.tile
    let t := (s.forme fk).layout e.tile2
    s.runTiles (s.engine fk) e t (min l.rows t.rows) (min l.cols t.cols) (fun f r c =>
      if l.af = t.af then f.elem t r c else conv l.ty (f.tileVal t r c) e.rm e.sat t.flt) := by
  simp only [State.runEntry, State.runArith, h]
  rfl

theorem State.runEntry_tadd (h : e.opc = 0x12D) : s.runEntry (s.engine fk) e =
    let l := (s.forme fk).layout e.tile
    let t := (s.forme fk).layout e.tile2
    s.runTiles (s.engine fk) e t (min l.rows t.rows) (min l.cols t.cols) (fun f r c =>
      conv l.ty (FVal.add (e.rm == .rdn) (f.tileVal l r c) (f.tileVal t r c)) e.rm e.sat (l.flt || t.flt)) := by
  simp only [State.runEntry, State.runArith, h]
  rfl

end RunEntry

theorem natOf_zeros {bs : List Byte} (h : ∀ b ∈ bs, b = 0) : natOf bs = 0 := by
  induction bs with
  | nil => rfl
  | cons b r ih =>
    rw [natOf_cons, ih (fun x hx => h x (List.mem_cons_of_mem _ hx)), h b List.mem_cons_self]
    rfl

/-- The zeros of `TZERO`. -/
theorem Forme.tilePut_clear (f : Forme) (l : Layout) :
    f.TilePut { f with acc := f.acc.putBytes (l.at 0 0) (List.replicate (l.rows * l.cols * l.esize) 0) } l l.rows l.cols (fun _ _ => 0) := by
  refine ⟨fun r k hr hk => ?_, fun a ha => ?_⟩
  · refine (natOf_zeros fun b hb => ?_).trans (Nat.zero_mod _).symm
    obtain ⟨j, hj, rfl⟩ := List.mem_iff_getElem.mp hb
    have hj' : j < l.esize := by rwa [Sparse.length_bytes] at hj
    have hin := Layout.at_bounds hr hk (Nat.le_add_right (l.at r k) j) (Nat.add_lt_add_left hj' _)
    rw [← List.getD_eq_getElem _ 0, Sparse.getD_bytes _ _ _ _ hj', Sparse.look_putBytes, List.length_replicate, if_pos hin,
      List.getD_eq_getElem?_getD, List.getElem?_replicate]
    split <;> rfl
  · rw [Sparse.look_putBytes, List.length_replicate, if_neg]
    rintro ⟨hlo, hhi⟩
    obtain ⟨r, k, hr, hk, hat⟩ := Layout.exists_at hlo hhi
    exact ha r k hr hk hat

end Sys2Proof.Machine

namespace Sys2Proof

open Sys2Proof.Machine

/-- Settles O41: each form is one run of row blocks; an element is computed from elements that the blocks before it have left alone. -/
theorem engineTileArithmetic : Obligations.EngineTileArithmetic := by
  intro s fk e rest hd _ f l z bytesIn apart runs keeps
  refine ⟨fun ho => ?_, fun ho hv => ?_, fun ho hv h8 => ?_, fun hv hz hap h8 hz8 => ⟨fun ho => ?_, fun ho => ?_⟩, fun ho hv => ?_, fun ho hv => ?_⟩
  · let u := s.modForme fk (fun f => { f with tiles := f.tiles.put e.tile e.x })
    have hran : s.Ran (u.finishRun fk e none none) fk rest none := by
      refine State.ran_finishRun hd ?_ ?_ (fun i j => State.slug_modForme_of_slugs rfl i j) (fun _ => rfl) (fun i hi => ?_)
      · rw [State.forme_modForme]
      · rw [State.forme_modForme]
      · rw [State.forme_modForme_ne _ _ hi]
        exact ⟨rfl, rfl⟩
    refine ⟨_, ⟨exec_matrixQueueExecute hd (s.runEntry_tcfg _ ho) rfl, hran⟩, fun k => ?_,
      (s.bytesAs_modForme rfl rfl).trans (u.bytesAs_modForme rfl rfl)⟩
    rw [State.forme_finishRun u fk e none none Forme.tiles, State.forme_modForme, Sparse.look_put]
  · let u := s.modForme fk (fun f => { f with acc := f.acc.putBytes (l.at 0 0) (List.replicate (l.rows * l.cols * l.esize) 0) })
    have hput : f.TilePut (u.forme fk) l l.rows l.cols (fun _ _ => 0) := by
      rw [State.forme_modForme]
      exact f.tilePut_clear l
    exact exec_of_tilePut hd ((s.runEntry_tzero _ ho).trans (if_pos hv)) ((State.AccOnly.refl s fk).modForme rfl) hput
  · obtain ⟨t, hrun, hkeeps, hput⟩ := exec_of_runTiles hd rfl (s.runEntry_tscal _ ho) hv hv h8 le_rfl le_rfl
      (fun f' b r k hput hb hbr hr hk => by rw [hput.tileVal_of_le le_rfl hbr hk])
    exact ⟨t, _, hrun, hkeeps, hput, fun r k x y _ _ hx hy => drained_conv _ _ _ _ (FVal.rat_mul hx hy)⟩
  · have hap' : l = z ∨ ∀ a, ¬(bytesIn l a ∧ bytesIn z a) := hap.imp_left (congrArg f.layout)
    obtain ⟨t, hrun, hkeeps, hput⟩ := exec_of_runTiles hd rfl (s.runEntry_tmov _ ho) hv hz (rows := min l.rows z.rows) (by omega)
      (Nat.min_le_left _ _) (cols := min l.cols z.cols) (Nat.min_le_left _ _) (fun f' b r k hput hb hbr hr hk => by
        have hr' := hr.trans_le (Nat.min_le_right _ _)
        have hk' := hk.trans_le (Nat.min_le_right _ _)
        rw [hput.elem_apart hb (Nat.min_le_left _ _) hap' hbr hr' hk', hput.tileVal_apart hb (Nat.min_le_left _ _) hap' hbr hr' hk'])
    exact ⟨t, _, hrun, hkeeps, hput, fun r k _ _ => ⟨fun h => if_pos h, fun h x hx => by
      rw [if_neg (show ¬((s.forme fk).layout e.tile).af = ((s.forme fk).layout e.tile2).af from h)]
      exact drained_conv _ _ _ _ hx⟩⟩
  · have hap' : l = z ∨ ∀ a, ¬(bytesIn l a ∧ bytesIn z a) := hap.imp_left (congrArg f.layout)
    obtain ⟨t, hrun, hkeeps, hput⟩ := exec_of_runTiles hd rfl (s.runEntry_tadd _ ho) hv hz (rows := min l.rows z.rows) (by omega)
      (Nat.min_le_left _ _) (cols := min l.cols z.cols) (Nat.min_le_left _ _) (fun f' b r k hput hb hbr hr hk => by
        have hr' := hr.trans_le (Nat.min_le_right _ _)
        have hk' := hk.trans_le (Nat.min_le_right _ _)
        rw [hput.tileVal_apart hb (Nat.min_le_left _ _) hap' hbr hr' hk',
          hput.tileVal_of_le (Nat.min_le_left _ _) hbr (hk.trans_le (Nat.min_le_left _ _))])
    exact ⟨t, _, hrun, hkeeps, hput, fun r k x y _ _ hx hy => drained_conv _ _ _ _ (FVal.rat_add hx hy _)⟩
  · rcases ho with ho | ho | ho
    · refine exec_matrixQueueExecute_stops hd (k := none) rfl ((s.runEntry_tzero _ ho).trans (if_neg ?_))
      exact Bool.eq_false_iff.mp hv
    · exact exec_of_runTiles_invalid hd (s.runEntry_tscal _ ho) (.inl hv)
    · refine exec_matrixQueueExecute_stops hd (k := none) rfl ((s.runEntry_tamax _ ho).trans (if_pos ?_))
      rw [show ((s.forme fk).layout e.tile).valid = false from hv]
      rfl
  · rcases ho with ho | ho
    · exact exec_of_runTiles_invalid hd (s.runEntry_tmov _ ho) hv
    · exact exec_of_runTiles_invalid hd (s.runEntry_tadd _ ho) hv

end Sys2Proof

namespace Sys2Proof.Machine

/-! ## Steps one after the other -/

theorem mRes_then_ok {α β : Type} (s : State) (a : α) (f : State → α → MRes β) : MRes.then (s, .ok a) f = f s a := rfl

theorem mRes_then_error {α β : Type} (s : State) (e : MStop) (f : State → α → MRes β) : MRes.then (s, .error e) f = (s, .error e) := rfl

theorem mStopIf_true {b : Bool} (h : b = true) (e : MStop) (s : State) : mStopIf b e s = (s, .error e) := if_pos h

theorem mStopIf_false {b : Bool} (h : b = false) (e : MStop) (s : State) : mStopIf b e s = (s, .ok ()) := if_neg (by simp [h])

/-- Steps that all succeed and leave the state alone. -/
theorem mEach_ok {α β : Type} {f : State → α → MRes β} {s : State} {g : α → β} {l : List α} (h : ∀ a ∈ l, f s a = (s, .ok (g a))) :
    mEach f s l = (s, .ok (l.map g)) := by
  induction l with
  | nil => rfl
  | cons a r ih =>
    rw [mEach, h a List.mem_cons_self, mRes_then_ok, ih (fun x hx => h x (List.mem_cons_of_mem _ hx)), mRes_then_ok, List.map_cons]

theorem mEach_error {α β : Type} {f : State → α → MRes β} {s : State} {a : α} {e : MStop} (h : f s a = (s, .error e)) (r : List α) :
    mEach f s (a :: r) = (s, .error e) := by
  rw [mEach, h, mRes_then_error]

/-- A step that succeeds has come from a step before it that did. -/
theorem mRes_of_then_ok {α β : Type} {x : MRes α} {f : State → α → MRes β} {t : State} {b : β} (h : x.then f = (t, .ok b)) :
    ∃ s a, x = (s, .ok a) ∧ f s a = (t, .ok b) := by
  obtain ⟨s, r⟩ := x
  cases r with
  | error e => cases h
  | ok a => exact ⟨s, a, rfl, h⟩

/-- A row read has as many elements as were asked for. -/
theorem State.length_of_engReadRow {s t : State} {g : Eng} {o : Operand} {b : Bool} {fmt : Nat} {geo : BitVec 3} {a n : Nat} {row : Row}
    (h : s.engReadRow g o b fmt geo a n = (t, .ok row)) : row.vals.length = n := by
  unfold State.engReadRow at h
  obtain ⟨_, _, -, h⟩ := mRes_of_then_ok h
  obtain ⟨_, _, -, h⟩ := mRes_of_then_ok h
  obtain ⟨_, _, -, h⟩ := mRes_of_then_ok h
  cases h
  rw [List.length_map, List.length_range]

/-! ## The table of pairs and the K rule (spec/06 R190, R191) -/

theorem Layout.af_lt (l : Layout) : l.af < 4 := (l.extractLsb' 1 2).isLt

theorem low_bits_eq (x y : BitVec 3) : x.extractLsb' 0 2 = y.extractLsb' 0 2 ↔ x.toNat % 4 = y.toNat % 4 := by
  rw [← BitVec.toNat_inj]
  simp [BitVec.extractLsb'_toNat]

theorem pairListed_iff (fa : Nat) (ga : BitVec 3) (fb : Nat) (gb : BitVec 3) {af : Nat} (h : af < 4) :
    PairListed fa ga fb gb af ↔ pairOk fa ga.toNat fb gb.toNat af = true := by
  have hlow (x : Nat) : x ∈ [4, 5, 6, 7, 8] ↔ 4 ≤ x ∧ x ≤ 8 := by simp; omega
  have hlow' (x : Nat) : x ∈ [4, 5, 6, 7, 8] ++ [9, 10] ↔ 4 ≤ x ∧ x ≤ 10 := by simp; omega
  have hscaled (x : Nat) : x ∈ [17, 18, 19, 20] ↔ 17 ≤ x ∧ x ≤ 20 := by simp; omega
  have hscaled' (x : Nat) : x ∈ [17, 18, 19, 20] ++ [21, 22] ↔ 17 ≤ x ∧ x ≤ 22 := by simp; omega
  have hflt : af ∈ [0, 2, 3] ↔ af ≠ 1 := by simp; omega
  unfold PairListed pairOk
  simp only [low_bits_eq, hlow, hlow', hscaled, hscaled', hflt]
  by_cases hfa : fa ≤ 23
  · interval_cases fa <;> simp <;> omega
  · have h0 : ¬(fa = 0 ∨ fa = 1) := by omega
    have h2 : ¬(fa = 2 ∨ fa = 3) := by omega
    have h11 : ¬(fa = 11 ∨ fa = 16) := by omega
    have h23 : ¬fa = 23 := by omega
    have hboth (lo hi : Nat) (hhi : hi ≤ 23) : decide (lo ≤ fa ∧ fa ≤ hi ∧ lo ≤ fb ∧ fb ≤ hi) = false := by
      rw [decide_eq_false_iff_not]
      omega
    simp only [if_neg h0, if_neg h2, if_neg h11, if_neg h23, hboth _ _ (show 10 ≤ 23 by decide), hboth _ _ (show 15 ≤ 23 by decide),
      hboth _ _ (show 22 ≤ 23 by decide), Bool.false_and, Bool.false_eq_true, if_false, iff_false]
    omega

theorem kRule_iff (fmt : Nat) (geo : BitVec 3) (k : Nat) (sparse : Bool) :
    (isScaled fmt = true → sparse = false ∧ k = blockLen fmt geo) ↔ kOk fmt geo k sparse = true := by
  unfold kOk
  by_cases h : isScaled fmt = true <;> simp [h]

/-! ## Exact sums of products (spec/06 R192, R193) -/

theorem rat_foldl_add (rdn : Bool) (ps : List FVal) (xs : List ℚ) (h : List.Forall₂ (fun p x => p.rat = some x) ps xs) {p : FVal} {x : ℚ}
    (hp : p.rat = some x) : (ps.foldl (FVal.add rdn) p).rat = some (x + xs.sum) := by
  induction h generalizing p x with
  | nil => rw [List.sum_nil, add_zero]; exact hp
  | cons hq _ ih => rw [List.foldl_cons, List.sum_cons, ← add_assoc]; exact ih (FVal.rat_add hp hq rdn)

theorem rat_zero : FVal.zero.rat = some 0 := by simp [FVal.zero, FVal.rat]

theorem rat_chainSum (rdn : Bool) {a b : List FVal} {xs : List ℚ}
    (h : List.Forall₂ (fun p x => p.rat = some x) (List.zipWith FVal.mul a b) xs) : (chainSum rdn a b).rat = some xs.sum := by
  unfold chainSum
  generalize List.zipWith FVal.mul a b = ps at h
  cases h with
  | nil => exact rat_zero
  | cons hp hr => rw [List.sum_cons]; exact rat_foldl_add rdn _ _ hr hp

theorem eq_nan_of_isNan {v : FVal} (h : v.isNan = true) : v = .nan := by
  cases v with
  | nan => rfl
  | inf s => cases h
  | fin s m e => cases h

theorem foldl_add_nan (rdn : Bool) (ps : List FVal) : ps.foldl (FVal.add rdn) .nan = .nan := by
  induction ps with
  | nil => rfl
  | cons p r ih => rwa [List.foldl_cons, FVal.add_nan_left]

theorem foldl_add_of_nan (rdn : Bool) {ps : List FVal} (h : FVal.nan ∈ ps) (p : FVal) : ps.foldl (FVal.add rdn) p = .nan := by
  induction ps generalizing p with
  | nil => cases h
  | cons q r ih =>
    rw [List.foldl_cons]
    rcases List.mem_cons.mp h with rfl | hr
    · rw [FVal.add_nan_right, foldl_add_nan]
    · exact ih hr _

/-- A product without a value leaves the sum without one. -/
theorem chainSum_of_nan (rdn : Bool) {a b : List FVal} (h : FVal.nan ∈ List.zipWith FVal.mul a b) : chainSum rdn a b = .nan := by
  unfold chainSum
  split
  · rename_i heq
    rw [heq] at h
    cases h
  · rename_i p r heq
    rw [heq] at h
    rcases List.mem_cons.mp h with rfl | hr
    · exact foldl_add_nan rdn r
    · exact foldl_add_of_nan rdn hr p

theorem rat_of_isZero {v : FVal} {x : ℚ} (hz : v.isZero = true) (hx : v.rat = some x) : x = 0 := by
  obtain ⟨s, e, rfl⟩ := FVal.exists_of_isZero hz
  simpa [FVal.rat] using hx.symm

theorem isNan_of_rat {v : FVal} {x : ℚ} (hx : v.rat = some x) : v.isNan = false := by
  obtain ⟨s, m, e, rfl⟩ := FVal.exists_fin_of_rat hx
  rfl

theorem rat_drain (rdn : Bool) {c0 sa sb v : FVal} {c p q x : ℚ} (hc : c0.rat = some c) (hp : sa.rat = some p) (hq : sb.rat = some q)
    (hx : v.rat = some x) : (drain rdn c0 sa sb v).rat = some (c + p * q * x) := by
  unfold drain
  simp only [isNan_of_rat hp, isNan_of_rat hq, Bool.or_self, Bool.false_eq_true, if_false, Bool.or_eq_true]
  split
  · rename_i hz
    have hpq : p * q = 0 := by
      rcases hz with hz | hz
      · rw [rat_of_isZero hz hp, zero_mul]
      · rw [rat_of_isZero hz hq, mul_zero]
    rw [hpq, zero_mul]
    exact FVal.rat_add hc rat_zero rdn
  · exact FVal.rat_add hc (FVal.rat_mul (FVal.rat_mul hp hq) hx) rdn

theorem drain_of_nan_scale (rdn : Bool) (c0 : FVal) {sa sb : FVal} (h : sa.isNan = true ∨ sb.isNan = true) (v : FVal) :
    drain rdn c0 sa sb v = .nan := by
  unfold drain
  rw [if_pos (Bool.or_eq_true_iff.mpr h), FVal.add_nan_right]

theorem drain_of_nan (rdn : Bool) (c0 : FVal) {sa sb : FVal} (ha : sa.isZero = false) (hb : sb.isZero = false) :
    drain rdn c0 sa sb .nan = .nan := by
  unfold drain
  dsimp only
  split
  · exact FVal.add_nan_right _ _
  · simp [ha, hb]

/-- The products of a chain whose operands are given element by element. -/
theorem zipWith_mul_eq {a b : List FVal} {n : Nat} (ha : a.length = n) (hb : b.length = n) :
    List.zipWith FVal.mul a b = (List.range n).map (fun i => FVal.mul (a.getD i .zero) (b.getD i .zero)) := by
  refine List.ext_getElem (by simp [ha, hb]) fun i hi _ => ?_
  have hin : i < n := by simpa [ha, hb] using hi
  simp [List.getD_eq_getElem?_getD, ha, hb, hin]

theorem length_positions {sel : Nat} (lanes : Sparse VReg) (r : Nat) : (positions sel lanes r).length = kept sel := by
  unfold positions kept
  dsimp only
  split <;> simp

end Sys2Proof.Machine

namespace Sys2Proof.Machine

/-! ## What a multiplication checks before its first block (spec/06 R188 to R191, R201) -/

/-- The elements of a row of operand A: K, or those that a sparse form keeps. -/
def MqEntry.rowA (e : MqEntry) : Nat := if e.sparse then kept e.sel else (shapeOf e.x).k

/-- The checks and the rows of operand B. -/
def State.mmaReady (s : State) (g : Eng) (e : MqEntry) (l : Layout) : MRes (Region × List Row) :=
  let d := shapeOf e.x
  let oa : Operand := { win := e.aw, op := 1 }
  let ob : Operand := { win := e.bw, op := 2 }
  (mStopIf (!l.valid || decide (l.rows < d.m ∨ l.cols < d.n)) { code := 0x09 } s).then (fun s _ =>
    (s.engRegion g oa e.a.toNat).then (fun s ra =>
    (s.engRegion g ob e.b.toNat).then (fun s rb =>
    (mStopIf (!(pairOk ra.fmt ra.geo.toNat rb.fmt rb.geo.toNat l.af && kOk ra.fmt ra.geo d.k e.sparse)) { code := 0x08, op := 1 } s).then (fun s _ =>
    (mStopIf (decide (d.sa < rowBytes ra.fmt e.rowA)) { code := 0x03, op := 1 } s).then (fun s _ =>
    (mStopIf (decide (d.sb < rowBytes rb.fmt d.k)) { code := 0x03, op := 2 } s).then (fun s _ =>
    (mEach (fun s c => s.engReadRow g ob true rb.fmt rb.geo (rowAt e.b.toNat d.sb c) d.k) s (List.range d.n)).then
      (fun s bs => (s, .ok (ra, bs)))))))))

theorem State.runEntry_mma (s : State) (fk : Nat) {e : MqEntry} (h : e.opc = 0x126 ∨ e.opc = 0x128) (hpart : e.part = none) :
    s.runEntry (s.engine fk) e = inBlocks (s.mmaReady (s.engine fk) e ((s.forme fk).layout e.tile)) e.done ((shapeOf e.x).m / 8)
      (fun x u b => u.mmaBlock (s.engine fk) e ((s.forme fk).layout e.tile) (shapeOf e.x) e.a.toNat x.1 x.2 b) := by
  have hmma : s.runEntry (s.engine fk) e = s.runMma (s.engine fk) e := by
    rcases h with h | h
    all_goals
      simp only [State.runEntry, h]
      rfl
  have hpartOf : e.partOf (s.forme fk) = (shapeOf e.x, e.a.toNat, e.b.toNat) := by
    unfold MqEntry.partOf
    rw [hpart]
  rw [hmma]
  unfold State.runMma
  dsimp only [State.engine]
  rw [hpartOf]
  rfl

section Ready

variable {s : State} {fk : Nat} {e : MqEntry} {l : Layout} {ra rb : Region} {g : Eng}

/-- A tile that is too small stops the instruction. -/
theorem State.mmaReady_of_small (h : ¬(l.valid = true ∧ (shapeOf e.x).m ≤ l.rows ∧ (shapeOf e.x).n ≤ l.cols)) :
    s.mmaReady g e l = (s, .error { code := 0x09, op := 4 }) := by
  have hbad : (!l.valid || decide (l.rows < (shapeOf e.x).m ∨ l.cols < (shapeOf e.x).n)) = true := by
    simp only [Bool.or_eq_true, Bool.not_eq_true', decide_eq_true_eq]
    by_cases hv : l.valid = true
    · right
      by_contra hcon
      exact h ⟨hv, by omega, by omega⟩
    · exact .inl (Bool.eq_false_iff.mpr hv)
  rw [State.mmaReady, mStopIf_true hbad, mRes_then_error]

variable (hv : l.valid = true) (hm : (shapeOf e.x).m ≤ l.rows) (hn : (shapeOf e.x).n ≤ l.cols)
  (hra : s.engRegion g { win := e.aw, op := 1 } e.a.toNat = (s, .ok ra)) (hrb : s.engRegion g { win := e.bw, op := 2 } e.b.toNat = (s, .ok rb))
include hv hm hn hra hrb

/-- The checks of the operands' formats and strides, on a tile that is large enough. -/
theorem State.mmaReady_eq : s.mmaReady g e l =
    (mStopIf (!(pairOk ra.fmt ra.geo.toNat rb.fmt rb.geo.toNat l.af && kOk ra.fmt ra.geo (shapeOf e.x).k e.sparse)) { code := 0x08, op := 1 } s).then (fun s _ =>
    (mStopIf (decide ((shapeOf e.x).sa < rowBytes ra.fmt e.rowA)) { code := 0x03, op := 1 } s).then (fun s _ =>
    (mStopIf (decide ((shapeOf e.x).sb < rowBytes rb.fmt (shapeOf e.x).k)) { code := 0x03, op := 2 } s).then (fun s _ =>
    (mEach (fun s c => s.engReadRow g { win := e.bw, op := 2 } true rb.fmt rb.geo (rowAt e.b.toNat (shapeOf e.x).sb c) (shapeOf e.x).k) s
      (List.range (shapeOf e.x).n)).then (fun s bs => (s, .ok (ra, bs)))))) := by
  have hgood : (!l.valid || decide (l.rows < (shapeOf e.x).m ∨ l.cols < (shapeOf e.x).n)) = false := by
    simp [hv, hm, hn]
  rw [State.mmaReady, mStopIf_false hgood, mRes_then_ok, hra, mRes_then_ok, hrb, mRes_then_ok]

theorem State.mmaReady_of_pair (h : (pairOk ra.fmt ra.geo.toNat rb.fmt rb.geo.toNat l.af && kOk ra.fmt ra.geo (shapeOf e.x).k e.sparse) = false) :
    s.mmaReady g e l = (s, .error { code := 0x08, op := 1 }) := by
  rw [State.mmaReady_eq hv hm hn hra hrb, h, mStopIf_true Bool.not_false, mRes_then_error]

variable (hpair : (pairOk ra.fmt ra.geo.toNat rb.fmt rb.geo.toNat l.af && kOk ra.fmt ra.geo (shapeOf e.x).k e.sparse) = true)
include hpair

theorem State.mmaReady_of_strideA (h : (shapeOf e.x).sa < rowBytes ra.fmt e.rowA) : s.mmaReady g e l = (s, .error { code := 0x03, op := 1 }) := by
  rw [State.mmaReady_eq hv hm hn hra hrb, hpair, mStopIf_false Bool.not_true, mRes_then_ok, mStopIf_true (decide_eq_true h), mRes_then_error]

theorem State.mmaReady_of_strideB (ha : rowBytes ra.fmt e.rowA ≤ (shapeOf e.x).sa) (h : (shapeOf e.x).sb < rowBytes rb.fmt (shapeOf e.x).k) :
    s.mmaReady g e l = (s, .error { code := 0x03, op := 2 }) := by
  rw [State.mmaReady_eq hv hm hn hra hrb, hpair, mStopIf_false Bool.not_true, mRes_then_ok, mStopIf_false (decide_eq_false (Nat.not_lt.mpr ha)),
    mRes_then_ok, mStopIf_true (decide_eq_true h), mRes_then_error]

/-- Nothing stops the instruction, and operand B can be read. -/
theorem State.mmaReady_ok {B : Nat → Row} (ha : rowBytes ra.fmt e.rowA ≤ (shapeOf e.x).sa) (hb : rowBytes rb.fmt (shapeOf e.x).k ≤ (shapeOf e.x).sb)
    (hB : ∀ c, c < (shapeOf e.x).n →
      s.engReadRow g { win := e.bw, op := 2 } true rb.fmt rb.geo (rowAt e.b.toNat (shapeOf e.x).sb c) (shapeOf e.x).k = (s, .ok (B c))) :
    s.mmaReady g e l = (s, .ok (ra, (List.range (shapeOf e.x).n).map B)) := by
  rw [State.mmaReady_eq hv hm hn hra hrb, hpair, mStopIf_false Bool.not_true, mRes_then_ok, mStopIf_false (decide_eq_false (Nat.not_lt.mpr ha)),
    mRes_then_ok, mStopIf_false (decide_eq_false (Nat.not_lt.mpr hb)), mRes_then_ok, mEach_ok (fun c hc => hB c (List.mem_range.mp hc)), mRes_then_ok]

end Ready

/-! ## An element of a product (spec/06 R192 to R197) -/

/-- The elements of a row of B that meet those of row `r` of A. -/
def MqEntry.column (e : MqEntry) (r : Nat) (b : Row) : List FVal :=
  if e.sparse then (positions e.sel e.lanes r).map (fun p => b.vals.getD p .zero) else b.vals

/-- What a chain leaves in its element. -/
def MqEntry.chain (e : MqEntry) (l : Layout) (flt : Bool) (a b : Row) (f : Forme) (r c : Nat) : Nat :=
  conv l.ty (drain (e.rm == .rdn) (if (shapeOf e.x).acc then f.tileVal l r c else .zero) a.scale b.scale
    (chainSum (e.rm == .rdn) a.vals (e.column r b))) e.rm e.sat flt

/-- A row block of a multiplication whose rows of A can be read. -/
theorem State.mmaBlock_eq {u : State} {g : Eng} {e : MqEntry} {l : Layout} {base n b : Nat} {ra : Region} {A B : Nat → Row}
    (hn : n = (shapeOf e.x).n) (hA : ∀ i, i < 8 → u.engReadRow g { win := e.aw, op := 1 } true ra.fmt ra.geo (rowAt base (shapeOf e.x).sa (8 * b + i)) e.rowA
      = (u, .ok (A (8 * b + i)))) :
    u.mmaBlock g e l (shapeOf e.x) base ra ((List.range n).map B) b = (u.modForme g.fk (fun f => f.putBlock l b n (fun r c =>
      e.chain l (fmtFloat ra.fmt) (((List.range 8).map (fun i => A (8 * b + i))).getD (r % 8) {}) (((List.range n).map B).getD c {}) f r c)), .ok ()) := by
  subst hn
  have hrows : mEach (fun s i => s.engReadRow g { win := e.aw, op := 1 } true ra.fmt ra.geo (rowAt base (shapeOf e.x).sa (8 * b + i)) e.rowA) u
      (List.range 8) = (u, .ok ((List.range 8).map (fun i => A (8 * b + i)))) := mEach_ok (fun i hi => hA i (List.mem_range.mp hi))
  show MRes.then (mEach (fun s i => s.engReadRow g { win := e.aw, op := 1 } true ra.fmt ra.geo (rowAt base (shapeOf e.x).sa (8 * b + i)) e.rowA) u
      (List.range 8)) _ = _
  rw [hrows, mRes_then_ok]
  rfl

section Chain

variable {e : MqEntry} {l : Layout} {flt : Bool} {a b : Row} {f : Forme} {r c : Nat}

theorem MqEntry.length_column (hb : b.vals.length = (shapeOf e.x).k) : (e.column r b).length = e.rowA := by
  unfold MqEntry.column MqEntry.rowA
  split
  · rw [List.length_map, length_positions]
  · exact hb

/-- The element of B that meets element `i` of row `r` of A. -/
theorem MqEntry.getD_column {i : Nat} (hi : i < e.rowA) : (e.column r b).getD i .zero
    = b.vals.getD (if e.sparse then (positions e.sel e.lanes r).getD i 0 else i) .zero := by
  unfold MqEntry.column
  unfold MqEntry.rowA at hi
  split
  · rename_i hs
    rw [if_pos hs] at hi
    have hlen : i < (positions e.sel e.lanes r).length := by rwa [length_positions]
    simp [List.getD_eq_getElem?_getD, hlen]
  · rfl

variable (ha : a.vals.length = e.rowA) (hb : b.vals.length = (shapeOf e.x).k)
include ha hb

theorem MqEntry.zipWith_column : List.zipWith FVal.mul a.vals (e.column r b)
    = (List.range e.rowA).map (fun i => FVal.mul (a.vals.getD i .zero) (b.vals.getD (if e.sparse then (positions e.sel e.lanes r).getD i 0 else i) .zero)) := by
  rw [zipWith_mul_eq ha (MqEntry.length_column hb)]
  exact List.map_congr_left fun i hi => by rw [MqEntry.getD_column (List.mem_range.mp hi)]

/-- Over finite elements and scales, a chain is the sum of its products, scaled, added and converted once. -/
theorem MqEntry.drained_chain {v p q : ℚ} {x y : Nat → ℚ} (hv : (if (shapeOf e.x).acc then f.tileVal l r c else .zero).rat = some v)
    (hp : a.scale.rat = some p) (hq : b.scale.rat = some q)
    (hxy : ∀ i, i < e.rowA → (a.vals.getD i .zero).rat = some (x i)
      ∧ (b.vals.getD (if e.sparse then (positions e.sel e.lanes r).getD i 0 else i) .zero).rat = some (y i)) :
    Drained l.ty e.rm e.sat flt (v + p * q * ((List.range e.rowA).map (fun i => x i * y i)).sum) (e.chain l flt a b f r c) := by
  refine drained_conv _ _ _ _ (rat_drain _ hv hp hq (rat_chainSum _ ?_))
  rw [MqEntry.zipWith_column ha hb]
  simp only [List.forall₂_map_left_iff, List.forall₂_map_right_iff]
  exact List.forall₂_same.mpr fun i hi => FVal.rat_mul (hxy i (List.mem_range.mp hi)).1 (hxy i (List.mem_range.mp hi)).2

/-- A product without a value, and scales that are not zero. -/
theorem MqEntry.chain_of_nan {i : Nat} (hi : i < e.rowA)
    (hnan : (FVal.mul (a.vals.getD i .zero) (b.vals.getD (if e.sparse then (positions e.sel e.lanes r).getD i 0 else i) .zero)).isNan = true)
    (hsa : a.scale.isZero = false) (hsb : b.scale.isZero = false) : e.chain l flt a b f r c = conv l.ty .nan e.rm e.sat flt := by
  have hmem : FVal.nan ∈ List.zipWith FVal.mul a.vals (e.column r b) := by
    rw [MqEntry.zipWith_column ha hb]
    exact List.mem_map.mpr ⟨i, List.mem_range.mpr hi, eq_nan_of_isNan hnan⟩
  rw [MqEntry.chain, chainSum_of_nan _ hmem, drain_of_nan _ _ hsa hsb]

omit ha hb in
theorem MqEntry.chain_of_nan_scale (h : a.scale.isNan = true ∨ b.scale.isNan = true) :
    e.chain l flt a b f r c = conv l.ty .nan e.rm e.sat flt := by
  rw [MqEntry.chain, drain_of_nan_scale _ _ h]

end Chain

/-- A multiplication over operands that can be read runs to its end, and leaves a chain in each element. -/
theorem exec_of_mmaReady {s : State} {fk : Nat} {e : MqEntry} {rest : List MqEntry} {ra : Region} {A B : Nat → Row} {l : Layout} (hd : s.Head fk e rest)
    (ho : e.opc = 0x126 ∨ e.opc = 0x128) (hl : l = (s.forme fk).layout e.tile) (hcols : (shapeOf e.x).n ≤ l.cols)
    (hready : s.mmaReady (s.engine fk) e l = (s, .ok (ra, (List.range (shapeOf e.x).n).map B)))
    (hA : ∀ u r, s.AccOnly u fk → r < (shapeOf e.x).m →
      u.engReadRow (s.engine fk) { win := e.aw, op := 1 } true ra.fmt ra.geo (rowAt e.a.toNat (shapeOf e.x).sa r) e.rowA = (u, .ok (A r))) :
    ∃ t, exec .matrixQueueExecute s = .next t ∧ s.Ran t fk rest (some ((shapeOf e.x).m / 8))
      ∧ (s.forme fk).TilePut (t.forme fk) l (shapeOf e.x).m (shapeOf e.x).n
        (fun r c => e.chain l (fmtFloat ra.fmt) (A r) (B c) (s.forme fk) r c) := by
  obtain ⟨hdone, -, hpart⟩ := hd.fresh
  have h8 : 8 * ((shapeOf e.x).m / 8) = (shapeOf e.x).m := Nat.mul_div_cancel' (Dvd.intro _ rfl)
  obtain ⟨u, hblocks, hacc, hput⟩ := blocksFrom_tilePut (s := s) (fk := fk) (m := (shapeOf e.x).m / 8)
    (x := fun r c => e.chain l (fmtFloat ra.fmt) (A r) (B c) (s.forme fk) r c) hcols
    (F := fun v b => v.mmaBlock (s.engine fk) e l (shapeOf e.x) e.a.toNat ra ((List.range (shapeOf e.x).n).map B) b)
    (fun u b hu hput hb => by
      refine ⟨_, State.mmaBlock_eq rfl (fun i hi => hA u (8 * b + i) hu (by omega)), fun r k hlo hhi hk => ?_⟩
      have hrow : ((List.range 8).map (fun i => A (8 * b + i))).getD (r % 8) {} = A r := by
        have hmod : r % 8 < 8 := Nat.mod_lt _ (by decide)
        simp only [List.getD_eq_getElem?_getD, List.getElem?_map, List.getElem?_range hmod, Option.map_some, Option.getD_some]
        rw [show 8 * b + r % 8 = r by omega]
      have hcol : ((List.range (shapeOf e.x).n).map B).getD k {} = B k := by
        simp [List.getD_eq_getElem?_getD, hk]
      rw [hrow, hcol, MqEntry.chain, hput.tileVal_of_le hcols hlo (hk.trans_le hcols)]
      rfl)
  rw [h8] at hput
  obtain ⟨t, ⟨hexec, hran⟩, -, htile⟩ := exec_of_tilePut hd (u := u) (k := some ((shapeOf e.x).m / 8)) (by
    rw [State.runEntry_mma s fk ho hpart, ← hl, hready, hdone]
    simp only [inBlocks, Nat.sub_zero, hblocks]) hacc hput
  exact ⟨t, hexec, hran, htile⟩

end Sys2Proof.Machine

namespace Sys2Proof

open Sys2Proof.Machine

/-- The checks stand in their order before the first block; an element is the chain of its row and column. -/
theorem engineMultiplication : Claim.EngineMultiplication := by
  intro s fk e rest ra rb A B hd ho hsel _ f l M N K sa sb na fits pair kRule g oa ob regions stops
  obtain ⟨hdone, -, hpart⟩ := hd.fresh
  have hsparse : e.sparse = (e.opc == 0x128) := by
    rcases ho with ho | ho <;> simp [MqEntry.sparse, ho]
  have hna : e.rowA = na := by
    unfold MqEntry.rowA
    rw [hsparse]
    rcases ho with ho | ho <;> simp only [na, ho] <;> rfl
  have hcheck : pair ∧ kRule ↔ (Machine.pairOk ra.fmt ra.geo.toNat rb.fmt rb.geo.toNat l.af && kOk ra.fmt ra.geo (shapeOf e.x).k e.sparse) = true := by
    rw [Bool.and_eq_true, ← pairListed_iff _ _ _ _ l.af_lt, ← kRule_iff, hsparse]
    have hopc : e.opc = 0x126 ↔ (e.opc == 0x128) = false := by rcases ho with ho | ho <;> simp [ho]
    exact and_congr_right fun _ => imp_congr_right fun _ => and_congr_left fun _ => hopc
  have hstops {code : BitVec 8} {op : Nat} (h : s.mmaReady g e l = (s, .error { code := code, op := op })) : stops code op := by
    refine exec_matrixQueueExecute_stops hd (k := some e.done) (by simpa using hdone) ?_
    rw [State.runEntry_mma s fk ho hpart, h]
    rfl
  refine ⟨fun h => hstops (State.mmaReady_of_small h), fun hfits hreg => ?_⟩
  obtain ⟨hv, hm, hn⟩ := hfits
  obtain ⟨hra, hrb⟩ := hreg
  refine ⟨fun h => ?_, fun hp hk hlt => ?_, fun hp hk ha hlt => ?_, fun hp hk ha hb _ hA hB => ?_⟩
  · exact hstops (State.mmaReady_of_pair hv hm hn hra hrb (Bool.eq_false_iff.mpr (fun hc => h (hcheck.mpr hc))))
  · exact hstops (State.mmaReady_of_strideA hv hm hn hra hrb (hcheck.mp ⟨hp, hk⟩) (hna ▸ hlt))
  · exact hstops (State.mmaReady_of_strideB hv hm hn hra hrb (hcheck.mp ⟨hp, hk⟩) (hna ▸ ha) hlt)
  · intro av bv acc
    have hready := State.mmaReady_ok hv hm hn hra hrb (hcheck.mp ⟨hp, hk⟩) (hna ▸ ha) hb hB
    obtain ⟨t, hexec, hran, hput⟩ := exec_of_mmaReady hd ho rfl hn hready (fun u r hu hr => by rw [hna]; exact hA u r hu hr)
    refine ⟨t, _, hexec, hran, hput, fun r k hr hk => ?_⟩
    have hlenA : (A r).vals.length = e.rowA := hna ▸ State.length_of_engReadRow (hA s r (.refl s fk) hr)
    have hlenB : (B k).vals.length = (shapeOf e.x).k := State.length_of_engReadRow (hB k hk)
    have hbv (i : Nat) : (B k).vals.getD (if e.sparse then (positions e.sel e.lanes r).getD i 0 else i) .zero = bv r k i := by
      rw [hsparse]
      rcases ho with ho | ho <;> simp only [bv, ho] <;> rfl
    refine ⟨fun c p q x y hc hp hq hxy => ?_, fun h => MqEntry.chain_of_nan_scale h, fun ⟨i, hi, hnan⟩ hsa hsb => ?_⟩
    · have hdrained := MqEntry.drained_chain (flt := fmtFloat ra.fmt) hlenA hlenB hc hp hq
        (fun i hi => ⟨(hxy i (hna ▸ hi)).1, by rw [hbv]; exact (hxy i (hna ▸ hi)).2⟩)
      rwa [hna] at hdrained
    · exact MqEntry.chain_of_nan hlenA hlenB (hna.symm ▸ hi) (by rw [hbv]; exact hnan) hsa hsb

end Sys2Proof

namespace Sys2Proof.Machine

/-! ## Rows of a pitch-window operand (spec/06 R188, R189) -/

/-- The bytes of an access lie in one part, those of the access's address on (R235). -/
theorem State.window_of_inWindow {s : State} {fk a n k o : Nat} (h : s.InWindow fk a n k o) {x m : Nat} (hlo : a / 2 ^ 21 = x / 2 ^ 21)
    (hhi : x % 2 ^ 21 + m ≤ s.spadSize k) : s.window fk x m = .ok (k, x % 2 ^ 21) := by
  obtain ⟨hlt, hpart, hk, -, -⟩ := h
  have hx : x < 2 ^ 26 := by omega
  have hi : x / 2 ^ 21 % 32 = a / 2 ^ 21 := by omega
  unfold State.window
  dsimp only
  rw [hi, ← hk, if_pos ⟨hx, hpart, hhi⟩]

theorem blockLen_pos (fmt : Nat) (geo : BitVec 3) : 0 < blockLen fmt geo := by
  unfold blockLen
  split <;> positivity

/-- The marks of a row lie among its bytes. -/
theorem mem_rowMarks {op a n x : Nat} (hn : 0 < n) (h : x ∈ rowMarks { win := true, op := op } a n) : a ≤ x ∧ x < a + n := by
  unfold rowMarks at h
  simp only [if_true, List.mem_cons, List.mem_map, List.mem_range] at h
  rcases h with rfl | ⟨i, hi, rfl⟩
  · omega
  · omega

/-- The alignment of a row start, condition by condition. -/
theorem mod_rowAlign (fmt : Nat) (geo : BitVec 3) (x : Nat) : x % rowAlign fmt geo = 0 ↔
    x % 8 = 0 ∧ (fmtWidth fmt = 6 → x % 3 = 0) ∧ (hasBlocks fmt = true → x % (blockLen fmt geo * fmtWidth fmt / 8) = 0) := by
  unfold rowAlign
  simp only [← Nat.dvd_iff_mod_eq_zero, Nat.lcm_dvd_iff, and_assoc]
  split_ifs <;> simp_all

end Sys2Proof.Machine

namespace Sys2Proof.Machine

section OperandRow

variable {s : State} {g : Eng} {op fmt n a k o : Nat} {geo : BitVec 3} {r : Region}

/-- The region of a row as its operand's addresses see it. -/
def Region.seen (r : Region) (a o : Nat) : Region := { r with base := a - o + r.base }

section Window

variable (hwin : s.InWindow g.fk a (rowBytes fmt n) k o) (hin : o + rowBytes fmt n ≤ r.base + r.size) (h21 : r.base + r.size ≤ 2 ^ 21)
  (hspad : r.base + r.size ≤ s.spadSize k)
include hwin hin h21 hspad

/-- Every byte of the row lies in one region. -/
theorem State.engRegion_of_inWindow (hseg : ∀ i, i < rowBytes fmt n → (s.launch (s.forme k).launch).segAt (o + i) = r) {x : Nat}
    (hlo : a ≤ x) (hhi : x < a + rowBytes fmt n) : s.engRegion g { win := true, op := op } x = (s, .ok (r.seen a o)) := by
  have ho : o = a % 2 ^ 21 := hwin.2.2.2.1
  have hx : x % 2 ^ 21 = o + (x - a) := by omega
  have hw := State.window_of_inWindow hwin (x := x) (m := 1) (by omega) (by omega)
  unfold State.engRegion
  simp only [if_true, hw, hx, hseg (x - a) (by omega)]
  rw [Region.seen, show x - (o + (x - a)) = a - o by omega]

omit h21 in
theorem State.engRead_of_inWindow {b : Bool} (hn : rowBytes fmt n ≠ 0) :
    s.engRead g { win := true, op := op } b a (rowBytes fmt n) = (s, .ok (s.spadRead k o (rowBytes fmt n))) := by
  have ho : o = a % 2 ^ 21 := hwin.2.2.2.1
  have hw := State.window_of_inWindow hwin (x := a) (m := rowBytes fmt n) rfl (by omega)
  unfold State.engRead
  simp only [if_neg hn, if_true, hw, ← ho]

omit hin in
/-- Two bytes of the region elsewhere than in the row. -/
theorem State.engRead_entry {b : Bool} {y : Nat} (hy : y + 2 ≤ r.base + r.size) :
    s.engRead g { win := true, op := op } b (a - o + y) 2 = (s, .ok (s.spadRead k y 2)) := by
  have ho : o = a % 2 ^ 21 := hwin.2.2.2.1
  have hmod : (a - o + y) % 2 ^ 21 = y := by omega
  have hw := State.window_of_inWindow hwin (x := a - o + y) (m := 2) (by omega) (by omega)
  unfold State.engRead
  simp only [if_true, hw, hmod]
  rfl

end Window

/-- The checks of a row whose bytes lie in one region. -/
theorem State.engRow_eq (hn : 0 < rowBytes fmt n)
    (hreg : ∀ x, a ≤ x → x < a + rowBytes fmt n → s.engRegion g { win := true, op := op } x = (s, .ok (r.seen a o))) :
    s.engRow g { win := true, op := op } fmt geo a n =
      if r.fmt = fmt ∧ r.geo = geo then
        if (a - (r.seen a o).base) % rowAlign fmt geo ≠ 0 then (s, .error { code := 0x05, op := op })
        else if hasBlocks fmt && decide (7 * r.size < 8 * (a - (r.seen a o).base) + n * fmtWidth fmt) then
          (s, .error { code := 0x11, reason := 0x09, op := op })
        else (s, .ok (r.seen a o))
      else (s, .error { code := 0x08, op := op }) := by
  have hmark {x : Nat} (hx : x ∈ rowMarks { win := true, op := op } a (max 1 (rowBytes fmt n))) :
      s.engRegion g { win := true, op := op } x = (s, .ok (r.seen a o)) := by
    rw [Nat.max_eq_right hn] at hx
    obtain ⟨hlo, hhi⟩ := mem_rowMarks hn hx
    exact hreg x hlo hhi
  by_cases hfmt : r.fmt = fmt ∧ r.geo = geo
  · rw [if_pos hfmt, State.engRow,
      mEach_ok (g := fun _ => r.seen a o) (fun x hx => by rw [hmark hx, mRes_then_ok]; exact if_pos hfmt), mRes_then_ok]
    rfl
  · have hfirst : a ∈ rowMarks { win := true, op := op } a (max 1 (rowBytes fmt n)) := List.mem_cons_self
    rw [if_neg hfmt, State.engRow, rowMarks,
      mEach_error (e := { code := 0x08, op := op }) (by rw [hmark hfirst, mRes_then_ok]; exact if_neg hfmt), mRes_then_error]

end OperandRow

/-- The row that its bytes and the entries of its blocks hold. -/
def rowOf (fmt : Nat) (geo : BitVec 3) (n x : Nat) (entries : List (List Byte)) : Row :=
  let byte (j k : Nat) : Nat := ((entries.getD j []).getD k 0).toNat
  let raw := (List.range n).map (fun i => x / 2 ^ (fmtWidth fmt * i) % 2 ^ fmtWidth fmt)
  { raw := raw, vals := (List.range n).map (fun i => elemVal fmt (raw.getD i 0) (byte (i / blockLen fmt geo) 1)), scale := scaleVal fmt geo (byte 0 0) }

theorem raw_rowOf {fmt : Nat} {geo : BitVec 3} {n x i : Nat} (entries : List (List Byte)) (hi : i < n) :
    (rowOf fmt geo n x entries).raw.getD i 0 = x / 2 ^ (fmtWidth fmt * i) % 2 ^ fmtWidth fmt := by
  simp [rowOf, List.getD_eq_getElem?_getD, hi]

theorem vals_rowOf {fmt : Nat} {geo : BitVec 3} {n x i : Nat} (entries : List (List Byte)) (hi : i < n) :
    (rowOf fmt geo n x entries).vals.getD i .zero = elemVal fmt (x / 2 ^ (fmtWidth fmt * i) % 2 ^ fmtWidth fmt)
      ((entries.getD (i / blockLen fmt geo) []).getD 1 0).toNat := by
  rw [← raw_rowOf (geo := geo) entries hi]
  simp [rowOf, List.getD_eq_getElem?_getD, hi]

/-- A row is read where its checks pass and its bytes and its blocks' entries can be read. -/
theorem State.engReadRow_eq {s : State} {g : Eng} {o : Operand} {b : Bool} {fmt a n : Nat} {geo : BitVec 3} {r : Region} {bs : List Byte}
    {E : Nat → List Byte} (hrow : s.engRow g o fmt geo a n = (s, .ok r)) (hread : s.engRead g o b a (rowBytes fmt n) = (s, .ok bs))
    (hE : hasBlocks fmt = true → ∀ j, j < (n + blockLen fmt geo - 1) / blockLen fmt geo →
      s.engRead g { o with op := 5 } b (r.scaleAt a j) 2 = (s, .ok (E j))) :
    s.engReadRow g o b fmt geo a n = (s, .ok (rowOf fmt geo n (natOf bs)
      (if hasBlocks fmt then (List.range ((n + blockLen fmt geo - 1) / blockLen fmt geo)).map E else []))) := by
  rw [State.engReadRow, hrow, mRes_then_ok, hread, mRes_then_ok]
  dsimp only
  by_cases hb : hasBlocks fmt = true
  · rw [if_pos hb, if_pos hb]
    have hmap : mEach (fun s x => s.engRead g { o with op := 5 } b x 2) s
        ((List.range ((n + blockLen fmt geo - 1) / blockLen fmt geo)).map (r.scaleAt a))
          = (s, .ok ((List.range ((n + blockLen fmt geo - 1) / blockLen fmt geo)).map E)) := by
      generalize hl : List.range ((n + blockLen fmt geo - 1) / blockLen fmt geo) = l
      have hmem : ∀ j ∈ l, s.engRead g { o with op := 5 } b (r.scaleAt a j) 2 = (s, .ok (E j)) := fun j hj =>
        hE hb j (List.mem_range.mp (hl ▸ hj))
      clear hl
      induction l with
      | nil => rfl
      | cons j l ih =>
        rw [List.map_cons, mEach, hmem j List.mem_cons_self, mRes_then_ok, ih (fun i hi => hmem i (List.mem_cons_of_mem _ hi)), mRes_then_ok,
          List.map_cons]
    rw [hmap, mRes_then_ok]
    rfl
  · rw [if_neg hb, if_neg hb]
    rfl

theorem spadRead_two (s : State) (k y : Nat) : s.spadRead k y 2 = [(s.forme k).scratch.look y, (s.forme k).scratch.look (y + 1)] := rfl

end Sys2Proof.Machine

namespace Sys2Proof

open Sys2Proof.Machine

/-- The marks of a row all find the region of its bytes; then its bytes and its entries are read from the scratchpad part. -/
theorem operandRows : Claim.OperandRows := by
  intro s g op fmt geo a n k o r hn hw hwin hseg hlo hhi hspad h21 _ _ read off aligned code entry stops
  have hbytes : 0 < rowBytes fmt n := by
    have : 0 < n * fmtWidth fmt := Nat.mul_pos hn hw
    unfold rowBytes
    omega
  have ho : o = a % 2 ^ 21 := hwin.2.2.2.1
  have hoff : a - (r.seen a o).base = off := by
    show a - (a - o + r.base) = o - r.base
    omega
  have hrow := State.engRow_eq (geo := geo) (op := op) hbytes (fun x hx hx' => State.engRegion_of_inWindow (op := op) hwin hhi h21 hspad hseg hx hx')
  have hstop {e : MStop} (h : s.engRow g { win := true, op := op } fmt geo a n = (s, .error e)) : read = (s, .error e) := by
    show s.engReadRow g _ true fmt geo a n = _
    rw [State.engReadRow, h, mRes_then_error]
  rw [hoff] at hrow
  have haligned : aligned ↔ off % rowAlign fmt geo = 0 := (mod_rowAlign fmt geo off).symm
  refine ⟨fun h => hstop (hrow.trans (if_neg (by tauto))), fun hf hg => ?_⟩
  rw [if_pos ⟨hf, hg⟩] at hrow
  refine ⟨fun h => hstop (hrow.trans (if_pos (fun hz => h (haligned.mpr hz)))), fun h hb hlt => ?_, fun h hok => ?_⟩
  · rw [if_neg (not_not.mpr (haligned.mp h)), if_pos (by rw [hb, decide_eq_true hlt, Bool.and_self])] at hrow
    exact hstop hrow
  · have hroom : (hasBlocks fmt && decide (7 * r.size < 8 * off + n * fmtWidth fmt)) = false := by
      by_cases hb : hasBlocks fmt = true
      · rw [decide_eq_false (Nat.not_lt.mpr (hok hb).1), Bool.and_false]
      · rw [Bool.eq_false_iff.mpr hb, Bool.false_and]
    rw [if_neg (not_not.mpr (haligned.mp h)), hroom, if_neg Bool.false_ne_true] at hrow
    have hentry (j : Nat) : (r.seen a o).scaleAt a j = a - o + entry j := by
      show (r.seen a o).base + 7 * r.size / 8 + 2 * ((a - (r.seen a o).base) / (blockLen r.fmt r.geo * fmtWidth r.fmt / 8) + j) = _
      rw [hoff, hf, hg]
      simp only [Region.seen, entry]
      omega
    have hkb := blockLen_pos fmt geo
    have hrd := State.engReadRow_eq (b := true) (E := fun j => s.spadRead k (entry j) 2) hrow
      (State.engRead_of_inWindow hwin hhi hspad hbytes.ne') (fun hb j hj => by
        rw [hentry]
        refine State.engRead_entry hwin h21 hspad ?_
        have hle := (hok hb).2
        simp only [entry] at hle ⊢
        omega)
    refine ⟨_, hrd, by simp [rowOf], fun i hi => ?_⟩
    have hblock : i / blockLen fmt geo < (n + blockLen fmt geo - 1) / blockLen fmt geo := by
      rw [Nat.div_lt_iff_lt_mul hkb]
      have := Nat.div_add_mod' (n + blockLen fmt geo - 1) (blockLen fmt geo)
      have := Nat.mod_lt (n + blockLen fmt geo - 1) hkb
      omega
    have hfirst : 0 < (n + blockLen fmt geo - 1) / blockLen fmt geo := Nat.zero_lt_of_lt hblock
    refine ⟨raw_rowOf _ hi, ?_, ?_⟩
    · rw [vals_rowOf _ hi]
      by_cases hb : hasBlocks fmt = true
      · simp only [if_pos hb, List.getD_eq_getElem?_getD, List.getElem?_map, List.getElem?_range hblock]
        rfl
      · simp only [if_neg hb]
        rfl
    · by_cases hb : hasBlocks fmt = true
      · simp only [rowOf, if_pos hb, List.getD_eq_getElem?_getD, List.getElem?_map, List.getElem?_range hfirst]
        rfl
      · simp only [rowOf, if_neg hb]
        rfl

/-- Settles O40: the run of a multiplication over rows that can be read, and the rows that a pitch window holds. -/
theorem engineProducts : Obligations.EngineProducts := ⟨engineMultiplication, operandRows⟩

end Sys2Proof

namespace Sys2Proof

open Sys2Proof.Machine

/-! ## Quotients rounded to a format or to an integer (spec/06 R208, spec/04 R116, R126) -/

/-- The rounded quotient of the model is the rounded quotient of the numbers, saturating or not. -/
theorem FFmt.rounds_quotient {f : FFmt} (h : f.Proper) (hbits : f.mbits ≤ 78) (rm : RM) (sat : Bool) {x y : FVal} {a b : ℚ} (hx : x.rat = some a)
    (hy : y.rat = some b) (hb : b ≠ 0) (hle : |a / b| ≤ f.greatest) : f.Rounds rm (a / b) (FVal.round f rm sat (x.div y)) := by
  obtain ⟨s, m, e, rfl⟩ := FVal.exists_fin_of_rat hx
  obtain ⟨t, n, k, rfl⟩ := FVal.exists_fin_of_rat hy
  have hn := FVal.mantissa_ne_zero hy hb
  obtain ⟨ha, haneg, hapos⟩ := FVal.abs_of_rat hx
  obtain ⟨hb', hbneg, hbpos⟩ := FVal.abs_of_rat hy
  rcases eq_or_ne m 0 with rfl | hm
  · obtain rfl : a = 0 := by simpa using ha
    have hdiv : FVal.div (.fin s 0 e) (.fin t n k) = .fin (s != t) 0 0 := by simp [FVal.div, hn]
    rw [hdiv, zero_div] at *
    exact FFmt.rounds_round h rm sat (by simp [FVal.rat]) hle
  · obtain ⟨c, htakes, hround⟩ := FFmt.exists_takes_round_div h hbits rm sat s t e k hm hn
    rw [show (m : ℚ) * 2 ^ e / (n * 2 ^ k) = |a / b| by rw [abs_div, ha, hb']] at htakes
    have hc : c ≤ f.maxCode := htakes.le_of_le (FFmt.greatest_eq h ▸ hle)
    rw [hround, if_pos hc]
    refine htakes.rounds h hc (fun hneg => ?_) (fun hpos => ?_)
    · rcases div_neg_iff.mp hneg with ⟨h1, h2⟩ | ⟨h1, h2⟩
      · rw [hapos h1, hbneg h2]; rfl
      · rw [haneg h1, hbpos h2]; rfl
    · rcases div_pos_iff.mp hpos with ⟨h1, h2⟩ | ⟨h1, h2⟩
      · rw [hapos h1, hbpos h2]; rfl
      · rw [haneg h1, hbneg h2]; rfl

/-- Magnitudes in the same order to every half of an integer round to the same integer. -/
theorem exists_roundsToInt_both (mode : RM) (s : Bool) {X Y : ℚ} (hX : 0 ≤ X)
    (hXY : ∀ j : Nat, (Y < (j : ℚ) / 2 ↔ X < (j : ℚ) / 2) ∧ (Y = (j : ℚ) / 2 ↔ X = (j : ℚ) / 2)) :
    ∃ k, RoundsToInt mode ((if s then -1 else 1) * X) k ∧ RoundsToInt mode ((if s then -1 else 1) * Y) k := by
  obtain ⟨a, ha⟩ : ∃ a, ⌊X⌋₊ = a := ⟨_, rfl⟩
  have hlo : (a : ℚ) ≤ X := ha ▸ Nat.floor_le hX
  have hhi : X < a + 1 := ha ▸ Nat.lt_floor_add_one X
  obtain ⟨hlt0, heq0⟩ := hXY (2 * a)
  obtain ⟨hlt1, heq1⟩ := hXY (2 * a + 1)
  obtain ⟨hlt2, -⟩ := hXY (2 * a + 2)
  push_cast at hlt0 heq0 hlt1 heq1 hlt2
  have hloY : (a : ℚ) ≤ Y := by
    by_contra h
    linarith [hlt0.mp (by linarith)]
  have hhiY : Y < a + 1 := by linarith [hlt2.mpr (by linarith)]
  have hself : Y = a ↔ X = a := by
    rw [show (a : ℚ) = 2 * a / 2 by ring]
    exact heq0
  have htie : 2 * Y = a + (a + 1) ↔ 2 * X = a + (a + 1) := by
    rw [show 2 * Y = a + (a + 1) ↔ Y = (2 * a + 1) / 2 by constructor <;> intro h <;> linarith, heq1]
    constructor <;> intro h <;> linarith
  have hmid : (a : ℚ) + (a + 1) < 2 * Y ↔ (a : ℚ) + (a + 1) < 2 * X := by
    have hY : (a : ℚ) + (a + 1) < 2 * Y ↔ ¬ Y < (2 * a + 1) / 2 ∧ ¬ Y = (2 * a + 1) / 2 := by grind
    have hX : (a : ℚ) + (a + 1) < 2 * X ↔ ¬ X < (2 * a + 1) / 2 ∧ ¬ X = (2 * a + 1) / 2 := by grind
    rw [hY, hX, hlt1, heq1]
  refine ⟨_, RM.roundsToInt_up mode s hlo hhi rfl rfl, RM.roundsToInt_up mode s hloY hhiY rfl ?_⟩
  rw [RM.up_congr mode s _ hself.symm hmid.symm htie.symm]

/-- The integer that a mode names is next to the value. -/
theorem RoundsToInt.dist {mode : RM} {x : ℚ} {k : Int} (h : RoundsToInt mode x k) : |(k : ℚ) - x| ≤ 1 := by
  cases mode with
  | rne => linarith [h.1]
  | rna => linarith [h.1]
  | rdn => exact abs_le.mpr ⟨by linarith [h.2], by linarith [h.1]⟩
  | rup => exact abs_le.mpr ⟨by linarith [h.1], by linarith [h.2]⟩
  | rtz | sr =>
    obtain ⟨hle, hlt, hsign⟩ := h
    rcases le_or_gt 0 x with hx | hx
    · rw [abs_of_nonneg hx] at hle hlt
      rcases lt_or_ge (k : ℚ) 0 with hk | hk
      · have hx0 : x = 0 := by nlinarith
        rw [abs_of_neg hk] at hle
        linarith
      · rw [abs_of_nonneg hk] at hle hlt
        exact abs_le.mpr ⟨by linarith, by linarith⟩
    · rw [abs_of_neg hx] at hle hlt
      rcases le_or_gt (k : ℚ) 0 with hk | hk
      · rw [abs_of_nonpos hk] at hle hlt
        exact abs_le.mpr ⟨by linarith, by linarith⟩
      · nlinarith

/-- The model's quotient rounds, within bounds, to the integer that the exact quotient rounds to. -/
theorem clamp_roundInt_div (mode : RM) (s p : Bool) {m n : Nat} (e k : Int) (hn : n ≠ 0) {x y : ℚ} (hx : FVal.rat (.fin s m e) = some x)
    (hy : FVal.rat (.fin p n k) = some y) {i lo hi : Int} (hlo : -2 ^ 70 ≤ lo) (hle : lo ≤ hi) (hhi : hi ≤ 2 ^ 70) (hi' : RoundsToInt mode (x / y) i) :
    ∃ t M d, FVal.div (.fin s m e) (.fin p n k) = .fin t M d ∧ max lo (min hi (roundInt mode t M d)) = max lo (min hi i) := by
  rw [FVal.rat_fin] at hx hy
  obtain rfl := Option.some.inj hx
  obtain rfl := Option.some.inj hy
  rcases eq_or_ne m 0 with rfl | hm
  · refine ⟨s != p, 0, 0, by simp [FVal.div, hn], ?_⟩
    have hzero : FVal.rat (.fin (s != p) 0 0) = some 0 := by simp [FVal.rat]
    rw [Nat.cast_zero, zero_mul, mul_zero, zero_div] at hi'
    rw [(roundsToInt_roundInt mode hzero).unique hi']
  obtain ⟨M, t, hdiv, hbig, horder⟩ := FVal.div_order s p e k hm hn
  refine ⟨s != p, M, t - 1, hdiv, ?_⟩
  have hr := roundsToInt_roundInt mode (FVal.rat_fin (s != p) M (t - 1))
  have hquot : (if s then -1 else 1) * ((m : ℚ) * 2 ^ e) / ((if p then -1 else 1) * (n * 2 ^ k))
      = (if (s != p) then -1 else 1) * ((m : ℚ) * 2 ^ e / (n * 2 ^ k)) := by
    cases s <;> cases p <;> simp [neg_div, div_neg]
  rw [hquot] at hi'
  set X := (m : ℚ) * 2 ^ e / (n * 2 ^ k)
  set Y := (M : ℚ) * 2 ^ (t - 1)
  rcases lt_or_ge t 0 with ht | ht
  · obtain ⟨d, hd⟩ := Int.le.dest (show t ≤ -1 by omega)
    have hhalf (j : Nat) : (j : ℚ) / 2 = (j * 2 ^ d : Nat) * 2 ^ t := by
      rw [show t = -1 - (d : Int) by omega, zpow_sub₀ (by norm_num), zpow_neg_one, zpow_natCast]
      push_cast
      field_simp
    obtain ⟨l, hl, hl'⟩ := exists_roundsToInt_both mode (s != p) (X := X) (Y := Y) (by positivity) (fun j => by
      rw [hhalf]
      exact horder _)
    rw [hr.unique hl', hi'.unique hl]
  · have hone : (1 : ℚ) ≤ 2 ^ t := one_le_zpow₀ (by norm_num) ht
    have hY : (2 : ℚ) ^ 79 ≤ Y := le_trans (by nlinarith) hbig
    have hX : (2 : ℚ) ^ 79 ≤ X := by
      have hnot : ¬ Y < ((2 ^ 79 : Nat) : ℚ) * 2 ^ t := not_lt.mpr (by exact_mod_cast hbig)
      have hge := not_lt.mp (fun h => hnot ((horder (2 ^ 79)).1.mpr h))
      push_cast at hge
      nlinarith
    have hdX := abs_le.mp hi'.dist
    have hdY := abs_le.mp hr.dist
    have h70 : (2 : ℚ) ^ 79 = 2 ^ 9 * 2 ^ 70 := by norm_num
    cases hs : (s != p)
    · simp only [hs, Bool.false_eq_true, if_false, one_mul] at hdX hdY
      have h1 : (2 : ℚ) ^ 70 ≤ i := by linarith [hdX.1]
      have h2 : (2 : ℚ) ^ 70 ≤ roundInt mode false M (t - 1) := by linarith [hdY.1]
      have h1' : (2 : Int) ^ 70 ≤ i := by exact_mod_cast h1
      have h2' : (2 : Int) ^ 70 ≤ roundInt mode false M (t - 1) := by exact_mod_cast h2
      omega
    · simp only [hs, if_true, neg_one_mul] at hdX hdY
      have h1 : (i : ℚ) ≤ -2 ^ 70 := by linarith [hdX.2]
      have h2 : (roundInt mode true M (t - 1) : ℚ) ≤ -2 ^ 70 := by linarith [hdY.2]
      have h1' : i ≤ -2 ^ 70 := by exact_mod_cast h1
      have h2' : roundInt mode true M (t - 1) ≤ -2 ^ 70 := by exact_mod_cast h2
      omega

/-- The formats that `TSTQ` writes, but for the integers, are floats of few mantissa bits. -/
theorem quantFmt_float {fmt : Nat} (h : quantFmt fmt = true) (h23 : fmt ≠ 23) : (fmtTy fmt).isFloat = true ∧ (fmtTy fmt).ffmt.mbits ≤ 78 := by
  have hfmt : fmt = 17 ∨ fmt = 18 ∨ fmt = 19 ∨ fmt = 20 ∨ fmt = 21 := by
    simp only [quantFmt, Bool.or_eq_true, beq_iff_eq, decide_eq_true_eq] at h
    omega
  rcases hfmt with rfl | rfl | rfl | rfl | rfl <;> decide

theorem isZero_iff_of_rat {v : FVal} {x : ℚ} (hx : v.rat = some x) : v.isZero = true ↔ x = 0 := by
  refine ⟨fun h => rat_of_isZero h hx, fun h => ?_⟩
  obtain ⟨s, m, e, rfl⟩ := FVal.exists_fin_of_rat hx
  obtain ⟨habs, -, -⟩ := FVal.abs_of_rat hx
  rw [h, abs_zero, eq_comm, mul_eq_zero, or_iff_left (by positivity)] at habs
  exact beq_iff_eq.mpr (by exact_mod_cast habs)

section QuantElem

variable {fmt : Nat} {rm : RM} {sc v : FVal} {p x : ℚ} (hp : sc.rat = some p) (hx : v.rat = some x)
include hp hx

omit hx in
theorem quantElem_of_zero (h0 : p = 0) : quantElem fmt rm sc v = 0 := by
  unfold quantElem
  rw [isNan_of_rat hp, (isZero_iff_of_rat hp).mpr h0]
  rfl

theorem quantElem_eq (h0 : p ≠ 0) : quantElem fmt rm sc v
    = conv (fmtTy fmt) (FVal.div v (if fmt = 23 then FVal.mul sc (.fin false 1 (-6)) else sc)) rm true true := by
  unfold quantElem
  have hz : sc.isZero = false := Bool.eq_false_iff.mpr (mt (isZero_iff_of_rat hp).mp h0)
  rw [isNan_of_rat hp, hz, isNan_of_rat hx]
  rfl

/-- An element divided by its block's scale rounds as the quotient of the numbers. -/
theorem rounds_quantElem (hf : quantFmt fmt = true) (h0 : p ≠ 0) (h23 : fmt ≠ 23) (hle : |x / p| ≤ (fmtTy fmt).ffmt.greatest) :
    (fmtTy fmt).ffmt.Rounds rm (x / p) (quantElem fmt rm sc v) := by
  obtain ⟨hfloat, hbits⟩ := quantFmt_float hf h23
  rw [quantElem_eq hp hx h0, conv_of_float hfloat, if_neg h23]
  exact FFmt.rounds_quotient (fmtTy fmt).proper hbits rm true hx hp h0 hle

/-- An element of MXINT8, in units of 1/64 of its block's scale. -/
theorem quantElem_int (h0 : p ≠ 0) (h23 : fmt = 23) {k : Int} (hk : RoundsToInt rm (x / (p / 64)) k) :
    (quantElem fmt rm sc v : Int) = max (-128) (min 127 k) % 256 := by
  subst h23
  have hp64 : (FVal.mul sc (.fin false 1 (-6))).rat = some (p / 64) := by
    have h := FVal.rat_mul hp (y := .fin false 1 (-6)) (b := 1 / 64) (by rw [FVal.rat_fin]; norm_num)
    rwa [mul_one_div] at h
  obtain ⟨s, m, e, rfl⟩ := FVal.exists_fin_of_rat hx
  obtain ⟨q, n, d, hq⟩ := FVal.exists_fin_of_rat hp64
  rw [quantElem_eq hp hx h0, if_pos rfl, hq]
  rw [hq] at hp64
  have hn : n ≠ 0 := FVal.mantissa_ne_zero hp64 (by positivity)
  obtain ⟨t, M, c, hdiv, hclamp⟩ := clamp_roundInt_div rm s q e d hn hx hp64 (lo := -128) (hi := 127) (by norm_num) (by norm_num) (by norm_num) hk
  have hty : fmtTy 23 = .i8 := by decide
  rw [hdiv, hty, conv_fin_of_int rfl, if_pos (.inl rfl), ← hclamp]
  rfl

end QuantElem

/-! ## The largest magnitude (spec/06 R208, R210) -/

theorem FVal.rat_maxNum {x y : FVal} {a b : ℚ} (hx : x.rat = some a) (hy : y.rat = some b) : (FVal.maxNum x y).rat = some (max a b) := by
  unfold FVal.maxNum
  rw [FVal.cmp_of_rat hx hy]
  rcases lt_trichotomy a b with h | rfl | h
  · rw [compare_lt_iff_lt.mpr h, max_eq_right h.le]
    exact hy
  · rw [compare_eq_iff_eq.mpr rfl, max_self]
    dsimp only
    split
    · exact hy
    · exact hx
  · rw [compare_gt_iff_gt.mpr h, max_eq_left h.le]
    exact hx

theorem rat_foldl_maxNum {v : List FVal} {a c : ℚ} {acc : FVal} (hacc : acc.rat = some c) (hle : c ≤ a)
    (hv : ∀ x ∈ v, ∃ y, x.rat = some y ∧ |y| ≤ a) (hmax : c = a ∨ ∃ x ∈ v, ∃ y, x.rat = some y ∧ |y| = a) :
    (v.foldl (fun a v => FVal.maxNum a v.abs) acc).rat = some a := by
  induction v generalizing acc c with
  | nil =>
    rcases hmax with rfl | ⟨x, hx, -⟩
    · exact hacc
    · cases hx
  | cons x r ih =>
    obtain ⟨y, hy, hya⟩ := hv x List.mem_cons_self
    refine ih (FVal.rat_maxNum hacc (FVal.rat_abs hy)) (max_le hle hya) (fun z hz => hv z (List.mem_cons_of_mem _ hz)) ?_
    rcases hmax with rfl | ⟨z, hz, w, hw, hwa⟩
    · exact .inl (max_eq_left hya)
    · rcases List.mem_cons.mp hz with rfl | hz
      · rw [hw] at hy
        obtain rfl := Option.some.inj hy
        exact .inl (by rw [hwa, max_eq_right hle])
      · exact .inr ⟨z, hz, w, hw, hwa⟩

theorem rat_maxAbs {v : List FVal} {a : ℚ} (hv : ∀ x ∈ v, ∃ y, x.rat = some y ∧ |y| ≤ a) (hmax : ∃ x ∈ v, ∃ y, x.rat = some y ∧ |y| = a) :
    (maxAbs v).rat = some a := by
  have hnan : v.any FVal.isNan = false := by
    rw [List.any_eq_false]
    intro x hx
    obtain ⟨y, hy, -⟩ := hv x hx
    rw [isNan_of_rat hy]
    exact Bool.false_ne_true
  obtain ⟨x, hx, y, hy, hya⟩ := hmax
  unfold maxAbs
  rw [hnan, if_neg Bool.false_ne_true]
  exact rat_foldl_maxNum rat_zero (hya ▸ abs_nonneg y) hv (.inr ⟨x, hx, y, hy, hya⟩)

/-- A finite element of a tile lies within the finite range of F32. -/
theorem tileVal_le_greatest {f : Forme} {l : Layout} {r k : Nat} {x : ℚ} (hx : (f.tileVal l r k).rat = some x) : |x| ≤ FFmt.f32.greatest := by
  have hfloat {t : FFmt} {n : Nat} (ht : t.Proper) (hle : t.greatest ≤ FFmt.f32.greatest) (h : (FVal.decode t n).rat = some x) :
      |x| ≤ FFmt.f32.greatest := by
    obtain ⟨c, hc, habs⟩ := FFmt.exists_code_of_rat ht h
    rw [habs]
    exact (t.mag_strictMono.monotone hc).trans (FFmt.greatest_eq ht ▸ hle)
  unfold Forme.tileVal Layout.ty at hx
  split_ifs at hx
  · exact hfloat CTy.f32.proper le_rfl hx
  · have hn := Nat.mod_lt (f.elem l r k) (show 0 < 2 ^ 32 by decide)
    change (FVal.ofInt (if _ then ((f.elem l r k % 2 ^ 32 : Nat) : Int) - 2 ^ 32 else ((f.elem l r k % 2 ^ 32 : Nat) : Int))).rat = some x at hx
    rw [FVal.rat_ofInt] at hx
    obtain rfl := Option.some.inj hx
    have hbig : (2 : ℚ) ^ 32 ≤ FFmt.f32.greatest := by decide +kernel
    refine le_trans ?_ hbig
    rw [abs_le]
    split_ifs
    · constructor
      · have : -(2 : Int) ^ 32 ≤ ((f.elem l r k % 2 ^ 32 : Nat) : Int) - 2 ^ 32 := by omega
        exact_mod_cast this
      · have : ((f.elem l r k % 2 ^ 32 : Nat) : Int) - 2 ^ 32 ≤ 2 ^ 32 := by omega
        exact_mod_cast this
    · constructor
      · have : -(2 : Int) ^ 32 ≤ ((f.elem l r k % 2 ^ 32 : Nat) : Int) := by omega
        exact_mod_cast this
      · have : ((f.elem l r k % 2 ^ 32 : Nat) : Int) ≤ 2 ^ 32 := by omega
        exact_mod_cast this
  · exact hfloat CTy.f16.proper (by decide +kernel) hx
  · exact hfloat CTy.bf16.proper (by decide +kernel) hx

end Sys2Proof

namespace Sys2Proof.Machine

/-! ## `TAMAX` (spec/06 R210) -/

/-- A tile's values, row by row. -/
theorem mem_tileVals {f : Forme} {l : Layout} {v : FVal} :
    v ∈ (List.range l.rows).flatMap (fun r => (List.range l.cols).map (fun c => f.tileVal l r c))
      ↔ ∃ r k, r < l.rows ∧ k < l.cols ∧ f.tileVal l r k = v := by
  simp only [List.mem_flatMap, List.mem_map, List.mem_range]
  exact ⟨fun ⟨r, hr, k, hk, h⟩ => ⟨r, k, hr, hk, h⟩, fun ⟨r, k, hr, hk, h⟩ => ⟨r, hr, k, hk, h⟩⟩

theorem Forme.tileMax_of_nan {f : Forme} {l : Layout} (h : ∃ r k, r < l.rows ∧ k < l.cols ∧ (f.tileVal l r k).isNan = true) :
    f.tileMax l = 0x7FC00000 := by
  obtain ⟨r, k, hr, hk, hnan⟩ := h
  unfold Forme.tileMax maxAbs
  rw [if_pos (List.any_eq_true.mpr ⟨_, mem_tileVals.mpr ⟨r, k, hr, hk, rfl⟩, hnan⟩)]
  decide

/-- Of a tile of finite values, the largest magnitude is one of them, rounded up. -/
theorem Forme.rounds_tileMax {f : Forme} {l : Layout} (hrows : 0 < l.rows) (hcols : 0 < l.cols) {x : Nat → Nat → ℚ}
    (hx : ∀ r k, r < l.rows → k < l.cols → (f.tileVal l r k).rat = some (x r k)) :
    ∃ r k, r < l.rows ∧ k < l.cols ∧ (∀ i j, i < l.rows → j < l.cols → |x i j| ≤ |x r k|) ∧ FFmt.f32.Rounds .rup |x r k| (f.tileMax l) := by
  obtain ⟨⟨r, k⟩, hmem, hmax⟩ := (Finset.range l.rows ×ˢ Finset.range l.cols).exists_max_image (fun p => |x p.1 p.2|)
    ⟨(0, 0), by simp [hrows, hcols]⟩
  simp only [Finset.mem_product, Finset.mem_range, Prod.forall] at hmem hmax
  obtain ⟨hr, hk⟩ := hmem
  have hrat : (maxAbs ((List.range l.rows).flatMap (fun r => (List.range l.cols).map (fun c => f.tileVal l r c)))).rat = some |x r k| := by
    refine rat_maxAbs (fun v hv => ?_) ⟨_, mem_tileVals.mpr ⟨r, k, hr, hk, rfl⟩, x r k, hx r k hr hk, rfl⟩
    obtain ⟨i, j, hi, hj, rfl⟩ := mem_tileVals.mp hv
    exact ⟨x i j, hx i j hi hj, hmax i j ⟨hi, hj⟩⟩
  refine ⟨r, k, hr, hk, fun i j hi hj => hmax i j ⟨hi, hj⟩, FFmt.rounds_of_rat CTy.f32.proper .rup hrat ?_⟩
  rw [abs_abs]
  exact tileVal_le_greatest (hx r k hr hk)

/-- A register delivered is awaited no more. -/
theorem Slug.not_mem_pendingG_deliverG (m : Slug) (n : Nat) (x : Word) : BitVec.ofNat 8 (0x80 + n) ∉ (m.deliverG n x).pendingG := by
  have hheard : BitVec.ofNat 8 (0x80 + n) ∉ (m.heard n).pendingG := by
    unfold Slug.heard
    simp
  unfold Slug.deliverG
  dsimp only
  split
  · exact hheard
  · split
    · exact hheard
    · rwa [Slug.writeG_pendingG]

theorem Slug.regsBut_heard (m : Slug) (n : Nat) : m.RegsBut (m.heard n) [] :=
  ⟨fun _ _ => rfl, fun _ _ => rfl, fun _ _ => rfl, fun _ _ => rfl, fun _ => rfl⟩

/-- Outside a handler the register is written. -/
theorem Slug.deliverG_of_free {m : Slug} {n : Nat} (h : m.hnd = none) (hn : n ≠ 0) (x : Word) :
    m.deliverG n x = (m.heard n).writeG n x := by
  have hh : (m.heard n).hnd = none := h
  simp only [Slug.deliverG, if_neg hn, hh]

/-- While the handler runs, the register waits in the stash. -/
theorem Slug.deliverG_of_handling {m : Slug} {n : Nat} {h : Handling} (hh : m.hnd = some h) (hn : n ≠ 0) (x : Word) :
    m.deliverG n x = { m.heard n with hnd := some { h with stashG := h.stashG.put n x } } := by
  have hh' : (m.heard n).hnd = some h := hh
  simp only [Slug.deliverG, if_neg hn, hh']

theorem Slug.readG_deliverG {m : Slug} {n : Nat} (h : m.hnd = none) (hn : n ≠ 0) (x : Word) :
    (m.deliverG n x).readG n = x ∧ m.RegsBut (m.deliverG n x) [.g n] := by
  rw [Slug.deliverG_of_free h hn]
  refine ⟨by rw [Slug.readG_writeG, if_pos ⟨rfl, hn⟩], ?_⟩
  exact (m.regsBut_heard n).append ((m.heard n).regsBut_writeG n x)

section Tamax

variable {s : State} {fk : Nat} {e : MqEntry} {rest : List MqEntry} (hd : s.Head fk e rest)
include hd

/-- A `TAMAX` that may deliver its register changes its issuer alone. -/
theorem exec_tamax (ho : e.opc = 0x12F) (hv : ((s.forme fk).layout e.tile).valid = true) {x : Word}
    (hx : x = BitVec.ofNat 64 ((s.forme fk).tileMax ((s.forme fk).layout e.tile))) (hpin : s.pinHolds e.issuer e.slug e.tile2 x = false) :
    ∃ t, exec .matrixQueueExecute s = .next t ∧ (t.forme fk).mq = rest ∧ s.BytesAs t ∧ s.SlugsAs t e.issuer e.slug
      ∧ t.slug e.issuer e.slug = (s.slug e.issuer e.slug).deliverG e.tile2 x := by
  let u := s.modSlug e.issuer e.slug (fun m => m.deliverG e.tile2 x)
  have hout : s.OutsideAs u e.issuer e.slug := State.outsideAs_modSlug _ _ _ _
  have hrun : s.runEntry (s.engine fk) e = (u, none, none) := by
    rw [s.runEntry_tamax fk ho]
    dsimp only
    rw [← hx, hv, hpin]
    rfl
  have hslug (i j : Nat) : (u.finishRun fk e none none).slug i j = u.slug i j := State.slug_modForme_of_slugs rfl i j
  refine ⟨_, exec_matrixQueueExecute hd hrun rfl, ?_, hout.bytes.trans (u.bytesAs_modForme rfl rfl), hout.slugs.trans (fun i j _ => hslug i j), ?_⟩
  · rw [State.finishRun, State.forme_modForme]
    show (u.forme fk).mq.drop 1 = rest
    rw [hout.forme Forme.mq, hd.queue, List.drop_one, List.tail_cons]
  · rw [hslug, State.slug_modSlug]

end Tamax

/-! ## Tile moves (spec/06 R206 to R208) -/

section MoveReady

variable {s : State} {g : Eng} {o : Operand} {l : Layout} {d : Shape} {base : Nat} {ok : Region → Bool} {q : Region}

/-- What a tile move checks before its first block, on a tile that is large enough and a region it may use. -/
theorem State.moveReady_ok (hv : l.valid = true) (hm : d.m ≤ l.rows) (hn : d.n ≤ l.cols) (hq : s.engRegion g o base = (s, .ok q)) (hok : ok q = true)
    (hst : rowBytes q.fmt d.n ≤ d.sa) : s.moveReady g o l d base ok = (s, .ok q) := by
  have hgood : (!l.valid || decide (l.rows < d.m ∨ l.cols < d.n)) = false := by simp [hv, hm, hn]
  rw [State.moveReady, mStopIf_false hgood, mRes_then_ok, hq, mRes_then_ok, mStopIf_false (by rw [hok]; rfl), mRes_then_ok,
    mStopIf_false (decide_eq_false (Nat.not_lt.mpr hst)), mRes_then_ok]

end MoveReady

/-- A run whose checks pass and whose blocks all run. -/
theorem inBlocks_ok {α : Type} {s u : State} {q : α} {x : MRes α} {n : Nat} {F : α → State → Nat → MRes Unit} (hx : x = (s, .ok q))
    (hF : blocksFrom (F q) n 0 s = (u, n, none)) : inBlocks x 0 n F = (u, some n, none) := by
  rw [hx]
  unfold inBlocks
  simp only [Nat.sub_zero, hF]

/-- What a load puts into an element. -/
def MqEntry.loaded (e : MqEntry) (l : Layout) (q : Region) (row : Row) (c : Nat) : Nat :=
  if moves l q.fmt then row.raw.getD c 0 else conv l.ty (row.vals.getD c .zero) e.rm e.sat (fmtFloat q.fmt)

/-- A row block of a load. -/
def State.loadBlock (u : State) (g : Eng) (e : MqEntry) (l : Layout) (q : Region) (b : Nat) : MRes Unit :=
  (mEach (fun u i => u.engReadRow g { win := e.opc == 0x124, op := 1 } false q.fmt q.geo (rowAt e.a.toNat (shapeOf e.x).sa (8 * b + i)) (shapeOf e.x).n)
    u (List.range 8)).then (fun u rs =>
      (u.modForme g.fk (fun f => f.putBlock l b (shapeOf e.x).n (fun i c => e.loaded l q (rs.getD (i % 8) {}) c)), .ok ()))

theorem State.runEntry_load (s : State) (fk : Nat) {e : MqEntry} (h : e.opc = 0x122 ∨ e.opc = 0x124) :
    s.runEntry (s.engine fk) e = inBlocks (s.moveReady (s.engine fk) { win := e.opc == 0x124, op := 1 } ((s.forme fk).layout e.tile) (shapeOf e.x) e.a.toNat
      (fun r => decide (r.fmt ≤ 16))) e.done ((shapeOf e.x).m / 8) (fun q u b => u.loadBlock (s.engine fk) e ((s.forme fk).layout e.tile) q b) := by
  have hload : s.runEntry (s.engine fk) e = s.runLoad (s.engine fk) e := by
    rcases h with h | h
    all_goals
      simp only [State.runEntry, h]
      rfl
  rw [hload]
  rfl

/-- A load of rows that can be read. -/
theorem exec_of_loads {s : State} {fk : Nat} {e : MqEntry} {rest : List MqEntry} {q : Region} {rows : Nat → Row} {l : Layout} (hd : s.Head fk e rest)
    (ho : e.opc = 0x122 ∨ e.opc = 0x124) (hl : l = (s.forme fk).layout e.tile) (hcols : (shapeOf e.x).n ≤ l.cols)
    (hready : s.moveReady (s.engine fk) { win := e.opc == 0x124, op := 1 } l (shapeOf e.x) e.a.toNat (fun r => decide (r.fmt ≤ 16)) = (s, .ok q))
    (hrows : ∀ u r, s.AccOnly u fk → r < (shapeOf e.x).m →
      u.engReadRow (s.engine fk) { win := e.opc == 0x124, op := 1 } false q.fmt q.geo (rowAt e.a.toNat (shapeOf e.x).sa r) (shapeOf e.x).n = (u, .ok (rows r))) :
    ∃ t, (exec .matrixQueueExecute s = .next t ∧ s.Ran t fk rest (some ((shapeOf e.x).m / 8)))
      ∧ (s.forme fk).TilePut (t.forme fk) l (shapeOf e.x).m (shapeOf e.x).n (fun r c => e.loaded l q (rows r) c) := by
  obtain ⟨hdone, -, -⟩ := hd.fresh
  have h8 : 8 * ((shapeOf e.x).m / 8) = (shapeOf e.x).m := Nat.mul_div_cancel' (Dvd.intro _ rfl)
  obtain ⟨u, hblocks, hacc, hput⟩ := blocksFrom_tilePut (s := s) (fk := fk) (m := (shapeOf e.x).m / 8) (x := fun r c => e.loaded l q (rows r) c) hcols
    (F := fun v b => v.loadBlock (s.engine fk) e l q b)
    (fun u b hu hput hb => by
      refine ⟨fun _ i c => e.loaded l q (((List.range 8).map (fun i => rows (8 * b + i))).getD (i % 8) {}) c, ?_, fun r k hlo hhi hk => ?_⟩
      · rw [State.loadBlock, mEach_ok (g := fun i => rows (8 * b + i)) (fun i hi => hrows u _ hu (by have := List.mem_range.mp hi; omega)), mRes_then_ok]
        rfl
      · have hmod : r % 8 < 8 := Nat.mod_lt _ (by decide)
        simp only [List.getD_eq_getElem?_getD, List.getElem?_map, List.getElem?_range hmod, Option.map_some, Option.getD_some]
        rw [show 8 * b + r % 8 = r by omega])
  rw [h8] at hput
  have hrun : s.runEntry (s.engine fk) e = (u, some ((shapeOf e.x).m / 8), none) := by
    rw [s.runEntry_load fk ho, ← hl, hdone]
    exact inBlocks_ok hready hblocks
  obtain ⟨t, hexec, -, htile⟩ := exec_of_tilePut hd hrun hacc hput
  exact ⟨t, hexec, htile⟩

end Sys2Proof.Machine

namespace Sys2Proof.Machine

/-! ## Writes to the scratchpad where no transaction is open and no slug sleeps (spec/07 R235) -/

/-- States that differ in scratchpad bytes alone, without an open transaction in the second. -/
structure State.SpadOnly (s u : State) : Prop where
  device : { u with formes := s.formes } = s
  formes : ∀ k, { u.forme k with scratch := (s.forme k).scratch, slugs := (s.forme k).slugs } = s.forme k
  slugs : ∀ k j, u.slug k j = s.slug k j
  txs : u.txs = []

theorem State.SpadOnly.refl {s : State} (h : s.txs = []) : s.SpadOnly s := ⟨rfl, fun _ => rfl, fun _ _ => rfl, h⟩

section SpadOnly

variable {s u : State} (h : s.SpadOnly u)
include h

theorem State.SpadOnly.forme {α : Type} (g : Forme → α)
    (hg : ∀ (f : Forme) (x : Sparse Byte) (y : Sparse Slug), g { f with scratch := x, slugs := y } = g f := by intros; rfl) (k : Nat) :
    g (u.forme k) = g (s.forme k) :=
  (hg _ _ _).symm.trans (congrArg g (h.formes k))

theorem State.SpadOnly.held : u.held = s.held := (congrArg State.held h.device :)

theorem State.SpadOnly.dram : u.dram = s.dram := (congrArg State.dram h.device :)

theorem State.SpadOnly.launch (n : Nat) : u.launch n = s.launch n := (congrArg (fun v : State => v.launch n) h.device :)

theorem State.SpadOnly.quiet (q : s.Quiet) : u.Quiet := fun k j => by rw [h.slugs]; exact q k j

/-- The segments and the size of a forme's part. -/
theorem State.SpadOnly.launchOf (k : Nat) : u.launch (u.forme k).launch = s.launch (s.forme k).launch := by
  rw [h.forme Forme.launch, h.launch]

theorem State.SpadOnly.spadSize (k : Nat) : u.spadSize k = s.spadSize k := by
  rw [State.spadSize, h.launchOf, State.spadSize]

theorem State.SpadOnly.window (fk a n : Nat) : u.window fk a n = s.window fk a n := by
  unfold State.window
  simp only [h.forme Forme.pidx, h.forme Forme.pw, h.forme Forme.ph, h.spadSize]

theorem State.SpadOnly.inWindow {fk a n k o : Nat} (hw : s.InWindow fk a n k o) : u.InWindow fk a n k o := by
  unfold State.InWindow at *
  simp only [h.forme Forme.pidx, h.forme Forme.pw, h.forme Forme.ph, h.spadSize]
  exact hw

/-- Bytes of one line put into a forme's part. -/
theorem State.SpadOnly.spadSet (q : s.Quiet) (l : LineRef) (o : Nat) (bs : List Byte) : s.SpadOnly (u.spadSet l o bs)
    ∧ ∀ k, ((u.spadSet l o bs).forme k).scratch = if k = l.fk then (u.forme k).scratch.putBytes o bs else (u.forme k).scratch := by
  let v := u.modForme l.fk (fun f => { f with scratch := f.scratch.putBytes o bs })
  have heq : u.spadSet l o bs = v.fireLine l := by
    rw [State.spadSet, State.abortTrackers_of_txs h.txs]
  have hslug (k j : Nat) : v.slug k j = u.slug k j := State.slug_modForme_of_slugs rfl k j
  have hmem := v.keeps_fireLine l (fun k j => by rw [hslug]; exact h.quiet q k j)
  have hforme (k : Nat) : v.forme k = if k = l.fk then { u.forme k with scratch := (u.forme k).scratch.putBytes o bs } else u.forme k := by
    split
    · rename_i hk
      rw [hk]
      exact State.forme_modForme _ _ _
    · exact State.forme_modForme_ne _ _ (by assumption)
  rw [heq]
  refine ⟨⟨h.device, fun k => ?_, fun k j => ?_, State.txs_fireWhere (State.txs_modForme h.txs rfl) _⟩, fun k => ?_⟩
  · have hfire := congrArg (fun f : Forme => { f with scratch := (s.forme k).scratch, slugs := (s.forme k).slugs }) (hmem.formes k)
    refine Eq.trans hfire (Eq.trans ?_ (h.formes k))
    rw [hforme]
    split <;> rfl
  · rw [hmem.slugs, hslug, h.slugs]
  · have hfire : ((v.fireLine l).forme k).scratch = (v.forme k).scratch := (congrArg Forme.scratch (hmem.formes k) :)
    rw [hfire, hforme]
    split <;> rfl

theorem State.SpadOnly.spadPut (q : s.Quiet) (l : LineRef) (o : Nat) (bs : List Byte) : s.SpadOnly (u.spadPut l o bs)
    ∧ ∀ k, ((u.spadPut l o bs).forme k).scratch = if k = l.fk then (u.forme k).scratch.putBytes o bs else (u.forme k).scratch := by
  rw [State.spadPut, State.heldLine_of_txs h.txs, if_neg Bool.false_ne_true]
  exact h.spadSet q l o bs

end SpadOnly

/-- The part of a write that lies in a line. -/
def linePart (o : Nat) (bs : List Byte) (line : Nat) : List Byte :=
  (bs.drop (max o (line * 128) - o)).take (min (o + bs.length) ((line + 1) * 128) - max o (line * 128))

theorem look_linePart (m : Sparse Byte) (o : Nat) (bs : List Byte) (line a : Nat) :
    (m.putBytes (max o (line * 128)) (linePart o bs line)).look a
      = if o ≤ a ∧ a < o + bs.length ∧ line * 128 ≤ a ∧ a < (line + 1) * 128 then bs.getD (a - o) 0 else m.look a := by
  have hlen : (linePart o bs line).length = min (o + bs.length) ((line + 1) * 128) - max o (line * 128) := by
    rw [linePart, List.length_take, List.length_drop]
    omega
  rw [Sparse.look_putBytes, hlen]
  by_cases h : o ≤ a ∧ a < o + bs.length ∧ line * 128 ≤ a ∧ a < (line + 1) * 128
  · rw [if_pos h, if_pos (by omega), linePart]
    have hidx : max o (line * 128) - o + (a - max o (line * 128)) = a - o := by omega
    simp only [List.getD_eq_getElem?_getD]
    rw [List.getElem?_take_of_lt (by omega), List.getElem?_drop, hidx]
  · rw [if_neg h, if_neg (by omega)]

/-- Bytes written, line by line, are bytes put. -/
theorem State.SpadOnly.spadWrite {s u : State} (h : s.SpadOnly u) (q : s.Quiet) (k o : Nat) (bs : List Byte) : s.SpadOnly (u.spadWrite k o bs)
    ∧ (∀ a, ((u.spadWrite k o bs).forme k).scratch.look a = ((u.forme k).scratch.putBytes o bs).look a)
    ∧ ∀ j, j ≠ k → ((u.spadWrite k o bs).forme j).scratch = (u.forme j).scratch := by
  let step (v : State) (i : Nat) : State :=
    v.spadPut { sp := true, fk := k, line := i + o / 128 } (max o ((i + o / 128) * 128)) (linePart o bs (i + o / 128))
  have hrange (m : Nat) : s.SpadOnly ((List.range m).foldl step u)
      ∧ (∀ a, (((List.range m).foldl step u).forme k).scratch.look a
        = if o ≤ a ∧ a < o + bs.length ∧ a < (m + o / 128) * 128 then bs.getD (a - o) 0 else (u.forme k).scratch.look a)
      ∧ ∀ j, j ≠ k → (((List.range m).foldl step u).forme j).scratch = (u.forme j).scratch := by
    induction m with
    | zero => exact ⟨h, fun a => (if_neg (by omega)).symm, fun _ _ => rfl⟩
    | succ m ih =>
      obtain ⟨hv, hlook, hothers⟩ := ih
      rw [List.range_succ, List.foldl_append, List.foldl_cons, List.foldl_nil]
      obtain ⟨hnext, hscratch⟩ := hv.spadPut q { sp := true, fk := k, line := m + o / 128 } (max o ((m + o / 128) * 128)) (linePart o bs (m + o / 128))
      refine ⟨hnext, fun a => ?_, fun j hj => ?_⟩
      · rw [hscratch, if_pos rfl, look_linePart, hlook]
        by_cases h1 : o ≤ a ∧ a < o + bs.length ∧ (m + o / 128) * 128 ≤ a ∧ a < (m + o / 128 + 1) * 128
        · rw [if_pos h1, if_pos (by omega)]
        · rw [if_neg h1]
          by_cases h2 : o ≤ a ∧ a < o + bs.length ∧ a < (m + o / 128) * 128
          · rw [if_pos h2, if_pos (by omega)]
          · rw [if_neg h2, if_neg (by omega)]
      · rw [hscratch, if_neg hj, hothers j hj]
  by_cases hn : bs.length = 0
  · obtain rfl : bs = [] := List.length_eq_zero_iff.mp hn
    exact ⟨h, fun a => rfl, fun j _ => rfl⟩
  · have heq : u.spadWrite k o bs = (List.range ((o + bs.length - 1) / 128 - o / 128 + 1)).foldl step u := by
      simp only [State.spadWrite, spadLines, linesOf, if_neg hn, List.foldl_map]
      rfl
    obtain ⟨hv, hlook, hothers⟩ := hrange ((o + bs.length - 1) / 128 - o / 128 + 1)
    rw [heq]
    refine ⟨hv, fun a => ?_, hothers⟩
    rw [hlook, Sparse.look_putBytes]
    by_cases hin : o ≤ a ∧ a < o + bs.length
    · rw [if_pos hin, if_pos (by omega)]
    · rw [if_neg hin, if_neg (by omega)]

/-! ## Several writes, one after the other -/

/-- A memory with byte strings put, each from its index. -/
def Sparse.putAll (m : Sparse Byte) (ws : List (Nat × List Byte)) : Sparse Byte := ws.foldl (fun m w => m.putBytes w.1 w.2) m

theorem Sparse.look_putAll {m : Sparse Byte} {ws : List (Nat × List Byte)} {a : Nat} (h : ∀ w ∈ ws, ¬(w.1 ≤ a ∧ a < w.1 + w.2.length)) :
    (Sparse.putAll m ws).look a = m.look a := by
  induction ws generalizing m with
  | nil => rfl
  | cons w ws ih =>
    refine (ih (m := m.putBytes w.1 w.2) (fun v hv => h v (List.mem_cons_of_mem _ hv))).trans ?_
    rw [Sparse.look_putBytes, if_neg (h w List.mem_cons_self)]

/-- Of writes that are equal or share no byte, each is found again. -/
theorem Sparse.look_putAll_mem {m : Sparse Byte} {ws : List (Nat × List Byte)} {w : Nat × List Byte} (hw : w ∈ ws)
    (h : ∀ v ∈ ws, v = w ∨ v.1 + v.2.length ≤ w.1 ∨ w.1 + w.2.length ≤ v.1) {i : Nat} (hi : i < w.2.length) :
    (Sparse.putAll m ws).look (w.1 + i) = w.2.getD i 0 := by
  induction ws generalizing m with
  | nil => cases hw
  | cons v ws ih =>
    have hrest : ∀ x ∈ ws, x = w ∨ x.1 + x.2.length ≤ w.1 ∨ w.1 + w.2.length ≤ x.1 := fun x hx => h x (List.mem_cons_of_mem _ hx)
    by_cases hin : w ∈ ws
    · exact ih (m := m.putBytes v.1 v.2) hin hrest
    · obtain rfl : w = v := (List.mem_cons.mp hw).resolve_right hin
      refine (Sparse.look_putAll (m := m.putBytes w.1 w.2) (fun x hx => ?_)).trans ?_
      · rcases hrest x hx with rfl | hd | hd
        · exact absurd hx hin
        · omega
        · omega
      · rw [Sparse.look_putBytes, if_pos ⟨Nat.le_add_right _ _, by omega⟩, Nat.add_sub_cancel_left]

/-- Scratchpad writes have been made to a forme's part. -/
structure State.SpadPut (s u : State) (k : Nat) (ws : List (Nat × List Byte)) : Prop where
  only : s.SpadOnly u
  bytes : ∀ a, (u.forme k).scratch.look a = (Sparse.putAll (s.forme k).scratch ws).look a
  others : ∀ j a, j ≠ k → (u.forme j).scratch.look a = (s.forme j).scratch.look a

theorem State.SpadPut.foldl {s u : State} {k : Nat} {ws : List (Nat × List Byte)} (h : s.SpadPut u k ws) (q : s.Quiet) (vs : List (Nat × List Byte)) :
    s.SpadPut (vs.foldl (fun u w => u.spadWrite k w.1 w.2) u) k (ws ++ vs) := by
  induction vs generalizing u ws with
  | nil => rwa [List.append_nil]
  | cons w vs ih =>
    obtain ⟨honly, hbytes, hothers⟩ := h
    obtain ⟨hnext, hlook, hrest⟩ := honly.spadWrite q k w.1 w.2
    rw [List.foldl_cons, show ws ++ w :: vs = (ws ++ [w]) ++ vs by simp]
    refine ih ⟨hnext, fun a => ?_, fun j a hj => ?_⟩
    · rw [hlook, Sparse.putAll, List.foldl_append, List.foldl_cons, List.foldl_nil, Sparse.look_putBytes, Sparse.look_putBytes, hbytes]
      rfl
    · rw [hrest j hj, hothers j a hj]

/-- Row blocks each of which makes the writes of its rows. -/
theorem blocksFrom_spadPut {s : State} {k m : Nat} {F : State → Nat → MRes Unit} {W : Nat → List (Nat × List Byte)} (hs : s.Undisturbed)
    (hF : ∀ u b, s.SpadOnly u → b < m → ∃ ws : List (Nat × List Byte), (∀ w, w ∈ ws ↔ ∃ r, 8 * b ≤ r ∧ r < 8 * b + 8 ∧ w ∈ W r)
      ∧ F u b = (ws.foldl (fun u w => u.spadWrite k w.1 w.2) u, .ok ())) :
    ∃ u ws, blocksFrom F m 0 s = (u, m, none) ∧ s.SpadPut u k ws ∧ ∀ w, w ∈ ws ↔ ∃ r, r < 8 * m ∧ w ∈ W r := by
  have hstep (c : Nat) : ∀ b u ws, b + c = m → s.SpadPut u k ws → (∀ w, w ∈ ws ↔ ∃ r, r < 8 * b ∧ w ∈ W r) →
      ∃ v vs, blocksFrom F c b u = (v, m, none) ∧ s.SpadPut v k vs ∧ ∀ w, w ∈ vs ↔ ∃ r, r < 8 * m ∧ w ∈ W r := by
    induction c with
    | zero =>
      rintro b u ws rfl hu hws
      exact ⟨u, ws, rfl, hu, hws⟩
    | succ c ih =>
      intro b u ws hb hu hws
      obtain ⟨vs, hvs, hFu⟩ := hF u b hu.only (by omega)
      obtain ⟨v, xs, hrun, hrest⟩ := ih (b + 1) _ (ws ++ vs) (by omega) (hu.foldl hs.quiet vs) (fun w => by
        rw [List.mem_append, hws, hvs]
        constructor
        · rintro (⟨r, hr, hw⟩ | ⟨r, -, hr, hw⟩)
          · exact ⟨r, by omega, hw⟩
          · exact ⟨r, by omega, hw⟩
        · rintro ⟨r, hr, hw⟩
          rcases lt_or_ge r (8 * b) with hlt | hge
          · exact .inl ⟨r, hlt, hw⟩
          · exact .inr ⟨r, hge, by omega, hw⟩)
      exact ⟨v, xs, by rw [blocksFrom, hFu]; exact hrun, hrest⟩
  exact hstep m 0 s [] (Nat.zero_add m) ⟨.refl hs.1, fun _ => rfl, fun _ _ _ => rfl⟩ (fun w => by simp)

/-- A run that has written to a forme's part. -/
theorem exec_of_spadPut {s u : State} {fk : Nat} {e : MqEntry} {rest : List MqEntry} {k : Nat} {ws : List (Nat × List Byte)} {n : Option Nat}
    (hd : s.Head fk e rest) (hrun : s.runEntry (s.engine fk) e = (u, n, none)) (hput : s.SpadPut u k ws) :
    ∃ t, (exec .matrixQueueExecute s = .next t ∧ s.Ran t fk rest n) ∧ (∀ j, (t.forme j).acc = (s.forme j).acc)
      ∧ (∀ a, (t.forme k).scratch.look a = (Sparse.putAll (s.forme k).scratch ws).look a)
      ∧ ∀ j a, j ≠ k → (t.forme j).scratch.look a = (s.forme j).scratch.look a := by
  have ho := hput.only
  have hran : s.Ran (u.finishRun fk e n none) fk rest n :=
    State.ran_finishRun hd (ho.forme Forme.mq (k := fk)) (ho.forme Forme.rowprog (k := fk)) ho.slugs (fun a => by rw [ho.dram])
      (fun i _ => ⟨ho.forme Forme.acc (k := i), ho.forme Forme.tiles (k := i)⟩)
  have hscratch (j : Nat) : ((u.finishRun fk e n none).forme j).scratch = (u.forme j).scratch :=
    State.forme_finishRun u fk e n none Forme.scratch (i := j)
  refine ⟨_, ⟨exec_matrixQueueExecute hd hrun ho.held, hran⟩, fun j => ?_, fun a => ?_, fun j a hj => ?_⟩
  · rw [State.forme_finishRun u fk e n none Forme.acc, ho.forme Forme.acc]
  · rw [hscratch, hput.bytes]
  · rw [hscratch, hput.others j a hj]

end Sys2Proof.Machine

namespace Sys2Proof.Machine

/-! ## Packed elements (spec/04 R106) -/

/-- Elements of a width as one number, the first lowest. -/
def packNum (w : Nat) (xs : List Nat) : Nat := xs.foldr (fun x n => x % 2 ^ w + 2 ^ w * n) 0

theorem packNum_lt (w : Nat) (xs : List Nat) : packNum w xs < 2 ^ (xs.length * w) := by
  induction xs with
  | nil => simp [packNum]
  | cons x xs ih =>
    have hx := Nat.mod_lt x (Nat.two_pow_pos w)
    have hmul : 2 ^ w * (packNum w xs + 1) ≤ 2 ^ w * 2 ^ (xs.length * w) := Nat.mul_le_mul_left _ ih
    rw [List.length_cons, Nat.add_mul, Nat.one_mul, pow_add, Nat.mul_comm (2 ^ (xs.length * w))]
    rw [Nat.mul_add, Nat.mul_one] at hmul
    show x % 2 ^ w + 2 ^ w * packNum w xs < _
    omega

theorem packNum_field (w : Nat) {xs : List Nat} {i : Nat} (hi : i < xs.length) :
    packNum w xs / 2 ^ (w * i) % 2 ^ w = xs.getD i 0 % 2 ^ w := by
  induction xs generalizing i with
  | nil => cases hi
  | cons x xs ih =>
    show (x % 2 ^ w + 2 ^ w * packNum w xs) / 2 ^ (w * i) % 2 ^ w = _
    cases i with
    | zero => rw [Nat.mul_zero, pow_zero, Nat.div_one, Nat.add_mul_mod_self_left, Nat.mod_mod, List.getD_cons_zero]
    | succ i =>
      have hx := Nat.mod_lt x (Nat.two_pow_pos w)
      rw [Nat.mul_succ, Nat.add_comm (w * i) w, pow_add, ← Nat.div_div_eq_div_mul, Nat.add_mul_div_left _ _ (Nat.two_pow_pos w), Nat.div_eq_of_lt hx,
        Nat.zero_add, ih (by simpa using hi), List.getD_cons_succ]

theorem packElems_eq (w : Nat) (xs : List Nat) : packElems w xs = bytesOf ((xs.length * w + 7) / 8) (packNum w xs) := rfl

theorem length_packElems (w : Nat) (xs : List Nat) : (packElems w xs).length = (xs.length * w + 7) / 8 := by
  rw [packElems_eq, length_bytesOf]

/-- An element of a packed row. -/
theorem field_packElems (w : Nat) {xs : List Nat} {i : Nat} (hi : i < xs.length) :
    natOf (packElems w xs) / 2 ^ (w * i) % 2 ^ w = xs.getD i 0 % 2 ^ w := by
  have hlt : packNum w xs < 256 ^ ((xs.length * w + 7) / 8) := by
    rw [show 256 = 2 ^ 8 from rfl, ← pow_mul]
    exact (packNum_lt w xs).trans_le (Nat.pow_le_pow_right (by decide) (by omega))
  rw [packElems_eq, natOf_bytesOf, Nat.mod_eq_of_lt hlt, packNum_field w hi]

/-- A conversion of the engine gives bits of the type's width. -/
theorem conv_lt (ty : CTy) (v : FVal) (rm : RM) (sat flt : Bool) : conv ty v rm sat flt < 2 ^ ty.width := by
  cases hf : ty.isFloat with
  | true =>
    have hwidth : 2 ^ ty.ffmt.pad * (2 * ty.ffmt.signBit) = 2 ^ ty.width := by
      revert hf; cases ty <;> decide
    rw [conv_of_float hf]
    exact hwidth ▸ FFmt.round_lt ty.proper rm sat v
  | false =>
    have hbits (i : Int) : (i % 2 ^ ty.width).toNat < 2 ^ ty.width := by
      have hpos : (0 : Int) < 2 ^ ty.width := by positivity
      have hlt := Int.emod_lt_of_pos i hpos
      have hcast : ((2 ^ ty.width : Nat) : Int) = 2 ^ ty.width := by push_cast; rfl
      have hnn := Int.emod_nonneg i hpos.ne'
      omega
    simp only [conv, hf, Bool.false_eq_true, if_false]
    cases v with
    | nan => positivity
    | inf s => exact hbits _
    | fin s m e => exact hbits _

theorem quantElem_lt (fmt : Nat) (rm : RM) (sc v : FVal) : quantElem fmt rm sc v < 2 ^ fmtWidth fmt := by
  unfold quantElem
  dsimp only
  split
  · exact conv_lt _ _ _ _ _
  · split
    · positivity
    · exact conv_lt _ _ _ _ _

/-! ## A destination in the pitch window (spec/06 R207, R208) -/

theorem Sparse.bytes_of_look {m : Sparse Byte} {x : Nat} {bs : List Byte} (h : ∀ i, i < bs.length → m.look (x + i) = bs.getD i 0) :
    m.bytes x bs.length = bs := by
  refine List.ext_getElem (by simp) fun i hi hi' => ?_
  rw [← List.getD_eq_getElem _ 0 hi, ← List.getD_eq_getElem _ 0 hi', Sparse.getD_bytes _ _ _ _ hi', h i hi']

/-- The writes of a block to the pitch window. -/
theorem State.engStore_eq {s u : State} {g : Eng} {k : Nat} (hu : s.SpadOnly u) (q : s.Quiet) {ws : List (Operand × Nat × List Byte)}
    (hw : ∀ w ∈ ws, w.1.win = true ∧ s.window g.fk w.2.1 w.2.2.length = .ok (k, w.2.1 % 2 ^ 21)) :
    u.engStore g ws = ((ws.map (fun w => (w.2.1 % 2 ^ 21, w.2.2))).foldl (fun v w => v.spadWrite k w.1 w.2) u, .ok ()) := by
  have hmay : mEach (fun v (w : Operand × Nat × List Byte) => v.engMayWrite g w.1 w.2.1 w.2.2.length) u ws = (u, .ok (ws.map (fun _ => ()))) := by
    refine mEach_ok fun w hmem => ?_
    obtain ⟨hwin, hwindow⟩ := hw w hmem
    simp only [State.engMayWrite, hwin, if_true, hu.window, hwindow]
  rw [State.engStore, hmay, mRes_then_ok]
  congr 1
  clear hmay
  induction ws generalizing u with
  | nil => rfl
  | cons w ws ih =>
    obtain ⟨hwin, hwindow⟩ := hw w List.mem_cons_self
    have hwrite : u.engWrite g w.1 w.2.1 w.2.2 = u.spadWrite k (w.2.1 % 2 ^ 21) w.2.2 := by
      simp only [State.engWrite, hwin, if_true, hu.window, hwindow]
    rw [List.foldl_cons, List.map_cons, List.foldl_cons, hwrite]
    exact ih (hu.spadWrite q k _ _).1 (fun v hv => hw v (List.mem_cons_of_mem _ hv))

/-- Rows of a stride that lie in one segment of a forme's part: `q` is the segment as the engine's addresses see it. -/
structure State.Dest (s : State) (fk a m st k o : Nat) (r q : Region) : Prop where
  win : s.InWindow fk a (m * st) k o
  seen : q = r.seen a o
  lo : r.base ≤ o
  hi : o + m * st ≤ r.base + r.size
  spad : r.base + r.size ≤ s.spadSize k
  le21 : r.base + r.size ≤ 2 ^ 21
  seg : ∀ i, i < r.size → (s.launch (s.forme k).launch).segAt (r.base + i) = r

section Dest

variable {s : State} {fk a m st k o i n : Nat} {r q : Region} (hd : s.Dest fk a m st k o r q) (hi : i < m) (hn : 0 < n) (hst : n ≤ st)
include hd hi hn hst

omit hn in
theorem State.Dest.room : o + i * st + n ≤ r.base + r.size := by
  have h1 := hd.hi
  have h2 : (i + 1) * st ≤ m * st := Nat.mul_le_mul_right st hi
  rw [Nat.succ_mul] at h2
  omega

/-- The address of a row, and the offset of its bytes. -/
theorem State.Dest.rowAt : rowAt a st i = a + i * st ∧ (a + i * st) / 2 ^ 21 = a / 2 ^ 21 ∧ (a + i * st) % 2 ^ 21 = o + i * st := by
  have hroom := hd.room hi hst
  obtain ⟨hlt, -, -, ho, -⟩ := hd.win
  have hle := hd.le21
  refine ⟨?_, ?_, ?_⟩
  · rw [Machine.rowAt, Nat.mod_eq_of_lt (by omega)]
  · omega
  · omega

theorem State.Dest.inWindow : s.InWindow fk (Machine.rowAt a st i) n k (o + i * st) := by
  obtain ⟨hrow, hdiv, hmod⟩ := hd.rowAt hi hn hst
  obtain ⟨hlt, hpart, hk, ho, hspad⟩ := hd.win
  have hroom := hd.room hi hst
  have hsz := hd.spad
  rw [hrow]
  exact ⟨by omega, by rw [hdiv]; exact hpart, by rw [hdiv]; exact hk, hmod.symm, by omega⟩

theorem State.Dest.seen_row : r.seen (Machine.rowAt a st i) (o + i * st) = q := by
  obtain ⟨hrow, -, -⟩ := hd.rowAt hi hn hst
  obtain ⟨-, -, -, ho, -⟩ := hd.win
  rw [hrow, hd.seen, Region.seen, Region.seen, show a + i * st - (o + i * st) = a - o by omega]

/-- The bytes of a row may be written. -/
theorem State.Dest.window_row : s.window fk (Machine.rowAt a st i) n = .ok (k, o + i * st) := by
  have hwin := hd.inWindow hi hn hst
  obtain ⟨hrow, -, hmod⟩ := hd.rowAt hi hn hst
  have hroom := hd.room hi hst
  have hsz := hd.spad
  rw [State.window_of_inWindow hwin (x := Machine.rowAt a st i) rfl (by rw [hrow, hmod]; omega), hrow, hmod]

end Dest

/-- The checks of a row that lies in its destination. -/
theorem State.Dest.engRow {s u : State} {g : Eng} {a m st k o i n op : Nat} {r q : Region} (hd : s.Dest g.fk a m st k o r q) (hu : s.SpadOnly u)
    (hi : i < m) (hn : 0 < rowBytes q.fmt n) (hst : rowBytes q.fmt n ≤ st)
    (halign : (o + i * st - r.base) % rowAlign q.fmt q.geo = 0)
    (hroom : hasBlocks q.fmt = true → 8 * (o + i * st - r.base) + n * fmtWidth q.fmt ≤ 7 * r.size) :
    u.engRow g { win := true, op := op } q.fmt q.geo (Machine.rowAt a st i) n = (u, .ok q) := by
  have hseen := hd.seen_row hi hn hst
  have hfmt : r.fmt = q.fmt ∧ r.geo = q.geo := by rw [hd.seen]; exact ⟨rfl, rfl⟩
  have hin := hd.room hi hst
  obtain ⟨hrow, -, -⟩ := hd.rowAt hi hn hst
  obtain ⟨-, -, -, ho, -⟩ := hd.win
  have hlo := hd.lo
  have hreg (x : Nat) (hx : Machine.rowAt a st i ≤ x) (hx' : x < Machine.rowAt a st i + rowBytes q.fmt n) :
      u.engRegion g { win := true, op := op } x = (u, .ok (r.seen (Machine.rowAt a st i) (o + i * st))) := by
    refine State.engRegion_of_inWindow (hu.inWindow (hd.inWindow hi hn hst)) hin hd.le21 (by rw [hu.spadSize]; exact hd.spad) (fun j hj => ?_) hx hx'
    rw [hu.launchOf, show o + i * st + j = r.base + (o + i * st + j - r.base) by omega]
    exact hd.seg _ (by omega)
  rw [State.engRow_eq hn hreg, if_pos hfmt, hseen]
  have hoff : Machine.rowAt a st i - q.base = o + i * st - r.base := by
    rw [hrow, hd.seen]
    show a + i * st - (a - o + r.base) = _
    omega
  rw [hoff, if_neg (not_not.mpr halign), if_neg]
  rw [Bool.and_eq_true, decide_eq_true_eq]
  rintro ⟨hb, hlt⟩
  exact absurd (hroom hb) (by omega)

end Sys2Proof.Machine

namespace Sys2Proof.Machine

/-! ## Stores of a tile's rows (spec/06 R207) -/

/-- The bits that a store writes for an element. -/
def MqEntry.stored (e : MqEntry) (l : Layout) (q : Region) (f : Forme) (r c : Nat) : Nat :=
  if moves l q.fmt then f.elem l r c else conv (fmtTy q.fmt) (f.tileVal l r c) e.rm e.sat l.flt

/-- The bytes of a row that a store writes. -/
def MqEntry.storedRow (e : MqEntry) (l : Layout) (q : Region) (f : Forme) (r : Nat) : List Byte :=
  packElems (fmtWidth q.fmt) ((List.range (shapeOf e.x).n).map (fun c => e.stored l q f r c))

/-- A row block of a store to the pitch window. -/
def State.storeBlock (u : State) (g : Eng) (e : MqEntry) (l : Layout) (q : Region) (b : Nat) : MRes Unit :=
  (mEach (fun u (x : Nat × Nat) => u.engRow g { win := true, op := 4 } q.fmt q.geo x.2 (shapeOf e.x).n) u
    ((List.range 8).map (fun i => (8 * b + i, rowAt e.b.toNat (shapeOf e.x).sa (8 * b + i))))).then (fun v _ =>
      v.engStore g (((List.range 8).map (fun i => (8 * b + i, rowAt e.b.toNat (shapeOf e.x).sa (8 * b + i)))).map (fun x =>
        (({ win := true, op := 4 } : Operand), x.2, e.storedRow l q (u.forme g.fk) x.1))))

theorem State.runEntry_tsts (s : State) (fk : Nat) {e : MqEntry} (h : e.opc = 0x125) :
    s.runEntry (s.engine fk) e = inBlocks (s.moveReady (s.engine fk) { win := true, op := 4 } ((s.forme fk).layout e.tile) (shapeOf e.x) e.b.toNat
      (fun r => decide (r.fmt ≤ 16) && r.fmt != 10)) e.done ((shapeOf e.x).m / 8)
      (fun q u b => u.storeBlock (s.engine fk) e ((s.forme fk).layout e.tile) q b) := by
  simp only [State.runEntry, State.runStore, h]
  rfl

/-- Elements are read from accumulator memory alone. -/
theorem Forme.elem_of_acc {f f' : Forme} (h : f'.acc = f.acc) (l : Layout) (r c : Nat) : f'.elem l r c = f.elem l r c := by
  rw [Forme.elem, h, Forme.elem]

theorem Forme.tileVal_of_acc {f f' : Forme} (h : f'.acc = f.acc) (l : Layout) (r c : Nat) : f'.tileVal l r c = f.tileVal l r c := by
  rw [Forme.tileVal, Forme.elem_of_acc h, Forme.tileVal]

theorem MqEntry.storedRow_of_acc {f f' : Forme} (h : f'.acc = f.acc) (e : MqEntry) (l : Layout) (q : Region) (r : Nat) :
    e.storedRow l q f' r = e.storedRow l q f r := by
  simp only [MqEntry.storedRow, MqEntry.stored, Forme.elem_of_acc h, Forme.tileVal_of_acc h]

theorem MqEntry.length_storedRow (e : MqEntry) (l : Layout) (q : Region) (f : Forme) (r : Nat) :
    (e.storedRow l q f r).length = rowBytes q.fmt (shapeOf e.x).n := by
  rw [MqEntry.storedRow, length_packElems, List.length_map, List.length_range, rowBytes]

theorem MqEntry.stored_lt {e : MqEntry} {l : Layout} {q : Region} {f : Forme} {r c : Nat} : e.stored l q f r c < 2 ^ fmtWidth q.fmt := by
  unfold MqEntry.stored
  split
  · rename_i h
    simp only [moves, Bool.and_eq_true, beq_iff_eq] at h
    have := f.elem_lt l r c
    rw [h.2] at this
    rw [h.1]
    exact this
  · exact conv_lt _ _ _ _ _

/-- An element of a stored row. -/
theorem MqEntry.field_storedRow {e : MqEntry} {l : Layout} {q : Region} {f : Forme} {r i : Nat} (hi : i < (shapeOf e.x).n) :
    natOf (e.storedRow l q f r) / 2 ^ (fmtWidth q.fmt * i) % 2 ^ fmtWidth q.fmt = e.stored l q f r i := by
  rw [MqEntry.storedRow, field_packElems _ (by simpa using hi)]
  simp only [List.getD_eq_getElem?_getD, List.getElem?_map, List.getElem?_range hi, Option.map_some, Option.getD_some]
  exact Nat.mod_eq_of_lt MqEntry.stored_lt

section Rows

variable {o st m n : Nat}

/-- Rows of a stride share no byte. -/
theorem rows_disjoint {r r' : Nat} (h : n ≤ st) (hne : r ≠ r') : o + r * st + n ≤ o + r' * st ∨ o + r' * st + n ≤ o + r * st := by
  rcases lt_or_gt_of_ne hne with hlt | hlt
  · have := Nat.mul_le_mul_right st (Nat.succ_le_of_lt hlt)
    rw [Nat.succ_mul] at this
    omega
  · have := Nat.mul_le_mul_right st (Nat.succ_le_of_lt hlt)
    rw [Nat.succ_mul] at this
    omega

end Rows

theorem fmtWidth_pos (fmt : Nat) : 0 < fmtWidth fmt := CTy.width_pos _

theorem rowBytes_pos {fmt n : Nat} (hn : 0 < n) : 0 < rowBytes fmt n := by
  have : 0 < n * fmtWidth fmt := Nat.mul_pos hn (fmtWidth_pos fmt)
  unfold rowBytes
  omega

/-- A row block of a store to rows of a destination. -/
theorem State.storeBlock_eq {s u : State} {g : Eng} {e : MqEntry} {l : Layout} {m k o b : Nat} {r q : Region}
    (hd : s.Dest g.fk e.b.toNat m (shapeOf e.x).sa k o r q) (hu : s.SpadOnly u) (qu : s.Quiet) (hb : 8 * b + 8 ≤ m) (hn : 0 < (shapeOf e.x).n)
    (hst : rowBytes q.fmt (shapeOf e.x).n ≤ (shapeOf e.x).sa) (hplain : hasBlocks q.fmt = false)
    (halign : ∀ i, i < m → (o + i * (shapeOf e.x).sa - r.base) % rowAlign q.fmt q.geo = 0) :
    u.storeBlock g e l q b = (((List.range 8).map (fun i => (o + (8 * b + i) * (shapeOf e.x).sa, e.storedRow l q (s.forme g.fk) (8 * b + i)))).foldl
      (fun v w => v.spadWrite k w.1 w.2) u, .ok ()) := by
  have hpos := rowBytes_pos (fmt := q.fmt) hn
  have hacc : (u.forme g.fk).acc = (s.forme g.fk).acc := hu.forme Forme.acc (k := g.fk)
  have hmem {i : Nat} (hi : i ∈ List.range 8) : 8 * b + i < m := by
    have := List.mem_range.mp hi
    omega
  rw [State.storeBlock, mEach_ok (g := fun _ => q) (fun x hx => ?_), mRes_then_ok, State.engStore_eq hu qu (k := k) (fun w hw => ?_)]
  · congr 2
    simp only [List.map_map]
    refine List.map_congr_left fun i hi => ?_
    simp only [Function.comp_apply]
    obtain ⟨hrow, -, hmod⟩ := hd.rowAt (hmem hi) hpos hst
    rw [hrow, hmod, MqEntry.storedRow_of_acc hacc]
  · simp only [List.map_map, List.mem_map, Function.comp_apply] at hw
    obtain ⟨i, hi, rfl⟩ := hw
    obtain ⟨hrow, -, hmod⟩ := hd.rowAt (hmem hi) hpos hst
    refine ⟨rfl, ?_⟩
    dsimp only
    rw [MqEntry.length_storedRow, hd.window_row (hmem hi) hpos hst, hrow, hmod]
  · obtain ⟨i, hi, rfl⟩ := List.mem_map.mp hx
    exact hd.engRow hu (hmem hi) hpos hst (halign _ (hmem hi)) (fun hblocks => absurd hblocks (by rw [hplain]; exact Bool.false_ne_true))

/-- A store whose rows lie in a destination of plain elements. -/
theorem exec_of_stores {s : State} {fk : Nat} {e : MqEntry} {rest : List MqEntry} {r q : Region} {l : Layout} {k o : Nat} (hd : s.Head fk e rest)
    (ho : e.opc = 0x125) (hl : l = (s.forme fk).layout e.tile) (hs : s.Undisturbed)
    (hready : s.moveReady (s.engine fk) { win := true, op := 4 } l (shapeOf e.x) e.b.toNat (fun r => decide (r.fmt ≤ 16) && r.fmt != 10) = (s, .ok q))
    (hdest : s.Dest fk e.b.toNat (shapeOf e.x).m (shapeOf e.x).sa k o r q) (hn : 0 < (shapeOf e.x).n)
    (hst : rowBytes q.fmt (shapeOf e.x).n ≤ (shapeOf e.x).sa) (hplain : hasBlocks q.fmt = false)
    (halign : ∀ i, i < (shapeOf e.x).m → (o + i * (shapeOf e.x).sa - r.base) % rowAlign q.fmt q.geo = 0) :
    ∃ t ws, (exec .matrixQueueExecute s = .next t ∧ s.Ran t fk rest (some ((shapeOf e.x).m / 8))) ∧ (∀ j, (t.forme j).acc = (s.forme j).acc)
      ∧ (∀ a, (t.forme k).scratch.look a = (Sparse.putAll (s.forme k).scratch ws).look a)
      ∧ (∀ j a, j ≠ k → (t.forme j).scratch.look a = (s.forme j).scratch.look a)
      ∧ ∀ w, w ∈ ws ↔ ∃ i, i < (shapeOf e.x).m ∧ w = (o + i * (shapeOf e.x).sa, e.storedRow l q (s.forme fk) i) := by
  obtain ⟨hdone, -, -⟩ := hd.fresh
  have h8 : 8 * ((shapeOf e.x).m / 8) = (shapeOf e.x).m := Nat.mul_div_cancel' (Dvd.intro _ rfl)
  obtain ⟨u, ws, hblocks, hput, hws⟩ := blocksFrom_spadPut (k := k) (m := (shapeOf e.x).m / 8) (F := fun u b => u.storeBlock (s.engine fk) e l q b)
    (W := fun i => [(o + i * (shapeOf e.x).sa, e.storedRow l q (s.forme fk) i)]) hs
    (fun u b hu hb => by
      refine ⟨_, fun w => ?_, State.storeBlock_eq (g := s.engine fk) hdest hu hs.quiet (by omega) hn hst hplain halign⟩
      simp only [List.mem_map, List.mem_range, List.mem_singleton]
      constructor
      · rintro ⟨i, hi, rfl⟩
        exact ⟨8 * b + i, by omega, by omega, rfl⟩
      · rintro ⟨i, hlo, hhi, rfl⟩
        exact ⟨i - 8 * b, by omega, by rw [show 8 * b + (i - 8 * b) = i by omega]; rfl⟩)
  have hrun : s.runEntry (s.engine fk) e = (u, some ((shapeOf e.x).m / 8), none) := by
    rw [s.runEntry_tsts fk ho, ← hl, hdone]
    exact inBlocks_ok hready hblocks
  obtain ⟨t, hexec, hacc, hbytes, hothers⟩ := exec_of_spadPut hd hrun hput
  refine ⟨t, ws, hexec, hacc, hbytes, hothers, fun w => ?_⟩
  rw [hws, h8]
  simp only [List.mem_singleton]

end Sys2Proof.Machine

namespace Sys2Proof.Machine

/-! ## Lists of blocks of one length -/

theorem length_flatMap_range {α : Type} {f : Nat → List α} {k : Nat} (hf : ∀ j, (f j).length = k) (n : Nat) :
    ((List.range n).flatMap f).length = n * k := by
  induction n with
  | zero => simp
  | succ n ih => rw [List.range_succ, List.flatMap_append, List.length_append, ih, List.flatMap_singleton, hf, Nat.succ_mul]

theorem getD_flatMap_range {α : Type} {f : Nat → List α} {k : Nat} (hf : ∀ j, (f j).length = k) {n i : Nat} (hi : i < n * k) (d : α) :
    ((List.range n).flatMap f).getD i d = (f (i / k)).getD (i % k) d := by
  have hk : 0 < k := Nat.pos_of_ne_zero (fun h => by rw [h, Nat.mul_zero] at hi; exact Nat.not_lt_zero _ hi)
  induction n with
  | zero => omega
  | succ n ih =>
    rw [List.range_succ, List.flatMap_append, List.flatMap_singleton]
    by_cases h : i < n * k
    · rw [List.getD_append _ _ _ _ (by rwa [length_flatMap_range hf]), ih h]
    · rw [Nat.succ_mul] at hi
      have hdiv : i / k = n := Nat.div_eq_of_lt_le (by omega) (by rw [Nat.succ_mul]; omega)
      have hmod : i % k = i - n * k := by
        have := Nat.div_add_mod' i k
        rw [hdiv] at this
        omega
      rw [List.getD_append_right _ _ _ _ (by rw [length_flatMap_range hf]; omega), length_flatMap_range hf, hdiv, hmod]

/-! ## `TSTQ` (spec/06 R208) -/

/-- The bytes of a block's elements, half a bit of scale an element aside: a whole number for every geometry. -/
def Region.blockBytes (q : Region) : Nat := blockLen q.fmt q.geo * fmtWidth q.fmt / 8

/-- The scale byte of a block of a tile's row. -/
def Forme.scaleByte (f : Forme) (l : Layout) (q : Region) (r j : Nat) : Nat :=
  mxsclByte q.fmt (q.geo.getLsbD 2) (maxAbs ((List.range (blockLen q.fmt q.geo)).map (fun i => f.tileVal l r (blockLen q.fmt q.geo * j + i))))

/-- The elements of a block. -/
def MqEntry.quantBlock (e : MqEntry) (l : Layout) (q : Region) (f : Forme) (r j : Nat) : List Nat :=
  ((List.range (blockLen q.fmt q.geo)).map (fun i => f.tileVal l r (blockLen q.fmt q.geo * j + i))).map
    (quantElem q.fmt e.rm (scaleVal q.fmt q.geo (f.scaleByte l q r j)))

/-- The blocks of a row, each with its scale byte. -/
def MqEntry.quantBlocks (e : MqEntry) (l : Layout) (q : Region) (f : Forme) (r : Nat) : List (List Nat × Nat) :=
  (List.range ((shapeOf e.x).n / blockLen q.fmt q.geo)).map (fun j => (e.quantBlock l q f r j, f.scaleByte l q r j))

/-- The bytes of a row of blocks. -/
def MqEntry.quantRow (e : MqEntry) (l : Layout) (q : Region) (f : Forme) (r : Nat) : List Byte :=
  packElems (fmtWidth q.fmt) ((e.quantBlocks l q f r).flatMap (·.1))

/-- What a row writes, from its address: its elements, and an entry for each of its blocks. -/
def MqEntry.quantStores (e : MqEntry) (l : Layout) (q : Region) (f : Forme) (x : Nat × Nat × Region) : List (Operand × Nat × List Byte) :=
  (({ win := true, op := 4 } : Operand), x.2.1, e.quantRow l q f x.1) :: (List.range (e.quantBlocks l q f x.1).length).map (fun j =>
    (({ win := true, op := 5 } : Operand), x.2.2.scaleAt x.2.1 j, [BitVec.ofNat 8 ((e.quantBlocks l q f x.1).getD j ([], 0)).2, 0]))

/-- A row block of `TSTQ` to the pitch window. -/
def State.quantBlock (u : State) (g : Eng) (e : MqEntry) (l : Layout) (q : Region) (b : Nat) : MRes Unit :=
  (mEach (fun u (x : Nat × Nat) => (u.engRow g { win := true, op := 4 } q.fmt q.geo x.2 (shapeOf e.x).n).then (fun v y => (v, .ok (x.1, x.2, y)))) u
    ((List.range 8).map (fun i => (8 * b + i, rowAt e.b.toNat (shapeOf e.x).sa (8 * b + i))))).then (fun v ys =>
      v.engStore g (ys.flatMap (e.quantStores l q (u.forme g.fk))))

theorem State.runEntry_tstq (s : State) (fk : Nat) {e : MqEntry} (h : e.opc = 0x130) (haw : e.aw = true) :
    s.runEntry (s.engine fk) e = inBlocks (s.moveReady (s.engine fk) { win := true, op := 4 } ((s.forme fk).layout e.tile) (shapeOf e.x) e.b.toNat
      (fun r => quantFmt r.fmt && (shapeOf e.x).n % blockLen r.fmt r.geo == 0)) e.done ((shapeOf e.x).m / 8)
      (fun q u b => u.quantBlock (s.engine fk) e ((s.forme fk).layout e.tile) q b) := by
  have hquant : s.runEntry (s.engine fk) e = s.runQuant (s.engine fk) e := by
    simp only [State.runEntry, h]
    rfl
  rw [hquant, State.runQuant, haw]
  rfl

theorem MqEntry.quantStores_eq (e : MqEntry) (l : Layout) (q : Region) (f : Forme) (i a : Nat) (y : Region) :
    e.quantStores l q f (i, a, y) = (({ win := true, op := 4 } : Operand), a, e.quantRow l q f i) ::
      (List.range ((shapeOf e.x).n / blockLen q.fmt q.geo)).map (fun j =>
        (({ win := true, op := 5 } : Operand), y.scaleAt a j, [BitVec.ofNat 8 (f.scaleByte l q i j), 0])) := by
  have hlen : (e.quantBlocks l q f i).length = (shapeOf e.x).n / blockLen q.fmt q.geo := by
    rw [MqEntry.quantBlocks, List.length_map, List.length_range]
  rw [MqEntry.quantStores, hlen]
  refine congrArg _ (List.map_congr_left fun j hj => ?_)
  simp only [MqEntry.quantBlocks, List.getD_eq_getElem?_getD, List.getElem?_map, List.getElem?_range (List.mem_range.mp hj), Option.map_some,
    Option.getD_some]

theorem MqEntry.quantStores_of_acc {f f' : Forme} (h : f'.acc = f.acc) (e : MqEntry) (l : Layout) (q : Region) (x : Nat × Nat × Region) :
    e.quantStores l q f' x = e.quantStores l q f x := by
  simp only [MqEntry.quantStores, MqEntry.quantRow, MqEntry.quantBlocks, MqEntry.quantBlock, Forme.scaleByte, Forme.tileVal_of_acc h]

/-! ### Rows of whole blocks -/

/-- A block is a whole number of bytes. -/
theorem Region.eight_mul_blockBytes {q : Region} (h : q.fmt ≠ 10) : 8 * q.blockBytes = blockLen q.fmt q.geo * fmtWidth q.fmt := by
  rw [Region.blockBytes]
  refine Nat.mul_div_cancel' ?_
  rw [blockLen, if_neg h]
  exact Dvd.dvd.mul_right (Dvd.dvd.mul_right (by decide) _) _

section QuantRow

variable {e : MqEntry} {l : Layout} {q : Region} {f : Forme} {i : Nat} (h8 : q.fmt ≠ 10) (hk : (shapeOf e.x).n % blockLen q.fmt q.geo = 0)
include hk

theorem MqEntry.length_quantElems : ((e.quantBlocks l q f i).flatMap (·.1)).length = (shapeOf e.x).n := by
  rw [MqEntry.quantBlocks, List.flatMap_map, length_flatMap_range (k := blockLen q.fmt q.geo) (fun j => by simp [MqEntry.quantBlock])]
  exact Nat.div_mul_cancel (Nat.dvd_of_mod_eq_zero hk)

theorem MqEntry.length_quantRow : (e.quantRow l q f i).length = rowBytes q.fmt (shapeOf e.x).n := by
  rw [MqEntry.quantRow, length_packElems, MqEntry.length_quantElems hk, rowBytes]

/-- An element of a row of blocks. -/
theorem MqEntry.field_quantRow {c : Nat} (hc : c < (shapeOf e.x).n) :
    natOf (e.quantRow l q f i) / 2 ^ (fmtWidth q.fmt * c) % 2 ^ fmtWidth q.fmt
      = quantElem q.fmt e.rm (scaleVal q.fmt q.geo (f.scaleByte l q i (c / blockLen q.fmt q.geo))) (f.tileVal l i c) := by
  have hmul : (shapeOf e.x).n / blockLen q.fmt q.geo * blockLen q.fmt q.geo = (shapeOf e.x).n := Nat.div_mul_cancel (Nat.dvd_of_mod_eq_zero hk)
  have hmod : c % blockLen q.fmt q.geo < blockLen q.fmt q.geo := Nat.mod_lt _ (blockLen_pos _ _)
  rw [MqEntry.quantRow, field_packElems _ (by rwa [MqEntry.length_quantElems hk]), MqEntry.quantBlocks, List.flatMap_map,
    getD_flatMap_range (k := blockLen q.fmt q.geo) (fun j => by simp [MqEntry.quantBlock]) (by rwa [hmul])]
  simp only [MqEntry.quantBlock, List.getD_eq_getElem?_getD, List.getElem?_map, List.getElem?_range hmod, Option.map_some, Option.getD_some]
  rw [Nat.div_add_mod, Nat.mod_eq_of_lt (quantElem_lt _ _ _ _)]

include h8 in
theorem MqEntry.rowBytes_eq : rowBytes q.fmt (shapeOf e.x).n = (shapeOf e.x).n / blockLen q.fmt q.geo * q.blockBytes := by
  have hmul : (shapeOf e.x).n / blockLen q.fmt q.geo * blockLen q.fmt q.geo = (shapeOf e.x).n := Nat.div_mul_cancel (Nat.dvd_of_mod_eq_zero hk)
  have hbits : (shapeOf e.x).n * fmtWidth q.fmt = 8 * ((shapeOf e.x).n / blockLen q.fmt q.geo * q.blockBytes) := by
    rw [Nat.mul_left_comm, Region.eight_mul_blockBytes h8, ← Nat.mul_assoc, hmul]
  rw [rowBytes, hbits]
  omega

end QuantRow

/-- The offset of the scale entry of a row's block in its forme's part. -/
def Region.entryAt (r q : Region) (x j : Nat) : Nat := r.base + 7 * r.size / 8 + 2 * ((x - r.base) / q.blockBytes + j)

/-- An entry of the destination's region, as the engine addresses it. -/
theorem State.Dest.scaleAt {s : State} {fk a m st k o i n : Nat} {r q : Region} (hd : s.Dest fk a m st k o r q) (hi : i < m) (hn : 0 < n) (hst : n ≤ st)
    (j : Nat) : q.scaleAt (Machine.rowAt a st i) j = a - o + r.entryAt q (o + i * st) j := by
  obtain ⟨hrow, -, -⟩ := hd.rowAt hi hn hst
  obtain ⟨-, -, -, ho, -⟩ := hd.win
  have hlo := hd.lo
  have hq := hd.seen
  have hoff : Machine.rowAt a st i - q.base = o + i * st - r.base := by
    rw [hrow, hq]
    show a + i * st - (a - o + r.base) = _
    omega
  have hbase : q.base = a - o + r.base := by rw [hq]; rfl
  have hsize : q.size = r.size := by rw [hq]; rfl
  rw [Region.scaleAt, hoff, hbase, hsize, Region.entryAt, Region.blockBytes]
  omega

theorem State.Dest.window_entry {s : State} {fk a m st k o y : Nat} {r q : Region} (hd : s.Dest fk a m st k o r q) (hy : y + 2 ≤ r.base + r.size) :
    s.window fk (a - o + y) 2 = .ok (k, y) ∧ (a - o + y) % 2 ^ 21 = y := by
  obtain ⟨hlt, -, -, ho, -⟩ := hd.win
  have hle := hd.le21
  have hsz := hd.spad
  have hmod : (a - o + y) % 2 ^ 21 = y := by omega
  have hw := State.window_of_inWindow hd.win (x := a - o + y) (m := 2) (by omega) (by omega)
  rw [hmod] at hw
  exact ⟨hw, hmod⟩

end Sys2Proof.Machine

namespace Sys2Proof.Machine

/-- The writes of a row of blocks to its forme's part. -/
def MqEntry.quantWrites (e : MqEntry) (l : Layout) (r q : Region) (f : Forme) (o i : Nat) : List (Nat × List Byte) :=
  (o + i * (shapeOf e.x).sa, e.quantRow l q f i) :: (List.range ((shapeOf e.x).n / blockLen q.fmt q.geo)).map (fun j =>
    (r.entryAt q (o + i * (shapeOf e.x).sa) j, [BitVec.ofNat 8 (f.scaleByte l q i j), 0]))

theorem MqEntry.mem_quantWrites {e : MqEntry} {l : Layout} {r q : Region} {f : Forme} {o i : Nat} {w : Nat × List Byte} :
    w ∈ e.quantWrites l r q f o i ↔ w = (o + i * (shapeOf e.x).sa, e.quantRow l q f i) ∨ ∃ j, j < (shapeOf e.x).n / blockLen q.fmt q.geo
      ∧ w = (r.entryAt q (o + i * (shapeOf e.x).sa) j, [BitVec.ofNat 8 (f.scaleByte l q i j), 0]) := by
  simp only [MqEntry.quantWrites, List.mem_cons, List.mem_map, List.mem_range, eq_comm (a := w)]

section QuantDest

/-- Rows of whole blocks in a destination, whose scale entries lie in its region. -/
structure MqEntry.QuantDest (e : MqEntry) (s : State) (fk : Nat) (r q : Region) (k o : Nat) : Prop where
  dest : s.Dest fk e.b.toNat (shapeOf e.x).m (shapeOf e.x).sa k o r q
  some : 0 < (shapeOf e.x).n
  whole : (shapeOf e.x).n % blockLen q.fmt q.geo = 0
  fmt : q.fmt ≠ 10
  stride : rowBytes q.fmt (shapeOf e.x).n ≤ (shapeOf e.x).sa
  align : ∀ i, i < (shapeOf e.x).m → (o + i * (shapeOf e.x).sa - r.base) % rowAlign q.fmt q.geo = 0
  data : ∀ i, i < (shapeOf e.x).m → 8 * (o + i * (shapeOf e.x).sa - r.base) + (shapeOf e.x).n * fmtWidth q.fmt ≤ 7 * r.size
  entries : ∀ i, i < (shapeOf e.x).m → r.entryAt q (o + i * (shapeOf e.x).sa) ((shapeOf e.x).n / blockLen q.fmt q.geo) ≤ r.base + r.size

variable {e : MqEntry} {s u : State} {g : Eng} {l : Layout} {r q : Region} {k o b : Nat}

theorem entryAt_room {x j n : Nat} (hj : j < n) : r.entryAt q x j + 2 ≤ r.entryAt q x n := by
  unfold Region.entryAt
  omega

/-- A row block of `TSTQ` to rows of a destination. -/
theorem State.quantBlock_eq (hd : e.QuantDest s g.fk r q k o) (hu : s.SpadOnly u) (qu : s.Quiet) (hb : 8 * b + 8 ≤ (shapeOf e.x).m) :
    u.quantBlock g e l q b = (((List.range 8).flatMap (fun i => e.quantWrites l r q (s.forme g.fk) o (8 * b + i))).foldl
      (fun v w => v.spadWrite k w.1 w.2) u, .ok ()) := by
  have hpos := rowBytes_pos (fmt := q.fmt) hd.some
  have hacc : (u.forme g.fk).acc = (s.forme g.fk).acc := hu.forme Forme.acc (k := g.fk)
  have hmem {i : Nat} (hi : i ∈ List.range 8) : 8 * b + i < (shapeOf e.x).m := by
    have := List.mem_range.mp hi
    omega
  have hrows : mEach (fun u (x : Nat × Nat) => (u.engRow g { win := true, op := 4 } q.fmt q.geo x.2 (shapeOf e.x).n).then (fun v y => (v, .ok (x.1, x.2, y)))) u
      ((List.range 8).map (fun i => (8 * b + i, rowAt e.b.toNat (shapeOf e.x).sa (8 * b + i))))
        = (u, .ok (((List.range 8).map (fun i => (8 * b + i, rowAt e.b.toNat (shapeOf e.x).sa (8 * b + i)))).map (fun x => (x.1, x.2, q)))) := by
    refine mEach_ok fun x hx => ?_
    obtain ⟨i, hi, rfl⟩ := List.mem_map.mp hx
    rw [hd.dest.engRow hu (hmem hi) hpos hd.stride (hd.align _ (hmem hi)) (fun _ => hd.data _ (hmem hi)), mRes_then_ok]
  rw [State.quantBlock, hrows, mRes_then_ok, State.engStore_eq hu qu (k := k) (fun w hw => ?_)]
  · congr 2
    simp only [List.map_map, List.flatMap_map, List.map_flatMap, Function.comp_def, MqEntry.quantStores_of_acc hacc, MqEntry.quantStores_eq]
    refine List.flatMap_congr fun i hi => ?_
    obtain ⟨hrow, -, hmod⟩ := hd.dest.rowAt (hmem hi) hpos hd.stride
    rw [List.map_cons, List.map_map, MqEntry.quantWrites, hrow, hmod]
    refine congrArg _ (List.map_congr_left fun j hj => ?_)
    have hroom := entryAt_room (r := r) (q := q) (x := o + (8 * b + i) * (shapeOf e.x).sa) (List.mem_range.mp hj)
    rw [Function.comp_apply, ← hrow, hd.dest.scaleAt (hmem hi) hpos hd.stride,
      (hd.dest.window_entry (y := r.entryAt q (o + (8 * b + i) * (shapeOf e.x).sa) j) (hroom.trans (hd.entries _ (hmem hi)))).2]
  · simp only [List.map_map, List.mem_flatMap, List.mem_map, Function.comp_apply, MqEntry.quantStores_of_acc hacc] at hw
    obtain ⟨x, ⟨i, hi, rfl⟩, hw⟩ := hw
    obtain ⟨hrow, -, hmod⟩ := hd.dest.rowAt (hmem hi) hpos hd.stride
    rw [MqEntry.quantStores_eq] at hw
    rcases List.mem_cons.mp hw with rfl | hw
    · refine ⟨rfl, ?_⟩
      dsimp only
      rw [MqEntry.length_quantRow hd.whole, hd.dest.window_row (hmem hi) hpos hd.stride, hrow, hmod]
    · obtain ⟨j, hj, rfl⟩ := List.mem_map.mp hw
      have hroom := entryAt_room (r := r) (q := q) (x := o + (8 * b + i) * (shapeOf e.x).sa) (List.mem_range.mp hj)
      obtain ⟨hwin, hmod'⟩ := hd.dest.window_entry (y := r.entryAt q (o + (8 * b + i) * (shapeOf e.x).sa) j) (hroom.trans (hd.entries _ (hmem hi)))
      refine ⟨rfl, ?_⟩
      dsimp only
      rw [hd.dest.scaleAt (hmem hi) hpos hd.stride, hmod']
      exact hwin

/-- `TSTQ` to rows of a destination. -/
theorem exec_of_quants {fk : Nat} {rest : List MqEntry} (hh : s.Head fk e rest) (ho : e.opc = 0x130) (haw : e.aw = true)
    (hl : l = (s.forme fk).layout e.tile) (hs : s.Undisturbed)
    (hready : s.moveReady (s.engine fk) { win := true, op := 4 } l (shapeOf e.x) e.b.toNat
      (fun r => quantFmt r.fmt && (shapeOf e.x).n % blockLen r.fmt r.geo == 0) = (s, .ok q))
    (hd : e.QuantDest s fk r q k o) :
    ∃ t ws, (exec .matrixQueueExecute s = .next t ∧ s.Ran t fk rest (some ((shapeOf e.x).m / 8))) ∧ (∀ j, (t.forme j).acc = (s.forme j).acc)
      ∧ (∀ a, (t.forme k).scratch.look a = (Sparse.putAll (s.forme k).scratch ws).look a)
      ∧ (∀ j a, j ≠ k → (t.forme j).scratch.look a = (s.forme j).scratch.look a)
      ∧ ∀ w, w ∈ ws ↔ ∃ i, i < (shapeOf e.x).m ∧ w ∈ e.quantWrites l r q (s.forme fk) o i := by
  obtain ⟨hdone, -, -⟩ := hh.fresh
  have h8 : 8 * ((shapeOf e.x).m / 8) = (shapeOf e.x).m := Nat.mul_div_cancel' (Dvd.intro _ rfl)
  obtain ⟨u, ws, hblocks, hput, hws⟩ := blocksFrom_spadPut (k := k) (m := (shapeOf e.x).m / 8) (F := fun u b => u.quantBlock (s.engine fk) e l q b)
    (W := fun i => e.quantWrites l r q (s.forme fk) o i) hs
    (fun u b hu hb => by
      refine ⟨_, fun w => ?_, State.quantBlock_eq (g := s.engine fk) hd hu hs.quiet (by omega)⟩
      simp only [List.mem_flatMap, List.mem_range]
      constructor
      · rintro ⟨i, hi, hw⟩
        exact ⟨8 * b + i, by omega, by omega, hw⟩
      · rintro ⟨i, hlo, hhi, hw⟩
        exact ⟨i - 8 * b, by omega, by rw [show 8 * b + (i - 8 * b) = i by omega]; exact hw⟩)
  have hrun : s.runEntry (s.engine fk) e = (u, some ((shapeOf e.x).m / 8), none) := by
    rw [s.runEntry_tstq fk ho haw, ← hl, hdone]
    exact inBlocks_ok hready hblocks
  obtain ⟨t, hexec, hacc, hbytes, hothers⟩ := exec_of_spadPut hh hrun hput
  exact ⟨t, ws, hexec, hacc, hbytes, hothers, fun w => by rw [hws, h8]⟩

/-- The elements of a row lie before the scale region. -/
theorem MqEntry.QuantDest.row_end (hd : e.QuantDest s g.fk r q k o) {i : Nat} (hi : i < (shapeOf e.x).m) (x j : Nat) :
    o + i * (shapeOf e.x).sa + rowBytes q.fmt (shapeOf e.x).n ≤ r.entryAt q x j := by
  have hdata := hd.data i hi
  have hlo := hd.dest.lo
  have hbytes := MqEntry.rowBytes_eq hd.fmt hd.whole
  have hmul : (shapeOf e.x).n / blockLen q.fmt q.geo * blockLen q.fmt q.geo = (shapeOf e.x).n := Nat.div_mul_cancel (Nat.dvd_of_mod_eq_zero hd.whole)
  have hbits : (shapeOf e.x).n * fmtWidth q.fmt = 8 * rowBytes q.fmt (shapeOf e.x).n := by
    rw [hbytes, Nat.mul_left_comm, Region.eight_mul_blockBytes hd.fmt, ← Nat.mul_assoc, hmul]
  unfold Region.entryAt
  omega

/-- The entries of a row's blocks stand before those of the rows behind. -/
theorem MqEntry.QuantDest.entry_lt (hd : e.QuantDest s g.fk r q k o) {i i' j j' : Nat} (hlt : i < i')
    (hj : j < (shapeOf e.x).n / blockLen q.fmt q.geo) :
    r.entryAt q (o + i * (shapeOf e.x).sa) j + 2 ≤ r.entryAt q (o + i' * (shapeOf e.x).sa) j' := by
  have hbytes := MqEntry.rowBytes_eq hd.fmt hd.whole
  have hB : 0 < q.blockBytes := by
    have h8 := Region.eight_mul_blockBytes hd.fmt
    have := Nat.mul_pos (blockLen_pos q.fmt q.geo) (fmtWidth_pos q.fmt)
    omega
  have hlo := hd.dest.lo
  have hst := hd.stride
  have hrows : i * (shapeOf e.x).sa + (shapeOf e.x).sa ≤ i' * (shapeOf e.x).sa := by
    have := Nat.mul_le_mul_right (shapeOf e.x).sa (Nat.succ_le_of_lt hlt)
    rwa [Nat.succ_mul] at this
  have hidx : (o + i * (shapeOf e.x).sa - r.base) / q.blockBytes + (shapeOf e.x).n / blockLen q.fmt q.geo
      ≤ (o + i' * (shapeOf e.x).sa - r.base) / q.blockBytes := by
    rw [← Nat.add_mul_div_right _ _ hB, ← hbytes]
    exact Nat.div_le_div_right (by omega)
  unfold Region.entryAt
  omega

/-- The writes of `TSTQ` are equal or share no byte. -/
theorem MqEntry.QuantDest.disjoint (hd : e.QuantDest s g.fk r q k o) {f : Forme} {i i' : Nat} (hi : i < (shapeOf e.x).m) (hi' : i' < (shapeOf e.x).m)
    {v w : Nat × List Byte} (hv : v ∈ e.quantWrites l r q f o i) (hw : w ∈ e.quantWrites l r q f o i') :
    v = w ∨ v.1 + v.2.length ≤ w.1 ∨ w.1 + w.2.length ≤ v.1 := by
  rcases MqEntry.mem_quantWrites.mp hv with rfl | ⟨j, hj, rfl⟩ <;> rcases MqEntry.mem_quantWrites.mp hw with rfl | ⟨j', hj', rfl⟩
  · by_cases hii : i = i'
    · exact .inl (by rw [hii])
    · right
      simp only [MqEntry.length_quantRow hd.whole]
      exact rows_disjoint hd.stride hii
  · refine .inr (.inl ?_)
    simp only [MqEntry.length_quantRow hd.whole]
    exact hd.row_end hi _ _
  · refine .inr (.inr ?_)
    simp only [MqEntry.length_quantRow hd.whole]
    exact hd.row_end hi' _ _
  · rcases lt_trichotomy i i' with hlt | rfl | hlt
    · exact .inr (.inl (hd.entry_lt hlt hj))
    · rcases lt_trichotomy j j' with hjj | rfl | hjj
      · exact .inr (.inl (entryAt_room hjj))
      · exact .inl rfl
      · exact .inr (.inr (entryAt_room hjj))
    · exact .inr (.inr (hd.entry_lt hlt hj'))

end QuantDest

end Sys2Proof.Machine

namespace Sys2Proof.Machine

/-! ## What a store leaves in the scratchpad (spec/06 R207, R208) -/

/-- A byte string written is read back where every other write is equal to it or shares no byte with it. -/
theorem State.spadRead_of_write {s t : State} {k : Nat} {ws : List (Nat × List Byte)} {w : Nat × List Byte}
    (hbytes : ∀ a, (t.forme k).scratch.look a = (Sparse.putAll (s.forme k).scratch ws).look a) (hw : w ∈ ws)
    (h : ∀ v ∈ ws, v = w ∨ v.1 + v.2.length ≤ w.1 ∨ w.1 + w.2.length ≤ v.1) : t.spadRead k w.1 w.2.length = w.2 :=
  Sparse.bytes_of_look fun _ hi => (hbytes _).trans (Sparse.look_putAll_mem hw h hi)

theorem moves_iff {l : Layout} {fmt : Nat} : moves l fmt = true ↔ fmt = 0 ∧ l.esize = 4 := by
  simp [moves]

theorem MqEntry.loaded_of_moves {e : MqEntry} {l : Layout} {q : Region} (h : q.fmt = 0 ∧ l.esize = 4) (row : Row) (c : Nat) :
    e.loaded l q row c = row.raw.getD c 0 := if_pos (moves_iff.mpr h)

theorem MqEntry.drained_loaded {e : MqEntry} {l : Layout} {q : Region} (h : ¬(q.fmt = 0 ∧ l.esize = 4)) {row : Row} {c : Nat} {x : ℚ}
    (hx : (row.vals.getD c .zero).rat = some x) : Drained l.ty e.rm e.sat (fmtFloat q.fmt) x (e.loaded l q row c) := by
  rw [MqEntry.loaded, if_neg (mt moves_iff.mp h)]
  exact drained_conv _ _ _ _ hx

theorem MqEntry.stored_of_moves {e : MqEntry} {l : Layout} {q : Region} (h : q.fmt = 0 ∧ l.esize = 4) (f : Forme) (r c : Nat) :
    e.stored l q f r c = f.elem l r c := if_pos (moves_iff.mpr h)

theorem MqEntry.drained_stored {e : MqEntry} {l : Layout} {q : Region} (h : ¬(q.fmt = 0 ∧ l.esize = 4)) {f : Forme} {r c : Nat} {x : ℚ}
    (hx : (f.tileVal l r c).rat = some x) : Drained (fmtTy q.fmt) e.rm e.sat l.flt x (e.stored l q f r c) := by
  rw [MqEntry.stored, if_neg (mt moves_iff.mp h)]
  exact drained_conv _ _ _ _ hx

/-- While the handler runs, no register changes. -/
theorem Slug.regsBut_deliverG {m : Slug} {n : Nat} {h : Handling} (hh : m.hnd = some h) (hn : n ≠ 0) (x : Word) : m.RegsBut (m.deliverG n x) [] := by
  rw [Slug.deliverG_of_handling hh hn]
  exact ⟨fun _ _ => rfl, fun _ _ => rfl, fun _ _ => rfl, fun _ _ => rfl, fun _ => rfl⟩

theorem hasBlocks_of_plain {fmt : Nat} (hle : fmt ≤ 16) (hne : fmt ≠ 10) : hasBlocks fmt = false := by
  simp only [hasBlocks, isScaled, Bool.or_eq_false_iff, beq_eq_false_iff_ne, decide_eq_false_iff_not]
  omega

theorem quantFmt_iff {fmt : Nat} : quantFmt fmt = true ↔ fmt = 23 ∨ (17 ≤ fmt ∧ fmt ≤ 21) := by
  simp [quantFmt]

section Stores

variable {s : State} {fk : Nat} {e : MqEntry} {rest : List MqEntry} {r q : Region} {l : Layout} {k o : Nat} (hd : s.Head fk e rest)
  (hl : l = (s.forme fk).layout e.tile) (hs : s.Undisturbed)
include hd hl hs

/-- `TSTS` to rows of a destination: their elements, and no byte elsewhere. -/
theorem rows_of_stores (ho : e.opc = 0x125)
    (hready : s.moveReady (s.engine fk) { win := true, op := 4 } l (shapeOf e.x) e.b.toNat (fun r => decide (r.fmt ≤ 16) && r.fmt != 10) = (s, .ok q))
    (hdest : s.Dest fk e.b.toNat (shapeOf e.x).m (shapeOf e.x).sa k o r q) (hn : 0 < (shapeOf e.x).n)
    (hst : rowBytes q.fmt (shapeOf e.x).n ≤ (shapeOf e.x).sa) (hplain : hasBlocks q.fmt = false)
    (halign : ∀ i, i < (shapeOf e.x).m → (o + i * (shapeOf e.x).sa - r.base) % rowAlign q.fmt q.geo = 0) :
    ∃ t, (exec .matrixQueueExecute s = .next t ∧ s.Ran t fk rest (some ((shapeOf e.x).m / 8))) ∧ (∀ j, (t.forme j).acc = (s.forme j).acc)
      ∧ (∀ i, i < (shapeOf e.x).m → t.spadRead k (o + i * (shapeOf e.x).sa) (rowBytes q.fmt (shapeOf e.x).n) = e.storedRow l q (s.forme fk) i)
      ∧ ∀ j a, (j = k → ∀ i, i < (shapeOf e.x).m →
          ¬(o + i * (shapeOf e.x).sa ≤ a ∧ a < o + i * (shapeOf e.x).sa + rowBytes q.fmt (shapeOf e.x).n)) →
          (t.forme j).scratch.look a = (s.forme j).scratch.look a := by
  obtain ⟨t, ws, hrun, hacc, hbytes, hothers, hws⟩ := exec_of_stores hd ho hl hs hready hdest hn hst hplain halign
  refine ⟨t, hrun, hacc, fun i hi => ?_, fun j a hfree => ?_⟩
  · rw [← e.length_storedRow l q (s.forme fk) i]
    refine State.spadRead_of_write hbytes ((hws _).mpr ⟨i, hi, rfl⟩) fun v hv => ?_
    obtain ⟨i', -, rfl⟩ := (hws v).mp hv
    simp only [MqEntry.length_storedRow]
    by_cases hii : i' = i
    · exact .inl (by rw [hii])
    · exact .inr (rows_disjoint hst hii)
  · by_cases hj : j = k
    · subst hj
      rw [hbytes]
      refine Sparse.look_putAll fun w hw => ?_
      obtain ⟨i, hi, rfl⟩ := (hws w).mp hw
      rw [MqEntry.length_storedRow]
      exact hfree rfl i hi
    · exact hothers j a hj

/-- `TSTQ` to rows of a destination: their elements, the entries of their blocks, and no byte elsewhere. -/
theorem rows_of_quants (ho : e.opc = 0x130) (haw : e.aw = true)
    (hready : s.moveReady (s.engine fk) { win := true, op := 4 } l (shapeOf e.x) e.b.toNat
      (fun r => quantFmt r.fmt && (shapeOf e.x).n % blockLen r.fmt r.geo == 0) = (s, .ok q))
    (hq : e.QuantDest s fk r q k o) :
    ∃ t, (exec .matrixQueueExecute s = .next t ∧ s.Ran t fk rest (some ((shapeOf e.x).m / 8))) ∧ (∀ j, (t.forme j).acc = (s.forme j).acc)
      ∧ (∀ i, i < (shapeOf e.x).m → t.spadRead k (o + i * (shapeOf e.x).sa) (rowBytes q.fmt (shapeOf e.x).n) = e.quantRow l q (s.forme fk) i)
      ∧ (∀ i j, i < (shapeOf e.x).m → j < (shapeOf e.x).n / blockLen q.fmt q.geo →
          t.spadRead k (r.entryAt q (o + i * (shapeOf e.x).sa) j) 2 = [BitVec.ofNat 8 ((s.forme fk).scaleByte l q i j), 0])
      ∧ ∀ j a, (j = k → ∀ i, i < (shapeOf e.x).m →
          ¬(o + i * (shapeOf e.x).sa ≤ a ∧ a < o + i * (shapeOf e.x).sa + rowBytes q.fmt (shapeOf e.x).n)
          ∧ ¬(r.entryAt q (o + i * (shapeOf e.x).sa) 0 ≤ a
            ∧ a < r.entryAt q (o + i * (shapeOf e.x).sa) ((shapeOf e.x).n / blockLen q.fmt q.geo))) →
          (t.forme j).scratch.look a = (s.forme j).scratch.look a := by
  obtain ⟨t, ws, hrun, hacc, hbytes, hothers, hws⟩ := exec_of_quants hd ho haw hl hs hready hq
  have hread {i : Nat} (hi : i < (shapeOf e.x).m) {w : Nat × List Byte} (hw : w ∈ e.quantWrites l r q (s.forme fk) o i) :
      t.spadRead k w.1 w.2.length = w.2 :=
    State.spadRead_of_write hbytes ((hws w).mpr ⟨i, hi, hw⟩) fun v hv => by
      obtain ⟨i', hi', hv⟩ := (hws v).mp hv
      exact MqEntry.QuantDest.disjoint (g := s.engine fk) hq hi' hi hv hw
  refine ⟨t, hrun, hacc, fun i hi => ?_, fun i j hi hj => ?_, fun j a hfree => ?_⟩
  · rw [← MqEntry.length_quantRow (l := l) (f := s.forme fk) (i := i) hq.whole]
    exact hread hi (MqEntry.mem_quantWrites.mpr (.inl rfl))
  · exact hread hi (MqEntry.mem_quantWrites.mpr (.inr ⟨j, hj, rfl⟩))
  · by_cases hj : j = k
    · subst hj
      rw [hbytes]
      refine Sparse.look_putAll fun w hw => ?_
      obtain ⟨i, hi, hw⟩ := (hws w).mp hw
      obtain ⟨hrow, hentry⟩ := hfree rfl i hi
      rcases MqEntry.mem_quantWrites.mp hw with rfl | ⟨c, hc, rfl⟩
      · rwa [MqEntry.length_quantRow hq.whole]
      · have hroom := entryAt_room (r := r) (q := q) (x := o + i * (shapeOf e.x).sa) hc
        rintro ⟨hlo, hhi⟩
        refine hentry ⟨le_trans ?_ hlo, hhi.trans_le hroom⟩
        unfold Region.entryAt
        omega
    · exact hothers j a hj

end Stores

end Sys2Proof.Machine

namespace Sys2Proof

open Sys2Proof.Machine

/-- Settles O42: a load is a run of row blocks that put a tile; a store is a run of row blocks whose writes share no byte; `TAMAX` delivers
one register. -/
theorem engineTileMoves : Obligations.EngineTileMoves := by
  intro s fk e rest q hd hrm f l M N st g w moves ready runs dest bitsOut
  have hstep {win : Bool} {op : Nat} {a : Word} {ok : Region → Bool} (h : ready win op a) (hok : ok q = true) :
      s.moveReady g { win := win, op := op } l (shapeOf e.x) a.toNat ok = (s, .ok q) := by
    obtain ⟨hv, hm, hn, hregion, hst⟩ := h
    exact State.moveReady_ok hv hm hn hregion hok hst
  have hdest {h : Region} {k o : Nat} (hh : dest h k o) : s.Dest fk e.b.toNat M st k o h q := by
    obtain ⟨hwin, hseen, hlo, hhi, hspad, h21, -, -, hseg⟩ := hh
    exact ⟨hwin, hseen, hlo, hhi, hspad, h21, hseg⟩
  refine ⟨fun rows ho hready hfmt hrows => ?_, fun h k o ho hready hs hfmt hne hh hn halign => ?_,
    fun h k o ho haw hready hs hh hn hfmt hwhole => ?_, fun d ho hv hr hc hdt hd0 => ?_, fun v a hle hmax => rat_maxAbs hle hmax,
    fun fmt rm sc v p x hq _ hp hx => ⟨quantElem_of_zero hp, fun h0 h23 hle => rounds_quantElem hp hx hq h0 h23 hle,
      fun h0 h23 i hi => quantElem_int hp hx h0 h23 hi⟩⟩
  · obtain ⟨t, hrun, hput⟩ := exec_of_loads hd ho rfl hready.2.2.1 (hstep hready (decide_eq_true hfmt)) hrows
    exact ⟨t, _, hrun, hput, fun r k _ _ => ⟨fun hm => MqEntry.loaded_of_moves hm _ _, fun hm x hx => MqEntry.drained_loaded hm hx⟩⟩
  · have hplain := hasBlocks_of_plain hfmt hne
    obtain ⟨t, hrun, hacc, hrow, hframe⟩ := rows_of_stores hd rfl hs ho (hstep hready (by simp [hfmt, hne])) (hdest hh) hn hready.2.2.2.2 hplain
      (fun i hi => (mod_rowAlign _ _ _).mpr ⟨(halign i hi).1, (halign i hi).2, fun hb => by rw [hplain] at hb; cases hb⟩)
    have hbits {r i : Nat} (hr : r < M) (hi : i < N) : bitsOut t k o r i = e.stored l q f r i := by
      show natOf (t.spadRead k (o + r * (shapeOf e.x).sa) (rowBytes q.fmt (shapeOf e.x).n)) / _ % _ = _
      rw [hrow r hr]
      exact MqEntry.field_storedRow hi
    refine ⟨t, hrun, hacc, fun r i hr hi => ⟨fun hm => ?_, fun hm x hx => ?_⟩, hframe⟩
    · rw [hbits hr hi, MqEntry.stored_of_moves hm]
    · rw [hbits hr hi]
      exact MqEntry.drained_stored hm hx
  · intro kb off entry block byte hok
    have hentry (r j : Nat) : entry r j = h.entryAt q (o + r * st) j := rfl
    have hq : e.QuantDest s fk h q k o :=
      { dest := hdest hh
        some := hn
        whole := hwhole
        fmt := by omega
        stride := hready.2.2.2.2
        align := fun i hi => (mod_rowAlign _ _ _).mpr ⟨(hok i hi).1, (hok i hi).2.1, fun _ => (hok i hi).2.2.1⟩
        data := fun i hi => (hok i hi).2.2.2.1
        entries := fun i hi => (hok i hi).2.2.2.2 }
    obtain ⟨t, hrun, hacc, hrow, hscale, hframe⟩ := rows_of_quants hd rfl hs ho haw
      (hstep hready (by rw [quantFmt_iff.mpr hfmt, Bool.true_and, beq_iff_eq]; exact hwhole)) hq
    refine ⟨t, hrun, hacc, fun r i hr hi => ?_, fun r j hr hj => ?_, hframe⟩
    · show natOf (t.spadRead k (o + r * (shapeOf e.x).sa) (rowBytes q.fmt (shapeOf e.x).n)) / _ % _ = _
      rw [hrow r hr]
      exact MqEntry.field_quantRow hwhole hi
    · have h2 := hscale r j hr hj
      rw [spadRead_two] at h2
      obtain ⟨hbyte, hzero⟩ := List.cons_eq_cons.mp h2
      exact ⟨hbyte, List.head_eq_of_cons_eq hzero⟩
  · intro m code hcode hpin
    subst hdt
    have hne : e.tile2 ≠ 0 := hd0.ne'
    obtain ⟨t, hexec, hmq, hbytes, hslugs, hu⟩ := exec_tamax hd ho hv (x := BitVec.ofNat 64 code) (by rw [hcode]) hpin
    refine ⟨⟨t, hexec, hmq, hbytes, hslugs, ?_⟩, fun hnan => hcode.trans (Forme.tileMax_of_nan hnan), fun x hx => ?_⟩
    · rw [hu]
      refine ⟨fun hfree => Slug.readG_deliverG hfree hne _, fun hnd hh => ⟨Slug.regsBut_deliverG hh hne _, ?_⟩,
        Slug.not_mem_pendingG_deliverG _ _ _⟩
      rw [Slug.deliverG_of_handling hh hne]
    · rw [hcode]
      exact Forme.rounds_tileMax hr hc hx

end Sys2Proof
